-- ==== Sys2Proof/Word.lean ====
section
/-! DEFINITION. The word types of the XV7: bytes, halfwords, words, doublewords, and the index types of its units. -/

namespace Sys2Proof

/-- One byte. -/
abbrev Byte := BitVec 8
/-- A 64-bit register or doubleword. -/
abbrev Word := BitVec 64
/-- A 52-bit device physical address (chapter 10, R209), held in a register of 64 bits where it is computed. -/
abbrev Dpa := Nat
/-- A tile, T000 to T255 (R13). -/
abbrev TileId := Fin 256
/-- A quad, Q0 to Q63 (R14). -/
abbrev QuadId := Fin 64
/-- A parcel ID, 0 to 63 (R404). -/
abbrev ParcelId := Fin 64
/-- A cellar slice, S0 to S63 (R18). -/
abbrev SliceId := Fin 64
/-- A stack, M0 to M7. -/
abbrev StackId := Fin 8
/-- A data-mover group, DG0 to DG63. -/
abbrev GroupId := Fin 64
/-- A channel of a group, 0 to 15. -/
abbrev ChanId := Fin 16
/-- A compression, digest or sort engine, 0 to 15 (R20). -/
abbrev EngId := Fin 16
/-- A cask port, CP0 to CP15. -/
abbrev CaskId := Fin 16
/-- A function: 0 PF0 of HPA, 1 PF0 of HPB, v + 1 for VFv (chapter 21). -/
abbrev FnId := Fin 66
/-- A task window of a function (R352). -/
abbrev WinNo := Fin 64
/-- A mailbox channel, 0 to 127. -/
abbrev MbxId := Fin 128
/-- A register field of 5 bits that names an s, v or f register. -/
abbrev Reg := BitVec 5
/-- A predicate register, p0 to p7. -/
abbrev PReg := BitVec 3

/-- The two's complement value of the low `w` bits of `n`. -/
def toSigned (w n : Nat) : Int :=
  let m := n % 2 ^ w
  if m < 2 ^ (w - 1) then (m : Int) else (m : Int) - (2 ^ w : Nat)

/-- The low `w` bits of an integer, as a natural number. -/
def ofInt (w : Nat) (z : Int) : Nat := (z % ((2 ^ w : Nat) : Int)).toNat

end Sys2Proof
end

