-- ==== Sys2Proof/Syntax.lean ====
section
/-! DEFINITION. The commands the XV7 takes: one constructor of `Instr` per row of the opcode table, with its operands. -/

namespace Sys2Proof

/-- Who issues a register access: a host function, or a management core running the firmware (R404, R223, R420). -/
inductive Who where
  | fn (f : FnId)
  | firmware (core : Fin 4)
  deriving DecidableEq, Repr

/-- A host port (chapter 22). -/
inductive Port where
  | hpa | hpb
  deriving DecidableEq, Repr

/-- The form of a request to a BAR: one that a port serves, one outside the limits of R452, or one that depends on a feature that no port
has (R450, Table 2): an IDE TLP, a translated request, an AtomicOp. -/
inductive TlpForm where
  | plain | outside | ide | translated | atomicOp
  deriving DecidableEq, Repr

/-- The bytes of a register that a request names, and the request's form. -/
structure Lanes where
  mask : BitVec 8
  form : TlpForm := .plain
  deriving DecidableEq, Repr

/-- ECC errors that the lines of a way of a tile cache have met: the way, corrected errors since the last report, and the sets whose line met an
uncorrectable one (R241, R242). -/
structure WayErrors where
  way : Fin 8
  corrected : BitVec 5
  bad : List (Fin 256)
  deriving DecidableEq, Repr

/-- A feature that a capability structure of PF0's configuration space stands for (Tables 1 and 2 of chapter 22). -/
inductive Capability where
  | msix | sriov | aer | ptm | ltr | l0p | readiness | flr | dvsec
  | ide | tdisp | ats | pri | pasid | cxl | atomicOp | aspmL0s | aspmL1 | l1Substates | resizableBar | acs | dpc
  deriving DecidableEq, Repr

/-- A field of the SR-IOV Extended Capability (R405). -/
inductive SriovField where
  | firstVfOffset | vfStride | totalVfs | vfEnable
  deriving DecidableEq, Repr

/-- A field of the configuration header that says what a function is (R2, R489). -/
inductive IdField where
  | vendorId | deviceId | classCode
  deriving DecidableEq, Repr

/-- What a port's capabilities offer (Table 1 of chapter 22): data rate in GT/s, width in lanes, operation outside flit mode, 10-bit and 14-bit
tags, payload, read request and completion boundary in bytes, the longest completion timeout in µs and whether it can be disabled, MSI-X
vectors; and the non-posted requests that may be outstanding with the tags in use. -/
inductive PortLimit where
  | rate | width | nonFlit | tag10 | tag14 | payload | readRequest | readBoundary | timeout | timeoutDisable | vectors | outstanding
  deriving DecidableEq, Repr

/-- A setting of PF0's configuration space (Table 1 of chapter 22): payload and read request size in bytes, completion timeout in µs, and the tags
in use. -/
inductive PortSetting where
  | payload | readRequest | timeout | tag10 | tag14
  deriving DecidableEq, Repr

/-- An error that AER logs for an endpoint (Table 1 of chapter 22). -/
inductive AerError where
  | dataLink | poisonedTlp | flowControl | completionTimeout | completerAbort | unexpectedCompletion | receiverOverflow | malformedTlp
  | unsupportedRequest | uncorrectableInternal | receiver | badTlp | badDllp | replayRollover | replayTimeout | advisory | correctableInternal
  deriving DecidableEq, Repr

/-- A configuration request to a VF: a search for a capability, or a write of MSI-X Enable and Function Mask. -/
inductive VfReq where
  | capability (c : Capability)
  | msixControl (enable mask : Bool)
  deriving DecidableEq, Repr

/-- A configuration request to a PF0, or to a VF of its port: a read of an identity field of its header, of HP_PORT, of what a capability offers,
of a setting or of an AER error; a search for a capability; a read of a field of the SR-IOV capability; a write of its VF Enable, of MSI-X
Enable and Function Mask, of a setting, or of 1 to an AER error; or any of these in an IDE TLP. -/
inductive CfgReq where
  | identity (f : IdField)
  | hpPort
  | capability (c : Capability)
  | sriov (f : SriovField)
  | setVfEnable (on : Bool)
  | ideTlp
  | limit (l : PortLimit)
  | setting (x : PortSetting)
  | setSetting (x : PortSetting) (value : Nat)
  | msixControl (enable mask : Bool)
  | aerError (e : AerError)
  | aerClear (e : AerError)
  | vf (v : Fin 64) (r : VfReq)
  deriving DecidableEq, Repr

/-- A task window (R352): function and number. -/
structure Window where
  fn : FnId
  w : WinNo
  deriving DecidableEq, Repr

/-- What a read that the engine issued to the outside brings back (R358, R75): data, an error completion or a completion
timeout, or poisoned data. -/
inductive ReadResult where
  | data (bytes : List Byte)
  | error
  | poisoned
  deriving DecidableEq, Repr

/-- What the check symbols of a line say when it is read (R219, R220). -/
inductive Ecc where
  | clean | corrected | uncorrectable
  deriving DecidableEq, Repr

/-- Scalar integer operations, major 0x01 (chapter 05, Table 4). -/
inductive SaluOp where
  | add | sub | and | or | xor | sll | srl | sra | slt | sltu | mul | mulh | mulhu | div | divu | rem | remu
  | min | max | minu | maxu | popc | clz | ctz
  deriving DecidableEq, Repr

/-- Immediate operations, majors 0x02 to 0x07. -/
inductive ImmOp where
  | addi | andi | ori | xori | slti | sltiu
  deriving DecidableEq, Repr

/-- Kinds of SHIFTI. -/
inductive ShiftKind where
  | sll | srl | sra
  deriving DecidableEq, Repr

/-- Branch conditions, majors 0x10 to 0x15. -/
inductive BrCond where
  | eq | ne | lt | ge | ltu | geu
  deriving DecidableEq, Repr

/-- Scalar floating-point operations, major 0x19. -/
inductive SfpOp where
  | fadd | fsub | fmul | fdiv | fsqrt | fmin | fmax | feq | flt | fle | fcvtFX | fcvtXF | fmvXF | fmvFX | fma
  deriving DecidableEq, Repr

/-- Vector integer operations other than division, major 0x20. -/
inductive VIntOp where
  | vadd | vsub | vmul | vmulh | vmin | vmax | vsadd | vssub | vabsd
  deriving DecidableEq, Repr

/-- Vector division operations, major 0x20 func 0x04 and 0x05. -/
inductive VDivOp where
  | vdiv | vrem
  deriving DecidableEq, Repr

/-- Vector floating-point operations, major 0x21. -/
inductive VFpOp where
  | vfadd | vfsub | vfmul | vfdiv | vfsqrt | vfmin | vfmax | vfma | vfcvtFX | vfcvtXF | vfabs | vfneg
  deriving DecidableEq, Repr

/-- Vector compares, major 0x22. -/
inductive VCmpOp where
  | eq | ne | lt | le | gt | ge | feq | flt | fle | funord
  deriving DecidableEq, Repr

/-- Vector bitwise and shift operations, major 0x23. -/
inductive VLogicOp where
  | vand | vor | vxor | vandn | vsll | vsr | vnot
  deriving DecidableEq, Repr

/-- Predicate logic, major 0x23 func 0x40 to 0x44. -/
inductive PLogicOp where
  | pand | por | pxor | pandn | pnot
  deriving DecidableEq, Repr

/-- Integer reductions, major 0x26. -/
inductive VRedOp where
  | sum | min | max | and | or | xor
  deriving DecidableEq, Repr

/-- Floating-point reductions, major 0x26 func 0x08 to 0x0A. -/
inductive VFRedOp where
  | sum | min | max
  deriving DecidableEq, Repr

/-- Segmented scans, major 0x27. -/
inductive VScanOp where
  | add | min | max | or
  deriving DecidableEq, Repr

/-- Per-element bit counts, major 0x28. -/
inductive VBitOp where
  | vpopc | vclz | vctz
  deriving DecidableEq, Repr

/-- Memory-side reductions, major 0x2D (R131, R167). -/
inductive RedOp where
  | add | min | max | count | fadd
  deriving DecidableEq, Repr

/-- An access size or index width code: 1, 2, 4 or 8 bytes. -/
abbrev Size := BitVec 2

/-- A unit that walks translation tables (R254): a tile, a mover group, or an engine. -/
inductive WalkUnit where
  | tile (t : TileId) | group (g : GroupId) | ce (e : EngId) | de (e : EngId) | se (e : EngId)
  deriving DecidableEq, Repr

/-- A kind of access that is translated (R246 to R253). -/
inductive AccessKind where
  | load | store | reduce
  deriving DecidableEq, Repr

/-- The requester of a memory request (R212, R216). -/
inductive Master where
  | tile (t : TileId) | group (g : GroupId) | ce (e : EngId) | de (e : EngId) | se (e : EngId)
  | loader (p : ParcelId) | dispatcher (d : Fin 2) (p : ParcelId) | mgmt (core : Fin 4)
  deriving DecidableEq, Repr

/-- The request a slice port serves (R216): a read, or a write of bytes that may carry poison (R221). -/
inductive MemOp where
  | read (len : Nat)
  | write (bytes : List Byte) (poison : Bool)
  deriving DecidableEq, Repr

/-- A wear-state page as a cask reports it (R339, R341). -/
structure WearPage where
  avgPe : BitVec 32
  maxPe : BitVec 32
  spareBlocks : BitVec 32
  readOnly : Bool
  written : BitVec 64
  deriving DecidableEq, Repr

/-- A cask's set record (R377): the engine by its serial, the set's index and generation, its parity count, and the serial of each active member
in member order. -/
structure SetRecord where
  engine : Word
  set : Nat
  generation : Nat
  p : Nat
  serials : List (List Byte)
  deriving DecidableEq, Repr

/-- Data rates that a cask link trains at, in GT/s (R462). -/
inductive LinkRate where
  | gt2 | gt5 | gt8 | gt16 | gt32 | gt64
  deriving DecidableEq, Repr

/-- Widths that a cask link trains at (R462). -/
inductive LinkWidth where
  | x1 | x2 | x4
  deriving DecidableEq, Repr

/-- A cask link that has trained: its port, and the rate and width that it reached. -/
structure LinkTrain where
  port : CaskId
  rate : LinkRate := .gt64
  width : LinkWidth := .x4
  deriving DecidableEq, Repr

/-- The outcome of a cask identity read: the record's 128 bytes, what the on-cask set record names, and the wear-state page (R332, R335, R339). -/
structure CaskIdent where
  record : List Byte
  setRec : Option SetRecord
  page : WearPage
  deriving DecidableEq, Repr

/-- A digest engine's management job (R319). -/
structure MgmtJob where
  alg : BitVec 4
  keySlot : BitVec 8
  keyLoad : Bool
  data : List Byte
  deriving DecidableEq, Repr

/-- An end of a job as the engine meets it: it ran to its end, or a read of its own was stopped by an uncorrectable error
that the memory found on the way. -/
inductive JobEnd where
  | finished
  | poisonedAt (va : Word)
  deriving DecidableEq, Repr

/-- The kinds of boundary-scan and other instructions of the TAP (R506). SAMPLE/PRELOAD carries what the scan that follows shifts into the boundary
register: levels of balls, by row index and column. `reset` is Test-Logic-Reset, by TRST# or by TMS. -/
inductive TapInstr where
  | bypass | idcode | sample | preload (levels : List ((Nat × Nat) × Bool)) | extest | clamp | highz | other (code : BitVec 8) | reset
  deriving DecidableEq, Repr

/-- How a controller addresses a target on the sideband (R504): an address, in an I3C private transfer or in a legacy I²C one. -/
structure I3cTo where
  addr : BitVec 7 := 0x4E
  legacy : Bool := false
  deriving DecidableEq, Repr

/-- A write on the sideband. -/
structure I3cWrite where
  dest : I3cTo := {}
  bytes : List Byte
  deriving DecidableEq, Repr

/-- A read on the sideband. -/
structure I3cRead where
  dest : I3cTo := {}
  len : Nat
  deriving DecidableEq, Repr

/-- A write of BOOT_REC_CTL by the recovery host: its value, and whether the load into the window reported an error (R486). -/
structure RecGo where
  value : Word
  failed : Bool := false
  deriving DecidableEq, Repr

/-- The commands of the XV7: one constructor per row of the opcode table. -/
inductive Instr where
  -- frames (chapter 02)
  | globalBoundary
  | guardWindowOpen
  | frmPeriodWrite (who : Who) (value : Word)
  | frmHoldLimitWrite (who : Who) (value : Word)
  | ptmRequestTimer
  | ptmDialogueComplete (hostNs : Word)
  | frmPtmFrameRead (who : Who)
  | frmPtmHostRead (who : Who)
  -- pipeline images (chapter 03)
  | loadImage (win : Window)
  | imageStreamData (p : ParcelId) (r : ReadResult)
  | tiledataCopyDone (p : ParcelId)
  | unloadImage (win : Window)
  -- scalar instructions (chapter 05)
  | salu (t : TileId) (op : SaluOp) (rd rs1 rs2 : Reg)
  | aluImmediate (t : TileId) (op : ImmOp) (rd rs1 : Reg) (imm : BitVec 16)
  | lui (t : TileId) (rd : Reg) (imm : BitVec 16)
  | shifti (t : TileId) (kind : ShiftKind) (rd rs1 : Reg) (count : BitVec 6)
  | crc32cD (t : TileId) (rd rs1 rs2 : Reg)
  | sld (t : TileId) (uns : Bool) (size : Size) (rd rs1 : Reg) (imm : BitVec 13)
  | sst (t : TileId) (size : Size) (rd rs1 : Reg) (imm : BitVec 13)
  | sldt (t : TileId) (uns : Bool) (size : Size) (rd rs1 : Reg) (imm : BitVec 13)
  | sstt (t : TileId) (size : Size) (rd rs1 : Reg) (imm : BitVec 13)
  | branch (t : TileId) (cond : BrCond) (rs1 rs2 : Reg) (off : BitVec 16)
  | jal (t : TileId) (rd : Reg) (off : BitVec 21)
  | jalr (t : TileId) (rd rs1 : Reg) (imm : BitVec 16)
  | sfp (t : TileId) (op : SfpOp) (dbl : Bool) (rd rs1 rs2 : Reg)
  | illegalInstruction (t : TileId)
  -- vector instructions (chapter 05)
  | vintArith (t : TileId) (op : VIntOp) (vs : Bool) (rd rs1 rs2 : Reg) (pred : PReg)
  | vdiv (t : TileId) (op : VDivOp) (vs : Bool) (rd rs1 rs2 : Reg) (pred : PReg)
  | vfpArith (t : TileId) (op : VFpOp) (vs : Bool) (rd rs1 rs2 : Reg) (pred : PReg)
  | vcmp (t : TileId) (op : VCmpOp) (vs : Bool) (pd : PReg) (rs1 rs2 : Reg) (pred : PReg)
  | vlogic (t : TileId) (op : VLogicOp) (vs : Bool) (rd rs1 rs2 : Reg) (pred : PReg)
  | predicateLogic (t : TileId) (op : PLogicOp) (pd ps1 ps2 : PReg)
  | vsel (t : TileId) (rd rs1 rs2 : Reg) (pred : PReg)
  | vcompress (t : TileId) (rd rs1 : Reg) (pred : PReg)
  | vexpand (t : TileId) (rd rs1 : Reg) (pred : PReg)
  | vmv (t : TileId) (rd rs1 : Reg) (pred : PReg)
  | vmvVs (t : TileId) (rd rs1 : Reg) (pred : PReg)
  | vmvSv (t : TileId) (rd rs1 rs2 : Reg)
  | vins (t : TileId) (rd rs1 rs2 : Reg)
  | viota (t : TileId) (rd : Reg) (pred : PReg)
  | vperm (t : TileId) (rd rs1 rs2 : Reg) (pred : PReg)
  | vslideup (t : TileId) (rd rs1 rs2 : Reg) (pred : PReg)
  | vslidedn (t : TileId) (rd rs1 rs2 : Reg) (pred : PReg)
  | vrev (t : TileId) (rd rs1 : Reg) (pred : PReg)
  | vred (t : TileId) (op : VRedOp) (rd rs1 rs2 : Reg) (pred : PReg)
  | vfredsum (t : TileId) (op : VFRedOp) (rd rs1 rs2 : Reg) (pred : PReg)
  | vscan (t : TileId) (op : VScanOp) (rd rs1 : Reg) (seg pred : PReg)
  | vpopc (t : TileId) (op : VBitOp) (rd rs1 : Reg) (pred : PReg)
  | pcnt (t : TileId) (rd : Reg) (ps : PReg)
  | pfirst (t : TileId) (rd : Reg) (ps : PReg)
  | vcrc32c (t : TileId) (rd rs1 rs2 : Reg) (pred : PReg)
  | vcrc32cE (t : TileId) (rd rs1 rs2 : Reg) (pred : PReg)
  | vld (t : TileId) (ts ff : Bool) (rd rs1 : Reg) (pred : PReg)
  | vst (t : TileId) (ts : Bool) (rd rs1 : Reg) (pred : PReg)
  | vlds (t : TileId) (ts ff : Bool) (rd rs1 rs2 : Reg) (pred : PReg)
  | vsts (t : TileId) (ts : Bool) (rd rs1 rs2 : Reg) (pred : PReg)
  | vgather (t : TileId) (ts ff : Bool) (iw : Size) (sc : Bool) (rd rs1 rs2 : Reg) (pred : PReg)
  | vscatter (t : TileId) (ts : Bool) (iw : Size) (sc : Bool) (rd rs1 rs2 : Reg) (pred : PReg)
  | vhash (t : TileId) (slot : BitVec 3) (rd rs1 : Reg) (pred : PReg)
  | vhashT (t : TileId) (slot : BitVec 3) (rd rs1 rs2 : Reg) (pred : PReg)
  | vunpk (t : TileId) (n1 : BitVec 6) (sx : Bool) (rd rs1 rs2 : Reg) (pred : PReg)
  | vdict (t : TileId) (iw : Size) (rd rs1 rs2 : Reg) (pred : PReg)
  | vsort (t : TileId) (k m : BitVec 4) (rd rs1 : Reg)
  | vredM (t : TileId) (op : RedOp) (rd rs1 rs2 : Reg) (pred : PReg)
  -- system, frame and dispatcher instructions (chapter 05)
  | csrr (t : TileId) (rd : Reg) (csr : BitVec 12)
  | csrw (t : TileId) (csr : BitVec 12) (rs1 : Reg)
  | obxLenWrite (t : TileId) (rs1 : Reg)
  | estop (t : TileId) (rs1 : Reg)
  | eret (t : TileId)
  | fdone (t : TileId)
  | fdoneEos (t : TileId)
  | dqGet (t : TileId) (rd rs1 : Reg)
  | dqDelivery (t : TileId)
  | dqDone (t : TileId)
  | dqPut (t : TileId) (rd rs1 : Reg)
  | vsetvl (t : TileId) (rd rs1 : Reg) (vt : BitVec 3)
  | fence (t : TileId)
  -- cache and TLB maintenance (chapter 05)
  | dcCleanVa (t : TileId) (rs1 : Reg)
  | dcInvVa (t : TileId) (rs1 : Reg)
  | dcCinvVa (t : TileId) (rs1 : Reg)
  | dcCleanRange (t : TileId) (rs1 rs2 : Reg)
  | dcInvRange (t : TileId) (rs1 rs2 : Reg)
  | dcCinvRange (t : TileId) (rs1 rs2 : Reg)
  | dcCleanAll (t : TileId)
  | dcInvAll (t : TileId)
  | dcCinvAll (t : TileId)
  | tlbiVa (t : TileId) (rs1 rs2 : Reg)
  | tlbiAst (t : TileId) (rs1 : Reg)
  | tlbiAll (t : TileId)
  | tlbiVaP (t : TileId) (rs1 rs2 : Reg)
  | tlbiAstP (t : TileId) (rs1 : Reg)
  | tlbiAllP (t : TileId)
  | tlbsync (t : TileId)
  | invalidationComplete (p : ParcelId)
  -- column decoders (chapter 06) and tile frame interface (chapter 04)
  | decodeDoorbell (t : TileId) (rd : Reg)
  | decodeCommandBegin (t : TileId)
  | decodeStep (t : TileId)
  | decodeStall (t : TileId)
  | recordDelivery (src : TileId)
  | tilResetGo (who : Who) (t : TileId)
  | tileResetDone (t : TileId)
  -- sort engines (chapter 08), reductions (chapter 07), memory (chapter 10)
  | sortDoorbell (t : TileId) (rd : Reg)
  | sortJobEnd (e : EngId)
  | reductionApply (n : Nat)
  | memoryRequest (m : Master) (dpa : Word) (op : MemOp) (ecc : Ecc)
  | scrubLine (k : StackId) (ecc : List Ecc)
  | memScrubCtlWrite (who : Who) (k : StackId) (value : Word)
  | memUeAddrClear (who : Who) (k : StackId)
  -- tile cache (chapter 11)
  | cacheLineFill (t : TileId) (dpa : Word)
  | prefetchFill (t : TileId)
  | sideLineExpire (t : TileId)
  | ceWindowEnd (t : TileId)
  | cacheWayDisable (t : TileId) (w : WayErrors)
  | tchCtlWrite (who : Who) (t : TileId) (value : Word)
  | tchDisableDone (t : TileId)
  | tchMaintCleanAll (who : Who) (t : TileId)
  | tchMaintInvalidateAll (who : Who) (t : TileId)
  | tchMaintCleanInvalidate (who : Who) (t : TileId)
  | tchMaintDone (t : TileId)
  -- translation (chapter 12)
  | walkDescriptorRead (u : WalkUnit) (va : Word) (k : AccessKind) (ecc : Ecc) (busError : Bool)
  | mmuInvByAddress (who : Who) (t : TileId) (parcelWide : Bool)
  | mmuInvByAst (who : Who) (t : TileId) (parcelWide : Bool)
  | mmuInvAll (who : Who) (t : TileId) (parcelWide : Bool)
  | map (win : Window)
  | unmap (win : Window)
  -- data movers (chapter 13)
  | dmaStart (who : Who) (g : GroupId) (c : ChanId) (ctl : Word)
  | dmaAbort (who : Who) (g : GroupId) (c : ChanId)
  | dmaRequest (g : GroupId) (c : ChanId) (src : BitVec 3)
  | moverDoorbell (t : TileId) (rd : Reg)
  | burstStart (g : GroupId) (c : ChanId)
  | burstComplete (g : GroupId) (c : ChanId) (r : ReadResult)
  | dmaBusError (g : GroupId) (c : ChanId) (dpa : Word) (onWrite : Bool)
  | dmaGStoppedClear (who : Who) (g : GroupId)
  -- compression (chapter 14)
  | compressionDoorbell (t : TileId) (rd : Reg)
  | cmpJobSuspend (e : EngId)
  | cmpOutputBlock (e : EngId)
  | cmpJobEnd (e : EngId) (upset : Nat)
  -- digest engines (chapter 15)
  | digestDoorbell (t : TileId) (rd : Reg)
  | dgtJobSuspend (e : EngId)
  | dgtJobEnd (e : EngId)
  | managementJobStart (e : EngId) (job : MgmtJob)
  | managementJobDone (e : EngId)
  | dgtKeyOwnWrite (who : Who) (j : Fin 32) (value : Word)
  | dgtCmpGo (who : Who) (value : Word)
  | dgtCompareDone
  -- casks (chapter 16)
  | caskPresenceChange (n : CaskId) (present : Bool)
  | cskPerstRelease (n : CaskId)
  | caskLinkUp (l : LinkTrain)
  | caskLinkTimeout (n : CaskId)
  | caskIdentified (n : CaskId) (ident : CaskIdent)
  | caskLinkDown (n : CaskId)
  | caskFatalReport (n : CaskId)
  | caskCommandTimeout (n : CaskId)
  | caskWearRead (n : CaskId) (page : WearPage)
  | caskWearSample (n : CaskId)
  | slowReadTimeout (n : CaskId)
  | caskReadDone (n : CaskId) (r : ReadResult)
  | stripeMoveCommit (n : CaskId)
  | migrationComplete (n : CaskId)
  | rebuildComplete (n : CaskId)
  | caskPrepareRemove (win : Window)
  | cskRackShareWrite (who : Who) (n : CaskId) (value : Word)
  | cskRackLiveWrite (who : Who) (n : CaskId) (value : Word)
  -- task windows (chapter 17)
  | taskSubmit (win : Window) (off : BitVec 6) (bytes : List Byte)
  | unlistedOpcode (win : Window)
  | commandDataRead (win : Window) (tag : BitVec 16) (r : ReadResult) (got : Nat)
  -- storage (chapter 18)
  | read (win : Window)
  | write (win : Window) (hostData : List Byte)
  | flush (win : Window)
  | deallocate (win : Window)
  | stripeCloseTimeout (set : Fin 16)
  | stripeChunksAcked (set : Fin 16)
  | stripeCommit (set : Fin 16)
  | journalReplayDone (set : Fin 16)
  | nsReadaheadReady (g : GroupId) (c : ChanId)
  | execute (win : Window)
  | cancel (win : Window)
  | resume (win : Window)
  | queryStatus (win : Window)
  | cellarCopy (win : Window)
  | createNs (win : Window)
  | deleteNs (win : Window)
  | attachNs (win : Window)
  | identify (win : Window)
  | getLog (win : Window)
  | setFeature (win : Window)
  | getFeature (win : Window)
  | fwStage (win : Window)
  | fwCommit (win : Window)
  -- parcels (chapter 19)
  | parcelCreate (win : Window)
  | parcelBuildDone (p : ParcelId)
  | parcelDestroy (win : Window)
  | parcelReset (win : Window)
  | vfFlr (v : Fin 64)
  | tskCqCfgWrite (who : Who) (win : Window) (value : Word)
  | tskCqBaseWrite (who : Who) (win : Window) (value : Word)
  | tskCqHeadWrite (who : Who) (win : Window) (value : Word)
  | tskWparcelWrite (who : Who) (win : Window) (value : Word)
  | parcelIdleTimeout (p : ParcelId)
  | powerStateExitDone (p : ParcelId)
  | ps4IdleTimeout
  | pclFrameDivWrite (who : Who) (p : ParcelId) (value : Word)
  | pclParkLimitWrite (who : Who) (p : ParcelId) (value : Word)
  | pclVfSplitWrite (who : Who) (value : Word)
  | pclIdleWrite (who : Who) (p : ParcelId) (k : Fin 3) (value : Word)
  -- mailboxes and locks (chapter 20)
  | mbxSend (who : Who) (c : MbxId) (value : Word)
  | mbxTake (who : Who) (c : MbxId)
  | mbxStaleTimeout (c : MbxId)
  | mbxBindWrite (who : Who) (c : MbxId) (value : Word)
  | mbxBindLockSet (who : Who) (value : Word)
  | lockRead (who : Who) (n : Fin 64)
  | lockWrite (who : Who) (n : Fin 64) (value : Word)
  | lckForce (who : Who) (value : Word)
  -- events (chapter 21)
  | evtRouteWrite (who : Who) (n : Fin 1280) (value : Word)
  | evtPendClear (who : Who) (n : Fin 20) (value : Word)
  | evtRingCfgWrite (who : Who) (f : FnId) (isBase : Bool) (value : Word)
  | evtRingHeadWrite (who : Who) (f : FnId) (value : Word)
  -- host ports (chapter 22)
  | hostLinkDown (port : Port)
  | perstAssert (port : Port) (mgrStrap bootSrc : Bool)
  | pf0Flr (port : Port)
  | configRequest (port : Port) (req : CfgReq)
  | portOrderReadDone (port : Port) (failed : Bool)
  -- health (chapter 23)
  | oscillatorMeasure (q : QuadId) (ppm : BitVec 32)
  | linkMarginMeasure (n : Fin 18) (margin : BitVec 16)
  | poweredDayEnd
  | i3cPrivateWrite (w : I3cWrite)
  | i3cPrivateRead (r : I3cRead)
  | hltCeLimitWrite (who : Who) (value : Word)
  -- power, reset and boot (chapter 24)
  | coldPowerOn (mgrStrap bootSrc : Bool)
  | railLoss (r : Fin 10)
  | refclkSysLoss
  | temperatureUpdate (die : Fin 3) (dieTemp : BitVec 8) (stack : StackId) (stackTemp : BitVec 8)
  | thermalTrip (die : Fin 3) (temp : BitVec 8)
  | rstCtlWrite (who : Who) (value : Word)
  | watchdogExpiry
  | firmwareReady (micros : BitVec 32) (failedStacks : BitVec 8)
  | bootRecGo (g : RecGo)
  | pwrCtlWrite (who : Who) (value : Word)
  | pwrPs4IdleWrite (who : Who) (value : Word)
  | stoCtlWrite (who : Who) (value : Word)
  | dspAffDepthWrite (who : Who) (value : Word)
  | tapInstructionLoad (x : TapInstr)
  -- registers (chapter 00): an offset of 0x1000_0000 and above lies in the BAR2 of a PF0
  | rcRead (who : Who) (off : BitVec 29) (lanes : Lanes)
  | registerWrite (who : Who) (off : BitVec 29) (lanes : Lanes) (value : Word)
  -- power, reset and links (chapters 16, 22, 24, 25)
  | vddAonLoss
  | railsGood
  | perstDeassert (port : Port)
  | hostLinkUp (port : Port)
  | dynamicAddressAssignment (addr : BitVec 7)
  | linkErrorCorrected (n : CaskId)
  | parcelResetComplete (p : ParcelId)
  | quiescingEnd (p : ParcelId)
  | attentionIndicatorBlink (n : CaskId)
  | msixVectorUnmask (f : FnId) (v : BitVec 11)
  deriving DecidableEq, Repr

end Sys2Proof
end

