-- ==== Sys2Proof/WellFormed.lean ====
section
/-! DEFINITION. Which commands are well formed: those whose operands the spec's encoding or interface admits. -/

namespace Sys2Proof

/-- Scalar operations on one source: POPC, CLZ and CTZ, whose rs2 field is 0 (chapter 05, Table 4). -/
def SaluOp.unary : SaluOp → Bool
  | .popc | .clz | .ctz => true
  | _ => false

/-- Floating-point vector operations that have a .VS form (Table 5). -/
def VFpOp.hasVs : VFpOp → Bool
  | .vfadd | .vfsub | .vfmul | .vfdiv | .vfmin | .vfmax | .vfma => true
  | _ => false

/-- Floating-point vector operations whose rs2 field is 0. -/
def VFpOp.unary : VFpOp → Bool
  | .vfsqrt | .vfabs | .vfneg => true
  | _ => false

/-- Number of entries of a function's MSI-X table. -/
def msixEntries (f : FnId) : Nat := if f.val < 2 then 2048 else 256

/-- Whether a command is well formed. A tile instruction has an encoding (R105, R106); a write to a task window stays within its 64-byte
block (R452); a register access names a register that is aligned to 8 bytes; a message vector lies in its table; a line is 64-byte aligned; an
xSPI, I3C or memory request has at least one byte. -/
def wellFormed : Instr → Bool
  | .salu _ op _ _ rs2 => !op.unary || rs2 == 0
  | .sfp _ op _ _ _ rs2 => op != .fsqrt || rs2 == 0
  | .vfpArith _ op vs _ _ rs2 _ => (op.hasVs || !vs) && (!op.unary || rs2 == 0)
  | .vlogic _ op vs _ _ rs2 _ => op != .vnot || (!vs && rs2 == 0)
  | .csrw _ csr _ => csr != 0x032 && csr != 0x006
  | .taskSubmit _ off bytes => decide (1 ≤ bytes.length) && decide (off.toNat + bytes.length ≤ 64)
  | .rcRead _ off lanes => off.toNat % 8 == 0 && lanes.mask != 0
  | .registerWrite _ off lanes _ => off.toNat % 8 == 0 && lanes.mask != 0
  | .msixVectorUnmask f v => decide (v.toNat < msixEntries f)
  | .cacheLineFill _ dpa => dpa.toNat % 64 == 0
  | .memoryRequest _ _ (.read n) _ => decide (1 ≤ n) && decide (n ≤ 64)
  | .memoryRequest _ _ (.write bs _) _ => decide (1 ≤ bs.length) && decide (bs.length ≤ 64)
  | .i3cPrivateWrite w => !w.bytes.isEmpty
  | .i3cPrivateRead r => decide (1 ≤ r.len)
  | .scrubLine _ ecc => decide (ecc.length ≤ 64)
  | .caskIdentified _ ident => ident.record.length == 128
  | .managementJobStart _ job => decide (job.data.length ≤ 4096)
  | _ => true

end Sys2Proof
end

