-- ==== Sys2Proof/Decode.lean ====
section
/-! DEFINITION. The command that a table word spells, and the words of Yilnel, the tile's instruction set (R105, R106; Tables 1 to 12 of
chapter 05): decoding, total over 32-bit words, and after it the encoder. -/

namespace Sys2Proof

/-- The command that a word spells by the table's bits: no row of the table gives bits. -/
def decodeTableWord (_nbits _w : Nat) : Option Instr := none

-- ## Operation codes

/-- func of a scalar operation, major 0x01 (Table 4). -/
def SaluOp.code : SaluOp → Nat
  | .add => 0x00 | .sub => 0x01 | .and => 0x02 | .or => 0x03 | .xor => 0x04 | .sll => 0x05 | .srl => 0x06 | .sra => 0x07
  | .slt => 0x08 | .sltu => 0x09 | .mul => 0x0A | .mulh => 0x0B | .mulhu => 0x0C | .div => 0x0D | .divu => 0x0E | .rem => 0x0F
  | .remu => 0x10 | .min => 0x11 | .max => 0x12 | .minu => 0x13 | .maxu => 0x14 | .popc => 0x15 | .clz => 0x16 | .ctz => 0x17

/-- The scalar operations in the order of their func values. -/
def SaluOp.all : List SaluOp :=
  [.add, .sub, .and, .or, .xor, .sll, .srl, .sra, .slt, .sltu, .mul, .mulh, .mulhu, .div, .divu, .rem, .remu, .min, .max, .minu, .maxu,
   .popc, .clz, .ctz]

/-- Major of an immediate operation. -/
def ImmOp.code : ImmOp → Nat
  | .addi => 0x02 | .andi => 0x03 | .ori => 0x04 | .xori => 0x05 | .slti => 0x06 | .sltiu => 0x07
/-- The immediate operations, from major 0x02. -/
def ImmOp.all : List ImmOp := [.addi, .andi, .ori, .xori, .slti, .sltiu]

/-- Kind of a shift. -/
def ShiftKind.code : ShiftKind → Nat
  | .sll => 0 | .srl => 1 | .sra => 2
/-- The shifts by kind. -/
def ShiftKind.all : List ShiftKind := [.sll, .srl, .sra]

/-- A branch's place from major 0x10. -/
def BrCond.code : BrCond → Nat
  | .eq => 0 | .ne => 1 | .lt => 2 | .ge => 3 | .ltu => 4 | .geu => 5
/-- The branches, from major 0x10. -/
def BrCond.all : List BrCond := [.eq, .ne, .lt, .ge, .ltu, .geu]

/-- op of a scalar floating-point operation. -/
def SfpOp.code : SfpOp → Nat
  | .fadd => 0 | .fsub => 1 | .fmul => 2 | .fdiv => 3 | .fsqrt => 4 | .fmin => 5 | .fmax => 6 | .feq => 7 | .flt => 8 | .fle => 9
  | .fcvtFX => 10 | .fcvtXF => 11 | .fmvXF => 12 | .fmvFX => 13 | .fma => 14
/-- The scalar floating-point operations by op. -/
def SfpOp.all : List SfpOp :=
  [.fadd, .fsub, .fmul, .fdiv, .fsqrt, .fmin, .fmax, .feq, .flt, .fle, .fcvtFX, .fcvtXF, .fmvXF, .fmvFX, .fma]

/-- func of a vector integer operation, bit 7 apart (Table 5). -/
def VIntOp.code : VIntOp → Nat
  | .vadd => 0x00 | .vsub => 0x01 | .vmul => 0x02 | .vmulh => 0x03 | .vmin => 0x06 | .vmax => 0x07 | .vsadd => 0x08 | .vssub => 0x09
  | .vabsd => 0x0A
/-- The vector integer operation of a func. -/
def VIntOp.ofCode : Nat → Option VIntOp
  | 0x00 => some .vadd | 0x01 => some .vsub | 0x02 => some .vmul | 0x03 => some .vmulh | 0x06 => some .vmin | 0x07 => some .vmax
  | 0x08 => some .vsadd | 0x09 => some .vssub | 0x0A => some .vabsd | _ => none

/-- func of a vector division. -/
def VDivOp.code : VDivOp → Nat
  | .vdiv => 0x04 | .vrem => 0x05

/-- func of a vector floating-point operation. -/
def VFpOp.code : VFpOp → Nat
  | .vfadd => 0x00 | .vfsub => 0x01 | .vfmul => 0x02 | .vfdiv => 0x03 | .vfsqrt => 0x04 | .vfmin => 0x05 | .vfmax => 0x06 | .vfma => 0x07
  | .vfcvtFX => 0x08 | .vfcvtXF => 0x09 | .vfabs => 0x0A | .vfneg => 0x0B
/-- The vector floating-point operations by func. -/
def VFpOp.all : List VFpOp :=
  [.vfadd, .vfsub, .vfmul, .vfdiv, .vfsqrt, .vfmin, .vfmax, .vfma, .vfcvtFX, .vfcvtXF, .vfabs, .vfneg]

/-- func of a compare. -/
def VCmpOp.code : VCmpOp → Nat
  | .eq => 0x00 | .ne => 0x01 | .lt => 0x02 | .le => 0x03 | .gt => 0x04 | .ge => 0x05 | .feq => 0x08 | .flt => 0x09 | .fle => 0x0A
  | .funord => 0x0B
/-- The compare of a func. -/
def VCmpOp.ofCode : Nat → Option VCmpOp
  | 0x00 => some .eq | 0x01 => some .ne | 0x02 => some .lt | 0x03 => some .le | 0x04 => some .gt | 0x05 => some .ge
  | 0x08 => some .feq | 0x09 => some .flt | 0x0A => some .fle | 0x0B => some .funord | _ => none

/-- func of a bitwise or shift operation. -/
def VLogicOp.code : VLogicOp → Nat
  | .vand => 0x00 | .vor => 0x01 | .vxor => 0x02 | .vandn => 0x03 | .vsll => 0x04 | .vsr => 0x05 | .vnot => 0x06
/-- The bitwise and shift operations by func. -/
def VLogicOp.all : List VLogicOp := [.vand, .vor, .vxor, .vandn, .vsll, .vsr, .vnot]

/-- func of predicate logic, from 0x40. -/
def PLogicOp.code : PLogicOp → Nat
  | .pand => 0 | .por => 1 | .pxor => 2 | .pandn => 3 | .pnot => 4
/-- Predicate logic, from func 0x40. -/
def PLogicOp.all : List PLogicOp := [.pand, .por, .pxor, .pandn, .pnot]

/-- func of an integer reduction (Table 6). -/
def VRedOp.code : VRedOp → Nat
  | .sum => 0 | .min => 1 | .max => 2 | .and => 3 | .or => 4 | .xor => 5
/-- The integer reductions by func. -/
def VRedOp.all : List VRedOp := [.sum, .min, .max, .and, .or, .xor]

/-- func of a floating-point reduction, from 0x08. -/
def VFRedOp.code : VFRedOp → Nat
  | .sum => 0 | .min => 1 | .max => 2
/-- The floating-point reductions, from func 0x08. -/
def VFRedOp.all : List VFRedOp := [.sum, .min, .max]

/-- func of a scan. -/
def VScanOp.code : VScanOp → Nat
  | .add => 0 | .min => 1 | .max => 2 | .or => 3
/-- The scans by func. -/
def VScanOp.all : List VScanOp := [.add, .min, .max, .or]

/-- func of a bit count. -/
def VBitOp.code : VBitOp → Nat
  | .vpopc => 0 | .vclz => 1 | .vctz => 2
/-- The bit counts by func. -/
def VBitOp.all : List VBitOp := [.vpopc, .vclz, .vctz]

/-- op of a memory-side reduction (R131). -/
def RedOp.code : RedOp → Nat
  | .add => 0 | .min => 1 | .max => 2 | .count => 3 | .fadd => 4
/-- The memory-side reductions by op. -/
def RedOp.all : List RedOp := [.add, .min, .max, .count, .fadd]

-- ## Fields (Table 1)

/-- The field of `len` bits from bit `lo` of an instruction word. -/
def field (n lo len : Nat) : Nat := n / 2 ^ lo % 2 ^ len

/-- Fields of a REG word, taken apart once; `fn` is func. -/
structure RegWord where
  rd : Nat
  rs1 : Nat
  rs2 : Nat
  pred : Nat
  fn : Nat
  deriving DecidableEq, Repr

/-- The fields of a REG word. -/
def regWord (n : Nat) : RegWord := { rd := field n 21 5, rs1 := field n 16 5, rs2 := field n 11 5, pred := field n 8 3, fn := field n 0 8 }

/-- A register operand. -/
def reg (n : Nat) : Reg := BitVec.ofNat 5 n
/-- A predicate operand. -/
def preg (n : Nat) : PReg := BitVec.ofNat 3 n

-- ## Decoding, group by group (Tables 2 and 4 to 12)

/-- Major 0x01. -/
def decSalu (t : TileId) (x : RegWord) : Option Instr :=
  if x.pred ≠ 0 then none
  else if x.fn = 0x18 then some (.crc32cD t (reg x.rd) (reg x.rs1) (reg x.rs2))
  else
    match SaluOp.all[x.fn]? with
    | some op => if op.unary && x.rs2 != 0 then none else some (.salu t op (reg x.rd) (reg x.rs1) (reg x.rs2))
    | none => none

/-- Major 0x19. -/
def decSfp (t : TileId) (x : RegWord) : Option Instr :=
  if x.pred ≠ 0 then none
  else
    match SfpOp.all[x.fn / 2]? with
    | some op => if op == .fsqrt && x.rs2 != 0 then none else some (.sfp t op (x.fn % 2 == 1) (reg x.rd) (reg x.rs1) (reg x.rs2))
    | none => none

/-- Major 0x1A (Table 12). -/
def decMaint (t : TileId) (x : RegWord) : Option Instr :=
  let a := reg x.rs1
  let b := reg x.rs2
  if x.rd ≠ 0 || x.pred ≠ 0 then none
  else
    match x.fn, x.rs1 == 0, x.rs2 == 0 with
    | 0x00, _, true => some (.dcCleanVa t a)
    | 0x01, _, true => some (.dcInvVa t a)
    | 0x02, _, true => some (.dcCinvVa t a)
    | 0x04, _, _ => some (.dcCleanRange t a b)
    | 0x05, _, _ => some (.dcInvRange t a b)
    | 0x06, _, _ => some (.dcCinvRange t a b)
    | 0x08, true, true => some (.dcCleanAll t)
    | 0x09, true, true => some (.dcInvAll t)
    | 0x0A, true, true => some (.dcCinvAll t)
    | 0x10, _, _ => some (.tlbiVa t a b)
    | 0x11, _, true => some (.tlbiAst t a)
    | 0x12, true, true => some (.tlbiAll t)
    | 0x18, _, _ => some (.tlbiVaP t a b)
    | 0x19, _, true => some (.tlbiAstP t a)
    | 0x1A, true, true => some (.tlbiAllP t)
    | 0x20, true, true => some (.tlbsync t)
    | _, _, _ => none

/-- Majors 0x20 to 0x23. -/
def decVarith (t : TileId) (major : Nat) (x : RegWord) : Option Instr :=
  let vs := decide (128 ≤ x.fn)
  let f := x.fn % 128
  let p := preg x.pred
  match major with
  | 0x20 =>
    if f = 0x04 then some (.vdiv t .vdiv vs (reg x.rd) (reg x.rs1) (reg x.rs2) p)
    else if f = 0x05 then some (.vdiv t .vrem vs (reg x.rd) (reg x.rs1) (reg x.rs2) p)
    else (VIntOp.ofCode f).map fun op => .vintArith t op vs (reg x.rd) (reg x.rs1) (reg x.rs2) p
  | 0x21 =>
    match VFpOp.all[f]? with
    | some op =>
      if (vs && !op.hasVs) || (op.unary && x.rs2 != 0) then none else some (.vfpArith t op vs (reg x.rd) (reg x.rs1) (reg x.rs2) p)
    | none => none
  | 0x22 => if 8 ≤ x.rd then none else (VCmpOp.ofCode f).map fun op => .vcmp t op vs (preg x.rd) (reg x.rs1) (reg x.rs2) p
  | _ =>
    if 0x40 ≤ x.fn && x.fn < 0x45 then
      if 8 ≤ x.rd || 8 ≤ x.rs1 || 8 ≤ x.rs2 || x.pred ≠ 0 then none
      else PLogicOp.all[x.fn - 0x40]?.map fun op => .predicateLogic t op (preg x.rd) (preg x.rs1) (preg x.rs2)
    else
      match VLogicOp.all[f]? with
      | some op => if op == .vnot && (vs || x.rs2 != 0) then none else some (.vlogic t op vs (reg x.rd) (reg x.rs1) (reg x.rs2) p)
      | none => none

/-- Majors 0x24 and 0x25. -/
def decVmove (t : TileId) (major : Nat) (x : RegWord) : Option Instr :=
  let d := reg x.rd
  let a := reg x.rs1
  let b := reg x.rs2
  let p := preg x.pred
  match major, x.fn with
  | 0x24, 0x00 => some (.vsel t d a b p)
  | 0x24, 0x01 => some (.vcompress t d a p)
  | 0x24, 0x02 => some (.vexpand t d a p)
  | 0x24, 0x03 => if x.rs2 = 0 then some (.vmv t d a p) else none
  | 0x24, 0x04 => if x.rs2 = 0 then some (.vmvVs t d a p) else none
  | 0x24, 0x05 => if x.pred = 0 then some (.vmvSv t d a b) else none
  | 0x24, 0x06 => if x.pred = 0 then some (.vins t d a b) else none
  | 0x24, 0x07 => if x.rs1 = 0 ∧ x.rs2 = 0 then some (.viota t d p) else none
  | 0x25, 0x00 => some (.vperm t d a b p)
  | 0x25, 0x01 => some (.vslideup t d a b p)
  | 0x25, 0x02 => some (.vslidedn t d a b p)
  | 0x25, 0x03 => if x.rs2 = 0 then some (.vrev t d a p) else none
  | _, _ => none

/-- Majors 0x26 to 0x28 (Table 6). -/
def decVreduce (t : TileId) (major : Nat) (x : RegWord) : Option Instr :=
  let d := reg x.rd
  let a := reg x.rs1
  let b := reg x.rs2
  let p := preg x.pred
  match major with
  | 0x26 =>
    if 8 ≤ x.fn then VFRedOp.all[x.fn - 8]?.map fun op => .vfredsum t op d a b p else VRedOp.all[x.fn]?.map fun op => .vred t op d a b p
  | 0x27 => if 8 ≤ x.rs2 then none else VScanOp.all[x.fn]?.map fun op => .vscan t op d a (preg x.rs2) p
  | _ =>
    match x.fn with
    | 0x04 => if x.pred ≠ 0 ∨ 8 ≤ x.rs1 then none else some (.pcnt t d (preg x.rs1))
    | 0x05 => if x.pred ≠ 0 ∨ 8 ≤ x.rs1 then none else some (.pfirst t d (preg x.rs1))
    | 0x08 => some (.vcrc32c t d a b p)
    | 0x09 => some (.vcrc32cE t d a b p)
    | f => VBitOp.all[f]?.map fun op => .vpopc t op d a p

/-- Majors 0x29 to 0x2D (Table 10). -/
def decVoper (t : TileId) (major : Nat) (x : RegWord) : Option Instr :=
  let d := reg x.rd
  let a := reg x.rs1
  let b := reg x.rs2
  let p := preg x.pred
  match major with
  | 0x29 =>
    if 0x80 ≤ x.fn then (if x.fn < 0x88 then some (.vhashT t (BitVec.ofNat 3 x.fn) d a b p) else none)
    else if x.fn < 8 ∧ x.rs2 = 0 then some (.vhash t (BitVec.ofNat 3 x.fn) d a p)
    else none
  | 0x2A => if 0x80 ≤ x.fn then none else some (.vunpk t (BitVec.ofNat 6 x.fn) (decide (0x40 ≤ x.fn)) d a b p)
  | 0x2B => if 4 ≤ x.fn then none else some (.vdict t (BitVec.ofNat 2 x.fn) d a b p)
  | 0x2C =>
    if x.pred ≠ 0 ∨ x.rs2 ≠ 0 then none else some (.vsort t (BitVec.ofNat 4 x.fn) (BitVec.ofNat 4 (x.fn / 16)) d a)
  | _ => RedOp.all[x.fn]?.map fun op => .vredM t op d a b p

/-- Majors 0x30 to 0x35 (Tables 7 and 8). -/
def decVmem (t : TileId) (major : Nat) (x : RegWord) : Option Instr :=
  let d := reg x.rd
  let a := reg x.rs1
  let b := reg x.rs2
  let p := preg x.pred
  let ts := decide (128 ≤ x.fn)
  let ff := decide (64 ≤ x.fn % 128)
  let iw : Size := BitVec.ofNat 2 (x.fn / 16)
  let sc := decide (8 ≤ x.fn % 16)
  if x.fn % 8 ≠ 0 then none
  else
    match major with
    | 0x34 => some (.vgather t ts ff iw sc d a b p)
    | 0x35 => if ff then none else some (.vscatter t ts iw sc d a b p)
    | major =>
      if x.fn % 64 ≠ 0 then none
      else
        match major with
        | 0x30 => if x.rs2 ≠ 0 then none else some (.vld t ts ff d a p)
        | 0x31 => if x.rs2 ≠ 0 ∨ ff = true then none else some (.vst t ts d a p)
        | 0x32 => some (.vlds t ts ff d a b p)
        | _ => if ff then none else some (.vsts t ts d a b p)

/-- Major 0x18 (Table 11): a CSRW of OBX_LEN launches a send, and one of ESTOP stops the stage. -/
def decSys (t : TileId) (n : Nat) : Option Instr :=
  let rd := field n 21 5
  let rs1 := field n 16 5
  let imm := field n 4 12
  let d := reg rd
  let a := reg rs1
  match field n 0 4 with
  | 0x0 => if rs1 = 0 then some (.csrr t d (BitVec.ofNat 12 imm)) else none
  | 0x1 =>
    if rd ≠ 0 then none
    else if imm = 0x032 then some (.obxLenWrite t a)
    else if imm = 0x006 then some (.estop t a)
    else some (.csrw t (BitVec.ofNat 12 imm) a)
  | 0x2 => if rd = 0 ∧ rs1 = 0 ∧ imm = 0 then some (.eret t) else none
  | 0x3 =>
    if rd ≠ 0 ∨ rs1 ≠ 0 then none else if imm = 0 then some (.fdone t) else if imm = 1 then some (.fdoneEos t) else none
  | 0x4 => if imm = 0 then some (.dqGet t d a) else none
  | 0x5 => if rd = 0 ∧ rs1 = 0 ∧ imm = 0 then some (.dqDone t) else none
  | 0x6 => if imm = 0 then some (.dqPut t d a) else none
  | 0x7 => if imm < 8 then some (.vsetvl t d a (BitVec.ofNat 3 imm)) else none
  | 0x8 => if rd = 0 ∧ rs1 = 0 ∧ imm = 0 then some (.fence t) else none
  | _ => none

/-- The IMM, MEM, BR and JMP formats: majors 0x02 to 0x0D, and 0x10 to 0x17. -/
def decImm (t : TileId) (major n : Nat) : Option Instr :=
  let d := reg (field n 21 5)
  let a := reg (field n 16 5)
  let imm : BitVec 16 := BitVec.ofNat 16 n
  let size : Size := BitVec.ofNat 2 (field n 13 2)
  let uns := field n 15 1 == 1
  let imm13 : BitVec 13 := BitVec.ofNat 13 n
  match major with
  | 0x08 => if field n 16 5 = 0 then some (.lui t d imm) else none
  | 0x09 =>
    if field n 8 8 ≠ 0 then none else ShiftKind.all[field n 6 2]?.map fun k => .shifti t k d a (BitVec.ofNat 6 n)
  | 0x0A => some (.sld t uns size d a imm13)
  | 0x0B => if uns then none else some (.sst t size d a imm13)
  | 0x0C => some (.sldt t uns size d a imm13)
  | 0x0D => if uns then none else some (.sstt t size d a imm13)
  | 0x16 => some (.jal t d (BitVec.ofNat 21 n))
  | 0x17 => some (.jalr t d a imm)
  | m =>
    if 0x10 ≤ m then BrCond.all[m - 0x10]?.map fun c => .branch t c d a imm
    else if 2 ≤ m then ImmOp.all[m - 2]?.map fun op => .aluImmediate t op d a imm
    else none

/-- The instruction that a word of the instruction store spells, none where it is illegal. -/
def decodeWord (t : TileId) (w : BitVec 32) : Option Instr :=
  let n := w.toNat
  let m := field n 26 6
  let x := regWord n
  if m = 0x01 then decSalu t x
  else if m = 0x18 then decSys t n
  else if m = 0x19 then decSfp t x
  else if m = 0x1A then decMaint t x
  else if m < 0x18 then decImm t m n
  else if m < 0x20 then none
  else if m < 0x24 then decVarith t m x
  else if m < 0x26 then decVmove t m x
  else if m < 0x29 then decVreduce t m x
  else if m < 0x2E then decVoper t m x
  else if 0x30 ≤ m && m < 0x36 then decVmem t m x
  else none

/-- The instruction a tile executes for a word: an illegal one takes exception 5 (R92, R106). -/
def decodeYilnel (t : TileId) (w : BitVec 32) : Instr := (decodeWord t w).getD (.illegalInstruction t)

-- ## The encoder

/-- A REG word. -/
def encReg (major rd rs1 rs2 pred fn : Nat) : Option (BitVec 32) :=
  some (BitVec.ofNat 32 (major * 2 ^ 26 + rd * 2 ^ 21 + rs1 * 2 ^ 16 + rs2 * 2 ^ 11 + pred * 2 ^ 8 + fn))
/-- An IMM or BR word. -/
def encImm (major rd rs1 imm : Nat) : Option (BitVec 32) := some (BitVec.ofNat 32 (major * 2 ^ 26 + rd * 2 ^ 21 + rs1 * 2 ^ 16 + imm))
/-- A MEM word. -/
def encMem (major rd rs1 : Nat) (uns : Bool) (size imm : Nat) : Option (BitVec 32) :=
  some (BitVec.ofNat 32 (major * 2 ^ 26 + rd * 2 ^ 21 + rs1 * 2 ^ 16 + (if uns then 2 ^ 15 else 0) + size * 2 ^ 13 + imm))
/-- A SYS word. -/
def encSys (rd rs1 imm op : Nat) : Option (BitVec 32) := some (BitVec.ofNat 32 (0x18 * 2 ^ 26 + rd * 2 ^ 21 + rs1 * 2 ^ 16 + imm * 2 ^ 4 + op))
/-- Bit `i` of a word where a flag is set. -/
def flagBit (b : Bool) (i : Nat) : Nat := if b then 2 ^ i else 0

/-- The word of a tile instruction; none for a command that is not one. -/
def encode : Instr → Option (BitVec 32)
  | .salu _ op rd rs1 rs2 => encReg 0x01 rd.toNat rs1.toNat rs2.toNat 0 op.code
  | .aluImmediate _ op rd rs1 imm => encImm op.code rd.toNat rs1.toNat imm.toNat
  | .lui _ rd imm => encImm 0x08 rd.toNat 0 imm.toNat
  | .shifti _ k rd rs1 c => encImm 0x09 rd.toNat rs1.toNat (k.code * 2 ^ 6 + c.toNat)
  | .crc32cD _ rd rs1 rs2 => encReg 0x01 rd.toNat rs1.toNat rs2.toNat 0 0x18
  | .sld _ uns size rd rs1 imm => encMem 0x0A rd.toNat rs1.toNat uns size.toNat imm.toNat
  | .sst _ size rd rs1 imm => encMem 0x0B rd.toNat rs1.toNat false size.toNat imm.toNat
  | .sldt _ uns size rd rs1 imm => encMem 0x0C rd.toNat rs1.toNat uns size.toNat imm.toNat
  | .sstt _ size rd rs1 imm => encMem 0x0D rd.toNat rs1.toNat false size.toNat imm.toNat
  | .branch _ c rs1 rs2 off => encImm (0x10 + c.code) rs1.toNat rs2.toNat off.toNat
  | .jal _ rd off => some (BitVec.ofNat 32 (0x16 * 2 ^ 26 + rd.toNat * 2 ^ 21 + off.toNat))
  | .jalr _ rd rs1 imm => encImm 0x17 rd.toNat rs1.toNat imm.toNat
  | .sfp _ op d rd rs1 rs2 => encReg 0x19 rd.toNat rs1.toNat rs2.toNat 0 (2 * op.code + flagBit d 0)
  | .vintArith _ op vs rd rs1 rs2 p => encReg 0x20 rd.toNat rs1.toNat rs2.toNat p.toNat (flagBit vs 7 + op.code)
  | .vdiv _ op vs rd rs1 rs2 p => encReg 0x20 rd.toNat rs1.toNat rs2.toNat p.toNat (flagBit vs 7 + op.code)
  | .vfpArith _ op vs rd rs1 rs2 p => encReg 0x21 rd.toNat rs1.toNat rs2.toNat p.toNat (flagBit vs 7 + op.code)
  | .vcmp _ op vs pd rs1 rs2 p => encReg 0x22 pd.toNat rs1.toNat rs2.toNat p.toNat (flagBit vs 7 + op.code)
  | .vlogic _ op vs rd rs1 rs2 p => encReg 0x23 rd.toNat rs1.toNat rs2.toNat p.toNat (flagBit vs 7 + op.code)
  | .predicateLogic _ op pd ps1 ps2 => encReg 0x23 pd.toNat ps1.toNat ps2.toNat 0 (0x40 + op.code)
  | .vsel _ rd rs1 rs2 p => encReg 0x24 rd.toNat rs1.toNat rs2.toNat p.toNat 0x00
  | .vcompress _ rd rs1 p => encReg 0x24 rd.toNat rs1.toNat 0 p.toNat 0x01
  | .vexpand _ rd rs1 p => encReg 0x24 rd.toNat rs1.toNat 0 p.toNat 0x02
  | .vmv _ rd rs1 p => encReg 0x24 rd.toNat rs1.toNat 0 p.toNat 0x03
  | .vmvVs _ rd rs1 p => encReg 0x24 rd.toNat rs1.toNat 0 p.toNat 0x04
  | .vmvSv _ rd rs1 rs2 => encReg 0x24 rd.toNat rs1.toNat rs2.toNat 0 0x05
  | .vins _ rd rs1 rs2 => encReg 0x24 rd.toNat rs1.toNat rs2.toNat 0 0x06
  | .viota _ rd p => encReg 0x24 rd.toNat 0 0 p.toNat 0x07
  | .vperm _ rd rs1 rs2 p => encReg 0x25 rd.toNat rs1.toNat rs2.toNat p.toNat 0x00
  | .vslideup _ rd rs1 rs2 p => encReg 0x25 rd.toNat rs1.toNat rs2.toNat p.toNat 0x01
  | .vslidedn _ rd rs1 rs2 p => encReg 0x25 rd.toNat rs1.toNat rs2.toNat p.toNat 0x02
  | .vrev _ rd rs1 p => encReg 0x25 rd.toNat rs1.toNat 0 p.toNat 0x03
  | .vred _ op rd rs1 rs2 p => encReg 0x26 rd.toNat rs1.toNat rs2.toNat p.toNat op.code
  | .vfredsum _ op rd rs1 rs2 p => encReg 0x26 rd.toNat rs1.toNat rs2.toNat p.toNat (0x08 + op.code)
  | .vscan _ op rd rs1 seg p => encReg 0x27 rd.toNat rs1.toNat seg.toNat p.toNat op.code
  | .vpopc _ op rd rs1 p => encReg 0x28 rd.toNat rs1.toNat 0 p.toNat op.code
  | .pcnt _ rd ps => encReg 0x28 rd.toNat ps.toNat 0 0 0x04
  | .pfirst _ rd ps => encReg 0x28 rd.toNat ps.toNat 0 0 0x05
  | .vcrc32c _ rd rs1 rs2 p => encReg 0x28 rd.toNat rs1.toNat rs2.toNat p.toNat 0x08
  | .vcrc32cE _ rd rs1 rs2 p => encReg 0x28 rd.toNat rs1.toNat rs2.toNat p.toNat 0x09
  | .vld _ ts ff rd rs1 p => encReg 0x30 rd.toNat rs1.toNat 0 p.toNat (flagBit ts 7 + flagBit ff 6)
  | .vst _ ts rd rs1 p => encReg 0x31 rd.toNat rs1.toNat 0 p.toNat (flagBit ts 7)
  | .vlds _ ts ff rd rs1 rs2 p => encReg 0x32 rd.toNat rs1.toNat rs2.toNat p.toNat (flagBit ts 7 + flagBit ff 6)
  | .vsts _ ts rd rs1 rs2 p => encReg 0x33 rd.toNat rs1.toNat rs2.toNat p.toNat (flagBit ts 7)
  | .vgather _ ts ff iw sc rd rs1 rs2 p =>
    encReg 0x34 rd.toNat rs1.toNat rs2.toNat p.toNat (flagBit ts 7 + flagBit ff 6 + iw.toNat * 2 ^ 4 + flagBit sc 3)
  | .vscatter _ ts iw sc rd rs1 rs2 p => encReg 0x35 rd.toNat rs1.toNat rs2.toNat p.toNat (flagBit ts 7 + iw.toNat * 2 ^ 4 + flagBit sc 3)
  | .vhash _ slot rd rs1 p => encReg 0x29 rd.toNat rs1.toNat 0 p.toNat slot.toNat
  | .vhashT _ slot rd rs1 rs2 p => encReg 0x29 rd.toNat rs1.toNat rs2.toNat p.toNat (0x80 + slot.toNat)
  | .vunpk _ n1 sx rd rs1 rs2 p => encReg 0x2A rd.toNat rs1.toNat rs2.toNat p.toNat (n1.toNat + flagBit sx 6)
  | .vdict _ iw rd rs1 rs2 p => encReg 0x2B rd.toNat rs1.toNat rs2.toNat p.toNat iw.toNat
  | .vsort _ k m rd rs1 => encReg 0x2C rd.toNat rs1.toNat 0 0 (k.toNat + m.toNat * 2 ^ 4)
  | .vredM _ op rd rs1 rs2 p => encReg 0x2D rd.toNat rs1.toNat rs2.toNat p.toNat op.code
  | .csrr _ rd csr => encSys rd.toNat 0 csr.toNat 0x0
  | .csrw _ csr rs1 => encSys 0 rs1.toNat csr.toNat 0x1
  | .obxLenWrite _ rs1 => encSys 0 rs1.toNat 0x032 0x1
  | .estop _ rs1 => encSys 0 rs1.toNat 0x006 0x1
  | .eret _ => encSys 0 0 0 0x2
  | .fdone _ => encSys 0 0 0 0x3
  | .fdoneEos _ => encSys 0 0 1 0x3
  | .dqGet _ rd rs1 => encSys rd.toNat rs1.toNat 0 0x4
  | .dqDone _ => encSys 0 0 0 0x5
  | .dqPut _ rd rs1 => encSys rd.toNat rs1.toNat 0 0x6
  | .vsetvl _ rd rs1 vt => encSys rd.toNat rs1.toNat vt.toNat 0x7
  | .fence _ => encSys 0 0 0 0x8
  | .dcCleanVa _ rs1 => encReg 0x1A 0 rs1.toNat 0 0 0x00
  | .dcInvVa _ rs1 => encReg 0x1A 0 rs1.toNat 0 0 0x01
  | .dcCinvVa _ rs1 => encReg 0x1A 0 rs1.toNat 0 0 0x02
  | .dcCleanRange _ rs1 rs2 => encReg 0x1A 0 rs1.toNat rs2.toNat 0 0x04
  | .dcInvRange _ rs1 rs2 => encReg 0x1A 0 rs1.toNat rs2.toNat 0 0x05
  | .dcCinvRange _ rs1 rs2 => encReg 0x1A 0 rs1.toNat rs2.toNat 0 0x06
  | .dcCleanAll _ => encReg 0x1A 0 0 0 0 0x08
  | .dcInvAll _ => encReg 0x1A 0 0 0 0 0x09
  | .dcCinvAll _ => encReg 0x1A 0 0 0 0 0x0A
  | .tlbiVa _ rs1 rs2 => encReg 0x1A 0 rs1.toNat rs2.toNat 0 0x10
  | .tlbiAst _ rs1 => encReg 0x1A 0 rs1.toNat 0 0 0x11
  | .tlbiAll _ => encReg 0x1A 0 0 0 0 0x12
  | .tlbiVaP _ rs1 rs2 => encReg 0x1A 0 rs1.toNat rs2.toNat 0 0x18
  | .tlbiAstP _ rs1 => encReg 0x1A 0 rs1.toNat 0 0 0x19
  | .tlbiAllP _ => encReg 0x1A 0 0 0 0 0x1A
  | .tlbsync _ => encReg 0x1A 0 0 0 0 0x20
  | _ => none

end Sys2Proof
end

