-- ==== Sys2Proof/Machine/Tab.lean ====
section
/-! DEFINITION. Sparse tables: the per-unit and per-register stores of the machine, as lists of key and value pairs in rising key order. -/

namespace Sys2Proof

/-- A sparse table: key and value pairs, keys strictly rising. -/
abbrev Tab (α : Type) := List (Nat × α)

/-- The value stored under a key, if any. -/
def Tab.find {α : Type} : Tab α → Nat → Option α
  | [], _ => none
  | (j, a) :: m, k => if j = k then some a else Tab.find m k

/-- The value under a key, or what an unlisted key holds. -/
def Tab.get {α : Type} (d : α) (m : Tab α) (k : Nat) : α := (Tab.find m k).getD d

/-- The table with a key's value replaced, keys kept in rising order. -/
def Tab.set {α : Type} : Tab α → Nat → α → Tab α
  | [], k, a => [(k, a)]
  | (j, b) :: m, k, a =>
    if k < j then (k, a) :: (j, b) :: m
    else if k = j then (k, a) :: m
    else (j, b) :: Tab.set m k a

/-- The table without a key. -/
def Tab.erase {α : Type} (m : Tab α) (k : Nat) : Tab α := m.filter fun e => e.1 != k

/-- Change the value under a key, `d` standing for an unlisted one. -/
def Tab.upd {α : Type} (d : α) (m : Tab α) (k : Nat) (f : α → α) : Tab α := Tab.set m k (f (Tab.get d m k))

/-- Keys strictly rise, from above `lo`. -/
def Tab.wfFrom {α : Type} (lo : Nat) : Tab α → Bool
  | [] => true
  | (j, _) :: m => decide (lo ≤ j) && Tab.wfFrom (j + 1) m

/-- The canonical form of a table: keys strictly rise. -/
def Tab.wf {α : Type} (m : Tab α) : Bool := Tab.wfFrom 0 m

end Sys2Proof
end

