-- ==== Sys2Proof/Machine/Bits.lean ====
section
/-! DEFINITION. Bit fields, sign extension, byte order and small list helpers that the meanings share. -/

namespace Sys2Proof

/-- Bits `[lo + len - 1 : lo]` of a number. -/
def bits (n lo len : Nat) : Nat := n / 2 ^ lo % 2 ^ len

/-- One bit of a number. -/
def bitOf (n i : Nat) : Bool := n / 2 ^ i % 2 == 1

/-- A Boolean as a bit. -/
def b2n (b : Bool) : Nat := if b then 1 else 0

/-- A field of a register. -/
def fld (w : Word) (lo len : Nat) : Nat := bits w.toNat lo len

/-- A bit of a register. -/
def fbit (w : Word) (i : Nat) : Bool := bitOf w.toNat i

/-- A register with the bits of a mask taken from a new value. -/
def mergeMask (mask old new : Word) : Word := (old &&& ~~~mask) ||| (new &&& mask)

/-- `n` taken as a `w`-bit two's complement number, in 64 bits. -/
def sext (w n : Nat) : Word := BitVec.ofInt 64 (toSigned w n)

/-- The `w`-bit number `n`, extended to 64 bits by signedness. -/
def ext (signed : Bool) (w n : Nat) : Word := if signed then sext w n else BitVec.ofNat 64 (n % 2 ^ w)

/-- Little-endian value of a byte string (chapter 00: multi-byte data is little-endian). -/
def leNat : List Byte → Nat
  | [] => 0
  | b :: bs => b.toNat + 256 * leNat bs

/-- The low `k` bytes of a number, little-endian. -/
def leBytes : Nat → Nat → List Byte
  | 0, _ => []
  | k + 1, n => BitVec.ofNat 8 (n % 256) :: leBytes k (n / 256)

/-- Big-endian value of a byte string, for formats that published standards define. -/
def beNat (bs : List Byte) : Nat := bs.foldl (fun a b => a * 256 + b.toNat) 0

/-- The low `k` bytes of a number, big-endian. -/
def beBytes (k n : Nat) : List Byte := (leBytes k n).reverse

/-- Bytes `[off, off + len)` of a byte string, short where the string is. -/
def slice (bs : List Byte) (off len : Nat) : List Byte := (bs.drop off).take len

/-- A little-endian field of a byte string. -/
def fieldAt (bs : List Byte) (off len : Nat) : Nat := leNat (slice bs off len)

/-- Whether every byte of a part of a string is zero. -/
def zeroAt (bs : List Byte) (off len : Nat) : Bool := (slice bs off len).all (· == 0)

/-- `n` zero bytes. -/
def zeros (n : Nat) : List Byte := List.replicate n 0

/-- `n` rounded up to a multiple of `k`. -/
def roundUp (n k : Nat) : Nat := (n + k - 1) / k * k

/-- `⌈n / k⌉`. -/
def ceilDiv (n k : Nat) : Nat := (n + k - 1) / k

/-- The lowest index below `n` at which a test holds. -/
def findBelow (n : Nat) (f : Nat → Bool) : Option Nat := (List.range n).find? f

/-- The indices of the set bits below `n`, rising. -/
def setBits (n w : Nat) : List Nat := (List.range n).filter (fun i => bitOf w i)

/-- The number of set bits below `n`. -/
def popcount (n w : Nat) : Nat := (setBits n w).length

/-- The mask of a list of bit numbers. -/
def maskOf (l : List Nat) : Nat := l.foldl (fun a i => a ||| 2 ^ i) 0

/-- Position of the first element that a test accepts. -/
def indexOf? {α : Type} (f : α → Bool) : List α → Option Nat
  | [] => none
  | a :: l => if f a then some 0 else (indexOf? f l).map (· + 1)

/-- Replace the element at an index. -/
def setNth {α : Type} : List α → Nat → α → List α
  | [], _, _ => []
  | _ :: l, 0, a => a :: l
  | b :: l, n + 1, a => b :: setNth l n a

/-- Insert by a key, after equal keys (a stable insertion). -/
def insertBy {α : Type} (key : α → Nat) (a : α) : List α → List α
  | [] => [a]
  | b :: l => if key a < key b then a :: b :: l else b :: insertBy key a l

/-- Stable sort by a key. -/
def sortBy {α : Type} (key : α → Nat) (l : List α) : List α := l.foldl (fun acc a => insertBy key a acc) []

/-- Whether a list holds no element twice. -/
def distinct (l : List Nat) : Bool :=
  match l with
  | [] => true
  | a :: r => !(r.contains a) && distinct r

/-- A counter that saturates at 2^64 - 1. -/
def satAdd (w : Word) (n : Nat) : Word := BitVec.ofNat 64 (min (w.toNat + n) (2 ^ 64 - 1))

/-- Integer square root, rounded down, by bits from the top. -/
def isqrtAux : Nat → Nat → Nat → Nat
  | 0, _, r => r
  | k + 1, n, r =>
    let c := r + 2 ^ k
    if c * c ≤ n then isqrtAux k n c else isqrtAux k n r

/-- `⌊√n⌋`. -/
def isqrt (n : Nat) : Nat := isqrtAux (n.log2 / 2 + 1) n 0

/-- Fold a state over a list of numbers. -/
def foldNat {σ : Type} (l : List Nat) (f : Nat → σ → σ) (s : σ) : σ := l.foldl (fun a i => f i a) s

end Sys2Proof
end

