-- ==== Sys2Proof/Machine/Fp.lean ====
section
/-! DEFINITION. IEEE 754 binary32 and binary64 arithmetic, round to nearest even, as R112 asks: exact values, rounded once. -/

namespace Sys2Proof.Machine

/-- A format: exponent and fraction bits. -/
structure FpFmt where
  eb : Nat
  mb : Nat
  deriving DecidableEq, Repr

/-- binary32 for width 32, binary64 otherwise. -/
def fmtOf (w : Nat) : FpFmt := if w = 32 then { eb := 8, mb := 23 } else { eb := 11, mb := 52 }

/-- A decoded value: a finite one is ±m · 2^e. -/
inductive Fv where
  | nan
  | inf (neg : Bool)
  | fin (neg : Bool) (m : Nat) (e : Int)
  deriving DecidableEq, Repr

/-- The bias of a format. -/
def FpFmt.bias (f : FpFmt) : Int := 2 ^ (f.eb - 1) - 1
/-- The sign bit's weight. -/
def FpFmt.signBit (f : FpFmt) : Nat := 2 ^ (f.eb + f.mb)
/-- The bits of infinity. -/
def FpFmt.infBits (f : FpFmt) : Nat := (2 ^ f.eb - 1) * 2 ^ f.mb
/-- The canonical quiet NaN (R112). -/
def FpFmt.nanBits (f : FpFmt) : Nat := f.infBits + 2 ^ (f.mb - 1)
/-- Sign as bits. -/
def FpFmt.sgn (f : FpFmt) (neg : Bool) : Nat := if neg then f.signBit else 0

/-- Decode a number's bits. -/
def FpFmt.decode (f : FpFmt) (n : Nat) : Fv :=
  let neg := bitOf n (f.eb + f.mb)
  let ex := n / 2 ^ f.mb % 2 ^ f.eb
  let fr := n % 2 ^ f.mb
  if ex = 2 ^ f.eb - 1 then (if fr = 0 then .inf neg else .nan)
  else if ex = 0 then .fin neg fr (1 - f.bias - f.mb)
  else .fin neg (2 ^ f.mb + fr) ((ex : Int) - f.bias - f.mb)

/-- Round ±m · 2^e, with more below m when `sticky`, to nearest even. -/
def FpFmt.round (f : FpFmt) (neg : Bool) (m : Nat) (e : Int) (sticky : Bool) : Nat :=
  if m = 0 then f.sgn neg
  else
    let lead : Int := (m.log2 : Int) + e
    let ex := max lead (1 - f.bias)
    let sh := ex - f.mb - e
    let q :=
      if sh ≤ 0 then m * 2 ^ (-sh).toNat
      else
        let k := sh.toNat
        let q := m / 2 ^ k
        let r := m % 2 ^ k
        let half := 2 ^ (k - 1)
        if half < r || (r == half && (sticky || q % 2 == 1)) then q + 1 else q
    let bits := (ex + f.bias - 1).toNat * 2 ^ f.mb + q
    f.sgn neg + (if f.infBits ≤ bits then f.infBits else bits)

/-- Encode a value. -/
def FpFmt.encode (f : FpFmt) : Fv → Nat
  | .nan => f.nanBits
  | .inf neg => f.sgn neg + f.infBits
  | .fin neg m e => f.round neg m e false

/-- The exact sum; a zero sum of opposite signs is +0. -/
def Fv.add : Fv → Fv → Fv
  | .nan, _ => .nan
  | _, .nan => .nan
  | .inf a, .inf b => if a = b then .inf a else .nan
  | .inf a, .fin _ _ _ => .inf a
  | .fin _ _ _, .inf b => .inf b
  | .fin na ma ea, .fin nb mb eb =>
    let e := min ea eb
    let a : Int := (ma * 2 ^ (ea - e).toNat : Nat)
    let b : Int := (mb * 2 ^ (eb - e).toNat : Nat)
    let z := (if na then -a else a) + (if nb then -b else b)
    if z = 0 then .fin (na && nb) 0 e else .fin (decide (z < 0)) z.natAbs e

/-- The negation. -/
def Fv.neg : Fv → Fv
  | .nan => .nan
  | .inf a => .inf !a
  | .fin n m e => .fin (!n) m e

/-- The exact product. -/
def Fv.mul : Fv → Fv → Fv
  | .nan, _ => .nan
  | _, .nan => .nan
  | .inf a, .inf b => .inf (a != b)
  | .inf a, .fin n m _ => if m = 0 then .nan else .inf (a != n)
  | .fin n m _, .inf b => if m = 0 then .nan else .inf (n != b)
  | .fin na ma ea, .fin nb mb eb => .fin (na != nb) (ma * mb) (ea + eb)

/-- Addition of bits. -/
def fAdd (w a b : Nat) : Nat := let f := fmtOf w; f.encode ((f.decode a).add (f.decode b))
/-- Subtraction. -/
def fSub (w a b : Nat) : Nat := let f := fmtOf w; f.encode ((f.decode a).add (f.decode b).neg)
/-- Multiplication. -/
def fMul (w a b : Nat) : Nat := let f := fmtOf w; f.encode ((f.decode a).mul (f.decode b))
/-- c + a × b with one rounding. -/
def fFma (w c a b : Nat) : Nat := let f := fmtOf w; f.encode ((f.decode c).add ((f.decode a).mul (f.decode b)))

/-- Division. -/
def fDiv (w a b : Nat) : Nat :=
  let f := fmtOf w
  match f.decode a, f.decode b with
  | .nan, _ => f.nanBits
  | _, .nan => f.nanBits
  | .inf _, .inf _ => f.nanBits
  | .inf x, .fin y _ _ => f.sgn (x != y) + f.infBits
  | .fin x _ _, .inf y => f.sgn (x != y)
  | .fin x ma ea, .fin y mb eb =>
    if mb = 0 then (if ma = 0 then f.nanBits else f.sgn (x != y) + f.infBits)
    else
      let sc := f.mb + 3 + mb.log2 + 1
      let num := ma * 2 ^ sc
      f.round (x != y) (num / mb) (ea - eb - sc) (num % mb != 0)

/-- Square root. -/
def fSqrt (w a : Nat) : Nat :=
  let f := fmtOf w
  match f.decode a with
  | .nan => f.nanBits
  | .inf x => if x then f.nanBits else f.infBits
  | .fin x m e =>
    if m = 0 then f.sgn x
    else if x then f.nanBits
    else
      let k := 2 * (f.mb + 3) + (if e % 2 = 0 then 0 else 1)
      let n := m * 2 ^ k
      let r := isqrt n
      f.round false r ((e - k) / 2) (r * r != n)

/-- Whether bits are a NaN. -/
def fIsNan (w a : Nat) : Bool := (fmtOf w).decode a == .nan

/-- An integer that orders the values that are no NaN, −0 below +0. -/
def fKey (w a : Nat) : Int :=
  let f := fmtOf w
  let mag : Int := (a % f.signBit : Nat)
  if bitOf a (f.eb + f.mb) then -mag - 1 else mag

/-- Minimum or maximum (R112). -/
def fMinMax (mx : Bool) (w a b : Nat) : Nat :=
  if fIsNan w a then (if fIsNan w b then (fmtOf w).nanBits else b % 2 ^ w)
  else if fIsNan w b then a % 2 ^ w
  else if (fKey w a < fKey w b) = (mx = false) then a % 2 ^ w
  else b % 2 ^ w

/-- A result: every NaN result is the canonical quiet NaN (R112). -/
def fResult (w a : Nat) : Nat := if fIsNan w a then (fmtOf w).nanBits else a

/-- The key with both zeros at 0, for compares. -/
def fCmpKey (w a : Nat) : Int :=
  let f := fmtOf w
  let mag : Int := (a % f.signBit : Nat)
  if bitOf a (f.eb + f.mb) then -mag else mag

/-- Ordered compares; false on a NaN. -/
def fEq (w a b : Nat) : Bool := !fIsNan w a && !fIsNan w b && fCmpKey w a == fCmpKey w b
/-- Less than. -/
def fLt (w a b : Nat) : Bool := !fIsNan w a && !fIsNan w b && decide (fCmpKey w a < fCmpKey w b)
/-- Less than or equal. -/
def fLe (w a b : Nat) : Bool := !fIsNan w a && !fIsNan w b && decide (fCmpKey w a ≤ fCmpKey w b)

/-- An integer as a float. -/
def fOfInt (w : Nat) (z : Int) : Nat := (fmtOf w).round (decide (z < 0)) z.natAbs 0 false

/-- A float as an integer of `iw` bits: toward zero, saturating, 0 for a NaN (R116). -/
def fToInt (w iw : Nat) (signed : Bool) (a : Nat) : Int :=
  let lo : Int := if signed then -(2 ^ (iw - 1) : Nat) else 0
  let hi : Int := if signed then (2 ^ (iw - 1) - 1 : Nat) else (2 ^ iw - 1 : Nat)
  match (fmtOf w).decode a with
  | .nan => 0
  | .inf n => if n then lo else hi
  | .fin n m e =>
    let q : Int := if e < 0 then (m / 2 ^ (-e).toNat : Nat) else (m * 2 ^ e.toNat : Nat)
    max lo (min hi (if n then -q else q))

/-- Clear or invert the sign bit. -/
def fAbs (w a : Nat) : Nat := a % 2 ^ (w - 1)
/-- Invert the sign bit. -/
def fNeg (w a : Nat) : Nat := if bitOf a (w - 1) then a % 2 ^ (w - 1) else a % 2 ^ (w - 1) + 2 ^ (w - 1)

end Sys2Proof.Machine
end

