-- ==== Sys2Proof/Config.lean ====
section
/-! DEFINITION. What the manual leaves open: the free values of the model. None of them has a body, so nothing can be proved about their values. -/

namespace Sys2Proof

/-- A byte the manual leaves undefined, by the number of the occasion and its place. -/
opaque Config.freeByte : Nat → Nat → Byte

/-- A byte of memory the manual leaves undefined, by the number of its region and its DPA. -/
opaque Config.memByte : Nat → Nat → Byte

/-- A register value the manual leaves undefined or to something outside the engine, by the number of the occasion. -/
opaque Config.freeWord : Nat → Word

/-- A choice the manual leaves to the engine, by the number of the occasion. -/
opaque Config.freeBool : Nat → Bool

/-- Which dispatcher takes an item of a stage that spans both dies first, by the stage and the item's number in it (R158, R207). -/
opaque Config.northFirst : Nat → Nat → Bool

/-- A byte that a read delivers from where it reaches no storage: past the half of an inbox-B window, or past the end of a tile store. It is
the same whenever an EXECUTE is run again (R158), so it depends on the address alone. -/
opaque Config.lostByte : Nat → Byte

/-- A byte that the host returns to a read through the aperture, by the number of the read and its DPA. -/
opaque Config.hostByte : Nat → Nat → Byte

/-- Whether a read through the aperture ends in an error completion or a completion timeout, by the number of the read and its DPA. -/
opaque Config.hostError : Nat → Nat → Bool

/-- Whether a completion of such a read is poisoned. -/
opaque Config.hostPoison : Nat → Nat → Bool

/-- How an unstable sort orders records with equal keys (R186): a number per record, from the descriptor, the input bytes and the
record's position. -/
opaque Config.sortTie : List Byte → Nat → Nat

/-- What a byte of a sort column becomes where its flags ask for a transform and the column names none (R185), by the byte. -/
opaque Config.noTransform : Byte → Byte

/-- How a stepping lays out private saved state (R321): a mask over its bytes. -/
opaque Config.privByte : Nat → Byte

/-- A quotient by a rating of 0 that an identity record gives (R339), by its dividend. -/
opaque Config.divZero : Nat → Nat

/-- Spare blocks as a per cent of a cask's provision, which no record gives (chapter 16, Table 10), by the blocks left. -/
opaque Config.sparePct : Nat → Byte

/-- The Ehrade cask-identity key of the fuses (R316). -/
opaque Config.caskKey : List Byte

/-- The class code of PF0, which the manual gives for the recovery personality alone (R489), by the part's device ID. -/
opaque Config.classCode : Nat → BitVec 24

/-- Whether a ring oscillator's reading in ppm lies in its plausible range, which the manual does not give (R470). -/
opaque Config.plausiblePpm : Nat → Bool

/-- Whether the error end of read number `k` of the host is a completion timeout, which AER logs, and not an error completion (R457). -/
opaque Config.hostTimeout : Nat → Bool

/-- What a compression is asked for: format, level and window; whether one job carries the whole frame, and whether the stream ends. -/
structure CodecAsk where
  format : Nat
  level : Nat
  window : Nat
  whole : Bool
  final : Bool
  deriving DecidableEq, Repr

/-- The Ohmuno reference compressor (R294): its state before, the history it may match against, and the input. It gives the bytes and its state
after them. -/
opaque Config.compressor : CodecAsk → List Byte → List Byte → List Byte → List Byte × List Byte

/-- What the verify lane decompresses (R304): the number of the upset that it meets meanwhile, the format, the state of the stream, the
output, and how many bytes the input has. -/
opaque Config.verifyLane : Nat → Nat → List Byte → List Byte → Nat → List Byte

/-- How a stepping lays out the private bytes of a context slot's half (R295): a mask over its bytes. -/
opaque Config.slotByte : Nat → Byte

end Sys2Proof
end

