-- ==== Sys2Proof/Machine/Types/Tile.lean ====
section
/-! DEFINITION. The state of a tile: registers, frame interface, decode unit, cache, MMU and TIL registers (chapters 04, 05, 06, 11, 12). -/

namespace Sys2Proof.Machine

/-- An entry of a translation lookaside buffer (R254). -/
structure TlbEntry where
  vaBase : Nat
  sizeLog2 : Nat
  /-- descriptor bits [7:0] of the leaf -/
  leaf : Nat
  ast : Nat
  /-- DPA of the page base -/
  base : Nat
  deriving DecidableEq, Repr

/-- An entry of a tile's walk cache (R257): its level, the VA bits that tag it, and the descriptor. -/
structure WcEntry where
  level : Nat
  tag : Nat
  desc : Nat
  deriving DecidableEq, Repr

/-- A walk in progress (R247, R250): its address, the level it is to read and the table it reads. -/
structure Walk where
  va : Nat
  kind : AccessKind
  level : Nat
  table : Nat
  /-- invalidations that arrived while it was in flight: kind, address and AST (R259) -/
  invs : List (Nat × Nat × Nat) := []
  /-- table descriptors it has read, which it installs when it ends otherwise than on a failed read (R251, R257) -/
  found : List WcEntry := []
  deriving DecidableEq, Repr

/-- What a finished walk holds for the access it serves (R251, R259): a leaf that no TLB entry was made of, or the fault it ended in. -/
structure WalkRes where
  va : Nat
  kind : AccessKind
  entry : Option TlbEntry := none
  /-- exception index, reason, level, descriptor and its address -/
  idx : Nat := 0
  reason : Nat := 0
  level : Nat := 0
  desc : Nat := 0
  descDpa : Nat := 0
  /-- an invalidation arrived while its walk was in flight, which waits for its access (R259) -/
  late : Bool := false
  deriving DecidableEq, Repr

/-- A TLB with its replacement register (R254, R255), the walk its unit has in flight, what the last one left for its access, and the entries
that fills have replaced, which writes of a finished job may have used (R259). -/
structure Tlb where
  entries : Tab TlbEntry := []
  lfsr : Nat := 0xACE1
  walk : Option Walk := none
  result : Option WalkRes := none
  replaced : List TlbEntry := []
  deriving DecidableEq, Repr

/-- The MMU of a tile (chapter 12, Tables 9 to 13). -/
structure Mmu where
  root : Nat := 0
  rootValid : Bool := false
  invBusy : Bool := false
  invRefused : Bool := false
  faultValid : Bool := false
  faultVa : Word := 0
  faultInfo : Word := 0
  invAddr : Word := 0
  invAst : BitVec 16 := 0
  perfMiss : Word := 0
  perfWread : Word := 0
  tlb : Tlb := {}
  wc : Tab WcEntry := []
  wcPtr : Nat := 0
  deriving DecidableEq, Repr

/-- A line of the tile cache (R225). -/
structure CacheLine where
  /-- DPA of the line, a multiple of 64 -/
  dpa : Nat
  dirty : Bool
  poison : Bool
  data : List Byte
  deriving DecidableEq, Repr

/-- A line of the prefetcher's side buffer (R240). -/
structure SideLine where
  dpa : Nat
  poison : Bool
  data : List Byte
  misses : Nat
  deriving DecidableEq, Repr

/-- A stream tracker of the prefetcher (R239): the page it watches, the last missed line, the stride in lines, and how many
misses agree. -/
structure Tracker where
  page : Nat
  last : Nat
  stride : Int
  count : Nat
  deriving DecidableEq, Repr

/-- The data cache of a tile (chapter 11, Tables 5 to 11). -/
structure Cache where
  en : Bool := false
  pfEn : Bool := true
  clean : Bool := false
  enableRefused : Bool := false
  busyRefused : Bool := false
  wayOff : Bool := false
  failed : Bool := false
  maintBusy : Bool := false
  /-- the write-back of a disable is in progress, or a TCH_MAINT operation -/
  disabling : Bool := false
  maintOp : Nat := 0
  /-- TCH_WAYS.off -/
  waysOff : BitVec 8 := 0
  ceWindow : Tab Nat := []
  ceTotal : Tab Nat := []
  accCnt : Nat := 0
  perfHit : Word := 0
  perfMiss : Word := 0
  perfSide : Word := 0
  trim : Word := 0
  /-- valid lines, under 8 × set + way -/
  lines : Tab CacheLine := []
  /-- tree bits b0 to b6 of each set (R228) -/
  tree : Tab Nat := []
  /-- side buffer, oldest first -/
  side : List SideLine := []
  trackers : List Tracker := []
  /-- prefetches issued and not yet filled, oldest first, as line DPAs -/
  prefetches : List Nat := []
  deriving DecidableEq, Repr

/-- A queued decode command (R140): the offset of its block and the bytes 0x00 to 0x5F copied at acceptance. -/
structure DecCmd where
  off : Nat
  bytes : List Byte
  /-- tile code has stored into its regions since, so that its outputs and record are undefined (R143) -/
  touched : Bool := false
  deriving DecidableEq, Repr

/-- The decode unit running a command (chapter 06, Table 3). -/
structure DecRun where
  cmd : DecCmd
  cur : Nat := 0
  a : Nat := 0
  k : Nat := 0
  c0 : Nat := 0
  c1 : Nat := 0
  c2 : Nat := 0
  w : Nat := 0
  p : Nat := 0
  d : Nat := 0
  slot : Nat := 0
  state : Nat := 0
  stack : List (Nat × Nat) := []
  valWritten : Nat := 0
  vldOnes : Nat := 0
  selOnes : Nat := 0
  vldBits : Nat := 0
  selBits : Nat := 0
  /-- steps in a row that consumed no bit and wrote no element (R155) -/
  idle : Nat := 0
  deriving DecidableEq, Repr

/-- A send in the send queue (R88), with the fan batch header as the write of OBX_LEN read it (R160). `late` marks one issued inside
the guard window (R32); `old` holds what the tile has overwritten since in the source: offset, byte and poison (Caution of R88). -/
structure Send where
  route : Nat
  src : Nat
  len : Nat
  seq : Nat
  hdr : List Byte
  late : Bool
  old : List (Nat × Byte × Bool) := []
  deriving DecidableEq, Repr

/-- An entry of an inbox directory (R89). -/
structure DirEntry where
  off : Nat
  srcVtile : Nat
  seq : Nat
  deriving DecidableEq, Repr

/-- A work item of the dispatcher (chapter 09, Table 1): its 32-byte descriptor, decoded. -/
structure Item where
  flow : Nat
  cls : Nat
  priority : Nat
  close : Bool
  stage : Nat
  pipeline : Nat
  vintage : Nat
  payload : Nat
  length : Nat
  seq : Nat
  tag : Nat
  deriving DecidableEq, Repr

/-- A work item inside the dispatcher, with the place it takes at admission (R195): its origin number and the keys that order it
within that origin, and for a put of an ORDERED item the stage and seq of that item (R200). -/
structure DItem where
  item : Item
  pinned : Bool := false
  origin : Nat := 1
  k1 : Nat := 0
  k2 : Nat := 0
  k3 : Nat := 0
  ord : Nat := 0
  heldStage : Nat := 0
  heldSeq : Nat := 0
  deriving DecidableEq, Repr

/-- What a tile is doing (chapter 04, Table 9). -/
inductive TileRun where
  | idle | running | fdone | parked | stopped
  deriving DecidableEq, Repr

/-- A parked translation fault (R44, R266, R267). -/
structure ParkRec where
  va : Nat
  reason : Nat
  level : Nat
  access : Nat
  desc : Nat
  descDpa : Nat
  frame : Word
  epc : Nat
  vstart : Nat
  deriving DecidableEq, Repr

/-- Why a tile stopped, as the EXECUTE's pennant will carry it (R101 to R103, R153, R154). -/
structure StopRec where
  status : Nat
  source : Nat
  reason : Nat
  index : Nat := 0
  sub : Nat
  address : Nat
  deriving DecidableEq, Repr

/-- The indices of a VDICT that met a fault (R129): its offset, the element at which it goes on, the register as it began, and the register as
the fault left it. -/
structure DictKept where
  pc : Word
  at_ : Nat
  indices : BitVec 4096
  left : BitVec 4096
  deriving DecidableEq, Repr

/-- The state of a tile. -/
structure Tile where
  -- registers (R96, R98)
  sRegs : Tab Word := []
  vRegs : Tab (BitVec 4096) := []
  pRegs : Tab (BitVec 512) := []
  vl : Nat := 512
  vtype : BitVec 3 := 0
  vstart : Word := 0
  tfaultVa : Word := 0
  epc : Word := 0
  ecause : BitVec 3 := 0
  inHandler : Bool := false
  pc : Word := 0
  -- frame interface (R85, R87 to R91)
  ibxSel : BitVec 10 := 0
  obxRoute : Word := 0
  obxSrc : Word := 0
  refused : Bool := false
  sendQ : List Send := []
  sendSeq : Nat := 0
  /-- half B is the lower physical half -/
  bLower : Bool := false
  dirA : List DirEntry := []
  dirB : List DirEntry := []
  /-- bytes written into half A while it was half B, and into half B so far (raw mode), or bytes the records of B take -/
  rawA : Nat := 0
  rawB : Nat := 0
  fillB : Nat := 0
  -- course of the frame (R36, R38, R94, R134)
  run : TileRun := .idle
  fdoneLate : Bool := false
  eos : Bool := false
  /-- the tile waits for the frame to open (R32) -/
  guardStall : Bool := false
  park : Option ParkRec := none
  /-- a re-executed instruction of this tile has not retired yet (R268) -/
  unparked : Bool := false
  stop : Option StopRec := none
  inReset : Bool := false
  resetRefused : Bool := false
  -- dispatcher side (R135, R197)
  held : Option DItem := none
  /-- puts made while the held item is in service -/
  puts : Nat := 0
  /-- a waiting DQ.GET: destination register and descriptor offset -/
  dqWait : Option (Nat × Nat) := none
  /-- the local queue of four entries (R197), head first -/
  localQ : List DItem := []
  /-- decode unit -/
  decQ : List DecCmd := []
  decRun : Option DecRun := none
  -- TIL registers (Tables 7 to 12)
  ctl : BitVec 3 := 3
  excCause : Word := 0
  excPc : Word := 0
  excVa : Word := 0
  excFrame : Word := 0
  dictIdx : Option DictKept := none
  perfBusy : Word := 0
  perfFdone : Word := 0
  perfHolds : Word := 0
  debugCtl : Word := 0
  trim : Word := 0
  cache : Cache := {}
  mmu : Mmu := {}
  deriving DecidableEq, Repr

end Sys2Proof.Machine
end

