-- ==== Sys2Proof/Machine/Types/Engine.lean ====
section
/-! DEFINITION. The state of sort, compression and digest engines, key slots and public results (chapters 08, 14, 15), and of data-mover
groups and their channels (chapter 13). -/

namespace Sys2Proof.Machine

/-- What a finished job will publish: the fields of its completion record (tables 1 of chapters 08 and 14, table 2 of 15). -/
structure JobOutcome where
  code : Nat
  reason : Nat
  inUsed : Nat := 0
  outBytes : Nat := 0
  faultVa : Nat := 0
  runs : Nat := 0
  passes : Nat := 0
  frames : Nat := 0
  flags : Nat := 0
  digest : List Byte := []
  /-- key bytes that a KEY_LOAD read -/
  key : List Byte := []
  /-- what becomes readable at the publication: output and saved state, by DPA -/
  writes : List (Nat × List Byte) := []
  deriving DecidableEq, Repr

/-- A job of a sort, compression or digest engine, posted and not yet published. -/
structure EngJob where
  /-- posting virtual and physical tile, and the block's tile-store offset -/
  vtile : Nat
  tile : Nat
  off : Nat
  /-- bytes 0x00 to 0x3F of the block, copied at the post -/
  blk : List Byte
  /-- parcel frame in which it was posted, and its posting number -/
  frame : Nat
  post : Nat
  vintage : Nat := 0
  admitted : Bool := false
  start : Nat := 0
  due : Nat := 0
  dur : Nat := 0
  allow : Nat := 0
  prio : Nat := 0
  running : Bool := false
  suspendedOnce : Bool := false
  suspended : Bool := false
  snoop : Bool := false
  /-- the key an HMAC job was admitted with (R315) -/
  key : List Byte := []
  /-- bytes a snoop job has digested so far -/
  seen : List Byte := []
  /-- address of the first poisoned byte that a snoop job was fed (R329); what follows it is not digested -/
  seenPoison : Option Nat := none
  /-- the bound transfer of a snoop job has ended -/
  ended : Bool := false
  /-- output blocks of 64 KiB reported to the bound channel (R307) -/
  blocks : Nat := 0
  /-- what the bound channel had moved when the job's first block was reported (R307) -/
  movedFrom : Option Nat := none
  /-- what the bound channel has moved of it in transfers that have ended: virtual address and bytes (R307) -/
  movedRuns : List (Nat × Nat) := []
  /-- its slot overlaps that of a job held by another engine (R297) -/
  spoilt : Bool := false
  /-- input bytes of a sort job that its output or scratch shares, as they stood when it began: address and bytes (R181) -/
  kept : List (Nat × List Byte) := []
  outcome : Option JobOutcome := none
  /-- it is finished, and an invalidation removed a translation of what it will publish (R259) -/
  held : Bool := false
  deriving DecidableEq, Repr

/-- An engine: a sort, compression or digest engine (SRT, CMP and DGT blocks). -/
structure Engine where
  jobs : List EngJob := []
  posts : Nat := 0
  /-- the largest due frame admitted so far on a sort engine (R180) -/
  lastDue : Nat := 0
  late : Bool := false
  verifyFail : Bool := false
  evEn : Bool := true
  cntJobs : Word := 0
  cntIn : Word := 0
  cntOut : Word := 0
  err : Word := 0
  errVa : Word := 0
  verifyCnt : Word := 0
  trim : Word := 0
  tlb : Tlb := {}
  /-- DGT_MJOB, the management job that runs and the last result (R319, R328) -/
  mjobReg : Word := 0
  mjob : Option MgmtJob := none
  mresult : List Byte := []
  /-- DGT_STATE -/
  mstate : List Byte := []
  deriving DecidableEq, Repr

/-- Who owns a key slot (R314). -/
inductive KeyOwner where
  | nobody | parcel (p : Nat) | mgmt
  deriving DecidableEq, Repr

/-- A key slot: owner, the parcel number last written for it (Table 11), and the HMAC alg and key bytes it was loaded with. -/
structure KeySlot where
  owner : KeyOwner := .nobody
  num : BitVec 6 := 0
  key : Option (Nat × List Byte) := none
  deriving DecidableEq, Repr

/-- A public result slot (chapter 15, Table 6). -/
structure PubSlot where
  digest : List Byte := []
  alg : Nat := 0
  len : Nat := 0
  source : Nat := 0
  seq : Nat := 0
  frame : Word := 0
  vintage : Nat := 0
  deriving DecidableEq, Repr

/-- A burst in flight: offset of its first byte in the transfer, its length, whether it began on a due request (R278), and the
access issued again, its DPA and whether it is a write, with the retries it has used (R284). -/
structure Burst where
  off : Nat
  len : Nat
  due : Bool
  retries : Nat := 0
  failing : Option (Nat × Bool) := none
  /-- ports whose link has gone down since its reads were sent (R461) -/
  lost : List Nat := []
  deriving DecidableEq, Repr

/-- A burst that a parcel reset left in flight: its parcel and vintage, whether it writes to a host, and the runs it can still write. -/
structure OldBurst where
  parcel : Nat
  vintage : Nat
  host : Bool
  runs : List (Nat × Nat)
  deriving DecidableEq, Repr

/-- A channel of a data-mover group (chapter 13, Tables 7 to 11). -/
structure Chan where
  src : Word := 0
  dst : Word := 0
  cnt : BitVec 32 := 0
  ctl : Word := 0x20000000
  hiwat : BitVec 32 := 0
  lowat : BitVec 32 := 0
  qsel : Word := 0
  ns : BitVec 10 := 0
  enq : Word := 0
  busy : Bool := false
  done : Bool := false
  aborted : Bool := false
  gateClosed : Bool := false
  startRefused : Bool := false
  writeRefused : Bool := false
  err : BitVec 8 := 0
  retries : Nat := 0
  reqPending : Nat := 0
  remaining : Nat := 0
  moved : Nat := 0
  -- sampled at start (R272)
  xsrc : Nat := 0
  xdst : Nat := 0
  xcnt : Nat := 0
  xctl : Word := 0
  xhi : Nat := 0
  xlo : Nat := 0
  xqsel : Word := 0
  xns : Nat := 0
  xenq : Word := 0
  vintage : Nat := 0
  /-- the program and step this channel runs, of the committed image's list -/
  prog : Option (Nat × Nat) := none
  /-- an nsid above 1,023 was bound (R73) -/
  badNs : Bool := false
  burst : Option Burst := none
  burstNo : Nat := 0
  /-- the service reads the next burst of a namespace, and how much of the transfer it has read ahead so far (R395) -/
  ahead : Bool := false
  aheadOff : Nat := 0
  /-- due requests of the frame not yet served in full (R278), and doorbells that count in the next frame (R277) -/
  dueOpen : Nat := 0
  lateReq : Nat := 0
  /-- the physical digest engine that snoops the channel (R287, R322), and whether the bound transfer has started -/
  snoop : Option Nat := none
  snoopLive : Bool := false
  /-- bursts that a parcel reset left in flight (R288, R414) -/
  old : List OldBurst := []
  /-- a due burst was completed inside the parcel's guard window (R278) -/
  dueLate : Bool := false
  deriving DecidableEq, Repr

/-- A data-mover group (chapter 13, Tables 7, 12 to 14). -/
structure Group where
  stopped : Bool := false
  stopEvEn : Bool := true
  retryEvEn : Bool := false
  errDpa : Nat := 0
  errValid : Bool := false
  trim : Word := 0
  tlb : Tlb := {}
  chans : Tab Chan := []
  deriving DecidableEq, Repr

end Sys2Proof.Machine
end

