-- ==== Sys2Proof/Machine/Types/Image.lean ====
section
/-! DEFINITION. What a pipeline image holds once loaded, live or shadow, and the state of the loader (chapter 03). -/

namespace Sys2Proof.Machine

/-- A route entry (chapter 03, Table 10). -/
structure Route where
  id : Nat
  fan : Bool
  src : Nat
  dst : Nat
  hashLo : Nat
  hashBits : Nat
  deriving DecidableEq, Repr

/-- A TILECODE section (Table 6). `tiles` is the mask of receiving virtual tiles. -/
structure TileCode where
  tiles : Nat
  code : List Byte
  entry : Nat
  handlers : List Nat
  deriving DecidableEq, Repr

/-- A TILEDATA section (Table 8). `at_` is where its data lies in the staging buffer. -/
structure TileData where
  tiles : Nat
  tsOffset : Nat
  dataBytes : Nat
  zeroBytes : Nat
  stagedAt : Nat
  deriving DecidableEq, Repr

/-- A DECODE_TABLE section (Table 11). -/
structure DecTable where
  tiles : Nat
  slot : Nat
  states : Nat
  actionBase : Nat
  transitions : List Nat
  actions : List Nat
  deriving DecidableEq, Repr

/-- A HASH_PARAM entry (Table 12). -/
structure HashEntry where
  tiles : Nat
  slot : Nat
  keyLen : Nat
  seed : Nat
  deriving DecidableEq, Repr

/-- A column descriptor of a SORT_TABLE (Table 13). -/
structure SortColumn where
  srcOffset : Nat
  width : Nat
  kind : Nat
  descending : Bool
  nullsFirst : Bool
  transformOn : Bool
  transform : Nat
  nullBit : Nat
  deriving DecidableEq, Repr

/-- A normalization table (Table 13). -/
structure SortTable where
  id : Nat
  keyBytes : Nat
  recordBytes : Nat
  stable : Bool
  columns : List SortColumn
  deriving DecidableEq, Repr

/-- A STAGE_MAP entry (Table 14), with the virtual tiles of its stage. -/
structure StageEntry where
  pipeline : Nat
  stage : Nat
  pooled : Bool
  source : Bool
  sink : Bool
  tiles : List Nat
  budget : Nat
  inboxBase : Nat
  inboxHalf : Nat
  deriving DecidableEq, Repr

/-- A FLOW_SETUP entry (Table 15). -/
structure FlowSetup where
  pipeline : Nat
  stage : Nat
  cls : Nat
  priority : Nat
  flowBase : Nat
  flowCount : Nat
  affDepth : Nat
  affWindow : Nat
  reorder : Nat
  deriving DecidableEq, Repr

/-- A step of a mover program (Table 16). -/
structure MoverStep where
  src : Nat
  dst : Nat
  count : Nat
  ctl : Nat
  srcBind : Nat
  dstBind : Nat
  deriving DecidableEq, Repr

/-- A mover program (Table 16). -/
structure MoverProgram where
  vgroup : Nat
  channel : Nat
  pipeline : Nat
  stage : Nat
  steps : List MoverStep
  deriving DecidableEq, Repr

/-- A BIND_SLOTS entry (Table 17). -/
structure BindSlot where
  slot : Nat
  type : Nat
  required : Bool
  pipeline : Nat
  stage : Nat
  length : Nat
  paramOffset : Nat
  tsOffset : Nat
  deriving DecidableEq, Repr

/-- The structures an image loads. The empty image (R82) has `loaded` false. -/
structure Image where
  loaded : Bool := false
  imageId : Nat := 0
  pipelines : Nat := 0
  minFrame : Nat := 0
  /-- mover groups and engines required (Table 1) -/
  groups : Nat := 0
  ceCount : Nat := 0
  deCount : Nat := 0
  seCount : Nat := 0
  flowCapacity : Nat := 0
  /-- physical quad of each virtual quad (R56, R57) -/
  placement : List Nat := []
  routes : List Route := []
  fanList : List Nat := []
  codes : List TileCode := []
  datas : List TileData := []
  decTables : List DecTable := []
  hashes : List HashEntry := []
  sortTables : List SortTable := []
  transforms : List (List Byte) := []
  stages : List StageEntry := []
  flows : List FlowSetup := []
  movers : List MoverProgram := []
  binds : List BindSlot := []
  /-- the image digest and the key digest published at commit (R62) -/
  digest : List Byte := []
  keyDigest : List Byte := []
  deriving DecidableEq, Repr

/-- The header fields and table that the loader keeps while the stream arrives (Tables 1 and 2). -/
structure SectionInfo where
  type : Nat
  offset : Nat
  length : Nat
  digest : List Byte
  deriving DecidableEq, Repr

/-- How far a LOAD_IMAGE has come (R76 to R79). -/
inductive LoadPhase where
  | streaming   -- bytes are arriving and are checked
  | checked     -- every check has passed; waiting for a boundary without an EXECUTE (R78)
  | copying     -- TILEDATA is being copied from staging
  | copied      -- the copy is complete; the image commits at the next parcel boundary
  deriving DecidableEq, Repr

/-- The loader of a parcel while a LOAD_IMAGE or UNLOAD_IMAGE is being loaded. -/
structure Loader where
  phase : LoadPhase
  /-- acceptance number of the command being loaded -/
  seq : Nat
  streamLen : Nat
  staging : Nat
  stagingBytes : Nat
  /-- the bytes received so far -/
  bytes : List Byte
  /-- its snoop job holds virtual digest engine 0 (R324) -/
  bound : Bool := false
  /-- shadow copies (R77) -/
  shadow : Image
  deriving DecidableEq, Repr

end Sys2Proof.Machine
end

