-- ==== Sys2Proof/Machine/Types/Parcel.lean ====
section
/-! DEFINITION. The state of a parcel, its EXECUTE and its share of the dispatcher (chapters 02, 09, 19), and of the task windows
and their commands (chapter 17). -/

namespace Sys2Proof.Machine

/-- Parcel states (chapter 19, Table 3). -/
inductive ParcelSt where
  | free | building | active | quiescing | resetting
  deriving DecidableEq, Repr

/-- A flow's affinity (R197, R198). -/
structure FlowAff where
  tile : Nat
  frame : Nat
  deriving DecidableEq, Repr

/-- The dispatcher's share of a parcel (chapter 09). Queued items stand in the tiles' local queues, items in service at the
tiles that hold them. -/
structure Dsp where
  pending : List DItem := []
  ready : List DItem := []
  waiting : List DItem := []
  heldBack : List DItem := []
  flows : Tab FlowAff := []
  /-- next seq of each pooled stage, under 64 × pipeline + stage -/
  seqs : Tab Nat := []
  closed : List Nat := []
  arrivals : Nat := 0
  /-- sampled at commit (R197) -/
  affDepth : Nat := 2
  affWindow : Nat := 8
  peak : Nat := 0
  deliv : Word := 0
  refused : Word := 0
  discard : Word := 0
  deriving DecidableEq, Repr

/-- A pipeline of a running EXECUTE. -/
structure Pipe where
  id : Nat
  /-- consecutive holds (R39) -/
  holds : Nat := 0
  /-- parking counts of its stages (R44) -/
  parks : Tab Nat := []
  /-- the pipeline has decanted with every stage at end of stream -/
  finished : Bool := false
  deriving DecidableEq, Repr

/-- A running EXECUTE (R46 to R49). -/
structure Exec where
  /-- acceptance number of its command -/
  seq : Nat
  start : Word
  frames : Nat := 0
  holds : Nat := 0
  param : List Byte := []
  pipes : List Pipe := []
  /-- failures other than tile stops that end it at the next boundary: CAPACITY, POISONED, mover halts -/
  fails : List StopRec := []
  /-- address of the last posted write of this EXECUTE on each port (R458) -/
  hostWrites : Tab Nat := []
  deriving DecidableEq, Repr

/-- Outstanding invalidations (R259): issuing tile, whether it came through MMU_INV_CMD or a command, its number, and whether it
reaches the issuing tile only. -/
structure Inval where
  tile : Option Nat
  byReg : Bool
  cmd : Option Nat := none
  only : Bool := false
  deriving DecidableEq, Repr

/-- A fault record waiting for the mailbox (R267, R427). -/
structure FaultRec where
  bytes : List Byte
  vintage : Nat
  deriving DecidableEq, Repr

/-- Units of the estate that a parcel holds, one bit each: quads, slices, groups and engines (R408). -/
structure UnitSet where
  quads : BitVec 64 := 0
  slices : BitVec 64 := 0
  groups : BitVec 64 := 0
  ce : BitVec 16 := 0
  de : BitVec 16 := 0
  se : BitVec 16 := 0
  deriving DecidableEq, Repr

/-- A parcel (chapter 19). -/
structure Parcel where
  st : ParcelSt := .free
  /-- units that this ID held last and no parcel has held since (R411) -/
  past : UnitSet := {}
  signedOnly : Bool := false
  vf : Nat := 0
  vintage : Nat := 1
  mbxPair : Nat := 0
  vectors : Nat := 0
  quads : BitVec 64 := 0
  slices : BitVec 64 := 0
  groups : BitVec 64 := 0
  ce : BitVec 16 := 0
  de : BitVec 16 := 0
  se : BitVec 16 := 0
  bslots : List Nat := [0, 0, 0, 0]
  dslots0 : Nat := 0
  dslots1 : Nat := 0
  /-- the dispatch slots it holds on DSP0 and DSP1 (R208) -/
  slots0 : List Nat := []
  slots1 : List Nat := []
  itemCap : Nat := 0
  flowCap : Nat := 0
  tablePages : Nat := 0
  /-- Rs in bytes (R410) -/
  rs : Nat := 0
  dspBase : Nat := 0
  keyHash : List Byte := []
  /-- D as last accepted and as in force (R34, R508) -/
  div : BitVec 7 := 1
  divNow : BitVec 7 := 1
  park : BitVec 16 := 0x3E8
  parkNow : BitVec 16 := 0x3E8
  idle1 : BitVec 32 := 0xA
  idle2 : BitVec 32 := 0x3E8
  idle3 : BitVec 32 := 0x186A0
  staleCnt : Word := 0
  /-- PCL_P_STS.ps -/
  ps : Nat := 0
  /-- DPA of the root table (R247) -/
  root : Nat := 0
  /-- pages of the table region that hold tables, in its order (R263, R410) -/
  tablesUsed : Nat := 0
  /-- table descriptors that MAP installed under R264: address, virtual address and level -/
  tdescs : List (Nat × Nat × Nat) := []
  image : Image := {}
  loader : Option Loader := none
  exec : Option Exec := none
  dsp : Dsp := {}
  invals : List Inval := []
  /-- PCL_V_TSEL of the bound VF -/
  tsel : BitVec 10 := 0
  deriving DecidableEq, Repr

/-- Where an outstanding command stands (R363, R366). -/
inductive CmdPhase where
  | held | waiting | running | decided
  deriving DecidableEq, Repr

/-- A command accepted and not yet complete in the sense of R357. -/
structure Cmd where
  win : Window
  tag : Nat
  opcode : Nat
  ordered : Bool
  raw : List Byte
  parcel : Option Nat
  vintage : Nat
  /-- acceptance number, and the acceptance number that a barrier's release or a drain gives it (R363, R414) -/
  seq : Nat
  phase : CmdPhase
  /-- the command has begun to act: it is neither held nor waiting for a power-state exit or for older vintages -/
  begun : Bool := false
  /-- a structure the command points to, once read (R358) -/
  fetched : Option (List Byte) := none
  /-- data that its row brought from the host -/
  data : List Byte := []
  /-- data of a WRITE, once its whole data list is read (R386) -/
  payload : Option (List Byte) := none
  /-- the command waits for a power-state exit (R401) -/
  wake : Bool := false
  deriving DecidableEq, Repr

/-- A pennant, notice or event record on its way to a ring: its 32 bytes without the phase bit, the command it completes, and the
vintage it carries. -/
structure Pennant where
  bytes : List Byte
  cmd : Option Nat
  vintage : Nat
  parcel : Option Nat
  deriving DecidableEq, Repr

/-- A task window (chapter 17, Tables 17 to 23). -/
structure Win where
  task : List Byte := List.replicate 64 0
  busy : Bool := false
  /-- the 64 bytes sampled at the submission -/
  latched : List Byte := []
  dropped : Bool := false
  noRing : Bool := false
  cfgRefused : Bool := false
  headErr : Bool := false
  base : Word := 0
  en : Bool := false
  intEn : Bool := true
  sizeLog2 : BitVec 5 := 4
  vector : BitVec 11 := 0
  head : BitVec 16 := 0
  tail : BitVec 16 := 0
  phase : Bool := true
  wparcel : BitVec 6 := 0
  wvalid : Bool := false
  /-- pennants and notices that wait for ring room, in the order decided (R371) -/
  waitQ : List Pennant := []
  deriving DecidableEq, Repr

end Sys2Proof.Machine
end

