-- ==== Sys2Proof/Machine/Types/Io.lean ====
section
/-! DEFINITION. The state of mailboxes and locks (chapter 20), the event block (chapter 21) and the host ports (chapter 22). -/

namespace Sys2Proof.Machine

/-- A mailbox channel (chapter 20, Tables 4 to 6). -/
structure Mbx where
  /-- MBX_MSG0 to MBX_MSG6 as staged by the sender, and MBX_MSG7 as last written -/
  staging : List Byte := List.replicate 56 0
  last : List Byte := List.replicate 8 0
  /-- the held message -/
  held : List Byte := List.replicate 64 0
  full : Bool := false
  collision : Bool := false
  stale : Bool := false
  fault : Bool := false
  denied : Bool := false
  /-- the stale interval has been reported for the message now held, or is disabled for it (R426) -/
  staleDone : Bool := false
  /-- fault records held back (R427) -/
  waiting : List FaultRec := []
  ctl : BitVec 3 := 5
  sender : BitVec 16 := 0
  receiver : BitVec 16 := 0
  valid : Bool := false
  deriving DecidableEq, Repr

/-- The mailbox and lock block. -/
structure MbxBlock where
  chans : Tab Mbx := []
  bindLock : BitVec 64 := 0
  staleUs : BitVec 32 := 0x186A0
  bindRefused : Bool := false
  /-- pairs whose entries the firmware bound at boot (R407, R429) -/
  fwPairs : BitVec 64 := 0
  /-- owners of held locks -/
  locks : Tab (BitVec 16) := []
  grants : Tab Word := []
  violation : Bool := false
  forced : Bool := false
  writer : BitVec 16 := 0
  badLock : BitVec 6 := 0
  deriving DecidableEq, Repr

/-- An event record that has been built and waits to be written (R441, R442): without its phase bit and coalesced count. -/
structure EvRec where
  source : Nat
  cause : Nat
  vunit : Nat
  vintage : Nat
  frame : Word
  sub : Nat
  status : Word
  /-- the parcel that it belongs to -/
  parcel : Option Nat
  deriving DecidableEq, Repr

/-- A source of the event block (chapter 21, Table 7). -/
structure EvSrc where
  vector : BitVec 11 := 0
  dest : BitVec 2 := 0
  mask : Bool := false
  pending : Bool := false
  /-- while pending: the owner at the raise, a function, or none for the management complex (R438) -/
  owner : Option Nat := none
  coalesced : BitVec 8 := 0
  /-- record withheld by the mask (R442) -/
  masked : Option EvRec := none
  deriving DecidableEq, Repr

/-- An event ring of a function (R445). -/
structure EvRing where
  base : Word := 0
  en : Bool := false
  sizeLog2 : BitVec 5 := 4
  head : BitVec 16 := 0
  tail : BitVec 16 := 0
  phase : Bool := true
  /-- records that wait for room, in the order built: record and coalesced count, with the owning parcel -/
  waitQ : List (EvRec × Nat) := []
  deriving DecidableEq, Repr

/-- An MSI-X table entry (R446). -/
structure MsixEntry where
  addr : Word := 0
  data : BitVec 32 := 0
  mask : Bool := true
  pending : Bool := false
  deriving DecidableEq, Repr

/-- The MSI-X control of a function in its configuration space (R446): MSI-X Enable and Function Mask. -/
structure MsixCtl where
  enable : Bool := false
  mask : Bool := false
  deriving DecidableEq, Repr

/-- The event block, and the MSI-X tables of the functions. -/
structure EvtBlock where
  srcs : Tab EvSrc := []
  routeErr : Bool := false
  cfgRefused : Bool := false
  headErr : Bool := false
  rings : Tab EvRing := []
  trim : Word := 0
  /-- records delivered to the firmware's queue (R439) with their coalesced counts, newest first -/
  fwQueue : List (EvRec × Nat) := []
  /-- MSI-X entries, under 2048 × function + vector -/
  msix : Tab MsixEntry := []
  /-- MSI-X Enable and Function Mask of each function -/
  msixCtl : Tab MsixCtl := []
  /-- messages sent, newest first: function and vector -/
  sent : List (Nat × Nat) := []
  deriving DecidableEq, Repr

/-- What a configuration request meets (R450, R454, R489). -/
inductive CfgAnswer where
  | retry | served | recovery | unsupported
  deriving DecidableEq, Repr

/-- A zero-length ordering read (R458): port, address, and the command whose pennant waits for it. -/
structure OrderRead where
  port : Nat
  addr : Nat
  cmd : Nat
  deriving DecidableEq, Repr

/-- A host port. -/
structure HostPort where
  linkUp : Bool := false
  perst : Bool := false
  retry : Bool := true
  recovery : Bool := false
  /-- VF Enable of the port's PF0 (R405) -/
  vfEnable : Bool := false
  /-- the last LTR value sent, µs (R459), and the L0p width requested of the partner (R460) -/
  ltr : Nat := 100
  narrow : Bool := false
  /-- the answer to the last configuration request -/
  answer : CfgAnswer := .retry
  /-- requests refused as Unsupported Request (R452), and the errors that the AER status registers hold (R449) -/
  aer : Nat := 0
  aerErrs : List AerError := []
  /-- settings of PF0's configuration space (R449): payload and read request size in bytes, completion timeout in µs, tags in use -/
  payload : Nat := 128
  readRequest : Nat := 512
  timeout : Nat := 50000
  tag10 : Bool := false
  tag14 : Bool := false
  /-- Device Readiness Status messages sent (R454) -/
  drs : Nat := 0
  deriving DecidableEq, Repr

/-- The host ports. -/
structure Ports where
  hpa : HostPort := {}
  hpb : HostPort := {}
  bifurcated : Bool := false
  orderReads : List OrderRead := []
  deriving DecidableEq, Repr

end Sys2Proof.Machine
end

