-- ==== Sys2Proof/Machine/Types/Block.lean ====
section
/-! DEFINITION. The state of the frame generator, memory stacks, dispatcher, digest control, health, power, reset and boot blocks, and of
the package (chapters 01, 02, 09, 10, 15, 19, 23, 24, 25). -/

namespace Sys2Proof.Machine

/-- The three parts (chapter 00). -/
inductive Part where
  | xv256 | xv192 | xv128
  deriving DecidableEq, Repr

/-- The GLB block (chapter 01, Table 6). -/
structure Glb where
  part : Part := .xv256
  serial : Word := 0
  fwVer : Word := 0
  fwSlot : Bool := false
  scratch : Word := 0
  fuseCtl : Word := 0
  deriving DecidableEq, Repr

/-- The frame generator (chapter 02, Tables 8 and following). -/
structure Frm where
  /-- FRM_PERIOD as last accepted, and the period of the frame now running (R33, R508) -/
  period : BitVec 16 := 0x960
  periodNow : BitVec 16 := 0x960
  count : Word := 0
  /-- cycle within the running frame -/
  cycle : Nat := 0
  guardOpen : Bool := false
  hold : BitVec 8 := 0x10
  holdNow : BitVec 8 := 0x10
  running : Bool := true
  periodRefused : Bool := false
  periodRange : Bool := false
  holdErr : Bool := false
  ptmEn : Bool := false
  ptmPort : Bool := false
  ptmFrame : Word := 0
  ptmCycle : BitVec 16 := 0
  ptmSeq : BitVec 16 := 0
  ptmHost : Word := 0
  /-- a read of FRM_PTM_FRAME froze FRM_PTM_CYCLE and FRM_PTM_HOST (R51) -/
  frozen : Bool := false
  /-- a capture made during the freeze, which the two registers take when it ends: cycle, seq and host time -/
  ptmLate : Option (BitVec 16 × BitVec 16 × Word) := none
  /-- the request timer has started a dialogue -/
  ptmAsked : Bool := false
  trim : Word := 0
  deriving DecidableEq, Repr

/-- A stack's block (chapter 10). -/
structure Stack where
  trained : Bool := false
  /-- the stack has failed its training attempts: its slices never enter the estate (R488) -/
  failed : Bool := false
  scrubPass : Bool := false
  ceThresh : Bool := false
  ueSeen : Bool := false
  ctl : Word := 0x04000003
  /-- MEM_SCRUB_CTL as last accepted and the interval in force -/
  scrubCtl : Word := 0x1801
  scrubNow : Word := 0x1801
  /-- next line of the pseudo-channels of slice i of the stack -/
  pos : Tab Nat := []
  passes : Nat := 0
  ceCnt : Tab Word := []
  ueCnt : Tab Word := []
  ueAddr : Nat := 0
  ueValid : Bool := false
  redCnt : Word := 0
  temp : Nat := 0
  train : Word := 0
  refresh : Word := 0
  paramErr : Bool := false
  deriving DecidableEq, Repr

/-- A reduction sent to the memory and not yet applied (R167). -/
structure Red where
  dpa : Nat
  op : RedOp
  signed : Bool
  bytes : Nat
  value : Nat
  tile : Nat
  parcel : Nat
  vintage : Nat
  /-- an invalidation removed a translation of its tile after it was sent (R259) -/
  held : Bool := false
  deriving DecidableEq, Repr

/-- A region of memory whose contents the manual leaves undefined, with the number of the free value that stands for them. -/
structure Undef where
  lo : Nat
  hi : Nat
  stamp : Nat
  deriving DecidableEq, Repr

/-- A region that a running sort job writes (R181): bytes stored there meanwhile are undefined too. -/
structure Churn where
  lo : Nat
  hi : Nat
  eng : Nat
  post : Nat
  deriving DecidableEq, Repr

/-- Host memory as far as the engine has not written it: what stands there is the host's. -/
def Undef.host : Undef := { lo := 0x8000000000000, hi := 0x10000000000000, stamp := 0 }

/-- Memory: the tile stores, the cellar, and what has been written through the host aperture. -/
structure Mem where
  /-- bytes by DPA, rising, no entry 0: an unlisted byte reads 0 -/
  cells : List Host.Cell := []
  /-- 64-byte lines marked poisoned, by line DPA, rising -/
  poison : List Nat := []
  undef : List Undef := [Undef.host]
  /-- number of the next undefined region -/
  fresh : Nat := 0
  /-- cellar bytes stored to, and words reduced into, in the running parcel frame (R170) -/
  stores : List (Nat × Nat) := []
  reduced : List (Nat × Nat) := []
  churn : List Churn := []
  deriving DecidableEq, Repr

/-- The dispatcher's device-wide registers (chapter 09). -/
structure DspGlobal where
  ctl : Word := 1
  affDepth : BitVec 16 := 2
  affWindow : BitVec 16 := 8
  paramErr : Bool := false
  deliv0 : Word := 0
  deliv1 : Word := 0
  trim : Word := 0
  deriving DecidableEq, Repr

/-- The device-wide control block of the digest engines (chapter 15). -/
structure DgtCtl where
  keys : Tab KeySlot := []
  expect : List Byte := List.replicate 64 0
  /-- DGT_CMP: source, engine, page, slot, a compare in progress, done, pass -/
  cmpSrc : Bool := false
  cmpEng : Nat := 0
  cmpPage : Nat := 0
  cmpSlot : Nat := 0
  cmpBusy : Bool := false
  cmpDone : Bool := false
  cmpPass : Bool := false
  /-- public results, under 32 × page + slot; page 64 is the device page -/
  pub : Tab PubSlot := []
  deriving DecidableEq, Repr

/-- The registers of the PCL block that no parcel owns (chapter 19). -/
structure PclGlobal where
  divErr : Bool := false
  parkErr : Bool := false
  splitErr : Bool := false
  split : BitVec 7 := 0x20
  deriving DecidableEq, Repr

/-- A sample of an indicator (R466): powered day, and the wear value as a fraction. -/
structure HSample where
  day : Nat
  num : Nat
  den : Nat
  deriving DecidableEq, Repr

/-- An indicator (R463, Table 10 of chapter 23). -/
structure Indicator where
  value : Nat := 0
  /-- w at the last sample, numerator and denominator -/
  num : Nat := 0
  den : Nat := 1
  eol : Nat := 0xFFFF
  early : Nat := 0xFFFF
  late : Nat := 0xFFFF
  history : List HSample := []
  m0 : Option Nat := none
  /-- measured during the powered day now running -/
  measured : Bool := false
  /-- MEM_CE_CNT at the last day's end, for a slice, and the day's lines from before a reset cleared that count -/
  ceBase : Nat := 0
  ceCarry : Nat := 0
  /-- serial of the cask the history was taken with, for a cask port -/
  serial : List Byte := []
  /-- trainings of a cask port's link that fell short of 64 GT/s ×4: powered day, rate and width, oldest first (R462) -/
  shortfalls : List (Nat × LinkRate × LinkWidth) := []
  deriving DecidableEq, Repr

/-- The health log of the boot flash (R468): the histories, whether their record is there and passes its check, and the two count records. -/
structure HealthLog where
  present : Bool := false
  hist : Tab Indicator := []
  count0 : List Byte := []
  count1 : List Byte := []
  deriving DecidableEq, Repr

/-- The HLT block. Indicators lie under n for Qn, 64 + n for Sn, and 128 + i for port i. -/
structure Hlt where
  valid : Bool := false
  historyReset : Bool := false
  sensorFault : Bool := false
  atLimit : Bool := false
  marginLow : Bool := false
  devLevel : BitVec 2 := 0
  ctl : BitVec 2 := 3
  seq : Word := 0
  inds : Tab Indicator := []
  devEol : Nat := 0xFFFF
  devEarly : Nat := 0xFFFF
  devLate : Nat := 0xFFFF
  samples : Nat := 0
  worst : Nat := 0
  peak : Nat := 0
  ceLimit : BitVec 16 := 0x400
  days : Nat := 0
  /-- powered days that ended while no history was loaded (R466) -/
  waitDays : Nat := 0
  /-- HLT_CASK_EOL as last updated (R467, R469) -/
  caskEol : Nat := 0xFFFF
  armed16 : Bool := true
  armed17 : Bool := true
  armed18 : Bool := true
  trim : Word := 0
  log : HealthLog := {}
  deriving DecidableEq, Repr

/-- The PWR block, the always-on latches and the reset block (chapter 24). -/
structure Pwr where
  ps4 : Bool := false
  twarn : Bool := false
  stackWarn : Bool := false
  /-- a die has crossed twarn upward and not every die has fallen 3 °C below it since (R479) -/
  hot : Bool := false
  paramErr : Bool := false
  ctl : Word := 0x005A5F03
  ps4Idle : BitVec 32 := 0xEA60
  /-- PWR_STS.rails_good and PWR_RAIL_STS -/
  railsGood : Bool := true
  good : BitVec 10 := 0
  lost : BitVec 10 := 0
  /-- rails that have left their tolerance and are not known to be good again; bit 0, VDD_AON, until the next cold power-on -/
  down : BitVec 10 := 0
  tripTemp : BitVec 8 := 0
  tripSensor : BitVec 2 := 0
  tripValid : Bool := false
  trim : Word := 0
  /-- readings of the three dies -/
  dies : List Nat := [0, 0, 0]
  /-- every clock outside the always-on domain is stopped (R475, R480) -/
  stopped : Bool := false
  thermtrip : Bool := false
  /-- the stop was a rail loss or a loss of REFCLK_SYS (R475, R499) -/
  railStop : Bool := false
  cause : BitVec 4 := 1
  afterTrip : Bool := false
  afterRail : Bool := false
  resetCount : BitVec 32 := 0
  wdog : Word := 0
  /-- the FW_COMMIT with action 1 whose completion a warm reset follows (R490) -/
  resetAfter : Option Nat := none
  deriving DecidableEq, Repr

/-- A directory copy of the boot flash, or a slot of it, is held as its bytes. -/
structure Flash where
  dir0 : List Byte := []
  dir1 : List Byte := []
  slotA : List Byte := []
  slotB : List Byte := []
  /-- an xSPI read of the slot's body fails -/
  badA : Bool := false
  badB : Bool := false
  /-- the device's SFDP tables offer 8D-8D-8D (R505) -/
  octal : Bool := true
  deriving DecidableEq, Repr

/-- How the boot flash is accessed (R505): the device's state after its reset, and in octal double data rate. -/
inductive XspiMode where
  | s1 | d8
  deriving DecidableEq, Repr

/-- The BOOT sub-block, the fuses it shows and the firmware update in progress. -/
structure Boot where
  stage : Nat := 0
  srcRec : Bool := false
  slotB : Bool := false
  fallback : Bool := false
  bootSrc : Bool := false
  lastReason : Nat := 0
  aReason : Nat := 0
  bReason : Nat := 0
  recReason : Nat := 0
  time : BitVec 32 := 0
  minSvn : BitVec 16 := 0
  svn : BitVec 32 := 0
  keyHash : List Byte := List.replicate 48 0
  recLen : BitVec 23 := 0
  recDone : Bool := false
  recPass : Bool := false
  flashCtl : Word := 0
  /-- the recovery load window, bytes by offset -/
  window : List Host.Cell := []
  flash : Flash := {}
  /-- how the flash is accessed, and the pulses of XSPI_RESET# driven, one for each boot (R505) -/
  xspi : XspiMode := .s1
  xspiResets : Nat := 0
  /-- MGR_PORT: the manager is PF0 of HPB -/
  mgrHpb : Bool := false
  deriving DecidableEq, Repr

/-- What drives the engine's outputs (R506): its own logic, the boundary register, or nothing. -/
inductive PinDrive where
  | functional | boundary | highz
  deriving DecidableEq, Repr

/-- The I3C target, the test access port and the board's cask slots (chapter 25). -/
structure Pkg where
  i3cOff : Nat := 0
  i3cDyn : Option (BitVec 7) := none
  i3cOut : List Byte := []
  /-- instruction register of the test access port, and what its identification or bypass register captured -/
  tap : Nat := 1
  tapDr : BitVec 32 := 0x17256DEF
  /-- the boundary register: levels of sideband balls captured, and levels shifted in, by row index and column -/
  captured : List ((Nat × Nat) × Bool) := []
  preloaded : List ((Nat × Nat) × Bool) := []
  drive : PinDrive := .functional
  /-- cask slots that the board has fitted (R496) -/
  slots : BitVec 16 := 0xFFFF
  /-- an EXTEST, CLAMP or HIGHZ load has left functional mode (R506) -/
  scan : Bool := false
  deriving DecidableEq, Repr

end Sys2Proof.Machine
end

