-- ==== Sys2Proof/Machine/Types/Storage.lean ====
section
/-! DEFINITION. The state of the casks and of the storage service (chapters 16 and 18). -/

namespace Sys2Proof.Machine

/-- Cask states (chapter 16, Table 3). -/
inductive CaskSt where
  | absent | linking | identifying | quarantine | spare | member | readonly | preparing | removable | failed
  deriving DecidableEq, Repr

/-- A data zone of a cask (R331, R336): chunks written, resets, and whether it is open. -/
structure Zone where
  written : Nat := 0
  resets : Nat := 0
  opened : Bool := false
  deriving DecidableEq, Repr

/-- A wear sample (R340): the day, and the wear fraction as numerator and denominator. -/
structure WearSample where
  day : Nat
  num : Nat
  den : Nat
  deriving DecidableEq, Repr

/-- What the engine keeps of a cask that it does not see: serial, wear samples and what they gave, and its zones. -/
structure CaskPast where
  serial : List Byte := []
  samples : List WearSample := []
  eol : BitVec 16 := 0xFFFF
  early : BitVec 16 := 0xFFFF
  late : BitVec 16 := 0xFFFF
  armed180 : Bool := true
  armed90 : Bool := true
  armed30 : Bool := true
  wearLevel : Nat := 0
  zones : Tab Zone := []
  deriving DecidableEq, Repr

/-- A cask port (chapter 16, Tables 6 to 16). -/
structure Cask where
  st : CaskSt := .absent
  present : Bool := false
  linkUp : Bool := false
  inSet : Bool := false
  set : Nat := 0
  wearLevel : Nat := 0
  qReason : Nat := 0
  evPending : BitVec 8 := 0
  evEn : BitVec 8 := 0xFF
  locate : Bool := false
  slowLimit : BitVec 16 := 0x10
  page : WearPage := { avgPe := 0, maxPe := 0, spareBlocks := 0, readOnly := false, written := 0 }
  wrBytes : Word := 0
  eol : BitVec 16 := 0xFFFF
  early : BitVec 16 := 0xFFFF
  late : BitVec 16 := 0xFFFF
  samples : List WearSample := []
  /-- serial of the cask that samples and zones are of -/
  sampleSerial : List Byte := []
  /-- days that the management complex's clock has counted on this port (R340) -/
  day : Nat := 0
  /-- thresholds of R341 that may raise their event -/
  armed180 : Bool := true
  armed90 : Bool := true
  armed30 : Bool := true
  slowNs : BitVec 32 := 0xF4240
  slowCnt : Word := 0
  slowHour : Nat := 0
  /-- event 4 has been raised in this hour -/
  slowRaised : Bool := false
  /-- the set record on the cask (R377) -/
  setRec : Option SetRecord := none
  zones : Tab Zone := []
  zoneCount : Nat := 0
  rackPct : BitVec 7 := 0x14
  rebuildPct : BitVec 7 := 0x32
  livePct : BitVec 7 := 0x32
  trim : Word := 0
  idrec : List Byte := []
  /-- every check of R332 has passed -/
  auth : Bool := false
  /-- the CASK_PREPARE_REMOVE that waits for this cask, by acceptance number -/
  prepare : Option Nat := none
  -- signals (R350, R351, R500, R503): as the port drives them while its domain is on
  perstLow : Bool := true
  refclk : Bool := false
  blinkLow : Bool := false
  powered : Bool := false
  /-- the rate and width that the link has reached fall short of 64 GT/s ×4 (R462) -/
  short : Bool := false
  deriving DecidableEq, Repr

/-- The content of a unit: bytes by offset, a missing offset reading 0 (R380). -/
abbrev UnitData := List Host.Cell

/-- The name of a unit: namespace and unit number (R379). -/
structure UnitId where
  ns : Nat
  unit : Nat
  deriving DecidableEq, Repr

/-- A member of a protection set (R376 to R378): its port, its cask's serial and zones, and whether it is unavailable. -/
structure Member where
  port : Nat
  serial : List Byte
  zoneCount : Nat
  gone : Bool := false
  deriving DecidableEq, Repr

/-- Where a chunk lies: the serial of its cask, and the zone. -/
structure ChunkAt where
  serial : List Byte
  zone : Nat
  deriving DecidableEq, Repr

/-- A physical stripe of a set (R383, R384): its data chunks, a missing unit being padding, its parity chunks, the members whose
chunks it omits (R394), and the members whose chunk a media error lost. -/
structure Stripe where
  units : List (Option UnitId)
  data : List UnitData
  pChunk : UnitData
  qChunk : UnitData
  omitted : List Nat
  lost : List Nat := []
  /-- where the chunk of each member lies, by member number -/
  zones : Tab ChunkAt := []
  deriving DecidableEq, Repr

/-- New content of a unit that waits in a stripe, or its unmapping (R386, R392). -/
structure Staged where
  id : UnitId
  data : Option UnitData
  deriving DecidableEq, Repr

/-- A closed stripe that has not committed (R387): its number, chunks and content, and whether its journal records are issued. -/
structure Closing where
  k : Nat
  stripe : Stripe
  content : List Staged
  journal : Bool := false
  deriving DecidableEq, Repr

/-- A rebuild or migration of a member of a set (R347, R349): the target's port and serial, the stripes still to be moved, how many zones there
were, the stripe whose chunk is being read, and where a migration has committed chunks that are still read from the cask. -/
structure Move where
  member : Nat
  target : Nat
  serial : List Byte
  rebuild : Bool
  left : List Nat
  total : Nat
  copying : Option Nat := none
  placed : Tab ChunkAt := []
  deriving DecidableEq, Repr

/-- A protection set (R376 to R378). -/
structure ProtSet where
  members : List Member
  p : Nat
  generation : Nat := 1
  /-- capacity, and the reserve it was formed with (R381) -/
  cap : Nat
  reserve : Nat := 7
  nextStripe : Nat := 0
  /-- the open stripe, in chunk order -/
  opened : List Staged := []
  /-- closed stripes, oldest first -/
  closing : List Closing := []
  stripes : Tab Stripe := []
  moves : List Move := []
  /-- what racking is copying: the member and zone to be emptied, and the stripe -/
  rack : Option (Nat × Nat × Nat) := none
  recovering : Bool := false
  deriving DecidableEq, Repr

/-- A namespace (R379). Its map names the stripe and chunk of each mapped unit (R385). -/
structure Namespace where
  nblocks : Nat
  bs : Nat
  set : Nat
  guid : List Byte
  attached : Option Nat := none
  map : Tab (Nat × Nat) := []
  deriving DecidableEq, Repr

/-- Who waits for a read of a cask: a command, a channel that reads a namespace, the move of a member of a set, the racking of a set, or nobody,
once its result is to be discarded. -/
inductive CaskReader where
  | nobody | cmd (seq : Nat) | chan (g c : Nat) | move (set member : Nat) | rack (set : Nat)
  deriving DecidableEq, Repr

/-- A read issued to a cask and not complete (R343, R393): its port, the chunk it reads by set, stripe and member, the unit on whose behalf, and
who waits for it. -/
structure CaskRead where
  port : Nat
  set : Nat
  stripe : Nat
  member : Nat
  id : UnitId
  reader : CaskReader
  /-- it reads the unit's own chunk; otherwise it serves a reconstruction -/
  direct : Bool := true
  /-- it is slow, and is bypassed -/
  slow : Bool := false
  /-- the parcel and vintage of a read that a parcel reset has orphaned (R414) -/
  old : Option (Nat × Nat) := none
  /-- CSK_SLOW_NS was not 0 at the issue (R343) -/
  bypass : Bool := false
  deriving DecidableEq, Repr

/-- A FLUSH in progress: the sets and stripes whose commit it waits for (R391). -/
structure FlushWait where
  cmd : Nat
  stripes : List (Nat × Nat)
  deriving DecidableEq, Repr

/-- The storage service (chapter 18, Tables 8 to 12). -/
structure Sto where
  ready : Bool := false
  setChange : Bool := false
  paramErr : Bool := false
  closeUs : BitVec 16 := 0x3E8
  reservePct : BitVec 8 := 7
  setEvEn : Bool := true
  trim : Word := 0
  sets : Tab ProtSet := []
  nss : Tab Namespace := []
  reads : List CaskRead := []
  flushes : List FlushWait := []
  /-- casks seen before that no port shows now -/
  past : List CaskPast := []
  deriving DecidableEq, Repr

end Sys2Proof.Machine
end

