-- ==== Sys2Proof/Machine/State.lean ====
section
/-! DEFINITION. The whole state of the XV7 as plain data, what can stop a step, and the state after reset. -/

namespace Sys2Proof.Machine

/-- Why a step would stop the model. No meaning raises one: every stop the manual describes is a state of the engine. -/
inductive Fault where
  /-- Raised by nobody. Safe: a state that stops the clocks (R475, R480) is a next state, not a fault. -/
  | unreachable
  deriving DecidableEq, Repr

/-- Why a command would have no meaning. -/
inductive Refusal where
  /-- Raised by `exec` for a command without a meaning, by the name of its row. Safe: nothing is claimed of it. -/
  | notModelled (mnemonic : String)
  deriving DecidableEq, Repr

/-- How a request ends for its master: with good data, with data marked poisoned (R26, R27, R220), with an error completion (R85, R450, R452,
R457), or refused before any access (R213). -/
inductive ReqEnd where
  | good | poisoned | error | refused
  deriving DecidableEq, Repr

/-- The state of the XV7. Tables that list nothing stand for units in their reset state. -/
structure State where
  glb : Glb := {}
  frm : Frm := {}
  mem : Mem := {}
  hbms : Tab Stack := []
  /-- reductions on their way to the controllers, in the order issued (R167) -/
  reds : List Red := []
  tiles : Tab Tile := []
  dsp : DspGlobal := {}
  groups : Tab Group := []
  ces : Tab Engine := []
  des : Tab Engine := []
  ses : Tab Engine := []
  dgt : DgtCtl := {}
  casks : Tab Cask := []
  sto : Sto := {}
  parcels : Tab Parcel := []
  pcl : PclGlobal := {}
  /-- task windows, under 64 × function + window -/
  wins : Tab Win := []
  /-- outstanding commands, in the order accepted, and the next acceptance number -/
  cmds : List Cmd := []
  accepted : Nat := 0
  mbx : MbxBlock := {}
  evt : EvtBlock := {}
  ports : Ports := {}
  hlt : Hlt := {}
  pwr : Pwr := {}
  boot : Boot := {}
  pkg : Pkg := {}
  /-- what the last register or lock read returned to its reader, and the first bytes of the last read at the memory fabric -/
  lastRead : Word := 0
  /-- the completion that the last request at the memory fabric, or the last RC_READ, met -/
  lastEnd : ReqEnd := .good
  /-- the outcomes of one instant are being decided, and their pennants wait for the last of them (R372): the model's own, 0 between steps -/
  deciding : Bool := false
  /-- number of the next free value: the model's own -/
  freeCtr : Nat := 0
  /-- commands that wait, the first in front -/
  pending : List Instr := []
  deriving DecidableEq, Repr

/-- Memory that nothing has defined: every byte of the cellar and of the tile stores is a free value. Host memory is not the engine's. -/
def Mem.unknown (m : Mem) : Mem :=
  { cells := m.cells.filter fun c => decide (0x8000000000000 ≤ c.1), poison := []
    undef := [{ lo := 0, hi := 0x8000000000, stamp := m.fresh }, { lo := 0x100000000000, hi := 0x100010000000, stamp := m.fresh }]
      ++ m.undef.filter fun u => decide (0x8000000000000 ≤ u.lo)
    fresh := m.fresh + 1 }

/-- The machine right after cold power-on: every register at its reset value, nothing waiting, memory undefined. -/
def State.reset : State := { mem := Mem.unknown {} }

end Sys2Proof.Machine
end

