-- ==== Sys2Proof/Machine/Ops.lean ====
section
/-! DEFINITION. Named operations over the state: units and who holds them, the device physical address map, and memory. -/

namespace Sys2Proof.Machine

-- ## Units of the state

/-- Tile `t`. -/
def State.tile (s : State) (t : Nat) : Tile := Tab.get {} s.tiles t
/-- Change tile `t`. -/
def State.updTile (s : State) (t : Nat) (f : Tile → Tile) : State := { s with tiles := Tab.upd {} s.tiles t f }
/-- Parcel `p`. -/
def State.parcel (s : State) (p : Nat) : Parcel := Tab.get {} s.parcels p
/-- Change parcel `p`. -/
def State.updParcel (s : State) (p : Nat) (f : Parcel → Parcel) : State := { s with parcels := Tab.upd {} s.parcels p f }
/-- Data-mover group `g`. -/
def State.group (s : State) (g : Nat) : Group := Tab.get {} s.groups g
/-- Change group `g`. -/
def State.updGroup (s : State) (g : Nat) (f : Group → Group) : State := { s with groups := Tab.upd {} s.groups g f }
/-- Channel `c` of group `g`. -/
def State.chan (s : State) (g c : Nat) : Chan := Tab.get {} (s.group g).chans c
/-- Change a channel. -/
def State.updChan (s : State) (g c : Nat) (f : Chan → Chan) : State :=
  s.updGroup g fun G => { G with chans := Tab.upd {} G.chans c f }
/-- Stack `k`. -/
def State.stack (s : State) (k : Nat) : Stack := Tab.get {} s.hbms k
/-- Change a stack. -/
def State.updStack (s : State) (k : Nat) (f : Stack → Stack) : State := { s with hbms := Tab.upd {} s.hbms k f }
/-- Cask port `n`. -/
def State.cask (s : State) (n : Nat) : Cask := Tab.get {} s.casks n
/-- Change a cask port. -/
def State.updCask (s : State) (n : Nat) (f : Cask → Cask) : State := { s with casks := Tab.upd {} s.casks n f }
/-- Task window `w` of function `f`. -/
def winIx (w : Window) : Nat := 64 * w.fn.val + w.w.val
/-- The state of a task window. -/
def State.win (s : State) (w : Window) : Win := Tab.get {} s.wins (winIx w)
/-- Change a task window. -/
def State.updWin (s : State) (w : Window) (f : Win → Win) : State := { s with wins := Tab.upd {} s.wins (winIx w) f }
/-- Mailbox channel `c`. -/
def State.mchan (s : State) (c : Nat) : Mbx := Tab.get {} s.mbx.chans c
/-- Change a mailbox channel. -/
def State.updMchan (s : State) (c : Nat) (f : Mbx → Mbx) : State :=
  { s with mbx := { s.mbx with chans := Tab.upd {} s.mbx.chans c f } }

/-- The three kinds of engine of a bank (R20). -/
inductive EngKind where
  | ce | de | se
  deriving DecidableEq, Repr

/-- Engine `n` of a kind. -/
def State.eng (s : State) (k : EngKind) (n : Nat) : Engine :=
  match k with
  | .ce => Tab.get {} s.ces n
  | .de => Tab.get {} s.des n
  | .se => Tab.get {} s.ses n
/-- Change an engine. -/
def State.updEng (s : State) (k : EngKind) (n : Nat) (f : Engine → Engine) : State :=
  match k with
  | .ce => { s with ces := Tab.upd {} s.ces n f }
  | .de => { s with des := Tab.upd {} s.des n f }
  | .se => { s with ses := Tab.upd {} s.ses n f }

/-- Change the frame generator's registers. -/
def State.updFrm (s : State) (f : Frm → Frm) : State := { s with frm := f s.frm }

/-- The number of a new free value, and the state that will give another to the next. -/
def State.stamp (s : State) : Nat × State := (s.freeCtr, { s with freeCtr := s.freeCtr + 1 })

/-- While the clocks outside the always-on domain are stopped, a command that needs them does nothing (R475, R480, R506). -/
def live (s : State) (f : State → State) : State := if s.pwr.stopped then s else f s

/-- The next state of a meaning. -/
abbrev ok (s : State) : Host.Outcome State Fault Refusal := .next s

-- ## Parts (R4, Tables 5 and 8 to 11 of chapter 01)

/-- GLB_CAP0: present quads. -/
def Part.cap0 : Part → Nat
  | .xv256 => 0xFFFFFFFFFFFFFFFF
  | .xv192 => 0x00FFFFFFFFFFFF00
  | .xv128 => 0x0000FFFFFFFF0000
/-- GLB_CAP2: present engines and cask ports. -/
def Part.cap2 : Part → Nat
  | .xv256 => 0xFFFFFFFFFFFFFFFF
  | .xv192 => 0x0FFF777777777777
  | .xv128 => 0x00FF333333333333
/-- GLB_CAP3: stacks, banks, ports, dispatchers, counts and clock. -/
def Part.cap3 : Part → Nat
  | .xv256 => 0x004040096040FFFF
  | .xv192 => 0x004040096040FF7E
  | .xv128 => 0x004040096040FF3C
/-- GLB_ID. -/
def Part.id : Part → Nat
  | .xv256 => 0x000001B072561F6E
  | .xv192 => 0x000001B071921F6E
  | .xv128 => 0x000001B071281F6E
/-- PCI device ID (R2). -/
def Part.device (p : Part) : Nat := bits p.id 16 16

/-- Whether quad `q` is present. -/
def quadPresent (s : State) (q : Nat) : Bool := decide (q < 64) && bitOf s.glb.part.cap0 q
/-- Whether slice `n` is present: the masks of quads and slices agree (Tables 8 and 9). -/
def slicePresent (s : State) (n : Nat) : Bool := decide (n < 64) && bitOf s.glb.part.cap0 n
/-- Whether an engine is present. -/
def engPresent (s : State) (k : EngKind) (n : Nat) : Bool :=
  decide (n < 16) && bitOf s.glb.part.cap2 (n + match k with | .ce => 0 | .de => 16 | .se => 32)
/-- Whether cask port `n` is present. -/
def caskPresent (s : State) (n : Nat) : Bool := decide (n < 16) && bitOf s.glb.part.cap2 (48 + n)
/-- Whether stack `k` is present. -/
def stackPresent (s : State) (k : Nat) : Bool := decide (k < 8) && bitOf s.glb.part.cap3 k

-- ## Tiles and quads (R13, R14)

/-- The quad that holds tile `t`. -/
def quadOf (t : Nat) : Nat := t / 32 * 8 + t % 16 / 2
/-- The position of tile `t` in its quad, 0 to 3. -/
def posInQuad (t : Nat) : Nat := t % 2 + 2 * (t / 16 % 2)
/-- Tile at position `p` of quad `q`. -/
def tileAt (q p : Nat) : Nat := 32 * (q / 8) + 2 * (q % 8) + p % 2 + 16 * (p / 2 % 2)
/-- Whether tile `t` is present (R26). -/
def tilePresent (s : State) (t : Nat) : Bool := quadPresent s (quadOf t)

-- ## Who holds a unit (R25, R407)

/-- Whether a parcel holds units: it is not FREE. -/
def Parcel.holds (P : Parcel) : Bool := P.st != .free

/-- The parcel that holds a unit, by a test on its masks. -/
def holder (s : State) (f : Parcel → Bool) : Option Nat :=
  (s.parcels.find? fun kp => kp.2.holds && f kp.2).map (·.1)

/-- The parcel that holds tile `t`. -/
def tileParcel (s : State) (t : Nat) : Option Nat := holder s fun P => P.quads.getLsbD (quadOf t)
/-- The parcel that holds group `g`. -/
def groupParcel (s : State) (g : Nat) : Option Nat := holder s fun P => P.groups.getLsbD g
/-- The parcel that holds slice `n`. -/
def sliceParcel (s : State) (n : Nat) : Option Nat := holder s fun P => P.slices.getLsbD n
/-- The mask of a parcel's engines of a kind. -/
def Parcel.engMask (P : Parcel) : EngKind → Nat
  | .ce => P.ce.toNat
  | .de => P.de.toNat
  | .se => P.se.toNat
/-- The parcel that holds an engine. -/
def engParcel (s : State) (k : EngKind) (n : Nat) : Option Nat := holder s fun P => bitOf (P.engMask k) n
/-- The parcel bound to VF `v`. -/
def vfParcel (s : State) (v : Nat) : Option Nat := if v = 0 then none else holder s fun P => P.vf == v
/-- The parcel that owns mailbox pair `m`. -/
def pairParcel (s : State) (m : Nat) : Option Nat := holder s fun P => P.mbxPair == m

/-- Index of a unit within a mask: its virtual number (R58). -/
def rankIn (mask n : Nat) : Nat := popcount n mask
/-- The `i`-th lowest set bit of a mask. -/
def nthIn (mask i : Nat) : Option Nat := (setBits 64 mask)[i]?

/-- Physical group of a parcel's virtual group. -/
def Parcel.pgroup (P : Parcel) (i : Nat) : Option Nat := nthIn P.groups.toNat i
/-- Physical engine of a parcel's virtual engine. -/
def Parcel.peng (P : Parcel) (k : EngKind) (i : Nat) : Option Nat := nthIn (P.engMask k) i

/-- Physical quads of the parcel's virtual quads (R57). -/
def Parcel.vquads (P : Parcel) : List Nat := if P.image.loaded then P.image.placement else setBits 64 P.quads.toNat
/-- Physical tile of virtual tile `v` (R57). -/
def Parcel.ptile (P : Parcel) (v : Nat) : Option Nat := P.vquads[v / 4]?.map fun q => tileAt q (v % 4)
/-- Virtual tile of physical tile `t` (R57). -/
def Parcel.vtile (P : Parcel) (t : Nat) : Option Nat :=
  (indexOf? (· == quadOf t) P.vquads).map fun u => 4 * u + posInQuad t
/-- The physical tiles of the parcel, rising by quad. -/
def Parcel.tiles (P : Parcel) : List Nat := (setBits 64 P.quads.toNat).flatMap fun q => (List.range 4).map (tileAt q)

/-- The stage of a virtual tile. -/
def Image.stageOf (I : Image) (v : Nat) : Option StageEntry := I.stages.find? fun e => e.tiles.contains v

/-- What a tile is to the parcel that holds it: parcel, virtual tile and stage. -/
structure Role where
  p : Nat
  parcel : Parcel
  v : Nat
  stage : StageEntry
  deriving Repr

/-- The role of tile `t`, if it belongs to a stage of its parcel's committed image. -/
def roleOf (s : State) (t : Nat) : Option Role :=
  match tileParcel s t with
  | none => none
  | some p =>
    let P := s.parcel p
    match P.vtile t with
    | none => none
    | some v => (P.image.stageOf v).map fun e => { p := p, parcel := P, v := v, stage := e }

/-- The virtual tile number that an event or a pennant gives for tile `t`. -/
def vtileOf (s : State) (t : Nat) : Nat :=
  match tileParcel s t with
  | none => 0xFFFF
  | some p => ((s.parcel p).vtile t).getD 0xFFFF

/-- The stage's inbox: its base in the tile store and the bytes of a half (Table 14 of chapter 03). -/
def inboxOf (s : State) (t : Nat) : Nat × Nat :=
  match roleOf s t with
  | some r => (r.stage.inboxBase * 0x1000, r.stage.inboxHalf * 0x1000)
  | none => (0, 0)

/-- Tile-store offset of the current half A, and of half B (R69, R85). -/
def halfA (s : State) (t : Nat) : Nat :=
  let (b, h) := inboxOf s t
  if (s.tile t).bLower then b + h else b
/-- Tile-store offset of the current half B. -/
def halfB (s : State) (t : Nat) : Nat :=
  let (b, h) := inboxOf s t
  if (s.tile t).bLower then b else b + h

/-- The number of the parcel frame now running (R34). -/
def pframe (s : State) (p : Nat) : Nat := s.frm.count.toNat / (s.parcel p).divNow.toNat
/-- A parcel frame in cycles. -/
def pcycles (s : State) (p : Nat) : Nat := (s.parcel p).divNow.toNat * s.frm.periodNow.toNat

-- ## The device physical address map (R209, Table 1 of chapter 10)

/-- First byte of tile `t`'s store (R83). -/
def tsBase (t : Nat) : Nat := 0x100000000000 + t * 0x100000
/-- First byte of tile `t`'s inbox-B window (R85). -/
def ibwBase (t : Nat) : Nat := 0x100010000000 + t * 0x100000
/-- Bytes of a cellar slice. -/
def sliceBytes : Nat := 0x200000000
/-- First byte of parcel `p`'s window. -/
def windowBase (p : Nat) : Nat := 0x400000000000 + p * 0x8000000000
/-- First byte of a port's host aperture (R455): 0 HPA, 1 HPB. -/
def apertureBase (port : Nat) : Nat := 0x8000000000000 + port * 0x4000000000000

/-- What lies at a device physical address. -/
inductive Place where
  | cellar (a : Nat)
  | tileStore (t off : Nat)
  | inboxB (t off : Nat)
  | regs (off : Nat)
  | window (p off : Nat)
  | host (port a : Nat)
  | reserved
  deriving DecidableEq, Repr

/-- The range of Table 1 that holds an address. -/
def place (a : Nat) : Place :=
  if a < 0x8000000000 then .cellar a
  else if a < 0x100000000000 then .reserved
  else if a < 0x100010000000 then .tileStore ((a - 0x100000000000) / 0x100000) (a % 0x100000)
  else if a < 0x100020000000 then .inboxB ((a - 0x100010000000) / 0x100000) (a % 0x100000)
  else if a < 0x300000000000 then .reserved
  else if a < 0x300010000000 then .regs (a - 0x300000000000)
  else if a < 0x400000000000 then .reserved
  else if a < 0x600000000000 then .window ((a - 0x400000000000) / 0x8000000000) (a % 0x8000000000)
  else if a < 0x8000000000000 then .reserved
  else if a < 0x10000000000000 then .host ((a - 0x8000000000000) / 0x4000000000000) (a % 0x4000000000000)
  else .reserved

/-- The slice map of a parcel (R211). -/
def Parcel.smap (P : Parcel) : List Nat := setBits 64 P.slices.toNat

/-- The linear DPA of offset `o` of a parcel's window (R211). A FREE parcel holds no slice, and its window reaches nothing. -/
def Parcel.windowDpa (P : Parcel) (o : Nat) : Option Nat :=
  let k := P.smap.length
  if k = 0 || !P.holds then none
  else
    let l := o / 64
    (P.smap[l % k]?).bind fun n => if l / k < sliceBytes / 64 then some (n * sliceBytes + l / k * 64 + o % 64) else none

/-- The byte of storage that a DPA names: the linear view of the cellar, a tile store, or the host aperture. -/
def canon (s : State) (a : Nat) : Option Nat :=
  match place a with
  | .cellar a => some a
  | .tileStore _ _ => some a
  | .inboxB t off => if off < (inboxOf s t).2 then some (tsBase t + halfB s t + off) else none
  | .window p off => (s.parcel p).windowDpa off
  | .host _ _ => some a
  | .regs _ => none
  | .reserved => none

/-- The port of VF `v` under a split of `a` VFs on HPA (R405): 0 HPA, 1 HPB. -/
def vfPort (s : State) (v : Nat) : Nat := if v ≤ s.pcl.split.toNat then 0 else 1
/-- The manager's port. -/
def mgrPort (s : State) : Nat := b2n s.boot.mgrHpb
/-- The manager's function. -/
def mgrFn (s : State) : Nat := mgrPort s
/-- The port of a function. -/
def fnPort (s : State) (f : Nat) : Nat := if f < 2 then f else vfPort s (f - 1)

/-- Whether a parcel master of `p` may reach the byte at `a` (R212, R456). -/
def allowed (s : State) (p a : Nat) : Bool :=
  let P := s.parcel p
  match place a with
  | .cellar a => P.slices.getLsbD (a / sliceBytes) && slicePresent s (a / sliceBytes)
  | .tileStore t _ => P.quads.getLsbD (quadOf t) && tilePresent s t
  | .inboxB t _ => P.quads.getLsbD (quadOf t) && tilePresent s t
  | .window q off => q == p && (P.windowDpa off).isSome
  | .host port _ => P.vf == 0 || port == vfPort s P.vf
  | .regs _ => false
  | .reserved => false

/-- Whether every byte of a range may be reached: its first and its last. -/
def allowedRange (s : State) (p a len : Nat) : Bool := allowed s p a && (len == 0 || allowed s p (a + len - 1))

-- ## Bytes

/-- The value listed for an address. -/
def cellFind : List Host.Cell → Nat → Option Byte
  | [], _ => none
  | (j, b) :: m, a => if j = a then some b else cellFind m a

/-- Write one byte, keeping the canonical form: rising addresses, no byte 0 listed. -/
def cellSet : List Host.Cell → Nat → Byte → List Host.Cell
  | [], a, v => if v = 0 then [] else [(a, v)]
  | (j, b) :: m, a, v =>
    if a < j then (if v = 0 then (j, b) :: m else (a, v) :: (j, b) :: m)
    else if a = j then (if v = 0 then m else (a, v) :: m)
    else (j, b) :: cellSet m a v

/-- Addresses rise from `lo` and no byte 0 is listed. -/
def cellsWfFrom (lo : Nat) : List Host.Cell → Bool
  | [] => true
  | (j, b) :: m => decide (lo ≤ j) && b != 0 && cellsWfFrom (j + 1) m

/-- The canonical form of memory. -/
def Mem.wf (m : Mem) : Bool := cellsWfFrom 0 m.cells

/-- What an address holds that no entry lists: 0, or a free value where the manual leaves the byte undefined. -/
def Mem.blank (m : Mem) (a : Nat) : Byte :=
  match m.undef.find? fun u => decide (u.lo ≤ a) && decide (a < u.hi) with
  | some u => Config.memByte u.stamp a
  | none => 0

/-- The byte at a canonical address. -/
def Mem.byte (m : Mem) (a : Nat) : Byte := (cellFind m.cells a).getD (m.blank a)

/-- Take `[lo, hi)` out of the undefined regions. -/
def carve (lo hi : Nat) (l : List Undef) : List Undef :=
  l.flatMap fun u =>
    if u.hi ≤ lo || hi ≤ u.lo then [u]
    else (if u.lo < lo then [{ u with hi := lo }] else []) ++ (if hi < u.hi then [{ u with lo := hi }] else [])

/-- Write bytes one after another from `a`. -/
def cellsWrite (m : List Host.Cell) (a : Nat) : List Byte → List Host.Cell
  | [] => m
  | b :: bs => cellsWrite (cellSet m a b) (a + 1) bs

/-- Write bytes at a canonical address. -/
def Mem.write (m : Mem) (a : Nat) (bs : List Byte) : Mem :=
  { m with cells := cellsWrite m.cells a bs, undef := carve a (a + bs.length) m.undef }

/-- Read `n` bytes from a canonical address. -/
def Mem.read (m : Mem) (a n : Nat) : List Byte := (List.range n).map fun i => m.byte (a + i)

/-- Clear a range. A line that it covers in part keeps its poison (R221). -/
def Mem.clear (m : Mem) (lo hi : Nat) : Mem :=
  { m with
    cells := m.cells.filter fun c => c.1 < lo || hi ≤ c.1
    poison := m.poison.filter fun l => l < lo || hi < l + 64
    undef := carve lo hi m.undef }

/-- Leave a range undefined, its bytes being the free values of a number. Lines that are poisoned stay so (R221). -/
def Mem.forget (m : Mem) (lo hi : Nat) : Mem :=
  { m with
    cells := m.cells.filter fun c => c.1 < lo || hi ≤ c.1
    undef := { lo := lo, hi := hi, stamp := m.fresh } :: carve lo hi m.undef, fresh := m.fresh + 1 }

/-- Whether the 64-byte line of an address is poisoned. -/
def Mem.poisoned (m : Mem) (a : Nat) : Bool := m.poison.contains (a / 64 * 64)

/-- Mark or unmark a line. -/
def Mem.setPoison (m : Mem) (a : Nat) (on : Bool) : Mem :=
  let l := a / 64 * 64
  let rest := m.poison.filter (· != l)
  { m with poison := if on then insertBy id l rest else rest }

/-- The line addresses that a byte range touches. -/
def linesOf (a n : Nat) : List Nat :=
  if n = 0 then [] else (List.range ((a + n - 1) / 64 - a / 64 + 1)).map fun i => (a / 64 + i) * 64

/-- Note a plain store into the cellar: a word that was reduced into in the same parcel frame is undefined from then on (R170), and so are bytes
that a running sort job may write (R181). -/
def Mem.noteStore (m : Mem) (a n : Nat) : Mem :=
  if n = 0 || 0x8000000000 ≤ a then m
  else
    let m := { m with stores := (a, a + n) :: m.stores }
    let m := (m.reduced.filter fun r => r.1 < a + n && a < r.2).foldl (fun m r => m.forget r.1 r.2) m
    (m.churn.filter fun r => r.lo < a + n && a < r.hi).foldl (fun m r => m.forget (max a r.lo) (min (a + n) r.hi)) m

/-- A write that reaches storage: a full line written without poison clears its poison, a partial write leaves it, and a write that
carries poison poisons every line it touches (R221). -/
def Mem.store (m : Mem) (a : Nat) (bs : List Byte) (poison : Bool) : Mem :=
  let m1 := (m.write a bs).noteStore a bs.length
  (linesOf a bs.length).foldl (fun m l =>
    if poison then m.setPoison l true
    else if a ≤ l && l + 64 ≤ a + bs.length then m.setPoison l false
    else m) m1

/-- Leave a range of storage undefined, under a new number. -/
def State.forget (s : State) (lo hi : Nat) : State :=
  { s with mem := s.mem.forget lo hi }

/-- Tile-store bytes as tile code and the tile's own units read them. -/
def State.tsRead (s : State) (t off n : Nat) : List Byte := s.mem.read (tsBase t + off) n
/-- A number of the tile store. -/
def State.tsNat (s : State) (t off n : Nat) : Nat := leNat (s.tsRead t off n)
/-- Write into a tile store, without poison. -/
def State.tsWrite (s : State) (t off : Nat) (bs : List Byte) : State :=
  { s with mem := s.mem.store (tsBase t + off) bs false }
/-- The first poisoned byte of a part of the tile store. -/
def State.tsPoison (s : State) (t off n : Nat) : Option Nat :=
  ((linesOf (tsBase t + off) n).find? fun l => s.mem.poisoned l).map fun l => max off (l - tsBase t)

/-- Note bytes that entered a half B in raw mode (R87): an upper end. -/
def noteRaw (s : State) (t off n : Nat) : State :=
  let h := (inboxOf s t).2
  let rel := off - halfB s t
  if off < halfB s t || halfB s t + h ≤ off then s
  else s.updTile t fun T => { T with rawB := T.rawB + min n (h - rel) }

/-- A host port. -/
def State.hport (s : State) (port : Nat) : HostPort := if port = 0 then s.ports.hpa else s.ports.hpb
/-- Change a host port. -/
def State.updPort (s : State) (port : Nat) (f : HostPort → HostPort) : State :=
  if port = 0 then { s with ports := { s.ports with hpa := f s.ports.hpa } } else { s with ports := { s.ports with hpb := f s.ports.hpb } }
/-- Whether a port's link is up. -/
def linkUp (s : State) (port : Nat) : Bool := if port = 0 then s.ports.hpa.linkUp else s.ports.hpb.linkUp

/-- The LTR value of R459, in µs. -/
def ltrNow (s : State) : Nat :=
  if s.pwr.ps4 then 1000
  else if s.parcels.any fun e => e.2.st == .active && e.2.ps != 3 then 1 else 100

/-- LTR messages and the L0p request follow the power states (R459, R460). -/
def sendLtr (s : State) : State :=
  let f := fun (P : HostPort) => { P with ltr := ltrNow s, narrow := s.pwr.ps4 }
  { s with ports := { s.ports with hpa := f s.ports.hpa, hpb := f s.ports.hpb } }

/-- AER logs an error (R449). -/
def HostPort.logged (P : HostPort) (e : AerError) : HostPort := if P.aerErrs.contains e then P else { P with aerErrs := P.aerErrs ++ [e] }
/-- A request is refused as an Unsupported Request, which AER logs (R450, R452). -/
def HostPort.unsupported (P : HostPort) : HostPort := { P.logged .unsupportedRequest with aer := P.aer + 1 }

/-- AER logs how read number `k` through a port ended: poisoned data, or a completion timeout (R449, R457, R461). -/
def noteHostEnd (k : Nat) (s : State) (port : Nat) (e : ReqEnd) : State :=
  match e with
  | .poisoned => s.updPort port fun P => P.logged .poisonedTlp
  | .error => if !linkUp s port || Config.hostTimeout k then s.updPort port fun P => P.logged .completionTimeout else s
  | _ => s

/-- AER logs how a read of the host ended that a completion tells of. -/
def noteRead (s : State) (port : Nat) (r : ReadResult) : State :=
  match r with
  | .data _ => s
  | .poisoned => noteHostEnd s.freeCtr s port .poisoned
  | .error => { noteHostEnd s.freeCtr s port .error with freeCtr := s.freeCtr + 1 }

/-- The completion that a read of a DPA range meets: an error past the half of an inbox-B window (R85), and through the aperture what the
host answers to read number `k`, an error completion or a timeout, or poisoned data (R457); with the port's link down, a timeout (R461). -/
def readEndAt (k : Nat) (s : State) (a n : Nat) : ReqEnd :=
  match place a with
  | .host port _ =>
    if !linkUp s port || Config.hostError k a then .error else if Config.hostPoison k a then .poisoned else .good
  | _ =>
    let addrs := (List.range n).map fun i => canon s (a + i)
    if addrs.any (·.isNone) then .error else if addrs.any fun c => (c.map s.mem.poisoned).getD false then .poisoned else .good

/-- The completion that the next read meets. -/
def readEnd (s : State) (a n : Nat) : ReqEnd := readEndAt s.freeCtr s a n

/-- The completion that a write meets: an error past the half of an inbox-B window (R85). Writes to the host are posted. -/
def writeEnd (s : State) (a n : Nat) : ReqEnd :=
  match place a with
  | .host _ _ => .good
  | _ => if (List.range n).any fun i => (canon s (a + i)).isNone then .error else .good

/-- Whether an address lies in an undefined region. -/
def Mem.isUndef (m : Mem) (a : Nat) : Bool := m.undef.any fun u => decide (u.lo ≤ a) && decide (a < u.hi)

/-- What host memory gives to read number `k`: what the engine wrote there last (R126), and elsewhere what the host holds, a free value. -/
def State.hostMem (s : State) (k a : Nat) : Byte := if s.mem.isUndef a then Config.hostByte k a else s.mem.byte a

/-- The bytes that a master reads from a DPA as read number `k`, and whether they are marked poisoned. A byte that an error completion leaves
out is free: of the host by the read, elsewhere by its address. Accesses of one instruction that read the host are one read: they see the same
bytes (R125). -/
def fabricReadAt (k : Nat) (s : State) (a n : Nat) : List Byte × Bool × State :=
  let bad := readEndAt k s a n
  match place a with
  | .host port _ =>
    ((List.range n).map fun i => if bad == .error then Config.hostByte k (a + i) else s.hostMem k (a + i), bad == .poisoned,
      { noteHostEnd k s port bad with freeCtr := s.freeCtr + 1 })
  | _ => ((List.range n).map fun i => ((canon s (a + i)).map s.mem.byte).getD (Config.lostByte (a + i)), bad == .poisoned, s)

/-- The bytes that a master reads from a DPA, and whether they are marked poisoned. -/
def fabricRead (s : State) (a n : Nat) : List Byte × Bool × State := fabricReadAt s.freeCtr s a n

/-- The canonical pieces of a byte range: runs whose addresses follow one another. -/
def pieces (s : State) (a : Nat) (bs : List Byte) : List (Nat × List Byte) :=
  let step := fun (acc : List (Nat × List Byte)) (i : Nat) =>
    match canon s (a + i), bs[i]? with
    | some c, some b =>
      match acc with
      | (c0, l) :: rest => if c0 + l.length = c then (c0, l ++ [b]) :: rest else (c, [b]) :: acc
      | [] => [(c, [b])]
    | _, _ => acc
  ((List.range bs.length).foldl step []).reverse

/-- Write bytes at a DPA. Bytes that reach no storage are discarded. Writes to a host port whose link is down are discarded (R461). -/
def fabricWrite (s : State) (a : Nat) (bs : List Byte) (poison : Bool) : State :=
  match place a with
  | .host port _ =>
    if linkUp s port then { s with mem := s.mem.store a bs poison } else s
  | .inboxB t off =>
    let s := { s with mem := (pieces s a bs).foldl (fun m cb => m.store cb.1 cb.2 poison) s.mem }
    noteRaw s t (halfB s t + off) bs.length
  | _ => { s with mem := (pieces s a bs).foldl (fun m cb => m.store cb.1 cb.2 poison) s.mem }

/-- Note a posted write of a parcel's EXECUTE on a host port (R458). -/
def noteHost (s : State) (p : Option Nat) (a : Nat) : State :=
  match p, place a with
  | some p, .host port h =>
    s.updParcel p fun P => { P with exec := P.exec.map fun x => { x with hostWrites := Tab.set x.hostWrites port h } }
  | _, _ => s

end Sys2Proof.Machine
end

