-- ==== Sys2Proof/Machine/Flags.lean ====
section
/-! DEFINITION. The status registers of the units, with the flags they gather. -/

namespace Sys2Proof.Machine

/-- A parcel field and its assigned bit. -/
def parcelBits (p : Option Nat) (lo assigned : Nat) : Nat := (p.getD 0) * 2 ^ lo + b2n p.isSome * 2 ^ assigned

/-- TIL_STS (chapter 04, Table 9). -/
def tilSts (s : State) (t : Nat) : Nat :=
  let T := s.tile t
  b2n (T.run == .running) + 2 * b2n (T.run == .fdone) + 4 * b2n (T.run == .parked) + 8 * b2n (T.run == .stopped)
    + 16 * b2n T.inHandler + 32 * b2n T.inReset + 64 * b2n T.resetRefused + parcelBits (tileParcel s t) 8 14

/-- DMA_STS (chapter 13, Table 9). -/
def dmaSts (C : Chan) : Nat :=
  b2n C.busy + 2 * b2n C.done + 4 * b2n C.aborted + 8 * b2n C.gateClosed + 16 * b2n C.startRefused + 32 * b2n C.writeRefused
    + 0x100 * C.err.toNat + 0x10000 * min C.retries 15 + 0x100000 * min C.reqPending 0xFFF + 0x100000000 * C.remaining

/-- Whether a program or the loader holds channels of the group (DMA_G_STS.owned). -/
def groupOwned (s : State) (g : Nat) : Bool :=
  match groupParcel s g with
  | none => false
  | some p =>
    let P := s.parcel p
    let v := rankIn P.groups.toNat g
    (P.image.loaded && P.image.movers.any fun m => m.vgroup == v) || (v == 0 && P.loader.isSome)

/-- DMA_G_STS (chapter 13, Table 12). -/
def dmaGSts (s : State) (g : Nat) : Nat :=
  b2n (s.group g).stopped + 2 * b2n (groupOwned s g) + parcelBits (groupParcel s g) 8 14

/-- CSK_STS.state code (chapter 16, Table 3). -/
def CaskSt.code : CaskSt → Nat
  | .absent => 0 | .linking => 1 | .identifying => 2 | .quarantine => 3 | .spare => 4 | .member => 5
  | .readonly => 6 | .preparing => 7 | .removable => 8 | .failed => 9

/-- Whether the cask of the port has been identified since it was seated. -/
def CaskSt.identified (c : CaskSt) : Bool := c != .absent && c != .linking && c != .identifying

/-- CSK_STS (chapter 16, Table 7). -/
def cskSts (C : Cask) : Nat :=
  C.st.code + 16 * b2n C.present + 32 * b2n C.linkUp + 64 * b2n (C.locate || C.blinkLow) + 128 * b2n C.inSet
    + 0x100 * (if C.inSet then C.set else 0) + 0x1000 * C.wearLevel + 0x10000 * (if C.st == .quarantine then C.qReason else 0)
    + 0x1000000 * C.evPending.toNat

/-- Whether slice `n` is in self-refresh: the device is in PS4, or the slice's parcel in PS3 (R399, R402). -/
def selfRefresh (s : State) (n : Nat) : Bool :=
  s.pwr.ps4 || match sliceParcel s n with | some p => (s.parcel p).ps == 3 | none => false

/-- MEM_STS (chapter 10, Table 8). -/
def memSts (s : State) (k : Nat) : Nat :=
  let K := s.stack k
  b2n K.trained + 2 * b2n K.ueSeen + 4 * b2n K.ceThresh + 8 * b2n K.scrubPass + 16 * b2n K.paramErr + 32 * b2n ((List.range 8).any fun i => selfRefresh s (8 * k + i))

/-- The job an engine runs. -/
def Engine.running (E : Engine) : Option EngJob := E.jobs.find? fun j => j.running

/-- Whether the image loader's snoop job holds digest engine `n` (R324). -/
def loaderSnoops (s : State) (n : Nat) : Bool :=
  match engParcel s .de n with
  | none => false
  | some p =>
    let P := s.parcel p
    match P.loader with
    | some L => L.bound && L.phase == .streaming && P.peng .de 0 == some n
    | none => false

/-- The STS register of a sort, compression or digest engine (Tables 7 of 08, 8 of 14 and 8 of 15). -/
def engSts (s : State) (k : EngKind) (n : Nat) : Nat :=
  let E := s.eng k n
  let ld := k == .de && loaderSnoops s n
  b2n (E.running.isSome || E.mjob.isSome || ld) + 2 * b2n (engParcel s k n).isSome + 4 * (engParcel s k n).getD 0
    + 0x100 * min (E.jobs.length + b2n ld) 16
    + 0x2000 * b2n E.late
    + match k with
      | .se => 0
      | .ce => 0x4000 * b2n E.verifyFail + 0x8000 * b2n (E.jobs.any (·.suspended))
      | .de => 0x4000 * b2n (E.jobs.any (·.snoop) || ld)

/-- MBX_STS (chapter 20, Table 4). -/
def mbxSts (C : Mbx) : Nat :=
  b2n C.full + 2 * b2n C.collision + 4 * b2n C.stale + 8 * b2n C.fault + 16 * b2n C.denied + 0x100 * min C.waiting.length 256

/-- Parcel state code (chapter 19, Table 3). -/
def ParcelSt.code : ParcelSt → Nat
  | .free => 0 | .building => 1 | .active => 2 | .quiescing => 3 | .resetting => 4

/-- Whether a parcel is idle (R400): no outstanding command, no waiting pennant, no busy channel, and no job in an engine. -/
def parcelIdle (s : State) (p : Nat) : Bool :=
  let P := s.parcel p
  P.st == .active && !(s.cmds.any fun c => c.parcel == some p) && !(s.wins.any fun w => w.2.waitQ.any fun q => q.parcel == some p)
    && !((setBits 64 P.groups.toNat).any fun g => (s.group g).chans.any fun c => c.2.busy)
    && !((setBits 16 P.ce.toNat).any fun e => !(s.eng .ce e).jobs.isEmpty) && !((setBits 16 P.de.toNat).any fun e => !(s.eng .de e).jobs.isEmpty)
    && !((setBits 16 P.se.toNat).any fun e => !(s.eng .se e).jobs.isEmpty)

/-- PCL_P_STS (chapter 19, Table 9). -/
def pclPSts (s : State) (p : Nat) : Nat :=
  let P := s.parcel p
  P.st.code + 8 * b2n P.signedOnly + 16 * P.vf + 0x800 * (if P.vf = 0 then 0 else vfPort s P.vf) + 0x10000 * P.vintage
    + 0x100000000 * P.mbxPair + 2 ^ 48 * P.vectors + 2 ^ 57 * b2n (parcelIdle s p) + 2 ^ 58 * P.ps

/-- The freeze ends: the registers take the capture that waited, if there is one (R51). -/
def Frm.unfreeze (F : Frm) : Frm :=
  match F.ptmLate with
  | none => { F with frozen := false }
  | some (c, n, ns) => { F with frozen := false, ptmCycle := c, ptmSeq := n, ptmHost := ns, ptmLate := none }
/-- A read of FRM_PTM_FRAME freezes the rest of the capture that it reads, the newest (R51). -/
def Frm.freeze (F : Frm) : Frm := { F.unfreeze with frozen := true }

/-- FRM_STS (chapter 02, Table 12). -/
def frmSts (F : Frm) : Nat := b2n F.running + 2 * b2n F.periodRefused + 4 * b2n F.periodRange + 8 * b2n F.holdErr

-- ## Power domains (chapter 24, Table 2)

/-- Whether quad `q` is on: a parcel holds it in PS0 or PS1, and the device is not in PS4. -/
def quadOn (s : State) (q : Nat) : Bool :=
  !s.pwr.ps4 && match holder s fun P => P.quads.getLsbD q with | some p => decide ((s.parcel p).ps < 2) | none => false

/-- Whether engine bank `b` is on: an engine of it belongs to a parcel, or a management job uses it. -/
def bankOn (s : State) (b : Nat) : Bool :=
  (List.range 4).any fun i => let n := 4 * b + i
    (engParcel s .ce n).isSome || (engParcel s .de n).isSome || (engParcel s .se n).isSome || (s.eng .de n).mjob.isSome

/-- Whether cask port `n` is on: a cask is seated, and not SPARE while the device is in PS4. -/
def caskOn (s : State) (n : Nat) : Bool := (s.cask n).powered && !(s.pwr.ps4 && (s.cask n).st == .spare)

/-- CSK_REFCLK of port `n` runs: only while the port's domain is on (R500). -/
def cskRefclk (s : State) (n : Nat) : Bool := (s.cask n).refclk && caskOn s n
/-- CSK_PERST# of port `n` is low: it is while the port's domain is off (R503). -/
def cskPerstLow (s : State) (n : Nat) : Bool := (s.cask n).perstLow || !caskOn s n

/-- PWR_DOM_Q. -/
def domQ (s : State) : Nat := maskOf ((List.range 64).filter (quadOn s))

/-- PWR_DOM_X (chapter 24, Table 14). -/
def domX (s : State) : Nat :=
  maskOf ((List.range 8).filter fun k => stackPresent s k && !s.pwr.ps4) + 0x100 * maskOf ((List.range 16).filter (caskOn s))
    + 0x1000000 * (1 + 2 * b2n (!s.ports.bifurcated)) + 0x4000000 * maskOf ((List.range 4).filter (bankOn s))

end Sys2Proof.Machine
end

