-- ==== Sys2Proof/Machine/Notice.lean ====
section
/-! DEFINITION. How the engine tells the outside: events with their records and messages (chapter 21), and pennants
(chapter 17). -/

namespace Sys2Proof.Machine

-- ## Writing to a host (R455, R461)

/-- Write bytes at a host address of a port: discarded while the link is down (R461), at 2^50 and above (R455), and once the clocks have stopped
(R480). -/
def hostWrite (s : State) (port a : Nat) (bs : List Byte) : State :=
  if linkUp s port && !s.pwr.stopped && a + bs.length ≤ 2 ^ 50 then { s with mem := s.mem.store (apertureBase port + a) bs false } else s

/-- A function's MSI-X control. -/
def State.msixCtl (s : State) (f : Nat) : MsixCtl := Tab.get {} s.evt.msixCtl f

/-- Send an MSI-X message of a function's vector, or set its pending bit while the vector or the whole function is masked (R446); none while MSI-X
is not enabled. A message is a posted write, which is discarded while the link of the function's port is down (R461), and no write reaches a
host once the clocks have stopped (R480). -/
def sendMsix (s : State) (f v : Nat) : State :=
  let k := 2048 * f + v
  let e := Tab.get {} s.evt.msix k
  if !(s.msixCtl f).enable || s.pwr.stopped then s
  else if e.mask || (s.msixCtl f).mask then { s with evt := { s.evt with msix := Tab.set s.evt.msix k { e with pending := true } } }
  else if linkUp s (fnPort s f) then { s with evt := { s.evt with sent := (f, v) :: s.evt.sent } }
  else s

/-- A vector's message that waited behind a mask is sent once neither its entry nor its function is masked. -/
def flushVector (s : State) (f v : Nat) : State :=
  let k := 2048 * f + v
  let e := Tab.get {} s.evt.msix k
  if e.pending && !e.mask && (s.msixCtl f).enable && !(s.msixCtl f).mask then
    sendMsix { s with evt := { s.evt with msix := Tab.set s.evt.msix k { e with pending := false } } } f v
  else s

/-- A write of a function's MSI-X control: what waited behind the function's mask is sent, in vector order. -/
def msixControl (s : State) (f : Nat) (enable mask : Bool) : State :=
  let s := { s with evt := { s.evt with msixCtl := Tab.set s.evt.msixCtl f { enable := enable, mask := mask } } }
  foldNat ((s.evt.msix.filter fun e => e.1 / 2048 == f).map fun e => e.1 % 2048) (fun v s => flushVector s f v) s

/-- A function's MSI-X table and control at their reset state. -/
def resetMsix (s : State) (f : Nat) : State :=
  { s with evt := { s.evt with
      msix := s.evt.msix.filter fun e => e.1 / 2048 ≠ f, msixCtl := s.evt.msixCtl.filter fun e => e.1 ≠ f } }

-- ## Events (R436 to R447)

/-- The group of a source (Table 1). -/
def srcGroup (i : Nat) : Nat :=
  if i < 512 then 0 else if i < 768 then 1 else if i < 896 then 2 else if i < 960 then 3 else if i < 1024 then 4
  else if i < 1152 then 5 else if i < 1216 then 6 else 7

/-- The engine a source of group 4 names. -/
def srcEngine (i : Nat) : EngKind × Nat :=
  if i < 976 then (.ce, i - 960) else if i < 992 then (.de, i - 976) else if i < 1008 then (.se, i - 992) else (.de, i - 1008)

/-- The parcel a source belongs to (R438), if any. -/
def srcParcel (s : State) (i : Nat) : Option Nat :=
  match srcGroup i with
  | 0 => tileParcel s (i / 2)
  | 1 => groupParcel s ((i - 512) / 4)
  | 4 => engParcel s (srcEngine i).1 (srcEngine i).2
  | 5 => if i % 2 = 0 then pairParcel s ((i - 1024) / 2) else none
  | 6 => if (s.parcel (i - 1152)).holds then some (i - 1152) else none
  | _ => none

/-- A destination: a function, or the management complex. -/
inductive Dest where
  | fn (f : Nat) | mgmt
  deriving DecidableEq, Repr

/-- The class-00 identity of a function (R420, R405). -/
def fnIdentity (s : State) (f : Nat) : Nat := if f = 0 then 0 else if f = 1 then 0x2000 else f - 1 + 0x2000 * vfPort s (f - 1)

/-- The requesters inside the engine that carry an identity (R420). -/
inductive Requester where
  | fn (f : FnId) | group (g : GroupId) | eng (k : EngKind) (n : EngId) | dispatcher (d : Fin 2) | loader (p : ParcelId)
  | faultPath (p : ParcelId) | core (k : Fin 4) | tile (t : TileId)
  deriving DecidableEq, Repr

/-- The 16-bit identity of a requester (R420, Table 1 of chapter 20). -/
def Requester.identity (s : State) : Requester → Nat
  | .fn f => fnIdentity s f.val
  | .group g => 0x4000 + g.val
  | .eng .ce n => 0x4100 + n.val
  | .eng .de n => 0x4200 + n.val
  | .eng .se n => 0x4300 + n.val
  | .dispatcher d => 0x4400 + d.val
  | .loader p => 0x4500 + p.val
  | .faultPath p => 0x4600 + p.val
  | .core k => 0x8000 + k.val
  | .tile t => 0xC000 + t.val

/-- The class of an identity: its bits [15:14]. -/
def identityClass (i : Nat) : Nat := bits i 14 2

/-- The function that an identity names. -/
def identityFn (i : Nat) : Option Nat :=
  if i / 0x4000 ≠ 0 then none
  else if i = 0 then some 0
  else if i = 0x2000 then some 1
  else if i % 0x2000 ≤ 64 ∧ i % 0x2000 ≠ 0 then some (i % 0x2000 + 1)
  else none

/-- The owner that a source has if it is raised now (R438). -/
def ownerNow (s : State) (i : Nat) : Dest :=
  match srcGroup i with
  | 5 =>
    if i % 2 = 0 then
      match srcParcel s i with
      | some p => if (s.parcel p).vf = 0 then .fn (mgrFn s) else .fn ((s.parcel p).vf + 1)
      | none => .fn (mgrFn s)
    else
      match identityFn (s.mchan ((i - 1024) / 2 * 2 + 1)).receiver.toNat with
      | some f => .fn f
      | none => .mgmt
  | _ =>
    match srcParcel s i with
    | some p => if (s.parcel p).vf = 0 then .fn (mgrFn s) else .fn ((s.parcel p).vf + 1)
    | none => .fn (mgrFn s)

/-- The function that a destination is. -/
def Dest.fn? : Dest → Option Nat
  | .fn f => some f
  | .mgmt => none

/-- The owner of a source: a pending one keeps the owner it had when it was raised (R438). -/
def srcOwner (s : State) (i : Nat) : Dest :=
  let e := Tab.get {} s.evt.srcs i
  if e.pending then (match e.owner with | some f => .fn f | none => .mgmt) else ownerNow s i

/-- The virtual number of a source's unit in its parcel (Table 4). -/
def srcVunit (s : State) (i : Nat) : Nat :=
  match srcGroup i, srcParcel s i with
  | 0, some p => ((s.parcel p).vtile (i / 2)).getD 0xFFFF
  | 1, some p => rankIn (s.parcel p).groups.toNat ((i - 512) / 4)
  | 4, some p => rankIn ((s.parcel p).engMask (srcEngine i).1) (srcEngine i).2
  | 6, _ => i - 1152
  | _, _ => 0xFFFF

/-- The unit's status register at the raise (Table 4). -/
def srcStatus (s : State) (i sub : Nat) : Nat :=
  match srcGroup i with
  | 0 => tilSts s (i / 2)
  | 1 => if i % 4 < 2 then dmaSts (s.chan ((i - 512) / 4) sub) else dmaGSts s ((i - 512) / 4)
  | 2 => cskSts (s.cask ((i - 768) / 8))
  | 3 => memSts s ((i - 896) / 8)
  | 4 => engSts s (srcEngine i).1 (srcEngine i).2
  | 5 => mbxSts (s.mchan (i - 1024))
  | 6 => pclPSts s (i - 1152)
  | _ => if i = 1216 then frmSts s.frm else 0

/-- A ring's room: fewer than 2^n − 1 entries are in use (R370). -/
def ringRoom (sizeLog2 head tail : Nat) : Bool := decide ((tail + 2 ^ sizeLog2 - head) % 2 ^ sizeLog2 < 2 ^ sizeLog2 - 1)

/-- The 32 bytes of an event record (Table 4). -/
def EvRec.bytes (r : EvRec) (coalesced : Nat) (phase : Bool) : List Byte :=
  leBytes 2 r.source ++ leBytes 1 r.cause ++ leBytes 1 (4 + b2n phase) ++ leBytes 2 r.vunit ++ leBytes 2 r.vintage
    ++ leBytes 8 r.frame.toNat ++ leBytes 1 coalesced ++ leBytes 1 r.sub ++ zeros 6 ++ leBytes 8 r.status.toNat

/-- The event ring of function `f`. -/
def State.evRing (s : State) (f : Nat) : EvRing := Tab.get {} s.evt.rings f
/-- Change an event ring. -/
def State.updEvRing (s : State) (f : Nat) (g : EvRing → EvRing) : State :=
  { s with evt := { s.evt with rings := Tab.upd {} s.evt.rings f g } }
/-- A source of the event block. -/
def State.evSrc (s : State) (i : Nat) : EvSrc := Tab.get {} s.evt.srcs i
/-- Change a source. -/
def State.updEvSrc (s : State) (i : Nat) (g : EvSrc → EvSrc) : State :=
  { s with evt := { s.evt with srcs := Tab.upd {} s.evt.srcs i g } }

/-- Whether a record or pennant of a parcel is stale (R413). -/
def staleVintage (s : State) (p : Option Nat) (v : Nat) : Bool :=
  match p with
  | none => false
  | some p => v != 0 && (s.parcel p).vintage != v

/-- Count a discarded item (R413). -/
def countStale (s : State) (p : Nat) : State := s.updParcel p fun P => { P with staleCnt := satAdd P.staleCnt 1 }

/-- Write the records that wait, in the order they were built, while the ring has room (R445), each with its message (R446). -/
def drainEvRing : Nat → State → Nat → State
  | 0, s, _ => s
  | n + 1, s, f =>
    let R := s.evRing f
    match R.waitQ with
    | [] => s
    | (r, c) :: rest =>
      if staleVintage s r.parcel r.vintage then
        drainEvRing n (countStale (s.updEvRing f fun R => { R with waitQ := rest }) (r.parcel.getD 0)) f
      else if R.en && ringRoom R.sizeLog2.toNat R.head.toNat R.tail.toNat then
        let s := hostWrite s (fnPort s f) (R.base.toNat + 32 * R.tail.toNat) (r.bytes c R.phase)
        let t := (R.tail.toNat + 1) % 2 ^ R.sizeLog2.toNat
        let s := s.updEvRing f fun R => { R with waitQ := rest, tail := BitVec.ofNat 16 t, phase := if t = 0 then !R.phase else R.phase }
        drainEvRing n (sendMsix s f (s.evSrc r.source).vector.toNat) f
      else s

/-- Whether a function is the PF0 that is not the manager: it receives no event (R438). -/
def otherPf (s : State) (f : Nat) : Bool := decide (f < 2) && f != mgrFn s

/-- Send a record to its destination (R438, R439, R445, R446). -/
def deliverRecord (s : State) (r : EvRec) (coalesced : Nat) : State :=
  let src := s.evSrc r.source
  if staleVintage s r.parcel r.vintage then countStale s (r.parcel.getD 0) else
  let d := if src.dest = 2 then Dest.mgmt else if src.dest = 1 then .fn (mgrFn s) else srcOwner s r.source
  match d with
  | .mgmt => { s with evt := { s.evt with fwQueue := (r, coalesced) :: s.evt.fwQueue } }
  | .fn f =>
    let R := s.evRing f
    if otherPf s f then s
    else if R.en then
      let s := s.updEvRing f fun R => { R with waitQ := R.waitQ ++ [(r, coalesced)] }
      drainEvRing (R.waitQ.length + 1) s f
    else sendMsix s f src.vector.toNat

/-- Raise a source with a cause, and with the status register that its record is to hold (R441, R442, Table 4). -/
def raiseWith (s : State) (i cause sub status : Nat) : State :=
  let e := s.evSrc i
  if e.pending then s.updEvSrc i fun e => { e with coalesced := BitVec.ofNat 8 (min (e.coalesced.toNat + 1) 255) }
  else
    let r : EvRec := {
      source := i, cause := cause, vunit := srcVunit s i,
      vintage := match srcParcel s i with | some p => (s.parcel p).vintage | none => 0,
      frame := s.frm.count, sub := sub, status := BitVec.ofNat 64 status, parcel := srcParcel s i }
    let o := (ownerNow s i).fn?
    let s := s.updEvSrc i fun e => { e with pending := true, owner := o, coalesced := 0, masked := if e.mask then some r else none }
    if e.mask then s else deliverRecord s r 0

/-- Raise a source with a cause, and with its unit's own status register. -/
def raise (s : State) (i cause sub : Nat) : State := raiseWith s i cause sub (srcStatus s i sub)

/-- The global events of Table 3. -/
def raiseGlobal (s : State) (i cause : Nat) : State := raise s (1216 + i) cause 0
/-- Tile event `e` of a tile (TIL_CTL). -/
def raiseTile (s : State) (t e : Nat) : State := if bitOf (s.tile t).ctl.toNat e then raise s (2 * t + e) e 0 else s
/-- An engine's event (CMP_CTL, DGT_CTL, SRT_CTL). -/
def raiseEng (s : State) (k : EngKind) (n : Nat) : State :=
  if (s.eng k n).evEn then raise s ((match k with | .ce => 960 | .de => 976 | .se => 992) + n) 0 0 else s
/-- A parcel's event of Table 2. -/
def raiseParcel (s : State) (p cause : Nat) : State := raise s (1152 + p) cause 0
/-- Cask event `e` of port `n`, where CSK_CTL admits it; one that is raised sets its ev_pending bit (R437). -/
def raiseCask (s : State) (n e : Nat) : State :=
  if (s.cask n).evEn.getLsbD e then
    raise (s.updCask n fun C => { C with evPending := C.evPending ||| BitVec.ofNat 8 (2 ^ e) }) (768 + 8 * n + e) e 0
  else s
/-- The stack event of slice `n` under an enable bit of MEM_CTL. -/
def raiseStack (s : State) (n bit : Nat) : State := if fbit (s.stack (n / 8)).ctl bit then raise s (896 + n) bit 0 else s
/-- The HEALTH event. -/
def raiseHealth (s : State) (cause : Nat) : State := raiseGlobal s 4 cause

-- ## Pennants (R367 to R373)

/-- The detail of Table 12: reason, source, index, sub and address. -/
def detail (reason source index sub address : Nat) : List Byte :=
  leBytes 1 reason ++ leBytes 1 source ++ leBytes 2 index ++ leBytes 2 sub ++ zeros 2 ++ leBytes 8 address

/-- The 32 bytes of a pennant of kind `kind` (Table 11), with the phase bit 0. -/
def pennantBytes (tag status kind opcode window vintage : Nat) (frame : Word) (det : List Byte) : List Byte :=
  leBytes 2 tag ++ leBytes 1 status ++ leBytes 1 (2 * kind) ++ leBytes 1 opcode ++ leBytes 1 window ++ leBytes 2 vintage
    ++ leBytes 8 frame.toNat ++ det

/-- Status codes of Table 14. -/
def sSUCCESS := 0x00
def sCANCELLED := 0x01
def sTOO_LATE := 0x02
def sINVALID_OPCODE := 0x03
def sINVALID_FIELD := 0x04
def sLENGTH_MISMATCH := 0x05
def sNS_NOT_READY := 0x06
def sMEDIA_ERROR := 0x07
def sCAPACITY := 0x08
def sIMAGE_REJECTED := 0x09
def sFRAME_OVERRUN := 0x0A
def sTRANSLATION_FAULT := 0x0B
def sWALK_BUS_ERROR := 0x0C
def sDEVICE_REGION_WALK := 0x0D
def sDMA_BUS_ERROR := 0x0E
def sCOMPRESS_VERIFY_FAIL := 0x0F
def sDECOMPRESS_CHECK_FAIL := 0x10
def sOUTPUT_FULL := 0x11
def sDECODE_ERROR := 0x12
def sUNSUPPORTED := 0x13
def sPARCEL_RESET := 0x14
def sCASK_MISSING := 0x15
def sWEAR_OUT_READONLY := 0x16
def sPOISONED := 0x17
def sPERMISSION := 0x18
def sQUEUE_FULL := 0x19

/-- Outstanding commands of a window (R357). -/
def outstanding (s : State) (w : Window) : Nat := (s.cmds.filter fun c => c.win == w).length

/-- Take a command out of the list: its pennant has been written or discarded. -/
def dropCmd (s : State) (seq : Option Nat) : State :=
  match seq with
  | none => s
  | some q => { s with cmds := s.cmds.filter fun c => c.seq != q }

/-- The 32 bytes with the phase bit a ring entry carries. -/
def withPhase (bs : List Byte) (phase : Bool) : List Byte :=
  bs.take 3 ++ ((bs.drop 3).head?.toList.map fun b => b ||| BitVec.ofNat 8 (b2n phase)) ++ bs.drop 4

/-- Write the pennants and notices that wait, in the order decided (R371), while the ring has room; stale ones are discarded
(R413), and one whose results still travel on the other port waits for its ordering read (R458). -/
def drainWin : Nat → State → Window → State
  | 0, s, _ => s
  | n + 1, s, w =>
    let W := s.win w
    match W.waitQ with
    | [] => s
    | q :: rest =>
      if s.deciding || s.ports.orderReads.any fun o => some o.cmd == q.cmd then s
      else if staleVintage s q.parcel q.vintage then
        let s := s.updWin w fun W => { W with waitQ := rest }
        drainWin n (countStale (dropCmd s q.cmd) (q.parcel.getD 0)) w
      else if W.en && ringRoom W.sizeLog2.toNat W.head.toNat W.tail.toNat then
        let s := hostWrite s (fnPort s w.fn.val) (W.base.toNat + 32 * W.tail.toNat) (withPhase q.bytes W.phase)
        let t := (W.tail.toNat + 1) % 2 ^ W.sizeLog2.toNat
        let s := s.updWin w fun W => { W with waitQ := rest, tail := BitVec.ofNat 16 t, phase := if t = 0 then !W.phase else W.phase }
        let s := dropCmd s q.cmd
        drainWin n (if W.intEn then sendMsix s w.fn.val W.vector.toNat else s) w
      else s

/-- Queue a pennant or notice and write what the ring takes. -/
def postPennant (s : State) (w : Window) (q : Pennant) : State :=
  let s := s.updWin w fun W => { W with waitQ := W.waitQ ++ [q] }
  drainWin (s.win w).waitQ.length s w

/-- Pennants decided at one instant in the order they are written: as their commands were accepted, but a RESUME behind every CANCEL (R372).
Those of no outstanding command stay in front. -/
def instantOrder (cmds : List Cmd) (l : List Pennant) : List Pennant :=
  let byAge := cmds.filterMap fun c => (l.find? fun q => q.cmd == some c.seq).map fun q => (c.opcode, q)
  let n := byAge.length - (byAge.reverse.takeWhile fun x => x.1 != 0x13).length
  let early := byAge.take n
  (l.filter fun q => !cmds.any fun c => q.cmd == some c.seq)
    ++ ((early.filter fun x => x.1 != 0x14) ++ (early.filter fun x => x.1 == 0x14) ++ byAge.drop n).map (·.2)

/-- Decide outcomes at one instant: their pennants are written when the last of them is decided, in the order of R372. -/
def together (s : State) (f : State → State) : State :=
  let t := { f { s with deciding := true } with deciding := s.deciding }
  ((t.cmds.filter fun c => c.phase == .decided).map (·.win)).eraseDups.foldl (fun t w =>
    let n := (s.win w).waitQ.length
    let t := t.updWin w fun W => { W with waitQ := W.waitQ.take n ++ instantOrder t.cmds (W.waitQ.drop n) }
    drainWin (t.win w).waitQ.length t w) t

/-- Decide a command's outcome: its completion pennant follows (R357, R367). -/
def endCmd (s : State) (c : Cmd) (status : Nat) (det : List Byte) : State :=
  let s := { s with cmds := s.cmds.map fun d => if d.seq = c.seq then { d with phase := .decided } else d }
  postPennant s c.win {
    bytes := pennantBytes c.tag status 0 c.opcode c.win.w.val c.vintage s.frm.count det, cmd := some c.seq,
    vintage := c.vintage, parcel := c.parcel }

/-- The command with an acceptance number. -/
def State.cmd (s : State) (seq : Nat) : Option Cmd := s.cmds.find? fun c => c.seq == seq

/-- Decide the outcome of the command with an acceptance number. -/
def endSeq (s : State) (seq status : Nat) (det : List Byte) : State :=
  match s.cmd seq with
  | some c => endCmd s c status det
  | none => s

/-- A park notice of an EXECUTE (R368). -/
def parkNotice (s : State) (c : Cmd) (det : List Byte) : State :=
  postPennant s c.win {
    bytes := pennantBytes c.tag sTRANSLATION_FAULT 1 c.opcode c.win.w.val c.vintage s.frm.count det, cmd := none,
    vintage := c.vintage, parcel := c.parcel }

/-- Change an outstanding command. -/
def State.updCmd (s : State) (seq : Nat) (f : Cmd → Cmd) : State :=
  { s with cmds := s.cmds.map fun c => if c.seq = seq then f c else c }

/-- Whether a pennant waits for room in its ring: not one that waits for its ordering read alone (R371, R458). -/
def Win.ringFull (W : Win) : Bool := !W.waitQ.isEmpty && !(W.en && ringRoom W.sizeLog2.toNat W.head.toNat W.tail.toNat)

/-- TASK_STS (chapter 17, Table 18). -/
def taskSts (s : State) (w : Window) : Nat :=
  let W := s.win w
  b2n W.busy + 2 * b2n W.dropped + 4 * b2n W.noRing + 8 * b2n W.cfgRefused + 16 * b2n W.headErr + 0x100 * outstanding s w
    + 0x80000 * b2n W.ringFull

end Sys2Proof.Machine
end

