-- ==== Sys2Proof/Machine/Pool.lean ====
section
/-! DEFINITION. The dispatcher's work on its own (chapter 09): descriptors, puts, admission, assignment, ordering classes and end of
stream. -/

namespace Sys2Proof.Machine

-- ## Descriptors (R191)

/-- The 32 bytes of a descriptor. -/
def Item.bytes (i : Item) : List Byte :=
  leBytes 4 (i.flow % 2 ^ 24 + i.cls * 2 ^ 24 + i.priority * 2 ^ 26 + b2n i.close * 2 ^ 29) ++ leBytes 1 i.stage ++ leBytes 1 i.pipeline
    ++ leBytes 2 i.vintage ++ leBytes 8 i.payload ++ leBytes 4 i.length ++ leBytes 4 i.seq ++ leBytes 8 i.tag

/-- What a tile or the host supplies of a descriptor (R192). -/
def itemOf (bs : List Byte) : Item :=
  { flow := fieldAt bs 0 4 % 2 ^ 24, cls := 0, priority := 0, close := false, stage := fieldAt bs 4 1 % 64, pipeline := fieldAt bs 5 1 % 16
    vintage := 0, payload := fieldAt bs 8 8, length := fieldAt bs 0x10 4, seq := 0, tag := fieldAt bs 0x18 8 }

/-- Whether a reserved bit of a descriptor is set. -/
def itemReserved (bs : List Byte) : Bool := fieldAt bs 0 4 / 2 ^ 30 != 0 || fieldAt bs 4 1 / 64 != 0 || fieldAt bs 5 1 / 16 != 0

/-- The key of a pooled stage. -/
def stageKey (pipe stage : Nat) : Nat := 64 * pipe + stage
/-- The key of an item's target stage. -/
def Item.key (i : Item) : Nat := stageKey i.pipeline i.stage
/-- The key of an item's flow. -/
def Item.flowKey (i : Item) : Nat := i.key * 2 ^ 24 + i.flow

/-- FLOW_SETUP entries of a stage. -/
def Image.flowsOf (I : Image) (key : Nat) : List FlowSetup := I.flows.filter fun e => stageKey e.pipeline e.stage == key
/-- The entry whose flow range holds a flow. -/
def Image.flowEntry (I : Image) (key flow : Nat) : Option FlowSetup :=
  (I.flowsOf key).find? fun e => decide (e.flowBase ≤ flow) && decide (flow < e.flowBase + e.flowCount)
/-- A pooled stage of the image. -/
def Image.pooled (I : Image) (key : Nat) : Option StageEntry := I.stages.find? fun e => e.pooled && stageKey e.pipeline e.stage == key

-- ## Items in existence (R205)

/-- Physical tiles of a stage, in ascending virtual tile. -/
def poolTiles (P : Parcel) (e : StageEntry) : List Nat := (sortBy id e.tiles).filterMap P.ptile

/-- Items queued at or held by the parcel's tiles. -/
def itemsAtTiles (s : State) (P : Parcel) : Nat :=
  P.tiles.foldl (fun n t => n + (s.tile t).localQ.length + b2n (s.tile t).held.isSome) 0

/-- Items of a parcel in existence. -/
def itemsIn (s : State) (p : Nat) : Nat :=
  let P := s.parcel p
  let D := P.dsp
  D.pending.length + D.ready.length + D.waiting.length + D.heldBack.length + itemsAtTiles s P

/-- Every item that is ready, queued, in service or waiting, of a stage. -/
def liveItems (s : State) (p key : Nat) : List DItem :=
  let P := s.parcel p
  (P.dsp.ready ++ P.dsp.waiting ++ P.tiles.flatMap fun t => (s.tile t).localQ ++ (s.tile t).held.toList).filter fun i => i.item.key == key

/-- Change a parcel's dispatcher share. -/
def State.updDsp (s : State) (p : Nat) (f : Dsp → Dsp) : State := s.updParcel p fun P => { P with dsp := f P.dsp }

-- ## Puts (R192, R193)

/-- The result of a put (Table 2): the lowest code that applies. -/
def putCode (s : State) (p : Nat) (i : Item) (reserved noOrigin : Bool) : Nat :=
  let I := (s.parcel p).image
  if (I.pooled i.key).isNone then 1
  else if !(I.flowsOf i.key).isEmpty && (I.flowEntry i.key i.flow).isNone then 2
  else if (s.parcel p).itemCap ≤ itemsIn s p then 3
  else if (s.parcel p).dsp.closed.contains i.key then 4
  else if noOrigin then 5
  else if reserved then 6
  else 0

/-- Class and priority from the flow's entry, and the vintage. -/
def fillItem (I : Image) (i : Item) (vintage : Nat) : Item :=
  match I.flowEntry i.key i.flow with
  | some e => { i with cls := e.cls, priority := e.priority, vintage := vintage }
  | none => { i with cls := 0, priority := 0, vintage := vintage }

/-- Accept an item: it is pending from now on, or held back. -/
def acceptItem (s : State) (p : Nat) (d : DItem) (held : Bool) : State :=
  let s := s.updDsp p fun D => { D with
    pending := if held then D.pending else D.pending ++ [d], heldBack := if held then D.heldBack ++ [d] else D.heldBack
    arrivals := D.arrivals + 1 }
  s.updDsp p fun D => { D with peak := max D.peak (itemsIn s p) }

-- ## Assignment (R197)

/-- Dispatcher of a tile: 0 on the north die, 1 on the south. -/
def dieOf (t : Nat) : Nat := t / 128

/-- Place an item in a tile's queue. -/
def queueItem (s : State) (p t : Nat) (d : DItem) (pin : Bool) : State :=
  let s := s.updTile t fun T => { T with localQ := T.localQ ++ [{ d with pinned := pin }] }
  s.updDsp p fun D => { D with ready := D.ready.erase d }

/-- The least loaded of the eligible tiles, the lowest virtual tile on a tie. -/
def leastLoad (s : State) (l : List Nat) : Option Nat :=
  let load := fun t => (s.tile t).localQ.length + b2n (s.tile t).held.isSome
  l.foldl (fun acc t =>
    match acc with
    | none => some t
    | some u => if load t < load u then some t else some u) none

/-- Assign one ready item among the tiles of one dispatcher, or of both. A flow has an entry where a FLOW_SETUP range of its stage holds it
(R192, R205), and a last tile from its first delivery on. -/
def assignAmong (s : State) (p : Nat) (d : DItem) (tiles : List Nat) : Option State :=
  let P := s.parcel p
  let elig := tiles.filter fun t => (s.tile t).run == .running
  let e := P.image.flowEntry d.item.key d.item.flow
  let depth := match e with | some e => if e.affDepth = 0 then P.dsp.affDepth else e.affDepth | none => P.dsp.affDepth
  let win := match e with | some e => if e.affWindow = 0 then P.dsp.affWindow else e.affWindow | none => P.dsp.affWindow
  let aff := (Tab.find P.dsp.flows d.item.flowKey).filter fun a =>
    e.isSome && decide (0 < depth) && decide (0 < win) && decide (pframe s p - a.frame < win) && elig.contains a.tile
      && decide ((s.tile a.tile).localQ.length < min depth 4)
  match aff with
  | some a => some (queueItem s p a.tile d (d.item.cls == 2))
  | none =>
    match leastLoad s (elig.filter fun t => decide ((s.tile t).localQ.length < 4)) with
    | some t => some (queueItem s p t d false)
    | none => none

/-- Whether ORDERED lets an item be assigned (R200). -/
def orderedOk (s : State) (p : Nat) (d : DItem) : Bool :=
  if d.item.cls ≠ 1 then true
  else
    let ord := (liveItems s p d.item.key).filter fun i => i.item.cls == 1
    let low := ord.foldl (fun m i => min m i.ord) d.ord
    let es := ((s.parcel p).image.flowsOf d.item.key).filter fun e => e.cls == 1
    match es with
    | [] => true
    | e :: r => decide (d.ord < low + r.foldl (fun m e => min m e.reorder) e.reorder)

/-- Assign one ready item if a tile takes it. On a stage that spans both dies the dispatcher that asks first is the engine's choice, the same
whenever the EXECUTE is run again (R158). -/
def assignOne (s : State) (p : Nat) (d : DItem) : State :=
  let P := s.parcel p
  match P.image.pooled d.item.key with
  | none => s
  | some e =>
    if !orderedOk s p d then s
    else
      let ts := poolTiles P e
      let north := ts.filter fun t => dieOf t == 0
      let south := ts.filter fun t => dieOf t == 1
      if north.isEmpty || south.isEmpty then (assignAmong s p d ts).getD s
      else
        let (x, y) := if Config.northFirst d.item.key d.ord then (north, south) else (south, north)
        match assignAmong s p d x with
        | some s => s
        | none => (assignAmong s p d y).getD s

/-- Assign ready items eagerly, in descending priority and then ascending seq. -/
def assign (s : State) (p : Nat) : State :=
  (sortBy (fun d => 7 - d.item.priority) (sortBy (·.ord) (s.parcel p).dsp.ready)).foldl (fun s d => assignOne s p d) s

-- ## Admission (R194 to R196)

/-- The order in which pending items of a stage are admitted (R195). -/
def admitOrder (l : List DItem) : List DItem := sortBy (·.origin) (sortBy (·.k1) (sortBy (·.k2) (sortBy (·.k3) l)))

/-- Discard items of an old vintage (R196). -/
def dropStale (s : State) (p : Nat) : State :=
  let P := s.parcel p
  let old := fun (d : DItem) => d.item.vintage != P.vintage
  let n := (P.dsp.pending.filter old).length + (P.dsp.ready.filter old).length
  let s := s.updDsp p fun D => { D with pending := D.pending.filter fun d => !old d, ready := D.ready.filter fun d => !old d }
  s.updParcel p fun P => { P with staleCnt := satAdd P.staleCnt n }

/-- Admit one item: its seq, and whether it is ready or waits for its ATOMIC flow. -/
def admitOne (s : State) (p : Nat) (d : DItem) : State :=
  let D := (s.parcel p).dsp
  let n := Tab.get 0 D.seqs d.item.key
  let d := { d with ord := n, item := { d.item with seq := n % 2 ^ 32 } }
  let blocked := d.item.cls == 2 && (liveItems s p d.item.key).any fun i => i.item.flow == d.item.flow
  s.updDsp p fun D => { D with
    seqs := Tab.set D.seqs d.item.key (n + 1)
    ready := if blocked then D.ready else D.ready ++ [d], waiting := if blocked then D.waiting ++ [d] else D.waiting }

/-- Admit every pending item that a test chooses. -/
def admitItems (s : State) (p : Nat) (f : DItem → Bool) : State :=
  let s := dropStale s p
  let go := (s.parcel p).dsp.pending.filter f
  let s := s.updDsp p fun D => { D with pending := D.pending.filter fun d => !f d }
  (admitOrder go).foldl (fun s d => admitOne s p d) s

-- ## End of stream (R201)

/-- Whether a stage has reached end of stream: every tile of it has (R134). -/
def stageEos (s : State) (P : Parcel) (e : StageEntry) : Bool := (e.tiles.filterMap P.ptile).all fun t => (s.tile t).eos

/-- Whether a data-mover channel of the EXECUTE that enqueues to a stage is active. -/
def moverActive (s : State) (P : Parcel) (key : Nat) : Bool :=
  (setBits 64 P.groups.toNat).any fun g => (s.group g).chans.any fun c =>
    c.2.prog.isSome && c.2.busy && fbit c.2.xenq 0 && stageKey (fld c.2.xenq 14 4) (fld c.2.xenq 8 6) == key

/-- Whether a pooled stage is drained. -/
def drained (s : State) (p : Nat) (e : StageEntry) : Bool :=
  let P := s.parcel p
  let key := stageKey e.pipeline e.stage
  (P.image.stages.all fun x => x.pipeline != e.pipeline || decide (e.stage ≤ x.stage) || stageEos s P x)
    && (liveItems s p key).isEmpty && !(P.dsp.pending.any fun d => d.item.key == key)
    && !(P.dsp.heldBack.any fun d => d.item.key == key) && !moverActive s P key

/-- Place the closing items of a stage. -/
def closeStage (s : State) (p : Nat) (e : StageEntry) : State :=
  let P := s.parcel p
  let key := stageKey e.pipeline e.stage
  let n := Tab.get 0 P.dsp.seqs key
  let it : Item := {
    flow := 0, cls := 0, priority := 0, close := true, stage := e.stage, pipeline := e.pipeline, vintage := P.vintage, payload := 0
    length := 0, seq := n % 2 ^ 32, tag := 0 }
  let s := s.updDsp p fun D => { D with closed := key :: D.closed }
  let s := (poolTiles P e).foldl (fun s t => s.updTile t fun T => { T with localQ := { item := it, pinned := true, ord := n } :: T.localQ }) s
  s.updDsp p fun D => { D with peak := max D.peak (itemsIn s p) }

/-- Close the stages of a pipeline that are drained at a decant. -/
def closeDrained (s : State) (p pipe : Nat) : State :=
  ((s.parcel p).image.stages.filter fun e => e.pooled && e.pipeline == pipe).foldl (fun s e =>
    if !(s.parcel p).dsp.closed.contains (stageKey e.pipeline e.stage) && drained s p e then closeStage s p e else s) s

/-- Whether a pooled tile has new input at a boundary (R199). -/
def poolInput (s : State) (p : Nat) (e : StageEntry) : Bool :=
  let P := s.parcel p
  let key := stageKey e.pipeline e.stage
  (P.dsp.ready.any fun d => d.item.key == key) || (poolTiles P e).any fun t => !(s.tile t).localQ.isEmpty

/-- Return a tile's queued items to the ready items (R199, R203). -/
def returnQueue (s : State) (p t : Nat) : State :=
  let q := (s.tile t).localQ.map fun d => { d with pinned := false }
  let s := s.updTile t fun T => { T with localQ := [] }
  s.updDsp p fun D => { D with ready := D.ready ++ q }

/-- Discard every item of an EXECUTE that has ended (R204). -/
def dspDiscard (s : State) (p : Nat) : State :=
  let n := itemsIn s p
  let s := (s.parcel p).tiles.foldl (fun s t => s.updTile t fun T => { T with localQ := [], held := none, puts := 0, dqWait := none }) s
  s.updDsp p fun D => { D with
    pending := [], ready := [], waiting := [], heldBack := [], flows := [], seqs := [], closed := [], arrivals := 0
    discard := D.discard + BitVec.ofNat 64 n }

end Sys2Proof.Machine
end

