-- ==== Sys2Proof/Machine/Operands.lean ====
section
/-! DEFINITION. Operand forms of tile instructions (chapter 04, R96 to R98; chapter 05, R107 to R113), and how an instruction retires or
takes an exception (R100 to R103, R44, R266, R267). -/

namespace Sys2Proof.Machine

-- ## Registers (R96, R97)

/-- s[r]. -/
def Tile.sGet (T : Tile) (r : Nat) : Word := if r = 0 then 0 else Tab.get 0 T.sRegs r
/-- s[r] := x; writes to s0 are discarded. -/
def Tile.sPut (T : Tile) (r : Nat) (x : Word) : Tile := if r = 0 then T else { T with sRegs := Tab.set T.sRegs r x }
/-- v[r]. -/
def Tile.vGet (T : Tile) (r : Nat) : BitVec 4096 := Tab.get 0 T.vRegs r
/-- v[r] := x. -/
def Tile.vPut (T : Tile) (r : Nat) (x : BitVec 4096) : Tile := { T with vRegs := Tab.set T.vRegs r x }
/-- p[r]; p0 reads as all ones. -/
def Tile.pGet (T : Tile) (r : Nat) : BitVec 512 := if r = 0 then BitVec.allOnes 512 else Tab.get 0 T.pRegs r
/-- p[r] := x; writes to p0 are discarded. -/
def Tile.pPut (T : Tile) (r : Nat) (x : BitVec 512) : Tile := if r = 0 then T else { T with pRegs := Tab.set T.pRegs r x }
/-- f[r]: bits [63:0] of v[r] (R97). -/
def Tile.fGet (T : Tile) (r : Nat) : Nat := (T.vGet r).toNat % 2 ^ 64
/-- f[r] := x, the bits above the result cleared (R97). -/
def Tile.fPut (T : Tile) (r x : Nat) : Tile := T.vPut r (BitVec.ofNat 4096 (x % 2 ^ 64))

-- ## Elements (R107 to R109)

/-- Bits of the element width that VTYPE selects. -/
def Tile.ew (T : Tile) : Nat := 8 * 2 ^ (T.vtype.toNat % 4)
/-- VTYPE.signed. -/
def Tile.signed (T : Tile) : Bool := T.vtype.getLsbD 2
/-- VLMAX for a width code. -/
def vlmaxOf (vt : Nat) : Nat := 512 / 2 ^ (vt % 4)
/-- VLMAX (R108). -/
def Tile.vlmax (T : Tile) : Nat := vlmaxOf T.vtype.toNat

/-- Element `i` of width `w` of a register's bits. -/
def elemOf (w n i : Nat) : Nat := n / 2 ^ (w * i) % 2 ^ w
/-- Replace element `i`. -/
def setElem (w n i x : Nat) : Nat := n - elemOf w n i * 2 ^ (w * i) + x % 2 ^ w * 2 ^ (w * i)

/-- Element `i` of v[r]. -/
def Tile.elem (T : Tile) (r i : Nat) : Nat := elemOf T.ew (T.vGet r).toNat i
/-- v[r][i] := x. -/
def Tile.setV (T : Tile) (r i x : Nat) : Tile := T.vPut r (BitVec.ofNat 4096 (setElem T.ew (T.vGet r).toNat i x))
/-- Whether p[r] selects element `i` (R107). -/
def Tile.sel (T : Tile) (r i : Nat) : Bool := (T.pGet r).getLsbD (T.ew / 8 * i)
/-- Element `i` of p[r] := b, all its byte lanes. -/
def Tile.setP (T : Tile) (r i : Nat) (b : Bool) : Tile :=
  let k := T.ew / 8
  let n := (T.pGet r).toNat
  T.pPut r (BitVec.ofNat 512 (setElem k n i (if b then 2 ^ k - 1 else 0)))

/-- Elements from VSTART to below VL. -/
def Tile.span (T : Tile) : List Nat := (List.range T.vl).filter fun i => decide (T.vstart.toNat ≤ i)
/-- Active elements under a predicate (R109). -/
def Tile.active (T : Tile) (p : Nat) : List Nat := T.span.filter fun i => T.sel p i

/-- The signed or unsigned value of a `w`-bit number. -/
def ival (signed : Bool) (w n : Nat) : Int := if signed then toSigned w n else (n % 2 ^ w : Nat)

/-- The second source of element `i`: v[rs2][i], or s[rs2] in a .VS form (R113). -/
def Tile.src2 (T : Tile) (vs : Bool) (r i : Nat) : Nat := if vs then (T.sGet r).toNat % 2 ^ T.ew else T.elem r i
/-- The second source of a floating-point form (R113). -/
def Tile.fsrc2 (T : Tile) (vs : Bool) (r i : Nat) : Nat := if vs then T.fGet r % 2 ^ T.ew else T.elem r i

-- ## Retiring (R95)

/-- Change the tile and go on to the next instruction; a re-executed instruction of a parked tile has then retired (R268). -/
def retire (s : State) (t : Nat) (f : Tile → Tile) : State :=
  s.updTile t fun T => let T := f T; { T with pc := T.pc + 4, unparked := false }

/-- The same for a vector instruction, which leaves VSTART 0 (R110). -/
def retireV (s : State) (t : Nat) (f : Tile → Tile) : State := retire s t fun T => { f T with vstart := 0 }

/-- Whether the tile executes instructions: it runs, is not in reset, and does not wait for a frame or for a work item. -/
def Tile.executes (T : Tile) : Bool := T.run == .running && !T.inReset && !T.guardStall && T.dqWait.isNone

/-- Run an instruction of a tile that executes. -/
def issue (s : State) (t : TileId) (f : State → State) : Host.Outcome State Fault Refusal :=
  ok (live s fun s => if (s.tile t).executes then f s else s)

-- ## Exceptions (chapter 04, Table 5)

/-- An exception: its index, its TFAULT_VA, and what a translation adds (Table 4 of chapter 12, Table 8). -/
structure Exc where
  idx : Nat
  va : Nat := 0
  reason : Nat := 0
  level : Nat := 0
  /-- bit 0 write, bit 1 reduction, bit 2 vector, bit 3 first-fault form -/
  access : Nat := 0
  desc : Nat := 0
  descDpa : Nat := 0
  deriving DecidableEq, Repr

/-- Exception 5: an illegal instruction. -/
def illegal : Exc := { idx := 5 }

/-- The status of a stop (Table 5). -/
def excStatus (i : Nat) : Nat :=
  match i with
  | 0 => sTRANSLATION_FAULT | 1 => sPERMISSION | 2 => sWALK_BUS_ERROR | 3 => sDEVICE_REGION_WALK
  | 4 => 0x84 | 5 => 0x85 | 6 => sPOISONED | _ => 0x87

/-- The TILECODE of a virtual tile. -/
def Image.codeOf (I : Image) (v : Nat) : Option TileCode := I.codes.find? fun c => bitOf c.tiles v

/-- The handler of an exception, if the tile's TILECODE names one. -/
def handlerOf (s : State) (t i : Nat) : Option Nat :=
  match roleOf s t with
  | none => none
  | some r =>
    match (r.parcel.image.codeOf r.v).bind fun c => c.handlers[i]? with
    | some h => if h = 0xFFFFFFFF then none else some h
    | none => none

/-- Stop the tile (R101, R102): TIL_EXC records it and tile event 0 is raised. A stop that no exception caused records the registers EPC and
TFAULT_VA of a stop as its caller gives them. -/
def stopTile (s : State) (t : Nat) (r : StopRec) (idx : Nat) (nested : Bool) : State :=
  let T := s.tile t
  let cause := idx + 8 + 16 * b2n nested + 0x100 * r.status + 0x10000 * vtileOf s t + 0x100000000 * (T.vstart.toNat % 0x10000)
  let s := s.updTile t fun T => { T with
    run := .stopped, stop := some r, excCause := BitVec.ofNat 64 cause, excPc := T.epc, excVa := T.tfaultVa,
    excFrame := s.frm.count, unparked := false }
  raiseTile s t 0

/-- Stop a tile where no exception of Table 5 of chapter 04 is taken (R102, R243): TIL_EXC_PC is the place that the tile is at, and the index
and the VA that TIL_EXC records are free values. -/
def stopFree (s : State) (t : Nat) (r : StopRec) : State :=
  let T := s.tile t
  let n := s.freeCtr
  let s := { s with freeCtr := n + 2 }
  (stopTile s t r ((Config.freeWord n).toNat % 8) T.inHandler).updTile t fun X => { X with excPc := T.pc, excVa := Config.freeWord (n + 1) }

/-- Put a fault record into a parcel's receive channel, or leave it waiting (R267, R427). -/
def postFault (s : State) (p : Nat) (rec : FaultRec) : State :=
  let c := 2 * (s.parcel p).mbxPair
  let C := s.mchan c
  if C.valid && !C.full && C.waiting.isEmpty then
    if rec.vintage ≠ (s.parcel p).vintage then countStale s p
    else
      let s := s.updMchan c fun C => { C with held := rec.bytes, full := true, fault := true, staleDone := s.mbx.staleUs == 0 }
      if C.ctl.getLsbD 0 then raise s (1024 + c) 0 0 else s
  else s.updMchan c fun C => { C with waiting := C.waiting ++ [rec] }

/-- The fault record of a parked tile (Table 8 of chapter 12). -/
def faultBytes (v pipe stage : Nat) (e : Exc) (frame : Word) (epc vst vintage tag : Nat) : List Byte :=
  leBytes 2 v ++ leBytes 1 pipe ++ leBytes 1 stage ++ leBytes 1 e.level ++ leBytes 1 e.reason ++ leBytes 1 e.access ++ zeros 1
    ++ leBytes 8 e.va ++ leBytes 8 e.desc ++ leBytes 8 e.descDpa ++ leBytes 8 frame.toNat ++ leBytes 4 epc ++ leBytes 2 vst
    ++ leBytes 2 vintage ++ leBytes 2 tag ++ zeros 14

/-- Whether a tile is parked, or has been unparked and its faulting instruction has not retired since. -/
def Tile.inPark (T : Tile) : Bool := T.run == .parked || T.unparked

/-- The parking count of a stage returns to 0 once the faulting instruction of each of its parked tiles has retired (R268): seen when a tile of
the stage parks anew. -/
def freshPark (s : State) (t : Nat) : State :=
  match roleOf s t with
  | none => s
  | some r =>
    if r.stage.tiles.any fun v => ((r.parcel.ptile v).map fun d => (s.tile d).inPark).getD false then s
    else
      s.updParcel r.p fun P => { P with exec := P.exec.map fun x => { x with
        pipes := x.pipes.map fun q => if q.id = r.stage.pipeline then { q with parks := Tab.set q.parks r.stage.stage 0 } else q } }

/-- Park the tile's stage (R44): record, fault record to the mailbox, and park notice, in the frame of the fault. -/
def parkTile (s : State) (t : Nat) (e : Exc) : State :=
  let T := s.tile t
  let s := (freshPark s t).updTile t fun T => { T with
    run := .parked, park := some {
      va := e.va, reason := e.reason, level := e.level, access := e.access, desc := e.desc, descDpa := e.descDpa,
      frame := s.frm.count, epc := T.pc.toNat, vstart := T.vstart.toNat } }
  let s := raiseTile s t 0
  match roleOf s t with
  | none => s
  | some r =>
    let s := assign (returnQueue s r.p t) r.p
    match r.parcel.exec.bind fun x => s.cmd x.seq with
    | none => s
    | some c =>
      let bytes := faultBytes r.v r.stage.pipeline r.stage.stage e s.frm.count T.pc.toNat T.vstart.toNat r.parcel.vintage c.tag
      let s := postFault s r.p { bytes := bytes, vintage := r.parcel.vintage }
      parkNotice s c (detail e.reason 2 r.v r.stage.stage e.va)

/-- Take an exception (R100, R101, R44). `vst` is the element at which VSTART is left (R123). A parked fault gives ECAUSE its index and leaves
in_handler 0, since the instruction, run again, may park again (R268) and a fault taken with in_handler 1 does not park (R101). -/
def takeExc (s : State) (t : Nat) (e : Exc) (vst : Option Nat) : State :=
  let s := s.updTile t fun T => { T with
    vstart := match vst with | some i => BitVec.ofNat 64 i | none => T.vstart
    tfaultVa := BitVec.ofNat 64 e.va
    epc := T.pc }
  let T := s.tile t
  let parks := e.idx = 0 && !T.inHandler && (handlerOf s t 0).isNone
  let s := if e.idx ≤ 3 then
      s.updTile t fun T => { T with mmu := { T.mmu with
        faultValid := true, faultVa := BitVec.ofNat 64 e.va
        faultInfo := BitVec.ofNat 64 (e.reason + 0x100 * e.level + 0x400 * (e.access % 4) + 0x1000 * b2n parks
          + 0x10000 * (T.vstart.toNat % 0x10000) + 0x100000000 * (s.frm.count.toNat % 2 ^ 32)) } }
    else s
  if parks then parkTile (s.updTile t fun T => { T with ecause := BitVec.ofNat 3 e.idx }) t e
  else
    let s' := s.updTile t fun T => { T with ecause := BitVec.ofNat 3 e.idx, inHandler := true }
    match handlerOf s t e.idx, T.inHandler with
    | some h, false => s'.updTile t fun T => { T with pc := BitVec.ofNat 64 h }
    | _, nested =>
      let r : StopRec := {
        status := excStatus e.idx, source := 2, reason := e.idx, sub := ((roleOf s t).map (·.stage.stage)).getD 0
        address := e.va }
      stopTile s' t r e.idx nested

/-- Take the illegal-instruction exception, VSTART unchanged (R106). -/
def takeIllegal (s : State) (t : Nat) : State := takeExc s t illegal none

end Sys2Proof.Machine
end

