-- ==== Sys2Proof/Machine/Memory.lean ====
section
/-! DEFINITION. The cellar: error correction, poison, scrubbing and memory-side reductions (chapter 10; chapter 07, R165 to R172). -/

namespace Sys2Proof.Machine

/-- Change a slice's stack and count one corrected line (R219, MEM_STS.ce_thresh). -/
def countCe (s : State) (n : Nat) : State :=
  let c := satAdd (Tab.get 0 (s.stack (n / 8)).ceCnt (n % 8)) 1
  let s := s.updStack (n / 8) fun K => { K with ceCnt := Tab.set K.ceCnt (n % 8) c }
  let lim := fld (s.stack (n / 8)).ctl 16 16
  if lim ≠ 0 && c.toNat % lim == 0 then
    raiseStack (s.updStack (n / 8) fun K => { K with ceThresh := true }) n 1
  else s

/-- An uncorrectable line is found: it is rewritten poisoned, counted, and recorded when MEM_UE_ADDR is free (R220). -/
def findUe (s : State) (line : Nat) : State :=
  if s.mem.poisoned line then s
  else
    let n := line / sliceBytes
    let s := { s with mem := s.mem.setPoison line true }
    let s := s.updStack (n / 8) fun K => { K with
      ueSeen := true, ueCnt := Tab.set K.ueCnt (n % 8) (satAdd (Tab.get 0 K.ueCnt (n % 8)) 1) }
    if (s.stack (n / 8)).ueValid then s
    else raiseStack (s.updStack (n / 8) fun K => { K with ueValid := true, ueAddr := line }) n 0

/-- The undefined part of memory that a region shares with a range. -/
def Undef.within (u : Undef) (lo hi : Nat) : Option Undef :=
  if max u.lo lo < min u.hi hi then some { u with lo := max u.lo lo, hi := min u.hi hi } else none

/-- Memory whose cellar and tile stores are undefined but for one range of the cellar, whose contents survive (R482). -/
def Mem.unknownBut (m : Mem) (lo hi : Nat) : Mem :=
  { m.unknown with
    cells := m.cells.filter fun c => decide (0x8000000000000 ≤ c.1) || (decide (lo ≤ c.1) && decide (c.1 < hi))
    poison := m.poison.filter fun l => decide (lo ≤ l) && decide (l < hi)
    undef := (m.unknown.undef.flatMap fun u => if u.lo = 0 then [{ u with hi := lo }, { u with lo := hi }] else [u])
      ++ m.undef.filterMap fun u => u.within lo hi }

/-- What reading a cellar line's check symbols does (R219, R220). -/
def eccRead (s : State) (a : Nat) (e : Ecc) : State :=
  if 0x8000000000 ≤ a then s
  else
    match e with
    | .clean => s
    | .corrected => if s.mem.poisoned a then s else countCe s (a / sliceBytes)
    | .uncorrectable => findUe s (a / 64 * 64)

-- ## Scrubbing (R222)

/-- The line that pseudo-channel `j` of stack `k` scrubs next. -/
def scrubDpa (s : State) (k j : Nat) : Nat :=
  (8 * k + j / 8) * sliceBytes + (Tab.get 0 (s.stack k).pos (j / 8) * 8 + j % 8) * 64

/-- Lines of a pseudo-channel. -/
def channelLines : Nat := 2 ^ 24

/-- The scrubber reads the next line of each pseudo-channel of a stack; slices in self-refresh pause. -/
def scrub (s : State) (k : Nat) (ecc : List Ecc) : State :=
  let K := s.stack k
  if !fbit K.scrubCtl 0 || !K.trained then s
  else
    let go := (List.range 8).filter fun i => !selfRefresh s (8 * k + i) && decide (Tab.get 0 K.pos i < channelLines)
    let s := foldNat (go.flatMap fun i => (List.range 8).map (8 * i + ·))
      (fun j s => eccRead s (scrubDpa s k j) (ecc[j]?.getD .clean)) s
    let s := s.updStack k fun K => { K with pos := go.foldl (fun p i => Tab.upd 0 p i (· + 1)) K.pos }
    if (List.range 8).all fun i => Tab.get 0 (s.stack k).pos i == channelLines then
      raiseStack (s.updStack k fun K => { K with
        pos := [], passes := (K.passes + 1) % 2 ^ 32, scrubPass := true, scrubNow := K.scrubCtl }) (8 * k) 2
    else s

/-- SCRUB_LINE. -/
def execScrubLine (k : StackId) (ecc : List Ecc) (s : State) : Host.Outcome State Fault Refusal :=
  ok (live s fun s => if stackPresent s k.val then scrub s k.val ecc else s)

/-- Whether a requester is the manager's PF0, or firmware standing for it. -/
def isManager (s : State) (who : Who) : Bool :=
  match who with
  | .fn f => f.val == mgrFn s
  | .firmware _ => true

/-- A write of MEM_SCRUB_CTL (Table 10). -/
def scrubCtlWrite (s : State) (k : Nat) (v : Word) : State :=
  let h := fld v 8 8
  if 1 ≤ h && h ≤ 168 then s.updStack k fun K => { K with scrubCtl := mergeMask 0xFF01 0 v }
  else s.updStack k fun K => { K with paramErr := true }

/-- MEM_SCRUB_CTL_WRITE. -/
def execMemScrubCtlWrite (who : Who) (k : StackId) (v : Word) (s : State) : Host.Outcome State Fault Refusal :=
  ok (live s fun s => if isManager s who && stackPresent s k.val then scrubCtlWrite s k.val v else s)

/-- MEM_UE_ADDR_CLEAR: the record is cleared and the next capture armed. -/
def execMemUeAddrClear (who : Who) (k : StackId) (s : State) : Host.Outcome State Fault Refusal :=
  ok (live s fun s => if isManager s who && stackPresent s k.val then s.updStack k.val fun K => { K with ueValid := false } else s)

-- ## Reductions (R167 to R172)

/-- What one element leaves in its word (Table 4 of chapter 07). -/
def redResult (r : Red) (m : Nat) : Nat :=
  let w := 8 * r.bytes
  let lt := fun a b => ival r.signed w a < ival r.signed w b
  match r.op with
  | .add => (m + r.value) % 2 ^ w
  | .min => if lt r.value m then r.value % 2 ^ w else m
  | .max => if lt m r.value then r.value % 2 ^ w else m
  | .count => (m + 1) % 2 ^ w
  | .fadd => fAdd 64 m r.value

/-- End the parcel's EXECUTE at its next boundary, for a cause other than a stopped tile. -/
def failExec (s : State) (p : Nat) (r : StopRec) : State :=
  s.updParcel p fun P => { P with exec := P.exec.map fun x => { x with fails := x.fails ++ [r] } }

/-- Apply one element to its word. -/
def applyRed (s : State) (r : Red) : State :=
  if s.mem.poisoned r.dpa then
    failExec s r.parcel { status := sPOISONED, source := 8, reason := 0, sub := 0, address := r.dpa }
  else
    let m := leNat (s.mem.read r.dpa r.bytes)
    let mem := s.mem.write r.dpa (leBytes r.bytes (redResult r m))
    let hit := mem.stores.any fun x => x.1 < r.dpa + r.bytes && r.dpa < x.2
    let mem := { mem with reduced := (r.dpa, r.dpa + r.bytes) :: mem.reduced }
    let s := { s with mem := if hit then mem.forget r.dpa (r.dpa + r.bytes) else mem }
    s.updStack (r.dpa / sliceBytes / 8) fun K => { K with redCnt := satAdd K.redCnt 1 }

/-- The pseudo-channel of a cellar address, as slice × 8 + channel (R210). -/
def channelOf (a : Nat) : Nat := a / sliceBytes * 8 + a / 64 % 8

/-- Elements that wait at the pseudo-channel of an address. -/
def redQueue (s : State) (a : Nat) : Nat := (s.reds.filter fun r => channelOf r.dpa == channelOf a).length

/-- Whether every reduction of a tile has been accepted (R133, R137, R169). -/
def redsDone (s : State) (t : Nat) : Bool := !s.reds.any fun r => r.tile == t

end Sys2Proof.Machine
end

