-- ==== Sys2Proof/Machine/Request.lean ====
section
/-! DEFINITION. Channels of the data movers (chapter 13): how one halts, and pacing requests. -/

namespace Sys2Proof.Machine

/-- Whether a parcel's guard window is open: the global one, in the last global frame of a parcel frame (R32, R34). -/
def guardNow (s : State) (p : Nat) : Bool := s.frm.guardOpen && (s.frm.count.toNat + 1) % (s.parcel p).divNow.toNat == 0

/-- Fields of DMA_CTL (Table 8) that a transfer sampled. -/
def Chan.pace (C : Chan) : Nat := fld C.xctl 12 2
/-- The request source. -/
def Chan.reqSrc (C : Chan) : Nat := fld C.xctl 14 3
/-- Whether the channel waits for requests. -/
def Chan.paced (C : Chan) : Bool := C.pace % 2 == 1

/-- The event of a channel: 0 done, 1 halt. -/
def raiseChan (s : State) (g c e : Nat) : State :=
  if fbit (s.chan g c).ctl (34 + e) then raise s (512 + 4 * g + e) e c else s

/-- The status that an EXECUTE takes from a channel's err (Table 5). -/
def chanStatus (err : Nat) : Nat :=
  match err with
  | 1 => sDMA_BUS_ERROR | 2 => sDMA_BUS_ERROR | 3 => sDMA_BUS_ERROR | 4 => sTRANSLATION_FAULT | 5 => sPERMISSION
  | 6 => sWALK_BUS_ERROR | 7 => sDEVICE_REGION_WALK | 8 => sMEDIA_ERROR | 9 => sNS_NOT_READY | 0x0A => sINVALID_FIELD
  | 0x0B => sINVALID_FIELD | 0x0C => 0x90 | _ => 0x91

/-- The bound transfer of a snooping digest engine ends (R323): with done it can finalize, else the job fails with SNOOP_SHORT. -/
def snoopEnd (s : State) (g c : Nat) (isDone : Bool) : State :=
  let C := s.chan g c
  match C.snoop with
  | none => s
  | some e =>
    if !C.snoopLive then s
    else
      let s := s.updEng .de e fun E => { E with jobs := E.jobs.map fun j =>
        if j.snoop && !j.ended then
          { j with ended := true, running := false
                   outcome := if isDone || j.seenPoison.isSome then j.outcome else some { code := sLENGTH_MISMATCH, reason := 9, inUsed := j.seen.length } }
        else j }
      s.updChan g c fun C => { C with snoop := none, snoopLive := false }

/-- Nobody waits any longer for the cask reads of a channel: their results are discarded. -/
def disownReads (s : State) (g c : Nat) : State :=
  { s with sto := { s.sto with reads := s.sto.reads.map fun r => if r.reader = .chan g c then { r with reader := .nobody } else r } }

/-- A channel halts with an err code (R284); a program channel's halt ends its EXECUTE at the next boundary. -/
def haltChan (s : State) (g c err : Nat) : State :=
  let s := disownReads (snoopEnd s g c false) g c
  let C := s.chan g c
  let s := s.updChan g c fun C => { C with busy := false, aborted := true, done := false, err := BitVec.ofNat 8 err, burst := none }
  let s := raiseChan s g c 1
  match C.prog, groupParcel s g with
  | some _, some p =>
    failExec s p {
      status := chanStatus err, source := 4, reason := err, index := rankIn (s.parcel p).groups.toNat g
      sub := if err = 2 then 0xFF else c, address := 0 }
  | _, _ => s

/-- A channel ends aborted (R285). The access that a finished walk of its group was for is not made, so what the walk holds for it goes. -/
def abortChan (s : State) (g c : Nat) : State :=
  if !(s.chan g c).busy then s
  else
    let s := disownReads (snoopEnd s g c false) g c
    let s := s.updGroup g fun G => { G with tlb := { G.tlb with result := none } }
    s.updChan g c fun C => { C with busy := false, aborted := true, done := false, err := 0, burst := none }

/-- One request of a source (R276). `due`: it is due in the frame now running (R278). -/
def addRequest (s : State) (g c src : Nat) (due : Bool) : State :=
  let C := s.chan g c
  if C.reqSrc ≠ src || !C.paced || !C.busy then s
  else if 4095 ≤ C.reqPending then haltChan s g c 0x0C
  else s.updChan g c fun C => { C with reqPending := C.reqPending + 1, dueOpen := C.dueOpen + b2n due }

/-- A request of source 4 or 5 to every channel of the parcel that names its index. -/
def requestFrom (s : State) (p src idx : Nat) : State :=
  (setBits 64 (s.parcel p).groups.toNat).foldl (fun s g =>
    (List.range 16).foldl (fun s c => if fld (s.chan g c).xctl 17 8 = idx then addRequest s g c src false else s) s) s

end Sys2Proof.Machine
end

