-- ==== Sys2Proof/Machine/Translate.lean ====
section
/-! DEFINITION. Translation (chapter 12): descriptors, the walk, TLBs and walk caches, invalidation, and the rows that act on them. -/

namespace Sys2Proof.Machine

-- ## Units that translate

/-- The TLB of a unit. -/
def unitTlb (s : State) : WalkUnit → Tlb
  | .tile t => (s.tile t).mmu.tlb
  | .group g => (s.group g).tlb
  | .ce e => (s.eng .ce e).tlb
  | .de e => (s.eng .de e).tlb
  | .se e => (s.eng .se e).tlb

/-- Change the TLB of a unit. -/
def updTlb (s : State) (u : WalkUnit) (f : Tlb → Tlb) : State :=
  match u with
  | .tile t => s.updTile t fun T => { T with mmu := { T.mmu with tlb := f T.mmu.tlb } }
  | .group g => s.updGroup g fun G => { G with tlb := f G.tlb }
  | .ce e => s.updEng .ce e fun E => { E with tlb := f E.tlb }
  | .de e => s.updEng .de e fun E => { E with tlb := f E.tlb }
  | .se e => s.updEng .se e fun E => { E with tlb := f E.tlb }

/-- The parcel that holds a unit. -/
def unitParcel (s : State) : WalkUnit → Option Nat
  | .tile t => tileParcel s t
  | .group g => groupParcel s g
  | .ce e => engParcel s .ce e
  | .de e => engParcel s .de e
  | .se e => engParcel s .se e

/-- Entries of a unit's TLB (R254). -/
def tlbSize : WalkUnit → Nat
  | .tile _ => 64
  | _ => 32

/-- One step of the TLB's replacement register (R255). -/
def lfsrStep (l : Nat) : Nat :=
  let fb := b2n (bitOf l 15) ^^^ b2n (bitOf l 13) ^^^ b2n (bitOf l 12) ^^^ b2n (bitOf l 10)
  (l * 2 + fb) % 0x10000

/-- Whether an entry maps an address. -/
def TlbEntry.maps (e : TlbEntry) (va : Nat) : Bool := va / 2 ^ e.sizeLog2 * 2 ^ e.sizeLog2 == e.vaBase

/-- The entry that serves an address: the smallest page, then the lowest number (R256). -/
def Tlb.lookup (T : Tlb) (va : Nat) : Option TlbEntry :=
  T.entries.foldl (fun acc ke =>
    if ke.2.maps va then
      match acc with
      | some b => if ke.2.sizeLog2 < b.sizeLog2 then some ke.2 else some b
      | none => some ke.2
    else acc) none

/-- Fill an entry (R255). A TLB of 32 entries notes the one it replaces: a job of its engine may have used it (R259). -/
def Tlb.fill (T : Tlb) (size : Nat) (e : TlbEntry) : Tlb :=
  match findBelow size fun i => (Tab.find T.entries i).isNone with
  | some i => { T with entries := Tab.set T.entries i e }
  | none =>
    let i := T.lfsr % size
    { T with
      entries := Tab.set T.entries i e, lfsr := lfsrStep T.lfsr
      replaced := if size = 32 then (Tab.find T.entries i).toList ++ T.replaced else T.replaced }

-- ## Invalidation (R259, Table 6)

/-- An invalidation: kind 1 by address and AST, 2 by AST, 3 all, 4 by a range from `va` up to `ast` (MAP and UNMAP, R263). -/
structure InvOp where
  kind : Nat
  va : Nat := 0
  ast : Nat := 0
  deriving DecidableEq, Repr

/-- Whether it removes a TLB entry. -/
def InvOp.hits (o : InvOp) (e : TlbEntry) : Bool :=
  match o.kind with
  | 1 => e.maps (o.va % 2 ^ 48) && e.ast == o.ast && o.va / 2 ^ 48 == 0
  | 2 => e.ast == o.ast
  | 4 => decide (e.vaBase < o.ast) && decide (o.va < e.vaBase + 2 ^ e.sizeLog2)
  | _ => true

/-- The VA bits that tag a table descriptor read at a level (R257). -/
def wcTag (va level : Nat) : Nat := va / 2 ^ (39 - 9 * level)

/-- Whether it removes a walk-cache entry. -/
def InvOp.hitsWc (o : InvOp) (w : WcEntry) : Bool :=
  match o.kind with
  | 1 => w.tag == wcTag o.va w.level
  | 4 => decide (w.tag * 2 ^ (39 - 9 * w.level) < o.ast) && decide (o.va < (w.tag + 1) * 2 ^ (39 - 9 * w.level))
  | _ => true

/-- Remove what an invalidation removes at one unit; a walk in flight will not install what it would have removed. What a walk that had ended
before left for its access is dropped, so that the access walks again: a fault is never cached (R254). What is left by a walk that was in flight
when an invalidation arrived stays for its access (R259). -/
def invUnit (s : State) (u : WalkUnit) (o : InvOp) : State :=
  let s := updTlb s u fun T => { T with
    entries := T.entries.filter fun ke => !o.hits ke.2
    walk := T.walk.map fun w => { w with invs := (o.kind, o.va, o.ast) :: w.invs }
    result := T.result.filter (·.late) }
  match u with
  | .tile t => s.updTile t fun T => { T with mmu := { T.mmu with
      wc := T.mmu.wc.filter fun ke => !o.hitsWc ke.2
      wcPtr := if o.kind = 1 || o.kind = 4 then T.mmu.wcPtr else 0 } }
  | _ => s

/-- The accesses of a unit that an invalidation waits for (R259): reductions it has sent that no controller has accepted, and writes of a
finished job that are still to be published, where the invalidation removes an entry they may have used. -/
def holdUnit (s : State) (u : WalkUnit) (o : InvOp) : State :=
  let gone := ((unitTlb s u).entries.map (·.2) ++ (unitTlb s u).replaced).filter o.hits
  let eng := fun (E : Engine) => { E with jobs := E.jobs.map fun j =>
    let used := match j.outcome with
      | some x => x.writes.any fun w => gone.any fun e => decide (e.base ≤ w.1) && decide (w.1 < e.base + 2 ^ e.sizeLog2)
      | none => false
    { j with held := j.held || used } }
  match u with
  | .tile t => { s with reds := s.reds.map fun r => { r with held := r.held || (r.tile == t.val && !gone.isEmpty) } }
  | .group _ => s
  | .ce e => s.updEng .ce e eng
  | .de e => s.updEng .de e eng
  | .se e => s.updEng .se e eng

/-- Whether no walk that was in flight when an invalidation arrived is left, nor what such a walk holds for its access. -/
def Tlb.walksDone (T : Tlb) : Bool :=
  (match T.walk with | some w => w.invs.isEmpty | none => true) && (match T.result with | some r => !r.late | none => true)

/-- Whether a unit may still make the access that a walk serves: a tile that runs, a group with a busy channel, an engine with a job that has
not ended. -/
def unitBusy (s : State) (u : WalkUnit) : Bool :=
  let jobs := fun (E : Engine) => E.jobs.any fun j => j.outcome.isNone
  match u with
  | .tile t => (s.tile t).run == .running
  | .group g => (s.group g).chans.any fun c => c.2.busy
  | .ce e => jobs (s.eng .ce e)
  | .de e => jobs (s.eng .de e)
  | .se e => jobs (s.eng .se e)

/-- Whether an access that used what an invalidation removed is still to be accepted: a reduction on its way, or writes of a finished job. -/
def unitHeld (s : State) (u : WalkUnit) : Bool :=
  let jobs := fun (E : Engine) => E.jobs.any (·.held)
  match u with
  | .tile t => s.reds.any fun r => r.tile == t.val && r.held
  | .group _ => false
  | .ce e => jobs (s.eng .ce e)
  | .de e => jobs (s.eng .de e)
  | .se e => jobs (s.eng .se e)

/-- Whether an invalidation is complete at a unit (R259): no walk that was in flight when it arrived is left, nor what such a walk holds for
its access, nor an access that used what it removed. A unit that is not busy makes no access. -/
def unitDrained (s : State) (u : WalkUnit) : Bool := ((unitTlb s u).walksDone || !unitBusy s u) && !unitHeld s u

/-- The numbers of a mask as tiles, groups and engines. -/
def parcelUnits (P : Parcel) : List WalkUnit :=
  (P.tiles.map fun t => WalkUnit.tile (Fin.ofNat 256 t)) ++ ((setBits 64 P.groups.toNat).map fun g => WalkUnit.group (Fin.ofNat 64 g))
    ++ ((setBits 16 P.ce.toNat).map fun e => WalkUnit.ce (Fin.ofNat 16 e)) ++ ((setBits 16 P.de.toNat).map fun e => WalkUnit.de (Fin.ofNat 16 e))
    ++ ((setBits 16 P.se.toNat).map fun e => WalkUnit.se (Fin.ofNat 16 e))

/-- An invalidation on every unit of a parcel. -/
def invParcel (s : State) (p : Nat) (o : InvOp) : State :=
  (parcelUnits (s.parcel p)).foldl (fun s u => invUnit (holdUnit s u o) u o) s

/-- Whether an invalidation is complete at every unit it reaches. -/
def invDrained (s : State) (p : Nat) (i : Inval) : Bool :=
  match i.only, i.tile with
  | true, some t => unitDrained s (.tile (Fin.ofNat 256 t))
  | _, _ => (parcelUnits (s.parcel p)).all (unitDrained s)

/-- Invalidate a unit in full; it makes none of the accesses that its walks served. -/
def dropUnit (s : State) (u : WalkUnit) : State :=
  updTlb (invUnit s u { kind := 3 }) u fun T => { T with walk := none, result := none, replaced := [] }

/-- Invalidate a unit in full and set its replacement register (R255, R258). -/
def flushUnit (s : State) (u : WalkUnit) : State := updTlb (dropUnit s u) u fun T => { T with lfsr := 0xACE1 }

/-- What a reset of its parcel leaves of a unit: a tile is reset, and with it its replacement register; that of another unit stays until the
next EXECUTE starts (R255). -/
def resetUnit (s : State) (u : WalkUnit) : State :=
  match u with
  | .tile _ => flushUnit s u
  | _ => dropUnit s u

-- ## The walk (R247 to R251)

/-- What a walk ends in. -/
inductive WalkEnd where
  | deeper (w : Walk)
  | leaf (e : TlbEntry)
  | fail (e : Exc)
  deriving Repr

/-- An exception of a walk. -/
def walkExc (idx reason level va acc desc descDpa : Nat) : Exc :=
  { idx := idx, va := va, reason := reason, level := level, access := acc, desc := desc, descDpa := descDpa }

/-- The reason a table pointer is refused (R250), if it is. -/
def pointerReason (s : State) (p a : Nat) : Option Nat :=
  match place a with
  | .regs _ => some 0x30
  | .tileStore _ _ => some 0x31
  | .inboxB _ _ => some 0x31
  | .host _ _ => some 0x32
  | .cellar _ => if allowed s p a then none else some 0x33
  | .window _ _ => if allowed s p a then none else some 0x33
  | .reserved => some 0x33

/-- The reason a descriptor read at a level faults (R248), if it does. -/
def descReason (d level : Nat) : Option Nat :=
  if !bitOf d 0 then some 0x01
  else if bitOf d 7 || (!bitOf d 1 && (bits d 2 5 ≠ 0 || bits d 8 16 ≠ 0)) then some 0x02
  else if !bitOf d 1 && level = 3 then some 0x03
  else if bitOf d 1 && bits d 24 40 % 2 ^ (27 - 9 * level) ≠ 0 then some 0x04
  else none

/-- The access flags of a record (Table 8). -/
def accBits (k : AccessKind) : Nat :=
  match k with
  | .load => 0
  | .store => 1
  | .reduce => 2

/-- A walk that ends installs the table descriptors it read, but for those that an invalidation in flight would have removed (R257, R259). Only
tiles have a walk cache. -/
def installTables (s : State) (u : WalkUnit) (w : Walk) : State :=
  match u with
  | .tile t =>
    let keep := w.found.filter fun e => !w.invs.any fun i => InvOp.hitsWc { kind := i.1, va := i.2.1, ast := i.2.2 } e
    s.updTile t fun T => { T with mmu := keep.foldl (fun M e => { M with wc := Tab.set M.wc M.wcPtr e, wcPtr := (M.wcPtr + 1) % 16 }) T.mmu }
  | _ => s

/-- A descriptor read is checked and leads deeper, to a leaf, or fails. A walk whose read fails makes no entry (R251). -/
def walkRead (s : State) (u : WalkUnit) (p : Nat) (w : Walk) (ecc : Ecc) (busError : Bool) : WalkEnd × State :=
  let acc := accBits w.kind
  match pointerReason s p w.table with
  | some r => (.fail (walkExc 3 r w.level w.va acc 0 0), installTables s u w)
  | none =>
    let da := w.table + 8 * (w.va / 2 ^ (39 - 9 * w.level) % 512)
    let a := (canon s da).getD da
    let s := match u with
      | .tile t => if (s.tile t).ctl.getLsbD 2 then s
          else s.updTile t fun T => { T with mmu := { T.mmu with perfWread := satAdd T.mmu.perfWread 1 } }
      | _ => s
    if busError then (.fail (walkExc 2 0x20 w.level w.va acc 0 da), s)
    else
      let s := eccRead s a ecc
      if s.mem.poisoned a then (.fail (walkExc 2 0x21 w.level w.va acc 0 da), s)
      else
        let d := leNat (s.mem.read a 8)
        match descReason d w.level with
        | some r => (.fail (walkExc 0 r w.level w.va acc d da), installTables s u w)
        | none =>
          if bitOf d 1 then
            let z := 39 - 9 * w.level
            (.leaf { vaBase := w.va / 2 ^ z * 2 ^ z, sizeLog2 := z, leaf := bits d 0 8, ast := bits d 8 16, base := bits d 24 40 * 2 ^ 12 },
              installTables s u w)
          else
            let e : WcEntry := { level := w.level, tag := wcTag w.va w.level, desc := d }
            (.deeper { w with level := w.level + 1, table := bits d 24 40 * 2 ^ 12, found := w.found ++ [e] }, s)

/-- Where a walk begins: below the deepest walk-cache entry that matches, or at the root (R257). -/
def walkStart (s : State) (u : WalkUnit) (p va : Nat) (k : AccessKind) : Walk :=
  let root : Walk := { va := va, kind := k, level := 0, table := (s.parcel p).root }
  match u with
  | .tile t =>
    (s.tile t).mmu.wc.foldl (fun acc ke =>
      if ke.2.tag = wcTag va ke.2.level ∧ acc.level < ke.2.level + 1 then
        { acc with level := ke.2.level + 1, table := bits ke.2.desc 24 40 * 2 ^ 12 }
      else acc) root
  | _ => root

/-- Whether an invalidation that arrived during a walk would have removed the entry of its leaf (R259). -/
def Walk.bars (w : Walk) (e : TlbEntry) : Bool := w.invs.any fun i => InvOp.hits { kind := i.1, va := i.2.1, ast := i.2.2 } e

/-- Install a leaf, unless an invalidation in flight would have removed it (R259), or the TLB holds that very entry (R256). -/
def installLeaf (s : State) (u : WalkUnit) (w : Walk) (e : TlbEntry) : State :=
  if w.bars e || (unitTlb s u).lookup w.va = some e then s else updTlb s u fun T => T.fill (tlbSize u) e

/-- What a walk that has ended holds for an access. -/
def WalkRes.serve (r : WalkRes) : Except Exc TlbEntry :=
  match r.entry with
  | some e => .ok e
  | none => .error (walkExc r.idx r.reason r.level r.va (accBits r.kind) r.desc r.descDpa)

/-- The result that waits for an access of a unit, taken. -/
def takeResult (s : State) (u : WalkUnit) (va : Nat) (k : AccessKind) : Option (Except Exc TlbEntry × State) :=
  match (unitTlb s u).result with
  | some r => if r.va = va && r.kind = k then some (r.serve, updTlb s u fun T => { T with result := none }) else none
  | none => none

/-- Read descriptors until the walk ends: at most four. -/
def walkAll : Nat → State → WalkUnit → Nat → Walk → Except Exc TlbEntry × State
  | 0, s, _, _, w => (.error (walkExc 0 0x03 3 w.va (accBits w.kind) 0 0), s)
  | n + 1, s, u, p, w =>
    match walkRead s u p w .clean false with
    | (.deeper w', s) => walkAll n s u p w'
    | (.leaf e, s) => (.ok e, installLeaf s u w e)
    | (.fail e, s) => (.error e, s)

/-- The leaf's permissions and the fabric's refusal (R253, R213): the reason, if any. -/
def permReason (s : State) (p : Nat) (e : TlbEntry) (k : AccessKind) (dpa : Nat) : Option Nat :=
  let l := e.leaf
  let host := decide (2 ^ 51 ≤ dpa)
  let cellar := match place dpa with | .cellar _ => true | .window _ _ => true | _ => false
  if k = .load && !bitOf l 2 then some 0x10
  else if k = .store && !bitOf l 3 then some 0x11
  else if host && !bitOf l 6 then some 0x13
  else if k = .reduce && (!bitOf l 5 || !cellar) then some 0x12
  else if !allowed s p dpa then some 0x14
  else none

/-- A translated access: where it goes and whether its leaf is cacheable. -/
structure Xlat where
  dpa : Nat
  cacheable : Bool
  deriving DecidableEq, Repr

/-- The level a leaf was read at: where the walk stopped (R247, Table 12). -/
def TlbEntry.level (e : TlbEntry) : Nat := (39 - e.sizeLog2) / 9

/-- A fault of an access that no walk reads for: the level it records is a free value. -/
def noWalk (s : State) (idx reason va acc : Nat) : Exc × State :=
  let (n, s) := s.stamp
  (walkExc idx reason ((Config.freeWord n).toNat % 4) va acc 0 0, s)

/-- A walk ends without an entry in the TLB: what it found waits for the access it serves. -/
def keepResult (s : State) (u : WalkUnit) (w : Walk) (r : Except Exc TlbEntry) : State :=
  let x : WalkRes := match r with
    | .ok e => { va := w.va, kind := w.kind, entry := some e, late := !w.invs.isEmpty }
    | .error e => {
        va := w.va, kind := w.kind, idx := e.idx, reason := e.reason, level := e.level, desc := e.desc, descDpa := e.descDpa, late := !w.invs.isEmpty }
  updTlb s u fun T => { T with walk := none, result := some x }

/-- The walk that a unit has in flight ends. -/
def finishWalk (s : State) (u : WalkUnit) (p : Nat) (w : Walk) : State :=
  match walkAll 4 s u p w with
  | (.ok e, s) => if w.bars e then keepResult s u w (.ok e) else updTlb s u fun T => { T with walk := none }
  | (.error x, s) => keepResult s u w (.error x)

/-- Whether a walk or its result serves an access. -/
def Walk.serves (w : Walk) (va : Nat) (k : AccessKind) : Bool := w.va == va && w.kind == k

/-- A tile goes on to an access: it makes its accesses one after another, so a walk for another one ends, and what was left for another one is
left behind (log entry 26). -/
def leaveWalk (s : State) (t : Nat) (p : Nat) (mine : Walk → Bool) (left : WalkRes → Bool) : State :=
  let u := WalkUnit.tile (Fin.ofNat 256 t)
  let s := match (unitTlb s u).walk with
    | some w => if mine w then s else finishWalk s u p w
    | none => s
  updTlb s u fun T => { T with result := T.result.filter left }

/-- The entry that serves an access: of the TLB, what a walk left for it, or of a walk: the one in flight for it, or its own. A walk in flight
for another access of the unit ends first. -/
def findEntry (s : State) (u : WalkUnit) (p va : Nat) (k : AccessKind) : Except Exc TlbEntry × State :=
  let s := match u with
    | .tile t => leaveWalk s t p (·.serves va k) fun r => r.va == va && r.kind == k
    | _ => s
  match (unitTlb s u).lookup va with
  | some e => (.ok e, s)
  | none =>
    let s := match u with
      | .tile t => if (s.tile t).ctl.getLsbD 2 then s
          else s.updTile t fun T => { T with mmu := { T.mmu with perfMiss := satAdd T.mmu.perfMiss 1 } }
      | _ => s
    match takeResult s u va k, (unitTlb s u).walk with
    | some r, _ => r
    | none, none => walkAll 4 s u p (walkStart s u p va k)
    | none, some w =>
      if w.serves va k then
        let r := walkAll 4 s u p w
        (r.1, updTlb r.2 u fun T => { T with walk := none })
      else
        let s := finishWalk s u p w
        match (unitTlb s u).lookup va with
        | some e => (.ok e, s)
        | none => walkAll 4 s u p (walkStart s u p va k)

/-- Translate an access of a unit: range, TLB or walk, permissions, refusal (R252). -/
def translate (s : State) (u : WalkUnit) (va : Nat) (k : AccessKind) : Except Exc Xlat × State :=
  let acc := accBits k
  if 2 ^ 48 ≤ va then ((.error (noWalk s 0 0x05 va acc).1), (noWalk s 0 0x05 va acc).2)
  else
    match unitParcel s u with
    | none => ((.error (noWalk s 1 0x14 va acc).1), (noWalk s 1 0x14 va acc).2)
    | some p =>
      match findEntry s u p va k with
      | (.error e, s) => (.error e, s)
      | (.ok e, s) =>
        let dpa := e.base + va % 2 ^ e.sizeLog2
        match permReason s p e k dpa with
        | some r => (.error (walkExc 1 r e.level va acc 0 0), s)
        | none => (.ok { dpa := dpa, cacheable := bitOf e.leaf 4 }, s)

/-- The reason of an exception as the engines give statuses (Table 5 of chapter 04). -/
def Exc.status (e : Exc) : Nat := excStatus e.idx

-- ## WALK_DESCRIPTOR_READ

/-- One descriptor read of a unit's walk for an address: it starts the walk when none is in flight for it. The fault that a walk ends in, and
a leaf of which no entry may be made, wait for the access: it alone knows its element and whether it is a first-fault form. -/
def walkOnce (s : State) (u : WalkUnit) (va : Nat) (k : AccessKind) (ecc : Ecc) (busError : Bool) : State :=
  match unitParcel s u with
  | none => s
  | some p =>
    if 2 ^ 48 ≤ va then s
    else
      let s := match (unitTlb s u).walk with
        | some w => if w.serves va k then s else finishWalk s u p w
        | none => s
      let cur := (unitTlb s u).walk
      match cur, (unitTlb s u).lookup va with
      | none, some _ => s
      | _, _ =>
        let w := cur.getD (walkStart s u p va k)
        match walkRead s u p w ecc busError with
        | (.deeper w', s) => updTlb s u fun T => { T with walk := some w' }
        | (.leaf e, s) => if w.bars e then keepResult s u w (.ok e) else updTlb (installLeaf s u w e) u fun T => { T with walk := none }
        | (.fail e, s) => keepResult s u w (.error e)

/-- WALK_DESCRIPTOR_READ. -/
def execWalkDescriptorRead (u : WalkUnit) (va : Word) (k : AccessKind) (ecc : Ecc) (busError : Bool) (s : State) :
    Host.Outcome State Fault Refusal :=
  ok (live s fun s => walkOnce s u va.toNat k ecc busError)

-- ## TLB maintenance instructions (R138, R259)

/-- A local invalidation retires when it is complete. -/
def tlbiLocal (s : State) (t : Nat) (o : InvOp) : State := retire (invUnit s (.tile (Fin.ofNat 256 t)) o) t id

/-- A .P form retires once it has been issued to the parcel; it completes later (R259). The tile itself has no access outstanding when it
executes it, so no walk of its own is in flight. -/
def tlbiParcel (s : State) (t : Nat) (o : InvOp) : State :=
  match tileParcel s t with
  | none => retire s t id
  | some p =>
    let s := invParcel (leaveWalk s t p (fun _ => false) fun _ => false) p o
    retire (s.updParcel p fun P => { P with invals := P.invals ++ [{ tile := some t, byReg := false }] }) t id

/-- The address form's operands. -/
def invVa (s : State) (t : Nat) (rs1 rs2 : Reg) : InvOp :=
  { kind := 1, va := ((s.tile t).sGet rs1.toNat).toNat, ast := ((s.tile t).sGet rs2.toNat).toNat % 2 ^ 16 }
/-- The AST form's operand. -/
def invAst (s : State) (t : Nat) (rs1 : Reg) : InvOp := { kind := 2, ast := ((s.tile t).sGet rs1.toNat).toNat % 2 ^ 16 }

/-- TLBI.VA. -/
def execTlbiVa (t : TileId) (rs1 rs2 : Reg) (s : State) : Host.Outcome State Fault Refusal :=
  issue s t fun s => tlbiLocal s t (invVa s t rs1 rs2)
/-- TLBI.AST. -/
def execTlbiAst (t : TileId) (rs1 : Reg) (s : State) : Host.Outcome State Fault Refusal :=
  issue s t fun s => tlbiLocal s t (invAst s t rs1)
/-- TLBI.ALL. -/
def execTlbiAll (t : TileId) (s : State) : Host.Outcome State Fault Refusal :=
  issue s t fun s => tlbiLocal s t { kind := 3 }
/-- TLBI.VA.P. -/
def execTlbiVaP (t : TileId) (rs1 rs2 : Reg) (s : State) : Host.Outcome State Fault Refusal :=
  issue s t fun s => tlbiParcel s t (invVa s t rs1 rs2)
/-- TLBI.AST.P. -/
def execTlbiAstP (t : TileId) (rs1 : Reg) (s : State) : Host.Outcome State Fault Refusal :=
  issue s t fun s => tlbiParcel s t (invAst s t rs1)
/-- TLBI.ALL.P. -/
def execTlbiAllP (t : TileId) (s : State) : Host.Outcome State Fault Refusal :=
  issue s t fun s => tlbiParcel s t { kind := 3 }

/-- Whether every .P form of a tile has completed. -/
def syncDone (s : State) (t : Nat) : Bool :=
  match tileParcel s t with
  | none => true
  | some p => !(s.parcel p).invals.any fun i => i.tile == some t && !i.byReg

/-- TLBSYNC: it stalls until every .P form the tile issued has completed (R138). -/
def execTlbsync (t : TileId) (s : State) : Host.Outcome State Fault Refusal :=
  issue s t fun s => if syncDone s t then retire s t id else s

-- ## MMU_INV_CMD (R260, Table 13)

/-- A write of MMU_INV_CMD. -/
def mmuInv (s : State) (who : Who) (t : Nat) (parcelWide : Bool) (kind : Nat) : State :=
  if !isManager s who || !tilePresent s t then s
  else
    let M := (s.tile t).mmu
    if M.invBusy then s.updTile t fun T => { T with mmu := { T.mmu with invRefused := true } }
    else
      let o : InvOp := { kind := kind, va := M.invAddr.toNat, ast := M.invAst.toNat }
      match parcelWide && M.rootValid, tileParcel s t with
      | true, some p =>
        let s := invParcel s p o
        let s := s.updParcel p fun P => { P with invals := P.invals ++ [{ tile := some t, byReg := true }] }
        s.updTile t fun T => { T with mmu := { T.mmu with invBusy := true } }
      | _, q =>
        let u := WalkUnit.tile (Fin.ofNat 256 t)
        let s := invUnit (holdUnit s u o) u o
        match q with
        | none => s
        | some p =>
          if unitDrained s u then s
          else
            (s.updParcel p fun P => { P with invals := P.invals ++ [{ tile := some t, byReg := true, only := true }] }).updTile t fun T =>
              { T with mmu := { T.mmu with invBusy := true } }

/-- A write of MMU_INV_CMD without an operation: only a refusal shows (Table 11). -/
def mmuIdle (s : State) (who : Who) (t : Nat) : State :=
  if isManager s who && tilePresent s t && (s.tile t).mmu.invBusy then s.updTile t fun T => { T with mmu := { T.mmu with invRefused := true } }
  else s

/-- MMU_INV_CMD op 1. -/
def execMmuInvByAddress (who : Who) (t : TileId) (parcelWide : Bool) (s : State) : Host.Outcome State Fault Refusal :=
  ok (live s fun s => mmuInv s who t parcelWide 1)
/-- MMU_INV_CMD op 2. -/
def execMmuInvByAst (who : Who) (t : TileId) (parcelWide : Bool) (s : State) : Host.Outcome State Fault Refusal :=
  ok (live s fun s => mmuInv s who t parcelWide 2)
/-- MMU_INV_CMD op 3. -/
def execMmuInvAll (who : Who) (t : TileId) (parcelWide : Bool) (s : State) : Host.Outcome State Fault Refusal :=
  ok (live s fun s => mmuInv s who t parcelWide 3)

end Sys2Proof.Machine
end

