-- ==== Sys2Proof/Machine/Cache.lean ====
section
/-! DEFINITION. The tile cache (chapter 11): lookup, replacement, maintenance, the prefetcher, way disabling and the TCH rows. -/

namespace Sys2Proof.Machine

/-- Change a tile's cache. -/
def State.updCache (s : State) (t : Nat) (f : Cache → Cache) : State := s.updTile t fun T => { T with cache := f T.cache }

-- ## Sets, ways and the tree (R225, R228, R229)

/-- The set of a line. -/
def setOf (a : Nat) : Nat := a / 64 % 256

/-- The way that holds a line, if it is valid in the cache. -/
def Cache.way (C : Cache) (a : Nat) : Option Nat :=
  let l := a / 64 * 64
  findBelow 8 fun w => match Tab.find C.lines (8 * setOf l + w) with | some x => x.dpa == l | none => false

/-- Set or clear bit `i` of a number. -/
def putBit (n i : Nat) (b : Bool) : Nat := if bitOf n i = b then n else if b then n + 2 ^ i else n - 2 ^ i

/-- The tree bits after a touch of way `w`: every node on its path points to the other half (R228). -/
def touchTree (b w : Nat) : Nat :=
  let b := putBit b 0 (decide (w < 4))
  let b := putBit b (if w < 4 then 1 else 2) (decide (w % 4 < 2))
  putBit b (3 + w / 2) (w % 2 == 0)

/-- Touch a way. -/
def Cache.touch (C : Cache) (set w : Nat) : Cache := { C with tree := Tab.set C.tree set (touchTree (Tab.get 0 C.tree set) w) }

/-- Whether a way is enabled. -/
def Cache.wayOn (C : Cache) (w : Nat) : Bool := !C.waysOff.getLsbD w

/-- The way the tree leads to, past halves without an enabled way (R229). -/
def Cache.treeWay (C : Cache) (set : Nat) : Nat :=
  let b := Tab.get 0 C.tree set
  let anyIn := fun lo n => (List.range n).any fun i => C.wayOn (lo + i)
  let pick := fun (bit lo n : Nat) =>
    let half := if bitOf b bit then lo + n else lo
    if anyIn half n then half else if half = lo then lo + n else lo
  let h := pick 0 0 4
  let q := pick (if h = 0 then 1 else 2) h 2
  pick (3 + q / 2) q 1

/-- The way a fill takes (R229). -/
def Cache.fillWay (C : Cache) (set : Nat) : Nat :=
  match findBelow 8 fun w => C.wayOn w && (Tab.find C.lines (8 * set + w)).isNone with
  | some w => w
  | none => C.treeWay set

/-- Write a dirty line back; a poisoned one carries its poison (R221, R241). -/
def writeBack (s : State) (l : CacheLine) : State := if l.dirty then fabricWrite s l.dpa l.data l.poison else s

/-- Place a line: a dirty victim is written back first (R229). No older copy of the line stays in the side buffer or in flight to it (R126). -/
def cacheFill (s : State) (t : Nat) (l : CacheLine) : State :=
  let set := setOf l.dpa
  let w := (s.tile t).cache.fillWay set
  let s := match Tab.find (s.tile t).cache.lines (8 * set + w) with
    | some v => writeBack s v
    | none => s
  s.updCache t fun C => { C.touch set w with
    lines := Tab.set C.lines (8 * set + w) l, side := C.side.filter fun x => x.dpa != l.dpa, prefetches := C.prefetches.filter (· != l.dpa) }

/-- Read a line of memory. -/
def readLine (s : State) (l : Nat) : CacheLine :=
  let r := fabricRead s l 64
  { dpa := l, dirty := false, poison := r.2.1, data := r.1 }

-- ## Counters

/-- Count in a performance counter unless TIL_CTL.perf_freeze holds it. -/
def perf (T : Tile) (c : Word) : Word := if T.ctl.getLsbD 2 then c else satAdd c 1

/-- End a window of 2^20 accesses (R242). -/
def Cache.endWindow (C : Cache) : Cache := { C with accCnt := 0, ceWindow := [] }

/-- Count an access; at 2^20 the window ends (R242). -/
def countAccess (s : State) (t : Nat) : State :=
  s.updCache t fun C => if C.accCnt + 1 = 2 ^ 20 then C.endWindow else { C with accCnt := C.accCnt + 1 }

-- ## Side buffer and prefetcher (R239, R240)

/-- A live side line. -/
def Cache.sideLine (C : Cache) (l : Nat) : Option SideLine := C.side.find? fun x => x.dpa == l && decide (x.misses < 64)

/-- Put a prefetched line into the side buffer; when it is full the oldest is replaced. -/
def Cache.sideFill (C : Cache) (x : SideLine) : Cache :=
  let live := C.side.filter fun y => decide (y.misses < 64) && y.dpa != x.dpa
  { C with side := (if 16 ≤ live.length then live.drop 1 else live) ++ [x] }

/-- A prefetch returns its line. A line that is valid in the cache by then does not enter the side buffer (R126). -/
def sideArrive (s : State) (t l : Nat) : State :=
  let r := readLine s l
  s.updCache t fun C =>
    let D := if (C.way l).isSome then C else C.sideFill { dpa := l, poison := r.poison, data := r.data, misses := 0 }
    { D with prefetches := C.prefetches.filter (· != l) }

/-- Watch a demand miss of a cached load, and issue prefetches for a confirmed stream: the line is a whole number of strides beyond the last
miss, since the lines between may have hit the side buffer. -/
def Cache.watch (C : Cache) (l : Nat) : Cache :=
  if !C.pfEn then C
  else
    let page := l / 4096
    let k := l / 64
    match C.trackers.find? fun x => x.page == page with
    | none =>
      let rest := if 4 ≤ C.trackers.length then C.trackers.drop 1 else C.trackers
      { C with trackers := rest ++ [{ page := page, last := k, stride := 0, count := 1 }] }
    | some x =>
      let d : Int := (k : Int) - x.last
      let legal := d ≠ 0 && decide (d.natAbs ≤ 32)
      let y : Tracker :=
        if (x.count ≥ 2 && d = x.stride) || (x.count ≥ 3 && decide (0 < d * x.stride) && d.natAbs % x.stride.natAbs = 0) then
          { x with last := k, count := x.count + 1 }
        else if legal then { x with last := k, stride := d, count := 2 }
        else { x with last := k, stride := 0, count := 1 }
      let ahead := if 4 ≤ y.count then
          ((List.range 4).map fun (i : Nat) => (k : Int) + ((i : Int) + 1) * y.stride).filter fun z => 0 ≤ z && z.toNat * 64 / 4096 == page
        else []
      let new := (ahead.map fun z => z.toNat * 64).filter fun a =>
        (C.way a).isNone && (C.sideLine a).isNone && !C.prefetches.contains a
      { C with trackers := C.trackers.map fun z => if z.page = page then y else z, prefetches := C.prefetches ++ new }

/-- A demand miss: it is counted, ages the side lines, and is watched when it is a load's. -/
def demandMiss (s : State) (t l : Nat) (isLoad : Bool) : State :=
  s.updTile t fun T =>
    let C : Cache := { T.cache with perfMiss := perf T T.cache.perfMiss, side := T.cache.side.map fun x => { x with misses := min (x.misses + 1) 64 } }
    { T with cache := if isLoad then C.watch l else C }

-- ## Accesses (R226, R227)

/-- Bring the line of an address into the cache if the access uses the cache, and say whether it is served there. -/
def cacheLine (s : State) (t a : Nat) (cacheable isLoad : Bool) : Bool × State :=
  let l := a / 64 * 64
  let C := (s.tile t).cache
  let cellar := match place a with | .cellar _ => true | .window _ _ => true | _ => false
  if !C.en || !cellar then (false, s)
  else
    let s := countAccess s t
    match C.way l with
    | some w => (true, s.updTile t fun T => { T with cache := { T.cache.touch (setOf l) w with perfHit := perf T T.cache.perfHit } })
    | none =>
      match C.sideLine l with
      | some x =>
        let s := s.updTile t fun T => { T with cache := { T.cache with
          perfSide := perf T T.cache.perfSide, side := T.cache.side.filter fun y => y.dpa != l } }
        (true, cacheFill s t { dpa := l, dirty := false, poison := x.poison, data := x.data })
      | none =>
        if !cacheable then (false, s)
        else
          let s := demandMiss s t l isLoad
          (true, cacheFill s t (readLine s l))

/-- The cached line of an address. -/
def Cache.lineAt (C : Cache) (a : Nat) : Option CacheLine := (C.way a).bind fun w => Tab.find C.lines (8 * setOf a + w)

/-- Read `n` bytes at a DPA for a tile: bytes, poison and the state after. `k` is the number that the instruction's reads of the host have. -/
def tileRead (k : Nat) (s : State) (t a n : Nat) (cacheable : Bool) : List Byte × Bool × State :=
  match cacheLine s t a cacheable true with
  | (true, s) =>
    match (s.tile t).cache.lineAt a with
    | some l => (slice l.data (a % 64) n, l.poison, s)
    | none => fabricReadAt k s a n
  | (false, s) => fabricReadAt k s a n

/-- Write bytes at a DPA for a tile. `whole`: with them the instruction has written all 64 bytes of the line, so that nothing of what the
line held remains and its poison is cleared (R221, R226). -/
def tileWrite (s : State) (t a : Nat) (bs : List Byte) (cacheable whole : Bool) : State :=
  match cacheLine s t a cacheable false with
  | (true, s) =>
    s.updCache t fun C =>
      match C.way a with
      | some w =>
        { C with lines := Tab.upd { dpa := a / 64 * 64, dirty := false, poison := false, data := zeros 64 } C.lines (8 * setOf a + w) fun l =>
            { l with dirty := true, poison := l.poison && !whole, data := l.data.take (a % 64) ++ bs ++ l.data.drop (a % 64 + bs.length) } }
      | none => C
  | (false, s) => noteHost (fabricWrite s a bs false) (tileParcel s t) a

-- ## Maintenance (R230, R234 to R237)

/-- Write back the lines a test chooses; with `drop` they leave the cache and the side buffer. -/
def cleanLines (s : State) (t : Nat) (f : Nat → Bool) (drop : Bool) : State :=
  let C := (s.tile t).cache
  let s := if C.clean then C.lines.foldl (fun s kl => if f kl.2.dpa then writeBack s kl.2 else s) s else s
  s.updCache t fun C => { C with
    lines := if drop then C.lines.filter fun kl => !f kl.2.dpa
      else C.lines.map fun kl => if f kl.2.dpa then (kl.1, { kl.2 with dirty := false }) else kl
    side := if drop then C.side.filter fun x => !f x.dpa else C.side }

/-- Drop the lines a test chooses, discarding dirty data. -/
def dropLines (s : State) (t : Nat) (f : Nat → Bool) : State :=
  s.updCache t fun C => { C with lines := C.lines.filter fun kl => !f kl.2.dpa, side := C.side.filter fun x => !f x.dpa }

/-- Kinds of maintenance. -/
inductive DcOp where
  | clean | inv | cinv
  deriving DecidableEq, Repr

/-- Let prefetches in flight for covered lines arrive first (R237). -/
def settlePrefetch (s : State) (t : Nat) (f : Nat → Bool) : State :=
  ((s.tile t).cache.prefetches.filter f).foldl (fun s l => sideArrive s t l) s

/-- Apply an operation to the lines a test chooses. -/
def dcLines (s : State) (t : Nat) (o : DcOp) (f : Nat → Bool) : State :=
  let s := settlePrefetch s t f
  match o with
  | .clean => cleanLines s t f false
  | .inv => dropLines s t f
  | .cinv => cleanLines s t f true

/-- An all form; an invalidate-all clears the tree and sets clean (R228, R230, R236). -/
def dcAll (s : State) (t : Nat) (o : DcOp) : State :=
  let en := (s.tile t).cache.en
  match o with
  | .clean => if en then dcLines s t .clean fun _ => true else s
  | .inv => (dcLines s t .inv fun _ => true).updCache t fun C => { C with tree := [], clean := true }
  | .cinv => (dcLines s t .cinv fun _ => true).updCache t fun C => { C with tree := [], clean := true }

/-- The DPA that an address translates to, without regard to permissions; none where the translation faults (R235). -/
def xlateAny (s : State) (u : WalkUnit) (va : Nat) : Option Nat × State :=
  if 2 ^ 48 ≤ va then (none, s)
  else
    match unitParcel s u with
    | none => (none, s)
    | some p =>
      match findEntry s u p va .load with
      | (.ok e, s) => (some (e.base + va % 2 ^ e.sizeLog2), s)
      | (.error _, s) => (none, s)

/-- An address form over the bytes `[va, va + len)`, page by page (R235, R236). -/
def dcRange (s : State) (t : TileId) (o : DcOp) (va len : Nat) : State :=
  if !(s.tile t).cache.en || len = 0 then s
  else
    let last := va + len - 1
    let pages := (List.range (last / 4096 - va / 4096 + 1)).map (va / 4096 + ·)
    pages.foldl (fun s pg =>
      let a := max va (pg * 4096)
      match xlateAny s (.tile t) (a % 2 ^ 64) with
      | (none, s) => s
      | (some d, s) =>
        let hi := d - a % 4096 + (if pg = last / 4096 then last % 4096 else 4095)
        dcLines s t o fun l => decide (d / 64 * 64 ≤ l) && decide (l ≤ hi)) s

/-- Operand s[r] as a number. -/
def sNat (s : State) (t : TileId) (r : Reg) : Nat := ((s.tile t).sGet r.toNat).toNat

/-- A .VA form of a tile. -/
def dcVa (t : TileId) (o : DcOp) (rs1 : Reg) (s : State) : Host.Outcome State Fault Refusal :=
  issue s t fun s => retire (dcRange s t o (sNat s t rs1) 1) t id
/-- A .RANGE form of a tile. -/
def dcRng (t : TileId) (o : DcOp) (rs1 rs2 : Reg) (s : State) : Host.Outcome State Fault Refusal :=
  issue s t fun s => retire (dcRange s t o (sNat s t rs1) (sNat s t rs2 % 2 ^ 32)) t id

/-- DC.CLEAN.VA. -/
def execDcCleanVa (t : TileId) (rs1 : Reg) (s : State) : Host.Outcome State Fault Refusal := dcVa t .clean rs1 s
/-- DC.INV.VA. -/
def execDcInvVa (t : TileId) (rs1 : Reg) (s : State) : Host.Outcome State Fault Refusal := dcVa t .inv rs1 s
/-- DC.CINV.VA. -/
def execDcCinvVa (t : TileId) (rs1 : Reg) (s : State) : Host.Outcome State Fault Refusal := dcVa t .cinv rs1 s
/-- DC.CLEAN.RANGE. -/
def execDcCleanRange (t : TileId) (rs1 rs2 : Reg) (s : State) : Host.Outcome State Fault Refusal := dcRng t .clean rs1 rs2 s
/-- DC.INV.RANGE. -/
def execDcInvRange (t : TileId) (rs1 rs2 : Reg) (s : State) : Host.Outcome State Fault Refusal := dcRng t .inv rs1 rs2 s
/-- DC.CINV.RANGE. -/
def execDcCinvRange (t : TileId) (rs1 rs2 : Reg) (s : State) : Host.Outcome State Fault Refusal := dcRng t .cinv rs1 rs2 s
/-- DC.CLEAN.ALL. -/
def execDcCleanAll (t : TileId) (s : State) : Host.Outcome State Fault Refusal :=
  issue s t fun s => retire (dcAll s t .clean) t id
/-- DC.INV.ALL. -/
def execDcInvAll (t : TileId) (s : State) : Host.Outcome State Fault Refusal :=
  issue s t fun s => retire (dcAll s t .inv) t id
/-- DC.CINV.ALL. -/
def execDcCinvAll (t : TileId) (s : State) : Host.Outcome State Fault Refusal :=
  issue s t fun s => retire (dcAll s t .cinv) t id

-- ## Fill rows

/-- Whether a tile may cache the line at an address. -/
def mayCache (s : State) (t a : Nat) : Bool :=
  (match place a with | .cellar _ => true | .window _ _ => true | _ => false) &&
  match tileParcel s t with | some p => allowed s p a | none => false

/-- CACHE_LINE_FILL: a demand fill is placed. A line that is already valid stays. -/
def execCacheLineFill (t : TileId) (dpa : Word) (s : State) : Host.Outcome State Fault Refusal :=
  ok (live s fun s =>
    let l := dpa.toNat / 64 * 64
    if (s.tile t).cache.en && mayCache s t l && ((s.tile t).cache.way l).isNone then cacheFill s t (readLine s l) else s)

/-- PREFETCH_FILL: the oldest prefetch in flight fills the side buffer. -/
def execPrefetchFill (t : TileId) (s : State) : Host.Outcome State Fault Refusal :=
  ok (live s fun s =>
    match (s.tile t).cache.prefetches with
    | [] => s
    | l :: _ => sideArrive s t l)

/-- SIDE_LINE_EXPIRE: side lines that have seen 64 demand misses are dropped. -/
def execSideLineExpire (t : TileId) (s : State) : Host.Outcome State Fault Refusal :=
  ok (live s fun s => s.updCache t fun C => { C with side := C.side.filter fun x => decide (x.misses < 64) })

-- ## Way disabling (R242, R243)

/-- CE_WINDOW_END. -/
def execCeWindowEnd (t : TileId) (s : State) : Host.Outcome State Fault Refusal :=
  ok (live s fun s => s.updCache t Cache.endWindow)

/-- Disabled ways. -/
def Cache.offCount (C : Cache) : Nat := popcount 8 C.waysOff.toNat

/-- Accesses to a way find errors in its lines (R241): `n` corrected ones are counted, and the lines of the sets in `bad` become poisoned. -/
def Cache.errors (C : Cache) (w n : Nat) (bad : List Nat) : Cache :=
  { C with
    ceWindow := Tab.upd 0 C.ceWindow w fun k => min (k + n) 16
    ceTotal := Tab.upd 0 C.ceTotal w fun k => min (k + n) (2 ^ 32 - 1)
    lines := C.lines.map fun kl => if kl.1 % 8 = w && bad.contains (kl.1 / 8) then (kl.1, { kl.2 with poison := true }) else kl }

/-- A way has reached 16 corrected errors: it is written back, its lines dropped, and it is off. At the fourth, the cache fails and the tile
stops, whatever it waits for in an EXECUTE. -/
def wayDisable (s : State) (t w : Nat) : State :=
  let C := (s.tile t).cache
  if C.waysOff.getLsbD w then s
  else
    let s := C.lines.foldl (fun s kl => if kl.1 % 8 = w then writeBack s kl.2 else s) s
    let s := s.updCache t fun C => { C with
      lines := C.lines.filter fun kl => kl.1 % 8 != w, waysOff := C.waysOff ||| BitVec.ofNat 8 (2 ^ w), wayOff := true }
    if (s.tile t).cache.offCount < 4 then raiseTile s t 1
    else
      let s := (s.tile t).cache.lines.foldl (fun s kl => writeBack s kl.2) s
      let s := s.updCache t fun C => { C with en := false, clean := false, failed := true, lines := [], side := [], prefetches := [] }
      let s := raiseTile s t 1
      if [TileRun.running, .fdone, .parked].contains (s.tile t).run then
        stopFree s t { status := 0x88, source := 2, reason := 0, sub := ((roleOf s t).map (·.stage.stage)).getD 0, address := 0 }
      else s

/-- ECC errors of a way's lines: they are counted and marked, and at 16 corrected errors in a window the way is disabled. -/
def wayErrors (s : State) (t w n : Nat) (bad : List Nat) : State :=
  if (s.tile t).cache.waysOff.getLsbD w then s
  else
    let s := s.updCache t fun C => C.errors w n bad
    if 16 ≤ Tab.get 0 (s.tile t).cache.ceWindow w then wayDisable s t w else s

/-- CACHE_WAY_DISABLE. -/
def execCacheWayDisable (t : TileId) (w : WayErrors) (s : State) : Host.Outcome State Fault Refusal :=
  ok (live s fun s => if tilePresent s t then wayErrors s t w.way.val w.corrected.toNat (w.bad.map (·.val)) else s)

-- ## TCH_CTL and TCH_MAINT (R230 to R233)

/-- Whether a parcel has an outstanding EXECUTE or LOAD_IMAGE. -/
def parcelBusy (s : State) (p : Nat) : Bool := s.cmds.any fun c => c.parcel == some p && (c.opcode == 0x10 || c.opcode == 0x12)
/-- Whether a tile's parcel has one. -/
def tileBusy (s : State) (t : Nat) : Bool := match tileParcel s t with | some p => parcelBusy s p | none => false

/-- A write of TCH_CTL. -/
def tchCtl (s : State) (t : Nat) (v : Word) : State :=
  let C := (s.tile t).cache
  if tileBusy s t || C.maintBusy then s.updCache t fun C => { C with busyRefused := true }
  else
    let s := s.updCache t fun C => { C with pfEn := fbit v 1 }
    if fbit v 0 then
      if C.en then s
      else if C.failed || !C.clean then s.updCache t fun C => { C with enableRefused := true }
      else s.updCache t fun C => { C with en := true }
    else if C.en then
      (cleanLines s t (fun _ => true) false).updCache t fun C => { C with maintBusy := true, disabling := true }
    else s

/-- TCH_CTL_WRITE. -/
def execTchCtlWrite (who : Who) (t : TileId) (v : Word) (s : State) : Host.Outcome State Fault Refusal :=
  ok (live s fun s => if isManager s who && tilePresent s t then tchCtl s t v else s)

/-- TCH_DISABLE_DONE: the write-back is complete, that of lines stored to since it began with it; the cache is disabled and no longer clean
(R231). -/
def execTchDisableDone (t : TileId) (s : State) : Host.Outcome State Fault Refusal :=
  ok (live s fun s =>
    if (s.tile t).cache.disabling then
      (cleanLines s t (fun _ => true) false).updCache t fun C => { C with
        en := false, clean := false, maintBusy := false, disabling := false, lines := [], side := [], prefetches := [], trackers := [] }
    else s)

/-- A write of TCH_MAINT with an operation. -/
def tchMaint (s : State) (who : Who) (t : Nat) (o : DcOp) (n : Nat) : State :=
  if !(isManager s who && tilePresent s t) then s
  else if tileBusy s t || (s.tile t).cache.maintBusy then s.updCache t fun C => { C with busyRefused := true }
  else
    let s := match o with
      | .clean => if (s.tile t).cache.en then dcLines s t .clean fun _ => true else s
      | o => (dcLines s t o fun _ => true).updCache t fun C => { C with tree := [] }
    s.updCache t fun C => { C with maintBusy := true, maintOp := n }

/-- A write of TCH_MAINT without an operation: only a refusal shows (R232). -/
def tchIdle (s : State) (who : Who) (t : Nat) : State :=
  if isManager s who && tilePresent s t && (tileBusy s t || (s.tile t).cache.maintBusy) then s.updCache t fun C => { C with busyRefused := true }
  else s

/-- TCH_MAINT op 1. -/
def execTchMaintCleanAll (who : Who) (t : TileId) (s : State) : Host.Outcome State Fault Refusal :=
  ok (live s fun s => tchMaint s who t .clean 1)
/-- TCH_MAINT op 2. -/
def execTchMaintInvalidateAll (who : Who) (t : TileId) (s : State) : Host.Outcome State Fault Refusal :=
  ok (live s fun s => tchMaint s who t .inv 2)
/-- TCH_MAINT op 3. -/
def execTchMaintCleanInvalidate (who : Who) (t : TileId) (s : State) : Host.Outcome State Fault Refusal :=
  ok (live s fun s => tchMaint s who t .cinv 3)

/-- TCH_MAINT_DONE: the operation completes; an invalidate-all sets clean (R230). -/
def execTchMaintDone (t : TileId) (s : State) : Host.Outcome State Fault Refusal :=
  ok (live s fun s =>
    if (s.tile t).cache.maintOp ≠ 0 then
      s.updCache t fun C => { C with maintBusy := C.disabling, clean := C.clean || C.maintOp != 1, maintOp := 0 }
    else s)

/-- The invalidation at EXECUTE start (R233). -/
def cacheAtStart (s : State) (t : Nat) : State :=
  s.updCache t fun C => { C with lines := [], side := [], prefetches := [], trackers := [], tree := [], clean := true }

/-- The cache after a reset of its tile: disabled, not clean; the disabled ways and failed stay (R230, R244). -/
def Cache.afterReset (C : Cache) : Cache :=
  { waysOff := C.waysOff, failed := C.failed, ceTotal := C.ceTotal, ceWindow := C.ceWindow, accCnt := C.accCnt, wayOff := C.wayOff, trim := C.trim,
    perfHit := C.perfHit, perfMiss := C.perfMiss, perfSide := C.perfSide, pfEn := C.pfEn, enableRefused := C.enableRefused, busyRefused := C.busyRefused }

end Sys2Proof.Machine
end

