-- ==== Sys2Proof/Machine/Crc.lean ====
section
/-! DEFINITION. The CRC32C of R121 and the key hash of R159. -/

namespace Sys2Proof.Machine

/-- One bit of a reflected CRC with a polynomial. -/
def crcBit (poly c : Nat) : Nat := if c % 2 = 1 then (c / 2) ^^^ poly else c / 2

/-- One byte of a reflected CRC. -/
def crcByte (poly c b : Nat) : Nat :=
  let c := c ^^^ b
  crcBit poly (crcBit poly (crcBit poly (crcBit poly (crcBit poly (crcBit poly (crcBit poly (crcBit poly c)))))))

/-- A reflected CRC over bytes, with no inversion. -/
def crcOver (poly c : Nat) (bs : List Byte) : Nat := bs.foldl (fun c b => crcByte poly c b.toNat) c

/-- CRC32C(c, bytes) (R121). -/
def crc32c (c : Nat) (bs : List Byte) : Nat := crcOver 0x82F63B78 (c % 2 ^ 32) bs

/-- The key hash of a key under a seed (R159). -/
def keyHash (seed : Nat) (k : List Byte) : Nat :=
  let c1 := crc32c seed k
  let c2 := crc32c (seed ^^^ 0x9E3779B9) k
  let h := c1 * 2 ^ 32 + c2
  let h := h ^^^ (h / 2 ^ 29)
  let h := h * 0xD1B54A32D192ED03 % 2 ^ 64
  h ^^^ (h / 2 ^ 32)

end Sys2Proof.Machine
end

