-- ==== Sys2Proof/Machine/VMem.lean ====
section
/-! DEFINITION. Element accesses of tile code, and the vector instructions that read or write memory or the tile store (chapter 05, R122 to
R131). -/

namespace Sys2Proof.Machine

-- ## One access

/-- A misaligned access (exception 4). -/
def misaligned (va : Nat) : Exc := { idx := 4, va := va }
/-- Poisoned data (exception 6). -/
def poisonExc (va : Nat) : Exc := { idx := 6, va := va }
/-- A tile-store bounds violation (exception 7). -/
def boundsExc (off : Nat) : Exc := { idx := 7, va := off }

/-- Load `n` bytes by a memory form: alignment, translation, permission, refusal, poison (R252). A read that ends in an error completion (R85,
R457) raises none of the exceptions of Table 5 of chapter 04: it gives free values (DESIGN CHOICE, log 23). `k` is the number that the
instruction's reads of the host have. -/
def loadMem (k : Nat) (s : State) (t : TileId) (va n : Nat) : Except Exc Nat × State :=
  if va % n ≠ 0 then (.error (misaligned va), s)
  else
    match translate s (.tile t) va .load with
    | (.error e, s) => (.error e, s)
    | (.ok x, s) =>
      match tileRead k s t x.dpa n x.cacheable with
      | (bs, bad, s) => if bad then (.error (poisonExc va), s) else (.ok (leNat bs), s)

/-- Whether two byte ranges meet. -/
def overlaps (a n b m : Nat) : Bool := decide (a < b + m) && decide (b < a + n)

/-- Bytes of a value element of a decode command. -/
def DecCmd.outW (c : DecCmd) : Nat := 2 ^ bits (fieldAt c.bytes 0x0F 1) 0 2
/-- Bytes of a dictionary entry. -/
def DecCmd.dictW (c : DecCmd) : Nat := 2 ^ bits (fieldAt c.bytes 0x0F 1) 2 2
/-- A field of a decode command's block. -/
def DecCmd.f (c : DecCmd) (off len : Nat) : Nat := fieldAt c.bytes off len

/-- The regions of a decode command (Table 2 of chapter 06): offset and bytes; whether it is an output. -/
def DecCmd.regions (c : DecCmd) : List (Nat × Nat × Bool) :=
  [(c.f 0x00 4, c.f 0x04 4, false), (c.off, 128, false), (c.f 0x10 4, c.f 0x14 4, true), (c.f 0x1C 4, ceilDiv (c.f 0x24 4) 8, true),
   (c.f 0x20 4, ceilDiv (c.f 0x24 4) 8, true), (c.f 0x28 4, c.f 0x2C 4 * c.dictW, false), (c.f 0x30 4, ceilDiv (c.f 0x34 4) 8, false)]

/-- Whether a store meets the input, dictionary, code set or an output of a command: a region but the block itself. -/
def DecCmd.meets (c : DecCmd) (off n : Nat) : Bool :=
  (c.regions.eraseIdx 1).any fun r => r.2.1 != 0 && overlaps off n r.1 r.2.1

/-- Leave the outputs and the record of a command undefined, as far as they lie in the store (R143). -/
def forgetDec (s : State) (t : Nat) (c : DecCmd) : State :=
  let outs := ((c.regions.filter (·.2.2)).map fun r => (r.1, min (r.1 + r.2.1) 0x100000)) ++ [(c.off + 0x60, c.off + 0x80)]
  (outs.filter fun r => decide (r.1 < r.2)).foldl (fun s r => s.forget (tsBase t + r.1) (tsBase t + r.2)) s

/-- Tile code has stored into its tile store: the queued and running decode commands whose regions it met are marked, and their outputs and
records are undefined (R143). -/
def noteDecode (s : State) (t off n : Nat) : State :=
  let T := s.tile t
  let hit := fun (c : DecCmd) => c.meets off n
  let mark := fun (c : DecCmd) => if hit c then { c with touched := true } else c
  let cmds := (T.decQ ++ (T.decRun.map (·.cmd)).toList).filter hit
  if cmds.isEmpty then s
  else
    cmds.foldl (fun s c => forgetDec s t c)
      (s.updTile t fun T => { T with decQ := T.decQ.map mark, decRun := T.decRun.map fun r => { r with cmd := mark r.cmd } })

/-- The tile is about to store into its tile store: the queued sends whose source it meets keep the bytes that stood there, which they may yet
transmit (Caution of R88). -/
def noteSends (s : State) (t off n : Nat) : State :=
  let hit := fun (x : Send) => overlaps off n x.src x.len
  let was := (List.range n).map fun i => (off + i, s.mem.byte (tsBase t + off + i), s.mem.poisoned (tsBase t + off + i))
  if (s.tile t).sendQ.any hit then
    s.updTile t fun T => { T with sendQ := T.sendQ.map fun x => if hit x then { x with old := x.old ++ was } else x }
  else s

/-- The tile writes into its own store: its sends keep what stood there. -/
def State.tilePut (s : State) (t off : Nat) (bs : List Byte) : State := (noteSends s t off bs.length).tsWrite t off bs

/-- Tile code writes into its own store: its sends and its decode commands are told. -/
def State.codePut (s : State) (t off : Nat) (bs : List Byte) : State := noteDecode (s.tilePut t off bs) t off bs.length

/-- Store `n` bytes by a memory form. `whole`: the instruction writes the line whole. A store that ends in an error completion is discarded
(R85). One that reaches the tile's own store meets its sends and its decode commands as a tile-store store does; one that reaches another tile's
store does not meet that tile's (DESIGN CHOICE, log entry 27: the Caution of R143 says "tile code" and not whose). -/
def storeMem (s : State) (t : TileId) (va n x : Nat) (whole : Bool) : Option Exc × State :=
  if va % n ≠ 0 then (some (misaligned va), s)
  else
    match translate s (.tile t) va .store with
    | (.error e, s) => (some e, s)
    | (.ok a, s) =>
      let put := fun (s : State) => tileWrite s t a.dpa (leBytes n x) a.cacheable whole
      match canon s a.dpa with
      | some c =>
        let off := c - tsBase t
        (none, if tsBase t ≤ c && c < tsBase t + 0x100000 then noteDecode (put (noteSends s t off n)) t off n else put s)
      | none => (none, put s)

/-- A tile-store load breaks R84: beyond the store, or in the current half B. -/
def tsLoadBad (s : State) (t off n : Nat) : Bool :=
  decide (0x100000 < off + n) || ((inboxOf s t).2 != 0 && overlaps off n (halfB s t) (inboxOf s t).2)

/-- A tile-store store breaks R84: beyond the store, or in either inbox half. -/
def tsStoreBad (s : State) (t off n : Nat) : Bool :=
  decide (0x100000 < off + n) || ((inboxOf s t).2 != 0 && overlaps off n (inboxOf s t).1 (2 * (inboxOf s t).2))

/-- Load `n` bytes by a tile-store form. The manual does not order exceptions 4 and 7 of one access; alignment comes first, as R252 has it for
translated accesses (DESIGN CHOICE, log 23). -/
def loadTs (s : State) (t off n : Nat) : Except Exc Nat :=
  if off % n ≠ 0 then .error (misaligned off)
  else if tsLoadBad s t off n then .error (boundsExc off)
  else
    match s.tsPoison t off n with
    | some a => .error (poisonExc a)
    | none => .ok (s.tsNat t off n)

/-- Store `n` bytes by a tile-store form; alignment before bounds, as in `loadTs`. -/
def storeTs (s : State) (t off n x : Nat) : Option Exc × State :=
  if off % n ≠ 0 then (some (misaligned off), s)
  else if tsStoreBad s t off n then (some (boundsExc off), s)
  else (none, s.codePut t off (leBytes n x))

-- ## Elements in ascending order (R123, R124)

/-- Run a body on each element; the first that meets an exception ends the instruction, or shortens it in a first-fault form. -/
def elemLoop (t : TileId) (ff : Bool) (first : Nat) (body : State → Nat → Option Exc × State) : List Nat → State → State
  | [], s => retireV s t id
  | i :: rest, s =>
    match body s i with
    | (none, s) => elemLoop t ff first body rest s
    | (some e, s) =>
      if ff && i != first then retireV s t fun T => { T with vl := i }
      else takeExc s t { e with access := e.access + (if e.idx ≤ 3 then 4 + 8 * b2n ff else 0) } (some i)

/-- Run a vector instruction over its active elements. -/
def overActive (s : State) (t : TileId) (pred : PReg) (ff : Bool) (body : State → Nat → Option Exc × State) : State :=
  let l := (s.tile t).active pred.toNat
  elemLoop t ff (l.headD 0) body l s

/-- s[r] of a tile as a number. -/
def sVal (s : State) (t : TileId) (r : Reg) : Nat := ((s.tile t).sGet r.toNat).toNat

/-- Load element `i` of v[rd] from an address. Elements of one instruction read the same value where they read the same bytes (R125). -/
def loadElem (k : Nat) (t : TileId) (ts : Bool) (rd : Reg) (addr : Nat → Nat) (s : State) (i : Nat) : Option Exc × State :=
  let n := (s.tile t).ew / 8
  let r := if ts then (loadTs s t (addr i) n, s) else loadMem k s t (addr i) n
  match r with
  | (.ok x, s) => (none, s.updTile t fun T => T.setV rd.toNat i x)
  | (.error e, s) => (some e, s)

/-- Store element `i` of v[rd] to an address. -/
def storeElem (t : TileId) (ts : Bool) (rd : Reg) (addr : Nat → Nat) (whole : Nat → Bool) (s : State) (i : Nat) : Option Exc × State :=
  let n := (s.tile t).ew / 8
  let x := (s.tile t).elem rd.toNat i
  if ts then storeTs s t (addr i) n x else storeMem s t (addr i) n x (whole i)

/-- Address of element `i` of a unit-stride form (Table 8). -/
def unitAddr (s : State) (t : TileId) (rs1 : Reg) (i : Nat) : Nat := (sVal s t rs1 + i * ((s.tile t).ew / 8)) % 2 ^ 64
/-- Address of element `i` of a strided form. -/
def strideAddr (s : State) (t : TileId) (rs1 rs2 : Reg) (i : Nat) : Nat := (sVal s t rs1 + i * sVal s t rs2) % 2 ^ 64
/-- Index `i` of v[rs2], read at a width, zero-extended. -/
def indexAt (s : State) (t : TileId) (rs2 : Reg) (iw : Size) (i : Nat) : Nat :=
  elemOf (8 * 2 ^ iw.toNat) ((s.tile t).vGet rs2.toNat).toNat i
/-- Address of element `i` of an indexed form. -/
def indexAddr (s : State) (t : TileId) (rs1 rs2 : Reg) (iw : Size) (sc : Bool) (i : Nat) : Nat :=
  (sVal s t rs1 + indexAt s t rs2 iw i * (if sc then (s.tile t).ew / 8 else 1)) % 2 ^ 64

/-- Whether VL × index width exceeds 4,096 bits (R106). -/
def indexTooWide (s : State) (t : TileId) (iw : Size) : Bool := decide (4096 < (s.tile t).vl * (8 * 2 ^ iw.toNat))

/-- Whether the elements up to `i` write every byte of the line that element `i` lies in (R226). -/
def wholeLine (s : State) (t : TileId) (pred : PReg) (addr : Nat → Nat) (i : Nat) : Bool :=
  let n := (s.tile t).ew / 8
  let done := ((s.tile t).active pred.toNat).filter fun j => decide (j ≤ i) && addr j / 64 == addr i / 64
  (List.range (64 / n)).all fun k => done.any fun j => addr j % 64 == k * n

/-- A vector store. -/
def storeActive (s : State) (t : TileId) (ts : Bool) (rd : Reg) (pred : PReg) (addr : Nat → Nat) : State :=
  overActive s t pred false (storeElem t ts rd addr (wholeLine s t pred addr))

/-- VLD. -/
def execVld (t : TileId) (ts ff : Bool) (rd rs1 : Reg) (pred : PReg) (s : State) : Host.Outcome State Fault Refusal :=
  issue s t fun s => overActive s t pred ff (loadElem s.freeCtr t ts rd (unitAddr s t rs1))
/-- VST. -/
def execVst (t : TileId) (ts : Bool) (rd rs1 : Reg) (pred : PReg) (s : State) : Host.Outcome State Fault Refusal :=
  issue s t fun s => storeActive s t ts rd pred (unitAddr s t rs1)
/-- VLDS. -/
def execVlds (t : TileId) (ts ff : Bool) (rd rs1 rs2 : Reg) (pred : PReg) (s : State) : Host.Outcome State Fault Refusal :=
  issue s t fun s => overActive s t pred ff (loadElem s.freeCtr t ts rd (strideAddr s t rs1 rs2))
/-- VSTS. -/
def execVsts (t : TileId) (ts : Bool) (rd rs1 rs2 : Reg) (pred : PReg) (s : State) : Host.Outcome State Fault Refusal :=
  issue s t fun s => storeActive s t ts rd pred (strideAddr s t rs1 rs2)
/-- VGATHER. -/
def execVgather (t : TileId) (ts ff : Bool) (iw : Size) (sc : Bool) (rd rs1 rs2 : Reg) (pred : PReg) (s : State) :
    Host.Outcome State Fault Refusal :=
  issue s t fun s =>
    if indexTooWide s t iw then takeIllegal s t
    else overActive s t pred ff (loadElem s.freeCtr t ts rd (indexAddr s t rs1 rs2 iw sc))
/-- VSCATTER. -/
def execVscatter (t : TileId) (ts : Bool) (iw : Size) (sc : Bool) (rd rs1 rs2 : Reg) (pred : PReg) (s : State) :
    Host.Outcome State Fault Refusal :=
  issue s t fun s =>
    if indexTooWide s t iw then takeIllegal s t
    else storeActive s t ts rd pred (indexAddr s t rs1 rs2 iw sc)

-- ## Hash, unpack, dictionary (R127 to R129)

/-- The parameters of a hash slot of a tile: key length and seed, 0 and 0 where no entry names it (R67). -/
def hashSlot (s : State) (t slot : Nat) : Nat × Nat :=
  match roleOf s t with
  | none => (0, 0)
  | some r =>
    match r.parcel.image.hashes.find? fun h => h.slot == slot && bitOf h.tiles r.v with
    | some h => (h.keyLen, h.seed)
    | none => (0, 0)

/-- VHASH. -/
def execVhash (t : TileId) (slot : BitVec 3) (rd rs1 : Reg) (pred : PReg) (s : State) : Host.Outcome State Fault Refusal :=
  issue s t fun s =>
    let h := hashSlot s t slot.toNat
    if (s.tile t).ew ≠ 64 || 8 < h.1 then takeIllegal s t
    else
      let n := if h.1 = 0 then 8 else h.1
      overActive s t pred false fun s i =>
        (none, s.updTile t fun T => T.setV rd.toNat i (keyHash h.2 (leBytes n (T.elem rs1.toNat i))))

/-- The first byte of a tile-store range that breaks R84 or is poisoned, each byte taken alone. -/
def badByte (s : State) (t off n : Nat) : Option Exc :=
  ((List.range n).find? fun i => tsLoadBad s t (off + i) 1 || (s.tsPoison t (off + i) 1).isSome).map fun i =>
    if tsLoadBad s t (off + i) 1 then boundsExc (off + i) else poisonExc (off + i)

/-- VHASH.T. -/
def execVhashT (t : TileId) (slot : BitVec 3) (rd rs1 rs2 : Reg) (pred : PReg) (s : State) : Host.Outcome State Fault Refusal :=
  issue s t fun s =>
    let h := hashSlot s t slot.toNat
    let x := sVal s t rs2
    let n := if h.1 = 0 then bits x 16 8 else h.1
    if (s.tile t).ew ≠ 64 || n = 0 || 64 < n then takeIllegal s t
    else
      let base := sVal s t rs1
      overActive s t pred false fun s i =>
        let off := (base + i * (x % 0x10000)) % 2 ^ 64
        match badByte s t off n with
        | some e => (some e, s)
        | none => (none, s.updTile t fun T => T.setV rd.toNat i (keyHash h.2 (s.tsRead t off n)))

/-- VUNPK: element `i` is `n` bits of the stream at s[rs1] from bit s[rs2] + i·n (R128). -/
def execVunpk (t : TileId) (n1 : BitVec 6) (sx : Bool) (rd rs1 rs2 : Reg) (pred : PReg) (s : State) : Host.Outcome State Fault Refusal :=
  issue s t fun s =>
    let n := n1.toNat + 1
    let w := (s.tile t).ew
    if w < n then takeIllegal s t
    else
      let base := sVal s t rs1
      let b := sVal s t rs2
      overActive s t pred false fun s i =>
        let lo := b + i * n
        let off := (base + lo / 8) % 2 ^ 64
        let len := (lo % 8 + n + 7) / 8
        match badByte s t off len with
        | some e => (some e, s)
        | none =>
          let x := s.tsNat t off len / 2 ^ (lo % 8) % 2 ^ n
          (none, s.updTile t fun T => T.setV rd.toNat i (if sx then ofInt w (toSigned n x) else x))

/-- Index `j` of a VDICT, of `w` bits: the register's, but on running again after a fault the one that the register held when the instruction
began, unless a handler has changed it since. Where indices are narrower than entries, the entries written below the fault lie over them, and the
lookup is completed all the same (R129; DEDUCED, log entry 23). -/
def dictIndex (T : Tile) (rd : Reg) (w j : Nat) : Nat :=
  let now := elemOf w (T.vGet rd.toNat).toNat j
  match T.dictIdx with
  | some k => if k.pc = T.pc && k.at_ ≠ 0 && T.vstart.toNat = k.at_ && now = elemOf w k.left.toNat j then elemOf w k.indices.toNat j else now
  | none => now

/-- All of them, as the bits of a register. -/
def dictIndices (T : Tile) (rd : Reg) (w : Nat) : BitVec 4096 :=
  BitVec.ofNat 4096 ((List.range (4096 / w)).foldl (fun n j => n + dictIndex T rd w j * 2 ^ (w * j)) 0)

/-- A VDICT that meets a fault at element `i` keeps its indices. -/
def Tile.keepIndices (T : Tile) (rd : Reg) (i : Nat) (old : BitVec 4096) : Tile :=
  { T with dictIdx := some { pc := T.pc, at_ := i, indices := old, left := T.vGet rd.toNat } }

/-- A VDICT begins: what an earlier run of the same instruction kept is used up. -/
def Tile.dropIndices (T : Tile) : Tile := if (T.dictIdx.map (·.pc)) = some T.pc then { T with dictIdx := none } else T

/-- VDICT: each active index of v[rd] is replaced by its dictionary entry (R129). -/
def execVdict (t : TileId) (iw : Size) (rd rs1 rs2 : Reg) (pred : PReg) (s : State) : Host.Outcome State Fault Refusal :=
  issue s t fun s =>
    if indexTooWide s t iw then takeIllegal s t
    else
      let n := (s.tile t).ew / 8
      let base := sVal s t rs1
      let count := sVal s t rs2
      let w := 8 * 2 ^ iw.toNat
      let old := s.tile t
      overActive (s.updTile t Tile.dropIndices) t pred false fun s i =>
        let x := dictIndex old rd w i
        let off := (base + x * n) % 2 ^ 64
        let fail := fun (e : Exc) => (some e, s.updTile t fun T => T.keepIndices rd i (dictIndices old rd w))
        if base % n ≠ 0 then fail (misaligned off)
        else if count ≤ x then fail (boundsExc off)
        else
          match loadTs s t off n with
          | .error e => fail e
          | .ok y => (none, s.updTile t fun T => T.setV rd.toNat i y)

-- ## VRED.M (R131, R171)

/-- Bytes of the words VRED.M names. -/
def redBytes (T : Tile) : Nat := T.ew / 8

/-- Send the elements to their controllers, in ascending order; a full queue stalls the instruction at its element. -/
def redLoop (t : TileId) (p : Nat) (op : RedOp) (rd rs1 rs2 : Reg) : List Nat → State → State
  | [], s => retireV s t id
  | i :: rest, s =>
    let T := s.tile t
    let n := redBytes T
    let va := ((T.sGet rs1.toNat).toNat + T.elem rs2.toNat i * n) % 2 ^ 64
    let fail := fun (s : State) (e : Exc) => takeExc s t { e with access := e.access + (if e.idx ≤ 3 then 4 else 0) } (some i)
    if va % n ≠ 0 then fail s (misaligned va)
    else
      match translate s (.tile t) va .reduce with
      | (.error e, s) => fail s e
      | (.ok x, s) =>
        let a := (canon s x.dpa).getD x.dpa
        if 32 ≤ redQueue s a then s.updTile t fun T => { T with vstart := BitVec.ofNat 64 i }
        else
          let r : Red := { dpa := a, op := op, signed := T.signed, bytes := n, value := T.elem rd.toNat i, tile := t.val, parcel := p
                           vintage := (s.parcel p).vintage }
          redLoop t p op rd rs1 rs2 rest { s with reds := s.reds ++ [r] }

/-- VRED.M. -/
def execVredM (t : TileId) (op : RedOp) (rd rs1 rs2 : Reg) (pred : PReg) (s : State) : Host.Outcome State Fault Refusal :=
  issue s t fun s =>
    let T := s.tile t
    if T.ew < 32 || (op = .fadd && T.ew ≠ 64) then takeIllegal s t
    else redLoop t ((tileParcel s t).getD 0) op rd rs1 rs2 (T.active pred.toNat) s

end Sys2Proof.Machine
end

