-- ==== Sys2Proof/Machine/DecodeUnit.lean ====
section
/-! DEFINITION. The decode unit of a tile (chapter 06): posting, checks, steps and actions, completion and errors. -/

namespace Sys2Proof.Machine

/-- How a step leaves a command. -/
inductive DecEnd where
  | go
  | done (status : Nat)
  | fail (reason code : Nat)
  | poison
  deriving DecidableEq, Repr


/-- The tables that a tile's decoder holds (R66). -/
def decTables (s : State) (t : Nat) : List DecTable :=
  match roleOf s t with
  | none => []
  | some r => r.parcel.image.decTables.filter fun d => bitOf d.tiles r.v

/-- The resident table of a slot. -/
def decTable (s : State) (t slot : Nat) : Option DecTable := (decTables s t).find? fun d => d.slot == slot

/-- Word `a` of the action store; an unloaded word is 0. -/
def actionWord (s : State) (t a : Nat) : Nat :=
  match (decTables s t).find? fun d => decide (d.actionBase ≤ a) && decide (a < d.actionBase + d.actions.length) with
  | some d => d.actions[a - d.actionBase]?.getD 0
  | none => 0

-- ## Checks at the start of a command (R141)


/-- Whether any two of a list of ranges meet. -/
def anyOverlap : List (Nat × Nat) → Bool
  | [] => false
  | (a, n) :: l => (l.any fun b => overlaps a n b.1 b.2) || anyOverlap l

/-- The reason that ends a command at its beginning, if any. -/
def decCheck (s : State) (t : Nat) (c : DecCmd) : Option Nat :=
  let rs := c.regions.filter fun r => r.2.1 != 0
  let h := (inboxOf s t).2
  let stride := c.f 0x18 2
  if bits (c.f 0x0E 1) 1 7 ≠ 0 || bits (c.f 0x0F 1) 5 3 ≠ 0 || c.f 0x1B 1 ≠ 0 || c.f 0x04 4 = 0 || 0x100000 < c.f 0x04 4
      || 64 < c.f 0x1A 1 || (stride ≠ 0 && stride < c.outW) || (c.f 0x14 4 ≠ 0 && c.f 0x10 4 % c.outW ≠ 0)
      || (c.f 0x2C 4 ≠ 0 && c.f 0x28 4 % c.dictW ≠ 0) then some 0x04
  else if rs.any fun r => decide (0x100000 < r.1 + r.2.1) then some 0x04
  else if h ≠ 0 && overlaps (c.f 0x00 4) (c.f 0x04 4) (halfB s t) h then some 0x04
  else if h ≠ 0 && rs.any fun r => r.2.2 && overlaps r.1 r.2.1 (inboxOf s t).1 (2 * h) then some 0x04
  else if anyOverlap (rs.map fun r => (r.1, r.2.1)) then some 0x04
  else
    match decTable s t (c.f 0x0C 1) with
    | none => some 0x05
    | some d => if d.states ≤ c.f 0x0D 1 then some 0x08 else none

/-- The unit state when a command begins (Table 3). -/
def decBegin (c : DecCmd) : DecRun :=
  { cmd := c, c0 := c.f 0x08 4, w := c.f 0x1A 1, slot := c.f 0x0C 1, state := c.f 0x0D 1 }

-- ## Reading input (R146)

/-- Bits of input. -/
def DecRun.inBits (R : DecRun) : Nat := 8 * R.cmd.f 0x04 4

/-- Input bit `j`; beyond the input it is 0. -/
def inBit (s : State) (t : Nat) (R : DecRun) (j : Nat) : Bool :=
  if R.inBits ≤ j then false
  else
    let b := (s.mem.byte (tsBase t + R.cmd.f 0x00 4 + j / 8)).toNat
    if bitOf (R.cmd.f 0x0E 1) 0 then bitOf b (7 - j % 8) else bitOf b (j % 8)

/-- The `n`-bit field at a cursor. -/
def inField (s : State) (t : Nat) (R : DecRun) (c n : Nat) : Nat :=
  (List.range n).foldl (fun a k =>
    let v := b2n (inBit s t R (c + k))
    if bitOf (R.cmd.f 0x0E 1) 0 then a + v * 2 ^ (n - 1 - k) else a + v * 2 ^ k) 0

/-- Whether the bytes of a field are poisoned. -/
def inPoison (s : State) (t : Nat) (R : DecRun) (c n : Nat) : Bool :=
  let hi := min (c + n) R.inBits
  if hi ≤ c then false else (s.tsPoison t (R.cmd.f 0x00 4 + c / 8) ((hi - 1) / 8 - c / 8 + 1)).isSome

/-- What an action works on: tile store and unit, and how it has ended so far. -/
structure DecW where
  s : State
  r : DecRun
  e : DecEnd := .go
  /-- CALL, RET, END or ERROR ran -/
  jumped : Bool := false

/-- End the command with a failure. -/
def DecW.fail (x : DecW) (reason : Nat) : DecW := { x with e := .fail reason 0 }
/-- Change the unit's registers. -/
def DecW.set (x : DecW) (f : DecRun → DecRun) : DecW := { x with r := f x.r }
/-- Go on only while nothing has ended. -/
def DecW.andThen (x : DecW) (f : DecW → DecW) : DecW := if x.e = .go then f x else x

/-- Advance the cursor; beyond the input it fails with DECODE_SHORT. -/
def advance (x : DecW) (n : Nat) : DecW :=
  if x.r.inBits < x.r.cur + n then x.fail 0x01
  else x.set fun r => { r with cur := r.cur + n, idle := if n = 0 then r.idle else 0 }

/-- Read and consume an `n`-bit field. -/
def takeField (t : Nat) (x : DecW) (n : Nat) : Nat × DecW :=
  if x.r.inBits < x.r.cur + n then (0, x.fail 0x01)
  else if inPoison x.s t x.r x.r.cur n then (0, { x with e := .poison })
  else (inField x.s t x.r x.r.cur n, advance x n)

/-- Peek an `n`-bit field. -/
def peekField (t : Nat) (x : DecW) (c n : Nat) : DecW :=
  if inPoison x.s t x.r c n then { x with e := .poison }
  else x.set fun r => { r with k := inField x.s t x.r c n }

/-- A width operand: none where it fails with BAD_ACTION. -/
def widthOf (w n : Nat) : Option Nat :=
  if n ≤ 64 then some n else if n = 0x7E then some (8 * ceilDiv w 8) else if n = 0x7F then some w else none

-- ## Writing elements (R148, R149)

/-- Write bit `i` of a bitmap, leaving the other bits of its byte. -/
def tsBit (s : State) (t off i : Nat) (b : Bool) : State :=
  let a := off + i / 8
  let old := (s.mem.byte (tsBase t + a)).toNat
  s.tilePut t a [BitVec.ofNat 8 (putBit old (i % 8) b)]

/-- Write an element to a target. -/
def emit (t : Nat) (x : DecW) (target v : Nat) : DecW :=
  let c := x.r.cmd
  match target with
  | 0 =>
    let stride := if c.f 0x18 2 = 0 then c.outW else c.f 0x18 2
    let rel := x.r.valWritten * stride
    if c.f 0x14 4 < rel + c.outW then x.fail 0x0C
    else { x with s := x.s.tilePut t (c.f 0x10 4 + rel) (leBytes c.outW v), r := { x.r with valWritten := x.r.valWritten + 1, idle := 0 } }
  | 1 =>
    if c.f 0x24 4 ≤ x.r.vldBits then x.fail 0x0C
    else { x with s := tsBit x.s t (c.f 0x1C 4) x.r.vldBits (bitOf v 0),
                  r := { x.r with vldBits := x.r.vldBits + 1, vldOnes := x.r.vldOnes + v % 2, idle := 0 } }
  | 2 =>
    if c.f 0x24 4 ≤ x.r.selBits then x.fail 0x0C
    else { x with s := tsBit x.s t (c.f 0x20 4) x.r.selBits (bitOf v 0),
                  r := { x.r with selBits := x.r.selBits + 1, selOnes := x.r.selOnes + v % 2, idle := 0 } }
  | _ => x.set fun r => { r with a := v % 2 ^ 64 }

/-- Count an element whose e bit is set (R148): what remains to be done with it, or nothing when it is discarded. -/
def counted (x : DecW) (e pad : Bool) (f : DecW → DecW) : DecW :=
  if !e then f x
  else if x.r.c0 = 0 then (if pad then x else x.fail 0x02)
  else f (x.set fun r => { r with c0 := r.c0 - 1 })

/-- Repeat an element operation C1 times and clear C1, or do it once. -/
def repeated (rep : Bool) (f : DecW → DecW) (x : DecW) : DecW :=
  if rep then ((List.range x.r.c1).foldl (fun x _ => x.andThen f) x).andThen fun x => x.set fun r => { r with c1 := 0 }
  else f x

/-- ZIGZAG. -/
def zigzag (a : Nat) : Nat := (a / 2) ^^^ (if a % 2 = 1 then 2 ^ 64 - 1 else 0)

/-- A dictionary entry, or a failure (R147, R154). -/
def dictEntry (t : Nat) (x : DecW) (i : Nat) : Nat × DecW :=
  let c := x.r.cmd
  if c.f 0x2C 4 ≤ i then (0, x.fail 0x0B)
  else
    let off := c.f 0x28 4 + i * c.dictW
    if (x.s.tsPoison t off c.dictW).isSome then (0, { x with e := .poison })
    else
      let v := x.s.tsNat t off c.dictW
      (if bitOf (c.f 0x0F 1) 4 then ofInt 64 (toSigned (8 * c.dictW) v) else v, x)

/-- One element of EMIT_BITS. Where no element is left, `counted` fails or discards it before `post` acts on P or looks into the dictionary, and
it fails with DECODE_SHORT where the input ends within that element (DESIGN CHOICE, log entry 27: R148 and R150 give no order). -/
def emitBits (t n target post : Nat) (e pad sx : Bool) (x : DecW) : DecW :=
  let (v, x) := takeField t x n
  x.andThen fun x =>
    counted x e pad fun x =>
      let v := if sx && n ≠ 0 then ofInt 64 (toSigned n v) else v
      match post with
      | 0 => emit t x target v
      | 1 => emit t x target (zigzag v)
      | 2 =>
        let y := (x.r.p + x.r.d + v) % 2 ^ 64
        emit t (x.set fun r => { r with p := y }) target y
      | _ => let (y, x) := dictEntry t x v; x.andThen fun x => emit t x target y

/-- The test of CMP_RANGE (R150). -/
def rangeTest (t : Nat) (x : DecW) (mode : Nat) (signed : Bool) (v : Nat) : Bool × DecW :=
  let c := x.r.cmd
  let inR := fun lo hi => decide (ival signed 64 (c.f lo 8) ≤ ival signed 64 v) && decide (ival signed 64 v ≤ ival signed 64 (c.f hi 8))
  match mode with
  | 0 => (inR 0x40 0x48, x)
  | 1 => (inR 0x50 0x58, x)
  | 3 => (inR 0x40 0x48 || inR 0x50 0x58, x)
  | _ =>
    if c.f 0x34 4 ≤ v then (false, x.fail 0x0D)
    else
      let off := c.f 0x30 4 + v / 8
      if (x.s.tsPoison t off 1).isSome then (false, { x with e := .poison })
      else (bitOf (x.s.tsNat t off 1) (v % 8), x)

/-- One element of CMP_RANGE. -/
def cmpRange (t mode : Nat) (signed neg e pad src : Bool) (x : DecW) : DecW :=
  let (v, x) := if src then takeField t x x.r.w else (x.r.a, x)
  x.andThen fun x =>
    counted x e pad fun x =>
      let (b, x) := rangeTest t x mode signed v
      x.andThen fun x => emit t x 2 (b2n (b != neg))

/-- VARINT's bytes: value so far, shift, bytes read (R147). -/
def varintLoop (t : Nat) : Nat → Nat → Nat → DecW → DecW
  | 0, _, _, x => x.fail 0x0A
  | n + 1, acc, sh, x =>
    let (b, x) := takeField t x 8
    x.andThen fun x =>
      let acc := acc + b % 128 * 2 ^ sh
      if 128 ≤ b then varintLoop t n acc (sh + 7) x
      else if 2 ^ 64 ≤ acc then x.fail 0x0A
      else x.set fun r => { r with a := acc }

-- ## Actions (Table 6)

/-- What CLASSIFY leaves in K. -/
def decIndex (m : Nat) (r : DecRun) : DecRun :=
  match m with
  | 0 => { r with k := min r.a 15 }
  | 1 => { r with k := r.a % 16 }
  | 2 => { r with k := r.a / 16 % 16 }
  | _ => { r with k := b2n (r.c0 == 0) + 2 * b2n (r.c1 == 0) }

/-- The value that EMIT_CONST writes. -/
def decValue (m imm : Nat) (r : DecRun) : Nat :=
  match m with
  | 0 => imm
  | 1 => r.a
  | 2 => r.cur / 8
  | _ => r.p

/-- The modes of DELTA_ADD. -/
def decDelta (m : Nat) (r : DecRun) : DecRun :=
  match m with
  | 0 => { r with a := (r.p + r.d + r.a) % 2 ^ 64, p := (r.p + r.d + r.a) % 2 ^ 64 }
  | 1 => { r with d := r.a }
  | 2 => { r with p := r.a }
  | _ => { r with a := (r.a + r.d) % 2 ^ 64 }

/-- The source of SETCOUNT. -/
def decSource (m imm : Nat) (r : DecRun) : Nat :=
  match m with
  | 0 => imm
  | 1 => r.a
  | 2 => r.c0
  | _ => r.a % 256

/-- The register that SETCOUNT sets. -/
def decLoad (m v : Nat) (r : DecRun) : DecRun :=
  match m with
  | 0 => { r with c1 := v % 2 ^ 32 }
  | 1 => { r with c2 := v % 2 ^ 32 }
  | _ => { r with w := v }

/-- Run one action word; `next` is the transition's next state. -/
def decAction (t next word : Nat) (x : DecW) : DecW :=
  let o := word % 2 ^ 26
  let bad := x.fail 0x07
  let f := fun lo len => bits o lo len
  let b := fun i => bitOf o i
  match bits word 26 5 with
  | 0x00 =>
    if f 9 17 ≠ 0 || f 0 3 = 0 || 4 < f 0 3 then bad else peekField t x (x.r.cur + f 3 6) (f 0 3)
  | 0x01 =>
    if f 2 24 ≠ 0 then bad
    else x.set (decIndex (f 0 2))
  | 0x02 =>
    match widthOf x.r.w (f 0 7) with
    | none => bad
    | some n => if f 15 11 ≠ 0 then bad else repeated (b 9) (emitBits t n (f 7 2) (f 13 2) (b 10) (b 11) (b 12)) x
  | 0x03 =>
    if f 7 7 ≠ 0 || f 0 2 = 3 then bad
    else
      repeated (b 2) (fun x => counted x (b 3) (b 4) fun x => emit t x (f 0 2) (decValue (f 5 2) (f 14 12) x.r)) x
  | 0x04 =>
    match widthOf x.r.w (f 0 7) with
    | none => bad
    | some n =>
      if f 9 17 ≠ 0 then bad
      else
        match f 7 2 with
        | 0 => advance x n
        | 1 => advance x (8 * n)
        | 2 => advance x (8 * x.r.a)
        | _ => (advance x (x.r.c1 * x.r.w)).andThen fun x => x.set fun r => { r with c1 := 0 }
  | 0x05 =>
    match widthOf x.r.w (f 14 7) with
    | none => bad
    | some n =>
      if f 21 5 ≠ 0 then bad
      else
        let x := if n = 0 then x else let (v, x) := takeField t x n; x.andThen fun x => x.set fun r => { r with a := v }
        x.andThen fun x => x.set fun r =>
          let y := if b 13 then 256 - r.a % 256 else r.a
          { r with c1 := (y / 2 ^ f 0 6 * 2 ^ f 6 3 + f 9 4) % 2 ^ 32 }
  | 0x06 => if o ≠ 0 then bad else if x.r.cur % 8 ≠ 0 then x.fail 0x0F else varintLoop t 10 0 0 x
  | 0x07 => if o ≠ 0 then bad else x.set fun r => { r with a := zigzag r.a }
  | 0x08 =>
    if f 2 24 ≠ 0 then bad
    else x.set (decDelta (f 0 2))
  | 0x09 => if o ≠ 0 then bad else let (v, x) := dictEntry t x x.r.a; x.andThen fun x => x.set fun r => { r with a := v }
  | 0x0A =>
    if f 0 2 = 3 then bad
    else
      let v := decSource (f 2 2) (f 4 22) x.r
      if f 0 2 = 2 && 64 < v then x.fail 0x0E
      else
        let x := if f 2 2 = 3 then x.set fun r => { r with a := r.a / 256 } else x
        x.set (decLoad (f 0 2) v)
  | 0x0B =>
    if f 1 25 ≠ 0 then bad
    else x.set fun r =>
      if b 0 then { r with c2 := r.c2 - 1, k := b2n (r.c2 - 1 == 0) } else { r with c1 := r.c1 - 1, k := b2n (r.c1 - 1 == 0) }
  | 0x0C =>
    if f 10 16 ≠ 0 then bad
    else if 4 ≤ x.r.stack.length then x.fail 0x09
    else if (decTable x.s t (f 8 2)).isNone then x.fail 0x05
    else { x with jumped := true, r := { x.r with stack := (x.r.slot, next) :: x.r.stack, slot := f 8 2, state := f 0 8 } }
  | 0x0D =>
    if o ≠ 0 then bad
    else
      match x.r.stack with
      | [] => x.fail 0x09
      | (sl, st) :: rest => { x with jumped := true, r := { x.r with stack := rest, slot := sl, state := st } }
  | 0x0E =>
    if f 8 18 ≠ 0 then bad else repeated (b 4) (cmpRange t (f 0 2) (b 2) (b 3) (b 5) (b 6) (b 7)) x
  | 0x0F => if f 2 24 ≠ 0 then bad else advance x (roundUp x.r.cur (8 * 2 ^ f 0 2) - x.r.cur)
  | 0x10 => if f 8 18 ≠ 0 then bad else { x with e := .fail 0x03 (f 0 8), jumped := true }
  | 0x11 =>
    if f 1 25 ≠ 0 then bad
    else if b 0 then { x with e := .done 0x02, jumped := true }
    else if 0 < x.r.c0 then x.fail 0x01
    else if 8 ≤ x.r.inBits - x.r.cur then x.fail 0x02
    else { x with e := .done 0x01, jumped := true }
  | _ => bad

/-- Run an action program from a word, through the first word whose last bit is set; past word 1,023 it fails. -/
def decProgram (t next : Nat) : Nat → Nat → DecW → DecW
  | 0, _, x => x.fail 0x07
  | n + 1, a, x =>
    if 1024 ≤ a then x.fail 0x07
    else
      let w := actionWord x.s t a
      (decAction t next w x).andThen fun x => if bitOf w 31 then x else decProgram t next n (a + 1) x

/-- One step of the state machine (R145). -/
def decStepW (t : Nat) (x : DecW) : DecW :=
  match decTable x.s t x.r.slot with
  | none => x.fail 0x05
  | some d =>
    let e := d.transitions[16 * x.r.state + x.r.k]?.getD 0
    let pw := bits e 25 3
    if 4 < pw || bits e 28 4 ≠ 0 then x.fail 0x06
    else
      let x := x.set fun r => { r with idle := r.idle + 1 }
      let x := advance x (bits e 18 6)
      let x := x.andThen fun x => if bitOf e 24 then decProgram t (bits e 0 8) 1024 (bits e 8 10) x else x
      let x := x.andThen fun x => if x.jumped then x else x.set fun r => { r with state := bits e 0 8 }
      let x := x.andThen fun x => if pw = 0 then x else peekField t x x.r.cur pw
      x.andThen fun x =>
        match decTable x.s t x.r.slot with
        | none => x.fail 0x05
        | some d => if d.states ≤ x.r.state then x.fail 0x08 else x

-- ## Ends (R142, R152 to R154)

/-- Stop a tile for its decode unit: the status's code in TIL_EXC_CAUSE, page_addr in TIL_EXC_VA, and the queue discarded (R153). Poison stops
it as exception 6 does, taken at the instruction it is at (R100, R154). A tile that had already stopped in the frame, whose queue R143 lets run on,
shows the later stop: no rule says which of the two (DESIGN CHOICE, log entry 27). -/
def decStop (s : State) (t : Nat) (r : StopRec) (idx : Nat) : State :=
  let T := s.tile t
  let s := s.updTile t fun T => { T with decQ := [], decRun := none }
  let s := if idx = 6 then s.updTile t fun T => { T with
      epc := T.pc, tfaultVa := BitVec.ofNat 64 r.address, ecause := 6, inHandler := true } else s
  (stopTile s t r idx T.inHandler).updTile t fun X => { X with excPc := T.pc, excVa := BitVec.ofNat 64 r.address }

/-- The record and the status of a command that ends without error (R142). -/
def decRecord (R : DecRun) (status : Nat) : List Byte :=
  leBytes 4 R.cur ++ leBytes 4 (R.cmd.f 0x08 4 - R.c0) ++ leBytes 4 R.valWritten ++ leBytes 4 R.vldOnes ++ leBytes 4 R.selOnes
    ++ leBytes 4 R.vldBits ++ leBytes 4 R.selBits ++ zeros 3 ++ leBytes 1 status

/-- Act on how a step or a check ended. The outputs and the record of a command whose regions tile code has stored into are undefined (R143). -/
def decFinish (s : State) (t : Nat) (R : DecRun) (e : DecEnd) : State :=
  let page := R.cmd.f 0x38 8
  let s := if R.cmd.touched then forgetDec s t R.cmd else s
  match e with
  | .go => s.updTile t fun T => { T with decRun := some R }
  | .done st =>
    let s := if R.cmd.touched then s else s.tilePut t (R.cmd.off + 0x60) (decRecord R st)
    let s := s.updTile t fun T => { T with decRun := none }
    match roleOf s t with
    | some r => requestFrom s r.p 4 r.v
    | none => s
  | .fail r c => decStop s t { status := sDECODE_ERROR, source := 3, reason := r, sub := c, address := page } 0
  | .poison => decStop s t { status := sPOISONED, source := 2, reason := 6, sub := ((roleOf s t).map (·.stage.stage)).getD 0, address := page } 6

/-- DECODE_COMMAND_BEGIN: the next queued command begins when none runs. -/
def execDecodeCommandBegin (t : TileId) (s : State) : Host.Outcome State Fault Refusal :=
  ok (live s fun s =>
    match (s.tile t).decRun, (s.tile t).decQ with
    | none, c :: rest =>
      let s := s.updTile t fun T => { T with decQ := rest }
      match decCheck s t c with
      | some r => decFinish s t (decBegin c) (.fail r 0)
      | none => decFinish s t (decBegin c) .go
    | _, _ => s)

/-- Steps in a row without input or output after which a command stalls (R155). -/
def stallSteps : Nat := 4096

/-- DECODE_STEP: one step of the running command. -/
def execDecodeStep (t : TileId) (s : State) : Host.Outcome State Fault Refusal :=
  ok (live s fun s =>
    match (s.tile t).decRun with
    | none => s
    | some R =>
      if stallSteps ≤ R.idle then decFinish s t R (.fail 0x10 0)
      else
        let x := decStepW t { s := s, r := R }
        decFinish x.s t x.r x.e)

/-- DECODE_STALL: 4,096 steps in a row have consumed no bit and written no element. -/
def execDecodeStall (t : TileId) (s : State) : Host.Outcome State Fault Refusal :=
  ok (live s fun s =>
    match (s.tile t).decRun with
    | none => s
    | some R => if stallSteps ≤ R.idle then decFinish s t R (.fail 0x10 0) else s)

-- ## Posting (R139, R140)

/-- What a doorbell store does after the store itself is decided: stall, exception, or post. -/
inductive Post where
  | stall
  | exc (e : Exc)
  | post (f : State → State)

/-- The decode doorbell's post of a value. -/
def decodePost (s : State) (t v : Nat) : Post :=
  let off := v % 2 ^ 20
  if off % 128 ≠ 0 || 0xFFF00 < off then .exc (misaligned 0xFFFF8)
  else if 8 ≤ (s.tile t).decQ.length then .stall
  else .post fun s =>
    let c : DecCmd := { off := off, bytes := s.tsRead t off 0x60 }
    (s.tsWrite t (off + 0x7F) [0]).updTile t fun T => { T with decQ := T.decQ ++ [c] }

end Sys2Proof.Machine
end

