-- ==== Sys2Proof/Machine/EngMem.lean ====
section
/-! DEFINITION. How engines reach memory through translation, and what the three kinds of engine share: posting, publication and errors
(chapters 08, 14 and 15). -/

namespace Sys2Proof.Machine

-- ## Accesses of a unit (R189, R308, R329)

/-- What stops an access of a unit. -/
inductive UErr where
  | fault (e : Exc)
  | poison (va : Nat)
  deriving DecidableEq, Repr

/-- The address an engine reports (fault_va). -/
def UErr.va : UErr → Nat
  | .fault e => e.va
  | .poison a => a

/-- The pieces of a virtual range that lie in one 4 KiB page each: address and bytes. -/
def pageRuns (va n : Nat) : List (Nat × Nat) :=
  if n = 0 then []
  else (List.range ((va + n - 1) / 4096 - va / 4096 + 1)).map fun i =>
    let lo := max va ((va / 4096 + i) * 4096)
    (lo, min (va + n) ((va / 4096 + i + 1) * 4096) - lo)

/-- What kinds of memory an engine's leaf may map. -/
inductive Reach where
  | cellar | cellarOrTiles | any
  deriving DecidableEq, Repr

/-- Whether an address is within reach. -/
def Reach.admits (r : Reach) (a : Nat) : Bool :=
  match r, place a with
  | .any, _ => true
  | _, .cellar _ => true
  | _, .window _ _ => true
  | .cellarOrTiles, .tileStore _ _ => true
  | _, _ => false

/-- Translate one run for a load, and for a store too where `wr` is set. -/
def reachRun (s : State) (u : WalkUnit) (va : Nat) (wr : Bool) (r : Reach) : Except UErr Nat × State :=
  match translate s u va .load with
  | (.error e, s) => (.error (.fault e), s)
  | (.ok x, s) =>
    let s2 := if wr then translate s u va .store else (.ok x, s)
    match s2 with
    | (.error e, s) => (.error (.fault e), s)
    | (.ok _, s) =>
      if r.admits x.dpa then (.ok x.dpa, s) else (.error (.fault { idx := 1, va := va, reason := 0x13 }), s)

/-- The first poisoned byte of a run. -/
def poisonIn (s : State) (dpa n : Nat) : Option Nat :=
  findBelow n fun i => ((canon s (dpa + i)).map s.mem.poisoned).getD false

/-- Whether an address lies in a host aperture. -/
def hostPlace (a : Nat) : Bool := match place a with | .host _ _ => true | _ => false

/-- Read bytes for a unit, up to what stops the read; `wr` asks that the leaves allow writes too. A completion of the host that is poisoned stops
it (R457). A read that ends in an error completion delivers free bytes and stops nothing: no rule says what a job does then (DESIGN CHOICE, log
entry 29). -/
def unitPrefix (s : State) (u : WalkUnit) (va n : Nat) (wr : Bool) (r : Reach) : List Byte × Option UErr × State :=
  (pageRuns va n).foldl (fun acc run =>
    match acc with
    | (bs, some e, s) => (bs, some e, s)
    | (bs, none, s) =>
      match reachRun s u run.1 wr r with
      | (.error e, s) => (bs, some e, s)
      | (.ok dpa, s) =>
        if hostPlace dpa then
          match fabricRead s dpa run.2 with
          | (_, true, s) => (bs, some (.poison run.1), s)
          | (b, false, s) => (bs ++ b, none, s)
        else
          let k := (poisonIn s dpa run.2).getD run.2
          let (b, _, s) := fabricRead s dpa k
          (bs ++ b, if k < run.2 then some (.poison (run.1 + k)) else none, s)) ([], none, s)

/-- Read bytes for a unit. -/
def unitRead (s : State) (u : WalkUnit) (va n : Nat) (wr : Bool) (r : Reach) : Except UErr (List Byte) × State :=
  match unitPrefix s u va n wr r with
  | (bs, none, s) => (.ok bs, s)
  | (_, some e, s) => (.error e, s)

/-- Where a range of a unit lies, run by run, once every run may be read and written. -/
def unitPlaces (s : State) (u : WalkUnit) (va n : Nat) (r : Reach) : Except UErr (List (Nat × Nat)) × State :=
  (pageRuns va n).foldl (fun acc run =>
    match acc with
    | (.error e, s) => (.error e, s)
    | (.ok l, s) =>
      match reachRun s u run.1 true r with
      | (.error e, s) => (.error e, s)
      | (.ok dpa, s) => (.ok (l ++ [(dpa, run.2)]), s)) (.ok [], s)

/-- Cut a byte string over places. -/
def layOut : List (Nat × Nat) → List Byte → List (Nat × List Byte)
  | [], _ => []
  | (a, n) :: l, bs => (a, bs.take n) :: layOut l (bs.drop n)

/-- Lay writes with offsets over the places of an area. -/
def overPlaces (places : List (Nat × Nat)) (w : List (Nat × List Byte)) : List (Nat × List Byte) :=
  w.flatMap fun x =>
    let cut := places.foldl (fun (acc : Nat × List (Nat × List Byte)) (p : Nat × Nat) =>
      let lo := max acc.1 x.1
      let hi := min (acc.1 + p.2) (x.1 + x.2.length)
      (acc.1 + p.2, if lo < hi then acc.2 ++ [(p.1 + (lo - acc.1), slice x.2 (lo - x.1) (hi - lo))] else acc.2)) (0, [])
    cut.2

/-- Write byte strings at their DPAs. -/
def putAll (s : State) (l : List (Nat × List Byte)) : State := l.foldl (fun s w => fabricWrite s w.1 w.2 false) s

/-- Leave the storage under a DPA run undefined. -/
def forgetRun (s : State) (dpa n : Nat) : State :=
  ((pieces s dpa (zeros n))).foldl (fun s p => s.forget p.1 (p.1 + p.2.length)) s

/-- Leave a virtual range undefined, where it translates; the unit's own state does not change. -/
def forgetVa (s : State) (u : WalkUnit) (va n : Nat) : State :=
  (pageRuns va n).foldl (fun s run =>
    match (reachRun s u run.1 true .any).1 with
    | .ok dpa => forgetRun s dpa run.2
    | .error _ => s) s

/-- The status and reason of a fault an engine meets, by the reason codes of its chapter. -/
def uerrCode (e : UErr) (trans perm poison : Nat) : Nat × Nat :=
  match e with
  | .poison _ => (sPOISONED, poison)
  | .fault x => if x.idx = 1 then (sPERMISSION, perm) else (sTRANSLATION_FAULT, trans)

-- ## Jobs

/-- The unit that an engine is. -/
def engUnit (k : EngKind) (n : Nat) : WalkUnit :=
  match k with
  | .ce => .ce (Fin.ofNat 16 n)
  | .de => .de (Fin.ofNat 16 n)
  | .se => .se (Fin.ofNat 16 n)

/-- A field of a job's block. -/
def EngJob.f (j : EngJob) (off len : Nat) : Nat := fieldAt j.blk off len
/-- A bit of its op field. -/
def EngJob.op (j : EngJob) (i : Nat) : Bool := bitOf (j.f 0 4) i

/-- Virtual engines of a kind that the image asks for. -/
def Image.engCount (I : Image) : EngKind → Nat
  | .ce => I.ceCount
  | .de => I.deCount
  | .se => I.seCount

/-- Whether an engine may move data: its parcel holds a slot on its bank (R215). An engine that no parcel holds is the manager's. -/
def engHasSlot (s : State) (k : EngKind) (e : Nat) : Bool :=
  match engParcel s k e with
  | some p => ((s.parcel p).bslots[e / 4]?).getD 0 != 0
  | none => true

/-- Let an engine that may move data act. -/
def moving (s : State) (k : EngKind) (e : Nat) (f : State → State) : State := if engHasSlot s k e then f s else s

/-- A post through an engine doorbell at `db` (R177, R290, R311): blocks of `size` bytes, the last at `top`; the status byte is the
block's last. An offset that breaks the block's rule is found before an engine that the image does not have (DESIGN CHOICE, log entry 29: the
rules give the two exceptions no order). -/
def enginePost (s : State) (t v : Nat) (k : EngKind) (db size top : Nat) : Post :=
  let off := v % 2 ^ 20
  if off % size ≠ 0 || top < off then .exc (misaligned db)
  else
    match roleOf s t with
    | none => .exc illegal
    | some r =>
      if r.parcel.image.engCount k ≤ bits v 20 4 then .exc illegal
      else
        match r.parcel.peng k (bits v 20 4) with
        | none => .exc illegal
        | some e =>
          if 16 ≤ (s.eng k e).jobs.length then .stall
          else .post fun s =>
            let j : EngJob := {
              vtile := r.v, tile := t, off := off, blk := s.tsRead t off 0x40, frame := pframe s r.p, post := (s.eng k e).posts
              vintage := r.parcel.vintage }
            (s.tsWrite t (off + size - 1) [0]).updEng k e fun E => { E with jobs := E.jobs ++ [j], posts := E.posts + 1 }

/-- Change the job of an engine with a posting number. -/
def State.updJob (s : State) (k : EngKind) (e post : Nat) (f : EngJob → EngJob) : State :=
  s.updEng k e fun E => { E with jobs := E.jobs.map fun j => if j.post = post then f j else j }

/-- The engine kind's source number in a failure detail (Table 12 of chapter 17). -/
def EngKind.source : EngKind → Nat
  | .se => 5
  | .ce => 6
  | .de => 7

/-- A job missed its due boundary (R182, R301, R318): the EXECUTE ends with FRAME_OVERRUN. -/
def lateJob (s : State) (p : Nat) (k : EngKind) (e : Nat) : State :=
  let s := raiseEng (s.updEng k e fun E => { E with late := true }) k e
  failExec s p { status := sFRAME_OVERRUN, source := k.source, reason := 0, index := e, sub := 0, address := 0 }

/-- Count a published job, record a failed one, and raise the engine's event where `ev` asks for it. -/
def countJob (s : State) (k : EngKind) (e : Nat) (j : EngJob) (code reason inBytes outBytes va frame : Nat) (ev : Bool) : State :=
  let s := s.updEng k e fun E => { E with
    jobs := E.jobs.filter fun i => i.post != j.post
    cntJobs := E.cntJobs + 1, cntIn := E.cntIn + BitVec.ofNat 64 inBytes, cntOut := E.cntOut + BitVec.ofNat 64 outBytes
    err := if code = sSUCCESS then E.err else BitVec.ofNat 64 (code + 0x100 * reason + 0x10000 * j.vtile + 2 ^ 32 * (frame % 2 ^ 32))
    errVa := if code = sSUCCESS then E.errVa else BitVec.ofNat 64 va }
  if code ≠ sSUCCESS || ev then raiseEng s k e else s

/-- A published job that met poison ends its EXECUTE with POISONED (R190, R308, R329). -/
def poisonJob (s : State) (p code : Nat) : State :=
  if code = sPOISONED then failExec s p { status := sPOISONED, source := 0, reason := 0, sub := 0, address := 0 } else s

/-- The order in which a boundary takes newly posted jobs: ascending posting virtual tile, then posting order (R178, R291). -/
def postOrder (l : List EngJob) : List EngJob := sortBy (·.vtile) (sortBy (·.post) l)

-- ## Due frames of compression and digest jobs (R300, R318)

/-- Admission puts a job behind those admitted before it. -/
def admitLast (l : List EngJob) (j : EngJob) : List EngJob :=
  let l := l.filter fun i => i.post != j.post
  l.filter (·.admitted) ++ j :: l.filter fun i => !i.admitted

/-- Admit a job with duration `t` at the boundary that opens parcel frame `A` of `P` cycles: its due frame, and the later due frames of
the jobs of lower priority. `u` gives a job's suspension allowance, `clash` whether its slot overlaps the new job's. -/
def admitDue (l : List EngJob) (j : EngJob) (t A P : Nat) (u : EngJob → Nat) (clash : EngJob → Bool) : List EngJob :=
  let held := l.filter (·.admitted)
  let q := (held.filter fun (k : EngJob) => decide (j.prio ≤ k.prio) || clash k).foldl (fun m (k : EngJob) => max m k.due) A
  let v := (held.filter fun (k : EngJob) => decide (k.prio < j.prio) && !clash k).foldl (fun (m : Nat) (k : EngJob) => max m (u k)) 0
  let j := { j with admitted := true, start := A, dur := t, due := max A q + ceilDiv (t + v) P }
  admitLast (l.map fun k =>
    if k.admitted && decide (k.prio < j.prio) && !clash k then { k with due := k.due + ceilDiv (t + u k) P } else k) j

/-- The job an idle engine takes next: of the jobs that may run, the highest priority, and the earliest admitted (R298). `blocked` says
which earlier unfinished jobs hold a job back. -/
def nextJob (l : List EngJob) (blocked : EngJob → EngJob → Bool) : Option EngJob :=
  let open_ := l.filter fun j => j.admitted && j.outcome.isNone && !j.snoop
  let rec go (before : List EngJob) : List EngJob → Option EngJob → Option EngJob
    | [], best => best
    | j :: r, best =>
      let best := if before.any (blocked j) then best
        else match best with
          | none => some j
          | some b => if b.prio < j.prio then some j else some b
      go (before ++ [j]) r best
  go [] open_ none

/-- Start or resume the next job of an engine that runs none. -/
def runNext (l : List EngJob) (blocked : EngJob → EngJob → Bool) : List EngJob :=
  if l.any (·.running) then l
  else
    match nextJob l blocked with
    | none => l
    | some n => l.map fun j => if j.post = n.post then { j with running := true, suspended := false } else j

/-- Suspend the running job where one of higher priority may run (R298). -/
def suspendFor (l : List EngJob) (blocked : EngJob → EngJob → Bool) : List EngJob :=
  match l.find? (·.running), nextJob l blocked with
  | some r, some n =>
    if r.prio < n.prio then
      l.map fun j =>
        if j.post = r.post then { j with running := false, suspended := true, suspendedOnce := true }
        else if j.post = n.post then { j with running := true, suspended := false }
        else j
    else l
  | _, _ => l

/-- A free number of a 32- or 64-bit field. -/
def freeNat (s : State) (i w : Nat) : Nat := (Config.freeWord (s.freeCtr + i)).toNat % 2 ^ w

end Sys2Proof.Machine
end

