-- ==== Sys2Proof/Machine/Hash.lean ====
section
/-! DEFINITION. The functions of Table 1 of chapter 15 (R309), as FIPS 180-4, FIPS 202 and FIPS 198-1 define them, and ECDSA P-384 (R61). -/

namespace Sys2Proof.Machine

-- ## SHA-2

/-- The first 80 primes. -/
def primes : List Nat := (List.range 410).filter fun n => decide (2 ≤ n) && (List.range (isqrt n + 1)).all fun d => decide (d < 2) || n % d != 0

/-- Cube root, rounded down, by bits from the top. -/
def icbrtAux : Nat → Nat → Nat → Nat
  | 0, _, r => r
  | k + 1, n, r =>
    let c := r + 2 ^ k
    if c * c * c ≤ n then icbrtAux k n c else icbrtAux k n r

/-- The first 64 bits of the fraction of the cube roots of the primes. -/
def shaK : List Nat := primes.map fun p => icbrtAux 68 (p * 2 ^ 192) 0 % 2 ^ 64
/-- The first 64 bits of the fraction of the square roots of the primes. -/
def shaRoot : List Nat := (primes.take 16).map fun p => isqrt (p * 2 ^ 128) % 2 ^ 64

/-- Rotate a `w`-bit word right. -/
def rotr (w x n : Nat) : Nat := x / 2 ^ n ||| x * 2 ^ (w - n) % 2 ^ w

/-- Rotation and shift counts of a word width: Σ0, Σ1, σ0, σ1. -/
def shaCounts (w : Nat) : List Nat := if w = 32 then [2, 13, 22, 6, 11, 25, 7, 18, 3, 17, 19, 10] else [28, 34, 39, 14, 18, 41, 1, 8, 7, 19, 61, 6]
/-- Count `i`. -/
def shaC (w i : Nat) : Nat := (shaCounts w)[i]?.getD 0

/-- Extend the message schedule, newest word first. -/
def shaSchedule (w : Nat) : Nat → List Nat → List Nat
  | 0, l => l
  | n + 1, l =>
    let at_ := fun i => l[i]?.getD 0
    let s0 := rotr w (at_ 14) (shaC w 6) ^^^ rotr w (at_ 14) (shaC w 7) ^^^ at_ 14 / 2 ^ shaC w 8
    let s1 := rotr w (at_ 1) (shaC w 9) ^^^ rotr w (at_ 1) (shaC w 10) ^^^ at_ 1 / 2 ^ shaC w 11
    shaSchedule w n ((at_ 15 + s0 + at_ 6 + s1) % 2 ^ w :: l)

/-- One round on the eight working variables. -/
def shaRound (w : Nat) (v : List Nat) (kw : Nat) : List Nat :=
  match v with
  | [a, b, c, d, e, f, g, h] =>
    let s1 := rotr w e (shaC w 3) ^^^ rotr w e (shaC w 4) ^^^ rotr w e (shaC w 5)
    let ch := (e &&& f) ^^^ ((2 ^ w - 1 - e) &&& g)
    let t1 := h + s1 + ch + kw
    let s0 := rotr w a (shaC w 0) ^^^ rotr w a (shaC w 1) ^^^ rotr w a (shaC w 2)
    let mj := (a &&& b) ^^^ (a &&& c) ^^^ (b &&& c)
    [(t1 + s0 + mj) % 2 ^ w, a, b, c, (d + t1) % 2 ^ w, e, f, g]
  | _ => v

/-- The SHA-2 compression of one block into a chaining value, for words of `w` bits. -/
def sha2Block (w : Nat) (h : List Nat) (blk : List Byte) : List Nat :=
  let n := if w = 32 then 64 else 80
  let m := (List.range 16).map fun i => beNat (slice blk (i * (w / 8)) (w / 8))
  let ws := (shaSchedule w (n - 16) m.reverse).reverse
  let kws := (ws.zip shaK).map fun x => x.1 + x.2 / 2 ^ (64 - w)
  let v := kws.foldl (shaRound w) h
  (h.zip v).map fun x => (x.1 + x.2) % 2 ^ w

-- ## SHA-3

/-- One bit of the round-constant register of Keccak. -/
def keccakRc (t : Nat) : Nat :=
  (List.range (t % 255)).foldl (fun r _ => let r := 2 * r; if 256 ≤ r then r ^^^ 0x171 else r) 1 % 2

/-- The round constant of round `i`. -/
def keccakRound (i : Nat) : Nat := (List.range 7).foldl (fun a j => a + keccakRc (j + 7 * i) * 2 ^ (2 ^ j - 1)) 0

/-- Rotate a lane left. -/
def rotl (x n : Nat) : Nat := if n % 64 = 0 then x else rotr 64 x (64 - n % 64)

/-- ρ and π as a list of lane, next lane and rotation. -/
def keccakPath : List (Nat × Nat × Nat) :=
  ((List.range 24).foldl (fun (acc : List (Nat × Nat × Nat) × Nat × Nat) t =>
    let (l, x, y) := acc
    let (x2, y2) := (y, (2 * x + 3 * y) % 5)
    (l ++ [(x + 5 * y, x2 + 5 * y2, (t + 1) * (t + 2) / 2 % 64)], x2, y2)) ([], 1, 0)).1

/-- Keccak-f[1600] on 25 lanes. -/
def keccakF (a : List Nat) : List Nat :=
  (List.range 24).foldl (fun a i =>
    let g := fun (l : List Nat) (k : Nat) => l[k]?.getD 0
    let c := (List.range 5).map fun x => g a x ^^^ g a (x + 5) ^^^ g a (x + 10) ^^^ g a (x + 15) ^^^ g a (x + 20)
    let a := (List.range 25).map fun k => g a k ^^^ g c ((k + 4) % 5) ^^^ rotl (g c ((k + 1) % 5)) 1
    let b := keccakPath.foldl (fun b p => setNth b p.2.1 (rotl (g a p.1) p.2.2)) a
    let r := (List.range 25).map fun k =>
      let y := k / 5 * 5
      g b k ^^^ ((2 ^ 64 - 1 - g b (y + (k + 1) % 5)) &&& g b (y + (k + 2) % 5))
    setNth r 0 (g r 0 ^^^ keccakRound i)) a

/-- Absorb one block. -/
def keccakBlock (a : List Nat) (blk : List Byte) : List Nat :=
  keccakF ((List.range 25).map fun k => (a[k]?.getD 0) ^^^ leNat (slice blk (8 * k) 8))

-- ## The algorithms of Table 1

/-- What an algorithm without its key is: the digest that an HMAC applies. -/
def baseAlg (a : Nat) : Nat := match a with | 5 => 0 | 6 => 1 | 7 => 2 | _ => a
/-- Digest bytes. -/
def digestBytes (a : Nat) : Nat := match baseAlg a with | 0 => 32 | 1 => 48 | 2 => 64 | 3 => 32 | 4 => 64 | 8 => 4 | _ => 8
/-- Block bytes. -/
def blockBytes (a : Nat) : Nat := match baseAlg a with | 0 => 64 | 1 => 128 | 2 => 128 | 3 => 136 | 4 => 72 | _ => 64

/-- CRC-64/ECMA-182, most significant bit first. -/
def crc64 (c : Nat) (bs : List Byte) : Nat :=
  bs.foldl (fun c b => (List.range 8).foldl (fun c _ => if 2 ^ 63 ≤ c then (2 * c % 2 ^ 64) ^^^ 0x42F0E1EBA9EA3693 else 2 * c)
    (c ^^^ (b.toNat * 2 ^ 56))) c

/-- A running digest: chaining words, the bytes of an incomplete block, and the bytes digested. -/
structure HashSt where
  chain : List Nat
  buf : List Byte
  total : Nat
  deriving DecidableEq, Repr

/-- The start of a stream. -/
def hashInit (a init : Nat) : HashSt :=
  { chain := match baseAlg a with
      | 0 => (shaRoot.take 8).map (· / 2 ^ 32)
      | 1 => shaRoot.drop 8
      | 2 => shaRoot.take 8
      | 3 => List.replicate 25 0
      | 4 => List.replicate 25 0
      | 8 => [init % 2 ^ 32]
      | _ => [init % 2 ^ 64]
    buf := [], total := 0 }

/-- Digest one block. -/
def hashBlock (a : Nat) (h : List Nat) (blk : List Byte) : List Nat :=
  match baseAlg a with
  | 0 => sha2Block 32 h blk
  | 1 => sha2Block 64 h blk
  | 2 => sha2Block 64 h blk
  | 3 => keccakBlock h blk
  | 4 => keccakBlock h blk
  | 8 => [crc32c (h.head?.getD 0) blk]
  | _ => [crc64 (h.head?.getD 0) blk]

/-- Digest bytes after those before. -/
def hashMore (a : Nat) (H : HashSt) (bs : List Byte) : HashSt :=
  let l := H.buf ++ bs
  let k := blockBytes a
  let n := l.length / k
  { chain := (List.range n).foldl (fun h i => hashBlock a h (slice l (i * k) k)) H.chain, buf := l.drop (n * k), total := H.total + bs.length }

/-- The digest of a stream that ends here, first byte first. -/
def hashEnd (a : Nat) (H : HashSt) : List Byte :=
  let sha2 := fun (w : Nat) =>
    let k := blockBytes a
    let pad := H.buf ++ [0x80]
    let z := roundUp (pad.length + w / 4) k - pad.length - w / 4
    let l := pad ++ zeros z ++ beBytes (w / 4) (8 * H.total)
    let h := (List.range (l.length / k)).foldl (fun h i => hashBlock a h (slice l (i * k) k)) H.chain
    (h.flatMap (beBytes (w / 8))).take (digestBytes a)
  match baseAlg a with
  | 0 => sha2 32
  | 1 => sha2 64
  | 2 => sha2 64
  | 8 => leBytes 4 (crc32c (H.chain.head?.getD 0) H.buf)
  | 9 => leBytes 8 (crc64 (H.chain.head?.getD 0) H.buf)
  | _ =>
    let k := blockBytes a
    let l := H.buf ++ [0x06] ++ zeros (k - 1 - H.buf.length)
    let l := l.take (k - 1) ++ [(l[k - 1]?.getD 0) ||| 0x80]
    ((keccakBlock H.chain l).flatMap (leBytes 8)).take (digestBytes a)

/-- The digest of a byte string. -/
def digest (a init : Nat) (bs : List Byte) : List Byte := hashEnd a (hashMore a (hashInit a init) bs)

/-- HMAC of a byte string under a key of at most a block (FIPS 198-1). -/
def hmac (a : Nat) (key bs : List Byte) : List Byte :=
  let k := key ++ zeros (blockBytes a - key.length)
  digest a 0 (k.map (· ^^^ 0x5C) ++ digest a 0 (k.map (· ^^^ 0x36) ++ bs))

-- ## Saved state (R321)

/-- Bytes of a chaining word. -/
def chainWord (a : Nat) : Nat := if baseAlg a = 0 then 4 else 8
/-- Chaining words. -/
def chainLen (a : Nat) : Nat := match baseAlg a with | 0 => 8 | 1 => 8 | 2 => 8 | 3 => 25 | 4 => 25 | _ => 1

/-- The private part of a state area: the chaining words and the incomplete block, under the stepping's mask. -/
def privBytes (bs : List Byte) : List Byte := (List.range bs.length).map fun i => (bs[i]?.getD 0) ^^^ Config.privByte i

/-- The 1 KiB of a state area. -/
def saveHash (a : Nat) (H : HashSt) : List Byte :=
  let p := H.chain.flatMap (beBytes (chainWord a)) ++ H.buf
  [0x58, 0x56, 0x44, 0x53, 1] ++ leBytes 1 a ++ zeros 2 ++ leBytes 8 H.total ++ privBytes (p ++ zeros (1008 - p.length))

/-- The running digest that a state area holds. -/
def loadHash (a : Nat) (bs : List Byte) : HashSt :=
  let w := chainWord a
  let p := privBytes (slice bs 16 1008)
  let total := fieldAt bs 8 8
  { chain := (List.range (chainLen a)).map fun i => beNat (slice p (i * w) w), buf := slice p (chainLen a * w) (total % blockBytes a)
    total := total }

/-- Whether a state area is one of an algorithm. -/
def stateOk (a : Nat) (bs : List Byte) : Bool := bs.take 5 == [0x58, 0x56, 0x44, 0x53, 1] && fieldAt bs 5 1 == a

-- ## ECDSA P-384

/-- The field prime. -/
def p384 : Nat := 2 ^ 384 - 2 ^ 128 - 2 ^ 96 + 2 ^ 32 - 1
/-- The order of the base point. -/
def n384 : Nat := 0xFFFFFFFFFFFFFFFFFFFFFFFFFFFFFFFFFFFFFFFFFFFFFFFFC7634D81F4372DDF581A0DB248B0A77AECEC196ACCC52973
/-- The curve constant b. -/
def b384 : Nat := 0xB3312FA7E23EE7E4988E056BE3F82D19181D9C6EFE8141120314088F5013875AC656398D8A2ED19D2A85C8EDD3EC2AEF
/-- The base point. -/
def g384 : Nat × Nat :=
  (0xAA87CA22BE8B05378EB1C71EF320AD746E1D3B628BA79B9859F741E082542A385502F25DBF55296C3A545E3872760AB7,
   0x3617DE4A96262C6F5D9E98BF9292DC29F8F41DBD289A147CE9DA3113B5F0B8C00A60B1CE1D7E819D7A431D7C90EA0E5F)

/-- x^e modulo m, over `k` bits of e. -/
def powMod (m : Nat) : Nat → Nat → Nat → Nat → Nat
  | 0, _, _, r => r
  | k + 1, x, e, r => powMod m k (x * x % m) (e / 2) (if e % 2 = 1 then r * x % m else r)

/-- The inverse modulo a prime. -/
def invMod (m x : Nat) : Nat := powMod m 384 (x % m) (m - 2) 1

/-- A point: none at infinity. -/
abbrev Pt := Option (Nat × Nat)

/-- Point addition. -/
def ptAdd (a b : Pt) : Pt :=
  match a, b with
  | none, q => q
  | q, none => q
  | some (x1, y1), some (x2, y2) =>
    if x1 = x2 && (y1 + y2) % p384 = 0 then none
    else
      let l := if x1 = x2 then (3 * x1 * x1 + (p384 - 3)) * invMod p384 (2 * y1) % p384
        else (y2 + p384 - y1) * invMod p384 (x2 + p384 - x1) % p384
      let x := (l * l + 2 * p384 - x1 - x2) % p384
      some (x, (l * (x1 + p384 - x) + p384 - y1) % p384)

/-- k times a point, over `n` bits of k. -/
def ptMul : Nat → Nat → Pt → Pt → Pt
  | 0, _, _, r => r
  | n + 1, k, q, r => ptMul n (k / 2) (ptAdd q q) (if k % 2 = 1 then ptAdd r q else r)

/-- Verify a signature (r and s, 48 bytes each) over a message with SHA-384 under an uncompressed SEC1 key. -/
def ecdsaOk (key sig msg : List Byte) : Bool :=
  let x := beNat (slice key 1 48)
  let y := beNat (slice key 49 48)
  let r := beNat (sig.take 48)
  let s := beNat (slice sig 48 48)
  let z := beNat (digest 1 0 msg)
  let onCurve := decide (x < p384) && decide (y < p384) && y * y % p384 == (x * x * x + (p384 - 3) * x + b384) % p384
  if (key.head?.getD 0) ≠ 4 || !onCurve || r = 0 || s = 0 || n384 ≤ r || n384 ≤ s then false
  else
    let w := invMod n384 s
    match ptAdd (ptMul 384 (z * w % n384) (some g384) none) (ptMul 384 (r * w % n384) (some (x, y)) none) with
    | none => false
    | some (x, _) => x % n384 == r

end Sys2Proof.Machine
end

