-- ==== Sys2Proof/Machine/Digest.lean ====
section
/-! DEFINITION. Digest engines (chapter 15): posting, admission, key slots, snooping, saved state, publication, management jobs and the
constant-time compare. -/

namespace Sys2Proof.Machine

/-- The digest doorbell's post of a value (R311). -/
def dgtPost (s : State) (t v : Nat) : Post := enginePost s t v .de 0xFFFD8 256 0xFFE00

-- ## The block (Table 2)

/-- alg. -/
def djAlg (j : EngJob) : Nat := bits (j.f 0 4) 0 4
/-- out. -/
def djOut (j : EngJob) : Nat := bits (j.f 0 4) 10 2
/-- final. -/
def djFinal (j : EngJob) : Bool := j.op 7
/-- resume. -/
def djResume (j : EngJob) : Bool := j.op 8
/-- keep. -/
def djKeep (j : EngJob) : Bool := j.op 9
/-- key_load. -/
def djKeyLoad (j : EngJob) : Bool := j.op 12
/-- bind. -/
def djBind (j : EngJob) : Nat := j.f 6 2
/-- A snoop job has bind.enable set (R312). -/
def djSnoop (j : EngJob) : Bool := bitOf (djBind j) 15
/-- Whether an algorithm is an HMAC. -/
def hmacAlg (a : Nat) : Bool := decide (5 ≤ a) && decide (a ≤ 7)
/-- An HMAC job. -/
def djHmac (j : EngJob) : Bool := hmacAlg (djAlg j) && !djKeyLoad j

-- ## Key slots (R314)

/-- A key slot. -/
def State.keySlot (s : State) (n : Nat) : KeySlot := Tab.get (if n = 0 then { owner := .mgmt } else {}) s.dgt.keys n
/-- Change the digest control block. -/
def State.updDgt (s : State) (f : DgtCtl → DgtCtl) : State := { s with dgt := f s.dgt }
/-- Replace a key slot. -/
def State.setKey (s : State) (n : Nat) (k : KeySlot) : State := s.updDgt fun D => { D with keys := Tab.set D.keys n k }

/-- Empty every slot that a parcel owns (R314). -/
def emptyKeys (s : State) (p : Nat) : State :=
  s.updDgt fun D => { D with keys := D.keys.map fun e => if e.2.owner = .parcel p then (e.1, { e.2 with key := none }) else e }

/-- The owner that an entry of DGT_KEY_OWN names (Table 11); none where the entry is ignored. -/
def keyOwnerOf (v i : Nat) : Option KeyOwner :=
  match bitOf v (8 * i + 6), bitOf v (8 * i + 7) with
  | true, true => none
  | true, false => some (.parcel (bits v (8 * i) 6))
  | false, true => some .mgmt
  | false, false => some .nobody

/-- A write of DGT_KEY_OWNj over the entries that it names. -/
def keyOwnWrite (s : State) (j v : Nat) (named : Nat → Bool) : State :=
  (List.range 8).foldl (fun s i =>
    let n := 8 * j + i
    match keyOwnerOf v i with
    | some o =>
      let k := s.keySlot n
      if n = 0 || !named i then s else s.setKey n { owner := o, num := BitVec.ofNat 6 (v / 2 ^ (8 * i)), key := if k.owner = o then k.key else none }
    | none => s) s

/-- DGT_KEY_OWN_WRITE. -/
def execDgtKeyOwnWrite (who : Who) (j : Fin 32) (value : Word) (s : State) : Host.Outcome State Fault Refusal :=
  ok (live s fun s => if isManager s who then keyOwnWrite s j.val value.toNat fun _ => true else s)

-- ## Public results (R326, R327)

/-- A public result slot; page 64 is the device page. -/
def State.pubSlot (s : State) (page slot : Nat) : PubSlot := Tab.get {} s.dgt.pub (32 * page + slot)

/-- Publish a digest: one whole publication moves seq by two. -/
def pubPut (s : State) (page slot alg source vintage : Nat) (d : List Byte) : State :=
  s.updDgt fun D => { D with pub := Tab.upd {} D.pub (32 * page + slot) fun P =>
    { digest := d, alg := alg, len := d.length, source := source, seq := (P.seq + 2) % 2 ^ 32, frame := s.frm.count, vintage := vintage } }

/-- Clear a parcel's page, seq included. -/
def pubClear (s : State) (page : Nat) : State :=
  s.updDgt fun D => { D with pub := D.pub.filter fun e => e.1 / 32 != page }

/-- The 128 bytes of a slot (Table 6). -/
def PubSlot.bytes (P : PubSlot) : List Byte :=
  P.digest ++ zeros (64 - P.digest.length) ++ leBytes 1 P.alg ++ leBytes 1 P.len ++ leBytes 1 P.source ++ zeros 1 ++ leBytes 4 P.seq
    ++ leBytes 8 P.frame.toNat ++ leBytes 2 P.vintage ++ zeros 46

-- ## Admission (R313, Table 4)

/-- A descriptor outside its ranges. -/
def djBad (j : EngJob) : Bool :=
  let a := djAlg j
  bits (j.f 0 4) 13 19 ≠ 0 || bits (djBind j) 12 3 ≠ 0 || !zeroAt j.blk 0x31 15 || 10 ≤ a || djOut j == 3
    || (djOut j == 1 && (decide (j.f 5 1 < 2) || decide (31 < j.f 5 1)))
    || ((djResume j || djKeep j) && j.f 0x18 8 % 1024 != 0) || (!djFinal j && !djKeep j)
    || (!djFinal j && j.f 0x10 8 % blockBytes a != 0) || (djSnoop j && (j.f 8 8 != 0 || j.f 0x10 8 != 0))
    || (!djFinal j && djOut j != 0) || 0x1000000000 < j.f 0x10 8

/-- A key length outside its range. -/
def djBadKeyLen (j : EngJob) : Bool :=
  djKeyLoad j && (!hmacAlg (djAlg j) || j.f 0x30 1 == 0 || decide (blockBytes (djAlg j) < j.f 0x30 1) || j.f 0x10 8 != j.f 0x30 1)

/-- What a key slot says to a job: status and reason of the first check that fails. -/
def keyCheck (s : State) (p : Nat) (j : EngJob) : Option (Nat × Nat) :=
  let k := s.keySlot (j.f 4 1)
  if !djHmac j && !djKeyLoad j then none
  else if k.owner ≠ .parcel p then some (sPERMISSION, 3)
  else if !djHmac j then none
  else
    match k.key with
    | none => some (sINVALID_FIELD, 4)
    | some (a, _) =>
      if a ≠ djAlg j then some (sINVALID_FIELD, 5)
      else if djResume j || djKeep j then some (sPERMISSION, 6)
      else none

/-- Whether bind names a channel that cannot be bound (R322). -/
def djBadBind (s : State) (p : Nat) (j : EngJob) : Bool :=
  djSnoop j && match (s.parcel p).pgroup (bits (djBind j) 0 8) with
    | none => true
    | some g =>
      let C := s.chan g (bits (djBind j) 8 4)
      C.busy || C.snoop.isSome || (bits (djBind j) 0 8 == 0 && bits (djBind j) 8 4 == 15)

/-- Read a state area of a job that resumes. -/
def readState (s : State) (e : Nat) (j : EngJob) (n : Nat) : Except UErr (List Byte) × State :=
  if djResume j then unitRead s (engUnit .de e) (j.f 0x18 8) n true .cellar else (.ok [], s)

/-- The checks at admission: status, reason and address of the first that fails. -/
def dgtCheck (s : State) (p e : Nat) (j : EngJob) : Option (Nat × Nat × Nat) × State :=
  if djBad j then (some (sINVALID_FIELD, 1, 0), s)
  else if djBadKeyLen j then (some (sINVALID_FIELD, 2, 0), s)
  else
    match keyCheck s p j with
    | some (c, r) => (some (c, r, 0), s)
    | none =>
      match readState s e j 16 with
      | (.error x, s) => let (c, r) := uerrCode x 0x0A 0x0B 0x0C; (some (c, r, x.va), s)
      | (.ok h, s) =>
        if djResume j && !stateOk (djAlg j) h then (some (sINVALID_FIELD, 7, 0), s)
        else if djBadBind s p j then (some (sINVALID_FIELD, 8, 0), s)
        else (none, s)

/-- Bytes per tile cycle (Table 1), as a fraction. -/
def dgtRate (a : Nat) : Nat × Nat :=
  match baseAlg a with | 0 => (20, 3) | 1 => (10, 1) | 2 => (10, 1) | 3 => (25, 3) | 4 => (35, 8) | _ => (160, 3)

/-- The model duration T (R318). -/
def dgtCycles (j : EngJob) : Nat :=
  let (n, d) := dgtRate (djAlg j)
  let core := ceilDiv (j.f 0x10 8 * d) n
  1200 + core + (if hmacAlg (djAlg j) then 64 else 0) + 128 * (b2n (djResume j) + b2n (djKeep j)) + 2048 * (1 + core / 65536)

-- ## Publication (R300, R323, R325)

/-- The completion record. -/
def dgtRecord (j : EngJob) (o : JobOutcome) : List Byte :=
  let d := if djOut j = 2 then [] else o.digest
  leBytes 8 o.inUsed ++ leBytes 8 j.due ++ leBytes 8 o.faultVa ++ leBytes 1 o.code ++ leBytes 1 o.reason ++ leBytes 1 o.flags
    ++ leBytes 1 d.length ++ zeros 4 ++ d ++ zeros (64 - d.length) ++ zeros 95

/-- Publish a job. -/
def dgtPublish (s : State) (p e : Nat) (j : EngJob) (o : JobOutcome) : State :=
  let done := o.code == sSUCCESS
  let s := putAll s o.writes
  let s := s.tsWrite j.tile (j.off + 0x40) (dgtRecord j o ++ [if done then 1 else 2])
  let s := if done && djOut j == 1 && !djKeyLoad j then pubPut s p (j.f 5 1) (djAlg j) 2 (s.parcel p).vintage o.digest else s
  let s := if done && djKeyLoad j && decide ((s.keySlot (j.f 4 1)).owner = .parcel p) then
      s.setKey (j.f 4 1) { s.keySlot (j.f 4 1) with key := some (djAlg j, o.key) } else s
  poisonJob (countJob s .de e j o.code o.reason o.inUsed 0 o.faultVa j.due (bits o.flags 1 2 == 2)) p o.code

-- ## The end of a job (R315, R320, R325, R329)

/-- How a job fails on an access, with the bytes it had digested. -/
def dgtFail (j : EngJob) (x : UErr) (used : Nat) : JobOutcome :=
  let (c, r) := uerrCode x 0x0A 0x0B 0x0C
  { code := c, reason := r, inUsed := used, faultVa := x.va, flags := b2n j.suspendedOnce }

/-- The digest of a job's bytes, and its final running state. -/
def dgtValue (j : EngJob) (st input : List Byte) : List Byte × HashSt :=
  let a := djAlg j
  let H := hashMore a (if djResume j then loadHash a st else hashInit a (j.f 0x20 8)) input
  (if djHmac j then hmac a j.key input else hashEnd a H, H)

/-- Whether a job writes a state area: a KEY_LOAD's state is keyed, which never goes to memory (R314, R321). -/
def djSaves (j : EngJob) : Bool := djKeep j && !djKeyLoad j

/-- Finish a job whose bytes are all there, from the state it resumed. The state area is written at the publication (R317). -/
def dgtFinish (s : State) (e : Nat) (j : EngJob) (st input : List Byte) : JobOutcome × State :=
  let u := engUnit .de e
  let (d, H) := dgtValue j st input
  let (ex, s) := if djOut j = 2 && djFinal j && !djKeyLoad j then unitRead s u (j.f 0x28 8) 64 false .cellarOrTiles else (.ok [], s)
  match ex with
  | .error x => (dgtFail j x input.length, s)
  | .ok ex =>
    let (pl, s) := if djSaves j then unitPlaces s u (j.f 0x18 8) 1024 .cellar else (.ok [], s)
    match pl with
    | .error x => (dgtFail j x input.length, s)
    | .ok pl =>
      let cmp := if ex.isEmpty then 0 else if d ++ zeros (64 - d.length) == ex then 1 else 2
      ({ code := sSUCCESS, reason := 0, inUsed := input.length, flags := b2n j.suspendedOnce + 2 * cmp
         digest := if djFinal j && !djKeyLoad j then d else []
         key := if djKeyLoad j then input else []
         writes := if djSaves j then layOut pl (saveHash (djAlg j) H) else [] }, s)

/-- Digest bytes up to what stopped their delivery, after the state that the job resumes. Of the bytes before a stop, how many were digested is
free: the engine works in blocks. -/
def dgtBytes (s : State) (e : Nat) (j : EngJob) (st input : List Byte) (stop : Option UErr) : JobOutcome × State :=
  match stop with
  | none => dgtFinish s e j st input
  | some x => (dgtFail j x (freeNat s 0 64 % (input.length + 1)), { s with freeCtr := s.freeCtr + 1 })

/-- Run a job over memory to its end. -/
def dgtRun (s : State) (e : Nat) (j : EngJob) : JobOutcome × State :=
  match readState s e j 1024 with
  | (.error x, s) => (dgtFail j x 0, s)
  | (.ok st, s) =>
    let (input, stop, s) := unitPrefix s (engUnit .de e) (j.f 8 8) (j.f 0x10 8) false .cellarOrTiles
    dgtBytes s e j st input stop

/-- Finalize a snoop job over the bytes that its channel fed it. -/
def dgtSnooped (s : State) (e : Nat) (j : EngJob) : JobOutcome × State :=
  match readState s e j 1024 with
  | (.error x, s) => (dgtFail j x 0, s)
  | (.ok st, s) => dgtBytes s e j st j.seen (j.seenPoison.map .poison)

/-- No job of a digest engine holds another back. -/
def noClash (_ _ : EngJob) : Bool := false
/-- The engine takes its next job, unless a management job runs on it. -/
def dgtPick (s : State) (e : Nat) : State :=
  s.updEng .de e fun E => if E.mjob.isSome then E else { E with jobs := runNext E.jobs noClash }

/-- Record how a job ended. -/
def dgtSet (e : Nat) (j : EngJob) (r : JobOutcome × State) : State :=
  r.2.updJob .de e j.post fun j => { j with outcome := some r.1, running := false }

/-- The snoop job whose bound transfer has ended with done, and which has not finalized. -/
def Engine.snoopDone (E : Engine) : Option EngJob := E.jobs.find? fun j => j.snoop && j.ended && j.outcome.isNone

/-- DGT_JOB_END: the running job finishes, or a snoop job finalizes after its transfer. -/
def execDgtJobEnd (e : EngId) (s : State) : Host.Outcome State Fault Refusal :=
  ok (live s fun s => moving s .de e fun s =>
    match (s.eng .de e).snoopDone with
    | some j => dgtSet e j (dgtSnooped s e j)
    | none =>
      match (s.eng .de e).running with
      | some j => if j.snoop then s else dgtPick (dgtSet e j (dgtRun s e j)) e
      | none => s)

/-- DGT_JOB_SUSPEND: at a block boundary the running job makes way for one of higher priority (R317). -/
def execDgtJobSuspend (e : EngId) (s : State) : Host.Outcome State Fault Refusal :=
  ok (live s fun s => s.updEng .de e fun E => { E with jobs := suspendFor E.jobs noClash })

-- ## The boundary (R312, R313, R324)

/-- Unbind the channels that an engine snoops. -/
def unbindSnoop (s : State) (p e : Nat) : State :=
  (setBits 64 (s.parcel p).groups.toNat).foldl (fun s g =>
    s.updGroup g fun G =>
      { G with chans := G.chans.map fun c => (c.1, if c.2.snoop == some e then { c.2 with snoop := none, snoopLive := false } else c.2) }) s

/-- Admit one job. -/
def dgtAdmit (s : State) (p e A : Nat) (j : EngJob) : State :=
  let (bad, s) := dgtCheck s p e j
  let out := bad.map fun x => ({ code := x.1, reason := x.2.1, faultVa := x.2.2 } : JobOutcome)
  let key := match (s.keySlot (j.f 4 1)).key with | some (_, k) => if djHmac j then k else [] | none => []
  let j := { j with prio := bits (j.f 0 4) 4 3, outcome := out, key := key }
  if djSnoop j then
    match out with
    | some o => dgtPublish s p e { j with due := 0 } o
    | none =>
      let j := { j with admitted := true, start := A, snoop := true, running := true }
      let s := s.updEng .de e fun E => { E with jobs := admitLast E.jobs j }
      match (s.parcel p).pgroup (bits (djBind j) 0 8) with
      | some g => s.updChan g (bits (djBind j) 8 4) fun C => { C with snoop := some e, snoopLive := false }
      | none => s
  else
    let t := if out.isSome then 1200 else dgtCycles j
    s.updEng .de e fun E => { E with jobs := admitDue E.jobs j t A (pcycles s p) (fun _ => 512) (fun _ => false) }

/-- Admit queued jobs in order: a snoop job only onto an engine that holds no job and runs no management job, and nothing while one is held
(R312, R319). -/
def dgtAdmitAll (s : State) (p e A : Nat) : List EngJob → State
  | [] => s
  | j :: r =>
    let held := (s.eng .de e).jobs.filter (·.admitted)
    if held.any (·.snoop) || (djSnoop j && (!held.isEmpty || (s.eng .de e).mjob.isSome)) then s
    else dgtAdmitAll (dgtAdmit s p e A j) p e A r

/-- Publish what a boundary publishes: finished jobs that are due, and a snoop job whose transfer has ended. -/
def dgtPublishDue (s : State) (p e A : Nat) : State :=
  let s := match (s.eng .de e).snoopDone with
    | some j => dgtSet e j (dgtSnooped s e j)
    | none => s
  ((s.eng .de e).jobs.filter fun j => j.admitted && (if j.snoop then j.ended else decide (j.due ≤ A))).foldl (fun s j =>
    match j.outcome with
    | some o => dgtPublish s p e j o
    | none => lateJob s p .de e) s

/-- What a boundary that opens parcel frame `A` admits on a digest engine. While the image loader streams, its snoop job is ahead of
every queued job of virtual engine 0 (R324). -/
def dgtBoundary (s : State) (p e A : Nat) : State :=
  let E := s.eng .de e
  let P := s.parcel p
  match P.loader, P.peng .de 0 == some e with
  | some L, true =>
    if L.phase == .streaming then
      if E.jobs.any (·.admitted) || E.mjob.isSome then s else s.updParcel p fun P => { P with loader := P.loader.map fun L => { L with bound := true } }
    else dgtPick (dgtAdmitAll s p e A (sortBy (·.frame) (postOrder (E.jobs.filter fun j => !j.admitted)))) e
  | _, _ => dgtPick (dgtAdmitAll s p e A (sortBy (·.frame) (postOrder (E.jobs.filter fun j => !j.admitted)))) e

/-- The end of an EXECUTE discards held jobs; the state area of one that had finished and was not yet published is undefined (R302, R318). -/
def dgtDiscard (s : State) (p e : Nat) : State :=
  let s := (s.eng .de e).jobs.foldl (fun s j =>
    if djSaves j && (j.outcome.any fun o => o.code == sSUCCESS) then forgetVa s (engUnit .de e) (j.f 0x18 8) 1024 else s) s
  unbindSnoop (s.updEng .de e fun E => { E with jobs := [] }) p e

-- ## Management jobs (R319, R328)

/-- Free bytes. -/
def freeBytes (s : State) (n : Nat) : List Byte := (List.range n).map fun i => Config.freeByte s.freeCtr i

/-- MANAGEMENT_JOB_START: it runs above priority 7, on any present engine that holds no snoop job. -/
def execManagementJobStart (e : EngId) (job : MgmtJob) (s : State) : Host.Outcome State Fault Refusal :=
  ok (live s fun s =>
    let E := s.eng .de e
    if !engPresent s .de e || E.mjob.isSome || E.jobs.any (·.snoop) || loaderSnoops s e || 4096 < job.data.length then s
    else
      s.updEng .de e fun E => { E with
        mjob := some job
        jobs := E.jobs.map fun j => if j.running then { j with running := false, suspended := true, suspendedOnce := true } else j })

/-- The key of a management HMAC job, where the management complex owns the slot and it was loaded for that algorithm. -/
def mgmtKey (s : State) (m : MgmtJob) : Option (List Byte) :=
  let k := s.keySlot m.keySlot.toNat
  match k.owner, k.key with
  | .mgmt, some (a, b) => if a = m.alg.toNat then some b else none
  | _, _ => none

/-- The result of a management job and the state it leaves: free where the manual gives neither. -/
def mgmtValue (s : State) (m : MgmtJob) : List Byte × List Byte :=
  let a := m.alg.toNat
  let H := hashMore a (hashInit a (freeNat s 0 64)) m.data
  if hmacAlg a then (((mgmtKey s m).map fun k => hmac a k m.data).getD (freeBytes s (digestBytes a)), freeBytes s 448)
  else if a < 10 then (hashEnd a H, (saveHash a H).take 448)
  else (freeBytes s 64, freeBytes s 448)

/-- MANAGEMENT_JOB_DONE: the result is there, the event is raised, and the engine goes on with its jobs. -/
def execManagementJobDone (e : EngId) (s : State) : Host.Outcome State Fault Refusal :=
  ok (live s fun s =>
    match (s.eng .de e).mjob with
    | none => s
    | some m =>
      let n := m.keySlot.toNat
      let (r, st) := mgmtValue s m
      let s :=
        if m.keyLoad then
          if (s.keySlot n).owner = .mgmt then s.setKey n { s.keySlot n with key := some (m.alg.toNat, m.data) } else s
        else s.updEng .de e fun E => { E with mresult := r, mstate := st }
      let s := { s with freeCtr := s.freeCtr + 1 }
      dgtPick (raise (s.updEng .de e fun E => { E with mjob := none }) (1008 + e.val) 0 0) e)

-- ## The constant-time compare (R328)

/-- The value that DGT_CMP names, zero-padded. -/
def cmpValue (s : State) : List Byte :=
  let d := if s.dgt.cmpSrc then (s.pubSlot s.dgt.cmpPage s.dgt.cmpSlot).digest else (s.eng .de s.dgt.cmpEng).mresult
  d ++ zeros (64 - d.length)

/-- A write of DGT_CMP. -/
def dgtCmpWrite (s : State) (v : Word) : State :=
  s.updDgt fun D => { D with
    cmpSrc := fbit v 1, cmpEng := fld v 2 4, cmpPage := fld v 6 7, cmpSlot := fld v 13 5, cmpBusy := D.cmpBusy || fbit v 0
    cmpDone := D.cmpDone && !fbit v 0, cmpPass := D.cmpPass && !fbit v 0 }

/-- DGT_CMP_GO. -/
def execDgtCmpGo (who : Who) (value : Word) (s : State) : Host.Outcome State Fault Refusal :=
  ok (live s fun s => if isManager s who then dgtCmpWrite s (value ||| 1) else s)

/-- DGT_COMPARE_DONE: after 32 cycles the compare sets done and pass. -/
def execDgtCompareDone (s : State) : Host.Outcome State Fault Refusal :=
  ok (live s fun s =>
    if !s.dgt.cmpBusy then s
    else s.updDgt fun D => { D with cmpBusy := false, cmpDone := true, cmpPass := cmpValue s == D.expect })

end Sys2Proof.Machine
end

