-- ==== Sys2Proof/Machine/Cmd.lean ====
section
/-! DEFINITION. Commands (chapter 17): windows and their parcels, the checks of Table 2, acceptance, barriers, and how a command reaches
the structures and ranges it names. -/

namespace Sys2Proof.Machine

/-- A field of a command (Table 3). -/
def Cmd.f (c : Cmd) (off len : Nat) : Nat := fieldAt c.raw off len
/-- flags.space (R358). -/
def Cmd.space (c : Cmd) : Bool := bitOf (c.f 1 1) 1

-- ## Opcodes and windows (R353, Table 1)

/-- The groups of opcodes (Tables 4 to 7). -/
inductive OpGroup where
  | storage | query | memory | admin
  deriving DecidableEq, Repr

/-- The group of an opcode, none where it is not listed. -/
def opGroup (op : Nat) : Option OpGroup :=
  if op = 1 || op = 2 || op = 4 || op = 5 then some .storage
  else if 0x10 ≤ op && op ≤ 0x15 then some .query
  else if 0x20 ≤ op && op ≤ 0x22 then some .memory
  else if 0x40 ≤ op && op ≤ 0x4C then some .admin
  else none

/-- Whether a window takes commands at all: the other PF0's and an unbound VF's discard writes (R223, R224). -/
def winServed (s : State) (w : Window) : Bool :=
  if w.fn.val < 2 then w.fn.val == mgrFn s else (vfParcel s (w.fn.val - 1)).isSome

/-- Whether a window is the admin window. -/
def isAdminWin (s : State) (w : Window) : Bool := w.fn.val == mgrFn s && w.w.val == 0

/-- Whether a window accepts an opcode's group (check 1). -/
def winAccepts (s : State) (w : Window) (op : Nat) : Bool :=
  match opGroup op with
  | none => false
  | some g => winServed s w && ((g == .admin) == isAdminWin s w)

/-- The parcel of a window, while it is ACTIVE or RESETTING (R353, R411). -/
def winParcel (s : State) (w : Window) : Option Nat :=
  let p := if w.fn.val < 2 then (if (s.win w).wvalid && w.w.val ≠ 0 then some (s.win w).wparcel.toNat else none)
    else vfParcel s (w.fn.val - 1)
  p.filter fun p => (s.parcel p).st == .active || (s.parcel p).st == .resetting

/-- Whether a command is CANCEL, RESUME or QUERY_STATUS: never ordered, never held by a barrier (R363). -/
def isControl (op : Nat) : Bool := decide (0x13 ≤ op) && decide (op ≤ 0x15)

-- ## Checks 4 to 7 of Table 2

/-- The bits of a command byte that a field of the opcode uses (Tables 3 to 7). -/
def usedBits (op i : Nat) : Nat :=
  let r := fun (lo n : Nat) => decide (lo ≤ i) && decide (i < lo + n)
  let on := fun (b : Bool) => if b then 0xFF else 0
  if i < 4 then 0xFF
  else
    match op with
    | 0x01 => on (r 4 28)
    | 0x02 => on (r 4 28)
    | 0x04 => on (r 4 4)
    | 0x05 => on (r 4 16)
    | 0x10 => on (r 8 32)
    | 0x12 => on (r 8 20)
    | 0x13 => on (r 4 2)
    | 0x14 => on (r 4 2)
    | 0x15 => on (r 4 2)
    | 0x20 => if i = 0x22 then 0x1F else on (r 8 26 || r 0x24 2)
    | 0x21 => on (r 8 8 || r 0x18 8)
    | 0x22 => on (r 8 24)
    | 0x40 => on (r 8 12)
    | 0x41 => on (r 4 4)
    | 0x42 => on (r 4 6)
    | 0x43 => on (r 4 12)
    | 0x44 => on (r 4 16 || r 0x18 8)
    | 0x45 => on (r 4 12)
    | 0x46 => on (r 4 4)
    | 0x47 => on (r 4 2)
    | 0x48 => on (r 8 12 || r 0x18 8)
    | 0x49 => on (r 4 2)
    | 0x4A => on (r 8 12)
    | 0x4B => if i = 4 then 0x3F else 0
    | 0x4C => if i = 4 then 0x3F else 0
    | _ => 0

/-- The first byte that breaks check 4, if any: bits [7:2] of flags, then the bytes from 4 on. -/
def reservedByte (raw : List Byte) : Option Nat :=
  if 4 ≤ fieldAt raw 1 1 then some 1
  else
    let op := fieldAt raw 0 1
    ((List.range 60).map (· + 4)).find? fun i => fieldAt raw i 1 &&& (0xFF - usedBits op i) != 0

/-- Bytes below a descriptor of level `l`: a page size of R361. -/
def levelSpan (l : Nat) : Nat := 2 ^ (39 - 9 * l)

/-- The field that breaks the layout rules of R361, if any. -/
def mapLayout (raw : List Byte) : Option Nat :=
  let f := fieldAt raw
  let va := f 8 8
  let n := f 0x18 8
  let edge := fun (size : Nat) =>
    if va % size ≠ 0 then some 0x08 else if n = 0 || n % size ≠ 0 || 2 ^ 48 < va + n then some 0x18 else none
  if f 0 1 = 0x21 then edge 4096
  else
    let page := f 0x20 1
    let out := f 0x10 8
    if 4 ≤ page then
      if f 0x21 1 ≠ 0 then some 0x21
      else if f 0x22 1 ≠ 0 then some 0x22
      else if f 0x24 2 ≠ 0 then some 0x24
      else if n ≠ levelSpan (6 - page) then some 0x18
      else if out % 4096 ≠ 0 then some 0x10
      else edge (levelSpan (6 - page))
    else
      let size := levelSpan (3 - page)
      if f 0x21 1 = 2 && page ≠ 0 then some 0x20
      else if f 0x21 1 = 1 && !bitOf (f 0x22 1) 4 then some 0x22
      else if out % size ≠ 0 || (f 0x21 1 = 1 && 2 ^ 50 < out + n) then some 0x10
      else edge size

/-- Bytes of the window that MAP may name: the slices without their reserved tops (R410). -/
def Parcel.usable (P : Parcel) : Nat := P.smap.length * (sliceBytes - P.rs)

/-- Bytes of output that a MAP names: those of its range, or the page of a table (R361, R264). -/
def mapBytes (raw : List Byte) : Nat := if 4 ≤ fieldAt raw 0x20 1 then 4096 else fieldAt raw 0x18 8

/-- Whether the output of a MAP is one that its kind allows (R361, R263): within the parcel's window below the reserved tops, or on a tile of
the parcel, which no absent tile is. -/
def mapOutOk (s : State) (p : Nat) (raw : List Byte) : Bool :=
  let out := fieldAt raw 0x10 8
  match fieldAt raw 0x21 1 with
  | 0 => decide (out + mapBytes raw ≤ (s.parcel p).usable)
  | 1 => true
  | _ => bits out 21 3 == 0 && bits out 32 32 == 0 && (s.parcel p).quads.getLsbD (quadOf (bits out 24 8))
      && decide (bits out 0 20 + mapBytes raw ≤ 0x100000)

/-- The first field out of its range (check 7), by its offset. -/
def rangeField (s : State) (p : Option Nat) (raw : List Byte) : Option Nat :=
  let f := fieldAt raw
  let op := f 0 1
  let out := fun (off len lo hi : Nat) => if lo ≤ f off len && f off len ≤ hi then none else some off
  let nsid := fun (all : Bool) => if all && f 4 4 = 0xFFFFFFFF then none else out 4 4 0 1023
  let host := fun (off : Nat) => if bitOf (f 1 1) 1 then none else out off 8 0 (2 ^ 50 - 1)
  let rw := (nsid false).or ((out 0x10 4 1 65536).or ((out 0x14 4 0 4096).or (host 0x18)))
  match op with
  | 0x01 => rw
  | 0x02 => rw
  | 0x04 => nsid true
  | 0x05 => (nsid false).or (out 0x10 4 1 0xFFFFFFFF)
  | 0x10 => (out 0x10 8 64 0x10000000).or ((if f 0x18 8 % 4096 = 0 then none else some 0x18).or (host 8))
  | 0x12 => (out 0x10 4 0 0x100000).or ((if f 0x14 4 + 32 * f 0x18 4 ≤ f 0x10 4 then none else some 0x14).or (host 8))
  | 0x20 => (out 0x20 1 0 6).or ((out 0x21 1 0 2).or ((mapLayout raw).or
      (match p with | some p => if mapOutOk s p raw then none else some 0x10 | none => none)))
  | 0x21 => mapLayout raw
  | 0x22 => out 0x18 8 1 (2 ^ 40)
  | 0x40 => host 8
  | 0x41 => nsid false
  | 0x42 => (nsid false).or ((out 8 1 0 63).or (out 9 1 0 1))
  | 0x43 => (nsid true).or (host 8)
  | 0x44 => some 4
  | 0x45 => some 4
  | 0x46 => some 4
  | 0x47 => (out 4 1 0 15).or ((out 5 1 0 1).or (if caskPresent s (f 4 1) then none else some 4))
  | 0x48 => host 8
  | 0x49 => (out 4 1 0 1).or (out 5 1 0 1)
  | 0x4A => host 8
  | _ => none

/-- The detail of a check of the command: source 1, reason and field. -/
def cmdDetail (reason sub : Nat) : List Byte := detail reason 1 0 sub 0

/-- Checks 4 to 9 of Table 2: the status and detail of the first that fails. -/
def fieldChecks (s : State) (w : Window) (raw : List Byte) : Option (Nat × List Byte) :=
  let op := fieldAt raw 0 1
  match reservedByte raw with
  | some i => some (sINVALID_FIELD, cmdDetail 1 i)
  | none =>
    if isControl op && bitOf (fieldAt raw 1 1) 0 then some (sINVALID_FIELD, cmdDetail 2 1)
    else if opGroup op = some .admin && bitOf (fieldAt raw 1 1) 1 then some (sINVALID_FIELD, cmdDetail 3 1)
    else
      match rangeField s (winParcel s w) raw with
      | some i => some (sINVALID_FIELD, cmdDetail 4 i)
      | none =>
        if 1024 ≤ outstanding s w then some (sQUEUE_FULL, cmdDetail 0 0)
        else if s.cmds.any fun c => c.win == w && c.tag == fieldAt raw 2 2 then some (sINVALID_FIELD, cmdDetail 5 2)
        else none

/-- Complete a command that is not accepted. -/
def refuseCmd (s : State) (w : Window) (raw : List Byte) (p : Option Nat) (status : Nat) (det : List Byte) : State :=
  let v := match p with | some p => (s.parcel p).vintage | none => 0
  postPennant s w {
    bytes := pennantBytes (fieldAt raw 2 2) status 0 (fieldAt raw 0 1) w.w.val v s.frm.count det, cmd := none, vintage := v, parcel := p }

-- ## Acceptance (R356, R401, R402)

/-- Whether a power-state exit of a parcel is under way. -/
def exiting (s : State) (p : Nat) : Bool := s.cmds.any fun c => c.parcel == some p && c.wake

/-- Whether a parcel has no path on which an image could be read (R59). -/
def Parcel.noLoaderPath (P : Parcel) : Bool := P.groups == 0 || P.de == 0

/-- Accept a command: an accepted command wakes its parcel and the engine, and a command other than CANCEL, RESUME and QUERY_STATUS
waits for the exit. A LOAD_IMAGE of a parcel without a loader path is rejected as soon as it is accepted (R59). -/
def acceptCmd (s : State) (w : Window) (raw : List Byte) (p : Option Nat) (data : List Byte) : State :=
  let asleep := match p with | some p => decide ((s.parcel p).ps ≠ 0) || exiting s p | none => false
  let c : Cmd := {
    win := w, tag := fieldAt raw 2 2, opcode := fieldAt raw 0 1, ordered := bitOf (fieldAt raw 1 1) 0, raw := raw, parcel := p
    vintage := match p with | some p => (s.parcel p).vintage | none => 0
    seq := s.accepted, phase := .held, data := data, wake := asleep && !isControl (fieldAt raw 0 1) }
  let s := { s with cmds := s.cmds ++ [c], accepted := s.accepted + 1, pwr := { s.pwr with ps4 := false } }
  match p with
  | some p =>
    let s := s.updParcel p fun P => { P with ps := 0 }
    if c.opcode = 0x10 && (s.parcel p).noLoaderPath then endCmd s c sIMAGE_REJECTED (detail 0x1C 9 0xFFFF 0 0) else s
  | none => s

/-- The engine takes the command that a window has latched: the checks of Table 2 in order, then acceptance. -/
def takeLatched (s : State) (w : Window) (data : List Byte) : State :=
  let raw := (s.win w).latched
  let op := fieldAt raw 0 1
  let s := s.updWin w fun W => { W with busy := false, latched := [] }
  let p := if isAdminWin s w then none else winParcel s w
  if !winAccepts s w op then refuseCmd s w raw p sINVALID_OPCODE (cmdDetail 0 0)
  else if opGroup op = some .admin then
    match fieldChecks s w raw with
    | some (st, d) => refuseCmd s w raw none st d
    | none => acceptCmd s w raw none data
  else
    match p with
    | none => refuseCmd s w raw none sPERMISSION (cmdDetail 6 0)
    | some q =>
      if (s.parcel q).st == .resetting then refuseCmd s w raw p sPARCEL_RESET (cmdDetail 0 0)
      else
        match fieldChecks s w raw with
        | some (st, d) => refuseCmd s w raw p st d
        | none => acceptCmd s w raw p data

/-- The opcode that a busy window has latched. -/
def latchedOp (s : State) (w : Window) : Option Nat :=
  if (s.win w).busy && winServed s w then some (fieldAt (s.win w).latched 0 1) else none

-- ## Barriers and older vintages (R363, R414)

/-- Accesses of a parcel that carry an older vintage and have not ended, by vintage (PCL_INFLIGHT_OLD). -/
def inflightOld (s : State) (p : Nat) : List Nat :=
  (s.groups.flatMap fun kg => kg.2.chans.flatMap fun kc => (kc.2.old.filter fun o => o.parcel == p).map (·.vintage))
    ++ (s.reds.filter fun r => r.parcel == p && r.vintage != (s.parcel p).vintage).map (·.vintage)
    ++ s.sto.reads.filterMap fun r => match r.old with | some (q, v) => if q = p then some v else none | none => none

/-- Whether a held command may start: no earlier command of its window holds it. -/
def released (s : State) (c : Cmd) : Bool :=
  let before := (s.cmds.takeWhile fun d => d.seq != c.seq).filter fun d => d.win == c.win && d.phase != .decided
  isControl c.opcode || (!(before.any (·.ordered)) && (!c.ordered || before.isEmpty))

/-- Whether a command waits for older vintages of its parcel to drain: a Query or Memory command that would act. -/
def drains (s : State) (c : Cmd) : Bool :=
  match c.parcel with
  | none => false
  | some p => (opGroup c.opcode == some .query || opGroup c.opcode == some .memory) && !isControl c.opcode && !(inflightOld s p).isEmpty

/-- Whether a command is ready to begin. -/
def Cmd.ready (s : State) (c : Cmd) : Bool := c.phase == .waiting && !c.begun && !c.wake && !drains s c

-- ## What a command names (R358)

/-- A failure of an address that a command names: the status, and the address. -/
structure CmdErr where
  status : Nat
  va : Nat
  deriving DecidableEq, Repr

/-- The status of a failed translation of a command's address. -/
def cmdExcStatus (e : Exc) : Nat :=
  match e.idx with
  | 1 => sPERMISSION
  | 2 => sWALK_BUS_ERROR
  | 3 => sDEVICE_REGION_WALK
  | _ => sTRANSLATION_FAULT

/-- A walk for a command, which keeps no translation: at most four descriptors. -/
def cmdWalk : Nat → State → Nat → Walk → Except Exc TlbEntry
  | 0, _, _, w => .error (walkExc 0 3 3 w.va 0 0 0)
  | n + 1, s, p, w =>
    match (walkRead s (.group 0) p w .clean false).1 with
    | .deeper w' => cmdWalk n s p w'
    | .leaf e => .ok e
    | .fail e => .error e

/-- Translate an address of a command through its parcel's tables. -/
def cmdXlat (s : State) (p va : Nat) (k : AccessKind) : Except CmdErr Nat :=
  if 2 ^ 48 ≤ va then .error { status := sTRANSLATION_FAULT, va := va }
  else
    match cmdWalk 4 s p { va := va, kind := k, level := 0, table := (s.parcel p).root } with
    | .error e => .error { status := cmdExcStatus e, va := va }
    | .ok e =>
      let dpa := e.base + va % 2 ^ e.sizeLog2
      match permReason s p e k dpa with
      | some _ => .error { status := sPERMISSION, va := va }
      | none => .ok dpa

/-- Whether an address lies in the cellar, by either view. -/
def inCellar (a : Nat) : Bool :=
  match place a with
  | .cellar _ => true
  | .window _ _ => true
  | _ => false

/-- Where a range of a command lies, run by run: readable, writable where `wr` is set, and cellar only where `cell` is set. -/
def cmdPlaces (s : State) (p va n : Nat) (wr cell : Bool) (rd : Bool := true) : Except CmdErr (List (Nat × Nat)) :=
  (pageRuns va n).foldl (fun acc run =>
    match acc with
    | .error e => .error e
    | .ok l =>
      match (if rd then cmdXlat s p run.1 .load else cmdXlat s p run.1 .store) with
      | .error e => .error e
      | .ok dpa =>
        match (if wr then cmdXlat s p run.1 .store else .ok dpa) with
        | .error e => .error e
        | .ok _ =>
          if cell && !inCellar dpa then .error { status := sPERMISSION, va := run.1 } else .ok (l ++ [(dpa, run.2)])) (.ok [])

/-- What the read of a run for a command ends in, where it delivers no data: the status, and the offset of the byte it concerns (R358). -/
def runFailure (s : State) (a n : Nat) : Option (Nat × Nat) :=
  match readEnd s a n with
  | .good => none
  | .poisoned => some (sPOISONED, (poisonIn s a n).getD 0)
  | _ => some (sDMA_BUS_ERROR, 0)

/-- Read placed runs: bytes, and the first failure with its offset. -/
def readPlaces (s : State) (l : List (Nat × Nat)) : List Byte × Option (Nat × Nat) × State :=
  l.foldl (fun (acc : List Byte × Option (Nat × Nat) × State) r =>
    let s := acc.2.2
    let bad := (runFailure s r.1 r.2).map fun x => (x.1, x.2 + acc.1.length)
    let (b, _, s) := fabricRead s r.1 r.2
    (acc.1 ++ b, acc.2.1.or bad, s)) ([], none, s)

/-- Read a parcel range for a command: bytes, or the failure and its offset in the range. -/
def cmdRead (s : State) (p va n : Nat) : Except (CmdErr × Nat) (List Byte) × State :=
  match cmdPlaces s p va n false false with
  | .error e => (.error (e, e.va - va), s)
  | .ok l =>
    match readPlaces s l with
    | (_, some x, s) => (.error ({ status := x.1, va := va + x.2 }, x.2), s)
    | (bs, none, s) => (.ok bs, s)

/-- The port on which a window reaches its host. -/
def winPort (s : State) (w : Window) : Nat := fnPort s w.fn.val

/-- The structure a command points to: the offset of its address field, and its length. -/
def Cmd.structure_ (c : Cmd) : Option (Nat × Nat) :=
  match c.opcode with
  | 0x01 => if c.f 0x14 4 = 0 then none else some (0x18, 16 * c.f 0x14 4)
  | 0x02 => if c.f 0x14 4 = 0 then none else some (0x18, 16 * c.f 0x14 4)
  | 0x12 => if c.f 0x10 4 = 0 then none else some (8, c.f 0x10 4)
  | 0x40 => some (8, 64)
  | 0x48 => if c.f 0x10 4 = 0 then none else some (8, c.f 0x10 4)
  | 0x4A => some (8, 128)
  | _ => none

/-- The detail of a failed read of a structure (Table 12). -/
def structDetail (off addr : Nat) : List Byte := detail 0 1 1 off addr

/-- Read the structure of a command of a parcel address; a host address is read by COMMAND_DATA_READ. -/
def fetchNow (s : State) (c : Cmd) : State :=
  match c.structure_, c.parcel with
  | none, _ => s.updCmd c.seq fun c => { c with fetched := some [] }
  | some (off, n), some p =>
    if !c.space then s
    else
      match cmdRead s p (c.f off 8) n with
      | (.ok bs, s) => s.updCmd c.seq fun c => { c with fetched := some bs }
      | (.error (e, i), s) => endCmd s c e.status (structDetail i e.va)
  | some _, none => s

end Sys2Proof.Machine
end

