-- ==== Sys2Proof/Machine/Tables.lean ====
section
/-! DEFINITION. MAP, UNMAP and CELLAR_COPY (chapter 12, R263 to R265; chapter 17, R361 and R362), and the table region (R410). -/

namespace Sys2Proof.Machine

-- ## The reserved tops (R410)

/-- Bytes of the dispatcher region. -/
def Parcel.dspBytes (P : Parcel) : Nat := 32 * (P.itemCap + P.flowCap)

/-- First byte of the reserved top of a slice. -/
def Parcel.topOf (P : Parcel) (n : Nat) : Nat := (n + 1) * sliceBytes - P.rs

/-- Page `i` of the table region, in its order. -/
def Parcel.tablePage (P : Parcel) (i : Nat) : Option Nat :=
  let n0 := (P.rs - P.dspBytes) / 4096
  let n := P.rs / 4096
  if i < n0 then (P.smap[0]?).map fun z => P.topOf z + 4096 * i
  else if n = 0 then none
  else (P.smap[1 + (i - n0) / n]?).map fun z => P.topOf z + 4096 * ((i - n0) % n)

-- ## Descriptors in memory

/-- What ends a MAP or UNMAP: its status and detail. -/
abbrev MapErr := Nat × List Byte

/-- A breach of R361 or R263 in a field of the command. -/
def rangeErr (sub : Nat) : MapErr := (sINVALID_FIELD, cmdDetail 4 sub)
/-- A failure at an address of the command. -/
def addrErr (status sub va : Nat) : MapErr := (status, detail 0 1 0 sub va)

/-- The descriptor at an address of a table of the parcel, if it can be read. -/
def readDesc (s : State) (p table a va : Nat) : Except MapErr Nat :=
  match pointerReason s p table with
  | some _ => .error (addrErr sDEVICE_REGION_WALK 8 va)
  | none =>
    let c := (canon s a).getD a
    if s.mem.poisoned c then .error (addrErr sWALK_BUS_ERROR 8 va) else .ok (leNat (s.mem.read c 8))

/-- Write a descriptor. -/
def writeDesc (s : State) (a d : Nat) : State := fabricWrite s a (leBytes 8 d) false

/-- The address of the descriptor of `va` at level `target`, missing tables being built from the table region (R263). -/
def mapSlot : Nat → State → Nat → Nat → Nat → Nat → Nat → Except MapErr (Nat × State)
  | 0, _, _, va, _, _, _ => .error (addrErr sTRANSLATION_FAULT 8 va)
  | n + 1, s, p, va, level, target, table =>
    let a := table + 8 * (va / 2 ^ (39 - 9 * level) % 512)
    match readDesc s p table a va with
    | .error e => .error e
    | .ok d =>
      if level = target then .ok (a, s)
      else if !bitOf d 0 then
        match (s.parcel p).tablePage (s.parcel p).tablesUsed with
        | none => .error (sCAPACITY, cmdDetail 9 0)
        | some page =>
          let s := s.updParcel p fun P => { P with tablesUsed := P.tablesUsed + 1 }
          let s := writeDesc (fabricWrite s page (zeros 4096) false) a (1 + page / 4096 * 2 ^ 24)
          mapSlot n s p va (level + 1) target page
      else if bitOf d 1 then .error (rangeErr 8)
      else if (descReason d level).isSome then .error (addrErr sTRANSLATION_FAULT 8 va)
      else mapSlot n s p va (level + 1) target (bits d 24 40 * 4096)

/-- Put one descriptor in place; `tab`: it is a table descriptor of R264. -/
def mapOne (s : State) (p va level d : Nat) (tab : Bool) : Except MapErr State :=
  match mapSlot 4 s p va 0 level (s.parcel p).root with
  | .error e => .error e
  | .ok (a, s) =>
    .ok ((writeDesc s a d).updParcel p fun P => { P with
      tdescs := (if tab then [(a, va, level)] else []) ++ P.tdescs.filter fun x => x.1 != a })

/-- Put leaves of one size in place, one after another. -/
def mapLeaves (p level leaf : Nat) : Nat → State → Nat → Nat → Except MapErr State
  | 0, s, _, _ => .ok s
  | n + 1, s, va, dpa =>
    match mapOne s p va level (leaf + dpa / 4096 * 2 ^ 24) false with
    | .error e => .error e
    | .ok s => mapLeaves p level leaf n s (va + levelSpan level) (dpa + levelSpan level)

/-- The DPA at which the output of a MAP begins, by its kind (R361). -/
def mapBase (s : State) (c : Cmd) (p : Nat) : Nat :=
  let out := c.f 0x10 8
  match c.f 0x21 1 with
  | 0 => windowBase p + out
  | 1 => apertureBase (winPort s c.win) + out
  | _ => (if bitOf out 20 then ibwBase (bits out 24 8) else tsBase (bits out 24 8)) + bits out 0 20

/-- What MAP writes: leaves over its range, or one table descriptor. Check 7 has found its output allowed (R356). -/
def mapEdit (s : State) (c : Cmd) (p : Nat) : Except MapErr State :=
  let page := c.f 0x20 1
  let a := mapBase s c p
  if 4 ≤ page then mapOne s p (c.f 8 8) (6 - page) (1 + a / 4096 * 2 ^ 24) true
  else mapLeaves p (3 - page) (3 + 4 * c.f 0x22 1 + 0x100 * c.f 0x24 2) (c.f 0x18 8 / levelSpan (3 - page)) s (c.f 8 8) a

/-- Write valid = 0 into every leaf of a table that lies wholly in `[lo, hi)`, and below it. -/
def unmapTable : Nat → State → Nat → Nat → Nat → Nat → Nat → Nat → Except MapErr State
  | 0, s, _, _, _, _, _, _ => .ok s
  | n + 1, s, p, table, level, base, lo, hi =>
    let span := levelSpan level
    let first := (max lo base - base) / span
    let last := (min hi (base + 512 * span) - 1 - base) / span
    ((List.range (last - first + 1)).map (· + first)).foldl (fun acc i =>
      match acc with
      | .error e => .error e
      | .ok s =>
        let b := base + i * span
        let a := table + 8 * i
        match readDesc s p table a b with
        | .error e => .error e
        | .ok d =>
          if !bitOf d 0 then .ok s
          else if bitOf d 1 then
            if lo ≤ b && b + span ≤ hi then .ok (writeDesc s a (d - 1)) else .error (rangeErr 8)
          else if level = 3 then .ok s
          else unmapTable n s p (bits d 24 40 * 4096) (level + 1) b lo hi) (.ok s)

/-- Write valid = 0 into every table descriptor of R264 whose span lies in the range. -/
def unmapTdescs (s : State) (p lo hi : Nat) : State :=
  let hit := fun (x : Nat × Nat × Nat) => decide (lo ≤ x.2.1) && decide (x.2.1 + levelSpan x.2.2 ≤ hi)
  let s := ((s.parcel p).tdescs.filter hit).foldl (fun s x =>
    match readDesc s p (x.1 / 4096 * 4096) x.1 x.2.1 with
    | .ok d => if bitOf d 0 && !bitOf d 1 then writeDesc s x.1 (d - 1) else s
    | .error _ => s) s
  s.updParcel p fun P => { P with tdescs := P.tdescs.filter fun x => !hit x }

/-- What UNMAP writes. -/
def unmapEdit (s : State) (c : Cmd) (p : Nat) : Except MapErr State :=
  let lo := c.f 8 8
  let hi := lo + c.f 0x18 8
  match unmapTable 4 s p (s.parcel p).root 0 0 lo hi with
  | .error e => .error e
  | .ok s => .ok (unmapTdescs s p lo hi)

/-- MAP or UNMAP acts: its writes stand whole or not at all, and it completes once every unit has dropped the range (R263). -/
def editTables (s : State) (c : Cmd) (p : Nat) : State :=
  match (if c.opcode = 0x20 then mapEdit s c p else unmapEdit s c p) with
  | .error (st, d) => endCmd s c st d
  | .ok s =>
    let s := invParcel s p { kind := 4, va := c.f 8 8, ast := c.f 8 8 + c.f 0x18 8 }
    (s.updParcel p fun P => { P with invals := P.invals ++ [{ tile := none, byReg := false, cmd := some c.seq }] }).updCmd c.seq fun c =>
      { c with phase := .running }

-- ## CELLAR_COPY (R362)

/-- The chunks of a copy: offset and bytes, each within one page of both sides. -/
def copyChunks (src dst n : Nat) : List (Nat × Nat) :=
  let cuts := (pageRuns src n).map (fun r => r.1 - src) ++ (pageRuns dst n).map fun r => r.1 - dst
  let starts := (sortBy id cuts).eraseDups
  (starts.zip (starts.drop 1 ++ [n])).map fun x => (x.1, x.2 - x.1)

/-- The places of a chunk, or the failure with its field. -/
def copyPlaces (s : State) (p src dst o : Nat) : Except (CmdErr × Nat) (Nat × Nat) :=
  match cmdPlaces s p (src + o) 1 false true with
  | .error e => .error (e, 8)
  | .ok l =>
    match cmdPlaces s p (dst + o) 1 true true with
    | .error e => .error (e, 0x10)
    | .ok m => .ok (((l.head?).map (·.1)).getD 0, ((m.head?).map (·.1)).getD 0)

/-- The copy's end: the failure, its field and its offset; none where the copy runs to its end. -/
def copyEnd (s : State) (p src dst : Nat) : List (Nat × Nat) → Option (CmdErr × Nat × Nat)
  | [] => none
  | (o, n) :: rest =>
    match copyPlaces s p src dst o with
    | .error (e, f) => some (e, f, o)
    | .ok (a, _) =>
      match poisonIn s a n with
      | some i => some ({ status := sPOISONED, va := src + o + i }, 8, o + i)
      | none => copyEnd s p src dst rest

/-- Copy the first `n` bytes. -/
def copyBytes (s : State) (p src dst n : Nat) : State :=
  (copyChunks src dst n).foldl (fun s c =>
    match copyPlaces s p src dst c.1 with
    | .error _ => s
    | .ok (a, b) =>
      let (bs, _, s) := fabricRead s a c.2
      fabricWrite s b bs false) s

/-- CELLAR_COPY acts. A copy that fails has moved the first bytes, some number up to the failing offset. -/
def cellarCopy (s : State) (c : Cmd) (p : Nat) : State :=
  let src := c.f 8 8
  let dst := c.f 0x10 8
  let n := c.f 0x18 8
  if src < dst + n && dst < src + n then endCmd s c sINVALID_FIELD (cmdDetail 4 0x10)
  else
    match copyEnd s p src dst (copyChunks src dst n) with
    | none => endCmd (copyBytes s p src dst n) c sSUCCESS (zeros 16)
    | some (e, f, o) =>
      let (k, s) := s.stamp
      endCmd (copyBytes s p src dst ((Config.freeWord k).toNat % (o + 1))) c e.status (detail 0 1 0 f e.va)

end Sys2Proof.Machine
end

