-- ==== Sys2Proof/Machine/Image.lean ====
section
/-! DEFINITION. What the bytes of a pipeline image say (chapter 03, Tables 1 to 17): sections, placement and the structures they load. -/

namespace Sys2Proof.Machine

-- ## Shapes of quads (R16, R55, R56)

/-- The quads of a set that touch one of a list. -/
def touching (l all : List Nat) : List Nat :=
  all.filter fun q => l.contains q || l.any fun r =>
    (q / 8 == r / 8 && (q % 8 == r % 8 + 1 || q % 8 + 1 == r % 8)) || (q % 8 == r % 8 && (q / 8 == r / 8 + 1 || q / 8 + 1 == r / 8))

/-- Grow a list of quads within a set. -/
def spread : Nat → List Nat → List Nat → List Nat
  | 0, l, _ => l
  | n + 1, l, all => spread n (touching l all) all

/-- Whether a set of quads is mesh-connected. -/
def meshConnected (all : List Nat) : Bool := decide ((spread all.length (all.take 1) all).length = all.length)

/-- The placement of a shape: the first offset at which every quad of the shape falls on one of the parcel's. -/
def placeShape (w h : Nat) (cells : List Nat) (quads : Nat) : Option (List Nat) :=
  let offs := (List.range (9 - h)).flatMap fun oy => (List.range (9 - w)).map fun ox => 8 * oy + ox
  (offs.find? fun o => cells.all fun c => bitOf quads (c + o)).map fun o => cells.map (· + o)

-- ## Sections

/-- The entries of the section table. -/
def sectionsOf (bs : List Byte) : List SectionInfo :=
  (List.range (min (fieldAt bs 6 2) 1024)).map fun k =>
    let e := 64 + 48 * k
    { type := fieldAt bs e 1, offset := fieldAt bs (e + 4) 4, length := fieldAt bs (e + 8) 4, digest := slice bs (e + 0x10) 32 }

/-- The sections of a type, with their index. -/
def ofType (l : List SectionInfo) (ty : Nat) : List (Nat × SectionInfo) :=
  ((List.range l.length).zip l).filter fun x => x.2.type == ty

/-- The offsets of `n` rows of a size. -/
def rowsAt (o n size : Nat) : List Nat := (List.range n).map fun i => o + size * i

/-- The placed quads of an image in a parcel, where its shape fits. -/
def placementOf (bs : List Byte) (o quads : Nat) : Option (List Nat) :=
  placeShape (fieldAt bs o 1) (fieldAt bs (o + 1) 1) (setBits 64 (fieldAt bs (o + 8) 8)) quads

/-- A ROUTE section's routes and fan list. -/
def routesOf (bs : List Byte) (o : Nat) : List Route × List Nat :=
  let rc := fieldAt bs o 4
  ((rowsAt (o + 16) rc 16).map fun e => {
      id := fieldAt bs e 2, fan := fieldAt bs (e + 2) 1 == 1, src := fieldAt bs (e + 4) 2, dst := fieldAt bs (e + 6) 2
      hashLo := fieldAt bs (e + 8) 1, hashBits := fieldAt bs (e + 9) 1 },
    (rowsAt (o + 16 + 16 * rc) (fieldAt bs (o + 4) 4) 2).map fun e => fieldAt bs e 2)

/-- A TILECODE section. -/
def codeOf (bs : List Byte) (o : Nat) : TileCode :=
  { tiles := fieldAt bs o 32, code := slice bs (o + 0x50) (fieldAt bs (o + 0x20) 4), entry := fieldAt bs (o + 0x24) 4
    handlers := (rowsAt (o + 0x28) 8 4).map fun e => fieldAt bs e 4 }

/-- The TILEDATA sections, each with its place in the staging buffer. -/
def datasOf (bs : List Byte) : List Nat → Nat → List TileData
  | [], _ => []
  | o :: l, sum =>
    let n := fieldAt bs (o + 0x24) 4
    { tiles := fieldAt bs o 32, tsOffset := fieldAt bs (o + 0x20) 4, dataBytes := n, zeroBytes := fieldAt bs (o + 0x28) 4, stagedAt := sum }
      :: datasOf bs l (sum + n)

/-- A DECODE_TABLE section. -/
def decTableOf (bs : List Byte) (o : Nat) : DecTable :=
  let n := 16 * (fieldAt bs (o + 0x21) 1 + 1)
  { tiles := fieldAt bs o 32, slot := fieldAt bs (o + 0x20) 1, states := fieldAt bs (o + 0x21) 1 + 1, actionBase := fieldAt bs (o + 0x22) 2
    transitions := (rowsAt (o + 0x30) n 4).map fun e => fieldAt bs e 4
    actions := (rowsAt (o + 0x30 + 4 * n) (fieldAt bs (o + 0x24) 2) 4).map fun e => fieldAt bs e 4 }

/-- A HASH_PARAM section. -/
def hashesOf (bs : List Byte) (o : Nat) : List HashEntry :=
  (rowsAt (o + 16) (fieldAt bs o 4) 48).map fun e =>
    { tiles := fieldAt bs e 32, slot := fieldAt bs (e + 0x20) 1, keyLen := fieldAt bs (e + 0x21) 1, seed := fieldAt bs (e + 0x24) 4 }

/-- A column descriptor of a SORT_TABLE. -/
def columnOf (bs : List Byte) (d : Nat) : SortColumn :=
  let fl := fieldAt bs (d + 4) 1
  { srcOffset := fieldAt bs d 2, width := fieldAt bs (d + 2) 1, kind := fieldAt bs (d + 3) 1, descending := bitOf fl 0
    nullsFirst := bitOf fl 1, transformOn := bitOf fl 2, transform := fieldAt bs (d + 5) 1, nullBit := fieldAt bs (d + 6) 2 }

/-- A SORT_TABLE section's tables and transforms. -/
def sortTablesOf (bs : List Byte) (o : Nat) : List SortTable × List (List Byte) :=
  let n := fieldAt bs o 1
  ((rowsAt (o + 16) n 144).map fun e => {
      id := fieldAt bs e 1, keyBytes := fieldAt bs (e + 2) 2, recordBytes := fieldAt bs (e + 4) 2, stable := fieldAt bs (e + 6) 1 == 1
      columns := (rowsAt (e + 16) (fieldAt bs (e + 1) 1) 8).map (columnOf bs) },
    (rowsAt (o + 16 + 144 * n) (fieldAt bs (o + 1) 1) 256).map fun e => slice bs e 256)

/-- A STAGE_MAP section. -/
def stagesOf (bs : List Byte) (o : Nat) : List StageEntry :=
  let n := fieldAt bs o 2
  (rowsAt (o + 16) n 16).map fun e =>
    { pipeline := fieldAt bs e 1, stage := fieldAt bs (e + 1) 1, pooled := fieldAt bs (e + 2) 1 == 1, source := bitOf (fieldAt bs (e + 3) 1) 0
      sink := bitOf (fieldAt bs (e + 3) 1) 1
      tiles := (rowsAt (o + 16 + 16 * n + 2 * fieldAt bs (e + 4) 2) (fieldAt bs (e + 6) 2) 2).map fun a => fieldAt bs a 2
      budget := fieldAt bs (e + 8) 4, inboxBase := fieldAt bs (e + 0xC) 2, inboxHalf := fieldAt bs (e + 0xE) 2 }

/-- A FLOW_SETUP section. -/
def flowsOf (bs : List Byte) (o : Nat) : List FlowSetup :=
  (rowsAt (o + 16) (fieldAt bs o 4) 32).map fun e =>
    { pipeline := fieldAt bs e 1, stage := fieldAt bs (e + 1) 1, cls := fieldAt bs (e + 2) 1, priority := fieldAt bs (e + 3) 1
      flowBase := fieldAt bs (e + 4) 3, flowCount := fieldAt bs (e + 8) 4, affDepth := fieldAt bs (e + 0xC) 2
      affWindow := fieldAt bs (e + 0xE) 2, reorder := fieldAt bs (e + 0x10) 2 }

/-- The offsets of the programs of a MOVER_PROGRAM section that ends at `last`, as far as they lie within it. -/
def programsAt (bs : List Byte) (last : Nat) : Nat → Nat → List Nat
  | 0, _ => []
  | n + 1, a =>
    if last < a + 16 then [] else a :: programsAt bs last n (a + 16 + 32 * fieldAt bs (a + 2) 2)

/-- A mover program. -/
def moverOf (bs : List Byte) (a : Nat) : MoverProgram :=
  { vgroup := fieldAt bs a 1, channel := fieldAt bs (a + 1) 1, pipeline := fieldAt bs (a + 4) 1, stage := fieldAt bs (a + 5) 1
    steps := (rowsAt (a + 16) (fieldAt bs (a + 2) 2) 32).map fun e =>
      { src := fieldAt bs e 8, dst := fieldAt bs (e + 8) 8, count := fieldAt bs (e + 0x10) 4, ctl := fieldAt bs (e + 0x14) 4
        srcBind := fieldAt bs (e + 0x18) 2, dstBind := fieldAt bs (e + 0x1A) 2 } }

/-- The offsets of a MOVER_PROGRAM section's programs. -/
def moversAt (bs : List Byte) (x : SectionInfo) : List Nat :=
  programsAt bs (x.offset + x.length) (min (fieldAt bs x.offset 4) (x.length / 16)) (x.offset + 16)

/-- A BIND_SLOTS section. -/
def bindsOf (bs : List Byte) (o : Nat) : List BindSlot :=
  (rowsAt (o + 16) (fieldAt bs o 2) 16).map fun e =>
    { slot := fieldAt bs e 2, type := fieldAt bs (e + 2) 1, required := bitOf (fieldAt bs (e + 3) 1) 0, pipeline := fieldAt bs (e + 4) 1
      stage := fieldAt bs (e + 5) 1, length := fieldAt bs (e + 6) 2, paramOffset := fieldAt bs (e + 8) 4, tsOffset := fieldAt bs (e + 0xC) 4 }

-- ## Digests (R60, R61)

/-- The image digest: the bytes before MEASURE, the digest field of its table entry taken as zero. -/
def imageDigest (bs : List Byte) (sec : SectionInfo) (k : Nat) : List Byte :=
  let e := 64 + 48 * k + 0x10
  let v := bs.take sec.offset
  digest 0 0 (v.take e ++ zeros 32 ++ v.drop (e + 32))

/-- The digest of a signed image's key; 48 zero bytes for an unsigned one. -/
def keyDigest (bs : List Byte) (o : Nat) : List Byte :=
  if fieldAt bs (o + 4) 4 = 1 then digest 1 0 (slice bs (o + 0x30) 97) else zeros 48

/-- What a checked image loads into a parcel that holds `quads`. -/
def parseImage (bs : List Byte) (quads : Nat) : Image :=
  let l := sectionsOf bs
  let offs := fun (ty : Nat) => (ofType l ty).map fun x => x.2.offset
  let all := fun {α : Type} (ty : Nat) (f : Nat → List α) => (offs ty).flatMap f
  let m := (ofType l 0x0C).head?
  { loaded := true, imageId := fieldAt bs 0x28 8, pipelines := fieldAt bs 0x11 1
    minFrame := (((offs 1).head?).map fun o => fieldAt bs (o + 2) 2).getD 0
    groups := fieldAt bs 0x13 1, ceCount := fieldAt bs 0x14 1, deCount := fieldAt bs 0x15 1, seCount := fieldAt bs 0x16 1
    flowCapacity := fieldAt bs 0x1C 4
    placement := (((offs 1).head?).bind fun o => placementOf bs o quads).getD []
    routes := all 2 fun o => (routesOf bs o).1
    fanList := all 2 fun o => (routesOf bs o).2
    codes := (offs 3).map (codeOf bs)
    datas := datasOf bs (offs 4) 0
    decTables := (offs 5).map (decTableOf bs)
    hashes := all 6 (hashesOf bs)
    flows := all 7 (flowsOf bs)
    movers := (ofType l 8).flatMap fun x => (moversAt bs x.2).map (moverOf bs)
    stages := all 9 (stagesOf bs)
    binds := all 0x0A (bindsOf bs)
    sortTables := all 0x0B fun o => (sortTablesOf bs o).1
    transforms := all 0x0B fun o => (sortTablesOf bs o).2
    digest := (m.map fun x => imageDigest bs x.2 x.1).getD []
    keyDigest := (m.map fun x => keyDigest bs x.2.offset).getD [] }

end Sys2Proof.Machine
end

