-- ==== Sys2Proof/Machine/ImageCheck.lean ====
section
/-! DEFINITION. The checks of an image in stream order (chapter 03, R53 to R76, Table 18). -/

namespace Sys2Proof.Machine

/-- A failed check: the byte that decides it, its reason code, the section index, and whether it is SECTION_COUNT. -/
structure Flaw where
  pos : Nat
  code : Nat
  sec : Nat
  count : Bool := false
  deriving DecidableEq, Repr

/-- A flaw where a condition holds. -/
def flawIf (c : Bool) (pos code sec : Nat) : List Flaw := if c then [{ pos := pos, code := code, sec := sec }] else []

/-- The first reserved or padding byte of `[lo, hi)` that is not 0 (R74). -/
def reservedIn (bs : List Byte) (lo hi sec : Nat) : List Flaw :=
  match (List.range (hi - lo)).find? fun i => fieldAt bs (lo + i) 1 != 0 with
  | some i => [{ pos := lo + i, code := 0x1B, sec := sec }]
  | none => []

/-- Whether two ranges of bytes meet. -/
def rangesMeet (a n b m : Nat) : Bool := decide (0 < n) && decide (0 < m) && decide (a < b + m) && decide (b < a + n)

/-- What the checks of a section look at: all bytes so far, the section's place and its index, and the virtual tiles of the image. -/
structure SecCtx where
  bs : List Byte
  o : Nat
  len : Nat
  k : Nat
  nv : Nat

/-- A field of the section. -/
def SecCtx.f (x : SecCtx) (off len : Nat) : Nat := fieldAt x.bs (x.o + off) len
/-- A flaw at an offset of the section. -/
def SecCtx.bad (x : SecCtx) (c : Bool) (off code : Nat) : List Flaw := flawIf c (x.o + min off (x.len - 1)) code x.k
/-- A reserved part of the section. -/
def SecCtx.res (x : SecCtx) (lo hi : Nat) : List Flaw := reservedIn x.bs (x.o + lo) (x.o + min hi x.len) x.k
/-- A count that implies another length than the section's, decided at the last byte of the count. -/
def SecCtx.size (x : SecCtx) (need off : Nat) : List Flaw := x.bad (roundUp need 16 != x.len) off 0x0F
/-- A section whose size is as its counts imply. -/
def SecCtx.fits (x : SecCtx) (need : Nat) : Bool := roundUp need 16 == x.len
/-- A set of virtual tiles with a bit at or above 4 × quads (R63). -/
def SecCtx.tiles (x : SecCtx) (off : Nat) : List Flaw :=
  match (setBits 256 (x.f off 32)).find? fun v => decide (x.nv ≤ v) with
  | some v => x.bad true (off + v / 8) 0x0F
  | none => []

-- ## Header and table (R53, R54, R58, R75)

/-- Limits of the header's counts: offset, lowest, highest, and what the parcel holds. -/
def headerCounts (P : Parcel) : List (Nat × Nat × Nat × Nat) :=
  [(0x10, 1, 64, popcount 64 P.quads.toNat), (0x11, 1, 16, 255), (0x12, 0, 64, popcount 64 P.slices.toNat),
   (0x13, 1, 64, popcount 64 P.groups.toNat), (0x14, 0, 16, popcount 16 P.ce.toNat), (0x15, 1, 16, popcount 16 P.de.toNat),
   (0x16, 0, 16, popcount 16 P.se.toNat)]

/-- The bit of target_mask for a part. -/
def Part.targetBit : Part → Nat
  | .xv256 => 0
  | .xv192 => 1
  | .xv128 => 2

/-- The checks of the header. `L` is the declared stream length. BAD_MAGIC is decided at the first byte of magic that is wrong, and so ranks
before a stream that stops inside the field (DESIGN CHOICE, log entry 20: R76 has the last byte on which the check depends). -/
def headerFlaws (s : State) (P : Parcel) (L : Nat) (bs : List Byte) : List Flaw :=
  let f := fieldAt bs
  let no := 0xFFFF
  let sc := f 6 2
  let n := f 8 4
  let magic := [0x58, 0x56, 0x50, 0x49]
  ((List.range 4).flatMap fun i => flawIf (some (f i 1) != magic[i]?) i 1 no)
    ++ flawIf (f 4 1 != 1) 4 2 no ++ flawIf (f 5 1 != 0) 5 2 no
    ++ flawIf (decide (0x10000000 < n) || decide (n < 64 + 48 * sc)) 0x0B 3 no
    ++ flawIf (decide (8 ≤ f 0x0C 1)) 0x0C 0x1B no
    ++ flawIf (!bitOf (f 0x0C 1) s.glb.part.targetBit) 0x0C 6 no
    ++ flawIf (decide (2 ≤ f 0x0D 1)) 0x0D 0x1B no
    ++ reservedIn bs 0x0E 0x10 no
    ++ ((headerCounts P).flatMap fun c =>
      flawIf (decide (c.2.2.2 < f c.1 1)) c.1 7 no ++ flawIf (decide (f c.1 1 < c.2.1) || decide (c.2.2.1 < f c.1 1)) c.1 0x0F no)
    ++ reservedIn bs 0x17 0x18 no
    ++ flawIf (decide (P.bslots.foldl (· + ·) 0 < f 0x18 2)) 0x19 7 no
    ++ reservedIn bs 0x1A 0x1C no
    ++ flawIf (decide (P.flowCap < f 0x1C 4)) 0x1F 7 no
    ++ reservedIn bs 0x24 0x28 no ++ reservedIn bs 0x30 0x40 no
    ++ (if sc < 4 || 1024 < sc then [{ pos := 63, code := 0x0E, sec := no, count := true }] else [])
    ++ flawIf (decide (n < L)) 63 5 no ++ flawIf (decide (L < n)) 63 4 no

/-- Occurrences that Table 3 allows: type, least, most. -/
def occurrences : List (Nat × Nat × Nat) :=
  [(1, 1, 1), (2, 0, 1), (3, 1, 256), (4, 0, 1024), (5, 0, 1024), (6, 0, 1), (7, 0, 1), (8, 0, 1), (9, 1, 1), (0x0A, 0, 1), (0x0B, 0, 1),
   (0x0C, 1, 1)]

/-- The checks of one table entry; `expect` is where its section must begin, `before` the types of the entries before it. -/
def entryFlaws (bs : List Byte) (sc n k expect : Nat) (before : List Nat) (x : SectionInfo) : List Flaw :=
  let e := 64 + 48 * k
  let occ := occurrences.find? fun o => o.1 == x.type
  let order := (k == 0) != (x.type == 1) || (k + 1 == sc) != (x.type == 0x0C)
  flawIf (occ.isNone || order) e 0x0E k
    ++ (match occ with
      | some o => if !order && o.2.2 ≤ (before.filter (· == x.type)).length then [{ pos := e, code := 0x0E, sec := k, count := true }] else []
      | none => [])
    ++ reservedIn bs (e + 1) (e + 4) k
    ++ flawIf (decide (expect < x.offset)) (e + 7) 0x0B k ++ flawIf (decide (x.offset < expect)) (e + 7) 0x0C k
    ++ flawIf (x.length == 0 || x.length % 16 != 0 || decide (n < x.offset + x.length)) (e + 0x0B) 0x0D k
    ++ flawIf ((x.type == 1 && x.length != 48) || (x.type == 0x0C && x.length != 256)) (e + 0x0B) 0x0F k
    ++ reservedIn bs (e + 0x0C) (e + 0x10) k

/-- The checks of the entries, one after another. -/
def entriesFlaws (bs : List Byte) (sc n : Nat) : Nat → Nat → List Nat → List SectionInfo → List Flaw
  | _, _, _, [] => []
  | k, expect, before, x :: l =>
    entryFlaws bs sc n k expect before x ++ entriesFlaws bs sc n (k + 1) (x.offset + x.length) (x.type :: before) l

/-- The checks of the table. -/
def tableFlaws (bs : List Byte) (l : List SectionInfo) : List Flaw :=
  let sc := l.length
  let n := fieldAt bs 8 4
  let last := 64 + 48 * sc - 1
  let stop := match l.getLast? with | some x => x.offset + x.length | none => 64
  entriesFlaws bs sc n 0 (64 + 48 * sc) [] l
    ++ flawIf (decide (stop < n)) last 0x0B (sc - 1)
    ++ (if occurrences.any fun o => decide (0 < o.2.1) && !(l.any fun x => x.type == o.1) then
      [{ pos := last, code := 0x0E, sec := 0xFFFF, count := true }] else [])

-- ## Sections by type

/-- RESOURCE (R55, R56, R58). -/
def resourceFlaws (s : State) (P : Parcel) (x : SecCtx) : List Flaw :=
  let w := x.f 0 1
  let h := x.f 1 1
  let cells := setBits 64 (x.f 8 8)
  let grid := decide (1 ≤ w) && decide (w ≤ 8) && decide (1 ≤ h) && decide (h ≤ 8)
  let good := decide (cells.length = x.nv / 4) && (cells.all fun c => decide (c % 8 < w) && decide (c / 8 < h)) && meshConnected cells
  x.bad (w == 0 || decide (8 < w)) 0 9 ++ x.bad (h == 0 || decide (8 < h)) 1 9
    ++ x.bad (decide (P.div.toNat * s.frm.period.toNat < x.f 2 2)) 3 8
    ++ x.res 4 8
    ++ x.bad (grid && !good) 0x0F 9
    ++ x.bad (grid && good && (placementOf x.bs x.o P.quads.toNat).isNone) 0x0F 0x0A
    ++ x.res 0x10 0x30

/-- TILECODE (R63). -/
def codeFlaws (x : SecCtx) : List Flaw :=
  let cb := x.f 0x20 4
  let ok := decide (4 ≤ cb) && decide (cb ≤ 65536) && cb % 4 == 0
  x.tiles 0 ++ x.bad (!ok) 0x23 0x0F ++ (if ok then x.size (0x50 + cb) 0x23 else [])
    ++ x.bad (x.f 0x24 4 % 4 != 0 || decide (cb ≤ x.f 0x24 4)) 0x27 0x0F
    ++ ((List.range 8).flatMap fun i =>
      let h := x.f (0x28 + 4 * i) 4
      x.bad (h != 0xFFFFFFFF && (h % 4 != 0 || decide (cb ≤ h))) (0x2B + 4 * i) 0x0F)
    ++ x.res 0x48 0x50 ++ (if x.fits (0x50 + cb) then x.res (0x50 + cb) x.len else [])

/-- TILEDATA (R64). The limit of its range is checked also where the mask names no tile (DESIGN CHOICE, log entry 20: R64 limits the sum for
each receiving tile). -/
def dataFlaws (x : SecCtx) : List Flaw :=
  let n := x.f 0x24 4
  x.tiles 0 ++ x.bad (x.f 0x20 4 % 16 != 0) 0x23 0x10 ++ x.size (0x30 + n) 0x27
    ++ x.bad (decide (0x100000 < x.f 0x20 4 + n + x.f 0x28 4)) 0x2B 0x10
    ++ x.res 0x2C 0x30 ++ (if x.fits (0x30 + n) then x.res (0x30 + n) x.len else [])

/-- DECODE_TABLE (Table 11). -/
def decTableFlaws (x : SecCtx) : List Flaw :=
  let base := x.f 0x22 2
  let aw := x.f 0x24 2
  let need := 0x30 + 64 * (x.f 0x21 1 + 1) + 4 * aw
  x.tiles 0 ++ x.bad (decide (3 < x.f 0x20 1)) 0x20 0x0F ++ x.bad (decide (1023 < base)) 0x23 0x0F
    ++ x.bad (decide (base ≤ 1023) && decide (1024 < base + aw)) 0x25 0x0F ++ x.size need 0x25
    ++ x.res 0x26 0x30 ++ (if x.fits need then x.res need x.len else [])

/-- HASH_PARAM (R67). -/
def hashFlaws (x : SecCtx) : List Flaw :=
  let n := x.f 0 4
  let need := 16 + 48 * n
  x.bad (decide (2048 < n)) 3 0x0F ++ x.size need 3 ++ x.res 4 0x10
    ++ (if n ≤ 2048 && x.fits need then
      ((rowsAt 16 n 48).flatMap fun e =>
        x.tiles e ++ x.bad (decide (7 < x.f (e + 0x20) 1)) (e + 0x20) 0x0F ++ x.bad (decide (64 < x.f (e + 0x21) 1)) (e + 0x21) 0x0F
          ++ x.res (e + 0x22) (e + 0x24) ++ x.res (e + 0x28) (e + 0x30)
          ++ x.bad ((rowsAt 16 n 48).any fun d =>
            decide (d < e) && x.f (d + 0x20) 1 == x.f (e + 0x20) 1 && (x.f d 32 &&& x.f e 32) != 0) (e + 0x20) 0x13)
      else [])

/-- FLOW_SETUP (R70). -/
def flowFlaws (x : SecCtx) : List Flaw :=
  let n := x.f 0 4
  let need := 16 + 32 * n
  x.size need 3 ++ x.res 4 0x10
    ++ (if x.fits need then
      ((rowsAt 16 n 32).flatMap fun e =>
        let before := (rowsAt 16 n 32).filter fun d => decide (d < e)
        let sum := before.foldl (fun a d => a + x.f (d + 8) 4) (x.f (e + 8) 4)
        x.bad (decide (2 < x.f (e + 2) 1)) (e + 2) 0x0F ++ x.bad (decide (7 < x.f (e + 3) 1)) (e + 3) 0x0F ++ x.res (e + 7) (e + 8)
          ++ x.bad ((before.any fun d => rangesMeet (x.f (d + 4) 3) (x.f (d + 8) 4) (x.f (e + 4) 3) (x.f (e + 8) 4))
            || decide (fieldAt x.bs 0x1C 4 < sum)) (e + 0x0B) 0x14
          ++ x.bad (x.f (e + 2) 1 == 1 && (x.f (e + 0x10) 2 == 0 || decide (4096 < x.f (e + 0x10) 2))) (e + 0x11) 0x0F
          ++ x.res (e + 0x12) (e + 0x20))
      else [])

/-- MOVER_PROGRAM (R71, R59). The programs that fit are checked; a program or a count that passes the end, or stops before it, breaks
R74 at the count that decides it. -/
def moverFlaws (x : SecCtx) : List Flaw :=
  let n := x.f 0 4
  let at_ := moversAt x.bs { type := 8, offset := x.o, length := x.len, digest := [] }
  let stop := match at_.getLast? with | some a => a + 16 + 32 * fieldAt x.bs (a + 2) 2 | none => x.o + 16
  let decide_ := match at_.getLast? with | some a => a - x.o + 3 | none => 3
  x.res 4 0x10 ++ x.bad (at_.length != n || stop != x.o + x.len) decide_ 0x0F
    ++ (at_.flatMap fun a =>
      let e := a - x.o
      let ch := x.f (e + 1) 1
      let sc := x.f (e + 2) 2
      x.bad (decide (fieldAt x.bs 0x13 1 ≤ x.f e 1)) e 0x15
        ++ x.bad (decide (15 < ch)) (e + 1) 0x0F
        ++ x.bad (at_.any fun b => decide (b < a) && fieldAt x.bs b 2 == fieldAt x.bs a 2) (e + 1) 0x15
        ++ x.bad (x.f e 1 == 0 && ch == 15) (e + 1) 0x16
        ++ x.bad (sc == 0 || decide (4096 < sc)) (e + 3) 0x0F
        ++ x.bad (decide (fieldAt x.bs 0x11 1 ≤ x.f (e + 4) 1)) (e + 4) 0x15
        ++ x.res (e + 6) (e + 16)
        ++ (rowsAt (e + 16) (min sc (x.len / 32)) 32).flatMap fun t =>
          x.bad (bitOf (x.f (t + 0x14) 4) 0) (t + 0x14) 0x15 ++ x.res (t + 0x1C) (t + 0x20))

/-- STAGE_MAP (R69). Bits [7:2] of flags, which Table 14 does not list, count as reserved (DESIGN CHOICE, log entry 20). -/
def stageFlaws (minFrame : Nat) (x : SecCtx) : List Flaw :=
  let ne := x.f 0 2
  let nl := x.f 2 2
  let lo := 16 + 16 * ne
  let need := lo + 2 * nl
  let rows := rowsAt 16 ne 16
  let pipes := fieldAt x.bs 0x11 1
  let none_ := (List.range pipes).any fun p => !rows.any fun e => x.f e 1 == p
  let gap := (List.range pipes).any fun p =>
    let st := (rows.filter fun e => x.f e 1 == p).map fun e => x.f (e + 1) 1
    st.any fun a => decide (0 < a) && !st.contains (a - 1)
  let owner := fun (i : Nat) => rows.filter fun e => decide (x.f (e + 4) 2 ≤ i) && decide (i < x.f (e + 4) 2 + x.f (e + 6) 2)
  x.bad (ne == 0 || decide (1024 < ne)) 1 0x0F ++ x.size need 3 ++ x.res 4 0x10
    ++ (if x.fits need then
      (rows.flatMap fun e =>
        x.bad (decide (pipes ≤ x.f e 1)) e 0x0F ++ x.bad (decide (63 < x.f (e + 1) 1)) (e + 1) 0x0F
          ++ x.bad (rows.any fun d => decide (d < e) && x.f d 2 == x.f e 2) (e + 1) 0x17
          ++ x.bad (decide (1 < x.f (e + 2) 1)) (e + 2) 0x0F ++ x.bad (decide (3 < x.f (e + 3) 1)) (e + 3) 0x1B
          ++ x.bad (x.f (e + 6) 2 == 0 || decide (256 < x.f (e + 6) 2) || decide (nl < x.f (e + 4) 2 + x.f (e + 6) 2)) (e + 7) 0x0F
          ++ x.bad (decide (minFrame < x.f (e + 8) 4 + 48)) (e + 0x0B) 0x17
          ++ x.bad (x.f (e + 0xE) 2 == 0 || decide (128 < x.f (e + 0xE) 2)) (e + 0x0F) 0x0F
          ++ x.bad (decide (0x100 < x.f (e + 0xC) 2 + 2 * x.f (e + 0xE) 2)) (e + 0x0F) 0x17)
        ++ x.bad none_ (lo - 16) 0x17 ++ x.bad gap (lo - 15) 0x17
        ++ ((List.range nl).flatMap fun i =>
          let v := x.f (lo + 2 * i) 2
          x.bad (decide (x.nv ≤ v)) (lo + 2 * i + 1) 0x0F
            ++ x.bad (decide (1 < (((List.range (i + 1)).filter fun j => x.f (lo + 2 * j) 2 == v).flatMap owner).eraseDups.length)
              && !(owner i).isEmpty) (lo + 2 * i + 1) 0x17)
        ++ x.res (lo + 2 * nl) x.len
      else [])

/-- BIND_SLOTS (R73). Bits [7:1] of flags, which Table 17 does not list, count as reserved (DESIGN CHOICE, log entry 20). -/
def bindFlaws (x : SecCtx) : List Flaw :=
  let n := x.f 0 2
  let need := 16 + 16 * n
  x.size need 1 ++ x.res 2 0x10
    ++ (if x.fits need then
      ((rowsAt 16 n 16).flatMap fun e =>
        let ty := x.f (e + 2) 1
        let ln := x.f (e + 6) 2
        x.bad (decide (255 < x.f e 2) || (rowsAt 16 n 16).any fun d => decide (d < e) && x.f d 2 == x.f e 2) (e + 1) 0x0F
          ++ x.bad (decide (4 < ty)) (e + 2) 0x0F ++ x.bad (decide (1 < x.f (e + 3) 1)) (e + 3) 0x1B
          ++ x.bad (ln == 0 || decide (4096 < ln) || ((ty == 1 || ty == 3) && ln != 16) || (ty == 2 && ln != 24)) (e + 7) 0x0F)
      else [])

/-- SORT_TABLE (R68). Bits [7:3] of a column's flags, which Table 13 does not list, count as reserved (DESIGN CHOICE, log entry 20). -/
def sortFlaws (x : SecCtx) : List Flaw :=
  let n := x.f 0 1
  let tc := x.f 1 1
  let need := 16 + 144 * n + 256 * tc
  x.bad (n == 0 || decide (16 < n)) 0 0x0F ++ x.bad (decide (8 < tc)) 1 0x0F ++ x.size need 1 ++ x.res 2 0x10
    ++ (if x.fits need then
      ((rowsAt 16 n 144).flatMap fun e =>
        let cc := x.f (e + 1) 1
        let kb := x.f (e + 2) 2
        x.bad (decide (15 < x.f e 1) || (rowsAt 16 n 144).any fun d => decide (d < e) && x.f d 1 == x.f e 1) e 0x0F
          ++ x.bad (cc == 0 || decide (16 < cc)) (e + 1) 0x0F ++ x.bad (decide (kb < 4) || decide (64 < kb)) (e + 3) 0x0F
          ++ x.bad (decide (x.f (e + 4) 2 < kb) || decide (256 < x.f (e + 4) 2)) (e + 5) 0x0F
          ++ x.bad (decide (1 < x.f (e + 6) 1)) (e + 6) 0x0F ++ x.res (e + 7) (e + 16)
          ++ (List.range 16).flatMap fun c =>
            let d := e + 16 + 8 * c
            let w := x.f (d + 2) 1
            let sum := (List.range c).foldl (fun a i => a + x.f (e + 16 + 8 * i + 2) 1) w
            if cc ≤ c then
              match (List.range 8).find? fun i => x.f (d + i) 1 != 0 with
              | some i => x.bad true (d + i) 0x0F
              | none => []
            else
              x.bad (w == 0 || decide (64 < w) || decide (kb < sum)) (d + 2) 0x0F
                ++ x.bad (decide (3 < x.f (d + 3) 1) || (x.f (d + 3) 1 == 2 && w != 4 && w != 8)) (d + 3) 0x0F
                ++ x.bad (decide (7 < x.f (d + 4) 1)) (d + 4) 0x1B
                ++ x.bad (x.f (d + 5) 1 != 0xFF && decide (tc ≤ x.f (d + 5) 1)) (d + 5) 0x0F)
      else [])

/-- MEASURE (R60, R61). -/
def measureFlaws (P : Parcel) (sec : SectionInfo) (x : SecCtx) : List Flaw :=
  let kind := x.f 4 4
  let key := slice x.bs (x.o + 0x30) 97
  x.bad (x.f 0 4 != 1) 3 0x0F ++ x.bad (decide (1 < kind)) 7 0x0F
    ++ x.bad (decide (kind ≤ 1) && (b2n (bitOf (fieldAt x.bs 0x0D 1) 0) != kind || (kind == 0 && P.signedOnly))) 7 0x1A
    ++ x.res 8 0x10
    ++ x.bad (slice x.bs (x.o + 0x10) 32 != imageDigest x.bs sec x.k) 0x2F 0x19
    ++ (if kind = 0 then x.res 0x30 0x91 ++ x.res 0xA0 0x100 else [])
    ++ x.bad (kind == 1 && P.signedOnly && digest 1 0 key != P.keyHash) 0x90 0x1A
    ++ x.res 0x91 0xA0
    ++ x.bad (kind == 1 && !ecdsaOk key (slice x.bs (x.o + 0xA0) 96) (slice x.bs (x.o + 0x10) 32)) 0xFF 0x1A

-- ## Routes (R65)

/-- The links of a leg between physical tiles, x first and then y: each link is the tile it leaves and its direction. -/
def legLinks : Nat → Nat → Nat → List (Nat × Nat)
  | 0, _, _ => []
  | n + 1, a, b =>
    if a % 16 < b % 16 then (a, 0) :: legLinks n (a + 1) b
    else if b % 16 < a % 16 then (a, 1) :: legLinks n (a - 1) b
    else if a / 16 < b / 16 then (a, 2) :: legLinks n (a + 16) b
    else if b / 16 < a / 16 then (a, 3) :: legLinks n (a - 16) b
    else []

/-- The tile that a link enters. -/
def linkTo (l : Nat × Nat) : Nat :=
  match l.2 with
  | 0 => l.1 + 1
  | 1 => l.1 - 1
  | 2 => l.1 + 16
  | _ => l.1 - 16

/-- The physical tile of a virtual tile under a placement. -/
def placedTile (pl : List Nat) (v : Nat) : Nat := ((pl[v / 4]?).map fun q => tileAt q (v % 4)).getD 0

/-- A leg of a route: the offset that decides it, the route's entry, its number within the route, its weight and its links. -/
structure Leg where
  pos : Nat
  route : Nat
  part : Nat
  weight : Nat
  links : List (Nat × Nat)

/-- The legs of a route entry at `e`; `fb` is the fan list. -/
def routeLegs (x : SecCtx) (pl : List Nat) (fb e : Nat) : List Leg :=
  let leg := fun (a b : Nat) => legLinks 30 (placedTile pl a) (placedTile pl b)
  let src := x.f (e + 4) 2
  let w := x.f (e + 3) 1
  if x.f (e + 2) 1 = 0 then
    let path := [src] ++ ([x.f (e + 0xA) 2, x.f (e + 0xC) 2].filter (· != 0xFFFF)) ++ [x.f (e + 6) 2]
    ((List.range path.length).zip (path.zip (path.drop 1))).map fun y =>
      { pos := if y.1 = 0 && x.f (e + 0xA) 2 != 0xFFFF then e + 0x0B else e + 0x0D, route := e, part := y.1, weight := w, links := leg y.2.1 y.2.2 }
  else
    (List.range (2 ^ min (x.f (e + 9) 1) 6)).map fun j =>
      let a := fb + 2 * (x.f (e + 6) 2 + j)
      { pos := a + 1, route := e, part := 0, weight := w, links := leg src (x.f a 2) }

/-- A link's load, leg by leg in stream order: the offsets at which it passes eight eighths. A fan route counts once on a link. -/
def loadFlaws (x : SecCtx) (legs : List Leg) : List Flaw :=
  let hits := legs.flatMap fun g => g.links.map fun l => (g, l)
  let rec go (seen : List (Nat × Nat × (Nat × Nat))) (load : Tab Nat) : List (Leg × (Nat × Nat)) → List Flaw
    | [] => []
    | (g, l) :: r =>
      if seen.contains (g.route, g.part, l) then go seen load r
      else
        let key := 4 * l.1 + l.2
        let n := Tab.get 0 load key + g.weight
        x.bad (decide (8 < n)) g.pos 0x11 ++ go ((g.route, g.part, l) :: seen) (Tab.set load key n) r
  go [] [] hits

/-- ROUTE. The limits of hash_bits, of hash_lo + hash_bits and of via1 hold for entries of either kind; what the fan list or a waypoint must
be, for the kind that uses it (R65). -/
def routeFlaws (pl : List Nat) (x : SecCtx) : List Flaw :=
  let rc := x.f 0 4
  let fc := x.f 4 4
  let fb := 16 + 16 * rc
  let need := fb + 2 * fc
  let rows := rowsAt 16 rc 16
  let legs := sortBy (·.pos) (rows.flatMap (routeLegs x pl fb))
  let tile := fun (a : Nat) => decide (x.nv ≤ x.f a 2)
  x.bad (decide (4096 < rc)) 3 0x0F ++ x.size need 7 ++ x.res 8 0x10
    ++ (if rc ≤ 4096 && x.fits need then
      (rows.flatMap fun e =>
        let fan := x.f (e + 2) 1 == 1
        let hb := x.f (e + 9) 1
        x.bad (rows.any fun d => decide (d < e) && x.f d 2 == x.f e 2) (e + 1) 0x11
          ++ x.bad (decide (1 < x.f (e + 2) 1)) (e + 2) 0x11
          ++ x.bad (x.f (e + 3) 1 == 0 || decide (8 < x.f (e + 3) 1)) (e + 3) 0x11
          ++ x.bad (tile (e + 4)) (e + 5) 0x11
          ++ x.bad (decide (6 < hb) || decide (64 < x.f (e + 8) 1 + hb)) (e + 9) 0x11
          ++ x.bad (x.f (e + 0xC) 2 != 0xFFFF && x.f (e + 0xA) 2 == 0xFFFF) (e + 0x0D) 0x11
          ++ (if fan then
            x.bad (decide (63 < x.f (e + 8) 1)) (e + 8) 0x0F
              ++ x.bad (decide (hb ≤ 6) && decide (fc < x.f (e + 6) 2 + 2 ^ hb)) (e + 9) 0x11
          else
            x.bad (tile (e + 6)) (e + 7) 0x11
              ++ x.bad (x.f (e + 0xA) 2 != 0xFFFF && tile (e + 0xA)) (e + 0x0B) 0x11
              ++ x.bad (x.f (e + 0xC) 2 != 0xFFFF && tile (e + 0xC)) (e + 0x0D) 0x11)
          ++ x.res (e + 0xE) (e + 0x10))
        ++ ((rowsAt fb fc 2).flatMap fun a => x.bad (tile a) (a + 1) 0x11)
        ++ (legs.flatMap fun g => x.bad (g.links.any fun l => !pl.contains (quadOf (linkTo l))) g.pos 0x11)
        ++ loadFlaws x legs
        ++ x.res need x.len
      else [])

-- ## Checks across sections (R63, R64, R66, R70, R71, R73, R77)

/-- Place a check at the later of two bytes: position and section index. -/
def later (a b : Nat × Nat) : Nat × Nat := if a.1 < b.1 then b else a
/-- A flaw decided by two bytes. -/
def crossIf (c : Bool) (a b : Nat × Nat) (code : Nat) : List Flaw := flawIf c (later a b).1 code (later a b).2

/-- The STAGE_MAP of an image as the cross checks use it: its section, its entries and its tile list. -/
structure StageView where
  k : Nat
  o : Nat
  rows : List Nat
  listAt : Nat
  listLen : Nat

/-- The stage map. -/
def stageView (bs : List Byte) (l : List SectionInfo) : Option StageView :=
  ((ofType l 9).head?).map fun x =>
    let o := x.2.offset
    let n := fieldAt bs o 2
    { k := x.1, o := o, rows := rowsAt (o + 16) n 16, listAt := o + 16 + 16 * n, listLen := fieldAt bs (o + 2) 2 }

/-- The byte at which the tile list is known. -/
def StageView.listEnd (m : StageView) : Nat × Nat := (if m.listLen = 0 then m.o + 3 else m.listAt + 2 * m.listLen - 1, m.k)
/-- The byte at which every entry's pipeline and stage is known. -/
def StageView.entryEnd (m : StageView) : Nat × Nat := (m.listAt - 15, m.k)
/-- The tiles of stages: virtual tile, the byte of its list entry, and its stage's entry. -/
def StageView.owners (bs : List Byte) (m : StageView) : List (Nat × Nat × Nat) :=
  m.rows.flatMap fun e => (rowsAt (m.listAt + 2 * fieldAt bs (e + 4) 2) (fieldAt bs (e + 6) 2) 2).map fun a => (fieldAt bs a 2, a + 1, e)
/-- The entry of a stage. -/
def StageView.find (bs : List Byte) (m : StageView) (pipeStage : Nat) : Option Nat := m.rows.find? fun e => fieldAt bs e 2 == pipeStage

/-- Uses of a stage by an entry: pipeline and stage bytes at `a`. -/
def useFlaws (bs : List Byte) (m : StageView) (k a code : Nat) (pooled : Bool) : List Flaw :=
  match m.find bs (fieldAt bs a 2) with
  | none => crossIf true (a + 1, k) m.entryEnd code
  | some e => crossIf (pooled && fieldAt bs (e + 2) 1 == 0) (a + 1, k) (e + 2, m.k) code

/-- TILECODE against the stage map and against other TILECODEs. -/
def codeCross (bs : List Byte) (l : List SectionInfo) (m : StageView) : List Flaw :=
  let cs := ofType l 3
  let own := m.owners bs
  let has := fun (o v : Nat) => bitOf (fieldAt bs o 32) v
  (cs.flatMap fun c =>
    (setBits 256 (fieldAt bs c.2.offset 32)).flatMap fun v =>
      flawIf (cs.any fun d => decide (d.1 < c.1) && has d.2.offset v) (c.2.offset + v / 8) 0x0F c.1
        ++ crossIf (!own.any fun w => w.1 == v) (c.2.offset + v / 8, c.1) m.listEnd 0x0F)
    ++ match cs.getLast? with
      | none => []
      | some c => own.flatMap fun w => crossIf (!cs.any fun d => has d.2.offset w.1) (c.2.offset + w.1 / 8, c.1) (w.2.1, m.k) 0x0F

/-- TILEDATA against inbox halves, other TILEDATA and staging_bytes. -/
def dataCross (bs : List Byte) (l : List SectionInfo) (m : Option StageView) (staging : Nat) : List Flaw :=
  let ds := ofType l 4
  let at_ := fun (o : Nat) => fieldAt bs (o + 0x20) 4
  let len := fun (o : Nat) => fieldAt bs (o + 0x24) 4 + fieldAt bs (o + 0x28) 4
  ds.flatMap fun d =>
    let o := d.2.offset
    let sum := (ds.filter fun c => decide (c.1 ≤ d.1)).foldl (fun a c => a + fieldAt bs (c.2.offset + 0x24) 4) 0
    flawIf (decide (staging < sum)) (o + 0x27) 7 d.1
      ++ flawIf (ds.any fun c =>
        decide (c.1 < d.1) && (fieldAt bs c.2.offset 32 &&& fieldAt bs o 32) != 0 && rangesMeet (at_ c.2.offset) (len c.2.offset) (at_ o) (len o))
        (o + 0x2B) 0x10 d.1
      ++ match m with
        | none => []
        | some m => (m.owners bs).flatMap fun w =>
          crossIf (bitOf (fieldAt bs o 32) w.1
            && rangesMeet (at_ o) (len o) (0x1000 * fieldAt bs (w.2.2 + 0xC) 2) (0x2000 * fieldAt bs (w.2.2 + 0xE) 2))
            (o + 0x2B, d.1) (w.2.1, m.k) 0x10

/-- DECODE_TABLE sections against each other. -/
def decCross (bs : List Byte) (l : List SectionInfo) : List Flaw :=
  let ds := ofType l 5
  ds.flatMap fun d =>
    let o := d.2.offset
    let before := ds.filter fun c => decide (c.1 < d.1) && (fieldAt bs c.2.offset 32 &&& fieldAt bs o 32) != 0
    flawIf (before.any fun c => fieldAt bs (c.2.offset + 0x20) 1 == fieldAt bs (o + 0x20) 1) (o + 0x20) 0x12 d.1
      ++ flawIf (before.any fun c =>
        rangesMeet (fieldAt bs (c.2.offset + 0x22) 2) (fieldAt bs (c.2.offset + 0x24) 2) (fieldAt bs (o + 0x22) 2) (fieldAt bs (o + 0x24) 2))
        (o + 0x25) 0x12 d.1

/-- Bind indices of mover steps against BIND_SLOTS. -/
def bindCross (bs : List Byte) (l : List SectionInfo) : List Flaw :=
  let b := (ofType l 0x0A).head?
  let rows := match b with | some x => rowsAt (x.2.offset + 16) (fieldAt bs x.2.offset 2) 16 | none => []
  let ends : Nat × Nat := match b with
    | some x => (if rows.isEmpty then x.2.offset + 1 else x.2.offset + 16 * rows.length + 1, x.1)
    | none => (0, 0)
  (ofType l 8).flatMap fun x =>
    (moversAt bs x.2).flatMap fun a =>
      (rowsAt (a + 16) (min (fieldAt bs (a + 2) 2) (x.2.length / 32)) 32).flatMap fun t =>
        [t + 0x18, t + 0x1A].flatMap fun q =>
          if fieldAt bs q 2 = 0xFFFF then []
          else
            match rows.find? fun r => fieldAt bs r 2 == fieldAt bs q 2 with
            | none => crossIf true (q + 1, x.1) ends 0x15
            | some r => crossIf (fieldAt bs (r + 2) 1 == 0 || decide (3 < fieldAt bs (r + 2) 1)) (q + 1, x.1) (r + 2, (b.map (·.1)).getD 0) 0x15

/-- Every check that two sections decide. -/
def crossFlaws (bs : List Byte) (l : List SectionInfo) (staging : Nat) : List Flaw :=
  let m := stageView bs l
  dataCross bs l m staging ++ decCross bs l ++ bindCross bs l
    ++ match m with
      | none => []
      | some m =>
        codeCross bs l m
          ++ ((ofType l 7).flatMap fun x => (rowsAt (x.2.offset + 16) (min (fieldAt bs x.2.offset 4) (x.2.length / 32)) 32).flatMap fun e =>
            useFlaws bs m x.1 e 0x14 true)
          ++ ((ofType l 8).flatMap fun x => (moversAt bs x.2).flatMap fun a => useFlaws bs m x.1 (a + 4) 0x15 false)
          ++ ((ofType l 0x0A).flatMap fun x => (rowsAt (x.2.offset + 16) (min (fieldAt bs x.2.offset 2) (x.2.length / 16)) 16).flatMap fun e =>
            useFlaws bs m x.1 (e + 4) 0x0F false)

-- ## The whole image

/-- The checks of one section, its digest among them (R60). -/
def sectionFlaws (s : State) (P : Parcel) (bs : List Byte) (pl : List Nat) (minFrame : Nat) (k : Nat) (x : SectionInfo) : List Flaw :=
  let c : SecCtx := { bs := bs, o := x.offset, len := x.length, k := k, nv := 4 * fieldAt bs 0x10 1 }
  (match x.type with
    | 1 => resourceFlaws s P c
    | 2 => routeFlaws pl c
    | 3 => codeFlaws c
    | 4 => dataFlaws c
    | 5 => decTableFlaws c
    | 6 => hashFlaws c
    | 7 => flowFlaws c
    | 8 => moverFlaws c
    | 9 => stageFlaws minFrame c
    | 0x0A => bindFlaws c
    | 0x0B => sortFlaws c
    | _ => measureFlaws P x c)
    ++ c.bad (digest 0 0 (slice bs x.offset x.length) != x.digest) (x.length - 1) 0x18

/-- The first of a list of flaws in stream order, below a position: the lowest code at the lowest byte (R76). -/
def firstFlaw (limit : Nat) (l : List Flaw) : Option Flaw :=
  l.foldl (fun acc x =>
    if limit ≤ x.pos then acc
    else
      match acc with
      | none => some x
      | some b => if x.pos < b.pos || (x.pos == b.pos && x.code < b.code) then some x else some b) none

/-- The first flaw that the bytes delivered so far decide. Sections are looked at only behind a header and a table without flaws. A check
across sections sees all of them, and a byte not delivered reads 0 there; where it depends on such a byte, its position is not yet delivered
and it decides nothing. -/
def imageFlaw (s : State) (p L staging : Nat) (bs : List Byte) : Option Flaw :=
  let P := s.parcel p
  let n := bs.length
  match firstFlaw n (headerFlaws s P L bs) with
  | some x => some x
  | none =>
    if n < 64 then none
    else
      let l := sectionsOf bs
      match firstFlaw n (tableFlaws bs l) with
      | some x => some x
      | none =>
        if n < 64 + 48 * l.length then none
        else
          let r := (l.head?.map (·.offset)).getD 0
          let pl := (placementOf bs r P.quads.toNat).getD []
          let seen := (((List.range l.length).zip l).filter fun kx => decide (kx.2.offset < n))
          firstFlaw n ((seen.flatMap fun kx => sectionFlaws s P bs pl (fieldAt bs (r + 2) 2) kx.1 kx.2)
            ++ crossFlaws bs l staging)

/-- The section in whose bytes, or in whose table entry, a position lies (R76). -/
def sectionAt (bs : List Byte) (pos : Nat) : Nat :=
  let l := sectionsOf bs
  if pos < 64 then 0xFFFF
  else if pos < 64 + 48 * l.length then (pos - 64) / 48
  else (indexOf? (fun (x : SectionInfo) => decide (x.offset ≤ pos) && decide (pos < x.offset + x.length)) l).getD 0xFFFF

end Sys2Proof.Machine
end

