-- ==== Sys2Proof/Machine/Loader.lean ====
section
/-! DEFINITION. The image loader (chapter 03, R59, R75 to R82): streaming and staging, the TILEDATA copy, commit and cancellation. -/

namespace Sys2Proof.Machine

/-- Change a parcel's loader. -/
def State.updLoader (s : State) (p : Nat) (f : Loader → Loader) : State := s.updParcel p fun P => { P with loader := P.loader.map f }

/-- The load ends with a status: its shadow state is discarded. -/
def endLoad (s : State) (p : Nat) (L : Loader) (status : Nat) (det : List Byte) : State :=
  endSeq (s.updParcel p fun P => { P with loader := none }) L.seq status det

/-- The detail of a failure at an address of the staging range: source 1, and in sub the offset of the command's staging field (DESIGN CHOICE,
log entry 19: R77 gives the address alone). -/
def stagingDetail (va : Nat) : List Byte := detail 0 1 0 0x18 va

/-- Begin a LOAD_IMAGE or UNLOAD_IMAGE whose turn has come (R80, R82). -/
def beginLoad (s : State) (c : Cmd) (p : Nat) : State :=
  let L : Loader := {
    phase := if c.opcode = 0x10 then .streaming else .checked, seq := c.seq
    streamLen := c.f 0x10 8, staging := c.f 0x18 8, stagingBytes := c.f 0x20 8, bytes := [], shadow := {} }
  (s.updParcel p fun P => { P with loader := some L }).updCmd c.seq fun c => { c with phase := .running }

-- ## The stream (R59, R75, R76, R77)

/-- Bytes that a parcel source delivers, and whether it stops before `n`. A source stops at poisoned data as at a failure (DESIGN CHOICE, log
entry 19: R75 names error completions and translation and permission failures). -/
def sourceRead : Nat → State → Nat → Nat → Nat → List Byte × Bool × State
  | 0, s, _, _, _ => ([], true, s)
  | k + 1, s, p, va, n =>
    match cmdRead s p va n with
    | (.ok bs, s) => (bs, false, s)
    | (.error (_, i), s) => let (bs, _, s) := sourceRead k s p va i; (bs, true, s)

/-- What a completion of the stream delivers: bytes, and whether the source stops behind them, as it does at a poisoned completion (log
entry 19). -/
def streamBytes (s : State) (p : Nat) (space : Bool) (va : Nat) (r : ReadResult) (room : Nat) : List Byte × Bool × State :=
  match r with
  | .data bs => if space then sourceRead 3 s p va (min bs.length room) else (bs.take room, false, s)
  | _ => ([], true, s)

/-- The parts of the new bytes `[lo, hi)` that belong to TILEDATA: staging offset, and place in the stream. -/
def stagingParts (bs : List Byte) (lo hi : Nat) : List (Nat × Nat × Nat) :=
  let l := sectionsOf bs
  let first := 64 + 48 * l.length
  if lo < 64 && bs.length < first then []
  else
    (datasOf bs (((ofType l 4).map fun x => x.2.offset).filter fun o => decide (first ≤ o) && decide (o + 0x30 ≤ bs.length)) 0).zip
      (((ofType l 4).map fun x => x.2.offset).filter fun o => decide (first ≤ o) && decide (o + 0x30 ≤ bs.length)) |>.filterMap fun x =>
        let a := max lo (x.2 + 0x30)
        let b := min hi (x.2 + 0x30 + x.1.dataBytes)
        if a < b then some (x.1.stagedAt + (a - (x.2 + 0x30)), a, b - a) else none

/-- Write staged bytes page by page, up to the first page that cannot be written. -/
def stageBytes (s : State) (p va : Nat) (bs : List Byte) : Option CmdErr × State :=
  (pageRuns va bs.length).foldl (fun acc run =>
    match acc with
    | (some e, s) => (some e, s)
    | (none, s) =>
      match cmdPlaces s p run.1 run.2 true true with
      | .error e => (some e, s)
      | .ok l => (none, putAll s (layOut l (slice bs (run.1 - va) run.2)))) (none, s)

/-- Bytes of the stream arrive, or its source stops. DMA_STS and DMA_MOVED of channel 15 stay as they were: R59 has the loader read through the
channel and says nothing of what its registers then show (DESIGN CHOICE, log entry 19). -/
def streamData (s : State) (p : Nat) (c : Cmd) (L : Loader) (r : ReadResult) : State :=
  let s := if c.space then s else noteRead s (winPort s c.win) r
  let (new, stops, s) := streamBytes s p c.space (c.f 8 8 + L.bytes.length) r (L.streamLen - L.bytes.length)
  let lo := L.bytes.length
  let bs := L.bytes ++ new
  let flaw := imageFlaw s p L.streamLen L.stagingBytes bs
  let hi := match flaw with | some x => x.pos | none => bs.length
  let (err, s) := (stagingParts bs lo hi).foldl (fun (acc : Option CmdErr × State) x =>
    match acc with
    | (some e, s) => (some e, s)
    | (none, s) => stageBytes s p (L.staging + x.1) (slice bs x.2.1 x.2.2)) (none, s)
  let s := s.updLoader p fun L => { L with bytes := bs }
  match err, flaw with
  | some e, _ => endLoad s p L e.status (stagingDetail e.va)
  | none, some x => endLoad s p L sIMAGE_REJECTED (detail x.code 9 x.sec (if x.count then 0x8000 else 0) 0)
  | none, none =>
    if bs.length = L.streamLen then
      s.updLoader p fun L => { L with phase := .checked, bytes := [], shadow := parseImage bs (s.parcel p).quads.toNat }
    else if stops then endLoad s p L sIMAGE_REJECTED (detail 4 9 (sectionAt bs bs.length) 0 0)
    else s

/-- IMAGE_STREAM_DATA: the stream flows while the loader's snoop job holds its engine (R324). A direct transfer that channel 15 of virtual group 0
is still moving goes on beside the stream: R59 gives the loader the channel's path and says nothing of such a transfer (DESIGN CHOICE, log entry
19). -/
def imageStream (s : State) (p : Nat) (r : ReadResult) : State :=
  match (s.parcel p).loader with
  | none => s
  | some L =>
    match s.cmd L.seq with
    | some c => if L.phase == .streaming && L.bound then streamData s p c L r else s
    | none => s

-- ## The copy and the commit (R64, R78, R79)

/-- What ends a copy: nothing, poison, or a failure at an address. -/
inductive CopyEnd where
  | done | poisoned (va : Nat) | failed (e : CmdErr)
  deriving DecidableEq, Repr

/-- Physical tiles that an image's mask of virtual tiles names, under its own placement. -/
def Image.maskTiles (I : Image) (mask : Nat) : List Nat :=
  (setBits 256 mask).filterMap fun v => I.placement[v / 4]?.map fun q => tileAt q (v % 4)

/-- Copy TILEDATA sections, one after another, with the tiles reached so far. -/
def copySections (s : State) (p staging : Nat) (I : Image) : List TileData → List Nat → CopyEnd × List Nat × State
  | [], seen => (.done, seen, s)
  | d :: rest, seen =>
    let ts := I.maskTiles d.tiles
    match cmdRead s p (staging + d.stagedAt) d.dataBytes with
    | (.error (e, _), s) => (if e.status = sPOISONED then .poisoned e.va else .failed e, seen ++ ts, s)
    | (.ok bs, s) => copySections (ts.foldl (fun s t => s.tsWrite t d.tsOffset (bs ++ zeros d.zeroBytes)) s) p staging I rest (seen ++ ts)

/-- TILEDATA_COPY_DONE. A copy whose read meets a translation or permission failure, the staging range having been unmapped since the load,
ends the load with the status of the failure and leaves the stores it had reached undefined (DESIGN CHOICE, log entry 19: R79 speaks of poison). -/
def copyDone (s : State) (p : Nat) : State :=
  match (s.parcel p).loader with
  | none => s
  | some L =>
    if L.phase != .copying then s
    else
      match copySections s p L.staging L.shadow L.shadow.datas [] with
      | (.done, _, s) => s.updLoader p fun L => { L with phase := .copied }
      | (.poisoned va, ts, s) =>
        endLoad (ts.foldl (fun s t => s.forget (tsBase t) (tsBase t + 0x100000)) s) p L sPOISONED (stagingDetail va)
      | (.failed e, ts, s) =>
        endLoad (ts.foldl (fun s t => s.forget (tsBase t) (tsBase t + 0x100000)) s) p L e.status (stagingDetail e.va)

/-- The bytes of a tile store that no TILEDATA covers. -/
def uncovered (I : Image) (v : Nat) : List (Nat × Nat) :=
  let cov := sortBy (·.1) ((I.datas.filter fun d => bitOf d.tiles v).map fun d => (d.tsOffset, d.tsOffset + d.dataBytes + d.zeroBytes))
  let (a, l) := cov.foldl (fun (acc : Nat × List (Nat × Nat)) r =>
    (max acc.1 r.2, if acc.1 < r.1 then acc.2 ++ [(acc.1, r.1)] else acc.2)) (0, [])
  if a < 0x100000 then l ++ [(a, 0x100000)] else l

/-- The shadow image becomes live: tables, dispatcher parameters, published digests, and tile-store contents (R62, R64, R78, R197). The empty
image has no bytes to digest: 32 free bytes stand for its image digest (R62, log entry 19). -/
def commitImage (s : State) (p : Nat) (L : Loader) : State :=
  let I := L.shadow
  let v := (s.parcel p).vintage
  let s := s.updParcel p fun P => { P with
    image := I, dsp := { P.dsp with affDepth := s.dsp.affDepth.toNat, affWindow := s.dsp.affWindow.toNat } }
  let s := (s.parcel p).tiles.foldl (fun s t =>
    let l := match indexOf? (· == quadOf t) I.placement with
      | some u => uncovered I (4 * u + posInQuad t)
      | none => [(0, 0x100000)]
    l.foldl (fun s r => s.forget (tsBase t + r.1) (tsBase t + r.2)) s) s
  let s := if I.loaded then pubPut (pubPut s p 0 0 1 v I.digest) p 1 1 1 v I.keyDigest
    else pubPut (pubPut { s with freeCtr := s.freeCtr + 1 } p 0 0 1 v (freeBytes s 32)) p 1 1 1 v (zeros 48)
  endLoad s p L sSUCCESS (zeros 16)

/-- What a parcel boundary does with the load. `busy`: an EXECUTE is outstanding there. -/
def loadBoundary (s : State) (p : Nat) (busy : Bool) : State :=
  match (s.parcel p).loader with
  | none => s
  | some L =>
    if L.phase == .copied then commitImage s p L
    else if L.phase != .checked || busy then s
    else if L.shadow.datas.isEmpty then commitImage s p L
    else s.updLoader p fun L => { L with phase := .copying }

/-- Whether a CANCEL that a boundary observes still finds the load before its copy (R81). -/
def loadCancellable (s : State) (p seq : Nat) : Bool :=
  match (s.parcel p).loader with
  | some L => L.seq != seq || L.phase == .streaming || L.phase == .checked
  | none => true

/-- A cancelled load ends, whether it is being loaded or waits its turn. -/
def cancelLoad (s : State) (p : Nat) (c : Cmd) : State :=
  endCmd (s.updParcel p fun P => { P with loader := P.loader.filter fun L => L.seq != c.seq }) c sCANCELLED (zeros 16)

end Sys2Proof.Machine
end

