-- ==== Sys2Proof/Machine/Wear.lean ====
section
/-! DEFINITION. Wear of casks (chapter 16, R339 to R341): the wear fraction, its estimate, thresholds and limit. -/

namespace Sys2Proof.Machine

/-- The serial of an identity record. -/
def recSerial (r : List Byte) : List Byte := slice r 8 20

-- ## Wear (R339 to R341)

/-- A quotient as numerator and denominator; by 0, a free value. -/
def ratio (a b : Nat) : Nat × Nat := if b = 0 then (Config.divZero a, 1) else (a, b)
/-- The larger of two quotients. -/
def ratioMax (x y : Nat × Nat) : Nat × Nat := if x.1 * y.2 < y.1 * x.2 then y else x
/-- Order of quotients. -/
def ratioLt (x y : Nat × Nat) : Bool := decide (x.1 * y.2 < y.1 * x.2)

/-- The wear fraction of a cask. -/
def Cask.wear (C : Cask) : Nat × Nat :=
  ratioMax (ratio C.page.avgPe.toNat (fieldAt C.idrec 0x28 4)) (ratio C.wrBytes.toNat (fieldAt C.idrec 0x2C 4 * 10 ^ 12))

/-- The largest number of at most `k` bits that a falling test accepts, 0 counting as accepted. -/
def maxBelow (f : Nat → Bool) : Nat → Nat → Nat
  | 0, acc => acc
  | k + 1, acc => if f (acc + 2 ^ k) then maxBelow f k (acc + 2 ^ k) else maxBelow f k acc

/-- A count of days, clamped to 65,534. -/
def daysOf (f : Nat → Bool) : Nat := min (maxBelow f 16 0) 65534

/-- eol, early and late of R340 over samples of day and wear, oldest first; `tn` is the day of the newest. With W the wear times a common
denominator D, Sxx, Sxy and Sww are the sums of R340 times n, and R is n Sxx D (1 - wn). -/
def eolEstimate (l : List (Nat × Nat × Nat)) : Nat × Nat × Nat :=
  if l.length < 7 then (0xFFFF, 0xFFFF, 0xFFFF)
  else
    let D := l.foldl (fun d x => Nat.lcm d x.2.2) 1
    let pts : List (Int × Int) := l.map fun x => ((x.1 : Int), ((x.2.1 * (D / x.2.2) : Nat) : Int))
    let n : Int := l.length
    let St := pts.foldl (fun a x => a + x.1) 0
    let Sw := pts.foldl (fun a x => a + x.2) 0
    let Sxx := n * pts.foldl (fun a x => a + x.1 * x.1) 0 - St * St
    let Sxy := n * pts.foldl (fun a x => a + x.1 * x.2) 0 - St * Sw
    let Sww := n * pts.foldl (fun a x => a + x.2 * x.2) 0 - Sw * Sw
    let tn : Int := (l.getLast?.map (·.1)).getD 0
    let R := n * Sxx * D - Sw * Sxx - Sxy * (n * tn - St)
    let V := Sww * Sxx - Sxy * Sxy
    if R ≤ 0 then (0, 0, 0)
    else if Sxy ≤ 0 then (0xFFFF, 0xFFFF, 0xFFFF)
    else
      let kn := fun (k : Nat) => (k : Int) * n
      let eol := daysOf fun k => decide (kn k * Sxy ≤ R)
      let early := daysOf fun k =>
        decide (kn k * Sxy ≤ R) && decide (4 * kn k * kn k * V ≤ (n - 2) * (R - kn k * Sxy) * (R - kn k * Sxy))
      let late := if Sxy * Sxy * (n - 2) ≤ 4 * V then 0xFFFF
        else daysOf fun k =>
          decide (kn k * Sxy ≤ R) || decide ((n - 2) * (kn k * Sxy - R) * (kn k * Sxy - R) ≤ 4 * kn k * kn k * V)
      (eol, early, late)

/-- Whether a threshold stays armed, and whether it raises its event. -/
def threshold (armed : Bool) (early t : Nat) : Bool × Bool :=
  if early ≤ t then (false, armed) else (armed || decide (t + 30 < early), false)

/-- The thresholds of R341 against a new estimate. -/
def wearThresholds (s : State) (n : Nat) : State :=
  let C := s.cask n
  let e := C.early.toNat
  let a := threshold C.armed180 e 180
  let b := threshold C.armed90 e 90
  let c := threshold C.armed30 e 30
  let s := s.updCask n fun C => { C with
    armed180 := a.1, armed90 := b.1, armed30 := c.1, wearLevel := b2n (!a.1) + b2n (!b.1) + b2n (!c.1) }
  [a.2, b.2, c.2].foldl (fun s x => if x then raiseCask s n 3 else s) s

/-- Whether the cask is one that the engine reads and may write. -/
def CaskSt.serves (c : CaskSt) : Bool := c == .spare || c == .member || c == .readonly || c == .preparing

/-- A MEMBER becomes READONLY (R341). -/
def wearLimit (s : State) (n : Nat) : State :=
  let C := s.cask n
  if C.st == .member && ((decide (C.wear.2 ≤ C.wear.1) && C.page.spareBlocks == 0) || C.page.readOnly) then
    raiseCask (s.updCask n fun C => { C with st := .readonly }) n 2
  else s

/-- The hourly read of the wear-state page (R339); the hour of R343 begins again. -/
def wearRead (s : State) (n : Nat) (page : WearPage) : State :=
  if (s.cask n).st.serves then
    wearLimit (s.updCask n fun C => { C with page := { page with written := C.page.written }, slowHour := 0, slowRaised := false }) n
  else s

/-- Store the engine's write count on the cask's wear-state page (R339). -/
def storeCount (s : State) (n : Nat) : State := s.updCask n fun C => { C with page := { C.page with written := C.wrBytes } }

/-- A day passes on a port: the write count is stored, and a wear sample gives a new estimate (R339, R340). A day on which the cask does not serve
counts, and has no sample. -/
def wearSample (s : State) (n : Nat) : State :=
  let d := (s.cask n).day
  let s := s.updCask n fun C => { C with day := d + 1 }
  if !(s.cask n).st.serves then s
  else
    let s := storeCount s n
    let C := s.cask n
    let l := C.samples ++ [{ day := d, num := C.wear.1, den := C.wear.2 : WearSample }]
    let l := l.drop (l.length - 30)
    let e := eolEstimate (l.map fun x => (x.day, x.num, x.den))
    let s := s.updCask n fun C => { C with
      samples := l, eol := BitVec.ofNat 16 e.1, early := BitVec.ofNat 16 e.2.1, late := BitVec.ofNat 16 e.2.2 }
    wearThresholds s n

end Sys2Proof.Machine
end

