-- ==== Sys2Proof/Machine/Stripe.lean ====
section
/-! DEFINITION. Protection sets, stripes and units (chapter 18, R376 to R395; chapter 16, R336): layout, parity, staging, closing,
commitment and reading. -/

namespace Sys2Proof.Machine

/-- Bytes of a unit (R379). -/
def unitBytes : Nat := 262144
/-- Chunks of a zone: 1 GiB (R331). -/
def zoneChunks : Nat := 4096

/-- Protection set `i`. -/
def State.pset (s : State) (i : Nat) : Option ProtSet := Tab.find s.sto.sets i
/-- Change a protection set that exists. -/
def State.updPset (s : State) (i : Nat) (f : ProtSet → ProtSet) : State :=
  match s.pset i with
  | none => s
  | some P => { s with sto := { s.sto with sets := Tab.set s.sto.sets i (f P) } }
/-- Namespace `n`. -/
def State.nspace (s : State) (n : Nat) : Option Namespace := Tab.find s.sto.nss n
/-- Change a namespace that exists. -/
def State.updNs (s : State) (n : Nat) (f : Namespace → Namespace) : State :=
  match s.nspace n with
  | none => s
  | some N => { s with sto := { s.sto with nss := Tab.set s.sto.nss n (f N) } }

/-- Bytes of a namespace. -/
def Namespace.bytes (N : Namespace) : Nat := N.nblocks * N.bs
/-- Units of a namespace. -/
def Namespace.units (N : Namespace) : Nat := ceilDiv N.bytes unitBytes

/-- Members that are unavailable (R378). -/
def ProtSet.gone (P : ProtSet) : Nat := (P.members.filter (·.gone)).length

/-- STO_SET_STS.state (R378): 1 NORMAL, 2 DEGRADED, 3 REBUILDING, 4 BROKEN. -/
def ProtSet.code (P : ProtSet) : Nat :=
  if P.p < P.gone then 4
  else if P.moves.any (·.rebuild) then 3
  else if 0 < P.gone then 2
  else 1

/-- The state of a set, 0 where there is none. -/
def setCode (s : State) (i : Nat) : Nat := ((s.pset i).map ProtSet.code).getD 0

/-- Note a change of a set's state (STO_STS.set_change, HEALTH cause 2). -/
def noteSet (s : State) (i old : Nat) : State :=
  if setCode s i = old then s
  else
    let s := { s with sto := { s.sto with setChange := true } }
    if s.sto.setEvEn then raiseHealth s 2 else s

/-- Change a set and note whether its state changed. -/
def changeSet (s : State) (i : Nat) (f : ProtSet → ProtSet) : State := noteSet (s.updPset i f) i (setCode s i)

/-- Units of the namespaces on a set. -/
def setUsed (s : State) (i : Nat) : Nat :=
  s.sto.nss.foldl (fun n kN => if kN.2.set = i then n + kN.2.units else n) 0

/-- The data capacity of a set (R381). -/
def setCapacity (n p z r : Nat) : Nat := (n - p) * (z - 64) * 4096 * (100 - r) / 100

-- ## Stripe layout and parity (R383, R384)

/-- Member of the P chunk of stripe `k` in a set of `n`. -/
def memberP (n k : Nat) : Nat := n - 1 - k % n
/-- Member of the Q chunk. -/
def memberQ (n k : Nat) : Nat := (memberP n k + 1) % n
/-- Members of the data chunks, in chunk order. -/
def dataMembers (n p k : Nat) : List Nat :=
  (List.range n).filter fun m => !(1 ≤ p && m == memberP n k) && !(p == 2 && m == memberQ n k)

/-- Multiply by g = 2 in GF(2^8) with polynomial 0x11D. -/
def gfDouble (b : Nat) : Nat := if 128 ≤ b then (2 * b) ^^^ 0x11D else 2 * b
/-- g^i · b. -/
def gfShift : Nat → Nat → Nat
  | 0, b => b
  | i + 1, b => gfShift i (gfDouble b)

/-- The byte of a chunk at an offset. -/
def chunkByte (d : UnitData) (o : Nat) : Byte := (cellFind d o).getD 0

/-- Add a chunk, each byte mapped, into a parity chunk. -/
def addChunk (f : Byte → Byte) (acc d : UnitData) : UnitData :=
  d.foldl (fun acc c => cellSet acc c.1 (chunkByte acc c.1 ^^^ f c.2)) acc

/-- The P chunk. -/
def parityP (l : List UnitData) : UnitData := l.foldl (addChunk id) []
/-- The Q chunk, from data chunk `i` on. -/
def parityQ : Nat → List UnitData → UnitData
  | _, [] => []
  | i, d :: l => addChunk (fun b => BitVec.ofNat 8 (gfShift i b.toNat)) (parityQ (i + 1) l) d

-- ## Units

/-- The bytes of a unit's content as a string. -/
def unitSlice (d : UnitData) (o n : Nat) : List Byte := (List.range n).map fun i => chunkByte d (o + i)
/-- A unit's content with bytes replaced from an offset. -/
def unitPut (d : UnitData) (o : Nat) (bs : List Byte) : UnitData := cellsWrite d o bs

/-- The content that waits for a unit in a set, newest first: some none is an unmapping. -/
def stagedOf (P : ProtSet) (id : UnitId) : Option (Option UnitData) :=
  match P.opened.find? fun x => x.id == id with
  | some x => some x.data
  | none => ((P.closing.reverse.flatMap (·.content)).find? fun x => x.id == id).map (·.data)

/-- The port of the cask that holds the chunk of a member: the member's own, or the target of a move where the stripe was written there, or was
committed there by a rebuild (R338, R347); none while that cask is unavailable. -/
def chunkPort (P : ProtSet) (S : Stripe) (m : Nat) : Option Nat :=
  match P.members[m]? with
  | none => none
  | some x =>
    let own := if x.gone then none else some x.port
    match Tab.find S.zones m with
    | none => own
    | some a =>
      if a.serial = x.serial && !x.gone then own else (P.moves.find? fun v => v.member == m && v.serial == a.serial).map (·.target)

/-- Whether the chunk of a member is missing with its cask: unavailable, or omitted while it was (R394). -/
def chunkMissing (P : ProtSet) (S : Stripe) (m : Nat) : Bool := (chunkPort P S m).isNone || S.omitted.contains m

/-- Members whose chunk of a stripe cannot be read: missing, or lost to a media error. -/
def lostMembers (P : ProtSet) (S : Stripe) : List Nat :=
  (List.range P.members.length).filter fun m => chunkMissing P S m || S.lost.contains m

/-- Whether a chunk can be supplied, read or reconstructed, and the status otherwise (R393). -/
def chunkStatus (P : ProtSet) (S : Stripe) (m : Nat) : Option Nat :=
  let l := lostMembers P S
  if !l.contains m || l.length ≤ P.p then none
  else if l.any (chunkMissing P S) then some sCASK_MISSING
  else some sMEDIA_ERROR

/-- Where a unit's committed copy lies: set, stripe, data chunk and member. -/
structure UnitAt where
  set : Nat
  k : Nat
  P : ProtSet
  S : Stripe
  c : Nat
  m : Nat
  deriving DecidableEq, Repr

/-- Where a unit's committed copy lies, if it has one. -/
def committedAt (s : State) (id : UnitId) : Option UnitAt :=
  match s.nspace id.ns with
  | none => none
  | some N =>
    match s.pset N.set, Tab.find N.map id.unit with
    | some P, some (k, c) =>
      match Tab.find P.stripes k, (dataMembers P.members.length P.p k)[c]? with
      | some S, some m => some { set := N.set, k := k, P := P, S := S, c := c, m := m }
      | _, _ => none
    | _, _ => none

/-- The current copy of a unit, or the status of a read of it (R386, R387, R393). An unmapped unit is zero (R380). -/
def unitNow (s : State) (id : UnitId) : Except Nat UnitData :=
  match (s.nspace id.ns).bind fun N => (s.pset N.set).bind fun P => stagedOf P id with
  | some x => .ok (x.getD [])
  | none =>
    match committedAt s id with
    | none => .ok []
    | some x =>
      match chunkStatus x.P x.S x.m with
      | some st => .error st
      | none => .ok ((x.S.data[x.c]?).getD [])

/-- Whether a unit is mapped, staged content included. -/
def unitMapped (s : State) (id : UnitId) : Bool :=
  match (s.nspace id.ns).bind fun N => (s.pset N.set).bind fun P => stagedOf P id with
  | some x => x.isSome
  | none => ((s.nspace id.ns).bind fun N => Tab.find N.map id.unit).isSome

/-- The pieces of a namespace byte range, unit by unit: unit, offset within it, bytes. -/
def unitRuns (o n : Nat) : List (Nat × Nat × Nat) :=
  if n = 0 then []
  else (List.range ((o + n - 1) / unitBytes - o / unitBytes + 1)).map fun i =>
    let lo := max o ((o / unitBytes + i) * unitBytes)
    (lo / unitBytes, lo % unitBytes, min (o + n) ((o / unitBytes + i + 1) * unitBytes) - lo)

/-- Read bytes of a namespace. -/
def nsRead (s : State) (ns o n : Nat) : Except Nat (List Byte) :=
  (unitRuns o n).foldl (fun acc r =>
    match acc, unitNow s { ns := ns, unit := r.1 } with
    | .ok bs, .ok d => .ok (bs ++ unitSlice d r.2.1 r.2.2)
    | .error e, _ => .error e
    | _, .error e => .error e) (.ok [])

-- ## Reads of casks (R343, R393)

/-- The read of one chunk of a stripe for a unit. -/
def chunkRead (s : State) (x : UnitAt) (id : UnitId) (r : CaskReader) (m : Nat) : Option CaskRead :=
  (chunkPort x.P x.S m).map fun n =>
    { port := n, set := x.set, stripe := x.k, member := m, id := id, reader := r, direct := m == x.m, bypass := (s.cask n).slowNs != 0 }

/-- The reads that reconstruct a unit's chunk: the other chunks of its stripe. -/
def otherReads (s : State) (x : UnitAt) (id : UnitId) (r : CaskReader) : List CaskRead :=
  ((List.range x.P.members.length).filter fun m => m != x.m && !(lostMembers x.P x.S).contains m).filterMap (chunkRead s x id r)

/-- The reads that supply a chunk of a stripe: of the chunk itself, or of what reconstructs it. -/
def supplyReads (s : State) (x : UnitAt) (id : UnitId) (r : CaskReader) : List CaskRead :=
  if !(lostMembers x.P x.S).contains x.m then (chunkRead s x id r x.m).toList
  else if (chunkStatus x.P x.S x.m).isNone then otherReads s x id r
  else []

/-- The reads that the current copy of a unit needs: none while it waits in staging or is unmapped. -/
def readsFor (s : State) (id : UnitId) (r : CaskReader) : List CaskRead :=
  if ((s.nspace id.ns).bind fun N => (s.pset N.set).bind fun P => stagedOf P id).isSome then []
  else
    match committedAt s id with
    | none => []
    | some x => supplyReads s x id r

/-- Issue reads. -/
def State.addReads (s : State) (l : List CaskRead) : State := { s with sto := { s.sto with reads := s.sto.reads ++ l } }

-- ## Zones (R336)

/-- Zone `z` of a cask. -/
def Cask.zone (C : Cask) (z : Nat) : Zone := Tab.get {} C.zones z

/-- A zone whose content is discarded: reset, if anything was written. -/
def Zone.emptied (z : Zone) : Zone := { written := 0, resets := z.resets + b2n (z.written != 0), opened := false }

/-- The zone at whose write pointer the next chunk goes: an open zone, or the free zone with the fewest resets. -/
def Cask.writeZone (C : Cask) : Option Nat :=
  match C.zones.find? fun kz => kz.2.opened && decide (kz.2.written < zoneChunks) with
  | some (z, _) => some z
  | none =>
    let fresh := (List.range (C.zones.length + 1)).map (64 + ·) |>.find? fun z => (Tab.find C.zones z).isNone && decide (z < C.zoneCount)
    let freed := (C.zones.filter fun kz => kz.2.written == 0 && !kz.2.opened).map fun kz => (kz.2.resets, kz.1)
    ((sortBy (·.1) (sortBy (·.2) (freed ++ (fresh.map fun z => (0, z)).toList))).head?).map (·.2)

/-- Write one chunk to a cask: the zone that takes it, its write pointer, and the engine's count of written bytes (R339). -/
def chunkWrite (s : State) (n : Nat) : Option Nat × State :=
  match (s.cask n).writeZone with
  | none => (none, s)
  | some z =>
    (some z, s.updCask n fun C =>
      let w := (C.zone z).written + 1
      { C with zones := Tab.set C.zones z { C.zone z with written := w, opened := decide (w < zoneChunks) }
               wrBytes := C.wrBytes + BitVec.ofNat 64 unitBytes })

/-- The port and the serial of the cask that takes new chunks of a member: the target while the member migrates (R347). -/
def writePlace (P : ProtSet) (m : Nat) : Nat × List Byte :=
  match P.moves.find? fun v => v.member == m && !v.rebuild with
  | some v => (v.target, v.serial)
  | none => ((P.members[m]?).map fun x => (x.port, x.serial)).getD (0, [])

-- ## Staging, closing and commitment (R386, R387)

/-- Build stripe `k` from contents, and write its chunks to the available members. -/
def buildStripe (s : State) (i k : Nat) (P : ProtSet) (content : List (Option UnitId × UnitData)) : Stripe × State :=
  let n := P.members.length
  let content := (content ++ List.replicate (n - P.p - content.length) (none, [])).take (n - P.p)
  let data := content.map (·.2)
  let skipped := (List.range n).filter fun m => ((P.members[m]?).map (·.gone)).getD true
  let (zones, s) := (List.range n).foldl (fun (acc : Tab ChunkAt × State) m =>
    if skipped.contains m then acc
    else
      let w := writePlace P m
      match chunkWrite acc.2 w.1 with
      | (some z, s) => (Tab.set acc.1 m { serial := w.2, zone := z }, wearLimit s w.1)
      | (none, s) => (acc.1, s)) ([], s)
  let S : Stripe := {
    units := content.map (·.1), data := data, pChunk := if 1 ≤ P.p then parityP data else [], qChunk := if P.p = 2 then parityQ 0 data else []
    omitted := skipped, zones := zones }
  (S, s.updPset i fun P => { P with
    nextStripe := k + 1
    moves := P.moves.map fun v => if v.rebuild then { v with left := v.left ++ [k] } else v })

/-- Close the open stripe of a set. -/
def closeStripe (s : State) (i : Nat) : State :=
  match s.pset i with
  | none => s
  | some P =>
    if P.opened.isEmpty then s
    else
      let k := P.nextStripe
      let chunks := P.opened.filterMap fun x => x.data.map fun d => (some x.id, d)
      let (S, s) := buildStripe s i k P chunks
      s.updPset i fun Q => { Q with opened := [], closing := Q.closing ++ [{ k := k, stripe := S, content := P.opened }] }

/-- Put content into the open stripe of a unit's set; the stripe closes when its data chunks are full. -/
def stageUnit (s : State) (id : UnitId) (d : Option UnitData) : State :=
  match s.nspace id.ns with
  | none => s
  | some N =>
    let s := s.updPset N.set fun P => { P with
      opened := if P.opened.any fun x => x.id == id then P.opened.map fun x => if x.id == id then { x with data := d } else x
        else P.opened ++ [{ id := id, data := d }] }
    match s.pset N.set with
    | none => s
    | some P => if P.members.length - P.p ≤ (P.opened.filter fun x => x.data.isSome).length then closeStripe s N.set else s

/-- Move the map entries of a stripe's content to it (R385, R387). -/
def mapStripe (s : State) (i : Nat) (c : Closing) : State :=
  let s := s.updPset i fun P => { P with stripes := Tab.set P.stripes c.k c.stripe }
  c.content.foldl (fun s x =>
    s.updNs x.id.ns fun N => { N with
      map := match x.data with
        | none => Tab.erase N.map x.id.unit
        | some _ => match indexOf? (· == some x.id) c.stripe.units with
          | some j => Tab.set N.map x.id.unit (c.k, j)
          | none => N.map }) s

/-- Commit the oldest closed stripe whose journal records are issued, if there is one; its number is returned. -/
def commitStripe (s : State) (i : Nat) : Option Nat × State :=
  match (s.pset i).bind fun P => P.closing.head? with
  | none => (none, s)
  | some c =>
    if !c.journal then (none, s)
    else (some c.k, s.updPset i (fun P => { P with closing := P.closing.drop 1 }) |> fun s => mapStripe s i c)

/-- Whether a stripe holds any mapped unit. -/
def stripeLive (s : State) (k : Nat) (S : Stripe) : Bool :=
  S.units.any fun u =>
    match u with
    | none => false
    | some id => (((s.nspace id.ns).bind fun N => Tab.find N.map id.unit).map (·.1)) == some k

/-- Whether a stripe has its chunk of a member in a zone of the member's own cask. -/
def inZone (P : ProtSet) (S : Stripe) (m z : Nat) : Bool :=
  match P.members[m]?, Tab.find S.zones m with
  | some x, some a => a.zone == z && a.serial == x.serial
  | _, _ => false

/-- Whether the chunk of a member is live: a data chunk while its unit is mapped to it, parity while the stripe holds any such. -/
def chunkLive (s : State) (P : ProtSet) (k : Nat) (S : Stripe) (m : Nat) : Bool :=
  match indexOf? (· == m) (dataMembers P.members.length P.p k) with
  | none => stripeLive s k S
  | some c =>
    match S.units[c]? with
    | some (some id) => ((s.nspace id.ns).bind fun N => Tab.find N.map id.unit) == some (k, c)
    | _ => false

/-- Chunks in a zone of a member that belong to closed stripes which have not committed: the zone cannot be reset under them. -/
def zoneWaiting (P : ProtSet) (m z : Nat) : Nat := (P.closing.filter fun c => inZone P c.stripe m z).length

/-- Live chunks in a zone of a member (R336); those of stripes that have not committed count as live. -/
def zoneLive (s : State) (P : ProtSet) (m z : Nat) : Nat :=
  (P.stripes.filter fun kS => inZone P kS.2 m z && chunkLive s P kS.1 kS.2 m).length + zoneWaiting P m z

/-- Live stripes that have a chunk in a zone of a member: what racking must move before the zone is reset (R337). -/
def zoneStripes (s : State) (P : ProtSet) (m z : Nat) : Tab Stripe :=
  P.stripes.filter fun kS => inZone P kS.2 m z && stripeLive s kS.1 kS.2

/-- Whether the casks of a set are in low power (R403): the engine is in PS4, or every parcel that holds one of its namespaces, and there is one, is
in PS3, no stripe is open and nothing moves. They enter it as soon as they may (DESIGN CHOICE, log 37). -/
def setRests (s : State) (i : Nat) : Bool :=
  let held := s.sto.nss.filterMap fun n => if n.2.set = i then n.2.attached else none
  s.pwr.ps4 ||
    match s.pset i with
    | none => false
    | some P => !held.isEmpty && held.all (fun p => (s.parcel p).ps == 3) && P.opened.isEmpty && P.moves.isEmpty && P.rack.isNone

end Sys2Proof.Machine
end

