-- ==== Sys2Proof/Machine/CaskOps.lean ====
section
/-! DEFINITION. What happens to casks (chapter 16): identity, wear and its estimate, failure, rebuild and migration, racking. -/

namespace Sys2Proof.Machine

-- ## Identity (R331, R332)

/-- Zones that a model has; 0 for a model that is not listed. -/
def modelZones (m : Nat) : Nat := if m = 0x4C06 then 57220 else if m = 0x4C12 then 114440 else 0
/-- Capacity of a model in bytes. -/
def modelBytes (m : Nat) : Nat := if m = 0x4C06 then 61440000000000 else 122880000000000

/-- The record's HMAC compares equal under key slot 0. -/
def tagOk (s : State) (r : List Byte) : Bool :=
  match (s.keySlot 0).key with
  | some (5, k) => hmac 5 k (r.take 0x60) == slice r 0x60 32
  | _ => false

/-- Whether another present cask that has passed its checks carries a serial. -/
def dupSerial (s : State) (n : Nat) (ser : List Byte) : Bool :=
  (List.range 16).any fun i => i != n && (s.cask i).present && (s.cask i).auth && recSerial (s.cask i).idrec == ser

/-- The identity checks of Table 2: the reason of the first that fails, 0 where all pass. -/
def identReason (s : State) (n : Nat) (r : List Byte) : Nat :=
  let m := fieldAt r 4 2
  if r.take 4 ≠ [0x58, 0x56, 0x43, 0x4B] || fieldAt r 6 2 ≠ 1 then 1
  else if modelZones m = 0 || fieldAt r 0x20 8 ≠ modelBytes m || fieldAt r 0x34 4 ≠ modelZones m then 2
  else if !zeroAt r 0x1C 4 || !zeroAt r 0x32 2 || !zeroAt r 0x40 32 then 1
  else if !tagOk s r then 3
  else if dupSerial s n (recSerial r) then 4
  else 0

-- ## Rebuild and migration (R346, R347, R349)

/-- The set and member number that a port serves. -/
def memberOf (s : State) (n : Nat) : Option (Nat × Nat) :=
  s.sto.sets.findSome? fun kP => (indexOf? (fun m => m.port == n && !m.gone) kP.2.members).map fun m => (kP.1, m)

/-- Whether a port is the target of some move. -/
def isTarget (s : State) (n : Nat) : Bool := s.sto.sets.any fun kP => kP.2.moves.any fun v => v.target == n

/-- The target of a move: of the SPARE casks large enough, the least worn, and the lowest port on a tie. -/
def chooseTarget (s : State) (zones : Nat) : Option Nat :=
  let l := (List.range 16).filter fun n => (s.cask n).st == .spare && decide (zones ≤ (s.cask n).zoneCount) && !isTarget s n
  l.foldl (fun acc n =>
    match acc with
    | none => some n
    | some m => if ratioLt (s.cask n).wear (s.cask m).wear then some n else some m) none

/-- The stripes of a set that hold live data, in stripe order, and those that have closed and not committed. -/
def liveStripes (s : State) (P : ProtSet) : List Nat :=
  (P.stripes.filter fun kS => stripeLive s kS.1 kS.2).map (·.1) ++ P.closing.map (·.k)

/-- Zones of a member that stripes name. -/
def zonesOf (P : ProtSet) (m : Nat) (ks : List Nat) : List ChunkAt :=
  (ks.filterMap fun k => (Tab.find P.stripes k).bind fun S => Tab.find S.zones m).eraseDups

-- ## Reading what a move copies (R338, R343)

/-- Whether newer content of any unit of a stripe waits: a move then discards its copy. -/
def supersededStripe (s : State) (k : Nat) (P : ProtSet) (S : Stripe) : Bool :=
  S.units.any fun u =>
    match u with
    | none => false
    | some id => (stagedOf P id).isSome && (((s.nspace id.ns).bind fun N => Tab.find N.map id.unit).map (·.1)) == some k

/-- A unit that a stripe holds live: reads that copy its chunks are made on that unit's behalf. -/
def stripeUnit (s : State) (k : Nat) (S : Stripe) : UnitId :=
  ((S.units.filterMap id).find? fun u => (((s.nspace u.ns).bind fun N => Tab.find N.map u.unit).map (·.1)) == some k).getD { ns := 0, unit := 0 }

/-- Whether the target of a move is on its port and ready to be written (R333). -/
def targetReady (s : State) (v : Move) : Bool :=
  (s.cask v.target).st == .spare && (s.cask v.target).auth && recSerial (s.cask v.target).idrec == v.serial

/-- Change one move of a set. -/
def ProtSet.setMove (P : ProtSet) (v : Move) (f : Move → Move) : ProtSet :=
  { P with moves := P.moves.map fun w => if w.target = v.target then f w else w }

/-- Nobody waits any longer for the reads of a reader. -/
def disown (s : State) (r : CaskReader) : State :=
  { s with sto := { s.sto with reads := s.sto.reads.map fun x => if x.reader = r then { x with reader := .nobody } else x } }

/-- A move that reads nothing begins to read its next stripe, if that can be moved now. -/
def beginCopy (s : State) (i : Nat) (v : Move) : State :=
  match s.pset i, v.left, v.copying with
  | some P, k :: _, none =>
    match Tab.find P.stripes k with
    | none => s
    | some S =>
      if P.recovering || !targetReady s v || !stripeLive s k S || supersededStripe s k P S then s
      else
        let x : UnitAt := { set := i, k := k, P := P, S := S, c := 0, m := v.member }
        (s.updPset i fun P => P.setMove v fun w => { w with copying := some k }).addReads (supplyReads s x (stripeUnit s k S) (.move i v.member))
  | _, _, _ => s

/-- The moves of a set that read nothing begin to. -/
def beginCopies (s : State) (i : Nat) : State := (((s.pset i).map (·.moves)).getD []).foldl (fun s v => beginCopy s i v) s

/-- Begin the rebuild of an unavailable member, if none runs and a target exists (R349). -/
def rebuildMember (s : State) (i m : Nat) : State :=
  match s.pset i with
  | none => s
  | some P =>
    match P.members[m]? with
    | none => s
    | some x =>
      if !x.gone || P.moves.any fun v => v.member == m then s
      else
        match chooseTarget s x.zoneCount with
        | none => s
        | some t =>
          let l := liveStripes s P
          beginCopies (changeSet s i fun P => { P with
            moves := P.moves ++ [{ member := m, target := t, serial := recSerial (s.cask t).idrec, rebuild := true, left := l
                                   total := (zonesOf P m l).length }] }) i

/-- Begin the rebuilds of a degraded set that targets allow, the lowest member first. -/
def tryRebuild (s : State) (i : Nat) : State := foldNat (List.range 16) (fun m s => rebuildMember s i m) s

/-- Begin the migration of member `m` of set `i` onto a target (R347): the cask's open zones are sealed. -/
def startMigration (s : State) (i m n t : Nat) : State :=
  let s := s.updCask n fun C => { C with st := .preparing, zones := C.zones.map fun kz => (kz.1, { kz.2 with opened := false }) }
  match s.pset i with
  | none => s
  | some P =>
    let l := liveStripes s P
    beginCopies (s.updPset i fun P => { P with
      moves := P.moves ++ [{ member := m, target := t, serial := recSerial (s.cask t).idrec, rebuild := false, left := l
                             total := (zonesOf P m l).length }] }) i

/-- A member that is being emptied and has lost its target gets another, if there is one (R349). -/
def retryMigration (s : State) (i m : Nat) : State :=
  match (s.pset i).bind fun P => (P.members[m]?).map fun x => (P, x) with
  | none => s
  | some (P, (x : Member)) =>
    if x.gone || (s.cask x.port).st != .preparing || P.moves.any fun v => v.member == m then s
    else
      match chooseTarget s (s.cask x.port).zoneCount with
      | some t => startMigration s i m x.port t
      | none => s

/-- Every set that waits for a spare. -/
def tryRebuilds (s : State) : State :=
  foldNat (s.sto.sets.map (·.1)) (fun i s => foldNat (List.range 16) (fun m s => retryMigration s i m) (tryRebuild s i)) s

/-- Write the set record to every available member (R377). -/
def writeRecords (s : State) (i : Nat) : State :=
  match s.pset i with
  | none => s
  | some P => P.members.foldl (fun s x =>
      if x.gone then s
      else s.updCask x.port fun C => { C with setRec := some {
        engine := s.glb.serial, set := i, generation := P.generation, p := P.p
        serials := (P.members.filter fun (y : Member) => !y.gone).map fun (y : Member) => y.serial } }) s

/-- Change member `m` of a set. -/
def ProtSet.setMember (P : ProtSet) (m : Nat) (f : Member → Member) : ProtSet :=
  { P with members := match P.members[m]? with | some x => setNth P.members m (f x) | none => P.members }

/-- A cask enters REMOVABLE (R348): its write count is stored, the link is off, CSK_ATTN# is low, and event 5 is raised. A cask whose link is
down takes no count. -/
def enterRemovable (s : State) (n : Nat) : State :=
  raiseCask ((if (s.cask n).linkUp && (s.cask n).auth then storeCount s n else s).updCask n fun C => { C with
    st := .removable, linkUp := false, perstLow := true, blinkLow := true, inSet := false, set := 0, prepare := none, qReason := 0 }) n 5

/-- The chunks that a migration has committed on its target are the ones to read, once the cask is gone or emptied (R347, R348). -/
def ProtSet.usePlaced (P : ProtSet) (v : Move) : ProtSet :=
  { P with
    stripes := P.stripes.map fun kS => (kS.1, match Tab.find v.placed kS.1 with | some a => { kS.2 with zones := Tab.set kS.2.zones v.member a } | none => kS.2)
    moves := P.moves.map fun w => if w.target = v.target then { w with placed := [] } else w }

/-- Use the placements of every move of a member. -/
def ProtSet.useAll (P : ProtSet) (m : Nat) : ProtSet := (P.moves.filter fun v => v.member == m).foldl ProtSet.usePlaced P

/-- A member becomes unavailable: the set changes, and a migration of it becomes the rebuild of what is left (R348). -/
def loseMember (s : State) (n : Nat) : State :=
  match memberOf s n with
  | none => s
  | some (i, m) =>
    let s := changeSet (disown s (.move i m)) i fun P =>
      let P := P.useAll m
      { P.setMember m (fun x => { x with gone := true }) with
        generation := P.generation + 1
        moves := P.moves.map fun v => if v.member = m then { v with rebuild := true, copying := none } else v }
    beginCopies (tryRebuild (writeRecords s i) i) i

/-- The move onto a port: its set, and the move. -/
def moveAt (s : State) (n : Nat) : Option (Nat × Move) :=
  s.sto.sets.findSome? fun kP => (kP.2.moves.find? fun v => v.target == n).map fun v => (kP.1, v)

/-- The target of a move is lost: a rebuild starts again on the next target, a migration too (R349). -/
def loseTarget (s : State) (n : Nat) : State :=
  match moveAt s n with
  | none => s
  | some (i, v) =>
    let s := changeSet (disown s (.move i v.member)) i fun P => { P with moves := P.moves.filter fun w => w.target != n }
    if v.rebuild then tryRebuild s i else retryMigration s i v.member

/-- A cask enters FAILED (R344, R503): CSK_PERST# goes low, the link is off, the indicator alternates, event 2 is raised. -/
def caskFail (s : State) (n : Nat) : State :=
  let s := s.updCask n fun C => { C with
    st := .failed, linkUp := false, perstLow := true, blinkLow := true, inSet := false, set := 0, prepare := none }
  let s := raiseCask s n 2
  loseTarget (loseMember s n) n


/-- The port of a seated cask is powered: its reference clock runs, and its reset is held (R503). -/
def caskPowerOn (s : State) (n : Nat) : State :=
  s.updCask n fun C => { C with st := .linking, powered := true, refclk := true, perstLow := true }

/-- What the engine keeps of the cask last seen on a port. -/
def Cask.past (C : Cask) : CaskPast := {
  serial := C.sampleSerial, samples := C.samples, eol := C.eol, early := C.early, late := C.late, armed180 := C.armed180, armed90 := C.armed90
  armed30 := C.armed30, wearLevel := C.wearLevel, zones := C.zones }

/-- Show what the engine keeps of a cask on a port. -/
def Cask.withPast (C : Cask) (x : CaskPast) : Cask := { C with
  sampleSerial := x.serial, samples := x.samples, eol := x.eol, early := x.early, late := x.late, armed180 := x.armed180, armed90 := x.armed90
  armed30 := x.armed30, wearLevel := x.wearLevel, zones := x.zones }

/-- Lay aside what the engine keeps of the cask that port `n` shows. -/
def layAside (s : State) (n : Nat) : State :=
  let x := (s.cask n).past
  let s := s.updCask n fun C => C.withPast {}
  if x.serial.isEmpty then s
  else { s with sto := { s.sto with past := (s.sto.past.filter fun (y : CaskPast) => y.serial != x.serial) ++ [x] } }

/-- The port is off and its cask gone (R345, R350, R503); what the engine keeps of it is laid aside. -/
def caskAbsent (s : State) (n : Nat) : State :=
  let target := isTarget s n
  let s := (layAside s n).updCask n fun C => { C with
    st := .absent, present := false, linkUp := false, powered := false, refclk := false, perstLow := true, blinkLow := false, inSet := false
    set := 0, qReason := 0, idrec := [], auth := false, zoneCount := 0, prepare := none
    page := { avgPe := 0, maxPe := 0, spareBlocks := 0, readOnly := false, written := 0 }, wrBytes := 0, setRec := none }
  if target then loseTarget s n else s

/-- Bring what the engine keeps of the cask with a serial to port `n`, from the port that showed it last or from those laid aside. -/
def bringPast (s : State) (n : Nat) (ser : List Byte) : State :=
  if (s.cask n).sampleSerial = ser then s
  else
    let l := ((List.range 16).map fun i => (s.cask i).past).filter fun (x : CaskPast) =>
      x.serial == ser || (x.serial == (s.cask n).sampleSerial && !x.serial.isEmpty)
    let s := { s with sto := { s.sto with past := s.sto.past ++ l } }
    let s := foldNat (List.range 16) (fun i s => if (s.cask i).sampleSerial = ser then s.updCask i fun C => C.withPast {} else s) s
    let x := (s.sto.past.find? fun (x : CaskPast) => x.serial == ser).getD { serial := ser }
    { s.updCask n fun C => C.withPast x with sto := { s.sto with past := s.sto.past.filter fun (x : CaskPast) => x.serial != ser } }

/-- The set and member that a set record places a serial at: a set of this engine, of the current generation, that lists the serial as an
active member (R335, R377). -/
def placedAt (s : State) (r : Option SetRecord) (ser : List Byte) : Option (Nat × Nat) :=
  match r with
  | none => none
  | some r =>
    match s.pset r.set with
    | none => none
    | some P =>
      if r.engine ≠ s.glb.serial || r.generation ≠ P.generation then none
      else (indexOf? (fun (m : Member) => m.serial == ser && !m.gone) P.members).map fun m => (r.set, m)

/-- A member whose cask is back on port `n`: a cask that a migration empties goes on being emptied (R338, log 35). -/
def joinMember (s : State) (n i m : Nat) : State :=
  let moves := ((s.pset i).map fun P => P.moves.any fun v => v.member == m && !v.rebuild).getD false
  let s := s.updCask n fun C => { C with st := .member, inSet := true, set := i }
  let s := wearLimit (raiseCask (s.updPset i fun P => P.setMember m fun y => { y with port := n }) n 1) n
  if moves then s.updCask n fun C => { C with st := .preparing } else s

/-- A stripe without the chunks that a cask held: what it held is discarded (R335). -/
def Stripe.without (S : Stripe) (ser : List Byte) : Stripe :=
  let ms := (S.zones.filter fun e => e.2.serial == ser).map (·.1)
  { S with zones := S.zones.filter fun e => e.2.serial != ser, lost := S.lost ++ ms.filter fun m => !S.lost.contains m }

/-- No stripe of a set has a chunk on a cask any longer. -/
def ProtSet.without (P : ProtSet) (ser : List Byte) : ProtSet :=
  { P with stripes := P.stripes.map (fun kS => (kS.1, kS.2.without ser)), closing := P.closing.map fun c => { c with stripe := c.stripe.without ser } }

/-- A SPARE is identified: what it held is discarded (R335), but for what a move under way has committed on it (R338, log 35). -/
def joinSpare (s : State) (n : Nat) (ser : List Byte) : State :=
  let target := s.sto.sets.any fun kP => kP.2.moves.any fun v => v.serial == ser
  let s := s.updCask n fun C => { C with st := .spare, setRec := none, zones := if target then C.zones else C.zones.map fun z => (z.1, z.2.emptied) }
  let s := foldNat (s.sto.sets.map (·.1)) (fun i s => s.updPset i fun P =>
    let P := if target then P else P.without ser
    { P with moves := P.moves.map fun v => if v.serial = ser then { v with target := n } else v }) s
  tryRebuilds (raiseCask s n 1)


/-- A cask passes or fails its identity checks (R332, R335). -/
def caskIdentify (s : State) (n : Nat) (x : CaskIdent) : State :=
  let r := (x.record ++ zeros 128).take 128
  let why := identReason s n r
  let s := s.updCask n fun C => { C with idrec := r }
  if why ≠ 0 then
    let s := raiseCask (s.updCask n fun C => { C with st := .quarantine, qReason := why, blinkLow := true }) n 1
    if isTarget s n then loseTarget s n else s
  else
    let ser := recSerial r
    let s := (bringPast s n ser).updCask n fun C => { C with
      auth := true, page := x.page, wrBytes := x.page.written, zoneCount := fieldAt r 0x34 4, setRec := x.setRec }
    match placedAt s x.setRec ser with
    | some (i, m) => joinMember s n i m
    | none => joinSpare s n ser

-- ## Moves of stripes (R337, R338)

/-- Change the stripes that a move has left; it reads none. -/
def ProtSet.leave (P : ProtSet) (v : Move) (l : List Nat) : ProtSet := P.setMove v fun w => { w with left := l, copying := none }

/-- The next stripe of a migration or rebuild commits on the target once its reads have ended, or its copy is discarded. A stripe that has closed
and not committed waits its turn; a chunk that parity cannot supply stays lost. What a migration commits is read from the cask until it ends
(R347). -/
def moveHead (s : State) (i : Nat) (v : Move) (P : ProtSet) (k : Nat) (rest : List Nat) : State :=
  match Tab.find P.stripes k with
  | none => s.updPset i fun P => P.leave v (if P.closing.any fun c => c.k == k then rest ++ [k] else rest)
  | some S =>
    if !stripeLive s k S then s.updPset i fun P => P.leave v rest
    else if supersededStripe s k P S then s.updPset i fun P => P.leave v (rest ++ [k])
    else if v.copying ≠ some k then s
    else if (chunkStatus P S v.member).isSome then
      s.updPset i fun P => { P.leave v rest with
        stripes := Tab.set P.stripes k { S with lost := v.member :: S.lost.filter (· != v.member), omitted := S.omitted.filter (· != v.member) } }
    else
      match chunkWrite s v.target with
      | (none, s) => s.updPset i fun P => P.leave v (rest ++ [k])
      | (some z, s) =>
        let a : ChunkAt := { serial := v.serial, zone := z }
        if v.rebuild then
          let S := { S with
            omitted := S.omitted.filter (· != v.member), lost := S.lost.filter (· != v.member), zones := Tab.set S.zones v.member a }
          s.updPset i fun P => { P.leave v rest with stripes := Tab.set P.stripes k S }
        else s.updPset i fun P => (P.leave v rest).setMove v fun w => { w with placed := Tab.set w.placed k a }

/-- A migration or rebuild takes its next step, and begins to read what comes after it. -/
def moveNext (s : State) (i : Nat) (v : Move) : State :=
  match s.pset i, v.left with
  | some P, k :: rest =>
    if P.recovering || !targetReady s v || s.sto.reads.any fun r => r.reader == .move i v.member then s
    else beginCopies (moveHead s i v P k rest) i
  | _, _ => s

/-- The rackable zone with the lowest live fraction in a set: member, zone, live chunks (R336, R337). -/
def rackZone (s : State) (P : ProtSet) : Option (Nat × Nat × Nat) :=
  let all := (List.range P.members.length).flatMap fun m =>
    match P.members[m]? with
    | none => []
    | some x =>
      if x.gone then []
      else
        let C := s.cask x.port
        C.zones.filterMap fun kz =>
          let l := zoneLive s P m kz.1
          if kz.2.written = zoneChunks && l * 100 < C.livePct.toNat * zoneChunks then some (m, kz.1, l) else none
  (sortBy (fun x => x.2.2) all).head?

/-- Reset a zone of a member. -/
def resetZone (s : State) (P : ProtSet) (m z : Nat) : State :=
  match P.members[m]? with
  | none => s
  | some x => s.updCask x.port fun C => { C with zones := Tab.set C.zones z { written := 0, resets := (C.zone z).resets + 1, opened := false } }

/-- Reset a zone once no live stripe is left in it (R337). -/
def resetIfEmpty (s : State) (i m z : Nat) : State :=
  match s.pset i with
  | none => s
  | some P => if (zoneStripes s P m z).isEmpty && zoneWaiting P m z == 0 then resetZone s P m z else s

/-- Copy one live stripe into a new stripe of its set, dead units becoming padding. -/
def rackStripe (s : State) (i k : Nat) (P : ProtSet) (S : Stripe) : State :=
  let live := (List.range S.units.length).filterMap fun j =>
    match S.units[j]? with
    | some (some id) => if ((s.nspace id.ns).bind fun N => Tab.find N.map id.unit) = some (k, j) then some (id, (S.data[j]?).getD []) else none
    | _ => none
  let (S', s) := buildStripe s i P.nextStripe P (live.map fun x => (some x.1, x.2))
  mapStripe s i { k := P.nextStripe, stripe := S', content := live.map fun x => { id := x.1, data := some x.2 } }

/-- Whether the live content of a stripe can be copied: nothing newer waits, and every data chunk can be supplied. -/
def rackable (s : State) (P : ProtSet) (k : Nat) (S : Stripe) : Bool :=
  stripeLive s k S && !supersededStripe s k P S && !((List.range S.data.length).any fun c =>
    (((dataMembers P.members.length P.p k)[c]?).bind fun m => chunkStatus P S m).isSome)

/-- The reads that copy the live units of a stripe. -/
def rackReads (s : State) (i k : Nat) (P : ProtSet) (S : Stripe) : List CaskRead :=
  (List.range S.units.length).flatMap fun c =>
    match S.units[c]?, (dataMembers P.members.length P.p k)[c]? with
    | some (some id), some m =>
      if chunkLive s P k S m then supplyReads s { set := i, k := k, P := P, S := S, c := c, m := m } id (.rack i) else []
    | _, _ => []

/-- Racking begins with the next zone of a set: one without live data is reset, else a live stripe of it is read. It never begins on casks in low
power (R403), nor in a set that recovers or holds a READONLY cask (R342). -/
def beginRack (s : State) (i : Nat) : State :=
  match s.pset i with
  | none => s
  | some P =>
    if P.rack.isSome || P.recovering || setRests s i || P.members.any fun m => (s.cask m.port).st == .readonly then s
    else
      match rackZone s P with
      | none => s
      | some (m, z, _) =>
        match zoneStripes s P m z with
        | [] => resetIfEmpty s i m z
        | (k, S) :: _ =>
          if rackable s P k S then (s.updPset i fun P => { P with rack := some (m, z, k) }).addReads (rackReads s i k P S) else s

/-- Racking takes one step in a set: the stripe that it has read commits at its new place, or its copy is discarded; then it goes on. -/
def rackNext (s : State) (i : Nat) : State :=
  match s.pset i with
  | none => s
  | some P =>
    match P.rack with
    | none => beginRack s i
    | some (m, z, k) =>
      if P.recovering || s.sto.reads.any fun r => r.reader == .rack i then s
      else
        let s := s.updPset i fun P => { P with rack := none }
        let s := match Tab.find P.stripes k with
          | some S =>
            if rackable s P k S && !(P.members.any fun m => (s.cask m.port).st == .readonly) then resetIfEmpty (rackStripe s i k P S) i m z else s
          | none => s
        beginRack s i

/-- The move that concerns a port, as its target or as the cask it empties. -/
def moveOf (s : State) (n : Nat) : Option (Nat × Move) :=
  match moveAt s n with
  | some x => some x
  | none =>
    match memberOf s n with
    | none => none
    | some (i, m) => ((s.pset i).bind fun P => P.moves.find? fun v => v.member == m).map fun v => (i, v)

/-- STRIPE_MOVE_COMMIT of a port: its migration or rebuild goes on, or else its set's racking. -/
def moveCommit (s : State) (n : Nat) : State :=
  match moveOf s n with
  | some (i, v) => moveNext s i v
  | none =>
    match memberOf s n with
    | some (i, _) => rackNext s i
    | none => s

/-- Data capacity of a set with its present members (R381). -/
def ProtSet.capacity (P : ProtSet) : Nat :=
  setCapacity P.members.length P.p (P.members.foldl (fun z m => min z m.zoneCount) (2 ^ 32)) P.reserve

/-- The target of a finished move becomes MEMBER in the member's place (R347, R349). -/
def moveDone (s : State) (i : Nat) (v : Move) : State :=
  let T := s.cask v.target
  let s := s.updCask v.target fun C => { C with st := .member, inSet := true, set := i }
  let s := changeSet s i fun P =>
    let P := P.usePlaced v
    { P.setMember v.member (fun _ => { port := v.target, serial := recSerial T.idrec, zoneCount := T.zoneCount, gone := false }) with
      moves := P.moves.filter fun w => w.target != v.target, generation := P.generation + 1 }
  let s := s.updPset i fun P => { P with cap := P.capacity }
  wearLimit (raiseCask (writeRecords s i) v.target 6) v.target

/-- A move of a port whose stripes have all moved: its set does not recover, its target is ready, and the cask that a migration empties is
PREPARING (Table 3). -/
def finishedMove (s : State) (n : Nat) (rebuild : Bool) : Option (Nat × Move) :=
  (moveOf s n).filter fun x => x.2.rebuild == rebuild && x.2.left.isEmpty && targetReady s x.2 &&
    (s.pset x.1).any fun P => !P.recovering && (rebuild || (P.members[x.2.member]?).any fun m => (s.cask m.port).st == .preparing)

end Sys2Proof.Machine
end

