-- ==== Sys2Proof/Machine/Health.lean ====
section
/-! DEFINITION. Health and wear (chapter 23): indicators, samples, predictions, the health log, and telemetry over I3C. -/

namespace Sys2Proof.Machine

/-- Change the HLT block. -/
def State.updHlt (s : State) (f : Hlt → Hlt) : State := { s with hlt := f s.hlt }

/-- Indicator `i`: quad n under n, slice n under 64 + n, port i under 128 + i. -/
def Hlt.ind (H : Hlt) (i : Nat) : Indicator := Tab.get {} H.inds i
/-- Change an indicator. -/
def State.updInd (s : State) (i : Nat) (f : Indicator → Indicator) : State :=
  s.updHlt fun H => { H with inds := Tab.upd {} H.inds i f }

/-- HLT_AGE_LIMIT.ppm of stepping B0. -/
def ageLimit : Nat := 60000

/-- The port a link indicator measures is on and its link up; HPB's lanes are unused in port mode 1, and are not measured (R465). -/
def portMeasured (s : State) (i : Nat) : Bool :=
  if i = 0 then s.ports.hpa.linkUp else if i = 1 then s.ports.hpb.linkUp && !s.ports.bifurcated
  else (s.cask (i - 2)).linkUp && caskOn s (i - 2)

/-- A HEALTH cause of Table 2, admitted by HLT_CTL.ev_en. -/
def healthEvent (s : State) (cause : Nat) : State := if s.hlt.ctl.getLsbD 0 then raiseHealth s cause else s

/-- A change of value fields, under the rule of HLT_SEQ (R469). -/
def seqUpdate (s : State) (f : State → State) : State := (f s).updHlt fun H => { H with seq := H.seq + 2 }

/-- Whether the rails that a quad draws on hold: VDD_SRAM and VDD_CORE. -/
def quadRails (s : State) : Bool := !s.pwr.down.getLsbD 3 && !s.pwr.down.getLsbD 4

/-- OSCILLATOR_MEASURE (R464): the always-on domain measures a powered quad. -/
def oscMeasure (s : State) (q ppm : Nat) : State :=
  if !(quadPresent s q && quadOn s q && quadRails s) then s
  else if 1000000 < ppm || !Config.plausiblePpm ppm then healthEvent (s.updHlt fun H => { H with sensorFault := true }) 20
  else seqUpdate s fun s => s.updInd q fun I => { I with value := ppm, measured := true }

/-- LINK_MARGIN_MEASURE (R465). -/
def marginMeasure (s : State) (i margin : Nat) : State :=
  if !portMeasured s i then s
  else
    let s := seqUpdate s fun s => s.updInd (128 + i) fun I => { I with value := margin, measured := true }
    if margin < 50 then healthEvent (s.updHlt fun H => { H with marginLow := true }) 21 else s

/-- A link indicator whose port has been seated with a cask of another serial begins a new history (R465). The link's last margin stays, and so
does the shortfall of its present training. -/
def Indicator.seated (I : Indicator) (serial : List Byte) (short : Bool) : Indicator :=
  if I.serial = serial then I
  else { value := I.value, measured := I.measured, serial := serial, shortfalls := if short then I.shortfalls.getLast?.toList else [] }

/-- The trend of a cask port records a training that fell short (R462). -/
def noteShort (s : State) (n : Nat) (rate : LinkRate) (width : LinkWidth) : State :=
  if rate = .gt64 && width = .x4 then s
  else s.updInd (130 + n) fun I => { I with shortfalls := I.shortfalls ++ [(s.hlt.days, rate, width)] }

/-- The wear value of an indicator as a fraction (Table 1). -/
def wearOf (s : State) (i : Nat) (I : Indicator) : Nat × Nat :=
  if i < 64 then (I.value, ageLimit)
  else if i < 128 then (I.value, s.hlt.ceLimit.toNat)
  else
    let m := I.m0.getD I.value
    if m ≤ 50 then (1, 1) else (m - I.value, m - 50)

/-- The prediction of an indicator's history. -/
def Indicator.predict (I : Indicator) : Indicator :=
  let e := eolEstimate (I.history.map fun x => (x.day, x.num, x.den))
  { I with eol := e.1, early := e.2.1, late := e.2.2 }

/-- Append the sample of a powered day. -/
def sampleInd (s : State) (day i : Nat) (I : Indicator) : Indicator :=
  if !I.measured then I
  else
    let w := wearOf s i I
    let l := I.history ++ [{ day := day, num := w.1, den := w.2 : HSample }]
    ({ I with num := w.1, den := w.2, history := l.drop (l.length - 30), m0 := I.m0.or (some I.value), measured := false }).predict

/-- The indicators of a part. -/
def indicators (s : State) : List Nat :=
  (List.range 64).filter (quadPresent s) ++ ((List.range 64).filter (slicePresent s)).map (64 + ·)
    ++ ((List.range 18).filter fun i => decide (i < 2) || caskPresent s (i - 2)).map (128 + ·)

/-- The smallest of the values other than 0xFFFF. -/
def smallest (l : List Nat) : Nat := l.foldl min 0xFFFF

/-- The device summary (R467). -/
def deviceSummary (s : State) : State :=
  let l := (indicators s).map fun i => (i, s.hlt.ind i)
  let eol := smallest (l.map (·.2.eol))
  s.updHlt fun H => { H with
    devEol := eol, devEarly := smallest (l.map (·.2.early)), devLate := smallest (l.map (·.2.late))
    samples := l.foldl (fun n x => max n x.2.history.length) 0
    worst := ((l.find? fun x => x.2.eol == eol).map (·.1)).getD 0 }

/-- The thresholds of causes 16 to 18 against a new device prediction (R470). -/
def deviceThresholds (s : State) : State :=
  let H := s.hlt
  let a := threshold H.armed16 H.devEarly 180
  let b := threshold H.armed17 H.devEarly 90
  let c := threshold H.armed18 H.devEarly 30
  let s := s.updHlt fun H => { H with
    armed16 := a.1, armed17 := b.1, armed18 := c.1, devLevel := BitVec.ofNat 2 (b2n (!a.1) + b2n (!b.1) + b2n (!c.1)) }
  [(a.2, 16), (b.2, 17), (c.2, 18)].foldl (fun s x => if x.1 then healthEvent s x.2 else s) s

/-- Lines corrected in a slice since its stack's counters began. -/
def sliceCe (s : State) (n : Nat) : Nat := (Tab.get 0 (s.stack (n / 8)).ceCnt (n % 8)).toNat

/-- A slice indicator takes the day's corrected lines. -/
def sliceValue (s : State) (n : Nat) : State :=
  s.updInd (64 + n) fun I => { I with
    value := I.ceCarry + (sliceCe s n - I.ceBase), ceBase := sliceCe s n, ceCarry := 0, measured := true }

/-- The stacks' counters are about to be cleared: each slice indicator keeps the lines that the running day has had. -/
def carryLines (s : State) : State :=
  foldNat ((List.range 64).filter (slicePresent s)) (fun n s =>
    s.updInd (64 + n) fun I => { I with ceCarry := I.ceCarry + (sliceCe s n - I.ceBase), ceBase := 0 }) s

-- ## The health log (R468)

/-- The 64 bytes of a count record: the powered-day count, and the CRC32C of the bytes before it. -/
def countRecord (days : Nat) : List Byte :=
  let b := leBytes 8 days ++ zeros 52
  b ++ leBytes 4 (crc32c 0xFFFFFFFF b ^^^ 0xFFFFFFFF)

/-- The count of a record that passes its check. -/
def recordDays (b : List Byte) : Option Nat :=
  if b.length = 64 && fieldAt b 60 4 == crc32c 0xFFFFFFFF (b.take 60) ^^^ 0xFFFFFFFF then some (fieldAt b 0 8) else none

/-- The powered-day count of the newer record that passes its check; 0 where neither does. -/
def HealthLog.days (L : HealthLog) : Nat := max ((recordDays L.count0).getD 0) ((recordDays L.count1).getD 0)

/-- Whether the first count record is the one that holds the newer count, and the second is written next. -/
def HealthLog.secondNext (L : HealthLog) : Bool :=
  match recordDays L.count0, recordDays L.count1 with
  | some a, some b => decide (b ≤ a)
  | some _, none => true
  | none, _ => false

/-- Store the health log (R468): the count records are written alternately. -/
def storeLog (s : State) : State :=
  if !s.hlt.ctl.getLsbD 1 then s
  else s.updHlt fun H => { H with log := {
    present := true, hist := H.inds
    count0 := if H.log.secondNext then H.log.count0 else countRecord H.days
    count1 := if H.log.secondNext then countRecord H.days else H.log.count1 } }

/-- The earliest prediction of a MEMBER, READONLY or PREPARING cask, with its port (Table 8). -/
def caskEol (s : State) : Nat :=
  let l := (List.range 16).filter fun n => let st := (s.cask n).st; st == .member || st == .readonly || st == .preparing
  l.foldl (fun acc n => if (s.cask n).early.toNat < acc % 0x10000 then (s.cask n).early.toNat + 0x10000 * n else acc) 0xFFFF

/-- HLT_CASK_EOL follows the casks, under the rule of HLT_SEQ. -/
def noteCaskEol (s : State) : State :=
  if caskEol s = s.hlt.caskEol then s else seqUpdate s fun s => s.updHlt fun H => { H with caskEol := caskEol s }

/-- The history of a cask port follows the serial of the cask identified there (R465), and the device summary follows the histories (R467). -/
def portHistory (s : State) (n : Nat) : State :=
  let C := s.cask n
  if (s.hlt.ind (130 + n)).serial = recSerial C.idrec then s
  else deviceThresholds (seqUpdate s fun s => deviceSummary (s.updInd (130 + n) fun I => I.seated (recSerial C.idrec) C.short))

/-- The end of a powered day while the history is loaded (R466 to R470). -/
def dayEnd (s : State) : State :=
  let day := s.hlt.days + 1
  let s := seqUpdate s fun s =>
    let s := foldNat ((List.range 64).filter (slicePresent s)) (fun n s => sliceValue s n) s
    let s := foldNat (indicators s) (fun i s => s.updInd i (sampleInd s day i)) s
    deviceSummary (s.updHlt fun H => { H with days := day, caskEol := caskEol s })
  let s := foldNat (indicators s) (fun i s =>
    let I := s.hlt.ind i
    if (I.history.getLast?.map (·.day)) == some day && I.den ≤ I.num then
      healthEvent (s.updHlt fun H => { H with atLimit := true }) 19
    else s) s
  storeLog (deviceThresholds s)

/-- A powered day ends before the history is loaded: it counts, the readings of the slices are the day's, and no indicator has a sample
(R466). -/
def dayWaits (s : State) : State :=
  let s := seqUpdate s fun s => foldNat ((List.range 64).filter (slicePresent s)) (fun n s => sliceValue s n) s
  s.updHlt fun H => { H with waitDays := H.waitDays + 1, inds := H.inds.map fun e => (e.1, { e.2 with measured := false }) }

/-- An indicator as the log has it, or with an empty history; its reading is the present one, and the shortfalls of links trained since are added.
That of a cask port follows the serial of the cask identified there (R465). -/
def loadedInd (s : State) (i : Nat) : Indicator :=
  let I := s.hlt.ind i
  let J := if s.hlt.log.present then (Tab.get {} s.hlt.log.hist i).predict else {}
  let J := { J with
    value := I.value, measured := I.measured, ceBase := I.ceBase, ceCarry := I.ceCarry
    shortfalls := J.shortfalls ++ I.shortfalls.filter fun x => !J.shortfalls.contains x }
  let C := s.cask (i - 130)
  if 130 ≤ i && C.st.identified then J.seated (recSerial C.idrec) C.short else J

/-- The firmware loads the health log (R468): the day count goes on from the log's, with the days that ended since the reset. The device prediction
is new, and is held against its thresholds (R467, R470). -/
def loadLog (s : State) : State :=
  let L := s.hlt.log
  deviceThresholds (seqUpdate s fun s => deviceSummary (s.updHlt fun H => { H with
    valid := true, historyReset := H.historyReset || !L.present, inds := (indicators s).map fun i => (i, loadedInd s i)
    days := L.days + H.waitDays, waitDays := 0 }))

-- ## Registers (Tables 3 to 11)

/-- w × 1,000, rounded down, saturating at the field's 12 bits. -/
def Indicator.permille (I : Indicator) : Nat := if I.den = 0 then 0 else min (I.num * 1000 / I.den) 0xFFF

/-- An indicator's register (Table 10). -/
def Indicator.reg (I : Indicator) : Nat :=
  min I.value 0xFFFFF + 0x100000 * I.permille + 2 ^ 32 * I.eol + 2 ^ 48 * I.early


/-- The hottest present stack. -/
def stackTemp (s : State) : Nat := ((List.range 8).filter (stackPresent s)).foldl (fun a k => max a (s.stack k).temp) 0

/-- A register of the HLT block at an offset that is a multiple of 8. -/
def hltReg (s : State) (o : Nat) : Nat :=
  let H := s.hlt
  match o with
  | 0x000 => b2n H.valid + 2 * b2n H.historyReset + 4 * b2n H.sensorFault + 8 * b2n H.atLimit + 16 * b2n H.marginLow + 32 * H.devLevel.toNat
  | 0x008 => H.ctl.toNat
  | 0x010 => H.seq.toNat
  | 0x018 => H.devEol + 2 ^ 16 * H.devEarly + 2 ^ 32 * H.devLate + 2 ^ 48 * H.samples
  | 0x020 =>
    if H.devEol = 0xFFFF then 0
    else H.worst / 64 % 4 + 2 ^ 8 * (if H.worst < 128 then H.worst % 64 else H.worst - 128) + 2 ^ 16 * (H.ind H.worst).permille
  | 0x028 => H.caskEol
  | 0x030 => (s.pwr.dies[0]?.getD 0) + 2 ^ 8 * (s.pwr.dies[1]?.getD 0) + 2 ^ 16 * (s.pwr.dies[2]?.getD 0) + 2 ^ 24 * stackTemp s + 2 ^ 32 * H.peak
  | 0x038 => ageLimit
  | 0x040 => H.ceLimit.toNat
  | 0x048 => H.days % 2 ^ 32 + 2 ^ 32 * H.samples
  | _ =>
    let at_ := fun (base i present : Nat) => if present = 1 then (H.ind (base + i)).reg else 0
    if 0x100 ≤ o && o < 0x300 then at_ 0 ((o - 0x100) / 8) (b2n (quadPresent s ((o - 0x100) / 8)))
    else if 0x300 ≤ o && o < 0x500 then at_ 64 ((o - 0x300) / 8) (b2n (slicePresent s ((o - 0x300) / 8)))
    else if 0x500 ≤ o && o < 0x590 then
      let i := (o - 0x500) / 8
      at_ 128 i (b2n (decide (i < 2) || caskPresent s (i - 2)))
    else 0

-- ## The rows

/-- Whether VDD_AON is present: the always-on domain runs. -/
def aonLive (s : State) (f : State → State) : State := if s.pwr.down.getLsbD 0 then s else f s

/-- OSCILLATOR_MEASURE: the always-on domain measures, whether or not the other clocks run. -/
def execOscillatorMeasure (q : QuadId) (ppm : BitVec 32) (s : State) : Host.Outcome State Fault Refusal :=
  ok (aonLive s fun s => oscMeasure s q ppm.toNat)

/-- LINK_MARGIN_MEASURE. -/
def execLinkMarginMeasure (i : Fin 18) (margin : BitVec 16) (s : State) : Host.Outcome State Fault Refusal :=
  ok (live s fun s => marginMeasure s i margin.toNat)

/-- POWERED_DAY_END: the management complex counts it while VDD_AON is present. -/
def execPoweredDayEnd (s : State) : Host.Outcome State Fault Refusal :=
  ok (aonLive s fun s => if s.hlt.valid then dayEnd s else dayWaits s)

/-- Whether the target answers (R472, R504): it is powered from VDD_AON and VDD_IO18, at its dynamic address once it has one and else at its static
address 0x4E, and at the static address to legacy transfers. -/
def i3cAnswers (s : State) (x : I3cTo) : Bool :=
  !s.pwr.down.getLsbD 0 && !s.pwr.down.getLsbD 1 && x.addr == (if x.legacy then 0x4E else s.pkg.i3cDyn.getD 0x4E)

/-- I3C_PRIVATE_WRITE: two bytes set the offset; more are ignored, and fewer set nothing. -/
def execI3cPrivateWrite (w : I3cWrite) (s : State) : Host.Outcome State Fault Refusal :=
  ok (if i3cAnswers s w.dest && 2 ≤ w.bytes.length then { s with pkg := { s.pkg with i3cOff := fieldAt w.bytes 0 2 } } else s)

/-- A byte that the I3C target returns. -/
def i3cByte (s : State) (o : Nat) : Byte :=
  let o := o % 0x10000
  if o < 0x600 then BitVec.ofNat 8 (bits (hltReg s (o / 8 * 8)) (8 * (o % 8)) 8) else 0

/-- I3C_PRIVATE_READ. -/
def execI3cPrivateRead (r : I3cRead) (s : State) : Host.Outcome State Fault Refusal :=
  ok (if i3cAnswers s r.dest then { s with pkg := { s.pkg with
    i3cOut := (List.range r.len).map fun i => i3cByte s (s.pkg.i3cOff + i), i3cOff := (s.pkg.i3cOff + r.len) % 0x10000 } } else s)

/-- HLT_CE_LIMIT_WRITE. -/
def execHltCeLimitWrite (who : Who) (value : Word) (s : State) : Host.Outcome State Fault Refusal :=
  ok (live s fun s =>
    if isManager s who && fld value 0 16 != 0 then s.updHlt fun H => { H with ceLimit := BitVec.ofNat 16 (fld value 0 16) } else s)

/-- DYNAMIC_ADDRESS_ASSIGNMENT (R504): a target without power takes no address. -/
def execDynamicAddressAssignment (addr : BitVec 7) (s : State) : Host.Outcome State Fault Refusal :=
  ok (if s.pwr.down.getLsbD 0 || s.pwr.down.getLsbD 1 then s else { s with pkg := { s.pkg with i3cDyn := some addr } })

end Sys2Proof.Machine
end

