-- ==== Sys2Proof/Machine/Checks.lean ====
section
/-! DEFINITION. The check values of Table 2 of chapter 14: Adler-32 (RFC 1950), CRC-32 (RFC 1952), xxHash32 and XXH64, each as a running value
that takes more bytes. -/

namespace Sys2Proof.Machine

/-- CRC-32 of RFC 1952, from the value over what came before; 0 over nothing. -/
def crc32 (c : Nat) (bs : List Byte) : Nat := crcOver 0xEDB88320 (c ^^^ 0xFFFFFFFF) bs ^^^ 0xFFFFFFFF

/-- Adler-32 of RFC 1950, from the value over what came before; 1 over nothing. -/
def adler32 (c : Nat) (bs : List Byte) : Nat :=
  let r := bs.foldl (fun (x : Nat × Nat) b => ((x.1 + b.toNat) % 65521, (x.2 + (x.1 + b.toNat) % 65521) % 65521)) (c % 65536, c / 65536)
  r.2 * 65536 + r.1

-- ## xxHash

/-- The constants of one width of xxHash: the width in bits, its five primes, and the rotation and the stripe lane in bytes. -/
structure XxKind where
  width : Nat
  p1 : Nat
  p2 : Nat
  p3 : Nat
  p4 : Nat
  p5 : Nat
  rot : Nat
  deriving DecidableEq, Repr

/-- xxHash32. -/
def xx32 : XxKind := { width := 32, p1 := 2654435761, p2 := 2246822519, p3 := 3266489917, p4 := 668265263, p5 := 374761393, rot := 13 }
/-- XXH64. -/
def xx64 : XxKind := {
  width := 64, p1 := 11400714785074694791, p2 := 14029467366897019727, p3 := 1609587929392839161, p4 := 9650029242287828579
  p5 := 2870177450012600261, rot := 31 }

/-- Bytes of a lane. -/
def XxKind.lane (k : XxKind) : Nat := k.width / 8
/-- A sum, product or rotation within the width. -/
def XxKind.low (k : XxKind) (n : Nat) : Nat := n % 2 ^ k.width
/-- Rotate left within the width. -/
def XxKind.rotl (k : XxKind) (n r : Nat) : Nat := k.low (n * 2 ^ r) ||| n / 2 ^ (k.width - r)

/-- A hash on its way: bytes taken, the four accumulators, and the bytes of an incomplete stripe. -/
structure Xx where
  total : Nat := 0
  accs : List Nat := []
  buf : List Byte := []
  deriving DecidableEq, Repr

/-- The accumulators before the first stripe, with seed 0. -/
def XxKind.first (k : XxKind) : List Nat := [k.low (k.p1 + k.p2), k.p2, 0, 2 ^ k.width - k.p1]

/-- One lane into its accumulator. -/
def XxKind.round (k : XxKind) (acc lane : Nat) : Nat := k.low (k.rotl (k.low (acc + lane * k.p2)) k.rot * k.p1)

/-- One stripe of four lanes. -/
def XxKind.stripe (k : XxKind) (accs : List Nat) (bs : List Byte) : List Nat :=
  (accs.zip [0, 1, 2, 3]).map fun x => k.round x.1 (fieldAt bs (x.2 * k.lane) k.lane)

/-- Whole stripes of a string; what is left waits. -/
def XxKind.stripes (k : XxKind) : Nat → List Nat → List Byte → List Nat × List Byte
  | 0, accs, bs => (accs, bs)
  | n + 1, accs, bs =>
    if (bs.take (4 * k.lane)).length < 4 * k.lane then (accs, bs)
    else k.stripes n (k.stripe accs bs) (bs.drop (4 * k.lane))

/-- Take more bytes. -/
def XxKind.take (k : XxKind) (h : Xx) (bs : List Byte) : Xx :=
  let r := k.stripes (bs.length / (4 * k.lane) + 2) (if h.accs.isEmpty then k.first else h.accs) (h.buf ++ bs)
  { total := h.total + bs.length, accs := r.1, buf := r.2 }

/-- The accumulators in one. -/
def XxKind.merge (k : XxKind) (h : Xx) : Nat :=
  if h.total < 4 * k.lane then k.p5
  else
    let v := h.accs.zip [1, 7, 12, 18]
    let sum := v.foldl (fun a x => k.low (a + k.rotl x.1 x.2)) 0
    if k.width = 32 then sum else h.accs.foldl (fun a v => k.low ((a ^^^ k.round 0 v) * k.p1 + k.p4)) sum

/-- Lanes and single bytes of the incomplete stripe. -/
def XxKind.tail (k : XxKind) : Nat → Nat → List Byte → Nat
  | 0, a, _ => a
  | n + 1, a, bs =>
    match bs with
    | [] => a
    | b :: rest =>
      if k.width = 64 && 8 ≤ bs.length then
        k.tail n (k.low (k.rotl (a ^^^ k.round 0 (fieldAt bs 0 8)) 27 * k.p1 + k.p4)) (bs.drop 8)
      else if 4 ≤ bs.length then
        k.tail n (if k.width = 64 then k.low (k.rotl (a ^^^ k.low (fieldAt bs 0 4 * k.p1)) 23 * k.p2 + k.p3)
          else k.low (k.rotl (k.low (a + fieldAt bs 0 4 * k.p3)) 17 * k.p4)) (bs.drop 4)
      else
        k.tail n (if k.width = 64 then k.low (k.rotl (a ^^^ k.low (b.toNat * k.p5)) 11 * k.p1)
          else k.low (k.rotl (k.low (a + b.toNat * k.p5)) 11 * k.p1)) rest

/-- The hash of what has been taken. -/
def XxKind.value (k : XxKind) (h : Xx) : Nat :=
  let a := k.tail 40 (k.low (k.merge h + h.total)) h.buf
  let x := fun (a s p : Nat) => k.low ((a ^^^ a / 2 ^ s) * p)
  let s := if k.width = 64 then (33, 29, 32) else (15, 13, 16)
  let a := x (x a s.1 k.p2) s.2.1 k.p3
  a ^^^ a / 2 ^ s.2.2

/-- A hash on its way as a number: 80 bytes. -/
def Xx.pack (h : Xx) : Nat :=
  leNat (leBytes 8 h.total ++ (h.accs.flatMap fun v => leBytes 8 v) ++ zeros (8 * (4 - h.accs.length)) ++ leBytes 1 h.buf.length ++ h.buf)

/-- The hash that a number stands for; 0 for one that has taken nothing. -/
def Xx.unpack (n : Nat) : Xx :=
  if n = 0 then {}
  else
    let bs := leBytes 80 n
    { total := fieldAt bs 0 8, accs := [fieldAt bs 8 8, fieldAt bs 16 8, fieldAt bs 24 8, fieldAt bs 32 8], buf := slice bs 41 (fieldAt bs 40 1) }

end Sys2Proof.Machine
end

