-- ==== Sys2Proof/Machine/CodecStream.lean ====
section
/-! DEFINITION. How a compressed stream is read (chapter 14, R293, R296): the pieces that a format is made of, a reader of its bits, and the loop
that takes one element of the format after another and waits where the input ends within one. -/

namespace Sys2Proof.Machine

/-- A piece of a compressed stream (Table 2 of chapter 14). -/
inductive CodecPiece where
  /-- a frame or member begins; the window a frame states; the content size a frame states; a window that is the content size -/
  | start
  | window (bytes : Nat)
  | content (bytes : Nat)
  | segment (bytes : Nat)
  /-- a dictionary is asked for; the legacy magic -/
  | dictionary
  | legacy
  /-- bytes that stand in the stream; a match of `len` bytes that begins `dist` bytes back -/
  | literals (bytes : List Byte)
  | copy (dist len : Nat)
  /-- a check value over bytes of the stream itself, a header CRC or a block checksum, differs -/
  | mismatch
  /-- the end of a frame or member, with its check value and the length that its trailer repeats -/
  | last (value length : Option Nat)
  /-- the end of a skippable frame -/
  | skipped
  /-- an invalid code, a bad magic or a reserved bit that is set -/
  | malformed
  deriving DecidableEq, Repr

/-- What a parser makes of a run of input bytes: the pieces, each with the input consumed at its end; the parser's state after them; the bytes
at the end that belong to an incomplete block; whether the input ended inside a frame. -/
structure CodecParse where
  pieces : List (Nat × CodecPiece)
  state : List Byte
  carry : Nat
  inside : Bool
  deriving DecidableEq, Repr

-- ## A reader of bits, the least significant of a byte first

/-- Where a reader stands: the bytes ahead, the bits of the first that are taken, and the bytes behind. -/
structure Reader where
  bytes : List Byte
  pos : Nat := 0
  behind : Nat := 0
  deriving DecidableEq, Repr

/-- Input consumed: a byte begun is consumed. -/
def Reader.used (r : Reader) : Nat := r.behind + (if r.pos = 0 then 0 else 1)

/-- Whether at least `n` bits lie ahead. -/
def Reader.has (r : Reader) (n : Nat) : Bool :=
  let k := (r.pos + n + 7) / 8
  (r.bytes.take k).length == k

/-- Pass over `n` bits that lie ahead. -/
def Reader.skip (r : Reader) (n : Nat) : Reader :=
  let k := (r.pos + n) / 8
  { bytes := r.bytes.drop k, pos := (r.pos + n) % 8, behind := r.behind + k }

/-- The next `n` bits, with the bits of a byte from the least significant on; what lies behind the end counts as 0. -/
def Reader.peek (r : Reader) (n : Nat) : Nat := leNat (r.bytes.take ((r.pos + n + 7) / 8)) / 2 ^ r.pos % 2 ^ n

/-- Take `n` bits. -/
def Reader.bits (r : Reader) (n : Nat) : Option (Nat × Reader) := if r.has n then some (r.peek n, r.skip n) else none

/-- Go on to the next whole byte. -/
def Reader.align (r : Reader) : Reader := if r.pos = 0 then r else { bytes := r.bytes.drop 1, pos := 0, behind := r.behind + 1 }

/-- Take `n` whole bytes of an aligned reader. -/
def Reader.take (r : Reader) (n : Nat) : Option (List Byte × Reader) :=
  let l := r.bytes.take n
  if l.length = n then some (l, { r with bytes := r.bytes.drop n, behind := r.behind + n }) else none

/-- Take up to `n` whole bytes, of which at least one lies ahead. -/
def Reader.upTo (r : Reader) (n : Nat) : List Byte × Reader :=
  let l := r.bytes.take n
  (l, { r with bytes := r.bytes.drop n, behind := r.behind + l.length })

-- ## The loop

/-- What a parser makes of the place where it stands: it needs more input, it takes an element, or it stops for good. -/
inductive Step (σ : Type) where
  | need
  | next (pieces : List CodecPiece) (st : σ) (r : Reader)
  | stop (pieces : List CodecPiece)

/-- Where a parser came to: the pieces, newest first, and whether it stopped for good. -/
structure Parsed (σ : Type) where
  out : List (Nat × CodecPiece)
  st : σ
  r : Reader
  stopped : Bool

/-- Take elements as long as there are any, at most `fuel` of them. -/
def parseLoop {σ : Type} (step : σ → Reader → Step σ) : Nat → σ → Reader → List (Nat × CodecPiece) → Parsed σ
  | 0, st, r, out => { out := out, st := st, r := r, stopped := false }
  | n + 1, st, r, out =>
    match step st r with
    | .need => { out := out, st := st, r := r, stopped := false }
    | .next ps st' r' => parseLoop step n st' r' ((ps.map fun p => (r'.used, p)).reverse ++ out)
    | .stop ps => { out := (ps.map fun p => (r.used + 1, p)).reverse ++ out, st := st, r := r, stopped := true }

/-- The elements that a run of input can hold: an element takes at least one bit, or leads to one that does. -/
def loopFuel (bytes : Nat) : Nat := 24 * bytes + 32

end Sys2Proof.Machine
end

