-- ==== Sys2Proof/Machine/Deflate.lean ====
section
/-! DEFINITION. DEFLATE (RFC 1951), zlib (RFC 1950) and gzip (RFC 1952) as a decompression job reads them (chapter 14, Table 2). -/

namespace Sys2Proof.Machine

-- ## Huffman codes of RFC 1951

/-- A Huffman code: how many codes each length 0 to 15 has, and the symbols in order of their codes. -/
structure HuffCode where
  counts : List Nat
  symbols : List Nat
  deriving DecidableEq, Repr

/-- The code that a list of lengths, one for each symbol, gives. -/
def huffCode (lens : List Nat) : HuffCode := {
  counts := (List.range 16).map fun n => if n = 0 then 0 else lens.count n
  symbols := (List.range 16).flatMap fun n => if n = 0 then [] else (List.range lens.length).filter fun i => lens[i]? == some n }

/-- What is left of the code space at length 15 in units of the longest code; none where the lengths ask for more than there is. -/
def codeLeft (lens : List Nat) : Option Nat :=
  (List.range 15).foldl (fun (acc : Option Nat) i => acc.bind fun left =>
    let n := lens.count (i + 1)
    if 2 * left < n then none else some (2 * left - n)) (some 1)

/-- Decode one symbol bit by bit: none where the bits run out, and `none` within where they are no code. -/
def HuffCode.decode (c : HuffCode) : List Nat → Nat → Nat → Nat → Reader → Option (Option (Nat × Reader))
  | [], _, _, _, _ => some none
  | n :: rest, code, first, index, r =>
    match r.bits 1 with
    | none => none
    | some (b, r) =>
      let code := code + b
      if code < first + n then some ((c.symbols[index + (code - first)]?).map fun s => (s, r))
      else c.decode rest (2 * code) (2 * (first + n)) (index + n) r

/-- The next symbol of a code. -/
def HuffCode.next (c : HuffCode) (r : Reader) : Option (Option (Nat × Reader)) := c.decode (c.counts.drop 1) 0 0 0 r

/-- Lengths that form a code of RFC 1951: complete, or of no more than one symbol. -/
def lensOk (lens : List Nat) : Bool :=
  match codeLeft lens with
  | some 0 => true
  | some _ => lens.all fun n => n ≤ 1 && decide ((lens.filter fun n => n != 0).length ≤ 1)
  | none => false

-- ## Blocks

/-- The parts of a stream of the DEFLATE family. -/
inductive DeflatePhase where
  | begin | extraLen | extra | name | comment | headerCrc | block | stored | codes | trailer
  deriving DecidableEq, Repr

/-- Where a parser of the DEFLATE family stands: the part, whether the block is the last, gzip's flags that are still to come and the running CRC of
its header, the bytes left of a part, and the lengths of the block's codes. -/
structure DeflateState where
  phase : DeflatePhase := .begin
  last : Bool := false
  flags : Nat := 0
  crc : Nat := 0
  left : Nat := 0
  lits : List Nat := []
  dists : List Nat := []
  deriving DecidableEq, Repr

/-- The lengths of the fixed codes. -/
def fixedLits : List Nat := List.replicate 144 8 ++ List.replicate 112 9 ++ List.replicate 24 7 ++ List.replicate 8 8
/-- The lengths of the fixed distance code. -/
def fixedDists : List Nat := List.replicate 30 5

/-- The order in which code length code lengths stand. -/
def lengthOrder : List Nat := [16, 17, 18, 0, 8, 7, 9, 6, 10, 5, 11, 4, 12, 3, 13, 2, 14, 1, 15]

/-- The answer of a part of a block header: the bits run out, they are wrong, or it is read. -/
inductive Got (α : Type) where
  | need
  | bad
  | got (x : α) (r : Reader)

/-- `n` code length code lengths of three bits, newest first. -/
def readLengths3 : Nat → List Nat → Reader → Option (List Nat × Reader)
  | 0, acc, r => some (acc, r)
  | n + 1, acc, r => match r.bits 3 with | none => none | some (x, r) => readLengths3 n (x :: acc) r

/-- Code lengths up to `total` of them, newest first (RFC 1951, 3.2.7). -/
def readLengths (c : HuffCode) (total : Nat) : Nat → List Nat → Nat → Reader → Got (List Nat)
  | 0, _, _, _ => .bad
  | fuel + 1, acc, n, r =>
    if n = total then .got acc r
    else
      match c.next r with
      | none => .need
      | some none => .bad
      | some (some (sym, r)) =>
        if sym < 16 then readLengths c total fuel (sym :: acc) (n + 1) r
        else
          let (w, base) := if sym = 16 then (2, 3) else if sym = 17 then (3, 3) else (7, 11)
          match r.bits w with
          | none => .need
          | some (x, r) =>
            let k := base + x
            if (sym = 16 && acc.isEmpty) || total < n + k then .bad
            else readLengths c total fuel (List.replicate k (if sym = 16 then acc.headD 0 else 0) ++ acc) (n + k) r

/-- The header of a block with dynamic codes: the lengths of both codes. -/
def dynamicHeader (r : Reader) : Got (List Nat × List Nat) :=
  match r.bits 14 with
  | none => .need
  | some (h, r) =>
    let nlit := bits h 0 5 + 257
    let ndist := bits h 5 5 + 1
    let ncode := bits h 10 4 + 4
    if 286 < nlit || 30 < ndist then .bad
    else
      match readLengths3 ncode [] r with
      | none => .need
      | some (l, r) =>
        let l := l.reverse
        let lens := (List.range 19).map fun i => ((indexOf? (· == i) lengthOrder).bind fun j => l[j]?).getD 0
        if codeLeft lens ≠ some 0 then .bad
        else
          match readLengths (huffCode lens) (nlit + ndist) 400 [] 0 r with
          | .need => .need
          | .bad => .bad
          | .got l r =>
            let l := l.reverse
            let lits := l.take nlit
            let dists := l.drop nlit
            if lits[256]? == some 0 || !lensOk lits || !(lensOk dists) then .bad else .got (lits, dists) r

/-- Base and extra bits of length symbol 257 + `i`. -/
def lengthBase (i : Nat) : Option (Nat × Nat) :=
  if i < 8 then some (3 + i, 0)
  else if i < 28 then
    let e := i / 4 - 1
    some (3 + (4 + i % 4) * 2 ^ e, e)
  else if i = 28 then some (258, 0) else none

/-- Base and extra bits of a distance symbol. -/
def distBase (i : Nat) : Option (Nat × Nat) :=
  if i < 4 then some (1 + i, 0)
  else if i < 30 then
    let e := i / 2 - 1
    some (1 + (2 + i % 2) * 2 ^ e, e)
  else none

/-- One symbol of a block: a literal, a match, or the end of the block. -/
def deflateSymbol (lit dist : HuffCode) (st : DeflateState) (r : Reader) : Step DeflateState :=
  match lit.next r with
  | none => .need
  | some none => .stop [.malformed]
  | some (some (s, r)) =>
    if s < 256 then .next [.literals [BitVec.ofNat 8 s]] st r
    else if s = 256 then .next [] { st with phase := if st.last then .trailer else .block, lits := [], dists := [] } r
    else
      match lengthBase (s - 257) with
      | none => .stop [.malformed]
      | some (lb, le) =>
        match r.bits le with
        | none => .need
        | some (lx, r) =>
          match dist.next r with
          | none => .need
          | some none => .stop [.malformed]
          | some (some (d, r)) =>
            match distBase d with
            | none => .stop [.malformed]
            | some (db, de) =>
              match r.bits de with
              | none => .need
              | some (dx, r) => .next [.copy (db + dx) (lb + lx)] st r

/-- The header of a block. -/
def deflateBlock (st : DeflateState) (r : Reader) : Step DeflateState :=
  match r.bits 3 with
  | none => .need
  | some (h, r) =>
    let st := { st with last := bitOf h 0 }
    match h / 2 with
    | 0 =>
      match r.align.take 4 with
      | none => .need
      | some (l, r) =>
        if fieldAt l 0 2 + fieldAt l 2 2 ≠ 0xFFFF then .stop [.malformed] else .next [] { st with phase := .stored, left := fieldAt l 0 2 } r
    | 1 => .next [] { st with phase := .codes, lits := fixedLits, dists := fixedDists } r
    | 2 =>
      match dynamicHeader r with
      | .need => .need
      | .bad => .stop [.malformed]
      | .got (lits, dists) r => .next [] { st with phase := .codes, lits := lits, dists := dists } r
    | _ => .stop [.malformed]

-- ## Headers and trailers

/-- The next part of a gzip header: FEXTRA, FNAME, FCOMMENT and FHCRC in this order, then the first block. -/
def gzipNext (st : DeflateState) : DeflateState :=
  if bitOf st.flags 2 then { st with phase := .extraLen, flags := st.flags - 4 }
  else if bitOf st.flags 3 then { st with phase := .name, flags := st.flags - 8 }
  else if bitOf st.flags 4 then { st with phase := .comment, flags := st.flags - 16 }
  else if bitOf st.flags 1 then { st with phase := .headerCrc, flags := st.flags - 2 }
  else { st with phase := .block }

/-- A member begins. -/
def deflateBegin (fmt : Nat) (r : Reader) : Step DeflateState :=
  match fmt with
  | 0 => if r.bytes.isEmpty then .need else .next [.start] { phase := .block } r
  | 1 =>
    match r.take 2 with
    | none => .need
    | some (h, r') =>
      let cmf := fieldAt h 0 1
      let flg := fieldAt h 1 1
      if cmf % 16 ≠ 8 || 7 < cmf / 16 || (cmf * 256 + flg) % 31 ≠ 0 then .stop [.malformed]
      else if bitOf flg 5 then .stop [.start, .dictionary]
      else .next [.start] { phase := .block } r'
  | _ =>
    match r.take 10 with
    | none => .need
    | some (h, r') =>
      if h.take 3 ≠ [0x1F, 0x8B, 8] || 32 ≤ fieldAt h 3 1 then .stop [.malformed]
      else .next [.start] (gzipNext { flags := fieldAt h 3 1 / 2 * 2, crc := crc32 0 h }) r'

/-- The header's running CRC takes bytes. -/
def DeflateState.headed (st : DeflateState) (bs : List Byte) : DeflateState := { st with crc := crc32 st.crc bs }

/-- A string of a gzip header goes on to its zero byte. -/
def gzipString (st : DeflateState) (r : Reader) : Step DeflateState :=
  match r.take 1 with
  | none => .need
  | some (b, r) => .next [] (if b = [0] then gzipNext (st.headed b) else st.headed b) r

/-- The trailer of a member: none, Adler-32, or CRC-32 and ISIZE. -/
def deflateTrailer (fmt : Nat) (r : Reader) : Step DeflateState :=
  match fmt with
  | 0 => .next [.last none none] {} r.align
  | 1 => match r.align.take 4 with | none => .need | some (b, r) => .next [.last (some (beNat b)) none] {} r
  | _ => match r.align.take 8 with | none => .need | some (b, r) => .next [.last (some (fieldAt b 0 4)) (some (fieldAt b 4 4))] {} r

/-- One element of a stream of the DEFLATE family. -/
def deflateStep (fmt : Nat) (lit dist : HuffCode) (st : DeflateState) (r : Reader) : Step DeflateState :=
  match st.phase with
  | .begin => deflateBegin fmt r
  | .extraLen =>
    match r.take 2 with
    | none => .need
    | some (b, r) => .next [] { st.headed b with phase := .extra, left := fieldAt b 0 2 } r
  | .extra =>
    if st.left = 0 then .next [] (gzipNext st) r
    else if r.bytes.isEmpty then .need
    else
      let (b, r) := r.upTo st.left
      .next [] { st.headed b with left := st.left - b.length } r
  | .name => gzipString st r
  | .comment => gzipString st r
  | .headerCrc =>
    match r.take 2 with
    | none => .need
    | some (b, r) => if fieldAt b 0 2 = st.crc % 65536 then .next [] (gzipNext st) r else .stop [.mismatch]
  | .block => deflateBlock st r
  | .stored =>
    if st.left = 0 then .next [] { st with phase := if st.last then .trailer else .block } r
    else if r.bytes.isEmpty then .need
    else
      let (b, r) := r.upTo st.left
      .next [.literals b] { st with left := st.left - b.length } r
  | .codes => deflateSymbol lit dist st r
  | .trailer => deflateTrailer fmt r

/-- The loop of the family: the codes of a block are made once, when it begins. -/
def deflateLoop (fmt : Nat) : Nat → HuffCode → HuffCode → DeflateState → Reader → List (Nat × CodecPiece) → Parsed DeflateState
  | 0, _, _, st, r, out => { out := out, st := st, r := r, stopped := false }
  | n + 1, lit, dist, st, r, out =>
    match deflateStep fmt lit dist st r with
    | .need => { out := out, st := st, r := r, stopped := false }
    | .next ps st' r' =>
      let fresh := st'.phase = .codes && st.phase ≠ .codes
      deflateLoop fmt n (if fresh then huffCode st'.lits else lit) (if fresh then huffCode st'.dists else dist) st' r'
        ((ps.map fun p => (r'.used, p)).reverse ++ out)
    | .stop ps => { out := (ps.map fun p => (r.used + 1, p)).reverse ++ out, st := st, r := r, stopped := true }

-- ## The state between jobs

/-- A part as a number. -/
def DeflatePhase.code : DeflatePhase → Nat
  | .begin => 0
  | .extraLen => 1
  | .extra => 2
  | .name => 3
  | .comment => 4
  | .headerCrc => 5
  | .block => 6
  | .stored => 7
  | .codes => 8
  | .trailer => 9

/-- The part that a number names. -/
def deflatePhase (n : Nat) : DeflatePhase :=
  ([.begin, .extraLen, .extra, .name, .comment, .headerCrc, .block, .stored, .codes, .trailer] : List DeflatePhase)[n]?.getD .begin

/-- The state with the bytes of an element that is not complete. -/
def DeflateState.pack (st : DeflateState) (r : Reader) : List Byte :=
  leBytes 1 st.phase.code ++ leBytes 1 (b2n st.last + 2 * r.pos) ++ leBytes 1 st.flags ++ leBytes 4 st.crc ++ leBytes 2 st.left
    ++ leBytes 2 st.lits.length ++ leBytes 2 st.dists.length ++ leBytes 2 r.bytes.length
    ++ (st.lits ++ st.dists).map (BitVec.ofNat 8 ·) ++ r.bytes

/-- The state and the bytes that a string of bytes holds; the empty string stands for a fresh stream. -/
def deflateUnpack (l : List Byte) : DeflateState × Nat × List Byte :=
  let nl := fieldAt l 9 2
  let nd := fieldAt l 11 2
  ({ phase := deflatePhase (fieldAt l 0 1), last := bitOf (fieldAt l 1 1) 0, flags := fieldAt l 2 1, crc := fieldAt l 3 4, left := fieldAt l 7 2
     lits := (slice l 15 nl).map BitVec.toNat, dists := (slice l (15 + nl) nd).map BitVec.toNat },
   fieldAt l 1 1 / 2 % 8, slice l (15 + nl + nd) (fieldAt l 13 2))

/-- A stream of the DEFLATE family, from its state before. -/
def deflateParse (fmt : Nat) (state input : List Byte) : CodecParse :=
  let (st, pos, rest) := deflateUnpack state
  let r : Reader := { bytes := rest ++ input, pos := pos }
  let p := deflateLoop fmt (loopFuel r.bytes.length) (huffCode st.lits) (huffCode st.dists) st r []
  { pieces := p.out.reverse.map fun x => (x.1 - rest.length, x.2), state := if p.stopped then [] else p.st.pack p.r, carry := 0
    inside := p.st.phase ≠ .begin || !p.r.bytes.isEmpty }

end Sys2Proof.Machine
end

