-- ==== Sys2Proof/Machine/Lz4.lean ====
section
/-! DEFINITION. LZ4 blocks and LZ4 frames as a decompression job reads them (chapter 14, Table 2). -/

namespace Sys2Proof.Machine

-- ## Sequences of a block

/-- The parts of a sequence. -/
inductive Lz4Phase where
  | token | litExt | lits | offset | matchExt
  deriving DecidableEq, Repr

/-- Where a parser stands in a sequence: the part, literals still to come, the length of the match and its distance. -/
structure Lz4Seq where
  phase : Lz4Phase := .token
  lit : Nat := 0
  len : Nat := 0
  dist : Nat := 0
  deriving DecidableEq, Repr

/-- One element of a sequence; it may take at most `limit` bytes. -/
def lz4Elem (st : Lz4Seq) (limit : Nat) (r : Reader) : Step Lz4Seq :=
  let need := match st.phase with
    | .offset => 2
    | .lits => b2n (st.lit != 0)
    | _ => 1
  if limit < need then .stop [.malformed]
  else
    match st.phase with
    | .token =>
      match r.take 1 with
      | none => .need
      | some (b, r) =>
        let n := fieldAt b 0 1
        .next [] { phase := if n / 16 = 15 then .litExt else .lits, lit := n / 16, len := n % 16 + 4 } r
    | .litExt =>
      match r.take 1 with
      | none => .need
      | some (b, r) => .next [] { st with phase := if b = [0xFF] then .litExt else .lits, lit := st.lit + fieldAt b 0 1 } r
    | .lits =>
      if st.lit = 0 then .next [] { st with phase := .offset } r
      else if r.bytes.isEmpty then .need
      else
        let (b, r) := r.upTo (min st.lit limit)
        .next [.literals b] { st with lit := st.lit - b.length } r
    | .offset =>
      match r.take 2 with
      | none => .need
      | some (b, r) =>
        let d := fieldAt b 0 2
        if d = 0 then .stop [.malformed]
        else if st.len = 19 then .next [] { st with phase := .matchExt, dist := d } r
        else .next [.copy d st.len] {} r
    | .matchExt =>
      match r.take 1 with
      | none => .need
      | some (b, r) =>
        let n := st.len + fieldAt b 0 1
        if b = [0xFF] then .next [] { st with len := n } r else .next [.copy st.dist n] {} r

/-- The bytes of output that pieces stand for. -/
def madeOf (l : List CodecPiece) : Nat :=
  (l.map fun p => match p with
    | .literals b => b.length
    | .copy _ n => n
    | _ => 0).sum

-- ## Frames

/-- The parts of a frame. -/
inductive Lz4Part where
  | begin | descriptor | skipSize | skip | size | raw | block | blockSum | contentSum
  deriving DecidableEq, Repr

/-- Where a parser of frames stands: the part, the bytes left of it, the frame's flags and block limit, what the block has made, its running
checksum, and the place within a sequence. A parser of single blocks uses the sequence alone, with `part` at `block` once it has begun. -/
structure Lz4State where
  part : Lz4Part := .begin
  left : Nat := 0
  flg : Nat := 0
  limit : Nat := 0
  made : Nat := 0
  sum : Xx := {}
  seq : Lz4Seq := {}
  deriving DecidableEq, Repr

/-- The magic of a skippable frame, which LZ4 and Zstandard share. -/
def skippable (m : Nat) : Bool := m / 16 == 0x184D2A5

/-- The descriptor of a frame: FLG, BD, content size, dictionary ID, header checksum. What is wrong is found in the order in which it stands. -/
def lz4Descriptor (r : Reader) : Step Lz4State :=
  match r.take 2 with
  | none => .need
  | some (h, _) =>
    let flg := fieldAt h 0 1
    let bd := fieldAt h 1 1
    if flg / 64 ≠ 1 || bitOf flg 1 || bitOf bd 7 || bd % 16 ≠ 0 || bd / 16 < 4 then .stop [.malformed]
    else if bitOf flg 0 then .stop [.start, .dictionary]
    else
      let n := 2 + 8 * b2n (bitOf flg 3)
      match r.take (n + 1) with
      | none => .need
      | some (d, r') =>
        if xx32.value (xx32.take {} (d.take n)) / 256 % 256 ≠ fieldAt d n 1 then .stop [.mismatch]
        else
          .next (.start :: if bitOf flg 3 then [.content (fieldAt d 2 8)] else [])
            { part := .size, flg := flg, limit := 4 ^ (bd / 16 + 4) } r'

/-- What follows the data of a block: its checksum, where blocks carry one, or the next block. -/
def Lz4State.afterBlock (st : Lz4State) : Lz4State := { st with part := if bitOf st.flg 4 then .blockSum else .size, seq := {}, left := 0 }

/-- One element of a block of a frame: it ends with its literals at the end of the block's bytes; it makes no more than the frame's limit; and an
independent block reaches no further back than its own begin. -/
def lz4BlockStep (st : Lz4State) (r : Reader) : Step Lz4State :=
  if st.left = 0 && (st.seq.phase = .offset) then .next [] st.afterBlock r
  else
    match lz4Elem st.seq st.left r with
    | .need => .need
    | .stop ps => .stop ps
    | .next ps q r' =>
      let n := r'.behind - r.behind
      let made := st.made + madeOf ps
      let far := bitOf st.flg 5 && ps.any fun p => match p with
        | .copy d _ => decide (st.made < d)
        | _ => false
      if far || st.limit < made then .stop [.malformed]
      else
        .next ps { st with seq := q, left := st.left - n, made := made, sum := if bitOf st.flg 4 then xx32.take st.sum (r.bytes.take n) else st.sum } r'

/-- The size of the next block, or the end mark. -/
def lz4Size (st : Lz4State) (r : Reader) : Step Lz4State :=
  match r.take 4 with
  | none => .need
  | some (b, r) =>
    let v := fieldAt b 0 4
    let n := v % 2 ^ 31
    if v = 0 then
      if bitOf st.flg 2 then .next [] { st with part := .contentSum } r else .next [.last none none] {} r
    else if st.limit < n then .stop [.malformed]
    else .next [] { st with part := if bitOf v 31 then .raw else .block, left := n, made := 0, sum := {}, seq := {} } r

/-- One element of a stream of frames. -/
def lz4FrameStep (st : Lz4State) (r : Reader) : Step Lz4State :=
  match st.part with
  | .begin =>
    match r.take 4 with
    | none => .need
    | some (b, r) =>
      let m := fieldAt b 0 4
      if m = 0x184D2204 then .next [] { part := .descriptor } r
      else if m = 0x184C2102 then .stop [.legacy]
      else if skippable m then .next [] { part := .skipSize } r
      else .stop [.malformed]
  | .descriptor => lz4Descriptor r
  | .skipSize =>
    match r.take 4 with
    | none => .need
    | some (b, r) => .next [] { part := .skip, left := fieldAt b 0 4 } r
  | .skip =>
    if st.left = 0 then .next [.skipped] {} r
    else if r.bytes.isEmpty then .need
    else
      let (b, r) := r.upTo st.left
      .next [] { st with left := st.left - b.length } r
  | .size => lz4Size st r
  | .raw =>
    if st.left = 0 then .next [] st.afterBlock r
    else if r.bytes.isEmpty then .need
    else
      let (b, r) := r.upTo st.left
      .next [.literals b] { st with left := st.left - b.length, sum := if bitOf st.flg 4 then xx32.take st.sum b else st.sum } r
  | .block => lz4BlockStep st r
  | .blockSum =>
    match r.take 4 with
    | none => .need
    | some (b, r) => if fieldAt b 0 4 = xx32.value st.sum then .next [] { st with part := .size } r else .stop [.mismatch]
  | .contentSum =>
    match r.take 4 with
    | none => .need
    | some (b, r) => .next [.last (some (fieldAt b 0 4)) none] {} r

/-- One element of a single block, which is as long as the input. -/
def lz4OneStep (st : Lz4State) (r : Reader) : Step Lz4State :=
  if st.part = .begin then
    if r.bytes.isEmpty then .need else .next [.start] { part := .block } r
  else
    match lz4Elem st.seq (r.bytes.length + 2) r with
    | .need => .need
    | .stop ps => .stop ps
    | .next ps q r => .next ps { st with seq := q } r

-- ## The state between jobs

/-- A part as a number. -/
def Lz4Part.code : Lz4Part → Nat
  | .begin => 0
  | .descriptor => 1
  | .skipSize => 2
  | .skip => 3
  | .size => 4
  | .raw => 5
  | .block => 6
  | .blockSum => 7
  | .contentSum => 8

/-- A part of a sequence as a number. -/
def Lz4Phase.code : Lz4Phase → Nat
  | .token => 0
  | .litExt => 1
  | .lits => 2
  | .offset => 3
  | .matchExt => 4

/-- The part that a number names. -/
def lz4Part (n : Nat) : Lz4Part := ([.begin, .descriptor, .skipSize, .skip, .size, .raw, .block, .blockSum, .contentSum] : List Lz4Part)[n]?.getD .begin
/-- The part of a sequence that a number names. -/
def lz4Phase (n : Nat) : Lz4Phase := ([.token, .litExt, .lits, .offset, .matchExt] : List Lz4Phase)[n]?.getD .token

/-- The state with the bytes of an element that is not complete. -/
def Lz4State.pack (st : Lz4State) (r : Reader) : List Byte :=
  leBytes 1 st.part.code ++ leBytes 1 st.seq.phase.code ++ leBytes 1 st.flg ++ leBytes 4 st.left ++ leBytes 4 st.limit ++ leBytes 4 st.made
    ++ leBytes 8 st.seq.lit ++ leBytes 8 st.seq.len ++ leBytes 2 st.seq.dist ++ leBytes 80 st.sum.pack ++ leBytes 1 r.bytes.length ++ r.bytes

/-- The state and the bytes that a string of bytes holds; the empty string stands for a fresh stream. -/
def lz4Unpack (l : List Byte) : Lz4State × List Byte :=
  ({ part := lz4Part (fieldAt l 0 1), flg := fieldAt l 2 1, left := fieldAt l 3 4, limit := fieldAt l 7 4, made := fieldAt l 11 4
     seq := { phase := lz4Phase (fieldAt l 1 1), lit := fieldAt l 15 8, len := fieldAt l 23 8, dist := fieldAt l 31 2 }
     sum := Xx.unpack (fieldAt l 33 80) }, slice l 114 (fieldAt l 113 1))

/-- A stream of frames, or a single block, from its state before; the block ends with the final input, which must end behind literals. -/
def lz4Parse (frame final : Bool) (state input : List Byte) : CodecParse :=
  let (st, rest) := lz4Unpack state
  let r : Reader := { bytes := rest ++ input }
  let p := parseLoop (if frame then lz4FrameStep else lz4OneStep) (loopFuel r.bytes.length) st r []
  let closes := !frame && final && !p.stopped && p.st.part = .block && p.st.seq.phase = .offset && p.r.bytes.isEmpty
  let out := if closes then (p.r.used, CodecPiece.last none none) :: p.out else p.out
  { pieces := out.reverse.map fun x => (x.1 - rest.length, x.2), state := if p.stopped || closes then [] else p.st.pack p.r, carry := 0
    inside := !closes && (p.st.part ≠ .begin || !p.r.bytes.isEmpty) }

end Sys2Proof.Machine
end

