-- ==== Sys2Proof/Machine/Zstd.lean ====
section
/-! DEFINITION. Zstandard (RFC 8878) as a decompression job reads it (chapter 14, Table 2). A block is decoded whole, once all its bytes are there. -/

namespace Sys2Proof.Machine

-- ## A stream that is read from its end

/-- Bits still to be read, the first of them the most significant of `value`'s low `left` bits. -/
structure Backward where
  value : Nat
  left : Nat
  deriving DecidableEq, Repr

/-- A bitstream read backward begins below the highest set bit of its last byte, which cannot be 0. -/
def backward (bs : List Byte) : Option Backward :=
  match bs.getLast? with
  | none => none
  | some b => if b = 0 then none else some { value := leNat bs, left := Nat.log2 (leNat bs) }

/-- The next `n` bits; beyond the end, 0. -/
def Backward.peek (b : Backward) (n : Nat) : Nat := b.value * 2 ^ n / 2 ^ b.left % 2 ^ n
/-- Take `n` bits that there are. -/
def Backward.read (b : Backward) (n : Nat) : Option (Nat × Backward) :=
  if b.left < n then none else some (b.peek n, { b with left := b.left - n })

-- ## Finite state entropy

/-- A distribution: the accuracy log, and for each symbol its probability plus one, 0 for "less than 1". -/
structure FseDist where
  log : Nat
  probs : List Nat
  deriving DecidableEq, Repr

/-- The distribution of one symbol alone. -/
def fseOnly (s : Nat) : FseDist := { log := 0, probs := List.replicate s 1 ++ [2] }

/-- How many symbols of probability 0 the repeat flags add. -/
def fseZeros : Nat → Nat → Reader → Option (Nat × Reader)
  | 0, _, _ => none
  | n + 1, acc, r =>
    match r.bits 2 with
    | none => none
    | some (x, r) => if x = 3 then fseZeros n (acc + 3) r else some (acc + x, r)

/-- The probabilities, newest first, while `left` of the points remain. -/
def fseProbs : Nat → Nat → List Nat → Reader → Option (List Nat × Reader)
  | 0, _, _, _ => none
  | n + 1, left, acc, r =>
    if left = 0 then some (acc, r)
    else
      let w := Nat.log2 (left + 1) + 1
      let v := r.peek w
      let low := v % 2 ^ (w - 1)
      let cut := 2 ^ w - 1 - (left + 1)
      let (p, used) := if low < cut then (low, w - 1) else (if v < 2 ^ (w - 1) then v else v - cut, w)
      match r.bits used with
      | none => none
      | some (_, r) =>
        let cost := if p = 0 then 1 else p - 1
        if left < cost then none
        else if p = 1 then
          match fseZeros 100 0 r with
          | none => none
          | some (k, r) => fseProbs n left (List.replicate k 1 ++ 1 :: acc) r
        else fseProbs n (left - cost) (p :: acc) r

/-- A description of a distribution over at most `most` symbols, of accuracy at most `log`. -/
def fseRead (most log : Nat) (r : Reader) : Option (FseDist × Reader) :=
  match r.bits 4 with
  | none => none
  | some (x, r) =>
    if log < x + 5 then none
    else
      match fseProbs (most + 1) (2 ^ (x + 5)) [] r with
      | none => none
      | some (l, r) => if most < l.length then none else some ({ log := x + 5, probs := l.reverse }, r.align)

/-- A state of a decoder: the symbol that it stands for, and the bits and base that lead to the next. -/
structure FseCell where
  sym : Nat
  nb : Nat
  base : Nat
  deriving DecidableEq, Repr

/-- The symbol of each state. -/
def FseDist.spread (d : FseDist) : List Nat :=
  let size := 2 ^ d.log
  let lows := (List.range d.probs.length).filter fun i => d.probs[i]? == some 0
  let high := size - lows.length
  let placed := (List.range d.probs.length).flatMap fun i => List.replicate ((d.probs[i]?).getD 0 - 1) i
  let places := ((List.range size).map fun k => k * (size / 2 + size / 8 + 3) % size).filter fun p => decide (p < high)
  (List.range size).map fun i =>
    if high ≤ i then (lows[size - 1 - i]?).getD 0 else ((indexOf? (· == i) places).bind fun k => placed[k]?).getD 0

/-- The decoder of a distribution. -/
def FseDist.table (d : FseDist) : List FseCell :=
  (d.spread.foldl (fun (x : List FseCell × List Nat) s =>
    let n := (x.2[s]?).getD 1
    let nb := d.log - Nat.log2 n
    ({ sym := s, nb := nb, base := n * 2 ^ nb - 2 ^ d.log } :: x.1, x.2.set s (n + 1))) ([], d.probs.map fun p => max 1 (p - 1))).1.reverse

/-- The next state of a decoder: none where its bits run out. -/
def FseCell.step (c : FseCell) (t : List FseCell) (b : Backward) : Option (FseCell × Backward) :=
  (b.read c.nb).bind fun x => (t[c.base + x.1]?).map fun c => (c, x.2)
/-- The first state of a decoder. -/
def fseFirst (d : FseDist) (t : List FseCell) (b : Backward) : Option (FseCell × Backward) :=
  (b.read d.log).bind fun x => (t[x.1]?).map fun c => (c, x.2)

-- ## Literals

/-- Weights that two states give in turn until the bits run out, newest first. -/
def weightsOf (t : List FseCell) : Nat → FseCell → FseCell → Backward → List Nat → Option (List Nat)
  | 0, _, _, _, _ => none
  | n + 1, x, y, b, acc =>
    match x.step t b with
    | none => some (y.sym :: x.sym :: acc)
    | some (x', b) => weightsOf t n y x' b (x.sym :: acc)

/-- The weights of a Huffman code, the last of them worked out: what is left up to a power of two, which must be one itself. -/
def fillWeights (l : List Nat) : Option (List Nat) :=
  let sum := (l.map fun w => if w = 0 then 0 else 2 ^ (w - 1)).sum
  let size := 2 ^ (Nat.log2 sum + 1)
  let last := Nat.log2 (size - sum)
  if sum = 0 || 2048 < size || 255 < l.length || 2 ^ last ≠ size - sum then none else some (l ++ [last + 1])

/-- The description of a Huffman code. -/
def huffWeights (r : Reader) : Option (List Nat × Reader) :=
  (r.take 1).bind fun (h, r) =>
    let n := fieldAt h 0 1
    if 128 ≤ n then
      let k := n - 127
      (r.take ((k + 1) / 2)).bind fun (l, r) => (fillWeights ((l.flatMap fun b => [b.toNat / 16, b.toNat % 16]).take k)).map fun w => (w, r)
    else
      (r.take n).bind fun (l, r) => (fseRead 256 6 { bytes := l }).bind fun (d, q) => (backward q.bytes).bind fun b =>
        let t := d.table
        (fseFirst d t b).bind fun (x, b) => (fseFirst d t b).bind fun (y, b) => (weightsOf t 256 x y b []).bind fun w =>
          (fillWeights w.reverse).map fun w => (w, r)

/-- The decoder of a Huffman code: for each value of as many bits as the longest code has, the symbol and its bits. -/
def huffTable (weights : List Nat) : List (Nat × Nat) :=
  let most := Nat.log2 (weights.map fun w => if w = 0 then 0 else 2 ^ (w - 1)).sum
  (List.range most).flatMap fun w => ((List.range weights.length).filter fun i => weights[i]? == some (w + 1)).flatMap fun i =>
    List.replicate (2 ^ w) (i, most - w)

/-- `n` literals of one stream, newest first, which must use it up. -/
def huffStream (t : List (Nat × Nat)) (width : Nat) : Nat → Backward → List Byte → Option (List Byte)
  | 0, b, acc => if b.left = 0 then some acc else none
  | n + 1, b, acc =>
    (t[b.peek width]?).bind fun (s, k) => (b.read k).bind fun (_, b) => huffStream t width n b (BitVec.ofNat 8 s :: acc)

/-- The literals of one or four streams. -/
def huffLiterals (weights : List Nat) (four : Bool) (size : Nat) (l : List Byte) : Option (List Byte) :=
  let t := huffTable weights
  let one := fun (n : Nat) (l : List Byte) => (backward l).bind fun b => (huffStream t (Nat.log2 t.length) n b []).map List.reverse
  if four then
    let a := fieldAt l 0 2
    let b := fieldAt l 2 2
    let c := fieldAt l 4 2
    let n := ceilDiv size 4
    if l.length < 6 + a + b + c || size < 3 * n then none
    else
      (one n (slice l 6 a)).bind fun w => (one n (slice l (6 + a) b)).bind fun x => (one n (slice l (6 + a + b) c)).bind fun y =>
        (one (size - 3 * n) (l.drop (6 + a + b + c))).map fun z => w ++ x ++ y ++ z
  else one size l

-- ## A frame's state

/-- The parts of a frame. -/
inductive ZstdPart where
  | begin | header | skipSize | skip | blockHeader | block | contentSum
  deriving DecidableEq, Repr

/-- Where a parser stands: the part; whether the block is the last, its type and size; whether a checksum follows; the block limit; the last three
offsets; the weights of the last Huffman code and the last distributions of literal lengths, offsets and match lengths, where there are any. -/
structure ZstdState where
  part : ZstdPart := .begin
  last : Bool := false
  type : Nat := 0
  size : Nat := 0
  check : Bool := false
  limit : Nat := 0
  reps : List Nat := [1, 4, 8]
  weights : List Nat := []
  lls : Option FseDist := none
  ofs : Option FseDist := none
  mls : Option FseDist := none
  deriving DecidableEq, Repr

/-- The literals section: its bytes, the weights that now hold, and what follows. -/
def zstdLiterals (st : ZstdState) (r : Reader) : Option (List Byte × List Nat × Reader) :=
  let h := leNat (r.bytes.take 5)
  let kind := h % 4
  let form := h / 4 % 4
  if kind < 2 then
    let (n, k) := if form % 2 = 0 then (h / 8 % 32, 1) else if form = 1 then (h / 16 % 2 ^ 12, 2) else (h / 16 % 2 ^ 20, 3)
    (r.take k).bind fun (_, r) =>
      if st.limit < n then none
      else if kind = 0 then (r.take n).map fun (l, r) => (l, st.weights, r)
      else (r.take 1).map fun (b, r) => (List.replicate n (b.headD 0), st.weights, r)
  else
    let w := if form < 2 then 10 else if form = 2 then 14 else 18
    let n := h / 16 % 2 ^ w
    (r.take (if form < 2 then 3 else form + 2)).bind fun (_, r) => (r.take (h / 16 / 2 ^ w % 2 ^ w)).bind fun (l, r) =>
      (if kind = 2 then huffWeights { bytes := l } else if st.weights.isEmpty then none else some (st.weights, { bytes := l })).bind fun (ws, q) =>
        if st.limit < n then none else (huffLiterals ws (form != 0) n q.bytes).map fun x => (x, ws, r)

-- ## Sequences

/-- Base and extra bits of a literal length code. -/
def litLenBase (c : Nat) : Nat × Nat :=
  if c < 16 then (c, 0)
  else ([(16, 1), (18, 1), (20, 1), (22, 1), (24, 2), (28, 2), (32, 3), (40, 3), (48, 4)] : List (Nat × Nat))[c - 16]?.getD (2 ^ (c - 19), c - 19)
/-- Base and extra bits of a match length code. -/
def matchLenBase (c : Nat) : Nat × Nat :=
  if c < 32 then (c + 3, 0)
  else ([(35, 1), (37, 1), (39, 1), (41, 1), (43, 2), (47, 2), (51, 3), (59, 3), (67, 4), (83, 4), (99, 5)] : List (Nat × Nat))[c - 32]?.getD
    (2 ^ (c - 36) + 3, c - 36)

/-- The distribution of literal length codes that stands predefined. -/
def defaultLls : FseDist := {
  log := 6, probs := [5, 4] ++ List.replicate 11 3 ++ List.replicate 3 2 ++ List.replicate 9 3 ++ [4, 3] ++ List.replicate 5 2 ++ List.replicate 4 0 }
/-- The predefined distribution of match length codes. -/
def defaultMls : FseDist := { log := 6, probs := [2, 5, 4] ++ List.replicate 6 3 ++ List.replicate 37 2 ++ List.replicate 7 0 }
/-- The predefined distribution of offset codes. -/
def defaultOfs : FseDist := { log := 5, probs := List.replicate 6 2 ++ List.replicate 3 3 ++ List.replicate 15 2 ++ List.replicate 5 0 }

/-- The distribution that a mode of the sequences section asks for. -/
def seqDist (mode most log : Nat) (default : FseDist) (old : Option FseDist) (r : Reader) : Option (FseDist × Reader) :=
  match mode with
  | 0 => some (default, r)
  | 1 => (r.take 1).bind fun (b, r) => if most ≤ fieldAt b 0 1 then none else some (fseOnly (fieldAt b 0 1), r)
  | 2 => fseRead most log r
  | _ => old.map fun d => (d, r)

/-- The distance that an offset value stands for, and the three last offsets after it (RFC 8878, 3.1.1.5). -/
def offsetOf (reps : List Nat) (v lit : Nat) : Nat × List Nat :=
  let a := reps[0]?.getD 0
  let b := reps[1]?.getD 0
  let c := reps[2]?.getD 0
  if 3 < v then (v - 3, [v - 3, a, b])
  else
    match if lit = 0 then v + 1 else v with
    | 1 => (a, [a, b, c])
    | 2 => (b, [b, a, c])
    | 3 => (c, [c, a, b])
    | _ => (a - 1, [a - 1, a, b])

/-- Sequences on their way: the states of the three decoders, the bits, the last offsets, the literals that are left, what has been made, and the
pieces, newest first. -/
structure SeqRun where
  ll : FseCell
  of : FseCell
  ml : FseCell
  b : Backward
  reps : List Nat
  lits : List Byte
  made : Nat
  out : List CodecPiece
  deriving DecidableEq, Repr

/-- One sequence; `more` tells whether another follows. -/
def oneSequence (lt ot mt : List FseCell) (more : Bool) (q : SeqRun) : Option SeqRun :=
  (q.b.read q.of.sym).bind fun (o, b) => (b.read (matchLenBase q.ml.sym).2).bind fun (m, b) => (b.read (litLenBase q.ll.sym).2).bind fun (l, b) =>
    let lit := (litLenBase q.ll.sym).1 + l
    let len := (matchLenBase q.ml.sym).1 + m
    let (dist, reps) := offsetOf q.reps (2 ^ q.of.sym + o) lit
    if q.lits.length < lit then none
    else
      let q := { q with
        b := b, reps := reps, lits := q.lits.drop lit, made := q.made + lit + len, out := .copy dist len :: .literals (q.lits.take lit) :: q.out }
      if more then
        (q.ll.step lt q.b).bind fun (ll, b) => (q.ml.step mt b).bind fun (ml, b) => (q.of.step ot b).map fun (of, b) =>
          { q with ll := ll, ml := ml, of := of, b := b }
      else some q

/-- `n` sequences. -/
def runSequences (lt ot mt : List FseCell) : Nat → SeqRun → Option SeqRun
  | 0, q => some q
  | n + 1, q => (oneSequence lt ot mt (n != 0) q).bind (runSequences lt ot mt n)

/-- How many sequences a block has. -/
def seqCount (r : Reader) : Option (Nat × Reader) :=
  (r.take 1).bind fun (h, r) =>
    let n := fieldAt h 0 1
    if n < 128 then some (n, r)
    else if n < 255 then (r.take 1).map fun (l, r) => ((n - 128) * 256 + fieldAt l 0 1, r)
    else (r.take 2).map fun (l, r) => (fieldAt l 0 2 + 0x7F00, r)

/-- The sequences section on the literals: the pieces of the block, and the state after it. -/
def zstdSequences (st : ZstdState) (lits : List Byte) (r : Reader) : Option (List CodecPiece × ZstdState) :=
  (seqCount r).bind fun (n, r) =>
    if n = 0 then (if r.bytes.isEmpty then some ([.literals lits], st) else none)
    else
      (r.take 1).bind fun (m, r) =>
        let m := fieldAt m 0 1
        if m % 4 ≠ 0 then none
        else
          (seqDist (m / 64) 36 9 defaultLls st.lls r).bind fun (ll, r) => (seqDist (m / 16 % 4) 32 8 defaultOfs st.ofs r).bind fun (of, r) =>
            (seqDist (m / 4 % 4) 53 9 defaultMls st.mls r).bind fun (ml, r) => (backward r.bytes).bind fun b =>
              let lt := ll.table
              let ot := of.table
              let mt := ml.table
              (fseFirst ll lt b).bind fun (l0, b) => (fseFirst of ot b).bind fun (o0, b) => (fseFirst ml mt b).bind fun (m0, b) =>
                (runSequences lt ot mt n { ll := l0, of := o0, ml := m0, b := b, reps := st.reps, lits := lits, made := 0, out := [] }).bind fun q =>
                  if q.b.left ≠ 0 || st.limit < q.made + q.lits.length then none
                  else some ((.literals q.lits :: q.out).reverse, { st with reps := q.reps, lls := some ll, ofs := some of, mls := some ml })

/-- What the bytes of a block stand for: a raw block, one byte repeated, or a compressed block; none where they break the format. -/
def zstdBlock (st : ZstdState) (l : List Byte) : Option (List CodecPiece × ZstdState) :=
  match st.type with
  | 0 => some ([.literals l], st)
  | 1 => some ([.literals (List.replicate st.size (l.headD 0))], st)
  | _ => (zstdLiterals st { bytes := l }).bind fun (lits, ws, r) => zstdSequences { st with weights := ws } lits r

-- ## Frames

/-- The header of a frame behind its magic: what is wrong is found in the order in which it stands. -/
def zstdHeader (r : Reader) : Step ZstdState :=
  match r.take 1 with
  | none => .need
  | some (h, r) =>
    let f := fieldAt h 0 1
    let single := bitOf f 5
    let nd := ([0, 1, 2, 4] : List Nat)[f % 4]?.getD 0
    let nc := if f / 64 = 0 then b2n single else 2 ^ (f / 64)
    if bitOf f 3 then .stop [.malformed]
    else
      match r.take (b2n (!single) + nd + nc) with
      | none => .need
      | some (l, r) =>
        let w := fieldAt l 0 1
        let base := 2 ^ (10 + w / 8)
        let window := base + base / 8 * (w % 8)
        let content := fieldAt l (b2n (!single) + nd) nc + 256 * b2n (nc == 2)
        let first := if single then [] else [CodecPiece.window window]
        if fieldAt l (b2n (!single)) nd ≠ 0 then .stop (.start :: first ++ [.dictionary])
        else
          .next (.start :: first ++ if single then [.segment content] else if nc = 0 then [] else [.content content])
            { part := .blockHeader, check := bitOf f 2, limit := min 131072 (if single then content else window) } r

/-- After a block: the next, the checksum, or the end of the frame. -/
def zstdNext (st : ZstdState) : List CodecPiece × ZstdState :=
  if !st.last then ([], { st with part := .blockHeader }) else if st.check then ([], { part := .contentSum }) else ([.last none none], {})

/-- One element of a stream of frames. -/
def zstdStep (st : ZstdState) (r : Reader) : Step ZstdState :=
  match st.part with
  | .begin =>
    match r.take 4 with
    | none => .need
    | some (b, r) =>
      if fieldAt b 0 4 = 0xFD2FB528 then .next [] { part := .header } r
      else if skippable (fieldAt b 0 4) then .next [] { part := .skipSize } r
      else .stop [.malformed]
  | .header => zstdHeader r
  | .skipSize =>
    match r.take 4 with
    | none => .need
    | some (b, r) => .next [] { part := .skip, size := fieldAt b 0 4 } r
  | .skip =>
    if st.size = 0 then .next [.skipped] {} r
    else if r.bytes.isEmpty then .need
    else
      let (b, r) := r.upTo st.size
      .next [] { st with size := st.size - b.length } r
  | .blockHeader =>
    match r.take 3 with
    | none => .need
    | some (b, r) =>
      let h := fieldAt b 0 3
      if h / 2 % 4 = 3 || st.limit < h / 8 then .stop [.malformed]
      else .next [] { st with part := .block, last := bitOf h 0, type := h / 2 % 4, size := h / 8 } r
  | .block =>
    match r.take (if st.type = 1 then 1 else st.size) with
    | none => .need
    | some (l, r) =>
      match zstdBlock st l with
      | none => .stop [.malformed]
      | some (ps, st) => let (e, st) := zstdNext st; .next (ps ++ e) st r
  | .contentSum =>
    match r.take 4 with
    | none => .need
    | some (b, r) => .next [.last (some (fieldAt b 0 4)) none] {} r

-- ## The state between jobs

/-- A part as a number. -/
def ZstdPart.code : ZstdPart → Nat
  | .begin => 0
  | .header => 1
  | .skipSize => 2
  | .skip => 3
  | .blockHeader => 4
  | .block => 5
  | .contentSum => 6

/-- The part that a number names. -/
def zstdPart (n : Nat) : ZstdPart := ([.begin, .header, .skipSize, .skip, .blockHeader, .block, .contentSum] : List ZstdPart)[n]?.getD .begin

/-- A distribution in 108 bytes. -/
def packDist (d : Option FseDist) : List Byte :=
  let p := d.elim [] FseDist.probs
  leBytes 1 (d.elim 0 fun d => d.log + 1) ++ leBytes 1 p.length ++ (p.flatMap fun n => leBytes 2 n) ++ zeros (106 - 2 * p.length)
/-- The distribution that 108 bytes hold. -/
def unpackDist (l : List Byte) : Option FseDist :=
  if fieldAt l 0 1 = 0 then none
  else some { log := fieldAt l 0 1 - 1, probs := (List.range (fieldAt l 1 1)).map fun i => fieldAt l (2 + 2 * i) 2 }

/-- The state with the bytes of a header that is not complete; those of a block are the carry. -/
def ZstdState.pack (st : ZstdState) (rest : List Byte) : List Byte :=
  leBytes 1 st.part.code ++ leBytes 1 (b2n st.last + 2 * b2n st.check + 4 * st.type) ++ leBytes 4 st.size ++ leBytes 4 st.limit
    ++ (st.reps.flatMap fun n => leBytes 4 n) ++ packDist st.lls ++ packDist st.ofs ++ packDist st.mls
    ++ leBytes 2 st.weights.length ++ st.weights.map (BitVec.ofNat 8 ·) ++ leBytes 1 rest.length ++ rest

/-- The state and the bytes that a string of bytes holds; the empty string stands for a fresh stream. -/
def zstdUnpack (l : List Byte) : ZstdState × List Byte :=
  if l.isEmpty then ({}, [])
  else
    let f := fieldAt l 1 1
    let nw := fieldAt l 346 2
    ({ part := zstdPart (fieldAt l 0 1), last := bitOf f 0, check := bitOf f 1, type := f / 4 % 4, size := fieldAt l 2 4, limit := fieldAt l 6 4
       reps := [fieldAt l 10 4, fieldAt l 14 4, fieldAt l 18 4], lls := unpackDist (slice l 22 108), ofs := unpackDist (slice l 130 108)
       mls := unpackDist (slice l 238 108), weights := (slice l 348 nw).map BitVec.toNat }, slice l (349 + nw) (fieldAt l (348 + nw) 1))

/-- A stream of frames, from its state before. -/
def zstdParse (state input : List Byte) : CodecParse :=
  let (st, rest) := zstdUnpack state
  let r : Reader := { bytes := rest ++ input }
  let p := parseLoop zstdStep (loopFuel r.bytes.length) st r []
  let waits := !p.stopped && p.st.part = .block
  { pieces := p.out.reverse.map fun x => (x.1 - rest.length, x.2)
    state := if p.stopped then [] else p.st.pack (if waits then [] else p.r.bytes), carry := if waits then p.r.bytes.length else 0
    inside := p.st.part ≠ .begin || !p.r.bytes.isEmpty }

end Sys2Proof.Machine
end

