-- ==== Sys2Proof/Machine/Codec.lean ====
section
/-! DEFINITION. The formats of chapter 14, Table 2, by their numbers: how a decompression job's input is read, and the check value of a frame. -/

namespace Sys2Proof.Machine

/-- The parser of a format: whether the stream ends with this input, its state before, and the input. -/
def codecParse (fmt : Nat) (final : Bool) (state input : List Byte) : CodecParse :=
  match fmt with
  | 3 => zstdParse state input
  | 4 => lz4Parse false final state input
  | 5 => lz4Parse true final state input
  | _ => deflateParse fmt state input

/-- The running check value of a format's frame after more output; 0 stands for a frame without output. -/
def checkStep (fmt c : Nat) (bs : List Byte) : Nat :=
  match fmt with
  | 1 => adler32 (c ^^^ 1) bs ^^^ 1
  | 2 => crc32 c bs
  | 3 => (xx64.take (Xx.unpack c) bs).pack
  | 5 => (xx32.take (Xx.unpack c) bs).pack
  | _ => 0

/-- The check value of a format's frame, from its running value; of XXH64 the low 32 bits stand in the frame. -/
def checkValue (fmt c : Nat) : Nat :=
  match fmt with
  | 1 => c ^^^ 1
  | 2 => c
  | 3 => xx64.value (Xx.unpack c) % 2 ^ 32
  | 5 => xx32.value (Xx.unpack c)
  | _ => 0

end Sys2Proof.Machine
end

