-- ==== Sys2Proof/Machine/Mover.lean ====
section
/-! DEFINITION. Data movers (chapter 13): starting and checking a transfer, programs, pacing, bursts, errors, abort and enqueueing. -/

namespace Sys2Proof.Machine

-- ## Who may write (R270)

/-- Whether a requester reaches the channels of a group: the manager, or the function bound to the group's parcel. -/
def mayGroup (s : State) (who : Who) (g : Nat) : Bool :=
  isManager s who ||
    match who, groupParcel s g with
    | .fn f, some p => decide (2 ≤ f.val) && (s.parcel p).vf == f.val - 1
    | _, _ => false

/-- Whether a channel is a program channel of the committed image (R270). -/
def isProgram (s : State) (p g c : Nat) : Bool :=
  (s.parcel p).image.movers.any fun m => m.vgroup == rankIn (s.parcel p).groups.toNat g && m.channel == c

/-- Whether writes to a channel are ignored for now: an EXECUTE or LOAD_IMAGE is outstanding, and the channel is a program channel or the
loader's (R59, R270). -/
def chanLocked (s : State) (g c : Nat) : Bool :=
  match groupParcel s g with
  | none => false
  | some p => parcelBusy s p && (isProgram s p g c || (c == 15 && rankIn (s.parcel p).groups.toNat g == 0))

-- ## Positions (R274, R275)

/-- Position `i` of a side of a transfer. -/
def sidePos (a : Nat) (wrap : Bool) (log2 i : Nat) : Nat :=
  if wrap then
    let z := 2 ^ (log2 + 8)
    let base := a / z * z
    base + (a - base + i) % z
  else (a + i) % 2 ^ 64

/-- Runs of a side: virtual address and bytes, each within a page and before the wrap. -/
def sideRuns (a : Nat) (wrap : Bool) (log2 : Nat) : Nat → Nat → Nat → List (Nat × Nat)
  | 0, _, _ => []
  | _, _, 0 => []
  | n + 1, i, len =>
    let p := sidePos a wrap log2 i
    let room := if wrap then min (4096 - p % 4096) (2 ^ (log2 + 8) - p % 2 ^ (log2 + 8)) else 4096 - p % 4096
    let k := min room len
    (p, k) :: sideRuns a wrap log2 n (i + k) (len - k)

/-- The unit of a swap mode (Table 2). -/
def swapUnit (m : Nat) : Nat := match m with | 1 => 2 | 2 => 4 | 3 => 4 | 4 => 8 | _ => 1

/-- Reverse the bytes of one unit. -/
def swapOne {α : Type} (m : Nat) (l : List α) : List α :=
  match m, l with
  | 3, [a, b, c, d] => [c, d, a, b]
  | _, _ => l.reverse

/-- Swap a burst unit by unit. -/
def swapBytes {α : Type} (m : Nat) (l : List α) : List α :=
  if m = 0 then l
  else (List.range (ceilDiv l.length (swapUnit m))).flatMap fun i => swapOne m ((l.drop (i * swapUnit m)).take (swapUnit m))

-- ## Starting (R272, R273)

/-- Whether the sampled values fail a check of Table 1. -/
def badSetup (s : State) (g : Nat) (C : Chan) : Bool :=
  let x := C.xctl
  let swap := fld x 2 3
  let wl := fld x 7 5
  let req := C.reqSrc
  let u := swapUnit swap
  let idx := fld x 17 8
  let ns := fbit x 36
  let P := (groupParcel s g).map s.parcel
  let absent := match P with
    | none => true
    | some P => (req == 4 && (P.ptile idx).isNone) || (req == 5 && (P.peng .ce idx).isNone)
  fld x 37 27 ≠ 0 || 5 ≤ swap || 22 < wl || fld x 25 4 == 15 || 6 ≤ req
    || (C.paced && req == 0) || (!C.paced && req != 0)
    || (2 ≤ C.pace && (C.xhi ≤ C.xlo || (fbit x 6 && decide (2 ^ (wl + 8) < C.xhi))))
    || (swap ≠ 0 && (C.xsrc % u ≠ 0 || C.xdst % u ≠ 0 || C.xcnt % u ≠ 0))
    || (ns && (req != 3 || fbit x 5 || match s.nspace C.xns with | some N => C.xsrc % N.bs ≠ 0 || C.xcnt % N.bs ≠ 0 | none => false))
    || (!ns && req == 3) || absent || ((req == 1 || req == 2) && C.prog.isNone)

/-- Whether a program channel of an EXECUTE finds a namespace attached: a detach does not concern an EXECUTE accepted before it (R398). -/
def heldForExec (s : State) (p n : Nat) : Bool :=
  match (s.parcel p).exec with
  | none => false
  | some x => s.cmds.any fun (d : Cmd) =>
      d.opcode == 0x42 && d.phase == .running && fieldAt d.raw 4 4 == n && fieldAt d.raw 8 1 == p && fieldAt d.raw 9 1 == 1
        && (s.cmds.takeWhile fun (e : Cmd) => e.seq != d.seq).any fun (e : Cmd) => e.seq == x.seq

/-- Whether the transfer's namespace is not attached to the channel's parcel (R395), or was bound by an nsid above 1,023 (R73). -/
def badNs (s : State) (g : Nat) (C : Chan) : Bool :=
  C.badNs || (fbit C.xctl 36 && match s.nspace C.xns with
    | some N => N.attached != groupParcel s g
        && !(C.prog.isSome && match groupParcel s g with | some p => heldForExec s p C.xns | none => false)
    | none => true)

-- ## Reading a namespace ahead (R395)

/-- Offset of the burst that the service reads next: behind those it has read, and behind those begun on requests that an earlier step left. -/
def nextAhead (C : Chan) : Nat :=
  max C.aheadOff (match C.burst with | some b => b.off + b.len | none => C.xcnt - C.remaining)

/-- Bytes of one burst. -/
def Chan.burstBytes (C : Chan) : Nat := 64 * 2 ^ fld C.xctl 25 4

/-- The service reads the next burst of a namespace transfer: one burst at a time, at most 64 beyond the accepted writes. -/
def readAhead (s : State) (g c : Nat) : State :=
  let C := s.chan g c
  let off := nextAhead C
  if !C.busy || !fbit C.xctl 36 || C.ahead || 64 ≤ ceilDiv (off - C.moved) C.burstBytes || C.xcnt ≤ off then s
  else
    let ids := (unitRuns (C.xsrc + off) (min C.burstBytes (C.xcnt - off))).map fun r => ({ ns := C.xns, unit := r.1 } : UnitId)
    (s.updChan g c fun C => { C with ahead := true }).addReads (ids.flatMap fun id => readsFor s id (.chan g c))

/-- Enqueue a work item for a channel (R286); a result other than ACCEPTED halts it. -/
def chanEnqueue (s : State) (g c addr len : Nat) : State :=
  let C := s.chan g c
  match groupParcel s g with
  | none => s
  | some p =>
    let P := s.parcel p
    let v := rankIn P.groups.toNat g
    let i : Item := {
      flow := fld C.xenq 24 24, cls := 0, priority := 0, close := false, stage := fld C.xenq 8 6, pipeline := fld C.xenq 14 4, vintage := 0
      payload := addr, length := len % 2 ^ 32, seq := 0, tag := v + c * 2 ^ 8 + C.burstNo % 2 ^ 48 * 2 ^ 16 }
    if putCode s p i false false = 0 then
      acceptItem s p { item := fillItem P.image i C.vintage, origin := 5, k1 := v, k2 := c, k3 := P.dsp.arrivals } false
    else haltChan s g c 0x0D

/-- A transfer reaches its end with done (R285, R286, R323). -/
def finishDone (s : State) (g c : Nat) : State :=
  let s := s.updChan g c fun C => { C with busy := false, done := true, aborted := false, burst := none }
  let s := raiseChan (snoopEnd s g c true) g c 0
  let C := s.chan g c
  if fbit C.xenq 0 && !fbit C.xenq 1 then chanEnqueue s g c C.xdst C.xcnt else s

/-- The channel a job is bound to: group and channel. -/
def boundChan (s : State) (p : Nat) (bind : Nat) : Option (Nat × Nat) :=
  ((s.parcel p).pgroup (bits bind 0 8)).map fun g => (g, bits bind 8 4)

/-- Runs that a channel's transfer has moved beyond its first `n` bytes. -/
def movedSince (C : Chan) (n : Nat) : List (Nat × Nat) :=
  sideRuns C.xdst (fbit C.xctl 6) (fld C.xctl 7 5) (C.moved - n + 1) n (C.moved - n)

/-- A transfer of a channel is over: the compression jobs bound to it keep what it moved of theirs, which a failure leaves undefined (R307). -/
def keepMoved (s : State) (g c : Nat) : State :=
  match groupParcel s g with
  | none => s
  | some p =>
    let C := s.chan g c
    (setBits 16 (s.parcel p).ce.toNat).foldl (fun s e => s.updEng .ce e fun E => { E with jobs := E.jobs.map fun j =>
      match j.movedFrom with
      | some n =>
        if bitOf (j.f 6 2) 15 && boundChan s p (j.f 6 2) == some (g, c) then
          { j with movedFrom := some 0, movedRuns := j.movedRuns ++ movedSince C n }
        else j
      | none => j }) s

/-- Sample the registers and begin (R272, R273): the answer says whether the transfer has ended with done at once. -/
def beginTransfer (s : State) (g c : Nat) : State × Bool :=
  let s := keepMoved s g c
  let vint := ((groupParcel s g).map fun p => (s.parcel p).vintage).getD 0
  let s := s.updChan g c fun C => { C with
    xsrc := C.src.toNat, xdst := C.dst.toNat, xcnt := C.cnt.toNat, xctl := C.ctl, xhi := C.hiwat.toNat, xlo := C.lowat.toNat
    xqsel := C.qsel, xns := C.ns.toNat, xenq := C.enq, vintage := vint, done := false, aborted := false, err := 0, retries := 0
    remaining := C.cnt.toNat, moved := 0, busy := true, gateClosed := false, burst := none, burstNo := 0, ahead := false, aheadOff := 0
    snoopLive := C.snoop.isSome }
  let C := s.chan g c
  if badSetup s g C then (haltChan s g c 0x0A, false)
  else if badNs s g C then (haltChan s g c 0x09, false)
  else if C.xcnt = 0 then (finishDone s g c, true)
  else (readAhead (match groupParcel s g with | some p => sendLtr (s.updParcel p fun P => { P with ps := 0 }) | none => s) g c, false)

-- ## Programs (R281)

/-- A bind slot's address and namespace (R73): a slot beyond the parameter block gives a free address. -/
def bindAddr (s : State) (p slot : Nat) : Nat × Option Nat :=
  let P := s.parcel p
  match P.image.binds.find? fun b => b.slot == slot, P.exec with
  | some b, some x =>
    if x.param.length < b.paramOffset + b.length then ((Config.freeWord s.freeCtr).toNat, none)
    else if b.type = 2 then (fieldAt x.param (b.paramOffset + 8) 8, some (fieldAt x.param b.paramOffset 4))
    else (fieldAt x.param b.paramOffset 8, none)
  | _, _ => (0, none)

/-- Load a step into its channel. A step's ctl has the low 32 bits of DMA_CTL; a source bound to a namespace range sets src_ns (DEDUCED, log 32). -/
def loadStep (s : State) (p g c : Nat) (st : MoverStep) : State :=
  let (sa, sn) := if st.srcBind = 0xFFFF then (0, none) else bindAddr s p st.srcBind
  let s := { s with freeCtr := s.freeCtr + 1 }
  let (da, dn) := if st.dstBind = 0xFFFF then (0, none) else bindAddr s p st.dstBind
  let s := { s with freeCtr := s.freeCtr + 1 }
  let ns := match sn with | some n => some n | none => dn
  s.updChan g c fun C => { C with
    src := BitVec.ofNat 64 (st.src + sa), dst := BitVec.ofNat 64 (st.dst + da), cnt := BitVec.ofNat 32 st.count
    ctl := BitVec.ofNat 64 (st.ctl % 2 ^ 36 + b2n sn.isSome * 2 ^ 36)
    ns := match ns with | some n => BitVec.ofNat 10 n | none => C.ns, badNs := match ns with | some n => decide (1023 < n) | none => false }

/-- Load and start the following steps of a channel while each ends at once. -/
def advanceProg : Nat → State → Nat → Nat → State
  | 0, s, _, _ => s
  | n + 1, s, g, c =>
    match (s.chan g c).prog, groupParcel s g with
    | some (i, k), some p =>
      match ((s.parcel p).image.movers[i]?).bind fun m => m.steps[k]? with
      | none => s
      | some st =>
        let s := (loadStep s p g c st).updChan g c fun C => { C with prog := some (i, k + 1) }
        match beginTransfer s g c with
        | (s, true) => advanceProg n s g c
        | (s, false) => s
    | _, _ => s

/-- Steps a program can have. -/
def maxSteps : Nat := 4096

/-- End a transfer with done, and go on with its program. -/
def endTransfer (s : State) (g c : Nat) : State :=
  let s := finishDone s g c
  if (s.chan g c).done then advanceProg maxSteps s g c else s

/-- Load and start step 0 of every program at EXECUTE start. The start on a channel that a direct transfer keeps busy is ignored (R272). -/
def startPrograms (s : State) (p : Nat) : State :=
  let ms := (s.parcel p).image.movers
  (List.range ms.length).foldl (fun s i =>
    match ms[i]? with
    | none => s
    | some m =>
      match (s.parcel p).pgroup m.vgroup with
      | none => s
      | some g =>
        let s := s.updGroup g fun G => { G with stopped := false, errValid := false }
        if (s.chan g m.channel).busy then s.updChan g m.channel fun C => { C with startRefused := true }
        else
          let s := s.updChan g m.channel fun C => { C with prog := some (i, 0), reqPending := 0, dueOpen := 0, dueLate := false, lateReq := 0 }
          advanceProg maxSteps s g m.channel) s

-- ## DMA_CTL (R270, R272, R285)

/-- A DMA_CTL write with start. -/
def dmaStart (s : State) (who : Who) (g c : Nat) (ctl : Word) : State :=
  if !mayGroup s who g then s
  else if (groupParcel s g).isNone then s.updChan g c fun C => { C with startRefused := true }
  else if chanLocked s g c then s.updChan g c fun C => { C with writeRefused := true }
  else if (s.chan g c).busy && fbit ctl 1 then abortChan s g c
  else if (s.chan g c).busy || (s.group g).stopped then s.updChan g c fun C => { C with startRefused := true }
  else
    let s := s.updChan g c fun C => { C with ctl := mergeMask 0x1FFFFFFFFC 0 ctl, prog := none, badNs := false }
    (beginTransfer s g c).1

/-- DMA_START. -/
def execDmaStart (who : Who) (g : GroupId) (c : ChanId) (ctl : Word) (s : State) : Host.Outcome State Fault Refusal :=
  ok (live s fun s => dmaStart s who g c ctl)

/-- DMA_ABORT. -/
def execDmaAbort (who : Who) (g : GroupId) (c : ChanId) (s : State) : Host.Outcome State Fault Refusal :=
  ok (live s fun s =>
    if !mayGroup s who g then s
    else if chanLocked s g c then s.updChan g c fun C => { C with writeRefused := true }
    else abortChan s g c)

/-- DMA_REQUEST: a request of a source reaches the channel. -/
def execDmaRequest (g : GroupId) (c : ChanId) (src : BitVec 3) (s : State) : Host.Outcome State Fault Refusal :=
  ok (live s fun s =>
    if src = 0 then s
    else
      let bound := src = 1 || src = 2
      let late := bound && match groupParcel s g with | some p => guardNow s p | none => false
      if late then s.updChan g c fun C => if C.reqSrc = src.toNat && C.busy then { C with lateReq := C.lateReq + 1 } else C
      else addRequest s g c src.toNat bound)

/-- DMA_G_STOPPED_CLEAR: it acts only while no channel of the group is busy. -/
def execDmaGStoppedClear (who : Who) (g : GroupId) (s : State) : Host.Outcome State Fault Refusal :=
  ok (live s fun s =>
    if mayGroup s who g && (s.group g).chans.all fun c => !c.2.busy then
      s.updGroup g fun G => { G with stopped := false, errValid := false }
    else s)

/-- The mover doorbell's post of a value (R277). -/
def moverPost (s : State) (t v : Nat) : Post :=
  match roleOf s t with
  | none => .exc illegal
  | some r =>
    let c := bits v 8 4
    let m := r.parcel.image.movers.find? fun m => m.vgroup == bits v 0 8 && m.channel == c
    match m, r.parcel.pgroup (bits v 0 8) with
    | some m, some g =>
      if (s.chan g c).prog.isNone || (s.chan g c).reqSrc ≠ 2 || m.pipeline ≠ r.stage.pipeline || m.stage ≠ r.stage.stage then .exc illegal
      else .post fun s =>
        if guardNow s r.p then s.updChan g c fun C => if C.busy then { C with lateReq := C.lateReq + 1 } else C
        else addRequest s g c 2 true
    | _, _ => .exc illegal

-- ## Bursts (R276, R278 to R280)

/-- The count word of a kind 1 fill source; none where the parcel holds no such tile or the offset is no multiple of 8, which no check of Table 1
looks at. -/
def countWord (s : State) (g : Nat) (C : Chan) : Option Nat :=
  if fld C.xqsel 16 20 % 8 ≠ 0 then none
  else ((groupParcel s g).bind fun p => (s.parcel p).ptile (fld C.xqsel 8 8)).map fun t => s.tsNat t (fld C.xqsel 16 20) 8

/-- The fill level of a channel, as a signed number (R280, Table 4): a count word that the manual does not give is a free value. -/
def fillLevel (s : State) (g : Nat) (C : Chan) : Int :=
  let other : Nat :=
    if fbit C.xqsel 0 then (countWord s g C).getD (Config.freeWord s.freeCtr).toNat else (s.chan g (fld C.xqsel 1 4)).moved
  (C.moved : Int) - (other : Int)

/-- The state after a look at the fill level, which may have taken a free value. -/
def fillLooked (s : State) (g : Nat) (C : Chan) : State :=
  if 2 ≤ C.pace && fbit C.xqsel 0 && (countWord s g C).isNone then { s with freeCtr := s.freeCtr + 1 } else s

/-- The fill gate after a look at the fill level. -/
def gateClosed (s : State) (g : Nat) (C : Chan) : Bool :=
  if C.pace < 2 then false
  else
    let F := fillLevel s g C
    if F ≤ (C.xlo : Int) then false else if (C.xhi : Int) ≤ F then true else C.gateClosed

/-- BURST_START: a burst begins when requests and fill gate allow. -/
def burstStart (s : State) (g c : Nat) : State :=
  let C := s.chan g c
  if !C.busy || C.burst.isSome || (C.paced && C.reqPending == 0) then s
  else
    let closed := gateClosed s g C
    let s := (fillLooked s g C).updChan g c fun C => { C with gateClosed := closed }
    if closed then s
    else s.updChan g c fun C => { C with
      burst := some { off := C.xcnt - C.remaining, len := min C.burstBytes C.remaining, due := C.reqSrc == 1 || C.reqSrc == 2 }
      reqPending := if C.paced then C.reqPending - 1 else C.reqPending }

/-- BURST_START. -/
def execBurstStart (g : GroupId) (c : ChanId) (s : State) : Host.Outcome State Fault Refusal :=
  ok (live s fun s => burstStart s g c)

/-- What stops a burst. -/
inductive BurstStop where
  | halt (err : Nat)
  | bus (dpa : Nat)
  deriving DecidableEq, Repr

/-- The err of an exception. -/
def excErr (e : Exc) : Nat :=
  match e.idx with
  | 0 => 0x04
  | 1 => if e.reason = 0x14 then 0x03 else 0x05
  | 2 => 0x06
  | _ => 0x07

/-- Whether an inbox-B access passes the end of the half (R85). -/
def inboxEnd (s : State) (dpa n : Nat) : Bool :=
  match place dpa with
  | .inboxB t off => decide ((inboxOf s t).2 < off + n)
  | _ => false

/-- The bytes of a host read: what the completion brought, and where it is short what host memory holds. -/
def hostBytes (s : State) (dpa off n : Nat) (r : ReadResult) : List (Byte × Bool) :=
  (List.range n).map fun i =>
    match r with
    | .data bs => ((bs[off + i]?).getD (s.hostMem s.freeCtr (dpa + i)), false)
    | .error => (Config.hostByte s.freeCtr (dpa + i), false)
    | .poisoned => (s.hostMem s.freeCtr (dpa + i), true)

/-- Read the runs of a burst's source: bytes with their poison, up to what stops it. A read that was outstanding when its port's link went down has
ended as a completion timeout (R461). -/
def burstRead (s : State) (g : Nat) (runs : List (Nat × Nat)) (lost : List Nat) (r : ReadResult) :
    List (Byte × Bool) × Option BurstStop × State :=
  runs.foldl (fun acc run =>
    match acc with
    | (bs, some e, s) => (bs, some e, s)
    | (bs, none, s) =>
      match translate s (.group (Fin.ofNat 64 g)) run.1 .load with
      | (.error e, s) => (bs, some (.halt (excErr e)), s)
      | (.ok x, s) =>
        match place x.dpa with
        | .host port _ =>
          if lost.contains port || !linkUp s port then (bs, some (.bus x.dpa), s.updPort port fun P => P.logged .completionTimeout)
          else if r = .error then (bs, some (.bus x.dpa), noteRead s port r)
          else (bs ++ hostBytes s x.dpa bs.length run.2 r, none, { noteRead s port r with freeCtr := s.freeCtr + 1 })
        | _ =>
          if inboxEnd s x.dpa run.2 then (bs, some (.bus x.dpa), s)
          else
            let (d, _, s) := fabricRead s x.dpa run.2
            let p := (List.range run.2).map fun i => ((canon s (x.dpa + i)).map s.mem.poisoned).getD false
            (bs ++ d.zip p, none, s)) ([], none, s)

/-- Write a string whose bytes may carry poison: line by line of the destination. -/
def putLines (s : State) (dpa : Nat) (bs : List (Byte × Bool)) : State :=
  (linesOf dpa bs.length).foldl (fun s l =>
    let lo := max dpa l
    let part := (bs.drop (lo - dpa)).take (min (l + 64) (dpa + bs.length) - lo)
    fabricWrite s lo (part.map (·.1)) (part.any (·.2))) s

/-- Write the runs of a burst's destination: bytes accepted, up to what stops it (R279, R288). -/
def burstWrite (s : State) (g : Nat) (C : Chan) (runs : List (Nat × Nat)) (bs : List (Byte × Bool)) : Nat × Option BurstStop × State :=
  runs.foldl (fun acc run =>
    match acc with
    | (n, some e, s) => (n, some e, s)
    | (n, none, s) =>
      if bs.length ≤ n then (n, none, s)
      else
        match translate s (.group (Fin.ofNat 64 g)) run.1 .store with
        | (.error e, s) => (n, some (.halt (excErr e)), s)
        | (.ok x, s) =>
          let part := (bs.drop n).take run.2
          let inbox := match place x.dpa with | .inboxB _ _ => true | _ => false
          let host := match place x.dpa with | .host _ _ => true | _ => false
          if inbox && !(C.prog.isSome && C.pace == 1 && (C.reqSrc == 1 || C.reqSrc == 2)) then (n, some (.halt 0x0B), s)
          else if inboxEnd s x.dpa part.length then (n, some (.bus x.dpa), s)
          else if host && staleVintage s (groupParcel s g) C.vintage then
            (n + part.length, none, countStale s ((groupParcel s g).getD 0))
          else (n + part.length, none, noteHost (putLines s x.dpa part) (groupParcel s g) x.dpa)) (0, none, s)

/-- Every busy channel of a group halts (R283). -/
def groupStop (s : State) (g dpa : Nat) : State :=
  let s := s.updGroup g fun G => { G with stopped := true, errDpa := dpa / 64 * 64, errValid := true }
  let s := ((s.group g).chans.filter fun c => c.2.busy).foldl (fun s c => haltChan s g c.1 0x02) s
  if (s.group g).stopEvEn then raise s (512 + 4 * g + 2) 2 0 else s

/-- An access that was issued again has succeeded: group event 3 (R284). -/
def retryDone (s : State) (g c : Nat) : State :=
  match (s.chan g c).burst with
  | some b =>
    if b.retries = 0 then s
    else
      let s := s.updChan g c fun C => { C with burst := some { b with retries := 0, failing := none } }
      if (s.group g).retryEvEn then raise s (512 + 4 * g + 3) 3 0 else s
  | none => s

/-- The failing access of a burst is another than before: the earlier one has succeeded. -/
def nextAccess (s : State) (g c dpa : Nat) (onWrite : Bool) : State :=
  match (s.chan g c).burst with
  | some b =>
    if b.failing = some (dpa, onWrite) then s
    else (retryDone s g c).updChan g c fun C => { C with burst := C.burst.map fun b => { b with failing := some (dpa, onWrite) } }
  | none => s

/-- A bus error of a channel (R283, R284): on a prefetched read the group stops; else the access is issued again, up to retry_max times for
each access, or the channel halts. The answer says whether it is issued again. -/
def busError (s : State) (g c dpa : Nat) (onWrite : Bool) : State × Bool :=
  let s := nextAccess s g c dpa onWrite
  let C := s.chan g c
  if !onWrite && fbit C.xctl 29 then (groupStop s g dpa, false)
  else
    match C.burst with
    | none => (s, false)
    | some b =>
      if b.retries < fld C.xctl 30 4 then
        (s.updChan g c fun C => { C with retries := C.retries + 1, burst := some { b with retries := b.retries + 1, lost := [] } }, true)
      else (haltChan s g c 0x01, false)

/-- Retries that all fail the same way: the channel uses them up and halts, or its group stops. -/
def busErrors : Nat → State → Nat → Nat → Nat → Bool → State
  | 0, s, _, _, _, _ => s
  | n + 1, s, g, c, dpa, w =>
    match busError s g c dpa w with
    | (s, true) => busErrors n s g c dpa w
    | (s, false) => s

/-- A snoop job takes the bytes of a burst, of which `at_` gives the source addresses; poison among them stops the digest (R287, R329). -/
def EngJob.feed (j : EngJob) (at_ : Nat → Nat) (bs : List (Byte × Bool)) : EngJob :=
  if !j.snoop || j.seenPoison.isSome then j
  else
    let ok := bs.takeWhile (!·.2)
    { j with seen := j.seen ++ ok.map (·.1), seenPoison := if ok.length < bs.length then some (at_ ok.length) else none }

/-- Bytes of a burst are accepted: counters, the snooping engine, the enqueued item, and the end of the transfer. -/
def burstAccept (s : State) (g c : Nat) (b : Burst) (bs : List (Byte × Bool)) (n : Nat) (whole : Bool) : State :=
  let C := s.chan g c
  let s := s.updChan g c fun C => { C with remaining := C.remaining - n, moved := C.moved + n }
  let s := match C.snoop, C.snoopLive with
    | some e, true => s.updEng .de e fun E => { E with jobs := E.jobs.map fun j => j.feed (fun i => sidePos C.xsrc (fbit C.xctl 5) (fld C.xctl 7 5) (b.off + i)) (bs.take n) }
    | _, _ => s
  if !whole then s
  else
    let late := b.due && match groupParcel s g with | some p => guardNow s p | none => false
    let s := s.updChan g c fun C => { C with burst := none, dueOpen := if b.due then C.dueOpen - 1 else C.dueOpen, dueLate := C.dueLate || late }
    let s := if fbit C.xenq 0 && fbit C.xenq 1 then chanEnqueue s g c (sidePos C.xdst (fbit C.xctl 6) (fld C.xctl 7 5) b.off) b.len else s
    let s := s.updChan g c fun C => { C with burstNo := C.burstNo + 1 }
    if (s.chan g c).busy && (s.chan g c).remaining = 0 then endTransfer s g c else readAhead s g c

/-- The source bytes of a burst: a namespace's, or those of a virtual range. -/
def burstSource (s : State) (g : Nat) (C : Chan) (b : Burst) (r : ReadResult) : List (Byte × Bool) × Option BurstStop × State :=
  if fbit C.xctl 36 then
    match nsRead s C.xns (C.xsrc + b.off) b.len with
    | .error _ => ([], some (.halt 0x08), s)
    | .ok bs => (bs.map fun x => (x, decide (r = .poisoned)), none, s)
  else burstRead s g (sideRuns C.xsrc (fbit C.xctl 5) (fld C.xctl 7 5) (b.len + 1) b.off b.len) b.lost r

/-- A burst that a parcel reset left behind ends: writes to a host are discarded and counted, and what it could write otherwise is
undefined (R413, R414). -/
def oldBurstEnds (s : State) (g c : Nat) : State :=
  match (s.chan g c).old with
  | [] => s
  | o :: rest =>
    let s := s.updChan g c fun C => { C with old := rest }
    if o.host then countStale s o.parcel else o.runs.foldl (fun s r => forgetRun s r.1 r.2) s

/-- Whether a read stopped at an address was lost with its port's link, which is up again: issued again, it meets the host (R284, R461). -/
def lostRead (s : State) (a : Nat) (r : ReadResult) : Bool :=
  r != .error && match place a with | .host port _ => linkUp s port | _ => false

/-- The burst in flight is read, swapped and written; with none in flight, one that a parcel reset left behind ends (R288, R414). -/
def burstComplete (s : State) (g c : Nat) (r : ReadResult) : State :=
  let C := s.chan g c
  match C.burst with
  | none => oldBurstEnds s g c
  | some b =>
    let (bs, stop, s) := burstSource s g C b r
    let u := swapUnit (fld C.xctl 2 3)
    let bs := swapBytes (fld C.xctl 2 3) (bs.take (bs.length / u * u))
    let (n, stop2, s) := burstWrite s g C (sideRuns C.xdst (fbit C.xctl 6) (fld C.xctl 7 5) (b.len + 1) b.off b.len) bs
    let s := match stop2, stop with
      | some (.bus _), _ => s
      | none, some (.bus _) => s
      | _, _ => retryDone s g c
    let s := burstAccept s g c b bs n (stop.isNone && stop2.isNone)
    match stop2, stop with
    | some (.halt e), _ => haltChan s g c e
    | some (.bus a), _ => busErrors 17 s g c a true
    | none, some (.halt e) => haltChan s g c e
    | none, some (.bus a) => if lostRead s a r then (busError s g c a false).1 else busErrors 17 s g c a false
    | none, none => s

/-- The burst that the service reads for a channel is ready: it raises a request, and the next burst is read; or it cannot be supplied. Nothing is
ready while a cask read of it has not ended. -/
def aheadReady (s : State) (g c : Nat) : State :=
  let C := s.chan g c
  if !C.busy || !fbit C.xctl 36 || !C.ahead || s.sto.reads.any fun r => r.reader == .chan g c then s
  else
    match (s.nspace C.xns).bind fun N => s.pset N.set with
    | none => haltChan s g c 0x09
    | some P =>
      if P.recovering then haltChan s g c 0x09
      else
        let off := nextAhead C
        let n := min C.burstBytes (C.xcnt - off)
        match nsRead s C.xns (C.xsrc + off) n with
        | .error _ => haltChan s g c 0x08
        | .ok _ => readAhead (addRequest (s.updChan g c fun C => { C with ahead := false, aheadOff := off + n }) g c 3 false) g c

/-- NS_READAHEAD_READY: the service holds the next burst of a namespace read ready, or cannot supply it (R395). -/
def execNsReadaheadReady (g : GroupId) (c : ChanId) (s : State) : Host.Outcome State Fault Refusal :=
  ok (live s fun s => aheadReady s g c)

end Sys2Proof.Machine
end

