-- ==== Sys2Proof/Machine/Compress.lean ====
section
/-! DEFINITION. Compression engines (chapter 14): posting, admission, due frames, suspension, the end of a job, context slots and
publication. -/

namespace Sys2Proof.Machine


-- ## The block (Table 1)

/-- dir: decompress. -/
def cjDecomp (j : EngJob) : Bool := j.op 0
/-- format. -/
def cjFormat (j : EngJob) : Nat := bits (j.f 0 4) 1 3
/-- window_log2. -/
def cjWindow (j : EngJob) : Nat := bits (j.f 0 4) 16 5
/-- hist_log2. -/
def cjHist (j : EngJob) : Nat := j.f 4 1
/-- bind. -/
def cjBind (j : EngJob) : Nat := j.f 6 2
/-- Whether expect_bytes is declared. -/
def cjDeclared (j : EngJob) : Bool := j.f 0x28 8 != 2 ^ 64 - 1
/-- H of R295. -/
def cjHalf (j : EngJob) : Nat := 0x21000 + 2 ^ cjHist j
/-- Whether two jobs' slots overlap (R297). -/
def slotClash (a b : EngJob) : Bool := overlaps (a.f 0x30 8) (2 * cjHalf a) (b.f 0x30 8) (2 * cjHalf b)

-- ## Admission (R291, R296, R299, R300, Table 3)

/-- A descriptor outside its ranges. -/
def cjBad (j : EngJob) : Bool :=
  let o := j.f 0 4
  let level := j.f 5 1
  let zstd := cjFormat j == 3
  bits o 11 5 ≠ 0 || bits o 21 11 ≠ 0 || bits (cjBind j) 12 3 ≠ 0 || j.f 0x38 8 ≠ 0 || 6 ≤ cjFormat j
    || (if cjDecomp j then level != 0 else level == 0 || decide (9 < level))
    || cjHist j < 16 || 23 < cjHist j || (!cjDecomp j && decide (20 < cjHist j))
    || (!cjDecomp j && (if zstd then decide (cjWindow j < 16) || decide (20 < cjWindow j) else cjWindow j != 0)) || cjHist j < cjWindow j
    || j.f 0x30 8 % 4096 ≠ 0 || (!j.op 7 && !j.op 9) || (!cjDecomp j && cjDeclared j) || 0x1000000000 < j.f 0x10 8

/-- Whether the header of a slot shows what a resuming job needs (R296). -/
def slotOk (j : EngJob) (h : List Byte) : Bool :=
  h.take 5 == [0x58, 0x56, 0x43, 0x53, 1] && fieldAt h 5 1 == b2n (cjDecomp j) + 2 * cjFormat j && fieldAt h 6 1 == 1 && fieldAt h 7 1 == cjHist j


/-- Whether bind breaks R307. -/
def cjBadBind (s : State) (p e : Nat) (j : EngJob) : Bool :=
  bitOf (cjBind j) 15 && match boundChan s p (cjBind j) with
    | none => true
    | some (g, c) => fld (s.chan g c).ctl 14 3 != 5 || fld (s.chan g c).ctl 17 8 != rankIn (s.parcel p).ce.toNat e

/-- The checks at admission: code, reason and address of the first that fails. -/
def cmpCheck (s : State) (p e : Nat) (j : EngJob) : Option (Nat × Nat × Nat) × State :=
  if cjBad j then (some (sINVALID_FIELD, 0x01, 0), s)
  else
    let (h, s) := if j.op 8 then unitRead s (engUnit .ce e) (j.f 0x30 8) 64 true .cellar else (.ok [], s)
    match h with
    | .error x => (some (((uerrCode x 0x11 0x12 0x13).1, (uerrCode x 0x11 0x12 0x13).2, x.va)), s)
    | .ok h =>
      if j.op 8 && !slotOk j h then (some (sINVALID_FIELD, 0x02, 0), s)
      else if cjBadBind s p e j then (some (sINVALID_FIELD, 0x03, 0), s)
      else if cjDeclared j && j.f 0x20 8 < j.f 0x28 8 then (some (sOUTPUT_FULL, 0x04, 0), s)
      else (none, s)

/-- The model duration T (R299). -/
def cmpCycles (j : EngJob) : Nat :=
  let l := 2048 + 2 ^ (cjHist j - 4)
  let core :=
    if !cjDecomp j then ceilDiv (j.f 0x10 8) 20
    else max (ceilDiv (j.f 0x10 8) 40) (ceilDiv (if cjDeclared j then j.f 0x28 8 else j.f 0x20 8) (if cjFormat j < 3 then 20 else 40))
  1200 + core + b2n (j.op 8) * l + b2n (j.op 9) * l

/-- The suspension allowance U. -/
def cmpAllow (j : EngJob) : Nat := 10650 + 2 ^ (cjHist j - 3)

/-- Admit one job. -/
def cmpAdmit (s : State) (p e A : Nat) (j : EngJob) : State :=
  let (bad, s) := cmpCheck s p e j
  let (t, out) := match bad with
    | some (c, r, va) => (1200, some { code := c, reason := r, faultVa := va : JobOutcome })
    | none => (cmpCycles j, none)
  let j := { j with prio := bits (j.f 0 4) 4 3, outcome := out }
  let P := pcycles s p
  s.updEng .ce e fun E => { E with jobs := admitDue E.jobs j t A P cmpAllow (slotClash j) }

-- ## A stream between jobs (R295, R296, Table 5)

/-- What a stream carries from one job to the next beside history and carry: whether the input so far ended at the end of a frame, the frame's
content size where it states one, its output so far and running check value, and the state of the parser or matcher. -/
structure CodecCtx where
  ended : Bool := false
  content : Option Nat := none
  made : Nat := 0
  check : Nat := 0
  state : List Byte := []
  deriving DecidableEq, Repr

/-- A stream as a committed half holds it. -/
structure Stream where
  ctx : CodecCtx := {}
  carry : List Byte := []
  hist : List Byte := []
  totalIn : Nat := 0
  totalOut : Nat := 0
  jobs : Nat := 0
  deriving DecidableEq, Repr

/-- Exactly `n` bytes of a string, filled up with zeros. -/
def padTo (n : Nat) (l : List Byte) : List Byte := l.take n ++ zeros (n - l.length)

/-- The private bytes of a half, from place `at_` on, under the stepping's mask; the mask undoes itself. -/
def slotMask (at_ : Nat) (l : List Byte) : List Byte := (List.range l.length).zip l |>.map fun x => x.2 ^^^ Config.slotByte (at_ + x.1)

/-- The private part of the state area: 4,032 bytes. -/
def ctxBytes (c : CodecCtx) : List Byte :=
  leBytes 1 (b2n c.ended + 2 * b2n c.content.isSome) ++ leBytes 8 (c.content.getD 0) ++ leBytes 8 c.made ++ leBytes 128 c.check ++ padTo 3887 c.state

/-- The context that a private part holds. -/
def ctxOf (l : List Byte) : CodecCtx := {
  ended := bitOf (fieldAt l 0 1) 0, content := if bitOf (fieldAt l 0 1) 1 then some (fieldAt l 1 8) else none, made := fieldAt l 9 8
  check := fieldAt l 17 128, state := slice l 145 3887 }

/-- The committed half that a job leaves (R295, R296): the header of Table 5, state area, carry area and history. -/
def halfBytes (j : EngJob) (t : Stream) : List Byte :=
  [0x58, 0x56, 0x43, 0x53, 1] ++ leBytes 1 (b2n (cjDecomp j) + 2 * cjFormat j) ++ leBytes 1 (if j.op 7 then 2 else 1) ++ leBytes 1 (cjHist j)
    ++ leBytes 8 t.totalIn ++ leBytes 8 t.totalOut ++ leBytes 4 t.hist.length ++ leBytes 4 t.carry.length ++ leBytes 8 t.jobs ++ zeros 24
    ++ slotMask 64 (ctxBytes t.ctx ++ padTo 131072 t.carry ++ padTo (2 ^ cjHist j) t.hist)

/-- The stream that a committed half holds. -/
def streamOf (j : EngJob) (l : List Byte) : Stream :=
  let private_ := slotMask 64 (l.drop 64)
  { ctx := ctxOf (private_.take 4032), carry := slice private_ 4032 (min (fieldAt l 0x1C 4) 131072)
    hist := slice private_ 135104 (min (fieldAt l 0x18 4) (2 ^ cjHist j))
    totalIn := fieldAt l 8 8, totalOut := fieldAt l 0x10 8, jobs := fieldAt l 0x20 8 }

/-- The last `n` bytes of a string. -/
def lastBytes (n : Nat) (l : List Byte) : List Byte := l.drop (l.length - n)

-- ## What the codec makes of a job's input (R292, R293, R303, R305, R306)

/-- Why a job fails: status, reason and address. -/
structure CmpFailure where
  code : Nat
  reason : Nat
  va : Nat := 0
  deriving DecidableEq, Repr

/-- The failure that an access is (Table 4). -/
def accessFailure (x : UErr) : CmpFailure := { code := (uerrCode x 0x11 0x12 0x13).1, reason := (uerrCode x 0x11 0x12 0x13).2, va := x.va }

/-- A decompression on its way: output, context, frames completed, whether one carried no check value, input consumed, and the first failure. -/
structure Decoding where
  out : List Byte := []
  ctx : CodecCtx
  frames : Nat := 0
  noCheck : Bool := false
  used : Nat := 0
  fail : Option CmpFailure := none
  deriving DecidableEq, Repr

/-- How much output a job has room for, and what it fails with beyond it (R305, R306). -/
structure Room where
  bytes : Nat
  beyond : CmpFailure
  deriving DecidableEq, Repr

/-- The room that the block gives: the declared length, or the output space. -/
def cjRoom (j : EngJob) : Room :=
  if cjDecomp j && cjDeclared j then { bytes := j.f 0x28 8, beyond := { code := sLENGTH_MISMATCH, reason := 0x06 } }
  else { bytes := j.f 0x20 8, beyond := { code := sOUTPUT_FULL, reason := 0x04 } }

/-- The room left where the output's pages can be written up to an address only. -/
def Room.upTo (r : Room) (dst : Nat) (x : UErr) : Room :=
  if x.va - dst < r.bytes then { bytes := x.va - dst, beyond := accessFailure x } else r

/-- Output that no failure stops but the end of the room. -/
def Decoding.emit (j : EngJob) (room : Room) (d : Decoding) (l : List Byte) : Decoding :=
  let n := room.bytes - d.out.length
  { d with
    out := d.out ++ l.take n
    ctx := { d.ctx with made := d.ctx.made + (l.take n).length, check := checkStep (cjFormat j) d.ctx.check (l.take n) }
    fail := if n < l.length then some room.beyond else none }

/-- The bytes of a match in what precedes it. -/
def matchBytes (before : List Byte) (dist len : Nat) : List Byte :=
  (List.range len).map fun i => (before[before.length - dist + i % dist]?).getD 0

/-- A Zstandard frame's window against R292. -/
def windowFailure (j : EngJob) (w : Nat) : Option CmpFailure :=
  if 0x800000 < w then some { code := sUNSUPPORTED, reason := 0x08 }
  else if 2 ^ cjHist j < w then some { code := sCAPACITY, reason := 0x0B }
  else none

/-- The end of a frame or member: content size, check value and repeated length, in the order in which the stream shows them; a frame that
carries no check value (R303, R306). -/
def Decoding.frameEnd (j : EngJob) (d : Decoding) (value length : Option Nat) : Decoding :=
  let fmt := cjFormat j
  let bad := fun (c r : Nat) => { d with fail := some { code := c, reason := r } }
  let bare := fmt == 0 || fmt == 4 || value.isNone
  if d.ctx.content.any fun n => n ≠ d.ctx.made then bad sLENGTH_MISMATCH 0x07
  else if bare && (fmt == 1 || fmt == 2) then bad sDECOMPRESS_CHECK_FAIL 0x0E
  else if !bare && value ≠ some (checkValue fmt d.ctx.check) then bad sDECOMPRESS_CHECK_FAIL 0x0C
  else if fmt = 2 && length ≠ some (d.ctx.made % 2 ^ 32) then bad sDECOMPRESS_CHECK_FAIL 0x0C
  else if bare && j.op 10 then bad sDECOMPRESS_CHECK_FAIL 0x0D
  else { d with frames := d.frames + 1, noCheck := d.noCheck || bare, ctx := { d.ctx with ended := true } }

/-- Take one piece of the stream. A failure stops the job (R306); a piece that the format does not have says nothing. -/
def Decoding.piece (j : EngJob) (hist : List Byte) (room : Room) (d : Decoding) (x : Nat × CodecPiece) : Decoding :=
  let fmt := cjFormat j
  let d' := { d with used := x.1 }
  let bad := fun (c r : Nat) => { d' with fail := some { code := c, reason := r } }
  if d.fail.isSome then d
  else
    match x.2 with
    | .start => { d' with ctx := { d.ctx with ended := false, content := none, made := 0, check := 0 } }
    | .window w => if fmt = 3 then { d' with fail := windowFailure j w } else d'
    | .content n => if fmt = 3 || fmt = 5 then { d' with ctx := { d.ctx with content := some n } } else d'
    | .segment n => if fmt = 3 then { d' with ctx := { d.ctx with content := some n }, fail := windowFailure j n } else d'
    | .dictionary => if fmt = 1 || fmt = 3 || fmt = 5 then bad sUNSUPPORTED 0x09 else d'
    | .legacy => if fmt = 5 then bad sUNSUPPORTED 0x0A else d'
    | .literals l => d'.emit j room l
    | .copy dist len =>
      if dist = 0 || (hist ++ d.out).length < dist then bad sDECOMPRESS_CHECK_FAIL 0x0E
      else d'.emit j room (matchBytes (hist ++ d.out) dist len)
    | .mismatch => bad sDECOMPRESS_CHECK_FAIL 0x0C
    | .last v n => d'.frameEnd j v n
    | .skipped => if fmt = 3 || fmt = 5 then { d' with ctx := { d.ctx with ended := true } } else d'
    | .malformed => bad sDECOMPRESS_CHECK_FAIL 0x0E

/-- What the codec made of a job's input: the stream after it where there is no failure. -/
structure CmpRun where
  out : List Byte
  used : Nat
  frames : Nat := 0
  noCheck : Bool := false
  atEnd : Bool := false
  fail : Option CmpFailure := none
  stream : Stream := {}
  /-- the verify lane found a difference -/
  verify : Bool := false
  deriving DecidableEq, Repr

/-- The stream after a job that consumed `input` and made `out`. -/
def Stream.next (t : Stream) (j : EngJob) (ctx : CodecCtx) (carry seen : List Byte) (input out : List Byte) : Stream := {
  ctx := ctx, carry := carry, hist := lastBytes (2 ^ cjHist j) (t.hist ++ seen)
  totalIn := t.totalIn + input.length, totalOut := t.totalOut + out.length, jobs := t.jobs + 1 }

/-- Decompress the input of a job as far as it could be read, with the room its output has; `stop` is what ended the read (R292, R293,
R303, R306). -/
def decompressRun (j : EngJob) (t : Stream) (room : Room) (input : List Byte) (stop : Option UErr) : CmpRun :=
  let q := codecParse (cjFormat j) (j.op 7 && stop.isNone) t.ctx.state (t.carry ++ input)
  let d : Decoding := q.pieces.foldl (fun d x => d.piece j t.hist room (x.1 - t.carry.length, x.2)) { ctx := t.ctx }
  let fail := match d.fail, stop with
    | some f, _ => some f
    | none, some x => some (accessFailure x)
    | none, none =>
      if j.op 7 && q.inside then some { code := sDECOMPRESS_CHECK_FAIL, reason := 0x0F }
      else if cjDeclared j && d.out.length < j.f 0x28 8 then some { code := sLENGTH_MISMATCH, reason := 0x05 }
      else none
  let carry := if cjFormat j = 3 && q.inside then lastBytes (min q.carry 131072) (t.carry ++ input) else []
  { out := d.out, used := if d.fail.isSome then min d.used input.length else input.length, frames := d.frames, noCheck := d.noCheck
    atEnd := d.fail.isNone && stop.isNone && d.ctx.ended && !q.inside, fail := fail
    stream := t.next j { d.ctx with ended := d.ctx.ended && !q.inside, state := q.state } carry d.out input d.out }

/-- The history a compression may match against (R292). -/
def reachBack (j : EngJob) : Nat :=
  match cjFormat j with
  | 3 => 2 ^ cjWindow j
  | 4 => 65535
  | 5 => 65535
  | _ => 32768

/-- Compress the input of a job as far as it could be read (R294), and pass the output through the verify lane (R304). `n` numbers the run,
`upset` what the lane meets; where it meets nothing it gives the input back. A difference may lie before or after what else ends the job. -/
def compressRun (n upset : Nat) (j : EngJob) (t : Stream) (room : Room) (input : List Byte) (stop : Option UErr) : CmpRun :=
  let ask : CodecAsk := { format := cjFormat j, level := j.f 5 1, window := cjWindow j, whole := !j.op 8 && j.op 7, final := j.op 7 && stop.isNone }
  let c := Config.compressor ask t.ctx.state (lastBytes (reachBack j) t.hist) input
  let lane := if upset = 0 then input else Config.verifyLane upset (cjFormat j) t.ctx.state c.1 input.length
  let differs : Option CmpFailure := if lane ≠ input then some { code := sCOMPRESS_VERIFY_FAIL, reason := 0x10 } else none
  let other := if room.bytes < c.1.length then some room.beyond else stop.map accessFailure
  let fail := if other.isSome && Config.freeBool n then other else differs <|> other
  { out := c.1.take room.bytes, used := if fail.isSome then (Config.freeWord n).toNat % (input.length + 1) else input.length
    frames := b2n (j.op 7 && fail.isNone), fail := fail
    stream := t.next j { state := c.2 } [] input input c.1, verify := fail == some { code := sCOMPRESS_VERIFY_FAIL, reason := 0x10 } }

/-- The codec's run of a job. -/
def codecRun (n upset : Nat) (j : EngJob) (t : Stream) (room : Room) (input : List Byte) (stop : Option UErr) : CmpRun :=
  if cjDecomp j then decompressRun j t room input stop else compressRun n upset j t room input stop

/-- The committed half that a resuming job begins with, which must allow reads and writes (R296, R308). -/
def slotRead (s : State) (e : Nat) (j : EngJob) : Except UErr Stream × State :=
  if j.op 8 then
    match unitRead s (engUnit .ce e) (j.f 0x30 8) (cjHalf j) true .cellar with
    | (.ok l, s) => (.ok (streamOf j l), s)
    | (.error x, s) => (.error x, s)
  else (.ok {}, s)

/-- Run a job on memory: its slot, its input up to what stops the read, and its output's pages. A page that cannot be written ends the run
where the output reaches it. The answer has the places of the output. -/
def cmpRun (s : State) (e upset : Nat) (j : EngJob) : CmpRun × List (Nat × Nat) × State :=
  let u := engUnit .ce e
  match slotRead s e j with
  | (.error x, s) => ({ out := [], used := 0, fail := some (accessFailure x) }, [], s)
  | (.ok t, s) =>
    let (input, stop, s) := unitPrefix s u (j.f 0x08 8) (j.f 0x10 8) false .cellarOrTiles
    let n := s.freeCtr
    let s := { s with freeCtr := n + 1 }
    let r := codecRun n upset j t (cjRoom j) input stop
    match unitPlaces s u (j.f 0x18 8) r.out.length .cellar with
    | (.ok places, s) => (r, places, s)
    | (.error x, s) =>
      let r := codecRun n upset j t ((cjRoom j).upTo (j.f 0x18 8) x) input stop
      (r, (unitPlaces s u (j.f 0x18 8) r.out.length .cellar).1.toOption.getD [], s)

-- ## The end of a job (R296, R304 to R308)

/-- Flags of a record. -/
def cmpFlags (j : EngJob) (noCheck atEnd : Bool) : Nat := b2n noCheck + 2 * b2n j.suspendedOnce + 4 * b2n atEnd

/-- Leave what a job's bound channel moved since the job's first request undefined (R307). -/
def forgetMoved (s : State) (p : Nat) (j : EngJob) : State :=
  match boundChan s p (cjBind j), j.movedFrom with
  | some (g, c), some n =>
    (j.movedRuns ++ movedSince (s.chan g c) n).foldl (fun s r => forgetVa s (.group (Fin.ofNat 64 g)) r.1 r.2) s
  | _, _ => s

/-- Fail a job: its destination is undefined, and so is what the bound channel moved of it; its slot is not advanced (R305, R307). -/
def cmpFail (s : State) (p e : Nat) (j : EngJob) (r : CmpRun) (f : CmpFailure) : State :=
  let s := forgetMoved (forgetVa s (engUnit .ce e) (j.f 0x18 8) (cjRoom j).bytes) p j
  let out : JobOutcome := {
    code := f.code, reason := f.reason, inUsed := r.used, outBytes := r.out.length, faultVa := f.va, frames := r.frames
    flags := cmpFlags j r.noCheck r.atEnd }
  s.updJob .ce e j.post fun j => { j with outcome := some out, running := false, suspended := false }

/-- A verify lane found a difference (R304). -/
def verifyFailed (s : State) (e : Nat) : State :=
  raiseHealth (s.updEng .ce e fun E => { E with verifyCnt := satAdd E.verifyCnt 1, verifyFail := true }) 1

/-- Request `n` more blocks of the bound channel (R307), where the transfer that it runs names this engine (R276). -/
def blockRequests (s : State) (p e : Nat) (j : EngJob) (n : Nat) : State :=
  if !bitOf (cjBind j) 15 then s
  else
    match boundChan s p (cjBind j) with
    | none => s
    | some (g, c) =>
      let s := s.updJob .ce e j.post fun j => { j with blocks := j.blocks + n, movedFrom := some (j.movedFrom.getD (s.chan g c).moved) }
      if fld (s.chan g c).xctl 17 8 = rankIn (s.parcel p).ce.toNat e then (List.range n).foldl (fun s _ => addRequest s g c 5 false) s else s

/-- Finish a job. Output becomes readable at the publication, but where a channel is bound it is written as it is made, and the channel
moves it. The committed half is written now: the next job on the slot continues it. -/
def cmpFinish (s : State) (p e : Nat) (j : EngJob) (r : CmpRun) (places slot : List (Nat × Nat)) : State :=
  let bound := bitOf (cjBind j) 15
  let s := if bound then putAll s (layOut places r.out) else forgetVa s (engUnit .ce e) (j.f 0x18 8) r.out.length
  let s := if j.op 9 then putAll s (layOut slot (halfBytes j r.stream)) else s
  let o : JobOutcome := {
    code := sSUCCESS, reason := 0, inUsed := r.used, outBytes := r.out.length, frames := r.frames, flags := cmpFlags j r.noCheck r.atEnd
    writes := if bound then [] else layOut places r.out }
  let s := s.updJob .ce e j.post fun j => { j with outcome := some o, running := false }
  blockRequests s p e j (ceilDiv r.out.length 65536 - j.blocks)

/-- The running job ends with what the codec makes of its input. -/
def cmpEnd (s : State) (p e upset : Nat) (j : EngJob) : State :=
  let (r, places, s) := cmpRun s e upset j
  match r.fail with
  | some f => cmpFail (if r.verify then verifyFailed s e else s) p e j r f
  | none =>
    match if j.op 9 then unitPlaces s (engUnit .ce e) (j.f 0x30 8) (cjHalf j) .cellar else (.ok [], s) with
    | (.error x, s) => cmpFail s p e j r (accessFailure x)
    | (.ok slot, s) => cmpFinish s p e j r places slot

-- ## Order and suspension (R298)

/-- The suspend half of a job's slot, as the engine reaches it: what stops the access, if anything does (R308). -/
def suspendHalf (s : State) (e : Nat) (j : EngJob) : Option UErr × State :=
  match unitRead s (engUnit .ce e) (j.f 0x30 8 + cjHalf j) (cjHalf j) true .cellar with
  | (.ok _, s) => (none, s)
  | (.error x, s) => (some x, s)

/-- What a job had made of its input when an access to its suspend half failed it: part of what its whole run makes, at a place that the manual
does not fix. -/
def cmpPartial (s : State) (e : Nat) (j : EngJob) : CmpRun × State :=
  let (r, _, s) := cmpRun s e 0 j
  let part := fun (i n : Nat) => freeNat s i 64 % (n + 1)
  ({ out := r.out.take (part 0 r.out.length), used := part 1 r.used, frames := part 2 r.frames, noCheck := r.noCheck && Config.freeBool s.freeCtr },
    { s with freeCtr := s.freeCtr + 3 })

/-- A job fails on an access to its suspend half (R308). -/
def failHalf (s : State) (p e : Nat) (j : EngJob) (x : UErr) : State :=
  let (r, s) := cmpPartial s e j
  cmpFail s p e j r (accessFailure x)

/-- The engine takes its next job; a suspended one is restored from its suspend half, and fails where that cannot be read. `n` bounds the jobs
that fail so. -/
def cmpPickN : Nat → State → Nat → Nat → State
  | 0, s, _, _ => s
  | n + 1, s, p, e =>
    let t := s.updEng .ce e fun E => { E with jobs := runNext E.jobs slotClash }
    match (s.eng .ce e).jobs.any (·.running), (t.eng .ce e).running with
    | false, some j =>
      if (s.eng .ce e).jobs.any fun i => i.post == j.post && i.suspended then
        match suspendHalf t e j with
        | (none, t) => t
        | (some x, t) => cmpPickN n (failHalf t p e j x) p e
      else t
    | _, _ => t

/-- The engine takes its next job. -/
def cmpPick (s : State) (p e : Nat) : State := cmpPickN 17 s p e

/-- Suspend the running job for one of higher priority: its state goes to the suspend half of its slot, whose contents are private. A job whose
suspend half cannot be written fails (R308). -/
def cmpSuspend (s : State) (p e : Nat) (r : EngJob) : State :=
  match unitPlaces s (engUnit .ce e) (r.f 0x30 8 + cjHalf r) (cjHalf r) .cellar with
  | (.error x, s) => cmpPick (failHalf s p e r x) p e
  | (.ok l, s) =>
    let s := l.foldl (fun s x => forgetRun s x.1 x.2) s
    s.updEng .ce e fun E => { E with jobs := suspendFor E.jobs slotClash }

/-- CMP_JOB_SUSPEND: at a block boundary the running job makes way for one of higher priority. -/
def execCmpJobSuspend (e : EngId) (s : State) : Host.Outcome State Fault Refusal :=
  ok (live s fun s => moving s .ce e fun s =>
    let E := s.eng .ce e
    match E.running, engParcel s .ce e with
    | some r, some p => if suspendFor E.jobs slotClash = E.jobs then s else cmpSuspend s p e r
    | _, _ => s)

/-- CMP_JOB_END. What the verify lane meets comes with the row. -/
def execCmpJobEnd (e : EngId) (upset : Nat) (s : State) : Host.Outcome State Fault Refusal :=
  ok (live s fun s => moving s .ce e fun s =>
    match (s.eng .ce e).running, engParcel s .ce e with
    | some j, some p => cmpPick (cmpEnd s p e upset j) p e
    | _, _ => s)

/-- The block of output that the running job completes next, where it is bound to a channel: it is written, and the channel gets a request
(R307). -/
def outputBlock (s : State) (p e : Nat) (j : EngJob) : State :=
  let (r, places, t) := cmpRun s e 0 j
  if !bitOf (cjBind j) 15 || decide (r.out.length < 65536 * (j.blocks + 1)) then s
  else blockRequests (putAll t (overPlaces places [(65536 * j.blocks, slice r.out (65536 * j.blocks) 65536)])) p e j 1

/-- CMP_OUTPUT_BLOCK: 64 KiB of output of the running job is complete. -/
def execCmpOutputBlock (e : EngId) (s : State) : Host.Outcome State Fault Refusal :=
  ok (live s fun s => moving s .ce e fun s =>
    match (s.eng .ce e).running, engParcel s .ce e with
    | some j, some p => outputBlock s p e j
    | _, _ => s)

-- ## Publication (R300 to R302)

/-- Leave the slot of a job undefined: both halves, or the committed half. -/
def forgetSlot (s : State) (e : Nat) (j : EngJob) (halves : Nat) : State := forgetVa s (engUnit .ce e) (j.f 0x30 8) (halves * cjHalf j)

/-- The completion record. -/
def cmpRecord (j : EngJob) (o : JobOutcome) : List Byte :=
  leBytes 8 o.inUsed ++ leBytes 8 o.outBytes ++ leBytes 8 j.due ++ leBytes 8 o.faultVa ++ leBytes 4 o.frames ++ leBytes 1 o.code ++ leBytes 1 o.reason
    ++ leBytes 1 o.flags ++ zeros 24

/-- Publish a job. The output and the slot of one whose slot another engine's job overlapped are undefined (R297). -/
def cmpPublish (s : State) (p e : Nat) (j : EngJob) (o : JobOutcome) : State :=
  let s := if j.spoilt then forgetSlot (forgetVa s (engUnit .ce e) (j.f 0x18 8) (cjRoom j).bytes) e j 2 else putAll s o.writes
  let s := s.tsWrite j.tile (j.off + 0x40) (cmpRecord j o ++ [if o.code = sSUCCESS then 1 else 2])
  poisonJob (countJob s .ce e j o.code o.reason o.inUsed o.outBytes o.faultVa j.due false) p o.code

/-- What a boundary that opens parcel frame `A` does on a compression engine. -/
def cmpBoundary (s : State) (p e A : Nat) : State :=
  let due := (s.eng .ce e).jobs.filter fun j => j.admitted && decide (j.due ≤ A)
  let s := due.foldl (fun s j =>
    match j.outcome with
    | some o => cmpPublish s p e j o
    | none => lateJob s p .ce e) s
  cmpPick ((postOrder ((s.eng .ce e).jobs.filter fun j => !j.admitted)).foldl (fun s j => cmpAdmit s p e A j) s) p e

/-- The end of an EXECUTE discards held jobs, admitted or not: their outputs are undefined, and so is the committed half of a slot whose job had
finished (R302). -/
def cmpDiscard (s : State) (e : Nat) : State :=
  let s := (s.eng .ce e).jobs.foldl (fun s j =>
    let s := forgetVa s (engUnit .ce e) (j.f 0x18 8) (cjRoom j).bytes
    if j.op 9 && (j.outcome.any fun o => o.code == sSUCCESS) then forgetSlot s e j 1 else s) s
  s.updEng .ce e fun E => { E with jobs := [] }

-- ## Posting (R290, R297)

/-- Held jobs of the parcel's engines that name a slot, whatever else their blocks break: engine and job. -/
def heldJobs (s : State) (p : Nat) : List (Nat × EngJob) :=
  (setBits 16 (s.parcel p).ce.toNat).flatMap fun e =>
    ((s.eng .ce e).jobs.filter fun j => decide (16 ≤ cjHist j) && decide (cjHist j ≤ 23)).map fun j => (e, j)

/-- Jobs on different engines whose slots overlap while both are held: the slots are undefined from here on (R297). -/
def spoilSlots (s : State) (p : Nat) : State :=
  let l := heldJobs s p
  (l.filter fun x => !x.2.spoilt && l.any fun y => y.1 != x.1 && slotClash x.2 y.2).foldl (fun s x =>
    (forgetSlot s x.1 x.2 2).updJob .ce x.1 x.2.post fun j => { j with spoilt := true }) s

/-- The compression doorbell's post of a value (R290). -/
def cmpPost (s : State) (t v : Nat) : Post :=
  match enginePost s t v .ce 0xFFFE0 128 0xFFF80, roleOf s t with
  | .post f, some r => .post fun s => spoilSlots (f s) r.p
  | x, _ => x

end Sys2Proof.Machine
end

