-- ==== Sys2Proof/Machine/Sort.lean ====
section
/-! DEFINITION. Sort engines (chapter 08): posting, admission, normalization and order, the end of a job, and publication. -/

namespace Sys2Proof.Machine

/-- Fields of a sort job block (Table 1). -/
def sjInAddr (j : EngJob) : Nat := j.f 0x00 8
/-- in_bytes. -/
def sjInBytes (j : EngJob) : Nat := j.f 0x08 8
/-- rec_count. -/
def sjCount (j : EngJob) : Nat := j.f 0x10 4
/-- L′ of R179: limit, or n when limit is 0. -/
def sjLimit (j : EngJob) : Nat := if j.f 0x38 4 = 0 then sjCount j else j.f 0x38 4

/-- The sort doorbell's post of a value (R177). -/
def sortPost (s : State) (t v : Nat) : Post := enginePost s t v .se 0xFFFF0 128 0xFFF80

-- ## Key order (R184 to R186)

/-- The normalized string of a column (R185, Table 3). A transform that is asked for and not named gives free bytes (DESIGN CHOICE, log entry
29). -/
def normalString (I : Image) (c : SortColumn) (raw : List Byte) : List Byte :=
  let flip := fun (l : List Byte) (m : Byte) => match l with | [] => [] | b :: r => (b ^^^ m) :: r
  match c.kind with
  | 0 => raw.reverse
  | 1 => flip raw.reverse 0x80
  | 2 =>
    let w := 8 * c.width
    let x := leNat raw
    let l := beBytes c.width (if fIsNan w x then (fmtOf w).nanBits else x)
    if bitOf ((l.head?.getD 0).toNat) 7 then l.map (~~~ ·) else flip l 0x80
  | _ =>
    if !c.transformOn then raw
    else
      match I.transforms[c.transform]? with
      | some m => raw.map fun b => (m[b.toNat]?).getD 0
      | none => raw.map Config.noTransform

/-- Whether a column of a record is null (R184). -/
def isNull (c : SortColumn) (rec : List Byte) : Bool :=
  c.nullBit != 0xFFFF && bitOf ((rec[c.nullBit / 8]?.getD 0).toNat) (c.nullBit % 8)

/-- What a column contributes to the key: its null rank, then its string. -/
def columnKey (I : Image) (rec : List Byte) (c : SortColumn) : List Byte :=
  if isNull c rec then (if c.nullsFirst then 0 else 2) :: zeros c.width
  else
    let n := normalString I c (slice rec c.srcOffset c.width)
    1 :: (if c.descending then n.map (~~~ ·) else n)

/-- The key of a record: comparing keys as numbers compares the columns in table order. -/
def recordKey (I : Image) (T : SortTable) (rec : List Byte) : Nat := beNat (T.columns.flatMap (columnKey I rec))

/-- Cut a byte string into records. -/
def records (w n : Nat) (bs : List Byte) : List (List Byte) := (List.range n).map fun i => slice bs (w * i) w

/-- A record with what places it: its key, and its rank among equal keys. -/
structure Keyed where
  key : Nat
  tie : Nat
  row : List Byte
  deriving DecidableEq, Repr

/-- Records in order of key and rank. -/
def inOrder (l : List Keyed) : List Keyed := sortBy (·.key) (sortBy (·.tie) l)

/-- The records of the input with their keys: of equal keys the first in the input comes first where the table is stable, else the engine's
own tie rule, a function of input and descriptor, ranks them (R186). -/
def keyedRecords (I : Image) (T : SortTable) (j : EngJob) (input : List Byte) : List Keyed :=
  let rs := records T.recordBytes (sjCount j) input
  ((List.range rs.length).zip rs).map fun x =>
    { key := recordKey I T x.2, tie := if T.stable then x.1 else Config.sortTie (j.blk ++ input) x.1, row := x.2 }

/-- The records in full order. -/
def sortRecords (I : Image) (T : SortTable) (j : EngJob) (input : List Byte) : List (List Byte) :=
  (inOrder (keyedRecords I T j input)).map (·.row)

/-- Cut a list into parts of `n`, the last maybe shorter; `k` bounds how many. -/
def chunked {α : Type} (n : Nat) : Nat → List α → List (List α)
  | 0, _ => []
  | _, [] => []
  | k + 1, l => l.take n :: chunked n k (l.drop n)

-- ## Quantities (R187, R188)

/-- The quantities of a job. -/
structure SortPlan where
  runs : Nat
  truncated : Nat
  passes : Nat
  scratch : Nat
  outBytes : Nat
  cycles : Nat
  deriving DecidableEq, Repr

/-- Records of a run (R187). -/
def SortTable.runRecords (T : SortTable) : Nat := 2097152 / (T.recordBytes + 8 * b2n T.stable)

/-- The plan of a job under a table. -/
def sortPlan (T : SortTable) (j : EngJob) : SortPlan :=
  let n := sjCount j
  let l := sjLimit j
  let q := T.runRecords
  let r := ceilDiv n q
  let bt := (n / q * min q l + min (n % q) l) * T.recordBytes
  let m := if r ≤ 1 then 0 else (findBelow 32 fun m => decide (r ≤ 64 ^ m)).getD 0
  { runs := r, truncated := bt, passes := m, scratch := if m = 0 then 0 else if m = 1 then bt else 2 * bt
    outBytes := min n l * T.recordBytes, cycles := 1200 + ceilDiv (3 * sjInBytes j) 80 + m * ceilDiv (3 * bt) 80 }

-- ## Runs and passes (R187)


/-- Merge passes that are not the last: what each writes to its half of the scratch area, the half and the runs there. -/
def mergePasses : Nat → Bool → List (List Keyed) → List (Bool × List (List Keyed))
  | 0, _, _ => []
  | m + 1, half, runs =>
    let next := (chunked 64 runs.length runs).map fun g => inOrder g.flatten
    (half, next) :: mergePasses m (!half) next

/-- What the scratch area receives: run generation writes the runs, each in order and cut to `limit`, one after another from its start, and each
pass but the last the merged runs to the half it does not read. The parts are given with their offsets, in the order of writing. -/
def scratchWrites (T : SortTable) (j : EngJob) (ks : List Keyed) : List (Nat × List Byte) :=
  let P := sortPlan T j
  let runs := (chunked T.runRecords ks.length ks).map fun r => (inOrder r).take (sjLimit j)
  let bytes := fun (l : List (List Keyed)) => l.flatten.flatMap (·.row)
  if P.passes = 0 then []
  else (0, bytes runs) :: (mergePasses (P.passes - 1) true runs).map fun x => (if x.1 then P.truncated else 0, bytes x.2)

-- ## Admission (R178 to R180)

/-- The table a job names. -/
def sortTable (I : Image) (j : EngJob) : Option SortTable := I.sortTables.find? fun T => T.id == j.f 0x14 1

/-- Whether a table cannot be used. -/
def badTable (T : SortTable) : Bool :=
  T.columns.any fun c =>
    decide (T.recordBytes < c.srcOffset + c.width) || (c.nullBit != 0xFFFF && decide (T.recordBytes ≤ c.nullBit / 8))
      || (c.kind == 2 && c.width != 4 && c.width != 8) || (c.transformOn && c.kind != 3)

/-- The first failing check of Table 2: code and reason. -/
def sortCheck (I : Image) (j : EngJob) : Except (Nat × Nat) SortTable :=
  if j.f 0x15 1 ≠ 0 || j.f 0x3C 4 ≠ 0 || sjInAddr j % 64 ≠ 0 || j.f 0x18 8 % 64 ≠ 0 || j.f 0x28 8 % 64 ≠ 0 then
    .error (sINVALID_FIELD, 7)
  else
    match sortTable I j with
    | none => .error (sINVALID_FIELD, 5)
    | some T =>
      let P := sortPlan T j
      if badTable T then .error (sINVALID_FIELD, 6)
      else if j.f 0x16 2 ≠ T.recordBytes then .error (sLENGTH_MISMATCH, 1)
      else if sjInBytes j ≠ sjCount j * T.recordBytes then .error (sLENGTH_MISMATCH, 2)
      else if j.f 0x20 8 < P.outBytes then .error (sOUTPUT_FULL, 3)
      else if j.f 0x30 8 < P.scratch then .error (sOUTPUT_FULL, 4)
      else .ok T

/-- Admit one job at the boundary that opens parcel frame `A`. -/
def sortAdmit (s : State) (p e A : Nat) (j : EngJob) : State :=
  let E := s.eng .se e
  let chk := sortCheck (s.parcel p).image j
  let (t, out) := match chk with
    | .error (c, r) => (1200, some { code := c, reason := r : JobOutcome })
    | .ok T => ((sortPlan T j).cycles, none)
  let start := max A E.lastDue
  let due := start + ceilDiv t (pcycles s p)
  let s := s.updJob .se e j.post fun j => { j with admitted := true, start := start, due := due, dur := t, outcome := out }
  s.updEng .se e fun E => { E with lastDue := due }

/-- Admit the jobs that a boundary takes. -/
def sortAdmitAll (s : State) (p e A : Nat) : State :=
  (postOrder ((s.eng .se e).jobs.filter fun j => !j.admitted)).foldl (fun s j => sortAdmit s p e A j) s

-- ## The course of a job (R181, R183, R190)

/-- The output and the scratch area of a job: address and bytes. A job that names no table has the space its block gives. -/
def sortAreas (I : Image) (j : EngJob) : List (Nat × Nat) :=
  match sortTable I j with
  | some T => [(j.f 0x28 8, (sortPlan T j).scratch), (j.f 0x18 8, (sortPlan T j).outBytes)]
  | none => [(j.f 0x28 8, j.f 0x30 8), (j.f 0x18 8, j.f 0x20 8)]

/-- Leave output and scratch of a job undefined (R181, R183, R190). -/
def sortForget (s : State) (p e : Nat) (j : EngJob) : State :=
  (sortAreas (s.parcel p).image j).foldl (fun s a => forgetVa s (engUnit .se e) a.1 a.2) s

/-- The part of `[a, a + n)` inside `[b, b + m)`: address and bytes. -/
def inside (a n b m : Nat) : Nat × Nat := (max a b, min (a + n) (b + m) - max a b)

/-- The bytes of a virtual range of a unit, page by page, where it translates; the unit's own state does not change. -/
def peekVa (s : State) (u : WalkUnit) (va n : Nat) : List (Nat × List Byte) :=
  (pageRuns va n).filterMap fun run =>
    match (reachRun s u run.1 false .any).1 with
    | .ok dpa => some (run.1, (fabricRead s dpa run.2).1)
    | .error _ => none

/-- The regions of storage under a virtual range of a unit. -/
def churnVa (s : State) (u : WalkUnit) (va n eng post : Nat) : List Churn :=
  (pageRuns va n).flatMap fun run =>
    match (reachRun s u run.1 true .any).1 with
    | .ok dpa => (pieces s dpa (zeros run.2)).map fun x => { lo := x.1, hi := x.1 + x.2.length, eng := eng, post := post }
    | .error _ => []

/-- A job begins: its output and scratch are undefined from now on, whatever is stored there (R181). What they share with its input the job keeps:
that is what it sorts. -/
def sortBegin (s : State) (p e : Nat) (j : EngJob) : State :=
  let u := engUnit .se e
  let areas := sortAreas (s.parcel p).image j
  let shared := areas.map fun a => inside a.1 a.2 (sjInAddr j) (sjInBytes j)
  let kept := shared.flatMap fun a => peekVa s u a.1 a.2
  let churn := areas.flatMap fun a => churnVa s u a.1 a.2 e j.post
  let s := sortForget s p e j
  { s with mem := { s.mem with churn := churn ++ s.mem.churn } }.updJob .se e j.post fun j => { j with kept := kept }

/-- A job no longer writes: it is published or discarded. -/
def sortQuiet (s : State) (e : Nat) (post : Nat → Bool) : State :=
  { s with mem := { s.mem with churn := s.mem.churn.filter fun r => !(r.eng == e && post r.post) } }

/-- The input of a job: what it reads, and where its own areas share the input, what stood there when it began. -/
def EngJob.input (j : EngJob) (read : List Byte) : List Byte :=
  j.kept.foldl (fun bs w => let o := w.1 - sjInAddr j; bs.take o ++ w.2 ++ bs.drop (o + w.2.length)) read

/-- The DPA under an offset of placed runs. -/
def runAt : List (Nat × Nat) → Nat → Nat
  | [], _ => 0
  | (a, n) :: l, o => if o < n then a + o else runAt l (o - n)

/-- The offset of the first byte of the scratch area that a merge pass reads as poison (R190): a line that the passes write in part keeps the
poison it had (R221). The lines at the ends of the two halves are such lines (DEDUCED, log entry 29). -/
def scratchPoison (s : State) (T : SortTable) (j : EngJob) (places : List (Nat × Nat)) : Option Nat :=
  let P := sortPlan T j
  let ends := if P.passes = 0 then [] else if P.passes = 1 then [P.truncated] else [P.truncated, 2 * P.truncated]
  ((ends.filter fun o => o % 64 != 0).map fun o => o / 64 * 64).find? fun o => ((canon s (runAt places o)).map s.mem.poisoned).getD false

/-- Begin the job whose start frame has come. -/
def sortStart (s : State) (p e A : Nat) : State :=
  let go := fun (j : EngJob) => j.admitted && decide (j.start ≤ A) && j.outcome.isNone
  let s := ((s.eng .se e).jobs.filter fun j => go j && !j.running).foldl (fun s j => sortBegin s p e j) s
  s.updEng .se e fun E => { E with jobs := E.jobs.map fun j => { j with running := go j } }

/-- Run a job to its end: input, scratch and output in that order. -/
def sortRun (s : State) (p e : Nat) (T : SortTable) (j : EngJob) : JobOutcome × State :=
  let P := sortPlan T j
  let u := engUnit .se e
  let failed := fun (x : UErr) (s : State) =>
    let (c, r) := uerrCode x 8 9 0x0A
    (({ code := c, reason := r, faultVa := x.va, outBytes := freeNat s 0 32, runs := freeNat s 1 32, passes := freeNat s 2 8 } : JobOutcome),
      sortForget { s with freeCtr := s.freeCtr + 3 } p e j)
  match unitRead s u (sjInAddr j) (sjInBytes j) false .any with
  | (.error x, s) => failed x s
  | (.ok read, s) =>
    let input := j.input read
    match unitPlaces s u (j.f 0x28 8) P.scratch .cellar with
    | (.error x, s) => failed x s
    | (.ok scratch, s) =>
      match unitPlaces s u (j.f 0x18 8) P.outBytes .cellar, scratchPoison s T j scratch with
      | (.error x, s), _ => failed x s
      | (.ok _, s), some o => failed (.poison (j.f 0x28 8 + o)) s
      | (.ok places, s), none =>
        let ks := keyedRecords (s.parcel p).image T j input
        let out := ((sortRecords (s.parcel p).image T j input).take (sjLimit j)).flatten
        ({ code := sSUCCESS, reason := 0, inUsed := sjInBytes j, outBytes := min (sjCount j) (sjLimit j), runs := P.runs, passes := P.passes
           writes := overPlaces scratch (scratchWrites T j ks) ++ layOut places out }, sortForget s p e j)

/-- SORT_JOB_END: the running job finishes, or stops on a failure. -/
def execSortJobEnd (e : EngId) (s : State) : Host.Outcome State Fault Refusal :=
  ok (live s fun s => moving s .se e fun s =>
    match (s.eng .se e).running, engParcel s .se e with
    | some j, some p =>
      match sortTable (s.parcel p).image j with
      | none => s
      | some T =>
        let (o, s) := sortRun s p e T j
        s.updJob .se e j.post fun j => { j with outcome := some o, running := false }
    | _, _ => s)

-- ## Publication (R180, R182)

/-- The completion record (bytes 0x40 to 0x7E). -/
def sortRecord (j : EngJob) (o : JobOutcome) : List Byte :=
  leBytes 4 o.outBytes ++ leBytes 4 o.runs ++ leBytes 1 o.passes ++ leBytes 1 o.code ++ leBytes 1 o.reason ++ zeros 5
    ++ leBytes 8 j.due ++ leBytes 8 o.faultVa ++ zeros 31

/-- Publish a job with its outcome. -/
def sortPublish (s : State) (p e : Nat) (j : EngJob) (o : JobOutcome) : State :=
  let s := putAll (sortQuiet s e (· == j.post)) o.writes
  let s := s.tsWrite j.tile (j.off + 0x40) (sortRecord j o ++ [if o.code = sSUCCESS then 1 else 2])
  poisonJob (countJob s .se e j o.code o.reason (sjInBytes j) 0 o.faultVa j.due false) p o.code

/-- What a boundary that opens parcel frame `A` does on a sort engine: publication, admission, and the start of a job. -/
def sortBoundary (s : State) (p e A : Nat) : State :=
  let due := (s.eng .se e).jobs.filter fun j => j.admitted && decide (j.due ≤ A)
  let s := due.foldl (fun s j =>
    match j.outcome with
    | some o => sortPublish s p e j o
    | none => lateJob s p .se e) s
  sortStart (sortAdmitAll s p e A) p e A

/-- The end of an EXECUTE discards held jobs, admitted or not, and the running one: their output and scratch are undefined (R183). -/
def sortDiscard (s : State) (p e : Nat) : State :=
  let s := (s.eng .se e).jobs.foldl (fun s j => sortForget s p e j) (sortQuiet s e fun _ => true)
  s.updEng .se e fun E => { E with jobs := [], lastDue := 0 }

end Sys2Proof.Machine
end

