-- ==== Sys2Proof/Machine/Scalar.lean ====
section
/-! DEFINITION. Scalar instructions of the tile (chapter 05, Table 4, R116, R117), and the engine doorbells that a tile-store store
rings. -/

namespace Sys2Proof.Machine

/-- Sign-extended immediate, as a 64-bit number. -/
def immS {w : Nat} (imm : BitVec w) : Word := imm.signExtend 64

-- ## Integer operations

/-- Quotient: all ones on a zero divisor; the most negative value by -1 yields itself (chapter 04, Exceptions). -/
def sQuot (signed : Bool) (a b : Word) : Word :=
  if b = 0 then BitVec.allOnes 64 else if signed then BitVec.ofInt 64 (a.toInt.tdiv b.toInt) else BitVec.ofNat 64 (a.toNat / b.toNat)
/-- Remainder: the dividend on a zero divisor. -/
def sRem (signed : Bool) (a b : Word) : Word :=
  if b = 0 then a else if signed then BitVec.ofInt 64 (a.toInt.tmod b.toInt) else BitVec.ofNat 64 (a.toNat % b.toNat)

/-- Leading zeros of a 64-bit number. -/
def clz64 (a : Word) : Nat := ((List.range 64).find? fun i => a.getLsbD (63 - i)).getD 64
/-- Trailing zeros. -/
def ctz64 (a : Word) : Nat := ((List.range 64).find? fun i => a.getLsbD i).getD 64

/-- The result of an operation of major 0x01. -/
def saluResult (op : SaluOp) (a b : Word) : Word :=
  match op with
  | .add => a + b
  | .sub => a - b
  | .and => a &&& b
  | .or => a ||| b
  | .xor => a ^^^ b
  | .sll => a <<< (b.toNat % 64)
  | .srl => a >>> (b.toNat % 64)
  | .sra => a.sshiftRight (b.toNat % 64)
  | .slt => if a.toInt < b.toInt then 1 else 0
  | .sltu => if a.toNat < b.toNat then 1 else 0
  | .mul => a * b
  | .mulh => BitVec.ofInt 64 (a.toInt * b.toInt / 2 ^ 64)
  | .mulhu => BitVec.ofNat 64 (a.toNat * b.toNat / 2 ^ 64)
  | .div => sQuot true a b
  | .divu => sQuot false a b
  | .rem => sRem true a b
  | .remu => sRem false a b
  | .min => if b.toInt < a.toInt then b else a
  | .max => if a.toInt < b.toInt then b else a
  | .minu => if b.toNat < a.toNat then b else a
  | .maxu => if a.toNat < b.toNat then b else a
  | .popc => BitVec.ofNat 64 (popcount 64 a.toNat)
  | .clz => BitVec.ofNat 64 (clz64 a)
  | .ctz => BitVec.ofNat 64 (ctz64 a)

/-- s[r]. -/
def sReg (s : State) (t : TileId) (r : Reg) : Word := (s.tile t).sGet r.toNat

/-- Write s[rd] and retire. -/
def setS (s : State) (t : TileId) (rd : Reg) (x : Word) : State := retire s t fun T => T.sPut rd.toNat x

/-- SALU. -/
def execSalu (t : TileId) (op : SaluOp) (rd rs1 rs2 : Reg) (s : State) : Host.Outcome State Fault Refusal :=
  issue s t fun s => setS s t rd (saluResult op (sReg s t rs1) (sReg s t rs2))

/-- The result of an immediate operation. -/
def immResult (op : ImmOp) (a : Word) (imm : BitVec 16) : Word :=
  match op with
  | .addi => a + immS imm
  | .andi => a &&& imm.zeroExtend 64
  | .ori => a ||| imm.zeroExtend 64
  | .xori => a ^^^ imm.zeroExtend 64
  | .slti => if a.toInt < (immS imm).toInt then 1 else 0
  | .sltiu => if a.toNat < (immS imm).toNat then 1 else 0

/-- ADDI, ANDI, ORI, XORI, SLTI and SLTIU. -/
def execAluImmediate (t : TileId) (op : ImmOp) (rd rs1 : Reg) (imm : BitVec 16) (s : State) : Host.Outcome State Fault Refusal :=
  issue s t fun s => setS s t rd (immResult op (sReg s t rs1) imm)

/-- LUI. -/
def execLui (t : TileId) (rd : Reg) (imm : BitVec 16) (s : State) : Host.Outcome State Fault Refusal :=
  issue s t fun s => setS s t rd (immS imm <<< 16)

/-- SHIFTI. -/
def execShifti (t : TileId) (kind : ShiftKind) (rd rs1 : Reg) (count : BitVec 6) (s : State) : Host.Outcome State Fault Refusal :=
  issue s t fun s =>
    let a := sReg s t rs1
    setS s t rd (match kind with | .sll => a <<< count.toNat | .srl => a >>> count.toNat | .sra => a.sshiftRight count.toNat)

/-- CRC32C.D (R121). -/
def execCrc32cD (t : TileId) (rd rs1 rs2 : Reg) (s : State) : Host.Outcome State Fault Refusal :=
  issue s t fun s => setS s t rd (BitVec.ofNat 64 (crc32c (sVal s t rs1 % 2 ^ 32) (leBytes 8 (sVal s t rs2))))

-- ## Loads and stores (R117)

/-- The address of a MEM form. -/
def memAddr (s : State) (t : TileId) (rs1 : Reg) (imm : BitVec 13) : Nat := (sReg s t rs1 + immS imm).toNat
/-- Bytes of an access. -/
def accBytes (z : Size) : Nat := 2 ^ z.toNat

/-- Complete a scalar load. -/
def finishLoad (s : State) (t : TileId) (uns : Bool) (z : Size) (rd : Reg) (r : Except Exc Nat) : State :=
  match r with
  | .ok x => setS s t rd (ext (!uns) (8 * accBytes z) x)
  | .error e => takeExc s t e none

/-- SLD. -/
def execSld (t : TileId) (uns : Bool) (size : Size) (rd rs1 : Reg) (imm : BitVec 13) (s : State) : Host.Outcome State Fault Refusal :=
  issue s t fun s =>
    let r := loadMem s.freeCtr s t (memAddr s t rs1 imm) (accBytes size)
    finishLoad r.2 t uns size rd r.1

/-- SST. -/
def execSst (t : TileId) (size : Size) (rd rs1 : Reg) (imm : BitVec 13) (s : State) : Host.Outcome State Fault Refusal :=
  issue s t fun s =>
    match storeMem s t (memAddr s t rs1 imm) (accBytes size) (sVal s t rd) false with
    | (some e, s) => takeExc s t e none
    | (none, s) => retire s t id

/-- SLDT. -/
def execSldt (t : TileId) (uns : Bool) (size : Size) (rd rs1 : Reg) (imm : BitVec 13) (s : State) : Host.Outcome State Fault Refusal :=
  issue s t fun s => finishLoad s t uns size rd (loadTs s t (memAddr s t rs1 imm) (accBytes size))

/-- The doorbells of the tile store: what a doubleword store to an offset posts (R140, R177, R277, R290, R311). -/
def doorbell (s : State) (t off v : Nat) : Option Post :=
  if off = 0xFFFF8 then some (decodePost s t v)
  else if off = 0xFFFF0 then some (sortPost s t v)
  else if off = 0xFFFE8 then some (moverPost s t v)
  else if off = 0xFFFE0 then some (cmpPost s t v)
  else if off = 0xFFFD8 then some (dgtPost s t v)
  else none

/-- A tile-store store of `n` bytes, with the post of a doorbell: an exception of either leaves nothing stored, and a full queue stalls
the instruction. -/
def ssttStore (s : State) (t off n v : Nat) : State :=
  match storeTs s t off n v with
  | (some e, _) => takeExc s t e none
  | (none, s1) =>
    match (if n = 8 then doorbell s t off v else none) with
    | none => retire s1 t id
    | some .stall => s
    | some (.exc e) => takeExc s t e none
    | some (.post f) => retire (f s1) t id

/-- SSTT. -/
def execSstt (t : TileId) (size : Size) (rd rs1 : Reg) (imm : BitVec 13) (s : State) : Host.Outcome State Fault Refusal :=
  issue s t fun s => ssttStore s t (memAddr s t rs1 imm) (accBytes size) (sVal s t rd)

/-- DECODE_DOORBELL: an SSTT of s[rd] to 0xF_FFF8. -/
def execDecodeDoorbell (t : TileId) (rd : Reg) (s : State) : Host.Outcome State Fault Refusal :=
  issue s t fun s => ssttStore s t 0xFFFF8 8 (sVal s t rd)
/-- SORT_DOORBELL. -/
def execSortDoorbell (t : TileId) (rd : Reg) (s : State) : Host.Outcome State Fault Refusal :=
  issue s t fun s => ssttStore s t 0xFFFF0 8 (sVal s t rd)
/-- MOVER_DOORBELL. -/
def execMoverDoorbell (t : TileId) (rd : Reg) (s : State) : Host.Outcome State Fault Refusal :=
  issue s t fun s => ssttStore s t 0xFFFE8 8 (sVal s t rd)
/-- COMPRESSION_DOORBELL. -/
def execCompressionDoorbell (t : TileId) (rd : Reg) (s : State) : Host.Outcome State Fault Refusal :=
  issue s t fun s => ssttStore s t 0xFFFE0 8 (sVal s t rd)
/-- DIGEST_DOORBELL. -/
def execDigestDoorbell (t : TileId) (rd : Reg) (s : State) : Host.Outcome State Fault Refusal :=
  issue s t fun s => ssttStore s t 0xFFFD8 8 (sVal s t rd)

-- ## Branches and jumps

/-- Whether a branch is taken. -/
def taken (c : BrCond) (a b : Word) : Bool :=
  match c with
  | .eq => a == b
  | .ne => a != b
  | .lt => decide (a.toInt < b.toInt)
  | .ge => decide (b.toInt ≤ a.toInt)
  | .ltu => decide (a.toNat < b.toNat)
  | .geu => decide (b.toNat ≤ a.toNat)

/-- Go on at a target. -/
def jumpTo (s : State) (t : Nat) (f : Tile → Tile) (pc : Word) : State := retire s t fun T => { f T with pc := pc - 4 }

/-- BEQ, BNE, BLT, BGE, BLTU and BGEU. -/
def execBranch (t : TileId) (cond : BrCond) (rs1 rs2 : Reg) (off : BitVec 16) (s : State) : Host.Outcome State Fault Refusal :=
  issue s t fun s =>
    if taken cond (sReg s t rs1) (sReg s t rs2) then jumpTo s t id ((s.tile t).pc + off.signExtend 64 * 4) else retire s t id

/-- JAL. -/
def execJal (t : TileId) (rd : Reg) (off : BitVec 21) (s : State) : Host.Outcome State Fault Refusal :=
  issue s t fun s =>
    let pc := (s.tile t).pc
    jumpTo s t (fun T => T.sPut rd.toNat (pc + 4)) (pc + off.signExtend 64 * 4)

/-- JALR. -/
def execJalr (t : TileId) (rd rs1 : Reg) (imm : BitVec 16) (s : State) : Host.Outcome State Fault Refusal :=
  issue s t fun s =>
    let pc := (s.tile t).pc
    let a := sReg s t rs1 + immS imm
    jumpTo s t (fun T => T.sPut rd.toNat (pc + 4)) (a &&& ~~~3)

-- ## Floating point (R97, R112, R116)

/-- SFP: result to an s or an f register. -/
def sfpTile (T : Tile) (op : SfpOp) (dbl : Bool) (rd rs1 rs2 : Reg) : Tile :=
  let w := if dbl then 64 else 32
  let a := T.fGet rs1.toNat % 2 ^ w
  let b := T.fGet rs2.toNat % 2 ^ w
  let c := T.fGet rd.toNat % 2 ^ w
  let x := (T.sGet rs1.toNat).toInt
  let toF := fun (r : Nat) => T.fPut rd.toNat (r % 2 ^ w)
  let toS := fun (r : Nat) => T.sPut rd.toNat (BitVec.ofNat 64 r)
  match op with
  | .fadd => toF (fAdd w a b)
  | .fsub => toF (fSub w a b)
  | .fmul => toF (fMul w a b)
  | .fdiv => toF (fDiv w a b)
  | .fsqrt => toF (fSqrt w a)
  | .fmin => toF (fMinMax false w a b)
  | .fmax => toF (fMinMax true w a b)
  | .feq => toS (b2n (fEq w a b))
  | .flt => toS (b2n (fLt w a b))
  | .fle => toS (b2n (fLe w a b))
  | .fcvtFX => toF (fOfInt w x)
  | .fcvtXF => T.sPut rd.toNat (BitVec.ofInt 64 (fToInt w 64 true a))
  | .fmvXF => toS a
  | .fmvFX => toF (T.sGet rs1.toNat).toNat
  | .fma => toF (fFma w c a b)

/-- SFP. -/
def execSfp (t : TileId) (op : SfpOp) (dbl : Bool) (rd rs1 rs2 : Reg) (s : State) : Host.Outcome State Fault Refusal :=
  issue s t fun s => retire s t fun T => sfpTile T op dbl rd rs1 rs2

/-- ILLEGAL_INSTRUCTION: a fetched word that R92 or R106 makes illegal. -/
def execIllegalInstruction (t : TileId) (s : State) : Host.Outcome State Fault Refusal :=
  issue s t fun s => takeIllegal s t

end Sys2Proof.Machine
end

