-- ==== Sys2Proof/Machine/Inbox.lean ====
section
/-! DEFINITION. The frame interface (chapter 04, R87 to R91; chapter 07, R160 to R163): launching a send, delivering records, the decant of
an inbox, and tile reset. -/

namespace Sys2Proof.Machine

-- ## Sends (R88, R160)

/-- The route that a tile names. -/
def routeOf (s : State) (t id : Nat) : Option Route :=
  (roleOf s t).bind fun r => r.parcel.image.routes.find? fun x => x.id == id && x.src == r.v

/-- A field of a fan batch header breaks R160. -/
def fanBad (h : List Byte) (len : Nat) : Bool :=
  let rb := fieldAt h 0 4
  let n := fieldAt h 4 4
  let ho := fieldAt h 8 2
  let fl := fieldAt h 10 1
  rb % 8 ≠ 0 || rb < 8 || 4096 < rb || 8190 < n || ho % 8 ≠ 0 || rb - 8 < ho || 1 < fl || !zeroAt h 11 5 || (n == 0 && fl == 0)
    || len ≠ 16 + n * rb

/-- Whether a tile's parcel is in its guard window. -/
def tileGuard (s : State) (t : Nat) : Bool := match tileParcel s t with | some p => guardNow s p | none => false

/-- Bytes of a send's source with their poison. The manual gives none past the end of the tile store: those are free values (R88). -/
def tsSource (s : State) (t off n : Nat) : List (Byte × Bool) :=
  (List.range n).map fun i =>
    if off + i < 0x100000 then (s.mem.byte (tsBase t + off + i), s.mem.poisoned (tsBase t + off + i))
    else (Config.lostByte (tsBase t + off + i), false)

/-- Parcel frames that a tile's EXECUTE has run. -/
def execFrame (s : State) (t : Nat) : Nat := (((roleOf s t).bind fun r => r.parcel.exec).map (·.frames)).getD 0

/-- A byte that a queued send transmits: where the tile has overwritten its source since, one of those that have stood there (Caution of R88).
Which one depends on the frame of the EXECUTE, the send and the place alone, so that running it again gives the same (R158). -/
def sendByte (s : State) (t : Nat) (x : Send) (now : Byte × Bool) (a : Nat) : Byte × Bool :=
  let was := (x.old.filter fun o => o.1 == a).map (·.2)
  if was.isEmpty then now
  else ((now :: was)[(Config.freeByte (65536 * execFrame s t + x.seq) (tsBase t + a)).toNat % (was.length + 1)]?).getD now

/-- Bytes that a queued send transmits. -/
def sendBytes (s : State) (t : Nat) (x : Send) (off n : Nat) : List (Byte × Bool) :=
  (tsSource s t off n).zipIdx.map fun e => sendByte s t x e.1 (off + e.2)

/-- The first poisoned byte of such a range. -/
def sourcePoison (s : State) (t off n : Nat) : Option Nat := s.tsPoison t off (min n (0x100000 - off))

/-- A write of OBX_LEN (R32, R88, R160). A fan send that meets exceptions 5 and 6 takes 5 for its length, then 6 for its header, then 5 for what
the header says: R160 gives them no order (DESIGN CHOICE, log entry 22). -/
def launchSend (s : State) (t len : Nat) : State :=
  let T := s.tile t
  let src := T.obxSrc.toNat
  match routeOf s t T.obxRoute.toNat with
  | none => takeIllegal s t
  | some r =>
    if len = 0 || 65536 < len || (r.fan && decide (len < 16)) then takeIllegal s t
    else
      match (if r.fan then sourcePoison s t src 16 else none) with
      | some a => takeExc s t (poisonExc a) none
      | none =>
        let h := if r.fan then (tsSource s t src 16).map (·.1) else []
        if r.fan && fanBad h len then takeIllegal s t
        else if 16 ≤ T.sendQ.length then s
        else
          let late := tileGuard s t
          retire s t fun T => { T with
            sendQ := T.sendQ ++ [{ route := r.id, src := src, len := len, seq := if late then 0 else T.sendSeq, hdr := h, late := late }]
            sendSeq := if late then T.sendSeq else T.sendSeq + 1
            guardStall := late }

-- ## Records (R89, R91, R161 to R163)


/-- Deliver one record into half B of a virtual tile. -/
def deliver (s : State) (p src sv : Nat) (x : Send) (dv : Nat) (payload : List (Byte × Bool)) : State :=
  let P := s.parcel p
  match P.ptile dv with
  | none => s
  | some d =>
    let D := s.tile d
    let n := 16 + roundUp payload.length 16
    if (inboxOf s d).2 < D.fillB + n || 1024 ≤ D.dirB.length then
      let s := s.updTile src fun T => { T with refused := true }
      let stage := ((P.image.stageOf dv).map (·.stage)).getD 0
      failExec s p { status := sCAPACITY, source := 2, reason := 0, index := dv, sub := stage, address := 0 }
    else
      let head := leBytes 2 x.route ++ leBytes 2 sv ++ leBytes 4 payload.length ++ leBytes 4 x.seq ++ zeros 4
      let body := head.map (fun b => (b, false)) ++ payload ++ (zeros (n - 16 - payload.length)).map fun b => (b, false)
      let s := putLines s (tsBase d + halfB s d + D.fillB) body
      s.updTile d fun D => { D with dirB := D.dirB ++ [{ off := D.fillB, srcVtile := sv, seq := x.seq }], fillB := D.fillB + n }

/-- Rows of a fan batch whose hash word holds no poison, with their destination index, and the DPA of the first that is dropped (R161, R163). -/
def fanRows (s : State) (t : Nat) (r : Route) (x : Send) : List (Nat × List (Byte × Bool)) × Option Nat :=
  let rb := fieldAt x.hdr 0 4
  let ho := fieldAt x.hdr 8 2
  (List.range (fieldAt x.hdr 4 4)).foldl (fun acc i =>
    let off := x.src + 16 + i * rb
    let row := sendBytes s t x off rb
    let word := (row.drop ho).take 8
    match indexOf? (·.2) word with
    | some i => (acc.1, match acc.2 with | some b => some b | none => some (tsBase t + off + ho + i))
    | none => (acc.1 ++ [(leNat (word.map (·.1)) / 2 ^ r.hashLo % 2 ^ r.hashBits, row)], acc.2)) ([], none)

/-- Deliver a fan send: at most one record to each destination, which several indices of the fan list may name (R161, R162). -/
def deliverFan (s : State) (p t sv : Nat) (r : Route) (x : Send) : State :=
  let (rows, bad) := fanRows s t r x
  let s := match bad with
    | some a => failExec s p { status := sPOISONED, source := 8, reason := 0, sub := 0, address := a }
    | none => s
  let dest := fun d => ((s.parcel p).image.fanList[r.dst + d]?).getD 0
  ((List.range (2 ^ r.hashBits)).map dest).eraseDups.foldl (fun s v =>
    let mine := rows.filter fun w => dest w.1 == v
    if mine.isEmpty && fieldAt x.hdr 10 1 = 0 then s
    else
      let head := x.hdr.take 4 ++ leBytes 4 mine.length ++ x.hdr.drop 8
      deliver s p t sv x v (head.map (fun b => (b, false)) ++ mine.flatMap (·.2))) s

/-- Deliver the oldest send of a tile, unless it belongs to the next frame. -/
def deliverSend (s : State) (t : Nat) : State :=
  match (s.tile t).sendQ with
  | [] => s
  | x :: rest =>
    if x.late then s
    else
      let s := s.updTile t fun T => { T with sendQ := rest }
      match roleOf s t, routeOf s t x.route with
      | some r, some rt =>
        if rt.fan then deliverFan s r.p t r.v rt x else deliver s r.p t r.v x rt.dst (sendBytes s t x x.src x.len)
      | _, _ => s

/-- RECORD_DELIVERY. -/
def execRecordDelivery (src : TileId) (s : State) : Host.Outcome State Fault Refusal := ok (live s fun s => deliverSend s src)

/-- Every send issued before the guard window is delivered before the boundary (R32). -/
def deliverAll (s : State) (t : Nat) : State := (List.range 16).foldl (fun s _ => deliverSend s t) s

/-- The halves of a tile's inbox exchange roles: the directory is sorted by source and sequence (R35, R90). The raw count is of all
bytes written into the half, by movers and by records (R87). Two records of one sender with the same seq, which a half can collect over a hold,
keep the order in which they arrived: R90 gives them none (DESIGN CHOICE, log entry 22). -/
def flipInbox (T : Tile) : Tile :=
  { T with bLower := !T.bLower, dirA := sortBy (·.srcVtile) (sortBy (·.seq) T.dirB), dirB := [], rawA := T.rawB + T.fillB, rawB := 0, fillB := 0 }

-- ## Tile reset (R104) and the registers of an EXECUTE (R93)

/-- The register files and the control registers that R93 sets. -/
def Tile.clearRegs (T : Tile) : Tile :=
  { T with sRegs := [], vRegs := [], pRegs := [], vl := 512, vtype := 0, vstart := 0, epc := 0, ecause := 0, inHandler := false, tfaultVa := 0
           dictIdx := none }

/-- What a reset leaves of a tile: what it retains, and the rest at its initial value. -/
def Tile.afterReset (T : Tile) : Tile :=
  { ctl := T.ctl, resetRefused := T.resetRefused, inReset := true, debugCtl := T.debugCtl, trim := T.trim, cache := T.cache.afterReset
    mmu := T.mmu }

/-- Reset a tile. -/
def resetTile (s : State) (t : Nat) : State := flushUnit (s.updTile t Tile.afterReset) (.tile (Fin.ofNat 256 t))

/-- A write of TIL_RESET.go: refused while the tile's parcel has an EXECUTE or LOAD_IMAGE outstanding (R104). -/
def tilReset (s : State) (t : Nat) : State := if tileBusy s t then s.updTile t fun T => { T with resetRefused := true } else resetTile s t

/-- TIL_RESET_GO. -/
def execTilResetGo (who : Who) (t : TileId) (s : State) : Host.Outcome State Fault Refusal :=
  ok (live s fun s => if isManager s who && tilePresent s t then tilReset s t else s)

/-- TILE_RESET_DONE. -/
def execTileResetDone (t : TileId) (s : State) : Host.Outcome State Fault Refusal :=
  ok (live s fun s => s.updTile t fun T => { T with inReset := false })

end Sys2Proof.Machine
end

