-- ==== Sys2Proof/Machine/StorageCmd.lean ====
section
/-! DEFINITION. Storage commands (chapter 18, R386 to R399; chapter 17, R359) and CASK_PREPARE_REMOVE (chapter 16, R346 to R348). -/

namespace Sys2Proof.Machine

/-- nsid of a command. -/
def Cmd.nsid (c : Cmd) : Nat := c.f 4 4
/-- A detail whose field lies in a structure that the command points to. -/
def bodyDetail (reason sub : Nat) : List Byte := detail reason 1 1 sub 0

-- ## The checks before anything moves (R359)

/-- Commands accepted before one, in acceptance order. -/
def earlier (s : State) (c : Cmd) : List Cmd := s.cmds.takeWhile fun d => d.seq != c.seq

/-- Whether a command is a detach of a namespace that has not ended (R398). -/
def detaching (n : Nat) (d : Cmd) : Bool := d.opcode == 0x42 && d.nsid == n && d.f 9 1 == 1 && d.phase == .running

/-- Whether a storage command finds its namespace attached: a detach does not concern commands accepted before it. -/
def nsAttached (s : State) (c : Cmd) (p n : Nat) : Bool :=
  match s.nspace n with
  | none => false
  | some N => N.attached == some p
      || s.cmds.any fun d => detaching n d && d.f 8 1 == p && (earlier s d).any fun e => e.seq == c.seq

/-- Namespaces that a command covers. -/
def Cmd.spaces (s : State) (c : Cmd) (p : Nat) : List Nat :=
  if c.nsid = 0xFFFFFFFF then (s.sto.nss.map (·.1)).filter fun n => nsAttached s c p n else [c.nsid]

/-- Whether the set of a namespace is in recovery. -/
def nsRecovering (s : State) (n : Nat) : Bool :=
  match (s.nspace n).bind fun N => s.pset N.set with
  | some P => P.recovering
  | none => false

/-- Bytes that a command's range begins at and holds. -/
def Cmd.range (s : State) (c : Cmd) : Nat × Nat :=
  let bs := ((s.nspace c.nsid).map (·.bs)).getD 0
  (c.f 8 8 * bs, c.f 0x10 4 * bs)

/-- The first two checks of R359: the status and detail of the first that fails. -/
def storageCheck (s : State) (c : Cmd) (p : Nat) : Option (Nat × List Byte) :=
  if c.opcode ≠ 4 && !nsAttached s c p c.nsid || (c.opcode = 4 && c.nsid ≠ 0xFFFFFFFF && !nsAttached s c p c.nsid) then
    some (sNS_NOT_READY, cmdDetail 0 4)
  else if (c.spaces s p).any (nsRecovering s) then some (sNS_NOT_READY, cmdDetail 0x28 4)
  else if c.opcode ≠ 4 && ((s.nspace c.nsid).map fun N => decide (N.bytes < (c.range s).1 + (c.range s).2)).getD true then
    some (sINVALID_FIELD, cmdDetail 4 8)
  else none

/-- The entries of a data list: address and bytes. -/
def listEntries (l : List Byte) : List (Nat × Nat) := (rowsAt 0 (l.length / 16) 16).map fun e => (fieldAt l e 8, fieldAt l (e + 8) 4)

/-- The buffers of a command: address, bytes, and where its field lies (index and offset). -/
def Cmd.buffers (c : Cmd) (l : List Byte) (n : Nat) : List (Nat × Nat × Nat × Nat) :=
  if c.f 0x14 4 = 0 then [(c.f 0x18 8, n, 0, 0x18)]
  else
    let es := listEntries l
    ((List.range es.length).zip es).foldl (fun (acc : List (Nat × Nat × Nat × Nat) × Nat) x =>
      (acc.1 ++ [(x.2.1, min x.2.2 acc.2, 1, 16 * x.1)], acc.2 - x.2.2)) ([], n) |>.1

/-- The checks of the data list (R358, R359). -/
def listCheck (c : Cmd) (l : List Byte) (n : Nat) : Option (Nat × List Byte) :=
  let rows := rowsAt 0 (l.length / 16) 16
  let bad := rows.findSome? fun e =>
    if !zeroAt l (e + 12) 4 then some (sINVALID_FIELD, bodyDetail 1 e)
    else if fieldAt l (e + 8) 4 = 0 || fieldAt l (e + 8) 4 % 4 ≠ 0 || (!c.space && decide (2 ^ 50 ≤ fieldAt l e 8)) then
      some (sINVALID_FIELD, bodyDetail 4 e)
    else none
  bad.or (if !rows.isEmpty && rows.foldl (fun a e => a + fieldAt l (e + 8) 4) 0 < n then some (sLENGTH_MISMATCH, cmdDetail 0 0x14) else none)

/-- Where the buffers of a command of a parcel address lie, run by run; the first failure with the field that holds its address. -/
def bufferPlaces (s : State) (p : Nat) (wr : Bool) (l : List (Nat × Nat × Nat × Nat)) : Except (CmdErr × Nat × Nat) (List (Nat × Nat)) :=
  l.foldl (fun acc b =>
    match acc with
    | .error e => .error e
    | .ok r =>
      match cmdPlaces s p b.1 b.2.1 wr false (!wr) with
      | .error e => .error (e, b.2.2.1, b.2.2.2)
      | .ok q => .ok (r ++ q)) (.ok [])

/-- The detail of a failure at a buffer. -/
def bufferDetail (e : CmdErr × Nat × Nat) : List Byte := detail 0 1 e.2.1 e.2.2 e.1.va

-- ## READ (R393)

/-- Deliver data into a command's buffers and complete it. What a buffer has in an inbox-B window at or past the half is discarded, as R85 has it,
and the command succeeds all the same: no rule gives that error completion another effect (DESIGN CHOICE, log entry 36). -/
def deliverData (s : State) (c : Cmd) (p : Nat) (bs : List Byte) : State :=
  let l := c.buffers (c.fetched.getD []) bs.length
  if c.space then
    match bufferPlaces s p true l with
    | .error e => endCmd s c e.1.status (bufferDetail e)
    | .ok q => endCmd (putAll s (layOut q bs)) c sSUCCESS (zeros 16)
  else
    endCmd ((layOut (l.map fun b => (b.1, b.2.1)) bs).foldl (fun s w => hostWrite s (winPort s c.win) w.1 w.2) s) c sSUCCESS (zeros 16)

/-- A READ whose cask reads have all ended delivers its units. -/
def finishRead (s : State) (c : Cmd) (p : Nat) : State :=
  match nsRead s c.nsid (c.range s).1 (c.range s).2 with
  | .error st => endCmd s c st (zeros 16)
  | .ok bs => deliverData s c p bs


-- ## WRITE, DEALLOCATE and FLUSH (R342, R386, R391, R392, R394)

/-- Whether a set refuses new content: a status. A READONLY cask counts first, in a BROKEN set too (R342, R394). -/
def setRefuses (s : State) (i : Nat) : Option Nat :=
  if ((s.pset i).map fun P => P.members.any fun m => !m.gone && (s.cask m.port).st == .readonly).getD false then some sWEAR_OUT_READONLY
  else if setCode s i = 4 then some sCASK_MISSING
  else none

/-- The new contents of the units of a byte range, from data that starts at its beginning. -/
def newUnits (s : State) (ns o : Nat) (bs : List Byte) : Except Nat (List (UnitId × UnitData)) :=
  (unitRuns o bs.length).foldl (fun acc r =>
    match acc with
    | .error e => .error e
    | .ok l =>
      let id : UnitId := { ns := ns, unit := r.1 }
      let part := slice bs (r.1 * unitBytes + r.2.1 - o) r.2.2
      if r.2.2 = unitBytes then .ok (l ++ [(id, unitPut [] 0 part)])
      else
        match unitNow s id with
        | .error _ => .error sMEDIA_ERROR
        | .ok d => .ok (l ++ [(id, unitPut d r.2.1 part)])) (.ok [])

/-- The new contents that a DEALLOCATE gives: none for a whole unit, which is unmapped, and zeros in the covered part of another, which is
written anew (R392). -/
def zeroedUnits (s : State) (ns o n : Nat) : Except Nat (List (UnitId × Option UnitData)) :=
  ((unitRuns o n).filter fun r => r.2.2 != unitBytes || unitMapped s { ns := ns, unit := r.1 }).foldl (fun acc r =>
    match acc with
    | .error e => .error e
    | .ok l =>
      let id : UnitId := { ns := ns, unit := r.1 }
      if r.2.2 = unitBytes then .ok (l ++ [(id, none)])
      else
        match unitNow s id with
        | .error _ => .error sMEDIA_ERROR
        | .ok d => .ok (l ++ [(id, some (d.filter fun x => decide (x.1 < r.2.1) || decide (r.2.1 + r.2.2 ≤ x.1)))])) (.ok [])

/-- Stage new contents and complete. -/
def stageAll (s : State) (c : Cmd) (l : List (UnitId × Option UnitData)) : State :=
  endCmd (l.foldl (fun s x => stageUnit s x.1 x.2) s) c sSUCCESS (zeros 16)

/-- The data of a WRITE: the host's, free where it is short, or the parcel's. -/
def writeData (s : State) (c : Cmd) (p n : Nat) : Except (CmdErr × Nat × Nat) (List Byte) × State :=
  if c.space then
    match bufferPlaces s p false (c.buffers (c.fetched.getD []) n) with
    | .error e => (.error e, s)
    | .ok q =>
      match readPlaces s q with
      | (bs, none, s) => (.ok bs, s)
      | (_, some (st, i), s) =>
        let l := c.buffers (c.fetched.getD []) n
        let hit := l.foldl (fun (acc : Nat × Option (Nat × Nat × Nat)) b =>
          match acc.2 with
          | some _ => acc
          | none => if i < acc.1 + b.2.1 then (acc.1, some (b.1 + (i - acc.1), b.2.2)) else (acc.1 + b.2.1, none)) (0, none)
        match hit.2 with
        | some (va, ix) => (.error ({ status := st, va := va }, ix), s)
        | none => (.error ({ status := st, va := 0 }, 0, 0x18), s)
  else
    let bs := (List.range n).map fun i => (c.data[i]?).getD (Config.hostByte s.freeCtr i)
    (.ok bs, { s with freeCtr := s.freeCtr + 1 })

/-- A WRITE or DEALLOCATE whose partly covered units are read changes its units and completes, or changes nothing. -/
def finishChange (s : State) (c : Cmd) : State :=
  match (s.nspace c.nsid).bind fun N => setRefuses s N.set with
  | some st => endCmd s c st (zeros 16)
  | none =>
    match (if c.opcode = 2 then (newUnits s c.nsid (c.range s).1 (c.payload.getD [])).map fun l => l.map fun x => (x.1, some x.2)
        else zeroedUnits s c.nsid (c.range s).1 (c.range s).2) with
    | .error st => endCmd s c st (zeros 16)
    | .ok l => stageAll s c l

/-- A storage command whose cask reads have all ended goes on. -/
def finishReads (s : State) (c : Cmd) (p : Nat) : State := if c.opcode = 1 then finishRead s c p else finishChange s c

/-- Issue the cask reads that units need on a command's behalf; with none needed, the command goes on. -/
def issueReads (s : State) (c : Cmd) (p : Nat) (runs : List (Nat × Nat × Nat)) : State :=
  let l := runs.flatMap fun r => readsFor s { ns := c.nsid, unit := r.1 } (.cmd c.seq)
  if l.isEmpty then finishReads s c p else s.addReads l

/-- READ begins: it reads every unit of its range. -/
def startRead (s : State) (c : Cmd) (p : Nat) : State := issueReads s c p (unitRuns (c.range s).1 (c.range s).2)

/-- The units that a range covers in part. -/
def partRuns (o n : Nat) : List (Nat × Nat × Nat) := (unitRuns o n).filter fun r => r.2.2 != unitBytes

/-- WRITE acts: its whole data list, then the current copies of the units that it covers in part (R386). -/
def startWrite (s : State) (c : Cmd) (p : Nat) : State :=
  match (s.nspace c.nsid).bind fun N => setRefuses s N.set with
  | some st => endCmd s c st (zeros 16)
  | none =>
    match writeData s c p (c.range s).2 with
    | (.error e, s) => endCmd s c e.1.status (bufferDetail e)
    | (.ok bs, s) =>
      let c := { c with payload := some bs }
      issueReads (s.updCmd c.seq fun _ => c) c p (partRuns (c.range s).1 (c.range s).2)

/-- DEALLOCATE acts: the current copies of the units that it covers in part are read first (R392). -/
def startDealloc (s : State) (c : Cmd) (p : Nat) : State :=
  match (s.nspace c.nsid).bind fun N => setRefuses s N.set with
  | some st => endCmd s c st (zeros 16)
  | none => issueReads s c p (partRuns (c.range s).1 (c.range s).2)

-- ## The end of a cask read (R343, R393)

/-- Replace the reads. -/
def State.setReads (s : State) (l : List CaskRead) : State := { s with sto := { s.sto with reads := l } }

/-- All cask reads of a reader have ended: a command goes on. A channel goes on with NS_READAHEAD_READY. -/
def readerEnded (s : State) (r : CaskReader) : State :=
  match r with
  | .cmd seq =>
    if s.sto.reads.any fun x => x.reader == r then s
    else
      match s.cmd seq with
      | some c => match c.parcel with | some p => if c.phase == .running then finishReads s c p else s | none => s
      | none => s
  | _ => s

/-- Where the chunk that a reader wants lies, while its unit's committed copy is still in the stripe read: a move wants its member's. -/
def CaskRead.at_ (s : State) (r : CaskRead) : Option UnitAt :=
  ((committedAt s r.id).filter fun x => x.set == r.set && x.k == r.stripe).map fun x =>
    match r.reader with
    | .move _ m => { x with m := m }
    | _ => x

/-- Whether racking, a migration or a rebuild reads: what it copies is written anew in any case. -/
def CaskReader.copies : CaskReader → Bool
  | .move _ _ => true
  | .rack _ => true
  | _ => false

/-- A unit whose chunk a media error lost, and which parity has supplied, is written anew into a new stripe (R393), where its set takes writes. -/
def repairUnit (s : State) (r : CaskRead) : State :=
  match r.at_ s with
  | none => s
  | some x =>
    if !r.reader.copies && x.S.lost.contains x.m && (chunkStatus x.P x.S x.m).isNone && (stagedOf x.P r.id).isNone && (setRefuses s x.set).isNone then
      stageUnit s r.id (some ((x.S.data[x.c]?).getD []))
    else s

/-- Whether parity covers the lost chunks of a stripe with some more counted as lost. -/
def parityCovers (s : State) (r : CaskRead) (more : List Nat) : Bool :=
  match (s.pset r.set).bind fun P => (Tab.find P.stripes r.stripe).map fun S => (P, S) with
  | none => false
  | some (P, S) => decide ((lostMembers P S ++ more).eraseDups.length ≤ P.p)

/-- After a read for a unit has ended: where only bypassed reads are left and parity covers them, they are discarded; with none left, the unit is
there. -/
def unitSettled (s : State) (r : CaskRead) : State :=
  let mine := fun (x : CaskRead) => x.reader == r.reader && x.id == r.id
  let l := s.sto.reads.filter mine
  if l.all (·.slow) && (l.isEmpty || parityCovers s r (l.map (·.member))) then
    let s := s.setReads (s.sto.reads.map fun x => if mine x then { x with reader := .nobody } else x)
    readerEnded (repairUnit s r) r.reader
  else s

/-- Read the other chunks of a unit's stripe for its reader, where they can supply it and are not being read. -/
def reconstruct (s : State) (r : CaskRead) : State :=
  match r.at_ s with
  | none => s
  | some x =>
    let busy := fun (y : CaskRead) => s.sto.reads.any fun z => z.reader == y.reader && z.id == y.id && z.member == y.member
    if parityCovers s r [x.m] then s.addReads ((otherReads s x r.id r.reader).filter fun y => !busy y) else s

/-- FLUSH begins: it closes the open stripes that hold units of its namespaces, and waits for those closed and not committed. -/
def startFlush (s : State) (c : Cmd) (p : Nat) : State :=
  let ns := c.spaces s p
  let s := foldNat (s.sto.sets.map (·.1)) (fun i s =>
    if ((s.pset i).map fun P => P.opened.any fun x => ns.contains x.id.ns).getD false then closeStripe s i else s) s
  let l := s.sto.sets.flatMap fun kP =>
    (kP.2.closing.filter fun x => x.content.any fun y => ns.contains y.id.ns).map fun x => (kP.1, x.k)
  if l.isEmpty then endCmd s c sSUCCESS (zeros 16)
  else { s with sto := { s.sto with flushes := s.sto.flushes ++ [{ cmd := c.seq, stripes := l }] } }

/-- A stripe has committed: flushes that waited only for it complete. -/
def flushCommitted (s : State) (i k : Nat) : State :=
  let l := s.sto.flushes.map fun f => { f with stripes := f.stripes.filter (· != (i, k)) }
  let s := { s with sto := { s.sto with flushes := l.filter fun f => !f.stripes.isEmpty } }
  (l.filter fun f => f.stripes.isEmpty).foldl (fun s f => endSeq s f.cmd sSUCCESS (zeros 16)) s

/-- A storage command begins: checks, then its data list, then its effect. -/
def actStorage (s : State) (c : Cmd) (p : Nat) : State :=
  match c.fetched with
  | none => s
  | some l =>
    match (if c.opcode = 1 || c.opcode = 2 then listCheck c l (c.range s).2 else none) with
    | some (st, d) => endCmd s c st d
    | none =>
      match c.opcode with
      | 1 => startRead s c p
      | 2 => startWrite s c p
      | 4 => startFlush s c p
      | _ => startDealloc s c p

/-- A storage command whose turn has come. -/
def startStorage (s : State) (c : Cmd) (p : Nat) : State :=
  let s := s.updCmd c.seq fun c => { c with phase := .running }
  match storageCheck s c p with
  | some (st, d) => endCmd s c st d
  | none =>
    let s := fetchNow s c
    match s.cmd c.seq with
    | some c => if c.phase == .running then actStorage s c p else s
    | none => s

-- ## CREATE_NS, DELETE_NS, ATTACH_NS and IDENTIFY (R396 to R399)

/-- Replace the namespaces. -/
def State.setNss (s : State) (l : Tab Namespace) : State := { s with sto := { s.sto with nss := l } }

/-- Form a set of the named ports (R376, R378). -/
def newSet (s : State) (i p : Nat) (ports : List Nat) (cap : Nat) : State :=
  let ms := ports.map fun n => ({ port := n, serial := recSerial (s.cask n).idrec, zoneCount := (s.cask n).zoneCount } : Member)
  let s := { s with sto := { s.sto with sets := Tab.set s.sto.sets i { members := ms, p := p, cap := cap, reserve := s.sto.reservePct.toNat } } }
  let s := noteSet (foldNat ports (fun n s => s.updCask n fun C => { C with st := .member, inSet := true, set := i }) s) i 0
  foldNat ports (fun n s => wearLimit s n) (writeRecords s i)

/-- The reserved or range-bound field of a CREATE_NS descriptor that is wrong (check 1). -/
def nsField (d : List Byte) : Option Nat :=
  if fieldAt d 0 8 = 0 then some 0
  else if 1 < fieldAt d 8 1 then some 8
  else if 1 < fieldAt d 9 1 then some 9
  else if 2 < fieldAt d 0xB 1 then some 0xB
  else if !zeroAt d 0xE 2 then some 0xE
  else if !zeroAt d 0x20 32 then some 0x20
  else none

/-- CREATE_NS, once its descriptor is read. -/
def createNs (s : State) (c : Cmd) (d : List Byte) : State :=
  let bad := fun st r sub => endCmd s c st (bodyDetail r sub)
  let new := fieldAt d 9 1 = 1
  let p := fieldAt d 0xB 1
  let ports := setBits 16 (fieldAt d 0xC 2)
  let bs := if fieldAt d 8 1 = 1 then 16384 else 4096
  let units := ceilDiv (fieldAt d 0 8 * bs) unitBytes
  match nsField d with
  | some f => bad sINVALID_FIELD 4 f
  | none =>
    if new && ports.any (fun n => !caskPresent s n) then bad sINVALID_FIELD 4 0xC
    else if 1024 ≤ s.sto.nss.length then bad sCAPACITY 0x20 0
    else if !new && (setCode s (fieldAt d 0xA 1) = 0 || setCode s (fieldAt d 0xA 1) = 4) then bad sINVALID_FIELD 0x23 0xA
    else if new && 16 ≤ s.sto.sets.length then bad sCAPACITY 0x21 0
    else if new && (ports.length < 4 || ports.length < p + 2) then bad sINVALID_FIELD 0x24 0xC
    else if new && ports.any (fun n => (s.cask n).st != .spare || isTarget s n) then bad sINVALID_FIELD 0x25 0xC
    else
      let z := ports.foldl (fun z n => min z (s.cask n).zoneCount) (2 ^ 32)
      let i := if new then (findBelow 16 fun i => (s.pset i).isNone).getD 0 else fieldAt d 0xA 1
      let cap := if new then setCapacity ports.length p z s.sto.reservePct.toNat else ((s.pset i).map (·.cap)).getD 0
      if cap < (if new then 0 else setUsed s i) + units then bad sCAPACITY 0x22 0
      else
        let s := if new then newSet s i p ports cap else s
        let n := (findBelow 1024 fun n => (s.nspace n).isNone).getD 0
        endCmd (s.setNss (Tab.set s.sto.nss n { nblocks := fieldAt d 0 8, bs := bs, set := i, guid := slice d 0x10 16 })) c sSUCCESS
          (leBytes 4 n ++ zeros 12)

/-- The member of a dissolved set becomes SPARE (R378); one that is being emptied has nothing left to move and becomes REMOVABLE, and the command
that asked for it ends (R348, log 35). -/
def freeMember (s : State) (n : Nat) : State :=
  let C := s.cask n
  if C.st == .preparing then
    let s := (enterRemovable s n).updCask n fun C => { C with setRec := none }
    match C.prepare with
    | some q => endSeq s q sSUCCESS (zeros 16)
    | none => s
  else s.updCask n fun C => { C with st := .spare, inSet := false, set := 0, setRec := none }

/-- A set without namespaces whose data zones are reset is dissolved (R378). -/
def tryDissolve (s : State) (i : Nat) : State :=
  match s.pset i with
  | none => s
  | some P =>
    let empty := P.members.all fun m => m.gone || (s.cask m.port).zones.all fun z => z.2.written == 0
    if setUsed s i ≠ 0 || (s.sto.nss.any fun n => n.2.set == i) || !P.opened.isEmpty || !P.closing.isEmpty || !P.moves.isEmpty || !empty then s
    else
      let old := setCode s i
      let s := disown { s with sto := { s.sto with sets := Tab.erase s.sto.sets i } } (.rack i)
      tryRebuilds (noteSet (P.members.foldl (fun s m => if m.gone then s else freeMember s m.port) s) i old)

/-- Reset every data zone of a set that holds no namespace. -/
def emptyZones (s : State) (i : Nat) : State :=
  match s.pset i with
  | none => s
  | some P =>
    if (s.sto.nss.any fun n => n.2.set == i) || !P.closing.isEmpty || !P.moves.isEmpty then s
    else
      let s := P.members.foldl (fun s m => if m.gone then s else s.updCask m.port fun C => { C with zones := C.zones.map fun z => (z.1, z.2.emptied) }) s
      tryDissolve (s.updPset i fun P => { P with stripes := [] }) i

/-- DELETE_NS. -/
def deleteNs (s : State) (c : Cmd) : State :=
  match s.nspace c.nsid with
  | none => endCmd s c sNS_NOT_READY (cmdDetail 0 4)
  | some N =>
    if N.attached.isSome || s.cmds.any (detaching c.nsid) then endCmd s c sINVALID_FIELD (cmdDetail 0x26 4)
    else
      let s := s.setNss (Tab.erase s.sto.nss c.nsid)
      let keep := fun (l : List Staged) => l.filter fun x => x.id.ns != c.nsid
      let s := s.updPset N.set fun P => { P with
        opened := keep P.opened, closing := P.closing.map fun x => { x with content := keep x.content } }
      tryDissolve (endCmd s c sSUCCESS (zeros 16)) N.set

/-- ATTACH_NS. A detach completes behind the commands accepted before it. -/
def attachNs (s : State) (c : Cmd) : State :=
  let p := c.f 8 1
  match s.nspace c.nsid with
  | none => endCmd s c sNS_NOT_READY (cmdDetail 0 4)
  | some N =>
    if c.f 9 1 = 0 then
      if !(s.parcel p).holds then endCmd s c sINVALID_FIELD (cmdDetail 4 8)
      else if N.attached.isSome && N.attached ≠ some p then endCmd s c sINVALID_FIELD (cmdDetail 0x27 8)
      else endCmd (s.updNs c.nsid fun N => { N with attached := some p }) c sSUCCESS (zeros 16)
    else if N.attached ≠ some p then endCmd s c sINVALID_FIELD (cmdDetail 4 8)
    else (s.updNs c.nsid fun N => { N with attached := none }).updCmd c.seq fun c => { c with phase := .running }

/-- Whether a command's outcome is being decided at this instant, and its pennant will be written at the end of it: nothing is in its way. -/
def endsNow (s : State) (d : Cmd) : Bool :=
  let W := s.win d.win
  s.deciding && d.phase == .decided && W.en
    && decide ((W.tail.toNat + 2 ^ W.sizeLog2.toNat - W.head.toNat) % 2 ^ W.sizeLog2.toNat + W.waitQ.length ≤ 2 ^ W.sizeLog2.toNat - 1)
    && !s.ports.orderReads.any fun o => W.waitQ.any fun q => q.cmd == some o.cmd

/-- Whether a detach still waits: for a storage command or an EXECUTE accepted before it, or for a started channel that reads the namespace. One
that ends at the instant now being decided has its pennant in front of the detach's (R372). -/
def detachWaits (s : State) (c : Cmd) : Bool :=
  let p := c.f 8 1
  ((earlier s c).any fun d =>
    !endsNow s d && d.parcel == some p && (d.opcode == 0x12 || (opGroup d.opcode == some .storage && (d.nsid == c.nsid || d.nsid == 0xFFFFFFFF)))) ||
  (setBits 64 (s.parcel p).groups.toNat).any fun g =>
    (s.group g).chans.any fun kc => kc.2.busy && fbit kc.2.xctl 36 && kc.2.xns == c.nsid

/-- The detaches that can end do. -/
def endDetaches (s : State) : State :=
  (s.cmds.filter fun c => detaching c.nsid c && !detachWaits s c).foldl (fun s c => endCmd s c sSUCCESS (zeros 16)) s

/-- Exit latencies of PS0 to PS4, ns (Table 6). -/
def psLatency : List Nat := [0, 1500, 12000, 180000, 4000000]

/-- The entry of a set in the device structure (Table 4). -/
def setEntry (s : State) (i : Nat) : List Byte :=
  match s.pset i with
  | none => zeros 32
  | some P =>
    leBytes 1 P.code ++ leBytes 1 P.p ++ leBytes 2 (maskOf ((P.members.filter fun m => !m.gone).map (·.port))) ++ leBytes 1 P.gone ++ zeros 3
      ++ leBytes 8 P.cap ++ leBytes 8 (P.cap - setUsed s i) ++ leBytes 2 (s.sto.nss.filter fun n => n.2.set == i).length ++ zeros 6

/-- The device IDENTIFY structure. -/
def identifyDevice (s : State) : List Byte :=
  [0x58, 0x56, 0x49, 0x44] ++ leBytes 2 1 ++ leBytes 2 s.glb.part.device ++ leBytes 8 s.glb.serial.toNat ++ leBytes 8 s.glb.fwVer.toNat
    ++ leBytes 4 unitBytes ++ leBytes 4 unitBytes ++ leBytes 4 unitBytes ++ leBytes 2 1024 ++ leBytes 2 s.sto.nss.length
    ++ psLatency.flatMap (leBytes 4) ++ zeros 4 ++ (List.range 16).flatMap (setEntry s) ++ zeros 3520

/-- The namespace IDENTIFY structure (Table 5). -/
def identifyNs (s : State) (n : Nat) (N : Namespace) : List Byte :=
  let st := if nsRecovering s n then 1 else if setCode s N.set = 4 then 2 else 0
  let mapped := ((List.range N.units).filter fun u => unitMapped s { ns := n, unit := u }).length
  [0x58, 0x56, 0x4E, 0x53] ++ leBytes 2 1 ++ zeros 2 ++ leBytes 8 N.nblocks ++ leBytes 4 N.bs ++ leBytes 1 N.set
    ++ leBytes 1 (N.attached.getD 0xFF) ++ leBytes 1 st ++ zeros 1 ++ leBytes 4 unitBytes ++ zeros 4 ++ (N.guid ++ zeros 16).take 16
    ++ leBytes 8 mapped ++ zeros 4040

/-- IDENTIFY. -/
def identify (s : State) (c : Cmd) : State :=
  let bs := if c.nsid = 0xFFFFFFFF then some (identifyDevice s) else (s.nspace c.nsid).map (identifyNs s c.nsid)
  match bs with
  | none => endCmd s c sNS_NOT_READY (cmdDetail 0 4)
  | some bs => endCmd (hostWrite s (winPort s c.win) (c.f 8 8) bs) c sSUCCESS (zeros 16)

-- ## CASK_PREPARE_REMOVE (R346 to R348)

/-- The detail of a refused or failed prepare. -/
def caskDetail (reason port : Nat) : List Byte := detail reason 11 port 0 0

/-- A member leaves its set without a target, and its cask enters REMOVABLE. -/
def leaveSet (s : State) (n : Nat) : State := loseMember (enterRemovable s n) n

/-- CASK_PREPARE_REMOVE acts. -/
def prepareRemove (s : State) (c : Cmd) : State :=
  let n := c.f 4 1
  let C := s.cask n
  let no := fun r => endCmd s c sCAPACITY (caskDetail r n)
  if C.st == .preparing || C.st == .removable then no 4
  else if C.st == .spare || C.st == .quarantine || C.st == .failed then
    let t := C.st == .spare && isTarget s n
    let s := enterRemovable s n
    endCmd (if t then loseTarget s n else s) c sSUCCESS (zeros 16)
  else if C.st == .member || C.st == .readonly then
    match memberOf s n with
    | none => no 1
    | some (i, m) =>
      match chooseTarget s C.zoneCount with
      | some t =>
        (startMigration (s.updCask n fun C => { C with prepare := some c.seq }) i m n t).updCmd c.seq fun c => { c with phase := .running }
      | none =>
        if c.f 5 1 = 0 then no 1
        else if ((s.pset i).map fun P => decide (P.p < P.gone + 1)).getD true then no 2
        else endCmd (leaveSet s n) c sSUCCESS (zeros 16)
  else no (if c.f 5 1 = 0 then 1 else 2)

/-- A cask fails: its pending reads are decided again by parity, and a prepare that waits for it ends (R344, R348). -/
def failCask (s : State) (n : Nat) : State :=
  let prep := (s.cask n).prepare
  let s := caskFail s n
  let s := match prep with | some q => endSeq s q sCASK_MISSING (caskDetail 3 n) | none => s
  let hit := s.sto.reads.filter fun r => r.port == n
  let s := s.setReads (s.sto.reads.filter fun r => r.port != n)
  (hit.filter fun r => r.reader != .nobody).foldl (fun s r => unitSettled (if r.direct then reconstruct s r else s) r) s

end Sys2Proof.Machine
end

