-- ==== Sys2Proof/Machine/ParcelOps.lean ====
section
/-! DEFINITION. Parcels (chapter 19): the estate, creation, reset and destruction. -/

namespace Sys2Proof.Machine

-- ## The estate (R382, R407)

/-- First slice and number of slices of the service region (Table 11 of chapter 18). -/
def Part.service : Part → Nat × Nat
  | .xv256 => (56, 8)
  | .xv192 => (50, 6)
  | .xv128 => (44, 4)

/-- The union of a mask over the parcels that hold units. -/
def heldMask (s : State) (f : Parcel → Nat) : Nat := s.parcels.foldl (fun m kP => if kP.2.holds then m ||| f kP.2 else m) 0
/-- The sum of a count over the parcels that hold units. -/
def heldSum (s : State) (f : Parcel → Nat) : Nat := s.parcels.foldl (fun n kP => if kP.2.holds then n + f kP.2 else n) 0

/-- Free quads. -/
def estateQ (s : State) : Nat := maskOf ((List.range 64).filter fun q => quadPresent s q && !bitOf (heldMask s fun P => P.quads.toNat) q)
/-- Free slices: neither in the service region nor of a stack that failed training. -/
def estateS (s : State) : Nat :=
  let v := s.glb.part.service
  maskOf ((List.range 64).filter fun n =>
    slicePresent s n && !(decide (v.1 ≤ n) && decide (n < v.1 + v.2)) && !(s.stack (n / 8)).failed
      && !bitOf (heldMask s fun P => P.slices.toNat) n)
/-- Free mover groups. -/
def estateG (s : State) : Nat := maskOf ((List.range 64).filter fun g => !bitOf (heldMask s fun P => P.groups.toNat) g)
/-- Free engines of a kind. -/
def estateE (s : State) (k : EngKind) : Nat :=
  maskOf ((List.range 16).filter fun n => engPresent s k n && !bitOf (heldMask s fun P => P.engMask k) n)
/-- Free slots of bank `b`. -/
def estateB (s : State) (b : Nat) : Nat := 256 - heldSum s fun P => (P.bslots[b]?).getD 0
/-- Free dispatch slots of dispatcher `d`. -/
def estateD (s : State) (d : Nat) : Nat := 64 - heldSum s fun P => if d = 0 then P.dslots0 else P.dslots1
/-- Whether a mailbox pair is in the estate. -/
def estatePair (s : State) (m : Nat) : Bool := !s.mbx.fwPairs.getLsbD m && (pairParcel s m).isNone

-- ## PARCEL_CREATE (R408)

/-- The masks that a descriptor names: offset, bytes, and the units of each that are present and that are free. -/
def descMasks (s : State) : List (Nat × Nat × Nat × Nat) :=
  [(8, 8, s.glb.part.cap0, estateQ s), (0x10, 8, s.glb.part.cap0, estateS s), (0x18, 8, 2 ^ 64 - 1, estateG s),
   (0x20, 2, bits s.glb.part.cap2 0 16, estateE s .ce), (0x22, 2, bits s.glb.part.cap2 16 16, estateE s .de),
   (0x24, 2, bits s.glb.part.cap2 32 16, estateE s .se)]

/-- The first of a list of conditions, by offset. -/
def firstBad (l : List (Nat × Bool)) : Option Nat := (l.find? (·.2)).map (·.1)

/-- The field of a descriptor that breaks check 1. -/
def createField (s : State) (d : List Byte) : Option Nat :=
  let f := fieldAt d
  firstBad ([(0, decide (63 < f 0 1) && f 0 1 != 0xFF), (1, decide (1 < f 1 1)), (2, f 2 1 == 0 || decide (64 < f 2 1)), (3, decide (64 < f 3 1)),
    (4, decide (63 < f 4 1)), (5, f 5 1 != 0), (6, f 6 2 == 0), (8, f 8 8 == 0), (0x10, f 0x10 8 == 0)]
    ++ (descMasks s).map (fun m => (m.1, f m.1 m.2.1 ||| m.2.2.1 != m.2.2.1))
    ++ [(0x26, f 0x26 2 != 0)] ++ (List.range 4).map (fun b => (0x28 + 2 * b, decide (256 < f (0x28 + 2 * b) 2)))
    ++ [(0x30, decide (64 < f 0x30 1)), (0x31, decide (64 < f 0x31 1)), (0x32, f 0x32 2 != 0),
      (0x34, f 3 1 != 0 && (f 0x34 2 == 0 || decide (256 < f 0x34 2))), (0x36, f 0x36 2 != 0), (0x3C, decide (2 ^ 24 < f 0x3C 4)),
      (0x40, decide (f 0x40 4 < 16) || decide (2 ^ 20 < f 0x40 4)), (0x44, f 0x44 4 != 0), (0x48, f 1 1 == 0 && !zeroAt d 0x48 48),
      (0x78, !zeroAt d 0x78 8)])

/-- The slot field that breaks check 2. -/
def createSlots (d : List Byte) : Option Nat :=
  let f := fieldAt d
  firstBad ((List.range 4).map (fun b =>
      (0x28 + 2 * b, f (0x28 + 2 * b) 2 != 0 && bits (f 0x20 2) (4 * b) 4 == 0 && bits (f 0x22 2) (4 * b) 4 == 0 && bits (f 0x24 2) (4 * b) 4 == 0))
    ++ [(0x30, f 0x30 1 != 0 && bits (f 8 8) 0 32 == 0), (0x31, f 0x31 1 != 0 && bits (f 8 8) 32 32 == 0)])

/-- The field that names something outside the estate (check 5). -/
def createTaken (s : State) (d : List Byte) : Option Nat :=
  let f := fieldAt d
  firstBad ([(4, !estatePair s (f 4 1))] ++ (descMasks s).map (fun m => (m.1, f m.1 m.2.1 ||| m.2.2.2 != m.2.2.2))
    ++ (List.range 4).map (fun b => (0x28 + 2 * b, decide (estateB s b < f (0x28 + 2 * b) 2)))
    ++ [(0x30, decide (estateD s 0 < f 0x30 1)), (0x31, decide (estateD s 1 < f 0x31 1))])

/-- Whether VF Enable is set on a port. -/
def vfEnabled (s : State) (port : Nat) : Bool := if port = 0 then s.ports.hpa.vfEnable else s.ports.hpb.vfEnable

/-- Rs of a descriptor, in bytes (R410). -/
def createRs (d : List Byte) : Nat :=
  let b := 32 * (fieldAt d 0x38 4 + fieldAt d 0x3C 4)
  let k := popcount 64 (fieldAt d 0x10 8)
  roundUp (max b (ceilDiv (b + 4096 * fieldAt d 0x40 4) k)) 0x200000

/-- Whether older accesses of a parcel ID have all ended (R411, R414). -/
def quiet (s : State) (p : Nat) : Bool := (inflightOld s p).isEmpty

/-- The units of both sets. -/
def UnitSet.union (a b : UnitSet) : UnitSet := {
  quads := a.quads ||| b.quads, slices := a.slices ||| b.slices, groups := a.groups ||| b.groups
  ce := a.ce ||| b.ce, de := a.de ||| b.de, se := a.se ||| b.se }

/-- The units of the first set that the second does not name. -/
def UnitSet.without (a b : UnitSet) : UnitSet := {
  quads := a.quads &&& ~~~b.quads, slices := a.slices &&& ~~~b.slices, groups := a.groups &&& ~~~b.groups
  ce := a.ce &&& ~~~b.ce, de := a.de &&& ~~~b.de, se := a.se &&& ~~~b.se }

/-- Whether two sets share a unit. -/
def UnitSet.meets (a b : UnitSet) : Bool :=
  (a.quads &&& b.quads) != 0 || (a.slices &&& b.slices) != 0 || (a.groups &&& b.groups) != 0 || (a.ce &&& b.ce) != 0 || (a.de &&& b.de) != 0
    || (a.se &&& b.se) != 0

/-- The units that a parcel holds. -/
def Parcel.units (P : Parcel) : UnitSet := { quads := P.quads, slices := P.slices, groups := P.groups, ce := P.ce, de := P.de, se := P.se }

/-- The units that a descriptor of PARCEL_CREATE names (Table 1). -/
def namedUnits (d : List Byte) : UnitSet :=
  let f := fieldAt d
  { quads := BitVec.ofNat 64 (f 8 8), slices := BitVec.ofNat 64 (f 0x10 8), groups := BitVec.ofNat 64 (f 0x18 8)
    ce := BitVec.ofNat 16 (f 0x20 2), de := BitVec.ofNat 16 (f 0x22 2), se := BitVec.ofNat 16 (f 0x24 2) }

/-- Whether some unit named was held last by an ID whose older accesses have not ended (R411). -/
def drainingUnit (s : State) (d : List Byte) : Bool := s.parcels.any fun kP => !quiet s kP.1 && (namedUnits d).meets kP.2.past

/-- The parcel ID that a descriptor takes, if R411 admits one. -/
def createId (s : State) (d : List Byte) : Option Nat :=
  if fieldAt d 0 1 = 0xFF then findBelow 64 fun p => !(s.parcel p).holds && quiet s p
  else if quiet s (fieldAt d 0 1) then some (fieldAt d 0 1) else none

/-- The check of Table 2 that fails, as status, reason and field. -/
def createCheck (s : State) (d : List Byte) : Option (Nat × Nat × Nat) :=
  let f := fieldAt d
  match createField s d with
  | some o => some (sINVALID_FIELD, 4, o)
  | none =>
    match createSlots d with
    | some o => some (sINVALID_FIELD, 4, o)
    | none =>
      if !meshConnected (setBits 64 (f 8 8)) then some (sINVALID_FIELD, 0x30, 8)
      else if (if f 0 1 = 0xFF then (List.range 64).all fun p => (s.parcel p).holds else (s.parcel (f 0 1)).holds) then some (sCAPACITY, 0x31, 0)
      else
        match createTaken s d with
        | some o => some (sCAPACITY, 0x32, o)
        | none =>
          if f 3 1 ≠ 0 && ((vfParcel s (f 3 1)).isSome || !vfEnabled s (vfPort s (f 3 1))) then some (sINVALID_FIELD, 0x33, 3)
          else if 0x100000000 < createRs d then some (sCAPACITY, 0x34, 0x38)
          else if (createId s d).isNone || drainingUnit s d then some (sCAPACITY, 0x35, 0)
          else none

/-- The parcel that a descriptor describes, in BUILDING. -/
def createParcel (P : Parcel) (d : List Byte) : Parcel :=
  let f := fieldAt d
  let U := namedUnits d
  { st := .building, signedOnly := f 1 1 == 1, vf := f 3 1, vintage := P.vintage, mbxPair := f 4 1, vectors := if f 3 1 = 0 then 0 else f 0x34 2
    past := P.past.without U, quads := U.quads, slices := U.slices, groups := U.groups, ce := U.ce, de := U.de, se := U.se
    bslots := (rowsAt 0x28 4 2).map fun o => f o 2
    dslots0 := f 0x30 1, dslots1 := f 0x31 1, itemCap := f 0x38 4, flowCap := f 0x3C 4, tablePages := f 0x40 4, rs := createRs d
    keyHash := slice d 0x48 48, div := BitVec.ofNat 7 (f 2 1), divNow := BitVec.ofNat 7 (f 2 1), park := BitVec.ofNat 16 (f 6 2)
    parkNow := BitVec.ofNat 16 (f 6 2), idle1 := P.idle1, idle2 := P.idle2, idle3 := P.idle3, staleCnt := P.staleCnt, invals := P.invals }

/-- An ID's record of the units it held last no longer names units that a new parcel takes. -/
def Parcel.forgetUnits (P Q : Parcel) : Parcel := { P with past := P.past.without Q.units }

/-- Free slots of a dispatcher's rotation for a new parcel (R208): which of them the firmware takes is free. -/
def freeSlots (s : State) (die n : Nat) : List Nat :=
  let held := s.parcels.flatMap fun kP => if kP.2.holds then (if die = 0 then kP.2.slots0 else kP.2.slots1) else []
  (sortBy (fun i => (Config.freeByte s.freeCtr (64 * die + i)).toNat) ((List.range 64).filter fun i => !held.contains i)).take n

/-- PARCEL_CREATE, once its descriptor is read. Its quads are powered up, with nothing defined in their tile stores (R476). -/
def createStart (s : State) (c : Cmd) (d : List Byte) : State :=
  match createCheck s d, createId s d with
  | some (st, r, o), _ => endCmd s c st (bodyDetail r o)
  | none, none => s
  | none, some p =>
    let Q := createParcel (s.parcel p) d
    let Q := { Q with dspBase := ((Q.smap[0]?).map fun n => (n + 1) * sliceBytes - Q.dspBytes).getD 0 }
    let Q := { Q with slots0 := freeSlots s 0 Q.dslots0, slots1 := freeSlots s 1 Q.dslots1 }
    let s := { s with freeCtr := s.freeCtr + 1, parcels := Tab.set (s.parcels.map fun (kP : Nat × Parcel) => (kP.1, kP.2.forgetUnits Q)) p Q }
    let s := Q.tiles.foldl (fun s t => s.forget (tsBase t) (tsBase t + 0x100000)) s
    s.updCmd c.seq fun c => { c with phase := .running, fetched := some (leBytes 1 p) }

/-- The command of an opcode that runs for a parcel. -/
def runningFor (s : State) (op p : Nat) : Option Cmd :=
  s.cmds.find? fun c => c.opcode == op && c.phase == .running
    && (if op = 0x4A then c.fetched == some (leBytes 1 p) else c.f 4 1 == p)

/-- A tile of a parcel as PARCEL_CREATE prepares it: its cache is empty and on unless it has failed, and its root table is set (R232, R409). -/
def Tile.built (T : Tile) (root : Nat) : Tile :=
  { T.afterReset with
    inReset := false, cache := { T.cache.afterReset with en := !T.cache.failed, clean := true }
    mmu := { T.mmu with root := root, rootValid := true, tlb := {}, wc := [], wcPtr := 0 } }

/-- PARCEL_BUILD_DONE (R409). -/
def buildDone (s : State) (p : Nat) : State :=
  let P := s.parcel p
  if P.st != .building then s
  else
    let root := (P.tablePage 0).getD 0
    let s := P.smap.foldl (fun s n => { s with mem := s.mem.clear (n * sliceBytes) ((n + 1) * sliceBytes) }) s
    let s := P.tiles.foldl (fun s t =>
      { s with mem := s.mem.clear (tsBase t) (tsBase t + 0x100000) }.updTile t fun T => T.built root) s
    let s := s.updParcel p fun P => { P with st := .active, root := root, tablesUsed := 1, image := {} }
    match runningFor s 0x4A p with
    | some c => endCmd s c sSUCCESS (leBytes 1 p ++ zeros 1 ++ leBytes 2 P.vintage ++ zeros 12)
    | none => s

-- ## Reset (R413 to R415, R430, R435)

/-- The runs that a burst in flight can still write, and whether it writes to a host. -/
def burstTargets (s : State) (g : Nat) (C : Chan) (b : Burst) : List (Nat × Nat) × Bool :=
  (sideRuns C.xdst (fbit C.xctl 6) (fld C.xctl 7 5) (b.len + 1) b.off b.len).foldl (fun acc r =>
    match (translate s (.group (Fin.ofNat 64 g)) r.1 .store).1 with
    | .ok x => match place x.dpa with
      | .host _ _ => (acc.1, true)
      | _ => (acc.1 ++ [(x.dpa, r.2)], acc.2)
    | .error _ => acc) ([], false)

/-- Abort a channel at a parcel reset: a burst in flight stays behind under its old vintage. -/
def orphanChan (s : State) (p vintage g c : Nat) : State :=
  let C := s.chan g c
  let s := match C.busy, C.burst with
    | true, some b =>
      let t := burstTargets s g C b
      let s := s.updChan g c fun C => { C with old := C.old ++ [{ parcel := p, vintage := vintage, host := t.2, runs := t.1 }] }
      t.1.foldl (fun s r => forgetRun s r.1 r.2) s
    | _, _ => s
  (abortChan s g c).updChan g c fun C => { C with prog := none, reqPending := 0, dueOpen := 0, lateReq := 0, dueLate := false }

/-- A mailbox channel after a reset of its parcel: the binding and the enables stay (R430). -/
def Mbx.cleared (C : Mbx) : Mbx :=
  { ctl := C.ctl, sender := C.sender, receiver := C.receiver, valid := C.valid, denied := C.denied }

/-- Release the locks that an identity owns. -/
def releaseLocks (s : State) (who : Nat) : State :=
  { s with mbx := { s.mbx with locks := s.mbx.locks.filter fun e => e.2.toNat != who } }

/-- PCL_INFLIGHT_OLD reached 0 between two states: the parcel event of Table 2 of chapter 21. A reset of the engine, which changes the boot's
stage, leaves the event block at its reset values (R447). -/
def noteQuiet (s t : State) : State :=
  if s.boot.stage ≠ t.boot.stage then t
  else foldNat (List.range 64) (fun p t => if !(inflightOld s p).isEmpty && (inflightOld t p).isEmpty then raiseParcel t p 3 else t) t

/-- Every outstanding command of a parcel ends with PARCEL_RESET under the new vintage; those of windows that `silent` names end without
a pennant. Waiting pennants of these commands are replaced (R374). -/
def endParcelCmds (s : State) (p : Nat) (silent : Window → Bool) : State :=
  let cs := s.cmds.filter fun c => c.parcel == some p
  let seqs := cs.map (·.seq)
  let mine := fun (q : Option Nat) => match q with | some n => seqs.contains n | none => false
  let s := { s with
    wins := s.wins.map fun w => (w.1, { w.2 with waitQ := w.2.waitQ.filter fun x => !mine x.cmd })
    ports := { s.ports with orderReads := s.ports.orderReads.filter fun o => !seqs.contains o.cmd }
    sto := { s.sto with flushes := s.sto.flushes.filter fun f => !seqs.contains f.cmd } }
  together s fun s => cs.foldl (fun s c =>
    if silent c.win then dropCmd s (some c.seq) else endCmd s { c with vintage := (s.parcel p).vintage } sPARCEL_RESET (zeros 16)) s

/-- A reset of a parcel clears the pending bits and counts of its sources and discards their waiting records (R447). -/
def clearSources (s : State) (p : Nat) : State :=
  { s with evt := { s.evt with
      srcs := s.evt.srcs.map fun e => (e.1, if srcParcel s e.1 = some p then { e.2 with pending := false, owner := none, coalesced := 0, masked := none } else e.2)
      rings := s.evt.rings.map fun R => (R.1, { R.2 with waitQ := R.2.waitQ.filter fun r => r.1.parcel != some p }) } }

/-- What any reset of a parcel, and any function-level reset of its VF, does to the mailbox pair, the locks and the event sources (R430, R435,
R447). -/
def resetShared (s : State) (p : Nat) : State :=
  let P := s.parcel p
  let s := (s.updMchan (2 * P.mbxPair) Mbx.cleared).updMchan (2 * P.mbxPair + 1) Mbx.cleared
  let s := if P.vf = 0 then s else releaseLocks s (fnIdentity s (P.vf + 1))
  clearSources s p

/-- A cask read of a parcel's command or channel is left behind by its reset. -/
def orphanRead (s : State) (p v : Nat) (r : CaskRead) : CaskRead :=
  let mine := match r.reader with
    | .cmd seq => ((s.cmd seq).bind (·.parcel)) == some p
    | .chan g _ => groupParcel s g == some p
    | _ => false
  if mine then { r with reader := .nobody, old := some (p, v) } else r

/-- Steps 1 to 4 of R415. -/
def stopParcel (s : State) (p : Nat) (silent : Window → Bool) : State :=
  let P := s.parcel p
  let v := P.vintage
  let s := s.updParcel p fun P => { P with vintage := if v = 0xFFFF then 1 else v + 1 }
  let s := { s with sto := { s.sto with reads := s.sto.reads.map (orphanRead s p v) } }
  let s := (setBits 64 P.groups.toNat).foldl (fun s g =>
    ((List.range 16).foldl (fun s c => orphanChan s p v g c) s).updGroup g fun G => { G with stopped := false, errValid := false }) s
  let s := (setBits 16 P.se.toNat).foldl (fun s e => sortDiscard s p e) s
  let s := (setBits 16 P.ce.toNat).foldl (fun s e => cmpDiscard s e) s
  let s := (setBits 16 P.de.toNat).foldl (fun s e => dgtDiscard s p e) s
  let s := dspDiscard s p
  let s := P.tiles.foldl resetTile s
  let s := (parcelUnits P).foldl resetUnit s
  let s := pubClear (emptyKeys s p) p
  let s := s.updParcel p fun P => { P with
    image := {}, loader := none, exec := none, invals := P.invals.map fun i => { i with cmd := none } }
  endParcelCmds (resetShared s p) p silent

/-- PARCEL_RESET acts. -/
def resetStart (s : State) (c : Cmd) : State :=
  let p := c.f 4 1
  if (s.parcel p).st != .active then endCmd s c sINVALID_FIELD (cmdDetail 4 4)
  else
    let s := s.updCmd c.seq fun c => { c with phase := .running }
    stopParcel (s.updParcel p fun P => { P with st := .resetting }) p fun _ => false

/-- End the PARCEL_RESET that runs for a parcel. -/
def endReset (s : State) (p : Nat) : State :=
  match runningFor s 0x4C p with
  | some c => endCmd s c sSUCCESS (zeros 16)
  | none => s

/-- PARCEL_RESET_COMPLETE: the parcel returns to PS0 and to ACTIVE. -/
def resetDone (s : State) (p : Nat) : State :=
  if (s.parcel p).st != .resetting then s
  else raiseParcel (endReset (s.updParcel p fun P => { P with st := .active, ps := 0 }) p) p 2

/-- A window's registers at their reset values, as a function-level reset leaves them (R374). -/
def resetWindows (s : State) (f : Nat) : State :=
  { s with
    wins := s.wins.filter fun w => w.1 / 64 != f
    cmds := s.cmds.filter fun c => !(c.win.fn.val == f && c.phase == .decided) }

/-- A function-level reset of VF `v` (R374, R415, R430, R435, R447); during a reset in progress it is absorbed, and only the function's own
share of the blocks returns to reset. -/
def vfReset (s : State) (v : Nat) : State :=
  let f := v + 1
  let s := resetMsix (s.updEvRing f fun _ => {}) f
  match vfParcel s v with
  | none => resetWindows s f
  | some p =>
    let s := s.updParcel p fun P => { P with tsel := 0 }
    if (s.parcel p).st != .active then resetWindows (resetShared s p) f
    else stopParcel (resetWindows (s.updParcel p fun P => { P with st := .resetting }) f) p fun w => w.fn.val == f

-- ## Destruction (R417)

/-- PARCEL_DESTROY acts. -/
def destroyStart (s : State) (c : Cmd) : State :=
  let p := c.f 4 1
  if (s.parcel p).st != .active && (s.parcel p).st != .resetting then endCmd s c sINVALID_FIELD (cmdDetail 4 4)
  else
    let s := s.updCmd c.seq fun c => { c with phase := .running }
    stopParcel (s.updParcel p fun P => { P with st := .quiescing }) p fun _ => false

/-- What a FREE parcel keeps: its vintage, its settings, its counts, and the record of the units it held last. -/
def Parcel.freed (P : Parcel) : Parcel :=
  { vintage := P.vintage, past := P.past.union P.units, div := P.div
    divNow := P.divNow, park := P.park, parkNow := P.parkNow, idle1 := P.idle1, idle2 := P.idle2, idle3 := P.idle3, staleCnt := P.staleCnt
    invals := P.invals }

/-- Return every key slot of a parcel to no owner. -/
def freeKeys (s : State) (p : Nat) : State :=
  s.updDgt fun D => { D with keys := D.keys.map fun e => if e.2.owner = .parcel p then (e.1, {}) else e }

/-- QUIESCING_END. -/
def quiescingEnd (s : State) (p : Nat) : State :=
  let P := s.parcel p
  if P.st != .quiescing then s
  else
    let s := s.setNss (s.sto.nss.map fun n => (n.1, if n.2.attached = some p then { n.2 with attached := none } else n.2))
    let s := { s with
      wins := s.wins.map fun w => (w.1, if w.2.wparcel.toNat = p then { w.2 with wvalid := false } else w.2)
      mbx := { s.mbx with bindLock := s.mbx.bindLock &&& ~~~(BitVec.ofNat 64 (2 ^ P.mbxPair)) } }
    let s := P.tiles.foldl (fun s t => s.updTile t fun T => { T with mmu := { T.mmu with root := 0, rootValid := false } }) s
    let s := (freeKeys s p).updParcel p Parcel.freed
    let s := endReset s p
    match runningFor s 0x4B p with
    | some c => endCmd s c sSUCCESS (zeros 16)
    | none => s

end Sys2Proof.Machine
end

