-- ==== Sys2Proof/Machine/PowerOps.lean ====
section
/-! DEFINITION. The boot flash, verification and boot (chapter 24), the reset kinds, and what a reset leaves of each unit. -/

namespace Sys2Proof.Machine

/-- Change the BOOT sub-block. -/
def State.updBoot (s : State) (f : Boot → Boot) : State := { s with boot := f s.boot }
/-- Change the PWR and RST blocks. -/
def State.updPwr (s : State) (f : Pwr → Pwr) : State := { s with pwr := f s.pwr }

/-- A port by its name. -/
def portNo : Port → Nat
  | .hpa => 0
  | .hpb => 1

-- ## The boot flash (Tables 5 and 6)

/-- Bytes of the flash: what nothing has been written to reads as all ones. -/
def flashRead (l : List Byte) (o n : Nat) : List Byte :=
  let b := slice l o n
  b ++ List.replicate (n - b.length) 0xFF

/-- Write bytes of the flash. -/
def flashPut (l : List Byte) (o : Nat) (bs : List Byte) : List Byte := flashRead l 0 o ++ bs ++ l.drop (o + bs.length)

/-- The check value of a directory. -/
def dirCrc (d : List Byte) : Nat := crc32c 0xFFFFFFFF (flashRead d 0 0x3C) ^^^ 0xFFFFFFFF

/-- Whether a directory copy is valid. -/
def dirOk (d : List Byte) : Bool :=
  slice d 0 4 == [0x58, 0x56, 0x42, 0x44] && fieldAt d 4 2 == 1 && fieldAt (flashRead d 0x3C 4) 0 4 == dirCrc d

/-- The first valid directory copy. -/
def Flash.dir (F : Flash) : Option (List Byte) := if dirOk F.dir0 then some F.dir0 else if dirOk F.dir1 then some F.dir1 else none

/-- A directory with next_slot and flags replaced, and its crc made good. -/
def dirPut (d : List Byte) (next flags : Nat) : List Byte :=
  let b := flashPut (flashRead d 0 0x3C) 6 [BitVec.ofNat 8 next, BitVec.ofNat 8 flags]
  b ++ leBytes 4 (dirCrc b)

/-- The bytes of a slot, and whether its reads fail. -/
def Flash.slot (F : Flash) (b : Bool) : List Byte × Bool := if b then (F.slotB, F.badB) else (F.slotA, F.badA)

/-- The signed message of an image: its header up to the signature, then its body. -/
def signedMsg (img : List Byte) : List Byte := flashRead img 0 0x90 ++ flashRead img 256 (fieldAt img 8 4)

/-- Whether a header breaks Table 6, or the image exceeds its place. -/
def badHeader (img : List Byte) (size : Nat) : Bool :=
  let h := flashRead img 0 256
  let n := fieldAt h 8 4
  !(slice h 0 4 == [0x58, 0x56, 0x46, 0x57] && fieldAt h 4 2 == 1 && zeroAt h 6 2 && zeroAt h 0x1C 4 && zeroAt h 0x81 15 && zeroAt h 0xF0 16
    && decide (64 ≤ n) && decide (n ≤ 0x600000) && n % 64 == 0 && decide (256 + n ≤ size))

/-- The first check of Table 7 that an image fails; 0 where it passes (R486). -/
def imageReason (s : State) (img : List Byte) (size : Nat) (failed : Bool) : Nat :=
  let key := flashRead img 0x20 97
  if badHeader img size then 2
  else if failed then 3
  else if digest 1 0 key != s.boot.keyHash then 4
  else if !ecdsaOk key (flashRead img 0x90 96) (signedMsg img) then 5
  else if fieldAt img 0x0C 4 < s.boot.minSvn.toNat then 6
  else 0

/-- The reason of a flash slot. -/
def slotReason (s : State) (d : List Byte) (b : Bool) : Nat :=
  let x := s.boot.flash.slot b
  imageReason s x.1 (fieldAt d 0x18 4) x.2

-- ## The boot sequence (R485 to R488)

/-- The firmware binds and locks pair `m` for itself; which identities it binds is its own. -/
def bindOwn (s : State) (m : Nat) : State :=
  let w := Config.freeWord s.freeCtr
  let s := { s with freeCtr := s.freeCtr + 1, mbx := { s.mbx with bindLock := s.mbx.bindLock ||| BitVec.ofNat 64 (2 ^ m) } }
  let a := BitVec.ofNat 16 (fld w 0 16)
  let b := BitVec.ofNat 16 (fld w 16 16)
  (s.updMchan (2 * m) fun C => { C with sender := a, receiver := b, valid := true }).updMchan (2 * m + 1) fun C =>
    { C with sender := b, receiver := a, valid := true }

/-- What the firmware does first: key slot 0, its own mailbox pairs, its event routes, and power for the seated casks. -/
def firmwareEnter (s : State) : State :=
  let s := s.setKey 0 { owner := .mgmt, key := some (5, Config.caskKey) }
  let own := Config.freeWord s.freeCtr
  let s := { s with freeCtr := s.freeCtr + 1, mbx := { s.mbx with fwPairs := own } }
  let s := foldNat (setBits 64 own.toNat) (fun m s => bindOwn s m) s
  let s := foldNat (List.range' 768 128 ++ List.range' 1008 16) (fun i s => s.updEvSrc i fun e => { e with dest := 2 }) s
  foldNat ((List.range 16).filter fun n => caskPresent s n && (s.cask n).present && (s.cask n).st == .absent) (fun n s => caskPowerOn s n) s

/-- A verified image runs: its digests are published, and the firmware is entered. -/
def enterImage (s : State) (img : List Byte) : State :=
  let s := pubPut s 64 0 1 3 0 (digest 1 0 (signedMsg img))
  let s := pubPut s 64 1 1 3 0 (digest 1 0 (flashRead img 0x20 97))
  let s := { s with glb := { s.glb with fwVer := BitVec.ofNat 64 (fieldAt img 0x10 8) } }
  firmwareEnter (s.updBoot fun B => { B with stage := 5, svn := BitVec.ofNat 32 (fieldAt img 0x0C 4) })

/-- Run the image of a slot. -/
def enterSlot (s : State) (b : Bool) : State :=
  enterImage { s with glb := { s.glb with fwSlot := b }, boot := { s.boot with slotB := b } } (s.boot.flash.slot b).1

/-- Enter recovery (R489). -/
def enterRecovery (s : State) : State :=
  let s := s.updBoot fun B => { B with stage := 7, srcRec := true, recDone := false, recPass := false }
  s.updPort (mgrPort s) fun P => { P with recovery := true }

/-- Record why a slot was rejected. -/
def Boot.failed (B : Boot) (slot : Bool) (why : Nat) : Boot :=
  if slot then { B with lastReason := why, bReason := why } else { B with lastReason := why, aReason := why }

/-- The boot ROM resets the flash device, reads its SFDP tables in 1S-1S-1S, and goes over to 8D-8D-8D where they offer it (R505). -/
def Boot.openFlash (B : Boot) : Boot :=
  { B with xspi := if B.flash.octal then .d8 else .s1, xspiResets := B.xspiResets + 1 }

/-- Steps 3 to 7 of R485; `setMode`: the ports have not trained since a fundamental reset. -/
def bootRom (s : State) (setMode : Bool) : State :=
  let s := s.updBoot fun B => { B.openFlash with srcRec := false, fallback := false }
  let mode := fun (s : State) (m : Bool) => if setMode then { s with ports := { s.ports with bifurcated := m } } else s
  match (if s.boot.bootSrc then none else some s.boot.flash.dir) with
  | none => enterRecovery (mode s false)
  | some none => enterRecovery (mode (s.updBoot fun B => { B with lastReason := 1 }) false)
  | some (some d) =>
    let s := mode s (bitOf (fieldAt d 8 4) 0)
    let next := fieldAt d 6 1 != 0
    let first := if bitOf (fieldAt d 7 1) 0 && s.pwr.cause == 7 then !next else next
    if slotReason s d first = 0 then enterSlot s first
    else
      let s := s.updBoot fun B => { B.failed first (slotReason s d first) with fallback := true }
      if slotReason s d (!first) = 0 then enterSlot s (!first)
      else enterRecovery (mode (s.updBoot fun B => B.failed (!first) (slotReason s d (!first))) false)

/-- The boot ROM begins once every rail is good and the manager's PERST# is not asserted. -/
def bootBegin (s : State) : State :=
  if s.boot.stage = 0 && s.pwr.good == 0x3FF && !(s.hport (mgrPort s)).perst && !s.pwr.stopped then bootRom s true else s

/-- A stack comes into service, or has failed its training attempts. -/
def trainStack (s : State) (failed k : Nat) : State :=
  if bitOf failed k then raiseGlobal (s.updStack k fun K => { K with failed := true }) 6 5 else s.updStack k fun K => { K with trained := true }

/-- try_once is cleared in every valid directory copy (R487). -/
def Flash.triedOnce (F : Flash) : Flash :=
  let clear := fun (d : List Byte) => if dirOk d then dirPut d (fieldAt d 6 1) (fieldAt d 7 1 / 2 * 2) else d
  { F with dir0 := clear F.dir0, dir1 := clear F.dir1 }

/-- Whether a seated cask has yet to leave LINKING or IDENTIFYING. -/
def casksRising (s : State) : Bool := (List.range 16).any fun n => (s.cask n).st == .linking || (s.cask n).st == .identifying

/-- The firmware is ready and releases configuration retry, once every seated cask has left LINKING and IDENTIFYING, or 850 ms have passed (R488).
A recovery boot changes nothing in the flash (R489). -/
def firmwareReady (s : State) (micros failed : Nat) : State :=
  if s.boot.stage ≠ 5 || (casksRising s && decide (micros < 850000)) then s
  else
    let s := foldNat ((List.range 8).filter (stackPresent s)) (fun k s => trainStack s failed k) s
    let s := loadLog s
    let up := fun (P : HostPort) => { P with retry := false, recovery := false, drs := P.drs + 1 }
    let s := { s with ports := { s.ports with hpa := up s.ports.hpa, hpb := up s.ports.hpb } }
    let s := s.updBoot fun B => { B with stage := 6, time := BitVec.ofNat 32 micros }
    let s := s.updBoot fun B => if B.srcRec then B else { B with flash := B.flash.triedOnce }
    let s := { s with sto := { s.sto with ready := !(s.sto.sets.any fun kP => kP.2.recovering) } }
    let s := raiseGlobal s 6 1
    let s := if s.boot.fallback && !s.boot.srcRec then raiseGlobal s 6 2 else s
    let s := if s.boot.srcRec then raiseGlobal s 6 3 else s
    if s.pwr.cause = 7 then raiseGlobal s 6 4 else s

/-- The host writes go: the image in the load window is verified, unless its load reported an error (R486, R489). -/
def recGo (s : State) (failed : Bool) : State :=
  if s.boot.stage ≠ 7 then s
  else
    let img := (List.range s.boot.recLen.toNat).map fun i => (cellFind s.boot.window i).getD 0
    let why := imageReason s img s.boot.recLen.toNat failed
    if why ≠ 0 then
      s.updBoot fun B => { B with recDone := true, recPass := false, recReason := why, lastReason := why }
    else
      let s := s.updBoot fun B => { B with recDone := true, recPass := true }
      enterImage (s.updPort (mgrPort s) fun P => { P with recovery := false }) img

-- ## Firmware update (R490)

/-- Whether an earlier FW_STAGE or FW_COMMIT is outstanding. -/
def fwBusy (s : State) (c : Cmd) : Bool := (earlier s c).any fun d => d.opcode == 0x48 || d.opcode == 0x49

/-- FW_STAGE's checks: the status and detail of the first that fails. -/
def fwStageCheck (s : State) (c : Cmd) : Option (Nat × List Byte) :=
  if fwBusy s c then some (sINVALID_FIELD, cmdDetail 0x44 0)
  else if c.f 0x10 4 % 256 ≠ 0 then some (sINVALID_FIELD, cmdDetail 4 0x10)
  else if c.f 0x18 8 % 256 ≠ 0 then some (sINVALID_FIELD, cmdDetail 4 0x18)
  else
    match s.boot.flash.dir with
    | none => some (sMEDIA_ERROR, cmdDetail 0x45 0)
    | some d => if fieldAt d 0x18 4 < c.f 0x18 8 + c.f 0x10 4 then some (sINVALID_FIELD, cmdDetail 4 0x18) else none

/-- FW_STAGE with its bytes: they go to the slot that GLB_FW_SLOT does not name. -/
def fwStage (s : State) (c : Cmd) (bs : List Byte) : State :=
  let F := s.boot.flash
  let F := if s.glb.fwSlot then { F with slotA := flashPut F.slotA (c.f 0x18 8) bs } else { F with slotB := flashPut F.slotB (c.f 0x18 8) bs }
  endCmd (s.updBoot fun B => { B with flash := F }) c sSUCCESS (zeros 16)

/-- Status and reason of a rejected commit (Table 9). -/
def fwReason (why : Nat) : Nat × Nat :=
  match why with
  | 2 => (sINVALID_FIELD, 0x40)
  | 4 => (sINVALID_FIELD, 0x41)
  | 5 => (sINVALID_FIELD, 0x42)
  | 6 => (sINVALID_FIELD, 0x43)
  | _ => (sMEDIA_ERROR, 0x45)

/-- FW_COMMIT: the slot is verified and becomes next_slot; with action 1 a warm reset follows the pennant. -/
def fwCommit (s : State) (c : Cmd) : State :=
  if fwBusy s c then endCmd s c sINVALID_FIELD (cmdDetail 0x44 0)
  else
    match s.boot.flash.dir with
    | none => endCmd s c sMEDIA_ERROR (cmdDetail 0x45 0)
    | some d =>
      let b := c.f 4 1 == 1
      let why := slotReason s d b
      if why ≠ 0 then endCmd s c (fwReason why).1 (cmdDetail (fwReason why).2 0)
      else
        let flags := fieldAt d 7 1
        let d := dirPut d (b2n b) (if b = s.glb.fwSlot then flags else flags / 2 * 2 + 1)
        let s := s.updBoot fun B => { B with flash := { B.flash with dir0 := d, dir1 := d } }
        let s := if c.f 5 1 = 1 then s.updPwr fun P => { P with resetAfter := some c.seq } else s
        endCmd s c sSUCCESS (zeros 16)

-- ## What resets leave (Table 4, R482)

/-- Every closed stripe of a set commits, in stripe order. -/
def commitAll (s : State) (i : Nat) : State :=
  let s := s.updPset i fun P => { P with closing := P.closing.map fun c => { c with journal := true } }
  foldNat (List.range (((s.pset i).map fun P => P.closing.length).getD 0)) (fun _ s => (commitStripe s i).2) s

/-- The storage service closes every open stripe and waits for it to commit. -/
def commitSets (s : State) : State := foldNat (s.sto.sets.map (·.1)) (fun i s => commitAll (closeStripe s i) i) s

/-- A closed stripe survives a power loss when its record is found on a member: decided for one whose records were on their way. -/
def keepClosing (ctr : Nat) (c : Closing) : Bool := c.journal && Config.freeBool (ctr + c.k)

/-- A power loss discards the open stripe and every closed one whose record is not found (R388). -/
def loseStripes (s : State) : State :=
  foldNat (s.sto.sets.map (·.1)) (fun i s =>
    let n := s.freeCtr
    let last := ((s.pset i).map ProtSet.nextStripe).getD 0
    let s := s.updPset i fun P => { P with opened := [], closing := P.closing.filter (keepClosing n) }
    commitAll { s with freeCtr := n + last + 1 } i) s

/-- The storage service after a reset: what the casks hold stays, and every set recovers (R388). -/
def Sto.afterReset (S : Sto) : Sto :=
  { sets := S.sets.map fun e => (e.1, { e.2 with
      recovering := true, opened := [], closing := [], rack := none, moves := e.2.moves.map fun v => { v with copying := none } })
    nss := S.nss.map fun e => (e.1, { e.2 with attached := none }), past := S.past }

/-- A cask port after a reset: what the cask itself holds stays, and a cask that waits to be taken out stays so. -/
def Cask.afterReset (C : Cask) (warm : Bool) : Cask :=
  let keep := warm && (C.st == .removable || C.st == .failed)
  { st := if keep then C.st else .absent, present := C.present, short := keep && C.short, blinkLow := keep && C.blinkLow, powered := keep && C.powered
    refclk := keep && C.refclk, page := C.page, wrBytes := C.wrBytes, zones := C.zones, zoneCount := C.zoneCount, idrec := C.idrec, auth := keep && C.auth
    samples := C.samples, sampleSerial := C.sampleSerial, day := C.day, setRec := C.setRec, eol := C.eol, early := C.early, late := C.late, armed180 := C.armed180
    armed90 := C.armed90, armed30 := C.armed30, wearLevel := C.wearLevel, slowCnt := if warm then C.slowCnt else 0 }

/-- A tile after a reset of the engine: warm, it keeps what R244 says and its error totals. -/
def Tile.engineReset (T : Tile) (warm : Bool) : Tile :=
  if warm then { cache := { waysOff := T.cache.waysOff, wayOff := T.cache.waysOff != 0, failed := T.cache.failed, ceTotal := T.cache.ceTotal } } else {}

/-- A stack's registers after a reset: warm, the counts since cold power-on stay. -/
def Stack.afterReset (K : Stack) (warm : Bool) : Stack :=
  if warm then { ceCnt := K.ceCnt, passes := K.passes, temp := K.temp } else { temp := K.temp }

/-- A host port after a reset of the engine. -/
def HostPort.afterReset (P : HostPort) : HostPort :=
  { linkUp := P.linkUp, perst := P.perst, retry := true, ltr := P.ltr, answer := P.answer, aer := P.aer, aerErrs := P.aerErrs, drs := P.drs }

/-- The frame generator starts again: FRM_COUNT is cleared (R31). -/
def Frm.restart (F : Frm) : Frm :=
  { F with count := 0, cycle := 0, guardOpen := false, periodNow := F.period, holdNow := F.hold, frozen := false, ptmLate := none, ptmAsked := false }

/-- What a reset leaves in memory: nothing, but that a warm reset keeps the service region (R482). -/
def memAfter (s : State) (warm : Bool) : Mem :=
  let v := s.glb.part.service
  if warm then s.mem.unknownBut (v.1 * sliceBytes) ((v.1 + v.2) * sliceBytes) else s.mem.unknown

/-- Every unit outside the always-on domain, and the blocks that a warm reset names, after a reset. Vintages survive a warm reset. The health
monitor keeps the day's corrected lines where the counts of the stacks are cleared (R463). -/
def resetUnits (s : State) (warm : Bool) : State :=
  let s := if warm then s else carryLines s
  { s with
    glb := { s.glb with scratch := 0, fuseCtl := 0 }, frm := s.frm.restart, mem := memAfter s warm
    hbms := s.hbms.map fun e => (e.1, e.2.afterReset warm)
    reds := [], tiles := s.tiles.map fun e => (e.1, e.2.engineReset warm), dsp := {}, groups := []
    ces := s.ces.map fun e => (e.1, { verifyCnt := if warm then e.2.verifyCnt else 0 })
    des := [], ses := [], dgt := {}
    casks := s.casks.map fun e => (e.1, e.2.afterReset warm)
    sto := s.sto.afterReset
    parcels := s.parcels.map fun e => (e.1, if warm then { vintage := e.2.vintage } else {})
    pcl := {}, wins := [], cmds := [], mbx := {}, evt := { sent := s.evt.sent }
    ports := { hpa := s.ports.hpa.afterReset, hpb := s.ports.hpb.afterReset, bifurcated := s.ports.bifurcated }
    hlt := { s.hlt with valid := false }
    pwr := { s.pwr with ps4 := false, resetAfter := none }
    boot := { s.boot with stage := 0, svn := 0 } }

/-- A warm reset (R482, R483): while a reset runs, another has no effect. The watchdog resets a firmware that hangs while it starts (R484). -/
def warmReset (s : State) (cause : Nat) : State :=
  if s.boot.stage ≠ 6 && !(cause == 7 && s.boot.stage == 5) then s
  else
    let s := resetUnits (commitSets s) true
    let s := s.updPwr fun P => { P with
      cause := BitVec.ofNat 4 cause, afterTrip := false, afterRail := false, resetCount := P.resetCount + 1 }
    bootRom s false

/-- The reset that PERST# of the manager's port makes (Table 4): the straps are sampled again, and storage recovers as after a power
loss. A stopped engine restarts only when every rail is good (R475, R481). -/
def perstReset (s : State) (mgrStrap bootSrc : Bool) : State :=
  let s := resetUnits (loseStripes s) false
  let s := s.updPwr fun P => { P with
    cause := 2, afterTrip := P.thermtrip, afterRail := P.railStop, resetCount := 0, stopped := false, thermtrip := false, railStop := false }
  { s with boot := { s.boot with mgrHpb := mgrStrap, bootSrc := bootSrc }, pkg := { s.pkg with scan := false } }

/-- The identification code (R506). -/
def idcode (s : State) : Nat := 0x10000DEF + s.glb.part.device * 2 ^ 12

/-- Cold power-on: only the fuses, the flash and what the casks hold survive; RST_CAUSE tells why the engine had stopped (R481, R499). -/
def coldReset (s : State) (mgrStrap bootSrc : Bool) : State :=
  let t := resetUnits (loseStripes s) false
  let seat := fun (P : HostPort) => { perst := P.perst, answer := P.answer, drs := P.drs : HostPort }
  let code := BitVec.ofNat 32 (idcode s)
  { State.reset with
    glb := { part := s.glb.part, serial := s.glb.serial }, mem := t.mem, casks := t.casks, sto := t.sto
    evt := t.evt, ports := { hpa := seat s.ports.hpa, hpb := seat s.ports.hpb }, hlt := { log := s.hlt.log }
    pwr := { State.reset.pwr with afterTrip := s.pwr.thermtrip, afterRail := s.pwr.railStop }
    boot := { minSvn := s.boot.minSvn, keyHash := s.boot.keyHash, flash := s.boot.flash, mgrHpb := mgrStrap, bootSrc := bootSrc }
    pkg := { tapDr := code, slots := s.pkg.slots }, lastRead := s.lastRead, lastEnd := s.lastEnd, freeCtr := t.freeCtr, pending := s.pending }

/-- The configuration space of a port's PF0 returns to its reset state: VF Enable and its settings. -/
def HostPort.pf0Reset (P : HostPort) : HostPort :=
  let Q : HostPort := {}
  { P with vfEnable := Q.vfEnable, payload := Q.payload, readRequest := Q.readRequest, timeout := Q.timeout, tag10 := Q.tag10, tag14 := Q.tag14 }

/-- A port reset (R461): the VFs of the port take the effect of a function-level reset, and its PF0 returns to its reset state. -/
def portReset (s : State) (port : Nat) : State :=
  let s := foldNat ((List.range 65).filter fun v => v ≠ 0 && vfPort s v = port) (fun v s => vfReset s v) s
  let s := (resetWindows s port).updEvRing port fun _ => {}
  (resetMsix s port).updPort port HostPort.pf0Reset

/-- A channel's burst in flight has lost its reads of a port. -/
def Chan.losePort (C : Chan) (port : Nat) : Chan := { C with burst := C.burst.map fun b => { b with lost := b.lost ++ [port] } }

/-- The reads outstanding on a port end as completion timeouts: the ordering reads among them release their pennants, and the bursts in flight
have lost theirs (R458, R461). -/
def dropOrderReads (s : State) (port : Nat) : State :=
  let l := s.ports.orderReads.filter fun o => o.port == port
  let s := { s with
    ports := { s.ports with orderReads := s.ports.orderReads.filter fun o => o.port != port }
    groups := s.groups.map fun e => (e.1, { e.2 with chans := e.2.chans.map fun c => (c.1, c.2.losePort port) }) }
  let s := if l.isEmpty then s else s.updPort port fun P => P.logged .completionTimeout
  l.foldl (fun s o => match s.cmd o.cmd with | some c => drainWin ((s.win c.win).waitQ.length) s c.win | none => s) s

end Sys2Proof.Machine
end

