-- ==== Sys2Proof/Machine/Command.lean ====
section
/-! DEFINITION. What starts a command and when (chapter 17): controls, the turn of each command, and the work that follows every step. -/

namespace Sys2Proof.Machine

-- ## CANCEL, RESUME and QUERY_STATUS (R364 to R366)

/-- The command that a control names: another outstanding command of its window that bears the target tag. -/
def target (s : State) (c : Cmd) : Option Cmd := s.cmds.find? fun d => d.win == c.win && d.seq != c.seq && d.tag == c.f 4 2

/-- Whether an EXECUTE has a parked stage. -/
def hasParked (s : State) (e : Cmd) : Bool :=
  match e.parcel with
  | none => false
  | some p =>
    e.opcode == 0x12 && (((s.parcel p).exec.map fun x => x.seq) == some e.seq)
      && (s.parcel p).tiles.any fun t => (s.tile t).run == .parked

/-- CANCEL (Table 10). One whose target is an EXECUTE or a load waits for the boundary that observes it. -/
def cancelStart (s : State) (c : Cmd) : State :=
  match target s c with
  | none => endCmd s c sTOO_LATE (zeros 16)
  | some t =>
    if t.phase == .held then endCmd (endCmd s t sCANCELLED (zeros 16)) c sSUCCESS (zeros 16)
    else if t.phase != .decided && (t.opcode == 0x10 || t.opcode == 0x11 || t.opcode == 0x12) then
      s.updCmd c.seq fun c => { c with phase := .running }
    else endCmd s c sTOO_LATE (zeros 16)

/-- RESUME (R365). -/
def resumeStart (s : State) (c : Cmd) : State :=
  match target s c with
  | none => endCmd s c sTOO_LATE (zeros 16)
  | some t =>
    if t.phase != .decided && hasParked s t then s.updCmd c.seq fun c => { c with phase := .running }
    else endCmd s c sINVALID_FIELD (cmdDetail 7 0)

/-- The state that QUERY_STATUS reports of its target (R366). -/
def queryState (s : State) (t : Cmd) : Nat :=
  match t.phase with
  | .decided => 0
  | .held => 1
  | .waiting => 2
  | .running => if hasParked s t then 4 else 3

/-- QUERY_STATUS. -/
def queryStart (s : State) (c : Cmd) : State :=
  let img := (c.parcel.map fun p => (s.parcel p).image.imageId).getD 0
  let d := match target s c with
    | none => zeros 8
    | some t =>
      let n := queryState s t
      let x := c.parcel.bind fun p => (s.parcel p).exec.filter fun x => x.seq == t.seq
      leBytes 1 n ++ leBytes 1 (if n = 0 then 0 else t.opcode) ++ zeros 2 ++ leBytes 4 (if n = 0 then 0 else (x.map (·.frames)).getD 0)
  endCmd s c sSUCCESS (d ++ leBytes 8 img)

-- ## Beginning

/-- A command whose structure comes from the host waits for it; a length that the structure does not have is refused first. -/
def awaitStruct (s : State) (c : Cmd) (len : Option Nat) : State :=
  match len with
  | some n => if c.f 0x10 4 ≠ n then endCmd s c sINVALID_FIELD (cmdDetail 4 0x10) else s.updCmd c.seq fun c => { c with phase := .running }
  | none => s.updCmd c.seq fun c => { c with phase := .running }

/-- FW_STAGE begins. -/
def fwStageStart (s : State) (c : Cmd) : State :=
  match fwStageCheck s c with
  | some (st, d) => endCmd s c st d
  | none => if c.f 0x10 4 = 0 then fwStage s c [] else awaitStruct s c none

/-- Begin a command by its opcode (Tables 4 to 7). A load and an EXECUTE begin to wait for their turn. -/
def startCmd (s : State) (c : Cmd) : State :=
  let p := c.parcel.getD 0
  match c.opcode with
  | 0x01 => startStorage s c p
  | 0x02 => startStorage s c p
  | 0x04 => startStorage s c p
  | 0x05 => startStorage s c p
  | 0x12 => fetchNow s c
  | 0x13 => cancelStart s c
  | 0x14 => resumeStart s c
  | 0x15 => queryStart s c
  | 0x20 => editTables s c p
  | 0x21 => editTables s c p
  | 0x22 => cellarCopy s c p
  | 0x40 => awaitStruct s c (some 64)
  | 0x41 => deleteNs s c
  | 0x42 => attachNs s c
  | 0x43 => identify s c
  | 0x47 => prepareRemove s c
  | 0x48 => fwStageStart s c
  | 0x49 => fwCommit s c
  | 0x4A => awaitStruct s c (some 128)
  | 0x4B => destroyStart s c
  | 0x4C => resetStart s c
  | _ => s

/-- A command whose beginning was delayed counts as accepted at that instant (R363, R401, R414). -/
def renumber (s : State) (c : Cmd) : Cmd × State :=
  if c.seq + 1 = s.accepted then (c, s)
  else
    let n := s.accepted
    ({ c with seq := n }, { s with accepted := n + 1, cmds := s.cmds.map fun d => if d.seq = c.seq then { d with seq := n } else d })

/-- Let a ready command begin. -/
def beginCmd (s : State) (c : Cmd) : State :=
  let (c, s) := renumber s c
  let c := { c with begun := true }
  startCmd (s.updCmd c.seq fun _ => c) c

/-- The load whose turn has come: the oldest of a parcel that loads nothing (R80). -/
def nextLoad (s : State) : Option Cmd :=
  let l := s.cmds.filter fun c => (c.opcode == 0x10 || c.opcode == 0x11) && c.begun && c.phase == .waiting
    && match c.parcel with | some p => (s.parcel p).loader.isNone | none => false
  l.foldl (fun acc c => match acc with | none => some c | some d => if c.seq < d.seq then some c else some d) none

-- ## What follows every step

/-- One step of what commands do as soon as they can; none where nothing can. -/
def settleOne (s : State) : Option State :=
  match s.cmds.find? fun c => c.phase == .held && released s c with
  | some c => some (s.updCmd c.seq fun c => { c with phase := .waiting })
  | none =>
    match s.cmds.find? fun c => c.ready s with
    | some c => some (beginCmd s c)
    | none =>
      match nextLoad s with
      | some c => some (beginLoad s c (c.parcel.getD 0))
      | none => none

/-- Repeat while something can happen. -/
def settleLoop : Nat → State → State
  | 0, s => s
  | n + 1, s =>
    match settleOne s with
    | some s => settleLoop n s
    | none => s


/-- A warm reset that waits for the pennant of its FW_COMMIT. -/
def resetIfDue (s : State) : State :=
  match s.pwr.resetAfter with
  | some q => if (s.cmd q).isNone then warmReset s 4 else s
  | none => s

/-- The work that follows a step: commands begin, detaches end, a reset that waited for its pennant happens, and what summarises the casks follows
them. -/
def settle (s : State) : State :=
  let n := 4 * s.cmds.length + 4
  let s := endDetaches (settleLoop n s)
  let s := settleLoop n s
  sendLtr (noteCaskEol (resetIfDue s))

/-- A step after which older accesses of a parcel may have ended (R414). -/
def settleFrom (s t : State) : State := settle (noteQuiet s t)

/-- Leaving PS4 raises POWER cause 2. -/
def noteAwake (s t : State) : State := if s.pwr.ps4 && !t.pwr.ps4 && fbit s.pwr.ctl 1 then raiseGlobal t 2 2 else t

/-- The engine takes the command that a window has latched, where the row is of its opcode. -/
def takeRow (op : Nat) (w : Window) (data : List Byte) (s : State) : Host.Outcome State Fault Refusal :=
  ok (live s fun s => if latchedOp s w = some op then settle (noteAwake s (takeLatched s w data)) else s)

end Sys2Proof.Machine
end

