-- ==== Sys2Proof/Machine/System.lean ====
section
/-! DEFINITION. System and frame instructions of the tile (chapter 04, R98 to R103; chapter 05, R108, R132 to R134, R137). -/

namespace Sys2Proof.Machine

-- ## Control registers (Table 4 of chapter 04)

/-- Whether a number names a control register. -/
def csrListed (n : Nat) : Bool :=
  [0x000, 0x001, 0x002, 0x003, 0x004, 0x005, 0x006, 0x010, 0x011, 0x012, 0x013, 0x014, 0x015, 0x020, 0x021, 0x022, 0x023, 0x024, 0x030, 0x031,
    0x032, 0x033].contains n

/-- IBX_COUNT: records in half A, or bytes in raw mode (R87). -/
def ibxCount (s : State) (t : Nat) : Nat :=
  match roleOf s t with
  | some r => if r.stage.source then (s.tile t).rawA else (s.tile t).dirA.length
  | none => 0

/-- FCYCLE: the cycle within the parcel frame. -/
def frameCycle (s : State) (t : Nat) : Nat :=
  let d := match tileParcel s t with | some p => (s.parcel p).divNow.toNat | none => 1
  s.frm.count.toNat % d * s.frm.periodNow.toNat + s.frm.cycle

/-- The value of a control register; a write-only register reads 0. -/
def csrRead (s : State) (t n : Nat) : Nat :=
  let T := s.tile t
  let r := roleOf s t
  match n with
  | 0x000 => T.vl
  | 0x001 => T.vtype.toNat
  | 0x002 => T.vstart.toNat
  | 0x003 => T.tfaultVa.toNat
  | 0x004 => T.epc.toNat
  | 0x005 => T.ecause.toNat + 0x100 * b2n T.inHandler
  | 0x010 => (r.map (·.v)).getD 0
  | 0x011 => t
  | 0x012 => (r.map fun r => r.stage.stage + 0x100 * r.stage.pipeline).getD 0
  | 0x013 => s.frm.count.toNat
  | 0x014 => frameCycle s t
  | 0x015 => (r.map (·.stage.budget)).getD 0
  | 0x020 => halfA s t
  | 0x021 => (inboxOf s t).2
  | 0x022 => ibxCount s t
  | 0x023 => T.ibxSel.toNat
  | 0x024 => if ibxCount s t ≤ T.ibxSel.toNat then 0xFFFFFFFF else ((T.dirA[T.ibxSel.toNat]?).map (·.off)).getD 0xFFFFFFFF
  | 0x030 => T.obxRoute.toNat
  | 0x031 => T.obxSrc.toNat
  | 0x033 => T.sendQ.length + 0x100 * b2n T.refused
  | _ => 0

/-- CSRR. -/
def execCsrr (t : TileId) (rd : Reg) (csr : BitVec 12) (s : State) : Host.Outcome State Fault Refusal :=
  issue s t fun s => if csrListed csr.toNat then setS s t rd (BitVec.ofNat 64 (csrRead s t csr.toNat)) else takeIllegal s t

/-- VTYPE := vt, and VL within its VLMAX (R108). -/
def Tile.setVtype (T : Tile) (vt : Nat) : Tile := { T with vtype := BitVec.ofNat 3 vt, vl := min T.vl (vlmaxOf vt) }

/-- A write of ESTOP (R102): the tile stops with the image's code. -/
def estop (s : State) (t : Nat) (c : Word) : State :=
  stopFree s t {
    status := 0xC0 + c.toNat % 64, source := 2, reason := 0, sub := ((roleOf s t).map (·.stage.stage)).getD 0, address := 0 }

/-- CSRW: a register that is not listed or is read-only takes exception 5. -/
def csrWrite (s : State) (t n : Nat) (x : Word) : State :=
  match n with
  | 0x000 => retire s t fun T => { T with vl := min x.toNat T.vlmax }
  | 0x001 => if x.toNat < 8 then retire s t fun T => T.setVtype x.toNat else takeIllegal s t
  | 0x002 => retire s t fun T => { T with vstart := x }
  | 0x004 => retire s t fun T => { T with epc := x }
  | 0x006 => estop s t x
  | 0x023 => retire s t fun T => { T with ibxSel := x.setWidth 10 }
  | 0x030 => retire s t fun T => { T with obxRoute := x }
  | 0x031 => retire s t fun T => { T with obxSrc := x }
  | 0x032 => launchSend s t x.toNat
  | _ => takeIllegal s t

/-- CSRW. -/
def execCsrw (t : TileId) (csr : BitVec 12) (rs1 : Reg) (s : State) : Host.Outcome State Fault Refusal :=
  issue s t fun s => csrWrite s t csr.toNat (sReg s t rs1)
/-- OBX_LEN_WRITE: a CSRW of OBX_LEN. -/
def execObxLenWrite (t : TileId) (rs1 : Reg) (s : State) : Host.Outcome State Fault Refusal :=
  issue s t fun s => csrWrite s t 0x032 (sReg s t rs1)
/-- ESTOP: a CSRW of ESTOP. -/
def execEstop (t : TileId) (rs1 : Reg) (s : State) : Host.Outcome State Fault Refusal :=
  issue s t fun s => csrWrite s t 0x006 (sReg s t rs1)

/-- VSETVL (R108). -/
def execVsetvl (t : TileId) (rd rs1 : Reg) (vt : BitVec 3) (s : State) : Host.Outcome State Fault Refusal :=
  issue s t fun s =>
    let n := min (sVal s t rs1) (vlmaxOf vt.toNat)
    retire s t fun T => { T with vtype := vt, vl := n, vstart := 0 }.sPut rd.toNat (BitVec.ofNat 64 n)

/-- ERET (R100, R132). -/
def execEret (t : TileId) (s : State) : Host.Outcome State Fault Refusal :=
  issue s t fun s =>
    if (s.tile t).inHandler then s.updTile t fun T => { T with inHandler := false, pc := T.epc }
    else takeIllegal s t

-- ## The end of a tile's work (R133, R134, R137, R143)

/-- Whether FDONE can retire: no send is queued, every write and reduction has been accepted, and the decode unit is idle. -/
def fdoneReady (s : State) (t : Nat) : Bool :=
  let T := s.tile t
  T.sendQ.isEmpty && redsDone s t && T.decQ.isEmpty && T.decRun.isNone

/-- FDONE, and with `eos` the end of the tile's stream. -/
def fdone (s : State) (t : Nat) (eos : Bool) : State :=
  if (s.tile t).held.isSome then takeIllegal s t
  else if !fdoneReady s t then s
  else
    let late := tileGuard s t
    let cyc := s.frm.cycle
    let s := retire s t fun T => { T with
      run := .fdone, fdoneLate := late, eos := T.eos || eos, perfFdone := if T.ctl.getLsbD 2 then T.perfFdone else BitVec.ofNat 64 cyc }
    match roleOf s t with
    | some r => if r.stage.pooled then assign (returnQueue s r.p t) r.p else s
    | none => s

/-- FDONE. -/
def execFdone (t : TileId) (s : State) : Host.Outcome State Fault Refusal := issue s t fun s => fdone s t false
/-- FDONE.EOS. -/
def execFdoneEos (t : TileId) (s : State) : Host.Outcome State Fault Refusal := issue s t fun s => fdone s t true

/-- FENCE. -/
def execFence (t : TileId) (s : State) : Host.Outcome State Fault Refusal :=
  issue s t fun s => if redsDone s t then retire s t id else s

end Sys2Proof.Machine
end

