-- ==== Sys2Proof/Machine/Boundary.lean ====
section
/-! DEFINITION. Frames (chapter 02): what a boundary decides, how an EXECUTE starts, goes on and ends, the frame generator's registers, and
the course of the tile clock. -/

namespace Sys2Proof.Machine

-- ## Pipelines and their stages

/-- Pipelines of an image. -/
def Image.pipeIds (I : Image) : List Nat := (List.range 16).filter fun k => I.stages.any fun e => e.pipeline == k
/-- Stages of a pipeline, the lowest first. -/
def Image.pipeStages (I : Image) (k : Nat) : List StageEntry := sortBy (·.stage) (I.stages.filter fun e => e.pipeline == k)
/-- Tiles of a pipeline. -/
def pipeTiles (P : Parcel) (k : Nat) : List Nat := (P.image.pipeStages k).flatMap (poolTiles P)
/-- Physical groups of a parcel. -/
def Parcel.groupList (P : Parcel) : List Nat := setBits 64 P.groups.toNat

/-- Whether every tile of a stage has executed FDONE before the guard window opened (R36 to R38). -/
def stageDone (s : State) (P : Parcel) (e : StageEntry) : Bool :=
  (poolTiles P e).all fun t => (s.tile t).run == .fdone && !(s.tile t).fdoneLate
/-- Whether a tile of a stage is parked. -/
def stageParked (s : State) (P : Parcel) (e : StageEntry) : Bool := (poolTiles P e).any fun t => (s.tile t).run == .parked
/-- The pipeline of the program that a channel runs. -/
def chanPipe (P : Parcel) (C : Chan) : Option Nat := C.prog.bind fun q => (P.image.movers[q.1]?).map (·.pipeline)
/-- Whether a due burst of a pipeline was not accepted before the guard window (R278). -/
def dueHold (s : State) (P : Parcel) (k : Nat) : Bool :=
  P.groupList.any fun g => (s.group g).chans.any fun c =>
    chanPipe P c.2 == some k && (c.2.dueLate || (c.2.busy && decide (0 < c.2.dueOpen)))

/-- Whether a pipeline decants (R37, R278). -/
def decants (s : State) (P : Parcel) (k : Nat) : Bool := ((P.image.pipeStages k).all (stageDone s P)) && !dueHold s P k
/-- Whether a stage of a pipeline is parked. -/
def pipeParked (s : State) (P : Parcel) (k : Nat) : Bool := (P.image.pipeStages k).any (stageParked s P)
/-- The boundary is the final commit of the parcel's EXECUTE (R46). DESIGN CHOICE, log entry 16: a pipeline at end of stream goes on
decanting at each boundary, and a due burst that makes a pipeline hold delays the final commit though every stage has executed FDONE.EOS. -/
def finalCommit (s : State) (P : Parcel) : Bool :=
  P.image.pipeIds.all fun k => decants s P k && (P.image.pipeStages k).all (stageEos s P)

-- ## The end of an EXECUTE

/-- Leave a range of a parcel undefined, page by page, where a store to it translates. -/
def forgetMapped (s : State) (p va n : Nat) : State :=
  (pageRuns va n).foldl (fun s run =>
    match cmdXlat s p run.1 .store with
    | .ok dpa => forgetRun s dpa run.2
    | .error _ => s) s

/-- Leave the host output buffers of an EXECUTE undefined, every page that is mapped (R39). -/
def forgetOutputs (s : State) (p : Nat) (I : Image) (param : List Byte) : State :=
  (I.binds.filter fun b => b.type == 3 && decide (b.paramOffset + b.length ≤ param.length)).foldl (fun s b =>
    forgetMapped s p (fieldAt param b.paramOffset 8) (fieldAt param (b.paramOffset + 8) 8)) s

/-- The tiles stop (R48, R204). -/
def Tile.atEnd (T : Tile) : Tile :=
  { T with run := .idle, fdoneLate := false, eos := false, guardStall := false, park := none, unparked := false, stop := none, sendQ := []
           decQ := [], decRun := none }

/-- The ordering reads of R458. -/
def orderReads (s : State) (P : Parcel) (x : Exec) (c : Cmd) : List OrderRead :=
  if P.vf ≠ 0 then []
  else (x.hostWrites.filter fun w => w.1 != winPort s c.win && linkUp s w.1).map fun w => { port := w.1, addr := w.2, cmd := c.seq }

/-- The EXECUTE of a parcel ends: its channels are aborted, its items and jobs discarded, its tiles stop. -/
def endExecute (s : State) (p : Nat) (x : Exec) (status : Nat) (det : List Byte) : State :=
  let P := s.parcel p
  let s := if status = sSUCCESS then s else forgetOutputs s p P.image x.param
  let s := P.groupList.foldl (fun s g => (List.range 16).foldl (fun s c =>
    if (s.chan g c).prog.isSome then abortChan s g c else s) s) s
  let s := (setBits 16 P.se.toNat).foldl (fun s e => sortDiscard s p e) s
  let s := (setBits 16 P.ce.toNat).foldl (fun s e => cmpDiscard s e) s
  let s := (setBits 16 P.de.toNat).foldl (fun s e => dgtDiscard s p e) s
  let s := dspDiscard s p
  let s := P.tiles.foldl (fun s t => s.updTile t Tile.atEnd) s
  let s := s.updParcel p fun P => { P with exec := none }
  match s.cmd x.seq with
  | none => s
  | some c =>
    let l := if status = sSUCCESS then orderReads s P x c else []
    endCmd { s with ports := { s.ports with orderReads := s.ports.orderReads ++ l } } c status det

/-- The success detail of an EXECUTE (Table 13 of chapter 17). -/
def execDetail (x : Exec) : List Byte := leBytes 4 (x.frames + 1) ++ leBytes 4 x.holds ++ leBytes 8 x.start.toNat

/-- The stop of the lowest stopped virtual tile (R103). -/
def lowestStop (s : State) (P : Parcel) : Option (Nat × StopRec) :=
  let l := P.tiles.filterMap fun t => match (s.tile t).run, (s.tile t).stop, P.vtile t with | .stopped, some r, some v => some (v, r) | _, _, _ => none
  (sortBy (·.1) l).head?

/-- The failure that ends an EXECUTE, with its detail: a tile stop, or the first failure of another kind. -/
def failure (s : State) (P : Parcel) (x : Exec) : Option (Nat × List Byte) :=
  match lowestStop s P with
  | some (v, r) => some (r.status, detail r.reason r.source v r.sub r.address)
  | none => x.fails.head?.map fun r => (r.status, detail r.reason r.source r.index r.sub r.address)

/-- Consecutive holds of a pipeline, and its stages' parking counts. -/
def Exec.pipe (x : Exec) (k : Nat) : Pipe := (x.pipes.find? fun q => q.id == k).getD { id := k }

/-- A pipeline that holds once too often (R39, R40). Of several at one boundary the lowest-numbered is named (DESIGN CHOICE, log entry 16), and
where only a due burst holds it, so that every stage was done, the stage named is a free value. -/
def overrun (s : State) (P : Parcel) (x : Exec) : Option (Nat × List Byte) :=
  (P.image.pipeIds.find? fun k => !decants s P k && !pipeParked s P k && decide (s.frm.holdNow.toNat < (x.pipe k).holds + 1)).map fun k =>
    let low := ((P.image.pipeStages k).find? fun e => !stageDone s P e).map (·.stage)
    (sFRAME_OVERRUN, detail 0 10 k (low.getD ((Config.freeWord s.freeCtr).toNat % 64)) 0)

/-- A park that has lasted too long (R45): `resumed`, a RESUME is observed. Of several that expire at one boundary the detail names the
lowest pipeline and stage, and the first parked tile in that stage's tile list (DESIGN CHOICE, log entry 15). -/
def parkExpired (s : State) (P : Parcel) (x : Exec) (resumed : Bool) : Option (Nat × List Byte) :=
  let due := P.image.pipeIds.flatMap fun k => (P.image.pipeStages k).filter fun e =>
    stageParked s P e && decide (P.parkNow.toNat < Tab.get 0 (x.pipe k).parks e.stage + b2n (!resumed))
  match due with
  | [] => none
  | e :: _ =>
    ((poolTiles P e).find? fun t => (s.tile t).run == .parked).map fun t =>
      let r := (s.tile t).park
      (sTRANSLATION_FAULT, detail ((r.map (·.reason)).getD 0) 2 ((P.vtile t).getD 0) e.stage ((r.map (·.va)).getD 0))

-- ## An EXECUTE that goes on (R35 to R45)

/-- A frame-line request to the programs of a pipeline (Table 3 of chapter 13). -/
def lineRequests (s : State) (p k : Nat) : State :=
  (s.parcel p).groupList.foldl (fun s g => (List.range 16).foldl (fun s c =>
    if chanPipe (s.parcel p) (s.chan g c) = some k then addRequest s g c 1 true else s) s) s

/-- A tile begins at its entry (R94). -/
def beginTile (s : State) (P : Parcel) (t : Nat) : State :=
  let pc := (((P.vtile t).bind P.image.codeOf).map (·.entry)).getD 0
  s.updTile t fun T => if T.eos then T else { T with run := .running, pc := BitVec.ofNat 64 pc }

/-- A pipeline decants: admission, closing items, the exchange of every inbox, and tiles with new input begin (R35, R36, R194, R201). -/
def decant (s : State) (p k : Nat) : State :=
  let P := s.parcel p
  let s := admitItems s p fun d => d.item.pipeline == k
  let s := closeDrained s p k
  let s := (pipeTiles P k).foldl (fun s t => s.updTile t flipInbox) s
  let s := (P.image.pipeStages k).foldl (fun s e =>
    if !e.pooled || poolInput s p e then (poolTiles P e).foldl (fun s t => beginTile s P t) s else s) s
  lineRequests (assign s p) p k

/-- A pipeline holds: its tiles count it (TIL_PERF_HOLDS). -/
def countHold (s : State) (P : Parcel) (k : Nat) : State :=
  (pipeTiles P k).foldl (fun s t => s.updTile t fun T => if T.ctl.getLsbD 2 then T else { T with perfHolds := T.perfHolds + 1 }) s

/-- A parked tile re-executes its instruction (R45). -/
def Tile.unpark (T : Tile) : Tile := if T.run == .parked then { T with run := .running, park := none, unparked := true } else T

/-- The parking counts of a pipeline after a boundary (R44, R268). -/
def nextParks (s : State) (P : Parcel) (k : Nat) (q : Pipe) : Tab Nat :=
  (P.image.pipeStages k).foldl (fun m e =>
    if stageParked s P e then Tab.set m e.stage (Tab.get 0 m e.stage + 1)
    else if (poolTiles P e).any fun t => (s.tile t).unparked then m
    else Tab.set m e.stage 0) q.parks

/-- The next record of a pipeline. -/
def nextPipe (s : State) (P : Parcel) (x : Exec) (resumed : Bool) (k : Nat) : Pipe :=
  let q := x.pipe k
  let parked := pipeParked s P k
  { id := k, parks := nextParks s P k q
    holds := if decants s P k || (parked && resumed) then 0 else if parked then q.holds else q.holds + 1
    finished := decants s P k && (P.image.pipeStages k).all (stageEos s P) }

/-- Each pipeline decants or holds, and the boundary's RESUMEs unpark (R37, R45). -/
def continueExecute (s : State) (p : Nat) (x : Exec) (resumed : Bool) : State :=
  let P := s.parcel p
  let ks := P.image.pipeIds
  let held := ks.filter fun k => !decants s P k && !pipeParked s P k
  let go := ks.filter fun k => decants s P k
  let s := s.updParcel p fun Q => { Q with exec := Q.exec.map fun y => { y with
    frames := x.frames + 1, holds := x.holds + held.length, pipes := ks.map (nextPipe s P x resumed) } }
  let s := held.foldl (fun s k => countHold s P k) s
  let s := go.foldl (fun s k => decant s p k) s
  if resumed then assign (P.tiles.foldl (fun s t => s.updTile t Tile.unpark) s) p else s

/-- A tile's frame interface as a parcel frame opens: sends of the guard window take their numbers (R32, R38, R89). -/
def Tile.openFrame (T : Tile) : Tile :=
  let late := T.sendQ.zip (List.range T.sendQ.length)
  { T with sendQ := late.map (fun x => { x.1 with seq := x.2, late := false }), sendSeq := T.sendQ.length, guardStall := false, fdoneLate := false }

/-- Doorbells and requests of the guard window count in the frame that opens (R277, R278). -/
def openChan (s : State) (g c : Nat) : State :=
  let n := (s.chan g c).lateReq
  let s := s.updChan g c fun C => { C with lateReq := 0, dueLate := false }
  (List.range n).foldl (fun s _ => addRequest s g c (s.chan g c).reqSrc true) s

/-- The next parcel frame opens. -/
def openFrame (s : State) (p : Nat) : State :=
  let P := s.parcel p
  let s := P.tiles.foldl (fun s t => s.updTile t Tile.openFrame) s
  P.groupList.foldl (fun s g => (List.range 16).foldl (fun s c => openChan s g c) s) s

-- ## What a boundary decides (R48)

/-- RESUME and CANCEL commands of a parcel that a boundary observes. -/
def observed (s : State) (p op : Nat) : List Cmd := s.cmds.filter fun c => c.parcel == some p && c.opcode == op && c.phase == .running
/-- Those that name a command. -/
def observedFor (s : State) (p op seq : Nat) : List Cmd := (observed s p op).filter fun c => ((target s c).map (·.seq)) == some seq

/-- End RESUMEs with a status. -/
def endResumes (s : State) (l : List Cmd) (status : Nat) : State := l.foldl (fun s c => endCmd s c status (zeros 16)) s

/-- The outcome of the parcel's EXECUTE at a boundary, if it has one: final commit, CANCEL, failure, overrun or an expired park. Where one
pipeline overruns and the park of another expires, R48 gives no order and the choice is free (log entry 16). -/
def outcome (s : State) (P : Parcel) (x : Exec) (cancels resumes : List Cmd) : Option (Nat × List Byte) :=
  if finalCommit s P then some (sSUCCESS, execDetail x)
  else if !cancels.isEmpty then some (sCANCELLED, zeros 16)
  else
    let ran := overrun s P x
    let late := parkExpired s P x (!resumes.isEmpty)
    (failure s P x).or (if Config.freeBool s.freeCtr then ran.or late else late.or ran)

/-- The boundary decides the running EXECUTE. -/
def decideExecute (s : State) (p : Nat) : State :=
  let P := s.parcel p
  match P.exec with
  | none => s
  | some x =>
    let cancels := observedFor s p 0x13 x.seq
    let resumes := observedFor s p 0x14 x.seq
    match outcome s P x cancels resumes with
    | some (st, det) =>
      let s := endExecute s.stamp.2 p x st det
      let s := match cancels with
        | [] => s
        | c :: _ => if st = sCANCELLED then endCmd s c sSUCCESS (zeros 16) else s
      endResumes s resumes sTOO_LATE
    | none => openFrame (endResumes (continueExecute s p x (!resumes.isEmpty)) resumes sSUCCESS) p

/-- CANCELs of EXECUTEs that have not started. -/
def cancelWaiting (s : State) (p : Nat) : State :=
  (observed s p 0x13).foldl (fun s k =>
    match target s k with
    | some e => if e.opcode = 0x12 && e.phase == .waiting then endCmd (endCmd s e sCANCELLED (zeros 16)) k sSUCCESS (zeros 16) else s
    | none => s) s

/-- CANCELs of loads, and those whose target has meanwhile been decided. -/
def cancelRest (s : State) (p : Nat) : State :=
  (observed s p 0x13).foldl (fun s k =>
    match target s k with
    | some e =>
      if e.phase != .decided && e.opcode != 0x12 && loadCancellable s p e.seq then endCmd (cancelLoad s p e) k sSUCCESS (zeros 16)
      else endCmd s k sTOO_LATE (zeros 16)
    | none => endCmd s k sTOO_LATE (zeros 16)) s

-- ## Starting (R49, R72, R93, R281, R360)

/-- Whether a bind value lies within the parameter block. -/
def BindSlot.within (b : BindSlot) (n : Nat) : Bool := decide (b.paramOffset + b.length ≤ n)

/-- What keeps an EXECUTE from starting (R360, R72, R73, R82). -/
def startFlaw (s : State) (p : Nat) (c : Cmd) (param : List Byte) : Option (Nat × List Byte) :=
  let P := s.parcel p
  if P.itemCap - itemsIn s p < c.f 0x18 4 then some (sCAPACITY, cmdDetail 8 0x18)
  else if P.image.binds.any fun b => b.required && !b.within param.length then some (sINVALID_FIELD, cmdDetail 4 0)
  else
    match P.image.binds.find? fun b => b.type == 2 && b.within param.length && fieldAt param (b.paramOffset + 4) 4 != 0 with
    | some b => some (sINVALID_FIELD, detail 1 1 1 (b.paramOffset + 4) 0)
    | none => if P.image.loaded then none else some (sINVALID_FIELD, zeros 16)

/-- A tile before the first frame of an EXECUTE: its registers at their initial values (R93, Table 4 of chapter 04), the records of an exception
and the counters that Table 12 names cleared. TIL_EXC_CAUSE, which that table does not name, keeps the last stopping exception. -/
def Tile.atStart (T : Tile) : Tile :=
  { T.clearRegs with
    refused := false, sendQ := [], sendSeq := 0, bLower := false, dirA := [], dirB := [], rawA := 0, rawB := 0, fillB := 0, run := .idle
    fdoneLate := false, eos := false, guardStall := false, park := none, unparked := false, stop := none, held := none, puts := 0, dqWait := none
    localQ := [], decQ := [], decRun := none, ibxSel := 0, obxRoute := 0, obxSrc := 0, excPc := 0, excVa := 0, excFrame := 0, perfBusy := 0, perfFdone := 0, perfHolds := 0
    cache := { T.cache with perfHit := 0, perfMiss := 0, perfSide := 0 }, mmu := { T.mmu with perfMiss := 0, perfWread := 0 } }

/-- Counters of an engine. -/
def Engine.atStart (E : Engine) : Engine := { E with cntJobs := 0, cntIn := 0, cntOut := 0 }

/-- Copy the bind values into the tile stores of their stages (R72). A value that runs past the end of the tile store is cut there
(DESIGN CHOICE, log entry 18). -/
def bindCopy (s : State) (P : Parcel) (param : List Byte) : State :=
  (P.image.binds.filter fun b => b.within param.length).foldl (fun s b =>
    (P.image.stages.filter fun e => e.pipeline == b.pipeline && e.stage == b.stage).foldl (fun s e =>
      (poolTiles P e).foldl (fun s t =>
        s.tsWrite t b.tsOffset ((slice param b.paramOffset b.length).take (0x100000 - b.tsOffset))) s) s) s

/-- The initial items are admitted, in list order (R194, R195). An item that a channel has enqueued waits for its pipeline's first decant. -/
def initialItems (s : State) (p : Nat) (c : Cmd) (param : List Byte) : State :=
  let s := (List.range (c.f 0x18 4)).foldl (fun s i =>
    let bs := slice param (c.f 0x14 4 + 32 * i) 32
    acceptItem s p { item := fillItem (s.parcel p).image (itemOf bs) (s.parcel p).vintage, origin := 1, k1 := i } false) s
  admitItems s p fun d => d.origin == 1

/-- Every unit of the parcel as an EXECUTE finds it. -/
def initUnits (s : State) (P : Parcel) : State :=
  let s := P.tiles.foldl (fun s t => cacheAtStart (s.updTile t Tile.atStart) t) s
  let s := (parcelUnits P).foldl flushUnit s
  let s := (setBits 16 P.se.toNat).foldl (fun s e => s.updEng .se e Engine.atStart) s
  let s := (setBits 16 P.ce.toNat).foldl (fun s e => s.updEng .ce e Engine.atStart) s
  let s := (setBits 16 P.de.toNat).foldl (fun s e => s.updEng .de e Engine.atStart) s
  P.groupList.foldl (fun s g => s.updGroup g fun G => { G with stopped := false, errValid := false }) s

/-- An EXECUTE starts, or ends at once where a check forbids it. -/
def startExecute (s : State) (p : Nat) (c : Cmd) : State :=
  let P := s.parcel p
  let param := c.fetched.getD []
  match startFlaw s p c param with
  | some (st, det) => endCmd s c st det
  | none =>
    let ks := P.image.pipeIds
    let s := initUnits (s.updCmd c.seq fun c => { c with phase := .running }) P
    let s := s.updParcel p fun Q => { Q with
      dsp := { Q.dsp with peak := 0, deliv := 0, closed := [], seqs := [], flows := [] }
      exec := some { seq := c.seq, start := s.frm.count, param := param, pipes := ks.map fun k => { id := k } } }
    let s := startPrograms (bindCopy s P param) p
    let s := initialItems s p c param
    let s := (P.image.stages.flatMap (poolTiles P)).foldl (fun s t => beginTile s P t) s
    ks.foldl (fun s k => lineRequests s p k) (assign s p)

/-- The EXECUTE whose turn has come: the oldest that waits with its parameter block, behind no load of its parcel (R80). -/
def nextExecute (s : State) (p : Nat) : Option Cmd :=
  let mine := s.cmds.filter fun c => c.parcel == some p && c.begun
  let loads := mine.filter fun c => (c.opcode == 0x10 || c.opcode == 0x11) && c.phase != .decided
  ((sortBy (·.seq) (mine.filter fun c => c.opcode == 0x12 && c.phase == .waiting)).head?).filter fun c =>
    c.fetched.isSome && loads.all fun d => decide (c.seq < d.seq)

-- ## Boundaries (R30, R34)

/-- Jobs of the parcel's engines are published, admitted and started (R178, R180, R300, R312, R318). A key loaded at this boundary is the one
that an HMAC job admitted at it takes, whichever engines the two are on (R315). -/
def engineBoundary (s : State) (p : Nat) : State :=
  let P := s.parcel p
  let A := pframe s p
  let s := (setBits 16 P.se.toNat).foldl (fun s e => sortBoundary s p e A) s
  let s := (setBits 16 P.ce.toNat).foldl (fun s e => cmpBoundary s p e A) s
  let s := (setBits 16 P.de.toNat).foldl (fun s e => dgtPublishDue s p e A) s
  (setBits 16 P.de.toNat).foldl (fun s e => dgtBoundary s p e A) s

/-- A parcel frame's stores and reduced words are forgotten at its end (R170). -/
def forgetStores (s : State) (P : Parcel) : State :=
  let other := fun (x : Nat × Nat) => !P.slices.getLsbD (x.1 / sliceBytes)
  { s with mem := { s.mem with stores := s.mem.stores.filter other, reduced := s.mem.reduced.filter other } }

/-- Whether an EXECUTE accepted before the load being loaded is outstanding (R78, R357). -/
def loadBusy (s : State) (p : Nat) : Bool :=
  match (s.parcel p).loader with
  | none => false
  | some L => s.cmds.any fun c => c.parcel == some p && c.opcode == 0x12 && c.begun && decide (c.seq < L.seq)

/-- Start EXECUTEs at a boundary until one runs: one that a check ends leaves its turn to the next. -/
def startNext : Nat → State → Nat → State
  | 0, s, _ => s
  | n + 1, s, p =>
    if (s.parcel p).exec.isSome then s
    else
      match nextExecute s p with
      | some c => startNext n (startExecute s p c) p
      | none => s

/-- A parcel boundary. -/
def parcelBoundary (s : State) (p : Nat) : State :=
  let P := s.parcel p
  let busy := loadBusy s p
  let s := s.updParcel p fun P => { P with parkNow := P.park }
  let s := P.tiles.foldl (fun s t => deliverAll s t) s
  let s := forgetStores (engineBoundary s p) P
  let s := cancelWaiting (decideExecute s p) p
  let s := loadBoundary s p busy
  cancelRest (startNext s.cmds.length s p) p

/-- A global boundary: what was written since takes effect, FRM_COUNT advances, and each parcel whose divisor divides it is at a parcel
boundary. What it decides, it decides at one instant (R372). -/
def globalBoundary (s : State) : State :=
  let s := s.updFrm fun F => { F with count := F.count + 1, cycle := 0, guardOpen := false, periodNow := F.period, holdNow := F.hold }
  let s := { s with parcels := s.parcels.map fun e => (e.1, { e.2 with divNow := e.2.div }) }
  together s fun s => endDetaches (foldNat (List.range 64) (fun p s =>
    if (s.parcel p).holds && s.frm.count.toNat % (s.parcel p).divNow.toNat = 0 then parcelBoundary s p else s) s)

/-- GLOBAL_BOUNDARY. -/
def execGlobalBoundary (s : State) : Host.Outcome State Fault Refusal := ok (live s fun s => settleFrom s (globalBoundary s))

/-- The guard window opens with its first cycle (R32). -/
def guardOpens (s : State) : State := s.updFrm fun F => { F with cycle := F.periodNow.toNat - 48, guardOpen := true }

/-- GUARD_WINDOW_OPEN. -/
def execGuardWindowOpen (s : State) : Host.Outcome State Fault Refusal := ok (live s guardOpens)

/-- A tile counts a cycle in which it is not stalled (TIL_PERF_BUSY). -/
def Tile.tick (T : Tile) : Tile := if T.executes && !T.ctl.getLsbD 2 then { T with perfBusy := T.perfBusy + 1 } else T

/-- One tile cycle: the frame generator counts it, and the last cycle of a frame ends in the global boundary (R30). -/
def idleCycle (s : State) : State :=
  live s fun s =>
    let s := { s with tiles := s.tiles.map fun e => (e.1, e.2.tick) }
    let n := s.frm.cycle + 1
    if s.frm.periodNow.toNat ≤ n then settleFrom s (globalBoundary s)
    else s.updFrm fun F => { F with cycle := n, guardOpen := F.guardOpen || decide (F.periodNow.toNat ≤ n + 48) }

-- ## FRM registers (R33, Tables 9 to 13)

/-- The global FRAME event of a refused write. -/
def frameEvent (s : State) (bit : Nat) : State := raiseGlobal s 0 bit

/-- A write of FRM_PERIOD. -/
def periodWrite (s : State) (v : Word) : State :=
  let n := fld v 0 16
  let refused := s.parcels.any fun e => e.2.st == .active || e.2.st == .quiescing
  let range := n < 600 || 38400 < n
  let t := s.updFrm fun F => { F with
    period := if refused || range then F.period else BitVec.ofNat 16 n
    periodRefused := F.periodRefused || refused, periodRange := F.periodRange || range }
  let t := if refused then frameEvent t 1 else t
  if range then frameEvent t 2 else t

/-- FRM_PERIOD_WRITE. -/
def execFrmPeriodWrite (who : Who) (value : Word) (s : State) : Host.Outcome State Fault Refusal :=
  ok (live s fun s => if isManager s who then periodWrite s value else s)

/-- A write of FRM_HOLD_LIMIT. -/
def holdLimitWrite (s : State) (v : Word) : State :=
  if fld v 0 8 = 0 then frameEvent (s.updFrm fun F => { F with holdErr := true }) 3
  else s.updFrm fun F => { F with hold := BitVec.ofNat 8 (fld v 0 8) }

/-- FRM_HOLD_LIMIT_WRITE. -/
def execFrmHoldLimitWrite (who : Who) (value : Word) (s : State) : Host.Outcome State Fault Refusal :=
  ok (live s fun s => if isManager s who then holdLimitWrite s value else s)

-- ## Correlation with host time (R51)

/-- PTM_REQUEST_TIMER: a PTM request is issued while capture is enabled and the port's link is up. -/
def execPtmRequestTimer (s : State) : Host.Outcome State Fault Refusal :=
  ok (live s fun s => if s.frm.ptmEn && linkUp s (b2n s.frm.ptmPort) then s.updFrm fun F => { F with ptmAsked := true } else s)

/-- A completed PTM dialogue captures the frame, the cycle and the host's time. During a freeze FRM_PTM_FRAME takes the frame, and the other
two registers wait with theirs (DEDUCED, log entry 13: R51 freezes those two only). -/
def ptmCapture (s : State) (ns : Word) : State :=
  raiseGlobal (s.updFrm fun F =>
    let c := BitVec.ofNat 16 F.cycle
    let F := { F with ptmAsked := false, ptmFrame := F.count }
    if F.frozen then { F with ptmLate := some (c, ((F.ptmLate.map (·.2.1)).getD F.ptmSeq) + 1, ns) }
    else { F with ptmCycle := c, ptmSeq := F.ptmSeq + 1, ptmHost := ns }) 1 1

/-- PTM_DIALOGUE_COMPLETE. -/
def execPtmDialogueComplete (hostNs : Word) (s : State) : Host.Outcome State Fault Refusal :=
  ok (live s fun s => if s.frm.ptmEn && s.frm.ptmAsked then ptmCapture s hostNs else s)

/-- FRM_PTM_FRAME_READ: the read freezes the capture that it reads. -/
def execFrmPtmFrameRead (who : Who) (s : State) : Host.Outcome State Fault Refusal :=
  ok (live s fun s => if isManager s who then { s with lastRead := s.frm.ptmFrame, frm := s.frm.freeze } else s)

/-- FRM_PTM_HOST_READ: the read ends the freeze. -/
def execFrmPtmHostRead (who : Who) (s : State) : Host.Outcome State Fault Refusal :=
  ok (live s fun s => if isManager s who then { s with lastRead := s.frm.ptmHost, frm := s.frm.unfreeze } else s)

end Sys2Proof.Machine
end

