-- ==== Sys2Proof/Machine/CaskRows.lean ====
section
/-! DEFINITION. The rows of the cask ports (chapter 16) and of the stripes of the storage service (chapter 18). -/

namespace Sys2Proof.Machine

-- ## Presence, link and identity (R332 to R335, R344, R345, R350, R503)

/-- Whether a cask serves a set. -/
def CaskSt.inService (c : CaskSt) : Bool := c == .member || c == .readonly || c == .preparing

/-- CSK_PRSNT# holds a new level. The port is powered once the firmware runs (R485). -/
def presence (s : State) (n : Nat) (on : Bool) : State :=
  let C := s.cask n
  if !caskPresent s n || C.present == on then s
  else if on then
    let s := s.updCask n fun C => { C with present := true }
    raiseCask (if 5 ≤ s.boot.stage && s.boot.stage ≤ 6 then caskPowerOn s n else s) n 0
  else settle (raiseCask (caskAbsent (if C.st.inService then together s fun s => endDetaches (failCask s n) else s) n) n 0)

/-- CASK_PRESENCE_CHANGE. -/
def execCaskPresenceChange (n : CaskId) (present : Bool) (s : State) : Host.Outcome State Fault Refusal :=
  ok (live s fun s => presence s n present)

/-- CSK_PERST_RELEASE. -/
def execCskPerstRelease (n : CaskId) (s : State) : Host.Outcome State Fault Refusal :=
  ok (live s fun s => if (s.cask n).st == .linking then s.updCask n fun C => { C with perstLow := false } else s)

/-- CASK_LINK_UP: the link is used at the rate and width it reaches, and the port's health trend records a shortfall (R462). -/
def execCaskLinkUp (l : LinkTrain) (s : State) : Host.Outcome State Fault Refusal :=
  ok (live s fun s =>
    if (s.cask l.port).st == .linking && !(s.cask l.port).perstLow then
      noteShort (s.updCask l.port fun C => { C with
        st := .identifying, linkUp := true, short := !(l.rate == .gt64 && l.width == .x4) }) l.port l.rate l.width
    else s)

/-- CASK_LINK_TIMEOUT. -/
def execCaskLinkTimeout (n : CaskId) (s : State) : Host.Outcome State Fault Refusal :=
  ok (live s fun s => if (s.cask n).st == .linking then settle (together s fun s => endDetaches (failCask s n)) else s)

/-- CASK_IDENTIFIED. -/
def execCaskIdentified (n : CaskId) (ident : CaskIdent) (s : State) : Host.Outcome State Fault Refusal :=
  ok (live s fun s => if (s.cask n).st == .identifying then settle (portHistory (caskIdentify s n ident) n) else s)

/-- A condition of R344 fails a cask that serves or is SPARE; what that ends, it ends at one instant (R372). -/
def caskDies (s : State) (n : Nat) : State := if (s.cask n).st.serves then settleFrom s (together s fun s => endDetaches (failCask s n)) else s

/-- CASK_LINK_DOWN. -/
def execCaskLinkDown (n : CaskId) (s : State) : Host.Outcome State Fault Refusal :=
  ok (live s fun s => (caskDies s n).updCask n fun C => { C with linkUp := false })

/-- CASK_FATAL_REPORT. -/
def execCaskFatalReport (n : CaskId) (s : State) : Host.Outcome State Fault Refusal := ok (live s fun s => caskDies s n)

/-- CASK_COMMAND_TIMEOUT. -/
def execCaskCommandTimeout (n : CaskId) (s : State) : Host.Outcome State Fault Refusal := ok (live s fun s => caskDies s n)

/-- LINK_ERROR_CORRECTED: event 7 of a port whose link is up. -/
def execLinkErrorCorrected (n : CaskId) (s : State) : Host.Outcome State Fault Refusal :=
  ok (live s fun s => if (s.cask n).linkUp then raiseCask s n 7 else s)

/-- ATTENTION_INDICATOR_BLINK (R351). -/
def execAttentionIndicatorBlink (n : CaskId) (s : State) : Host.Outcome State Fault Refusal :=
  ok (live s fun s =>
    if (s.cask n).st == .quarantine || (s.cask n).st == .failed then s.updCask n fun C => { C with blinkLow := !C.blinkLow } else s)

-- ## Wear (R339 to R341)

/-- CASK_WEAR_READ. -/
def execCaskWearRead (n : CaskId) (page : WearPage) (s : State) : Host.Outcome State Fault Refusal := ok (live s fun s => wearRead s n page)

/-- CASK_WEAR_SAMPLE. -/
def execCaskWearSample (n : CaskId) (s : State) : Host.Outcome State Fault Refusal := ok (live s fun s => noteCaskEol (wearSample s n))

-- ## Reads (R343, R393)

/-- The oldest read on a port, and the reads without it. -/
def oldestRead (s : State) (n : Nat) (f : CaskRead → Bool) : Option (CaskRead × List CaskRead) :=
  (indexOf? (fun r => r.port == n && f r) s.sto.reads).bind fun i => (s.sto.reads[i]?).map fun r => (r, s.sto.reads.eraseIdx i)

/-- Event 4, once in an hour, when more than slow_limit reads have been bypassed. -/
def slowEvent (s : State) (n : Nat) : State :=
  let C := s.cask n
  if C.slowRaised || C.slowHour ≤ C.slowLimit.toNat then s else raiseCask (s.updCask n fun C => { C with slowRaised := true }) n 4

/-- A slow read is bypassed: the other chunks of the stripe are read, and whichever is there first supplies the data (R343). -/
def slowRead (s : State) (n : Nat) : State :=
  match oldestRead s n fun r => r.reader != .nobody && !r.slow with
  | none => s
  | some (r, rest) =>
    if !((s.cask n).st.inService && r.bypass && parityCovers s r [r.member]) then s
    else
      let s := s.setReads (rest ++ [{ r with slow := true }])
      let s := s.updCask n fun C => { C with slowCnt := satAdd C.slowCnt 1, slowHour := C.slowHour + 1 }
      unitSettled (reconstruct (slowEvent s n) r) r

/-- SLOW_READ_TIMEOUT. -/
def execSlowReadTimeout (n : CaskId) (s : State) : Host.Outcome State Fault Refusal := ok (live s fun s => settle (slowRead s n))

/-- A media error loses the chunk that was read. -/
def mediaError (s : State) (r : CaskRead) : State :=
  s.updPset r.set fun P =>
    match Tab.find P.stripes r.stripe with
    | none => P
    | some S => { P with stripes := Tab.set P.stripes r.stripe { S with lost := r.member :: S.lost.filter (· != r.member) } }

/-- The oldest read of a port ends. The data that it brings is the chunk's own; a discarded result has no effect. -/
def caskReadDone (s : State) (n : Nat) (r : ReadResult) : State :=
  match oldestRead s n fun _ => true with
  | none => s
  | some (x, rest) =>
    let t := s.setReads rest
    if x.reader = .nobody then t
    else
      match r, x.direct with
      | .data _, true =>
        unitSettled (t.setReads (t.sto.reads.map fun y => if y.reader = x.reader ∧ y.id = x.id then { y with reader := .nobody } else y)) x
      | .data _, false => unitSettled t x
      | _, true => unitSettled (reconstruct (mediaError t x) x) x
      | _, false => unitSettled (mediaError t x) x

/-- CASK_READ_DONE. -/
def execCaskReadDone (n : CaskId) (r : ReadResult) (s : State) : Host.Outcome State Fault Refusal :=
  ok (live s fun s => settleFrom s (caskReadDone s n r))

-- ## Moves (R337, R338, R347, R349)

/-- STRIPE_MOVE_COMMIT. A set without namespaces has its zones reset. -/
def execStripeMoveCommit (n : CaskId) (s : State) : Host.Outcome State Fault Refusal :=
  ok (live s fun s =>
    let i := (memberOf s n).map (·.1)
    let s := moveCommit s n
    match i with
    | some i => emptyZones s i
    | none => s)

/-- MIGRATION_COMPLETE: the target takes the member's place, and the cask enters REMOVABLE. -/
def migrated (s : State) (n : Nat) : State :=
  match finishedMove s n false with
  | none => s
  | some (i, v) =>
    let src := (((s.pset i).bind fun P => P.members[v.member]?).map (·.port)).getD 0
    let prep := (s.cask src).prepare
    let s := enterRemovable (moveDone s i v) src
    match prep with
    | some q => endSeq s q sSUCCESS (zeros 16)
    | none => s

/-- MIGRATION_COMPLETE. -/
def execMigrationComplete (n : CaskId) (s : State) : Host.Outcome State Fault Refusal := ok (live s fun s => settle (migrated s n))

/-- REBUILD_COMPLETE: the target takes the lost member's place, and a set that is still degraded goes on. -/
def execRebuildComplete (n : CaskId) (s : State) : Host.Outcome State Fault Refusal :=
  ok (live s fun s =>
    match finishedMove s n true with
    | none => s
    | some (i, v) => tryRebuild (moveDone s i v) i)

/-- A write of CSK_RACK_SHARE: ignored in full with either share outside its range. -/
def rackShareWrite (s : State) (n : Nat) (v : Word) : State :=
  if fld v 0 7 ≤ 100 && 1 ≤ fld v 8 7 && fld v 8 7 ≤ 100 then
    s.updCask n fun C => { C with rackPct := BitVec.ofNat 7 (fld v 0 7), rebuildPct := BitVec.ofNat 7 (fld v 8 7) }
  else s

/-- CSK_RACK_SHARE_WRITE. -/
def execCskRackShareWrite (who : Who) (n : CaskId) (value : Word) (s : State) : Host.Outcome State Fault Refusal :=
  ok (live s fun s => if isManager s who && caskPresent s n then rackShareWrite s n value else s)

/-- A write of CSK_RACK_LIVE: a write of 0 or above 100 is ignored. -/
def rackLiveWrite (s : State) (n : Nat) (v : Word) : State :=
  if 1 ≤ fld v 0 7 && fld v 0 7 ≤ 100 then s.updCask n fun C => { C with livePct := BitVec.ofNat 7 (fld v 0 7) } else s

/-- CSK_RACK_LIVE_WRITE. -/
def execCskRackLiveWrite (who : Who) (n : CaskId) (value : Word) (s : State) : Host.Outcome State Fault Refusal :=
  ok (live s fun s => if isManager s who && caskPresent s n then rackLiveWrite s n value else s)

-- ## Stripes (R387, R388, R391)

/-- STRIPE_CLOSE_TIMEOUT. -/
def execStripeCloseTimeout (i : Fin 16) (s : State) : Host.Outcome State Fault Refusal := ok (live s fun s => closeStripe s i)

/-- Mark the first closed stripe whose journal records are not issued. -/
def issueJournal : List Closing → List Closing
  | [] => []
  | c :: l => if c.journal then c :: issueJournal l else { c with journal := true } :: l

/-- STRIPE_CHUNKS_ACKED: every chunk of the oldest such stripe is acknowledged, and its journal records are issued. -/
def execStripeChunksAcked (i : Fin 16) (s : State) : Host.Outcome State Fault Refusal :=
  ok (live s fun s => s.updPset i fun P => { P with closing := issueJournal P.closing })

/-- STRIPE_COMMIT. -/
def execStripeCommit (i : Fin 16) (s : State) : Host.Outcome State Fault Refusal :=
  ok (live s fun s =>
    match commitStripe s i with
    | (some k, s) => settle (beginRack (beginCopies (flushCommitted s i k) i) i)
    | (none, s) => s)

/-- Recovery of a set is done: members whose cask did not come back are unavailable. -/
def recovered (s : State) (i : Nat) : State :=
  match s.pset i with
  | none => s
  | some P =>
    if !P.recovering then s
    else
      let lost := fun (x : Member) => x.gone || !((s.cask x.port).st.inService && recSerial (s.cask x.port).idrec == x.serial)
      let fewer := P.members.any fun x => lost x && !x.gone
      let s := changeSet s i fun P => { P with
        recovering := false, generation := P.generation + b2n fewer, members := P.members.map fun x => { x with gone := lost x }
        moves := P.moves.map fun v => { v with rebuild := v.rebuild || ((P.members[v.member]?).map lost).getD true } }
      let s := s.updPset i fun P => (P.moves.filter (·.rebuild)).foldl ProtSet.usePlaced P
      let s := if fewer then writeRecords s i else s
      let away := P.moves.filter fun v => !((s.cask v.target).st == .spare && recSerial (s.cask v.target).idrec == v.serial)
      let s := s.updPset i fun P => { P with moves := P.moves.filter fun v => !away.contains v }
      beginCopies (tryRebuilds { s with sto := { s.sto with ready := s.boot.stage == 6 && !(s.sto.sets.any fun kP => kP.2.recovering) } }) i

/-- JOURNAL_REPLAY_DONE. -/
def execJournalReplayDone (i : Fin 16) (s : State) : Host.Outcome State Fault Refusal := ok (live s fun s => recovered s i)

end Sys2Proof.Machine
end

