-- ==== Sys2Proof/Machine/Dispatcher.lean ====
section
/-! DEFINITION. The dispatcher's rows: DQ.GET and its delivery, DQ.DONE and DQ.PUT (chapter 05, R135, R136; chapter 09). -/

namespace Sys2Proof.Machine

-- ## DQ.GET, DQ.DONE and DQ.PUT (R135, R136)

/-- Whether a tile belongs to a pooled stage. -/
def pooledTile (s : State) (t : Nat) : Bool := ((roleOf s t).map (·.stage.pooled)).getD false

/-- DQ.GET: the checks, then the tile waits for the dispatcher. -/
def execDqGet (t : TileId) (rd rs1 : Reg) (s : State) : Host.Outcome State Fault Refusal :=
  issue s t fun s =>
    let off := sNat s t rs1
    if !pooledTile s t || (s.tile t).held.isSome then takeIllegal s t
    else if off % 32 ≠ 0 then takeExc s t (misaligned off) none
    else if tsStoreBad s t off 32 then takeExc s t (boundsExc off) none
    else s.updTile t fun T => { T with dqWait := some (rd.toNat, off) }

/-- What the dispatcher delivers to a tile: the head of its queue, or an item stolen from another (R198). A closing item is never stolen (R201). -/
def pickItem (s : State) (P : Parcel) (e : StageEntry) (t : Nat) : Option DItem × State :=
  match (s.tile t).localQ with
  | d :: rest => (some d, s.updTile t fun T => { T with localQ := rest })
  | [] =>
    let peers := (poolTiles P e).filter fun u => dieOf u == dieOf t
    let cands := peers.flatMap fun u => ((s.tile u).localQ.filter fun d => !d.pinned && !d.item.close).map fun d => (u, d)
    match sortBy (fun c => 7 - c.2.item.priority) (sortBy (fun c => c.2.ord) cands) with
    | [] => (none, s)
    | (u, d) :: _ => (some d, s.updTile u fun T => { T with localQ := T.localQ.erase d })

/-- Deliver an item to a tile that waits. -/
def deliverItem (s : State) (p t rd off : Nat) (d : DItem) : State :=
  let s := s.tsWrite t off d.item.bytes
  let s := { s with dsp := { s.dsp with
    deliv0 := if dieOf t = 0 then s.dsp.deliv0 + 1 else s.dsp.deliv0, deliv1 := if dieOf t = 1 then s.dsp.deliv1 + 1 else s.dsp.deliv1 } }
  let pf := pframe s p
  let s := s.updDsp p fun D => { D with
    deliv := D.deliv + 1
    flows := if d.item.close then D.flows else Tab.set D.flows d.item.flowKey { tile := t, frame := pf } }
  assign (retire s t fun T => { T.sPut rd 1 with held := some { d with pinned := false }, puts := 0, dqWait := none }) p

/-- Whether a parcel holds a dispatch slot on a tile's die (R208). -/
def Parcel.hasSlot (P : Parcel) (t : Nat) : Bool := !(if dieOf t = 0 then P.slots0 else P.slots1).isEmpty

/-- DQ_DELIVERY: the dispatcher answers a waiting DQ.GET. A delivery takes a slot of the parcel on the tile's die: without one it waits. -/
def execDqDelivery (t : TileId) (s : State) : Host.Outcome State Fault Refusal :=
  ok (live s fun s =>
    match (s.tile t).dqWait, roleOf s t with
    | some (rd, off), some r =>
      if (s.tile t).run ≠ .running then s
      else
        match pickItem s r.parcel r.stage t with
        | (some d, s') => if r.parcel.hasSlot t then deliverItem s' r.p t rd off d else s
        | (none, s) => retire s t fun T => { T.sPut rd 0 with dqWait := none }
    | _, _ => s)

/-- Release the held-back puts of ORDERED items that are complete with every item below them (R200). -/
def releaseOrdered (s : State) (p key : Nat) : State :=
  let open_ := ((liveItems s p key).filter fun i => i.item.cls == 1).map (·.ord)
  let free := fun (d : DItem) => d.heldStage == key && open_.all fun m => decide (d.heldSeq < m)
  let D := (s.parcel p).dsp
  let out := sortBy (·.heldSeq) (D.heldBack.filter free)
  let s := s.updDsp p fun D => { D with heldBack := D.heldBack.filter fun d => !free d }
  out.foldl (fun s d => s.updDsp p fun D => { D with
    pending := D.pending ++ [{ d with origin := 2, k1 := D.arrivals, k2 := 0, k3 := 0 }], arrivals := D.arrivals + 1 }) s

/-- Make the head of an ATOMIC flow's wait list ready (R200). -/
def readyNext (s : State) (p : Nat) (i : Item) : State :=
  match (sortBy (·.ord) (s.parcel p).dsp.waiting).find? fun d => d.item.flowKey == i.flowKey with
  | none => s
  | some d => s.updDsp p fun D => { D with waiting := D.waiting.erase d, ready := D.ready ++ [d] }

/-- DQ.DONE: the held item is complete. -/
def execDqDone (t : TileId) (s : State) : Host.Outcome State Fault Refusal :=
  issue s t fun s =>
    match (s.tile t).held, roleOf s t with
    | some d, some r =>
      let s := retire s t fun T => { T with held := none, puts := 0 }
      let s := if d.item.cls = 1 then releaseOrdered s r.p d.item.key else s
      let s := if d.item.cls = 2 then readyNext s r.p d.item else s
      assign s r.p
    | _, _ => takeIllegal s t

/-- The place of a tile's put among the origins (R195), and whether it is held back. -/
def putOrigin (r : Role) (held : Option DItem) (n : Nat) (i : Item) : DItem × Bool :=
  match r.stage.pooled, held with
  | true, some h =>
    if h.item.cls = 1 then ({ item := i, origin := 2, k3 := n, heldStage := h.item.key, heldSeq := h.ord }, true)
    else ({ item := i, origin := 4, k1 := h.item.key, k2 := h.ord, k3 := n }, false)
  | _, _ => ({ item := i, origin := 3, k1 := r.v, k2 := n }, false)

/-- DQ.PUT: the result code, and the item pending where it is 0. -/
def execDqPut (t : TileId) (rd rs1 : Reg) (s : State) : Host.Outcome State Fault Refusal :=
  issue s t fun s =>
    let off := sNat s t rs1
    if off % 32 ≠ 0 then takeExc s t (misaligned off) none
    else if tsLoadBad s t off 32 then takeExc s t (boundsExc off) none
    else
      match s.tsPoison t off 32, roleOf s t with
      | some a, _ => takeExc s t (poisonExc a) none
      | none, none => takeIllegal s t
      | none, some r =>
        let bs := s.tsRead t off 32
        let i := itemOf bs
        let c := putCode s r.p i (itemReserved bs) (r.stage.pooled && (s.tile t).held.isNone)
        let s :=
          if c = 0 then
            let (d, held) := putOrigin r (s.tile t).held (s.parcel r.p).dsp.arrivals (fillItem r.parcel.image i r.parcel.vintage)
            acceptItem s r.p d held
          else
            let s := s.updDsp r.p fun D => { D with refused := D.refused + 1 }
            if c = 3 && fbit s.dsp.ctl 0 then raiseParcel s r.p 1 else s
        retire s t fun T => T.sPut rd.toNat (BitVec.ofNat 64 c)

end Sys2Proof.Machine
end

