-- ==== Sys2Proof/Machine/WindowRows.lean ====
section
/-! DEFINITION. The rows of the task windows (chapter 17): submission, commands by opcode, structures that the host supplies, and the
registers of a completion ring. -/

namespace Sys2Proof.Machine

-- ## Submission (R354, R355)

/-- A write into TASK0 to TASK7. One that crosses the 64-byte block is discarded and logged (R452). -/
def taskWrite (s : State) (w : Window) (off : Nat) (bytes : List Byte) : State :=
  let port := fnPort s w.fn.val
  if (s.hport port).retry || !winServed s w || bytes.isEmpty then s
  else if 64 < off + bytes.length then s.updPort port HostPort.unsupported
  else
    let put := fun (W : Win) => W.task.take off ++ bytes ++ W.task.drop (off + bytes.length)
    if off + bytes.length < 64 then s.updWin w fun W => { W with task := put W }
    else if (s.win w).busy || !(s.win w).en then
      s.updWin w fun W => { W with dropped := W.dropped || W.busy, noRing := W.noRing || !W.en }
    else s.updWin w fun W => { W with task := put W, latched := put W, busy := true }

/-- TASK_SUBMIT. -/
def execTaskSubmit (w : Window) (off : BitVec 6) (bytes : List Byte) (s : State) : Host.Outcome State Fault Refusal :=
  ok (live s fun s => taskWrite s w off.toNat bytes)

/-- UNLISTED_OPCODE: the engine takes a command whose opcode is not listed, or not accepted by its window (R10). -/
def execUnlistedOpcode (w : Window) (s : State) : Host.Outcome State Fault Refusal :=
  ok (live s fun s =>
    match latchedOp s w with
    | some op => if winAccepts s w op then s else settle (takeLatched s w [])
    | none => s)

-- ## Commands by opcode

/-- LOAD_IMAGE: the engine takes the command. -/
def execLoadImage (w : Window) (s : State) : Host.Outcome State Fault Refusal := takeRow 0x10 w [] s
/-- UNLOAD_IMAGE: the engine takes the command. -/
def execUnloadImage (w : Window) (s : State) : Host.Outcome State Fault Refusal := takeRow 0x11 w [] s
/-- EXECUTE: the engine takes the command. -/
def execExecute (w : Window) (s : State) : Host.Outcome State Fault Refusal := takeRow 0x12 w [] s
/-- CANCEL: the engine takes the command. -/
def execCancel (w : Window) (s : State) : Host.Outcome State Fault Refusal := takeRow 0x13 w [] s
/-- RESUME: the engine takes the command. -/
def execResume (w : Window) (s : State) : Host.Outcome State Fault Refusal := takeRow 0x14 w [] s
/-- QUERY_STATUS: the engine takes the command. -/
def execQueryStatus (w : Window) (s : State) : Host.Outcome State Fault Refusal := takeRow 0x15 w [] s
/-- MAP: the engine takes the command. -/
def execMap (w : Window) (s : State) : Host.Outcome State Fault Refusal := takeRow 0x20 w [] s
/-- UNMAP: the engine takes the command. -/
def execUnmap (w : Window) (s : State) : Host.Outcome State Fault Refusal := takeRow 0x21 w [] s
/-- CELLAR_COPY: the engine takes the command. -/
def execCellarCopy (w : Window) (s : State) : Host.Outcome State Fault Refusal := takeRow 0x22 w [] s
/-- READ: the engine takes the command. -/
def execRead (w : Window) (s : State) : Host.Outcome State Fault Refusal := takeRow 1 w [] s
/-- FLUSH: the engine takes the command. -/
def execFlush (w : Window) (s : State) : Host.Outcome State Fault Refusal := takeRow 4 w [] s
/-- DEALLOCATE: the engine takes the command. -/
def execDeallocate (w : Window) (s : State) : Host.Outcome State Fault Refusal := takeRow 5 w [] s
/-- CREATE_NS: the engine takes the command. -/
def execCreateNs (w : Window) (s : State) : Host.Outcome State Fault Refusal := takeRow 0x40 w [] s
/-- DELETE_NS: the engine takes the command. -/
def execDeleteNs (w : Window) (s : State) : Host.Outcome State Fault Refusal := takeRow 0x41 w [] s
/-- ATTACH_NS: the engine takes the command. -/
def execAttachNs (w : Window) (s : State) : Host.Outcome State Fault Refusal := takeRow 0x42 w [] s
/-- IDENTIFY: the engine takes the command. -/
def execIdentify (w : Window) (s : State) : Host.Outcome State Fault Refusal := takeRow 0x43 w [] s
/-- GET_LOG: the engine takes the command. -/
def execGetLog (w : Window) (s : State) : Host.Outcome State Fault Refusal := takeRow 0x44 w [] s
/-- SET_FEATURE: the engine takes the command. -/
def execSetFeature (w : Window) (s : State) : Host.Outcome State Fault Refusal := takeRow 0x45 w [] s
/-- GET_FEATURE: the engine takes the command. -/
def execGetFeature (w : Window) (s : State) : Host.Outcome State Fault Refusal := takeRow 0x46 w [] s
/-- CASK_PREPARE_REMOVE: the engine takes the command. -/
def execCaskPrepareRemove (w : Window) (s : State) : Host.Outcome State Fault Refusal := takeRow 0x47 w [] s
/-- FW_STAGE: the engine takes the command. -/
def execFwStage (w : Window) (s : State) : Host.Outcome State Fault Refusal := takeRow 0x48 w [] s
/-- FW_COMMIT: the engine takes the command. -/
def execFwCommit (w : Window) (s : State) : Host.Outcome State Fault Refusal := takeRow 0x49 w [] s
/-- PARCEL_CREATE: the engine takes the command. -/
def execParcelCreate (w : Window) (s : State) : Host.Outcome State Fault Refusal := takeRow 0x4a w [] s
/-- PARCEL_DESTROY: the engine takes the command. -/
def execParcelDestroy (w : Window) (s : State) : Host.Outcome State Fault Refusal := takeRow 0x4b w [] s
/-- PARCEL_RESET: the engine takes the command. -/
def execParcelReset (w : Window) (s : State) : Host.Outcome State Fault Refusal := takeRow 0x4c w [] s
/-- WRITE: the engine takes the command, whose data the host supplies when it is asked for. -/
def execWrite (w : Window) (hostData : List Byte) (s : State) : Host.Outcome State Fault Refusal := takeRow 2 w hostData s

-- ## Structures from the host (R358)

/-- Whether a command waits for a structure of the host. -/
def Cmd.awaits (c : Cmd) : Bool :=
  (c.phase == .running || (c.phase == .waiting && c.begun && c.opcode == 0x12)) && c.fetched.isNone && c.structure_.isSome && !c.space

/-- A command goes on with its structure. -/
def withStruct (s : State) (c : Cmd) (bs : List Byte) : State :=
  let c := { c with fetched := some bs }
  let s := s.updCmd c.seq fun _ => c
  match c.opcode with
  | 0x12 => s
  | 0x40 => createNs s c bs
  | 0x48 => fwStage s c bs
  | 0x4A => createStart s c bs
  | _ => actStorage s c (c.parcel.getD 0)

/-- The read of a structure returns, or fails with `got` bytes read. While the link is down it fails (R461). -/
def dataRead (s : State) (w : Window) (tag : Nat) (r : ReadResult) (got : Nat) : State :=
  match s.cmds.find? fun c => c.win == w && c.tag == tag && c.awaits with
  | none => s
  | some c =>
    let (off, n) := c.structure_.getD (0, 0)
    let r := if linkUp s (winPort s w) then r else .error
    let s := noteRead s (winPort s w) r
    match r with
    | .error => endCmd s c sDMA_BUS_ERROR (structDetail got (c.f off 8 + got))
    | .poisoned => endCmd s c sPOISONED (structDetail got (c.f off 8 + got))
    | .data bs =>
      let rest := (List.range (n - bs.length)).map fun i => Config.hostByte s.freeCtr i
      withStruct { s with freeCtr := s.freeCtr + 1 } c (bs.take n ++ rest)

/-- COMMAND_DATA_READ. -/
def execCommandDataRead (w : Window) (tag : BitVec 16) (r : ReadResult) (got : Nat) (s : State) : Host.Outcome State Fault Refusal :=
  ok (live s fun s => settle (dataRead s w tag.toNat r got))

-- ## The completion ring (R370, Tables 19 to 23)

/-- Whether a requester reaches the registers of a window: its own function, or the firmware for the manager's. -/
def mayWin (s : State) (who : Who) (w : Window) : Bool :=
  winServed s w && match who with | .fn f => f == w.fn | .firmware _ => w.fn.val == mgrFn s

/-- MSI-X vectors of a function (R440). -/
def vectorsOf (s : State) (f : Nat) : Nat :=
  if f < 2 then 2048 else match vfParcel s (f - 1) with | some p => (s.parcel p).vectors | none => 0

/-- The conditions under which an enabled ring cannot change. -/
def ringBusy (s : State) (w : Window) : Bool := (s.win w).en && (outstanding s w != 0 || (s.win w).tail != (s.win w).head)

/-- Head, tail and phase as a ring begins. -/
def Win.ringStart (W : Win) : Win := { W with head := 0, tail := 0, phase := true }

/-- Write what waits and let commands go on. -/
def drainRing (s : State) (w : Window) : State := settle (drainWin (s.win w).waitQ.length s w)

/-- A write of TSK_CQ_CFG. -/
def cqCfg (s : State) (w : Window) (v : Word) : State :=
  let n := fld v 8 5
  if n < 4 || 16 < n || vectorsOf s w.fn.val ≤ fld v 16 11 || ringBusy s w then s.updWin w fun W => { W with cfgRefused := true }
  else
    let again := fbit v 0 && (!(s.win w).en || (s.win w).sizeLog2.toNat != n)
    let s := s.updWin w fun W => { W with
      en := fbit v 0, intEn := fbit v 1, sizeLog2 := BitVec.ofNat 5 n, vector := BitVec.ofNat 11 (fld v 16 11) }
    drainRing (if again then s.updWin w Win.ringStart else s) w

/-- TSK_CQ_CFG_WRITE. -/
def execTskCqCfgWrite (who : Who) (w : Window) (value : Word) (s : State) : Host.Outcome State Fault Refusal :=
  ok (live s fun s => if mayWin s who w then cqCfg s w value else s)

/-- A write of TSK_CQ_BASE. -/
def cqBase (s : State) (w : Window) (v : Word) : State :=
  if ringBusy s w then s.updWin w fun W => { W with cfgRefused := true }
  else
    let s := s.updWin w fun W => { W with base := mergeMask (~~~0xFFF) 0 v }
    if (s.win w).en then s.updWin w Win.ringStart else s

/-- TSK_CQ_BASE_WRITE. -/
def execTskCqBaseWrite (who : Who) (w : Window) (value : Word) (s : State) : Host.Outcome State Fault Refusal :=
  ok (live s fun s => if mayWin s who w then cqBase s w value else s)

/-- Whether a new head is outside the ring, or would put more entries in use. -/
def headBad (n tail old new : Nat) : Bool := decide (2 ^ n ≤ new) || decide ((tail + 2 ^ n - old) % 2 ^ n < (tail + 2 ^ n - new) % 2 ^ n)

/-- A write of TSK_CQ_HEAD. -/
def cqHead (s : State) (w : Window) (v : Word) : State :=
  let W := s.win w
  if headBad W.sizeLog2.toNat W.tail.toNat W.head.toNat (fld v 0 16) then s.updWin w fun W => { W with headErr := true }
  else drainRing (s.updWin w fun W => { W with head := BitVec.ofNat 16 (fld v 0 16) }) w

/-- TSK_CQ_HEAD_WRITE. -/
def execTskCqHeadWrite (who : Who) (w : Window) (value : Word) (s : State) : Host.Outcome State Fault Refusal :=
  ok (live s fun s => if mayWin s who w then cqHead s w value else s)

/-- A write of TSK_WPARCEL, which windows 1 to 63 of a PF0 have. -/
def wparcel (s : State) (w : Window) (v : Word) : State :=
  if 2 ≤ w.fn.val || w.w.val = 0 then s
  else if outstanding s w ≠ 0 then s.updWin w fun W => { W with cfgRefused := true }
  else s.updWin w fun W => { W with wparcel := BitVec.ofNat 6 (fld v 0 6), wvalid := fbit v 6 }

/-- TSK_WPARCEL_WRITE. -/
def execTskWparcelWrite (who : Who) (w : Window) (value : Word) (s : State) : Host.Outcome State Fault Refusal :=
  ok (live s fun s => if mayWin s who w && isManager s who then wparcel s w value else s)

end Sys2Proof.Machine
end

