-- ==== Sys2Proof/Machine/Event.lean ====
section
/-! DEFINITION. The registers of the event block (chapter 21): routes, pending bits, event rings, and the unmasking of a vector. -/

namespace Sys2Proof.Machine

/-- Whether a requester owns a source as a virtual function (R438, R448). -/
def ownsSource (s : State) (who : Who) (i : Nat) : Bool :=
  match who with
  | .fn f => decide (2 ≤ f.val) && srcOwner s i == .fn f.val
  | .firmware _ => false

/-- Whether a vector lies below the table of a destination function (R440); a record for the management complex has no table. -/
def vectorOk (s : State) (i dest v : Nat) : Bool :=
  if dest = 2 then true
  else
    match (if dest = 1 then Dest.fn (mgrFn s) else srcOwner s i) with
    | .fn f => decide (v < vectorsOf s f)
    | .mgmt => true

/-- A write of a route (R440, R442, R448): unmasking a pending source writes the record that the mask withheld. -/
def routeWrite (s : State) (i : Nat) (keepDest : Bool) (v : Word) : State :=
  let e := s.evSrc i
  let dest := if keepDest then e.dest.toNat else fld v 11 2
  let vec := fld v 0 11
  if dest = 3 || !vectorOk s i dest vec then { s with evt := { s.evt with routeErr := true } }
  else
    let s := s.updEvSrc i fun e => { e with
      vector := BitVec.ofNat 11 vec, dest := BitVec.ofNat 2 dest, mask := fbit v 13, masked := if fbit v 13 then e.masked else none }
    match (if e.mask && e.pending && !fbit v 13 then e.masked else none) with
    | some r => deliverRecord s r e.coalesced.toNat
    | none => s

/-- EVT_ROUTE_WRITE. -/
def execEvtRouteWrite (who : Who) (i : Fin 1280) (value : Word) (s : State) : Host.Outcome State Fault Refusal :=
  ok (live s fun s =>
    if isManager s who then routeWrite s i.val false value
    else if ownsSource s who i.val then routeWrite s i.val true value
    else s)

/-- Clear a source's pending bit and count (R443). -/
def clearSource (s : State) (i : Nat) : State := s.updEvSrc i fun e => { e with pending := false, owner := none, coalesced := 0, masked := none }

/-- EVT_PEND_CLEAR. -/
def execEvtPendClear (who : Who) (n : Fin 20) (value : Word) (s : State) : Host.Outcome State Fault Refusal :=
  ok (live s fun s =>
    (setBits 64 value.toNat).foldl (fun s b =>
      let i := 64 * n.val + b
      if isManager s who || ownsSource s who i then clearSource s i else s) s)

-- ## Event rings (R445)

/-- Whether a requester reaches the ring of a function. -/
def mayRing (s : State) (who : Who) (f : Nat) : Bool :=
  isManager s who || match who with | .fn g => g.val == f && decide (2 ≤ f) && (vfParcel s (f - 1)).isSome | .firmware _ => false

/-- The conditions under which an enabled ring cannot change. -/
def evRingBusy (R : EvRing) : Bool := R.en && (!R.waitQ.isEmpty || R.tail != R.head)
/-- Head, tail and phase as a ring begins. -/
def EvRing.ringStart (R : EvRing) : EvRing := { R with head := 0, tail := 0, phase := true }
/-- A ring register write was ignored. -/
def evRefused (s : State) : State := { s with evt := { s.evt with cfgRefused := true } }

/-- A write of EVT_RING_CFG. -/
def evRingCfg (s : State) (f : Nat) (v : Word) : State :=
  let R := s.evRing f
  let n := fld v 8 5
  if n < 4 || 16 < n || evRingBusy R then evRefused s
  else
    let again := fbit v 0 && (!R.en || R.sizeLog2.toNat != n)
    let s := s.updEvRing f fun R => { R with en := fbit v 0, sizeLog2 := BitVec.ofNat 5 n }
    let s := if again then s.updEvRing f EvRing.ringStart else s
    drainEvRing R.waitQ.length s f

/-- A write of EVT_RING_BASE. -/
def evRingBase (s : State) (f : Nat) (v : Word) : State :=
  if evRingBusy (s.evRing f) then evRefused s
  else
    let s := s.updEvRing f fun R => { R with base := mergeMask (~~~0xFFF) 0 v }
    if (s.evRing f).en then s.updEvRing f EvRing.ringStart else s

/-- EVT_RING_CFG_WRITE: a write of a ring's base or configuration. -/
def execEvtRingCfgWrite (who : Who) (f : FnId) (isBase : Bool) (value : Word) (s : State) : Host.Outcome State Fault Refusal :=
  ok (live s fun s => if !mayRing s who f.val then s else if isBase then evRingBase s f.val value else evRingCfg s f.val value)

/-- A write of EVT_RING_HEAD. -/
def evRingHead (s : State) (f : Nat) (v : Word) : State :=
  let R := s.evRing f
  if headBad R.sizeLog2.toNat R.tail.toNat R.head.toNat (fld v 0 16) then { s with evt := { s.evt with headErr := true } }
  else drainEvRing R.waitQ.length (s.updEvRing f fun R => { R with head := BitVec.ofNat 16 (fld v 0 16) }) f

/-- EVT_RING_HEAD_WRITE. -/
def execEvtRingHeadWrite (who : Who) (f : FnId) (value : Word) (s : State) : Host.Outcome State Fault Refusal :=
  ok (live s fun s => if mayRing s who f.val then evRingHead s f.val value else s)

/-- A vector is unmasked: a message that waited behind the mask is sent (R446). -/
def unmaskVector (s : State) (f v : Nat) : State :=
  let k := 2048 * f + v
  let e := Tab.get {} s.evt.msix k
  flushVector { s with evt := { s.evt with msix := Tab.set s.evt.msix k { e with mask := false } } } f v

/-- Whether a function writes its MSI-X table: a PF0, or a VF bound to a parcel (R224). -/
def mayMsix (s : State) (f : Nat) : Bool := decide (f < 2) || (vfParcel s (f - 1)).isSome

/-- MSIX_VECTOR_UNMASK. -/
def execMsixVectorUnmask (f : FnId) (v : BitVec 11) (s : State) : Host.Outcome State Fault Refusal :=
  ok (live s fun s =>
    if v.toNat < (if f.val < 2 then 2048 else 256) && mayMsix s f.val then unmaskVector s f.val v.toNat else s)

end Sys2Proof.Machine
end

