-- ==== Sys2Proof/Machine/HostPort.lean ====
section
/-! DEFINITION. The host ports' rows (chapter 22): links, PERST#, function-level resets, configuration requests and ordering reads. -/

namespace Sys2Proof.Machine

/-- The reset that a port's loss causes (R461): a warm reset on the manager's port, a port reset on the other. -/
def portLost (s : State) (port cause : Nat) : State := if port = mgrPort s then warmReset s cause else portReset s port

/-- A link that was up goes down: reads outstanding on the port end, and the port is lost. -/
def linkDown (s : State) (port : Nat) : State :=
  if !(s.hport port).linkUp then s
  else portLost (dropOrderReads (s.updPort port fun P => { P with linkUp := false }) port) port 6

/-- HOST_LINK_DOWN. -/
def execHostLinkDown (port : Port) (s : State) : Host.Outcome State Fault Refusal :=
  ok (live s fun s => settleFrom s (linkDown s (portNo port)))

/-- HOST_LINK_UP: a link trains while its port's PERST# is not asserted. -/
def execHostLinkUp (port : Port) (s : State) : Host.Outcome State Fault Refusal :=
  ok (live s fun s => if (s.hport (portNo port)).perst then s else s.updPort (portNo port) fun P => { P with linkUp := true })

/-- Whether a cold power-on or a PERST# reset runs: until the firmware is ready, or waits in recovery (R483). -/
def fundamentalRuns (s : State) : Bool := !s.pwr.stopped && decide (s.boot.stage ≤ 5) && (s.pwr.cause == 1 || s.pwr.cause == 2)

/-- PERST# of a port is asserted (Table 4 of chapter 24, R461, R481): a stopped engine restarts only when every rail is good, and one that has lost
VDD_AON only by a cold power-on (R475). A cold power-on or PERST# reset that runs absorbs it (R483). -/
def perstOn (s : State) (port : Nat) (mgrStrap bootSrc : Bool) : State :=
  let s := s.updPort port fun P => { P with perst := true, linkUp := false }
  if port = mgrPort s then
    if (s.pwr.stopped && s.pwr.good ≠ 0x3FF) || fundamentalRuns s then s else perstReset (dropOrderReads s port) mgrStrap bootSrc
  else live s fun s => portReset (dropOrderReads s port) port

/-- PERST_ASSERT, with the straps as the board holds them. -/
def execPerstAssert (port : Port) (mgrStrap bootSrc : Bool) (s : State) : Host.Outcome State Fault Refusal :=
  ok (settleFrom s (perstOn s (portNo port) mgrStrap bootSrc))

/-- PERST_DEASSERT: the boot goes on. -/
def execPerstDeassert (port : Port) (s : State) : Host.Outcome State Fault Refusal :=
  ok (bootBegin (s.updPort (portNo port) fun P => { P with perst := false }))

/-- PF0_FLR. -/
def execPf0Flr (port : Port) (s : State) : Host.Outcome State Fault Refusal :=
  ok (live s fun s => if (s.hport (portNo port)).linkUp then settleFrom s (portLost s (portNo port) 5) else s)

/-- HP_PORT (Table 5 of chapter 22). -/
def hpPort (s : State) (port : Nat) : Nat :=
  port + 2 * b2n (port == mgrPort s) + 4 * b2n s.ports.bifurcated + 8 * b2n (s.hport port).recovery
    + 16 * (if port = 0 then s.pcl.split.toNat else 64 - s.pcl.split.toNat)

/-- Whether PF0's configuration space holds a capability structure for a feature: for each of Table 1, for none of Table 2 (R449, R450). -/
def hasCapability : Capability → Bool
  | .msix => true
  | .sriov => true
  | .aer => true
  | .ptm => true
  | .ltr => true
  | .l0p => true
  | .readiness => true
  | .flr => true
  | .dvsec => true
  | .ide => false
  | .tdisp => false
  | .ats => false
  | .pri => false
  | .pasid => false
  | .cxl => false
  | .atomicOp => false
  | .aspmL0s => false
  | .aspmL1 => false
  | .l1Substates => false
  | .resizableBar => false
  | .acs => false
  | .dpc => false

/-- A field of a port's SR-IOV capability (R405). -/
def sriovField (s : State) (port : Nat) : SriovField → Nat
  | .firstVfOffset => 1
  | .vfStride => 1
  | .totalVfs => if port = 0 then s.pcl.split.toNat else 64 - s.pcl.split.toNat
  | .vfEnable => b2n (s.hport port).vfEnable

/-- What a PF0 says it is (R2). -/
def identity (s : State) : IdField → Nat
  | .vendorId => bits s.glb.part.id 0 16
  | .deviceId => s.glb.part.device
  | .classCode => (Config.classCode s.glb.part.device).toNat

/-- What the recovery personality says it is (R489). -/
def recoveryIdentity : IdField → Nat
  | .vendorId => 0x1F6E
  | .deviceId => 0x7F00
  | .classCode => 0x088000

/-- What a port's capabilities offer (Table 1): in port mode 1 each port has eight lanes (R451). -/
def portLimit (s : State) (port : Nat) : PortLimit → Nat
  | .rate => 128
  | .width => if s.ports.bifurcated then 8 else 16
  | .nonFlit => 0
  | .tag10 => 1
  | .tag14 => 1
  | .payload => 512
  | .readRequest => 4096
  | .readBoundary => 128
  | .timeout => 50000
  | .timeoutDisable => 0
  | .vectors => 2048
  | .outstanding => if (s.hport port).tag14 then 8192 else if (s.hport port).tag10 then 768 else 256

/-- A setting of a port's PF0. -/
def portSetting (P : HostPort) : PortSetting → Nat
  | .payload => P.payload
  | .readRequest => P.readRequest
  | .timeout => P.timeout
  | .tag10 => b2n P.tag10
  | .tag14 => b2n P.tag14

/-- A write of a setting: a value that Table 1 does not offer changes nothing. -/
def HostPort.set (P : HostPort) (x : PortSetting) (n : Nat) : HostPort :=
  match x with
  | .payload => if [128, 256, 512].contains n then { P with payload := n } else P
  | .readRequest => if [128, 256, 512, 1024, 2048, 4096].contains n then { P with readRequest := n } else P
  | .timeout => if 50 ≤ n && n ≤ 50000 then { P with timeout := n } else P
  | .tag10 => { P with tag10 := n != 0 }
  | .tag14 => { P with tag14 := n != 0 }

/-- The capabilities of a VF: those of Table 1 that the specification provides for a VF. -/
def vfCapability : Capability → Bool
  | .msix => true
  | .aer => true
  | .flr => true
  | _ => false

/-- A configuration request to VF `v` of a port: there is one while VF Enable is set and the VF is placed on the port; else the request is an
Unsupported Request. -/
def serveVf (s : State) (port v : Nat) (r : VfReq) : State :=
  if !((s.hport port).vfEnable && vfPort s v == port) then s.updPort port fun P => { P.unsupported with answer := .unsupported }
  else
    match r with
    | .capability c => { s with lastRead := BitVec.ofNat 64 (b2n (vfCapability c)) }
    | .msixControl enable mask => msixControl s (v + 1) enable mask

/-- What a configuration request that is served does: a read returns its field, a search 1 where the structure is found, and a write acts. An IDE
TLP is an Unsupported Request (R450). -/
def serveConfig (s : State) (port : Nat) : CfgReq → State
  | .identity f => { s with lastRead := BitVec.ofNat 64 (identity s f) }
  | .hpPort => { s with lastRead := BitVec.ofNat 64 (hpPort s port) }
  | .capability c => { s with lastRead := BitVec.ofNat 64 (b2n (hasCapability c)) }
  | .sriov f => { s with lastRead := BitVec.ofNat 64 (sriovField s port f) }
  | .setVfEnable b => s.updPort port fun P => { P with vfEnable := b }
  | .ideTlp => s.updPort port fun P => { P.unsupported with answer := .unsupported }
  | .limit l => { s with lastRead := BitVec.ofNat 64 (portLimit s port l) }
  | .setting x => { s with lastRead := BitVec.ofNat 64 (portSetting (s.hport port) x) }
  | .setSetting x n => s.updPort port fun P => P.set x n
  | .msixControl enable mask => msixControl s port enable mask
  | .aerError e => { s with lastRead := BitVec.ofNat 64 (b2n ((s.hport port).aerErrs.contains e)) }
  | .aerClear e => s.updPort port fun P => { P with aerErrs := P.aerErrs.filter fun x => x != e }
  | .vf v r => serveVf s port (v.val + 1) r

/-- What the recovery personality answers: its identity, HP_PORT, and of the capabilities the Ehrade DVSEC alone (R489). It serves no other
request, and has no VF. -/
def serveRecovery (s : State) (port : Nat) : CfgReq → State
  | .identity f => { s with lastRead := BitVec.ofNat 64 (recoveryIdentity f) }
  | .hpPort => { s with lastRead := BitVec.ofNat 64 (hpPort s port) }
  | .capability c => { s with lastRead := BitVec.ofNat 64 (b2n (c == .dvsec)) }
  | _ => s

/-- A configuration request reaches a port (R454, R489): while configuration retry lasts it meets retry, and in recovery the recovery
personality. -/
def configRequest (s : State) (port : Nat) (req : CfgReq) : State :=
  let P := s.hport port
  let answered := fun (a : CfgAnswer) => s.updPort port fun P => { P with answer := a }
  if !P.linkUp then s
  else if P.recovery then serveRecovery (answered .recovery) port req
  else if P.retry then answered .retry
  else serveConfig (answered .served) port req

/-- CONFIG_REQUEST. -/
def execConfigRequest (port : Port) (req : CfgReq) (s : State) : Host.Outcome State Fault Refusal :=
  ok (live s fun s => configRequest s (portNo port) req)

/-- The oldest ordering read of a port ends, with a completion or an error: the pennant that waits for it goes on (R458). -/
def orderReadDone (s : State) (port : Nat) : State :=
  match s.ports.orderReads.find? fun o => o.port == port with
  | none => s
  | some o =>
    let s := { s with ports := { s.ports with orderReads := s.ports.orderReads.erase o } }
    match s.cmd o.cmd with
    | some c => settle (drainWin (s.win c.win).waitQ.length s c.win)
    | none => s

/-- PORT_ORDER_READ_DONE: a failed read lets its pennant go as a good one does. -/
def execPortOrderReadDone (port : Port) (failed : Bool) (s : State) : Host.Outcome State Fault Refusal :=
  ok (live s fun s => orderReadDone (if failed then noteRead s (portNo port) .error else s) (portNo port))

end Sys2Proof.Machine
end

