-- ==== Sys2Proof/Machine/Mailbox.lean ====
section
/-! DEFINITION. Mailboxes and locks (chapter 20). -/

namespace Sys2Proof.Machine

-- ## Identities and reach (R420, R421, R223, R224)

/-- The requester of a register access (R421). -/
def whoRequester : Who → Requester
  | .fn f => .fn f
  | .firmware k => .core k

/-- The identity of a requester. -/
def whoId (s : State) (who : Who) : Nat := (whoRequester who).identity s

/-- The parcel bound to a requester that is a virtual function. -/
def whoParcel (s : State) (who : Who) : Option Nat :=
  match who with
  | .fn f => if f.val < 2 then none else vfParcel s (f.val - 1)
  | .firmware _ => none

/-- Whether a requester reaches the registers of a channel: the manager, the management cores, and the VF of the pair's parcel. -/
def reachesChan (s : State) (who : Who) (c : Nat) : Bool :=
  isManager s who || match whoParcel s who with | some p => (s.parcel p).mbxPair == c / 2 | none => false

/-- Whether a requester is the sender of a channel. -/
def isSender (s : State) (who : Who) (c : Nat) : Bool :=
  (s.mchan c).valid && (s.mchan c).sender.toNat == whoId s who && reachesChan s who c
/-- Whether a requester is the receiver of a channel. -/
def isReceiver (s : State) (who : Who) (c : Nat) : Bool :=
  (s.mchan c).valid && (s.mchan c).receiver.toNat == whoId s who && reachesChan s who c

-- ## Events (Table 5)

/-- The other channel of a pair: its number is that of the sender's side. -/
def otherChan (c : Nat) : Nat := if c % 2 = 0 then c + 1 else c - 1

/-- The arrival event on the receiver's side. -/
def arrival (s : State) (c : Nat) : State := if (s.mchan c).ctl.getLsbD 0 then raise s (1024 + c) 0 0 else s
/-- The taken event on the sender's side, with the status of the channel it is about. -/
def takenEvent (s : State) (c : Nat) : State := if (s.mchan c).ctl.getLsbD 1 then raiseWith s (1024 + otherChan c) 1 0 (mbxSts (s.mchan c)) else s
/-- The alarm event on both sides. -/
def alarm (s : State) (c : Nat) : State :=
  if (s.mchan c).ctl.getLsbD 2 then
    raiseWith (raise s (1024 + c) 2 0) (1024 + otherChan c) 2 0 (mbxSts (s.mchan c))
  else s

-- ## Messages (R423, R424, R426, R427)

/-- An access that the rule for other masters governs. -/
def deny (s : State) (c : Nat) : State := s.updMchan c fun C => { C with denied := true }

/-- The sender forms a message. -/
def placeMessage (s : State) (c : Nat) (v : Word) : State :=
  let C := s.mchan c
  let w := leBytes 8 v.toNat
  if C.full && C.fault then alarm (s.updMchan c fun C => { C with collision := true }) c
  else
    let t := s.updMchan c fun C => { C with held := C.staging ++ w, last := w, full := true, fault := false, staleDone := s.mbx.staleUs == 0 }
    if C.full then alarm (t.updMchan c fun C => { C with collision := true }) c else arrival t c

/-- A write to the message of a channel by a master that is not its sender: ignored, and recorded unless the master is its receiver (R424,
Table 4). -/
def otherWrite (s : State) (who : Who) (c : Nat) : State := if isReceiver s who c || !reachesChan s who c then s else deny s c

/-- MBX_SEND: a write that includes the last byte of MBX_MSG7. -/
def execMbxSend (who : Who) (c : MbxId) (value : Word) (s : State) : Host.Outcome State Fault Refusal :=
  ok (live s fun s => if isSender s who c.val then placeMessage s c.val value else otherWrite s who c.val)

/-- Write the fault records that wait, while the channel is empty and bound; stale ones are discarded and counted. -/
def nextFault : Nat → State → Nat → State
  | 0, s, _ => s
  | n + 1, s, c =>
    let C := s.mchan c
    match C.waiting, pairParcel s (c / 2) with
    | r :: rest, some p =>
      if !C.valid || C.full then s
      else
        let s := s.updMchan c fun C => { C with waiting := rest }
        if r.vintage ≠ (s.parcel p).vintage then nextFault n (countStale s p) c
        else arrival (s.updMchan c fun C => { C with held := r.bytes, full := true, fault := true, staleDone := s.mbx.staleUs == 0 }) c
    | _, _ => s

/-- Whether the next command is the sender's MBX_MSG7 write to a channel. -/
def sendFollows (s : State) (c : Nat) : Bool :=
  match s.pending with
  | .mbxSend who c' _ :: _ => c' == c && isSender s who c
  | _ => false

/-- The receiver takes the held message. A sender's write that follows at once may reach the channel in the same cycle: then it finds the channel
empty, and no held-back fault record comes before it (R425). Whether it does is free. -/
def takeMessage (s : State) (c : Nat) : State :=
  let C := s.mchan c
  if !C.full then s
  else
    let s := takenEvent (s.updMchan c fun C => { C with full := false, fault := false }) c
    if !C.waiting.isEmpty && sendFollows s c then
      let t := { s with freeCtr := s.freeCtr + 1 }
      if Config.freeBool s.freeCtr then t else nextFault C.waiting.length t c
    else nextFault C.waiting.length s c

/-- MBX_TAKE: a read that includes the last byte of MBX_MSG7. -/
def execMbxTake (who : Who) (c : MbxId) (s : State) : Host.Outcome State Fault Refusal :=
  ok (live s fun s =>
    let C := s.mchan c.val
    if isReceiver s who c.val then takeMessage { s with lastRead := BitVec.ofNat 64 (fieldAt C.held 56 8) } c.val
    else if isSender s who c.val then { s with lastRead := BitVec.ofNat 64 (leNat C.last) }
    else if reachesChan s who c.val then deny { s with lastRead := 0 } c.val
    else { s with lastRead := 0 })

/-- MBX_STALE_TIMEOUT: once for each message. -/
def execMbxStaleTimeout (c : MbxId) (s : State) : Host.Outcome State Fault Refusal :=
  ok (live s fun s =>
    let C := s.mchan c.val
    if C.full && !C.staleDone then alarm (s.updMchan c.val fun C => { C with stale := true, staleDone := true }) c.val else s)

-- ## Binding (R428, R429)

/-- A write of MBX_BIND. -/
def bindWrite (s : State) (c : Nat) (v : Word) : State :=
  if s.mbx.bindLock.getLsbD (c / 2) then { s with mbx := { s.mbx with bindRefused := true } }
  else
    let s := s.updMchan c fun C => { C with
      sender := BitVec.ofNat 16 (fld v 0 16), receiver := BitVec.ofNat 16 (fld v 16 16), valid := fbit v 32 }
    nextFault (s.mchan c).waiting.length s c

/-- MBX_BIND_WRITE. -/
def execMbxBindWrite (who : Who) (c : MbxId) (value : Word) (s : State) : Host.Outcome State Fault Refusal :=
  ok (live s fun s => if isManager s who then bindWrite s c.val value else s)

/-- MBX_BIND_LOCK_SET. -/
def execMbxBindLockSet (who : Who) (value : Word) (s : State) : Host.Outcome State Fault Refusal :=
  ok (live s fun s => if isManager s who then { s with mbx := { s.mbx with bindLock := s.mbx.bindLock ||| value } } else s)

-- ## Locks (R432 to R435)

/-- What a requester is to a lock. -/
inductive LockRole where
  | user | stranger | outside
  deriving DecidableEq, Repr

/-- The role of a requester: a user, a VF without the grant, or one that does not reach the block. -/
def lockRole (s : State) (who : Who) (n : Nat) : LockRole :=
  if isManager s who then .user
  else
    match whoParcel s who with
    | some p => if bitOf (Tab.get 0 s.mbx.grants n).toNat p then .user else .stranger
    | none => .outside

/-- A read of a lock: a free one is acquired. -/
def readLock (s : State) (who : Who) (n : Nat) : State :=
  match lockRole s who n with
  | .outside => { s with lastRead := 0 }
  | .stranger => { s with lastRead := BitVec.allOnes 64 }
  | .user =>
    match Tab.find s.mbx.locks n with
    | some o => { s with lastRead := BitVec.ofNat 64 (0x80000000 + o.toNat) }
    | none => { s with lastRead := 0, mbx := { s.mbx with locks := Tab.set s.mbx.locks n (BitVec.ofNat 16 (whoId s who)) } }

/-- LOCK_READ. -/
def execLockRead (who : Who) (n : Fin 64) (s : State) : Host.Outcome State Fault Refusal := ok (live s fun s => readLock s who n.val)

/-- Free a lock. -/
def freeLock (s : State) (n : Nat) : State := { s with mbx := { s.mbx with locks := s.mbx.locks.filter fun e => e.1 != n } }

/-- A write of a lock: a write of 0 by its owner releases it, every other is a violation. -/
def writeLock (s : State) (who : Who) (n : Nat) (v : Word) : State :=
  match lockRole s who n with
  | .outside => s
  | _ =>
    if v = 0 && Tab.find s.mbx.locks n == some (BitVec.ofNat 16 (whoId s who)) then freeLock s n
    else raiseGlobal { s with mbx := { s.mbx with violation := true, writer := BitVec.ofNat 16 (whoId s who), badLock := BitVec.ofNat 6 n } } 5 1

/-- LOCK_WRITE. -/
def execLockWrite (who : Who) (n : Fin 64) (value : Word) (s : State) : Host.Outcome State Fault Refusal :=
  ok (live s fun s => writeLock s who n.val value)

/-- A write of LCK_FORCE. -/
def forceLock (s : State) (v : Word) : State :=
  let n := fld v 0 6
  if fbit v 6 && (Tab.find s.mbx.locks n).isSome then
    raiseGlobal { freeLock s n with mbx := { (freeLock s n).mbx with forced := true } } 5 2
  else s

/-- LCK_FORCE. -/
def execLckForce (who : Who) (value : Word) (s : State) : Host.Outcome State Fault Refusal :=
  ok (live s fun s => if isManager s who then forceLock s value else s)

end Sys2Proof.Machine
end

