-- ==== Sys2Proof/Machine/MoverRows.lean ====
section
/-! DEFINITION. The rows of the data movers and of the walkers that let commands go on (chapters 12 and 13). -/

namespace Sys2Proof.Machine

/-- BURST_COMPLETE. -/
def execBurstComplete (g : GroupId) (c : ChanId) (r : ReadResult) (s : State) : Host.Outcome State Fault Refusal :=
  ok (live s fun s => settleFrom s (burstComplete s g c r))

/-- Whether an address is a host's, reached by posted writes. -/
def isHost (a : Nat) : Bool := match place a with | .host _ _ => true | _ => false

/-- DMA_BUS_ERROR: an access of the burst in flight ends in a bus error. A posted write to a host ends in none, and an access that a
parcel reset left behind only ends. -/
def execDmaBusError (g : GroupId) (c : ChanId) (dpa : Word) (onWrite : Bool) (s : State) : Host.Outcome State Fault Refusal :=
  ok (live s fun s =>
    if onWrite && isHost dpa.toNat then s
    else if (s.chan g c).burst.isNone then settleFrom s (oldBurstEnds s g c)
    else (busError s g c dpa.toNat onWrite).1)

/-- The oldest invalidation of a parcel completes, once the walks and accesses it waits for have drained: its register is free again, and
its command ends (R259, R260, R263). -/
def invalidated (s : State) (p : Nat) : State :=
  match (s.parcel p).invals with
  | [] => s
  | i :: rest =>
    if !invDrained s p i then s
    else
    let s := s.updParcel p fun P => { P with invals := rest }
    let s := match i.byReg, i.tile with
      | true, some t => s.updTile t fun T => { T with mmu := { T.mmu with invBusy := false } }
      | _, _ => s
    match i.cmd with
    | some q => endSeq s q sSUCCESS (zeros 16)
    | none => s

/-- INVALIDATION_COMPLETE. -/
def execInvalidationComplete (p : ParcelId) (s : State) : Host.Outcome State Fault Refusal :=
  ok (live s fun s => settle (invalidated s p))

/-- REDUCTION_APPLY: a controller applies the pending element with this number. The order among elements is the caller's (R168). -/
def execReductionApply (i : Nat) (s : State) : Host.Outcome State Fault Refusal :=
  ok (live s fun s =>
    match s.reds[i]? with
    | none => s
    | some r => settleFrom s (applyRed { s with reds := s.reds.eraseIdx i } r))

end Sys2Proof.Machine
end

