-- ==== Sys2Proof/Machine/ParcelRows.lean ====
section
/-! DEFINITION. The rows of the parcels (chapter 19), of image loading (chapter 03), and of the power states (chapter 18). -/

namespace Sys2Proof.Machine

-- ## Loading (chapter 03)

/-- Whether the host of a command can be read: the link of its port is up. -/
def hostReachable (s : State) (seq : Nat) : Bool := match s.cmd seq with | some c => c.space || linkUp s (winPort s c.win) | none => false

/-- IMAGE_STREAM_DATA. While the link is down, a read of the host fails (R461). -/
def execImageStreamData (p : ParcelId) (r : ReadResult) (s : State) : Host.Outcome State Fault Refusal :=
  ok (live s fun s =>
    match (s.parcel p).loader with
    | some L => settle (imageStream s p (if hostReachable s L.seq then r else .error))
    | none => s)

/-- TILEDATA_COPY_DONE. -/
def execTiledataCopyDone (p : ParcelId) (s : State) : Host.Outcome State Fault Refusal := ok (live s fun s => settle (copyDone s p))

-- ## Life of a parcel (R409, R415, R417)

/-- PARCEL_BUILD_DONE. -/
def execParcelBuildDone (p : ParcelId) (s : State) : Host.Outcome State Fault Refusal := ok (live s fun s => settle (buildDone s p))

/-- PARCEL_RESET_COMPLETE. -/
def execParcelResetComplete (p : ParcelId) (s : State) : Host.Outcome State Fault Refusal := ok (live s fun s => settle (resetDone s p))

/-- QUIESCING_END. -/
def execQuiescingEnd (p : ParcelId) (s : State) : Host.Outcome State Fault Refusal := ok (live s fun s => settle (quiescingEnd s p))

/-- VF_FLR: a function-level reset of VF v + 1. -/
def execVfFlr (v : Fin 64) (s : State) : Host.Outcome State Fault Refusal :=
  ok (live s fun s => settleFrom s (vfReset s (v.val + 1)))

-- ## Power states (R400 to R402)

/-- The timer of the next step down. -/
def Parcel.idleTimer (P : Parcel) : Nat :=
  match P.ps with
  | 0 => P.idle1.toNat
  | 1 => P.idle2.toNat
  | 2 => P.idle3.toNat
  | _ => 0

/-- PARCEL_IDLE_TIMEOUT: an idle parcel goes one power state down, unless the timer of the step is 0. -/
def execParcelIdleTimeout (p : ParcelId) (s : State) : Host.Outcome State Fault Refusal :=
  ok (live s fun s =>
    if parcelIdle s p && (s.parcel p).idleTimer != 0 then sendLtr (s.updParcel p fun P => { P with ps := P.ps + 1 }) else s)

/-- POWER_STATE_EXIT_DONE: commands that waited for the exit begin. -/
def execPowerStateExitDone (p : ParcelId) (s : State) : Host.Outcome State Fault Refusal :=
  ok (live s fun s => settle { s with cmds := s.cmds.map fun c => if c.parcel = some p.val then { c with wake := false } else c })

/-- Whether PS4 can be entered (R402). -/
def mayPs4 (s : State) : Bool :=
  s.pwr.ps4Idle != 0 && !s.pwr.ps4 && s.parcels.all (fun e => e.2.st != .active || e.2.ps == 3)
    && s.sto.sets.all fun e => e.2.moves.isEmpty && !e.2.recovering && e.2.opened.isEmpty

/-- PS4_IDLE_TIMEOUT. -/
def execPs4IdleTimeout (s : State) : Host.Outcome State Fault Refusal :=
  ok (live s fun s =>
    if mayPs4 s then
      let s := sendLtr { s with pwr := { s.pwr with ps4 := true } }
      if fbit s.pwr.ctl 1 then raiseGlobal s 2 1 else s
    else s)

-- ## PCL registers (Tables 7 to 12)

/-- PCL_FRAME_DIV: refused while an EXECUTE or LOAD_IMAGE is outstanding, out of range, or below the image's min_frame. -/
def frameDivWrite (s : State) (p : Nat) (v : Word) : State :=
  let d := fld v 0 7
  if parcelBusy s p || d = 0 || 64 < d || d * s.frm.period.toNat < (s.parcel p).image.minFrame then
    { s with pcl := { s.pcl with divErr := true } }
  else s.updParcel p fun P => { P with div := BitVec.ofNat 7 d }

/-- PCL_FRAME_DIV_WRITE. -/
def execPclFrameDivWrite (who : Who) (p : ParcelId) (value : Word) (s : State) : Host.Outcome State Fault Refusal :=
  ok (live s fun s => if isManager s who then frameDivWrite s p value else s)

/-- A write of PCL_PARK_LIMIT: a write of 0 is ignored. -/
def parkLimitWrite (s : State) (p : Nat) (v : Word) : State :=
  if fld v 0 16 = 0 then { s with pcl := { s.pcl with parkErr := true } }
  else s.updParcel p fun P => { P with park := BitVec.ofNat 16 (fld v 0 16) }

/-- PCL_PARK_LIMIT_WRITE. -/
def execPclParkLimitWrite (who : Who) (p : ParcelId) (value : Word) (s : State) : Host.Outcome State Fault Refusal :=
  ok (live s fun s => if isManager s who then parkLimitWrite s p value else s)

/-- PCL_VF_SPLIT: refused while VF Enable is set, while a VF is bound, or above 64. -/
def vfSplitWrite (s : State) (v : Word) : State :=
  if 64 < fld v 0 7 || s.ports.hpa.vfEnable || s.ports.hpb.vfEnable || s.parcels.any fun e => e.2.holds && e.2.vf != 0 then
    { s with pcl := { s.pcl with splitErr := true } }
  else { s with pcl := { s.pcl with split := BitVec.ofNat 7 (fld v 0 7) } }

/-- PCL_VF_SPLIT_WRITE. -/
def execPclVfSplitWrite (who : Who) (value : Word) (s : State) : Host.Outcome State Fault Refusal :=
  ok (live s fun s => if isManager s who then vfSplitWrite s value else s)

/-- A write of PCL_IDLE_T1, T2 or T3. -/
def idleWrite (s : State) (p i : Nat) (v : Word) : State :=
  let us := BitVec.ofNat 32 (fld v 0 32)
  s.updParcel p fun P =>
    match i with
    | 0 => { P with idle1 := us }
    | 1 => { P with idle2 := us }
    | _ => { P with idle3 := us }

/-- PCL_IDLE_WRITE. -/
def execPclIdleWrite (who : Who) (p : ParcelId) (i : Fin 3) (value : Word) (s : State) : Host.Outcome State Fault Refusal :=
  ok (live s fun s => if isManager s who then idleWrite s p i.val value else s)

-- ## Settings of the service and the dispatcher

/-- STO_CTL: ignored whole when a field is out of range (chapter 18, Table 10). -/
def stoCtlWrite (s : State) (v : Word) : State :=
  if fld v 0 16 = 0 || fld v 16 8 = 0 || 50 < fld v 16 8 then { s with sto := { s.sto with paramErr := true } }
  else { s with sto := { s.sto with closeUs := BitVec.ofNat 16 (fld v 0 16), reservePct := BitVec.ofNat 8 (fld v 16 8), setEvEn := fbit v 24 } }

/-- STO_CTL_WRITE. -/
def execStoCtlWrite (who : Who) (value : Word) (s : State) : Host.Outcome State Fault Refusal :=
  ok (live s fun s => if isManager s who then stoCtlWrite s value else s)

/-- DSP_AFF_DEPTH: a depth above 4 is ignored (chapter 09, Table 9). -/
def affDepthWrite (s : State) (v : Word) : State :=
  if 4 < fld v 0 3 then { s with dsp := { s.dsp with paramErr := true } }
  else { s with dsp := { s.dsp with affDepth := BitVec.ofNat 16 (fld v 0 3) } }

/-- DSP_AFF_DEPTH_WRITE. -/
def execDspAffDepthWrite (who : Who) (value : Word) (s : State) : Host.Outcome State Fault Refusal :=
  ok (live s fun s => if isManager s who then affDepthWrite s value else s)

end Sys2Proof.Machine
end

