-- ==== Sys2Proof/Machine/Package.lean ====
section
/-! DEFINITION. The ball map of the package (chapter 25, R491 to R496). -/

namespace Sys2Proof.Machine

/-- The row letters of one range of row indices, in order: those of Table 1 leave out I, O, Q, R, S, X and Z. -/
def rowAlphabet : List Char := ['A', 'B', 'C', 'D', 'E', 'F', 'G', 'H', 'J', 'K', 'L', 'M', 'N', 'P', 'T', 'U', 'V', 'W', 'Y']

/-- The letters of a row index, 1 to 71 (R492, Table 1). -/
def rowLetters (r : Nat) : List Char :=
  let one := (rowAlphabet[(r - 1) % 19]?).toList
  if r ≤ 19 then one else if r ≤ 38 then 'A' :: one else if r ≤ 57 then 'B' :: one else 'C' :: one

/-- A ball: its row index and its column, each 1 to 71. -/
structure Ball where
  row : Nat
  col : Nat
  deriving DecidableEq, Repr

/-- The name of a ball: its row letters, then its column (R492). -/
def Ball.name (b : Ball) : String := String.ofList (rowLetters b.row) ++ toString b.col

/-- Whether a position of the grid carries a ball (R491): the square of rows AE to BK and columns 24 to 48 carries none. -/
def Ball.populated (b : Ball) : Bool :=
  decide (1 ≤ b.row) && decide (b.row ≤ 71) && decide (1 ≤ b.col) && decide (b.col ≤ 71)
    && !(decide (24 ≤ b.row) && decide (b.row ≤ 48) && decide (24 ≤ b.col) && decide (b.col ≤ 48))

/-- The groups of Table 2. -/
inductive BallGroup where
  | sideband | vddAon | vddIo18 | vddaPll | hpaLane | hpbLane | caskLane | cskRefclk | vddaSer | vddaSerh | vddHbmc | vddHbmq | vppHbm | rsvd
  | vddSram | vddCore | vss
  deriving DecidableEq, Repr

/-- The four signals of a SerDes lane. -/
inductive LaneSignal where
  | txp | txn | rxp | rxn
  deriving DecidableEq, Repr

/-- A signal's ball in the two rows by four columns of a lane whose block begins at a ball (R494). -/
def LaneSignal.ball (x : LaneSignal) (b : Ball) : Ball :=
  match x with
  | .txp => b
  | .txn => { b with col := b.col + 1 }
  | .rxp => { row := b.row + 1, col := b.col + 2 }
  | .rxn => { row := b.row + 1, col := b.col + 3 }

/-- The first ball of lane `l`, 0 to 15, of a host port: row index 5 begins HPA's, 21 HPB's (R494). -/
def hostLane (port l : Nat) : Ball := { row := (if port = 0 then 5 else 21) + 2 * (l / 2), col := 1 + 4 * (l % 2) }
/-- The first ball of lane `j`, 0 to 3, of cask port `n` (R494). -/
def caskLane (n j : Nat) : Ball := { row := 1 + 2 * ((4 * n + j) / 2), col := 64 + 4 * ((4 * n + j) % 2) }
/-- CSK_REFCLK_P of port `n`; CSK_REFCLK_N lies in the next column (R494). -/
def refclkBall (n : Nat) : Ball := { row := 65 + n / 4, col := 64 + 2 * (n % 4) }

/-- The lane of the host port that the balls of a lane carry: in port mode 1, HPA lanes 8 to 15 carry HPB lanes 0 to 7 (R494, R451). -/
def laneOwner (bifurcated : Bool) (port l : Nat) : Option (Nat × Nat) :=
  if !bifurcated then some (port, l) else if port = 1 then none else if l < 8 then some (0, l) else some (1, l - 8)

/-- CSK_PERST#, CSK_PRSNT# and CSK_ATTN# of port `n` (R495). -/
def perstBall (n : Nat) : Ball := { row := 2, col := n + 1 }
/-- CSK_PRSNT# of a port. -/
def prsntBall (n : Nat) : Ball := { row := 3, col := n + 1 }
/-- CSK_ATTN# of a port. -/
def attnBall (n : Nat) : Ball := { row := 4, col := n + 1 }

/-- Whether a position holds a signal of a lane block whose first row and column have the parities of a region that begins there. -/
def isLaneSignal (r0 c0 : Nat) (b : Ball) : Bool :=
  if (b.row - r0) % 2 = 0 then decide ((b.col - c0) % 4 < 2) else decide (2 ≤ (b.col - c0) % 4)

/-- The group of a ball (R493, Table 2); none where the grid carries no ball. -/
def Ball.group (b : Ball) : Option BallGroup :=
  let rows := fun (lo hi : Nat) => decide (lo ≤ b.row) && decide (b.row ≤ hi)
  let cols := fun (lo hi : Nat) => decide (lo ≤ b.col) && decide (b.col ≤ hi)
  let even := (b.row + b.col) % 2 == 0
  if !b.populated then none
  else if (rows 1 1 && cols 1 24) || (rows 2 4 && cols 1 16) || (rows 2 2 && cols 17 22) || (rows 3 3 && cols 17 20) then some .sideband
  else if rows 4 4 && cols 17 22 then some .vddAon
  else if rows 3 4 && cols 23 24 then some .vddIo18
  else if (rows 2 2 && cols 23 24) || (rows 3 3 && cols 21 22) then some .vddaPll
  else if rows 5 20 && cols 1 8 then some (if isLaneSignal 5 1 b then .hpaLane else .vss)
  else if rows 21 36 && cols 1 8 then some (if isLaneSignal 21 1 b then .hpbLane else .vss)
  else if rows 1 64 && cols 64 71 then some (if isLaneSignal 1 64 b then .caskLane else .vss)
  else if rows 65 68 && cols 64 71 then some .cskRefclk
  else if (rows 37 60 && cols 1 2) || (rows 69 70 && cols 64 71) then some .vddaSer
  else if (rows 61 68 && cols 1 2) || (rows 71 71 && cols 64 71) then some .vddaSerh
  else if (rows 2 2 && cols 25 63) || ((rows 6 6 || rows 65 65 || rows 69 69) && cols 9 63) then some .vddHbmc
  else if (rows 4 4 && cols 25 63) || ((rows 8 8 || rows 67 67) && cols 9 63) then some .vddHbmq
  else if (rows 1 1 && cols 25 32) || (rows 71 71 && cols 9 16) then some .vppHbm
  else if rows 71 71 && cols 17 32 then some .rsvd
  else if (rows 9 11 || rows 61 63) && cols 9 63 && even then some .vddSram
  else if rows 12 60 && cols 9 63 && even then some .vddCore
  else some .vss

/-- Balls of a group. -/
def groupCount (g : BallGroup) : Nat :=
  (List.range 71).foldl (fun n r => n + ((List.range 71).filter fun c => (Ball.mk (r + 1) (c + 1)).group == some g).length) 0

/-- The first row of Table 3, column by column. -/
def firstRow : List String :=
  ["THERMTRIP#", "PERST_HPA#", "PERST_HPB#", "MGR_PORT", "BOOT_SRC", "I3C_SCL", "I3C_SDA", "TCK", "TMS", "TDI", "TDO", "TRST#", "XSPI_CLK", "XSPI_CS#",
    "XSPI_DQS", "XSPI_RESET#", "XSPI_DQ0", "XSPI_DQ1", "XSPI_DQ2", "XSPI_DQ3", "XSPI_DQ4", "XSPI_DQ5", "XSPI_DQ6", "XSPI_DQ7"]

/-- The signal of a sideband ball (R495, Table 3). -/
def Ball.sideband (b : Ball) : Option String :=
  let port := fun (name : String) => some (name ++ "[" ++ toString (b.col - 1) ++ "]")
  match b.row with
  | 1 => if b.col = 0 then none else firstRow[b.col - 1]?
  | 2 => if b.col ≤ 16 then port "CSK_PERST#"
    else (["REFCLK_HPA_P", "REFCLK_HPA_N", "REFCLK_HPB_P", "REFCLK_HPB_N", "REFCLK_SYS_P", "REFCLK_SYS_N"] : List String)[b.col - 17]?
  | 3 => if b.col ≤ 16 then port "CSK_PRSNT#"
    else (["VDD_CORE_SNS_NTH", "VDD_CORE_SNS_STH", "VSS_SNS_NTH", "VSS_SNS_STH"] : List String)[b.col - 17]?
  | 4 => if b.col ≤ 16 then port "CSK_ATTN#" else none
  | _ => none

/-- Types of sideband balls (R495, Table 3). -/
inductive BallType where
  | openDrain | input | strap | i3c | threeState | output | bidirectional | hcsl | sense | pushPull
  deriving DecidableEq, Repr

/-- Internal pulls of sideband balls (R495, Table 3). -/
inductive BallPull where
  | none | up | down
  deriving DecidableEq, Repr

/-- The types and pulls of Table 3's first row, column by column. -/
def firstRowTypes : List (BallType × BallPull) :=
  [(.openDrain, .none), (.input, .down), (.input, .down), (.strap, .down), (.strap, .down), (.i3c, .none), (.i3c, .none), (.input, .down), (.input, .up),
    (.input, .up), (.threeState, .none), (.input, .down), (.output, .none), (.output, .up), (.bidirectional, .down), (.output, .none)]
    ++ List.replicate 8 (.bidirectional, .none)

/-- The type and the internal pull of a sideband ball (R495). -/
def Ball.kind (b : Ball) : Option (BallType × BallPull) :=
  match b.row with
  | 1 => if b.col = 0 then none else firstRowTypes[b.col - 1]?
  | 2 => if b.col = 0 then none else if b.col ≤ 16 then some (.pushPull, .none) else if b.col ≤ 22 then some (.hcsl, .none) else none
  | 3 => if b.col = 0 then none else if b.col ≤ 16 then some (.input, .up) else if b.col ≤ 20 then some (.sense, .none) else none
  | 4 => if b.col = 0 then none else if b.col ≤ 16 then some (.openDrain, .none) else none
  | _ => none

/-- Whether a sideband ball is referred to VDD_IO18: every one but the HCSL clocks and the sense balls (R495). -/
def Ball.io18 (b : Ball) : Bool := match b.kind with | some (t, _) => t != .hcsl && t != .sense | none => false

/-- The cask port of a ball of its lanes or of its clock (R494). -/
def Ball.caskPort (b : Ball) : Option Nat :=
  match b.group with
  | some .caskLane => some (((b.row - 1) / 2 * 2 + (b.col - 64) / 4) / 4)
  | some .cskRefclk => some (4 * (b.row - 65) + (b.col - 64) / 2)
  | _ => none

/-- Whether a ball must be left unconnected (R496): RSVD, the lanes and the clock of a cask port that the part fuses off, the lanes of a port whose
slot the board has not fitted, and the lanes of HPB in port mode 1, which HPA's carry. -/
def Ball.unconnected (s : State) (b : Ball) : Bool :=
  match b.group, b.caskPort with
  | some .rsvd, _ => true
  | some .hpbLane, _ => s.ports.bifurcated
  | some .caskLane, some n => !caskPresent s n || !s.pkg.slots.getLsbD n
  | some .cskRefclk, some n => !caskPresent s n
  | _, _ => false

-- ## The boundary register (R506)

/-- The level that the engine's own logic drives on a sideband output, or that the board holds on an input, where the model has it: the straps and
PERST# of the host ports, THERMTRIP#, and CSK_PERST#, CSK_PRSNT# and CSK_ATTN# of the cask ports. -/
def Ball.ownLevel (s : State) (b : Ball) : Option Bool :=
  match b.row with
  | 1 =>
    match b.col with
    | 1 => some !s.pwr.thermtrip
    | 2 => some !s.ports.hpa.perst
    | 3 => some !s.ports.hpb.perst
    | 4 => some s.boot.mgrHpb
    | 5 => some s.boot.bootSrc
    | _ => none
  | 2 => if 1 ≤ b.col && b.col ≤ 16 then some !(cskPerstLow s (b.col - 1)) else none
  | 3 => if 1 ≤ b.col && b.col ≤ 16 then some !(s.cask (b.col - 1)).present else none
  | 4 => if 1 ≤ b.col && b.col ≤ 16 then some !((s.cask (b.col - 1)).locate || (s.cask (b.col - 1)).blinkLow) else none
  | _ => none

/-- Whether a sideband ball is an output. -/
def Ball.drives (b : Ball) : Bool :=
  match b.kind with
  | some (t, _) => t == .openDrain || t == .pushPull || t == .output || t == .threeState
  | none => false

/-- The level of a sideband ball (R506): an output is driven by the engine's logic, by the boundary register, or by nothing. -/
def Ball.level (s : State) (b : Ball) : Option Bool :=
  if !b.drives then b.ownLevel s
  else
    match s.pkg.drive with
    | .functional => b.ownLevel s
    | .boundary => (s.pkg.preloaded.find? fun x => x.1 == (b.row, b.col)).map (·.2)
    | .highz => none

/-- The sideband balls whose levels the boundary register captures. -/
def boundaryBalls : List Ball :=
  (List.range 5).map (fun c => { row := 1, col := c + 1 }) ++ (List.range 3).flatMap fun r => (List.range 16).map fun c => { row := r + 2, col := c + 1 }

/-- The levels that the boundary register captures. -/
def captureLevels (s : State) : List ((Nat × Nat) × Bool) :=
  boundaryBalls.filterMap fun b => (b.level s).map fun v => ((b.row, b.col), v)

end Sys2Proof.Machine
end

