-- ==== Sys2Proof/Machine/PowerRows.lean ====
section
/-! DEFINITION. The rows of power, reset and boot (chapters 24 and 25): rails, clocks, temperature, resets, the firmware's release of retry,
recovery, and the test access port. -/

namespace Sys2Proof.Machine

-- ## Rails and clocks (R475, R499)

/-- COLD_POWER_ON: VDD_AON rises through 90 %. -/
def execColdPowerOn (mgrStrap bootSrc : Bool) (s : State) : Host.Outcome State Fault Refusal := ok (coldReset s mgrStrap bootSrc)

/-- VDD_AON falls: nothing runs until the next cold power-on. -/
def aonLoss (s : State) : State := s.updPwr fun P => { P with good := 0, railsGood := false, stopped := true, down := BitVec.allOnes 10 }

/-- VDD_AON_LOSS. -/
def execVddAonLoss (s : State) : Host.Outcome State Fault Refusal := ok (aonLoss s)

/-- RAILS_GOOD: every rail is within its tolerance; the boot ROM goes on. After a loss of VDD_AON a cold power-on comes first (R475). -/
def execRailsGood (s : State) : Host.Outcome State Fault Refusal :=
  ok (aonLive s fun s => bootBegin (s.updPwr fun P => { P with good := 0x3FF, railsGood := true, down := 0 }))

/-- A rail leaves its tolerance: after boot, every clock outside the always-on domain stops. Rail 0 is VDD_AON. An engine already stopped, as by a
thermal trip that the board answers by taking the rails away (R480), did not stop for the rail. -/
def railLoss (s : State) (r : Nat) : State :=
  let m := BitVec.ofNat 10 (2 ^ r)
  if r = 0 then aonLoss s
  else if s.boot.stage = 0 then s.updPwr fun P => { P with good := P.good &&& ~~~m, railsGood := false, down := P.down ||| m }
  else s.updPwr fun P => { P with
    good := P.good &&& ~~~m, railsGood := false, down := P.down ||| m, lost := P.lost ||| m, stopped := true, railStop := P.railStop || !P.stopped }

/-- RAIL_LOSS. -/
def execRailLoss (r : Fin 10) (s : State) : Host.Outcome State Fault Refusal := ok (aonLive s fun s => railLoss s r.val)

/-- REFCLK_SYS_LOSS: the engine stops as on a rail loss, and no lost bit is set. -/
def execRefclkSysLoss (s : State) : Host.Outcome State Fault Refusal :=
  ok (aonLive s fun s => s.updPwr fun P => { P with stopped := true, railStop := P.railStop || !P.stopped })

-- ## Temperature (R479, R480)

/-- PWR_CTL.twarn and stack_warn. -/
def twarnOf (s : State) : Nat := fld s.pwr.ctl 8 8
/-- PWR_CTL.stack_warn. -/
def stackWarnOf (s : State) : Nat := fld s.pwr.ctl 16 8

/-- The warning bits of PWR_STS follow the sensors and the thresholds; cause 2 of THERMAL is due once a die has been at twarn. -/
def warnBits (s : State) : State :=
  let warm := s.pwr.dies.any fun d => decide (twarnOf s ≤ d)
  s.updPwr fun P => { P with
    twarn := warm, hot := P.hot || warm
    stackWarn := (List.range 8).any fun k => stackPresent s k && decide (stackWarnOf s ≤ (s.stack k).temp) }

/-- A THERMAL event of R479. -/
def thermal (s : State) (cause : Nat) : State := if fbit s.pwr.ctl 0 then raiseGlobal s 3 cause else s

/-- New readings of a die and of a stack. -/
def temperatures (s : State) (die dieTemp k stackTemp : Nat) : State :=
  let dieUp := decide ((s.pwr.dies[die]?).getD 0 < twarnOf s) && decide (twarnOf s ≤ dieTemp)
  let stackUp := stackPresent s k && decide ((s.stack k).temp < stackWarnOf s) && decide (stackWarnOf s ≤ stackTemp)
  let s := s.updPwr fun P => { P with dies := P.dies.set die dieTemp }
  let s := if stackPresent s k then s.updStack k fun K => { K with temp := stackTemp } else s
  let s := warnBits { s with hlt := { s.hlt with peak := max s.hlt.peak (max dieTemp (if stackPresent s k then stackTemp else 0)) } }
  let s := if dieUp then thermal s 1 else s
  let s := if s.pwr.hot && s.pwr.dies.all fun d => decide (d + 3 ≤ twarnOf s) then thermal (s.updPwr fun P => { P with hot := false }) 2 else s
  if stackUp then thermal s 3 else s

/-- The trip of R480: a reading of 112 °C or more stops the engine and is recorded. -/
def thermalTrip (s : State) (die : Nat) (temp : BitVec 8) : State :=
  let s := { s with hlt := { s.hlt with peak := max s.hlt.peak temp.toNat } }
  warnBits (s.updPwr fun P => { P with
    stopped := true, thermtrip := true, tripTemp := temp, tripSensor := BitVec.ofNat 2 die, tripValid := true
    dies := P.dies.set die temp.toNat })

/-- TEMPERATURE_UPDATE: a reading of 112 °C or more trips, before anything else comes of the readings. The sensors and the trip are of the always-on
domain, and watch on while the other clocks are stopped; a trip already latched is not latched again. -/
def execTemperatureUpdate (die : Fin 3) (dieTemp : BitVec 8) (k : StackId) (stackTemp : BitVec 8) (s : State) : Host.Outcome State Fault Refusal :=
  ok (aonLive s fun s =>
    if 112 ≤ dieTemp.toNat && !s.pwr.thermtrip then thermalTrip s die.val dieTemp
    else temperatures s die.val dieTemp.toNat k.val stackTemp.toNat)

/-- THERMAL_TRIP: the first reading is latched. -/
def execThermalTrip (die : Fin 3) (temp : BitVec 8) (s : State) : Host.Outcome State Fault Refusal :=
  ok (aonLive s fun s => if temp.toNat < 112 || s.pwr.thermtrip then s else thermalTrip s die.val temp)

-- ## Resets (R482, R484) and boot (R488, R489)

/-- A write of RST_CTL: a warm reset where the key is right. -/
def rstCtlWrite (s : State) (v : Word) : State := if fbit v 0 && fld v 8 8 == 0xA5 then warmReset s 3 else s

/-- RST_CTL_WRITE. -/
def execRstCtlWrite (who : Who) (value : Word) (s : State) : Host.Outcome State Fault Refusal :=
  ok (live s fun s => if isManager s who then settleFrom s (rstCtlWrite s value) else s)

/-- WATCHDOG_EXPIRY. -/
def execWatchdogExpiry (s : State) : Host.Outcome State Fault Refusal := ok (live s fun s => settleFrom s (warmReset s 7))

/-- FIRMWARE_READY: the release of configuration retry, `micros` after PERST#, with the stacks that failed their training. -/
def execFirmwareReady (micros : BitVec 32) (failedStacks : BitVec 8) (s : State) : Host.Outcome State Fault Refusal :=
  ok (live s fun s => settle (firmwareReady s micros.toNat failedStacks.toNat))

/-- A write of BOOT_REC_CTL in the recovery personality. -/
def recCtlWrite (s : State) (v : Word) (failed : Bool) : State :=
  if fbit v 0 then recGo (s.updBoot fun B => { B with recDone := false, recPass := false }) failed else s

/-- BOOT_REC_GO: the recovery host writes BOOT_REC_CTL. -/
def execBootRecGo (g : RecGo) (s : State) : Host.Outcome State Fault Refusal :=
  ok (live s fun s => if s.boot.stage = 7 then recCtlWrite s g.value g.failed else s)

-- ## PWR registers (Tables 12 and 13)

/-- A write of PWR_CTL: ignored whole with a threshold out of range. -/
def pwrCtlWrite (s : State) (v : Word) : State :=
  let t := fld v 8 8
  let k := fld v 16 8
  if t < 60 || 105 < t || k < 60 || 95 < k then s.updPwr fun P => { P with paramErr := true }
  else warnBits (s.updPwr fun P => { P with ctl := mergeMask 0xFFFF03 0 v })

/-- PWR_CTL_WRITE. -/
def execPwrCtlWrite (who : Who) (value : Word) (s : State) : Host.Outcome State Fault Refusal :=
  ok (live s fun s => if isManager s who then pwrCtlWrite s value else s)

/-- A write of PWR_PS4_IDLE. -/
def ps4IdleWrite (s : State) (v : Word) : State := s.updPwr fun P => { P with ps4Idle := BitVec.ofNat 32 (fld v 0 32) }

/-- PWR_PS4_IDLE_WRITE. -/
def execPwrPs4IdleWrite (who : Who) (value : Word) (s : State) : Host.Outcome State Fault Refusal :=
  ok (live s fun s => if isManager s who then ps4IdleWrite s value else s)

-- ## The test access port (R506, Table 7 of chapter 25)


/-- The opcode of an instruction; what is not listed is BYPASS. Test-Logic-Reset selects IDCODE. -/
def tapCode (i : TapInstr) : Nat :=
  match i with
  | .idcode => 1
  | .reset => 1
  | .sample => 2
  | .preload _ => 2
  | .extest => 3
  | .highz => 6
  | .clamp => 7
  | .bypass => 0xFF
  | .other c => if 1 ≤ c.toNat && c.toNat ≤ 7 then c.toNat else 0xFF

/-- What an instruction lets drive the outputs: EXTEST, EXTEST_PULSE, EXTEST_TRAIN and CLAMP the boundary register, HIGHZ nothing. -/
def tapDrive (c : Nat) : PinDrive := if c = 6 then .highz else if 3 ≤ c && c ≤ 7 then .boundary else .functional

/-- A TAP instruction is loaded: IDCODE selects the identification, SAMPLE/PRELOAD and the EXTEST instructions capture the levels of the balls in the
boundary register, and PRELOAD fills it; the instructions that drive the outputs stop the clocks. -/
def tapLoad (s : State) (i : TapInstr) : State :=
  let c := tapCode i
  let s := { s with pkg := { s.pkg with
    tap := c, tapDr := if c = 1 then BitVec.ofNat 32 (idcode s) else 0
    captured := if 2 ≤ c && c ≤ 5 then captureLevels s else s.pkg.captured
    preloaded := match i with | .preload l => l | _ => s.pkg.preloaded
    drive := tapDrive c } }
  if 3 ≤ c && c ≤ 7 then { s with pkg := { s.pkg with scan := true }, pwr := { s.pwr with stopped := true } } else s

/-- TAP_INSTRUCTION_LOAD. The access port is powered from VDD_IO18. -/
def execTapInstructionLoad (i : TapInstr) (s : State) : Host.Outcome State Fault Refusal :=
  ok (if s.pwr.down.getLsbD 1 then s else tapLoad s i)

end Sys2Proof.Machine
end

