-- ==== Sys2Proof/Machine/RegMap.lean ====
section
/-! DEFINITION. Where the registers lie: the layouts of PF0 BAR0, of a virtual function's BAR0 and of the recovery personality
(R223, R224, R448, R489; Tables 16 and 17 of chapter 10, Table 5 of 19, Table 14 of 20). -/

namespace Sys2Proof.Machine

/-- A register, by its block and its offset within it; offsets are multiples of 8. -/
inductive Loc where
  | glb (o : Nat) | frm (o : Nat) | pwr (o : Nat) | rst (o : Nat) | boot (o : Nat) | hlt (o : Nat)
  | route (i : Nat) | pend (n : Nat) | evt (o : Nat) | ring (f o : Nat)
  | mbx (c o : Nat) | bind (c : Nat) | mbxBlock (o : Nat) | lock (n : Nat) | grant (n : Nat)
  | pcl (o : Nat) | pclP (p o : Nat) | dsp (o : Nat) | dspP (p o : Nat)
  | mem (k o : Nat) | smap (p o : Nat) | group (g o : Nat) | chan (g c o : Nat)
  | eng (k : EngKind) (n o : Nat) | dgtCtl (o : Nat) | pub (page o : Nat)
  | csk (n o : Nat) | sto (o : Nat) | tsk (f w o : Nat)
  | til (t o : Nat) | tch (t o : Nat) | mmu (t o : Nat)
  | viewId (p : Nat) | tsel (p : Nat) | msix (f v : Nat) (high : Bool) | pba (f i : Nat) | window (o : Nat)
  | nowhere
  deriving DecidableEq, Repr

/-- The EVT block, from its base. -/
def evtLoc (o : Nat) : Loc :=
  if o < 0x2800 then .route (o / 8)
  else if 0x3000 ≤ o && o < 0x30A0 then .pend ((o - 0x3000) / 8)
  else if o = 0x3100 || o = 0x5000 then .evt o
  else if 0x4000 ≤ o && o < 0x4000 + 66 * 0x20 then .ring ((o - 0x4000) / 0x20) (o % 0x20)
  else .nowhere

/-- The MBX and LCK block. -/
def mbxLoc (o : Nat) : Loc :=
  if o < 0x4000 then .mbx (o / 0x80) (o % 0x80)
  else if o < 0x4400 then .bind ((o - 0x4000) / 8)
  else if o < 0x4418 then .mbxBlock o
  else if 0x8000 ≤ o && o < 0x8200 then .lock ((o - 0x8000) / 8)
  else if 0x8200 ≤ o && o < 0x8400 then .grant ((o - 0x8200) / 8)
  else if o = 0x8400 || o = 0x8408 then .mbxBlock o
  else .nowhere

/-- A data-mover group's block. Offsets 0x60 to 0x78 of a channel are reserved (Table 7 of chapter 13), and R8 governs them. -/
def groupLoc (g o : Nat) : Loc :=
  if o < 0x100 then .group g o
  else if o < 0x900 && o % 0x80 < 0x60 then .chan g ((o - 0x100) / 0x80) (o % 0x80)
  else .nowhere

/-- Engine bank `b`, with the public results and the device-wide digest control block. -/
def bankLoc (b o : Nat) : Loc :=
  if o < 0x10000 then .pub (16 * b + o / 0x1000) (o % 0x1000)
  else if o < 0x14000 then .eng .ce (4 * b + (o - 0x10000) / 0x1000) (o % 0x1000)
  else if 0x20000 ≤ o && o < 0x24000 then .eng .de (4 * b + (o - 0x20000) / 0x1000) (o % 0x1000)
  else if 0x30000 ≤ o && o < 0x34000 then .eng .se (4 * b + (o - 0x30000) / 0x1000) (o % 0x1000)
  else if b = 0 && 0x28000 ≤ o && o < 0x29000 then .pub 64 (o - 0x28000)
  else if b = 0 && 0x29000 ≤ o && o < 0x2A000 then .dgtCtl (o - 0x29000)
  else .nowhere

/-- A tile's block. -/
def tileLoc (t o : Nat) : Loc :=
  if o < 0x4000 then .til t o else if o < 0x8000 then .tch t (o - 0x4000) else if o < 0xC000 then .mmu t (o - 0x8000) else .nowhere

/-- PF0 BAR0 (Table 16), whose windows are those of function `f`. -/
def pfLoc (f o : Nat) : Loc :=
  if o < 0x10000 then .glb o
  else if o < 0x20000 then .frm (o - 0x10000)
  else if o < 0x21000 then .pwr (o - 0x20000)
  else if o < 0x22000 then .rst (o - 0x21000)
  else if o < 0x23000 then .boot (o - 0x22000)
  else if o < 0x30000 then .nowhere
  else if o < 0x40000 then .hlt (o - 0x30000)
  else if o < 0x50000 then evtLoc (o - 0x40000)
  else if o < 0x60000 then mbxLoc (o - 0x50000)
  else if o < 0x61000 then .pcl (o - 0x60000)
  else if o < 0x65000 then .pclP ((o - 0x61000) / 0x100) (o % 0x100)
  else if o < 0x80000 then .nowhere
  else if o < 0x81000 then .dsp (o - 0x80000)
  else if o < 0x82000 then .dspP ((o - 0x81000) / 0x40) (o % 0x40)
  else if o < 0x100000 then .nowhere
  else if o < 0x180000 then .mem ((o - 0x100000) / 0x10000) (o % 0x10000)
  else if o < 0x182000 then .smap ((o - 0x180000) / 0x80) (o % 0x80)
  else if o < 0x200000 then .nowhere
  else if o < 0x240000 then groupLoc ((o - 0x200000) / 0x1000) (o % 0x1000)
  else if o < 0x300000 then .nowhere
  else if o < 0x400000 then bankLoc ((o - 0x300000) / 0x40000) (o % 0x40000)
  else if o < 0x500000 then .csk ((o - 0x400000) / 0x10000) (o % 0x10000)
  else if o < 0x600000 then .nowhere
  else if o < 0x610000 then .sto (o - 0x600000)
  else if o < 0x800000 then .nowhere
  else if o < 0x840000 then .tsk f ((o - 0x800000) / 0x1000) (o % 0x1000)
  else if o < 0x1000000 then .nowhere
  else if o < 0x2000000 then tileLoc ((o - 0x1000000) / 0x10000) (o % 0x10000)
  else .nowhere

/-- The recovery personality's BAR0 (R489). -/
def recoveryLoc (o : Nat) : Loc := if o < 0x1000 then .boot o else if 0x800000 ≤ o && o < 0x1000000 then .window (o - 0x800000) else .nowhere

/-- The parcel view of parcel `p` (Table 5 of chapter 19). -/
def parcelView (s : State) (p o : Nat) : Loc :=
  let P := s.parcel p
  let sel := P.tsel.toNat
  let tile := fun (k : Nat → Loc) => match P.ptile sel with | some t => k t | none => .nowhere
  let engine := fun (k : EngKind) (o : Nat) => match P.peng k (o / 0x100) with | some n => .eng k n (o % 0x100) | none => .nowhere
  if o = 0 then .viewId p
  else if o = 0x08 then .pclP p 0x08
  else if o = 0x10 then .pclP p 0x10
  else if o = 0x18 then .pclP p 0x30
  else if o = 0x20 then .pclP p 0x38
  else if o = 0x28 then .pclP p 0x60
  else if o = 0x30 then .pclP p 0x40
  else if o = 0x38 then .pclP p 0x48
  else if o = 0x100 then .frm 0x00
  else if o = 0x108 then .frm 0x08
  else if o = 0x110 then .frm 0x28
  else if o = 0x118 then .frm 0x30
  else if o = 0x120 then .frm 0x38
  else if o = 0x128 then .frm 0x18
  else if 0x200 ≤ o && o < 0x248 then .smap p (o - 0x200)
  else if 0x300 ≤ o && o < 0x330 then .dspP p (o - 0x300)
  else if o = 0xF00 then .tsel p
  else if 0x1000 ≤ o && o < 0x1400 then tile fun t => .til t (o - 0x1000)
  else if 0x1400 ≤ o && o < 0x1800 then tile fun t => .tch t (o - 0x1400)
  else if 0x1800 ≤ o && o < 0x1C00 then tile fun t => .mmu t (o - 0x1800)
  else if 0x2000 ≤ o && o < 0x3000 then engine .ce (o - 0x2000)
  else if 0x3000 ≤ o && o < 0x4000 then (if 0x40 ≤ o % 0x100 then .nowhere else engine .de (o - 0x3000))
  else if 0x4000 ≤ o && o < 0x5000 then engine .se (o - 0x4000)
  else .nowhere

/-- What a requester may do with a register that it reaches. -/
inductive Right where
  | none | read | write | firmware
  deriving DecidableEq, Repr

/-- The MSI-X table of a function, `n` entries at 0 and the pending-bit array at 0x8000 (R223, R224, R446). -/
def msixLoc (f n o : Nat) : Loc :=
  if o < 16 * n then .msix f (o / 16) (o % 16 == 8)
  else if 0x8000 ≤ o && o < 0x8000 + n / 8 then .pba f ((o - 0x8000) / 8)
  else .nowhere

/-- VFv's BAR0 (Table 17): the register, and whether the function may write it. A VF bound to no parcel reads its MSI-X table and the public
results, and its writes are ignored (R224). -/
def vfLoc (s : State) (v o : Nat) : Loc × Right :=
  if 0x70000 ≤ o && o < 0x80000 then (msixLoc (v + 1) 256 (o - 0x70000), if (vfParcel s v).isSome then .write else .read)
  else if 0x100000 ≤ o && o < 0x141000 then (.pub ((o - 0x100000) / 0x1000) (o % 0x1000), .read)
  else
    match vfParcel s v with
    | none => (.nowhere, .none)
    | some p =>
      let P := s.parcel p
      if o < 0x40000 then (.tsk (v + 1) (o / 0x1000) (o % 0x1000), .write)
      else if o < 0x50000 then (parcelView s p (o - 0x40000), if o = 0x40F00 then .write else .read)
      else if o < 0x60000 then
        let i := o - 0x50000
        if i < 0x100 && i % 0x80 < 0x50 then (.mbx (2 * P.mbxPair + i / 0x80) (i % 0x80), if i % 0x80 = 0x48 then .read else .write)
        else if 0x8000 ≤ i && i < 0x8200 then (.lock ((i - 0x8000) / 8), .write)
        else (.nowhere, .none)
      else if o < 0x70000 then
        match evtLoc (o - 0x60000) with
        | .route i => (.route i, .write)
        | .pend n => (.pend n, .write)
        | .ring f r => if f = 0 then (.ring (v + 1) r, .write) else (.nowhere, .none)
        | .evt 0x3100 => (.evt 0x3100, .read)
        | _ => (.nowhere, .none)
      else if 0x80000 ≤ o && o < 0xC0000 then
        match P.pgroup ((o - 0x80000) / 0x1000) with
        | some g => (groupLoc g (o % 0x1000), .write)
        | none => (.nowhere, .none)
      else (.nowhere, .none)

/-- The offset at which the model places a PF0's BAR2, behind the 256 MiB of its BAR0. -/
def bar2 : Nat := 0x10000000

/-- The register at an offset of a requester's view, and what the requester may do with it (R223, R224, R404, R489): only the manager's
PF0 writes the blocks, the other PF0 reads GLB and its own windows, each PF0 has the MSI-X table of its BAR2, and the management cores see
PF0's layout. -/
def locate (s : State) (who : Who) (o : Nat) : Loc × Right :=
  match who with
  | .firmware _ => (pfLoc (mgrFn s) o, .firmware)
  | .fn f =>
    if 2 ≤ f.val then vfLoc s (f.val - 1) o
    else if (if f.val = 0 then s.ports.hpa else s.ports.hpb).recovery then (recoveryLoc o, .write)
    else if bar2 ≤ o then (if o < bar2 + 0x10000 then msixLoc f.val 2048 (o - bar2) else .nowhere, .write)
    else if f.val = mgrFn s then (pfLoc f.val o, .write)
    else
      match pfLoc f.val o with
      | .glb o => (.glb o, .read)
      | .tsk f w o => (.tsk f w o, .read)
      | _ => (.nowhere, .none)

end Sys2Proof.Machine
end

