-- ==== Sys2Proof/Machine/RegRead.lean ====
section
/-! DEFINITION. What each register reads (R7, R8, R508), block by block. Reserved offsets and fields read 0, write-only fields too. -/

namespace Sys2Proof.Machine

/-- GLB (chapter 01, Tables 6 to 11). -/
def glbReg (s : State) (o : Nat) : Nat :=
  match o with
  | 0x00 => s.glb.part.id
  | 0x08 => s.glb.serial.toNat
  | 0x10 => s.glb.fwVer.toNat
  | 0x18 => b2n s.glb.fwSlot
  | 0x20 => s.glb.part.cap0
  | 0x28 => s.glb.part.cap0
  | 0x30 => s.glb.part.cap2
  | 0x38 => s.glb.part.cap3
  | 0x40 => s.glb.scratch.toNat
  | 0x48 => s.glb.fuseCtl.toNat
  | _ => 0

/-- FRM (chapter 02, Tables 8 to 15). -/
def frmReg (F : Frm) (o : Nat) : Nat :=
  match o with
  | 0x00 => F.period.toNat
  | 0x08 => F.count.toNat
  | 0x10 => F.hold.toNat
  | 0x18 => frmSts F
  | 0x20 => b2n F.ptmEn + 2 * b2n F.ptmPort
  | 0x28 => F.ptmFrame.toNat
  | 0x30 => F.ptmCycle.toNat + 0x10000 * F.ptmSeq.toNat
  | 0x38 => F.ptmHost.toNat
  | 0x40 => F.trim.toNat
  | _ => 0

/-- PWR (chapter 24, Tables 10 to 16). -/
def pwrReg (s : State) (o : Nat) : Nat :=
  let P := s.pwr
  match o with
  | 0x00 => b2n P.railsGood + 2 * b2n P.ps4 + 4 * b2n P.twarn + 8 * b2n P.stackWarn + 16 * b2n P.paramErr
  | 0x08 => P.ctl.toNat
  | 0x10 => 0x00002EE0000005DC
  | 0x18 => 0x003D09000002BF20
  | 0x20 => P.ps4Idle.toNat
  | 0x28 => domQ s
  | 0x30 => domX s
  | 0x38 => P.good.toNat + 0x10000 * P.lost.toNat
  | 0x40 => P.tripTemp.toNat + 0x100 * P.tripSensor.toNat + 0x400 * b2n P.tripValid
  | 0x48 => P.trim.toNat
  | _ => 0

/-- RST (Table 18). -/
def rstReg (P : Pwr) (o : Nat) : Nat :=
  match o with
  | 0x08 => P.cause.toNat + 16 * b2n P.afterTrip + 32 * b2n P.afterRail
  | 0x10 => P.resetCount.toNat
  | 0x18 => P.wdog.toNat
  | _ => 0

/-- BOOT (Tables 19 to 21). -/
def bootReg (B : Boot) (o : Nat) : Nat :=
  match o with
  | 0x00 => B.stage + 16 * b2n B.srcRec + 32 * b2n B.slotB + 64 * b2n B.fallback + 128 * b2n B.bootSrc + 0x100 * B.lastReason
  | 0x08 => B.aReason + 0x100 * B.bReason + 0x10000 * B.recReason
  | 0x10 => B.time.toNat
  | 0x18 => B.minSvn.toNat + 0x10000 * B.svn.toNat
  | 0x50 => B.recLen.toNat
  | 0x58 => 2 * b2n B.recDone + 4 * b2n B.recPass
  | 0x60 => B.flashCtl.toNat
  | o => if 0x20 ≤ o && o < 0x50 then fieldAt B.keyHash (o - 0x20) 8 else 0

/-- EVT_ROUTE of a source (chapter 21, Table 7). -/
def routeReg (s : State) (i : Nat) : Nat :=
  let e := s.evSrc i
  e.vector.toNat + 0x800 * e.dest.toNat + 0x2000 * b2n e.mask + 0x8000 * b2n e.pending + 0x10000 * e.coalesced.toNat + 0x1000000 * srcGroup i

/-- EVT_PEND over the sources that a requester sees. -/
def pendReg (s : State) (sees : Nat → Bool) (n : Nat) : Nat := maskOf ((List.range 64).filter fun b => (s.evSrc (64 * n + b)).pending && sees (64 * n + b))

/-- EVT_STS and EVT_TRIM. -/
def evtReg (E : EvtBlock) (o : Nat) : Nat :=
  match o with
  | 0x3100 => b2n E.routeErr + 2 * b2n E.cfgRefused + 4 * b2n E.headErr
  | 0x5000 => E.trim.toNat
  | _ => 0

/-- An event ring's registers. -/
def ringReg (R : EvRing) (o : Nat) : Nat :=
  match o with
  | 0x00 => R.base.toNat
  | 0x08 => b2n R.en + 0x100 * R.sizeLog2.toNat
  | 0x10 => R.head.toNat
  | 0x18 => R.tail.toNat + 0x10000 * b2n R.phase
  | _ => 0

/-- The message registers that a requester sees (R424, R428). -/
def msgReg (s : State) (who : Who) (c o : Nat) : Nat :=
  let C := s.mchan c
  if isReceiver s who c then fieldAt C.held o 8
  else if isSender s who c then fieldAt (C.staging ++ C.last) o 8
  else 0

/-- A mailbox channel's registers (chapter 20, Tables 3 to 5). -/
def mbxReg (s : State) (who : Who) (c o : Nat) : Nat :=
  if o < 0x40 then msgReg s who c o
  else if o = 0x40 then mbxSts (s.mchan c)
  else if o = 0x48 then (s.mchan c).ctl.toNat
  else 0

/-- MBX_BIND (Table 6). -/
def bindReg (C : Mbx) : Nat := C.sender.toNat + 0x10000 * C.receiver.toNat + 2 ^ 32 * b2n C.valid

/-- The block's own registers (Tables 7 to 9 and 13). -/
def mbxBlockReg (B : MbxBlock) (o : Nat) : Nat :=
  match o with
  | 0x4400 => B.bindLock.toNat
  | 0x4408 => B.staleUs.toNat
  | 0x4410 => b2n B.bindRefused
  | 0x8408 => b2n B.violation + 2 * b2n B.forced + 0x10000 * B.writer.toNat + 2 ^ 32 * B.badLock.toNat
  | _ => 0

/-- The slots of PCL_ESTATE_SLOT. -/
def estateSlots (s : State) : Nat :=
  ((List.range 4).map fun b => estateB s b * 2 ^ (9 * b)).foldl (· + ·) 0 + estateD s 0 * 2 ^ 36 + estateD s 1 * 2 ^ 43

/-- The PCL block's own registers (chapter 19, Tables 6 to 8). -/
def pclReg (s : State) (o : Nat) : Nat :=
  match o with
  | 0x00 => b2n s.pcl.splitErr + 2 * b2n s.pcl.divErr + 4 * b2n s.pcl.parkErr
  | 0x08 => s.pcl.split.toNat
  | 0x10 => estateQ s
  | 0x18 => estateS s
  | 0x20 => estateG s
  | 0x28 => estateE s .ce + 2 ^ 16 * estateE s .de + 2 ^ 32 * estateE s .se
  | 0x30 => estateSlots s
  | _ => 0

/-- PCL_INFLIGHT_OLD (Table 13). -/
def inflightReg (s : State) (p : Nat) : Nat :=
  match inflightOld s p with
  | [] => 0
  | v :: l => (l.length + 1) % 2 ^ 32 + 2 ^ 32 * l.foldl min v

/-- A parcel's registers (Tables 9 to 14): a FREE parcel holds no unit. -/
def pclPReg (s : State) (p o : Nat) : Nat :=
  let P := s.parcel p
  let own := fun (n : Nat) => if P.holds then n else 0
  match o with
  | 0x00 => pclPSts s p
  | 0x08 => P.div.toNat
  | 0x10 => P.park.toNat
  | 0x18 => P.idle1.toNat
  | 0x20 => P.idle2.toNat
  | 0x28 => P.idle3.toNat
  | 0x30 => P.staleCnt.toNat
  | 0x38 => inflightReg s p
  | 0x40 => own P.quads.toNat
  | 0x48 => own P.slices.toNat
  | 0x50 => own P.groups.toNat
  | 0x58 => own (P.ce.toNat + 2 ^ 16 * P.de.toNat + 2 ^ 32 * P.se.toNat)
  | 0x60 => own (P.rs / 0x200000 + 2 ^ 24 * (P.smap.length * (sliceBytes - P.rs) / 0x1000000))
  | o => if 0x68 ≤ o && o < 0x98 then own (fieldAt P.keyHash (o - 0x68) 8) else 0

/-- PCL_V_ID (Table 5). -/
def viewIdReg (s : State) (p : Nat) : Nat := p + 0x100 * (s.parcel p).st.code + 0x10000 * (s.parcel p).vintage

/-- DSPk_SLOTj (chapter 09, Table 12). -/
def slotReg (s : State) (die j : Nat) : Nat :=
  ((List.range 8).map fun i =>
    match holder s fun P => (if die = 0 then P.slots0 else P.slots1).contains (8 * j + i) with
    | some p => (p + 0x80) * 2 ^ (8 * i)
    | none => 0).foldl (· + ·) 0

/-- The DSP block's own registers (Tables 7 to 12). -/
def dspReg (s : State) (o : Nat) : Nat :=
  match o with
  | 0x00 => b2n (fbit s.dsp.ctl 0)
  | 0x08 => s.dsp.affDepth.toNat
  | 0x10 => s.dsp.affWindow.toNat
  | 0x18 => 3 + 4 * b2n s.dsp.paramErr
  | 0x200 => s.dsp.deliv0.toNat
  | 0x208 => s.dsp.deliv1.toNat
  | 0x300 => s.dsp.trim.toNat
  | o => if 0x100 ≤ o && o < 0x180 then slotReg s ((o - 0x100) / 0x40) (o % 0x40 / 8) else 0

/-- A parcel's dispatcher registers (Tables 13 to 15). -/
def dspPReg (s : State) (p o : Nat) : Nat :=
  let P := s.parcel p
  match o with
  | 0x00 => if P.holds then P.dspBase / 4096 * 4096 else 0
  | 0x08 => if P.holds then P.itemCap + 2 ^ 28 * (P.dslots0 + P.dslots1) + 2 ^ 36 * P.flowCap else 0
  | 0x10 => itemsIn s p + 2 ^ 32 * P.dsp.peak
  | 0x18 => P.dsp.deliv.toNat
  | 0x20 => P.dsp.refused.toNat
  | 0x28 => P.dsp.discard.toNat
  | _ => 0

/-- A stack's registers (chapter 10, Tables 7 to 12). -/
def memReg (s : State) (k o : Nat) : Nat :=
  let K := s.stack k
  if !stackPresent s k then 0
  else
    match o with
    | 0x00 => memSts s k
    | 0x08 => K.ctl.toNat
    | 0x10 => K.scrubCtl.toNat
    | 0x18 => ((List.range 8).foldl (fun m i => min m (Tab.get 0 K.pos i)) channelLines) % channelLines + 2 ^ 32 * K.passes
    | 0xA0 => K.ueAddr / 64 * 64 + 2 ^ 63 * b2n K.ueValid
    | 0xA8 => K.redCnt.toNat
    | 0xB0 => K.temp
    | 0x100 => K.train.toNat
    | 0x108 => K.refresh.toNat
    | o =>
      if 0x20 ≤ o && o < 0x60 then (Tab.get 0 K.ceCnt ((o - 0x20) / 8)).toNat
      else if 0x60 ≤ o && o < 0xA0 then (Tab.get 0 K.ueCnt ((o - 0x60) / 8)).toNat
      else 0

/-- A parcel's slice map (Tables 13 to 15). -/
def smapReg (s : State) (p o : Nat) : Nat :=
  let P := s.parcel p
  if !P.holds then 0
  else if o < 0x40 then ((List.range 8).map fun i => ((P.smap[o + i]?).getD 0) * 2 ^ (8 * i)).foldl (· + ·) 0
  else if o = 0x40 then
    P.smap.length + ((List.range 4).map fun b => ((P.bslots[b]?).getD 0) * 2 ^ (16 + 9 * b)).foldl (· + ·) 0
  else 0

/-- A group's registers (chapter 13, Tables 12 to 14). -/
def groupReg (s : State) (g o : Nat) : Nat :=
  let G := s.group g
  match o with
  | 0x00 => dmaGSts s g
  | 0x08 => b2n G.stopEvEn + 2 * b2n G.retryEvEn
  | 0x10 => G.errDpa / 64 * 64 + 2 ^ 63 * b2n G.errValid
  | 0x18 => G.trim.toNat
  | _ => 0

/-- A channel's registers (Tables 7 to 11). -/
def chanReg (C : Chan) (o : Nat) : Nat :=
  match o with
  | 0x00 => C.src.toNat
  | 0x08 => C.dst.toNat
  | 0x10 => C.cnt.toNat
  | 0x18 => (mergeMask 0x1FFFFFFFFC 0 C.ctl).toNat
  | 0x20 => dmaSts C
  | 0x28 => C.hiwat.toNat
  | 0x30 => C.lowat.toNat
  | 0x38 => C.qsel.toNat
  | 0x40 => C.ns.toNat
  | 0x48 => C.enq.toNat
  | 0x58 => C.moved
  | _ => 0

/-- Whether the image loader's stream is bound to a channel: channel 15 of virtual group 0 (R59, R324). -/
def loaderBound (s : State) (p g c : Nat) : Bool :=
  c == 15 && rankIn (s.parcel p).groups.toNat g == 0 && match (s.parcel p).peng .de 0 with | some n => loaderSnoops s n | none => false

/-- DMA_DGT: whether a digest engine snoops the channel, and its virtual number (R287). The loader's engine is virtual engine 0. -/
def dmaDgtReg (s : State) (g c : Nat) : Nat :=
  match (s.chan g c).snoop, groupParcel s g with
  | some n, some p => 1 + 2 * rankIn (s.parcel p).de.toNat n
  | none, some p => b2n (loaderBound s p g c)
  | _, _ => 0

/-- An engine's registers (chapters 08, 14 and 15); DGT_STATE is for the management cores. -/
def engReg (s : State) (fw : Bool) (k : EngKind) (n o : Nat) : Nat :=
  let E := s.eng k n
  if !engPresent s k n then 0
  else
    match k, o with
    | _, 0x00 => engSts s k n
    | _, 0x08 => b2n E.evEn
    | _, 0x10 => E.cntJobs.toNat
    | _, 0x18 => E.cntIn.toNat
    | .ce, 0x20 => E.cntOut.toNat
    | .ce, 0x28 => E.err.toNat
    | .ce, 0x30 => E.errVa.toNat
    | .ce, 0x38 => E.verifyCnt.toNat
    | .ce, 0x40 => E.trim.toNat
    | .de, 0x20 => E.err.toNat
    | .de, 0x28 => E.errVa.toNat
    | .de, 0x30 => E.mjobReg.toNat
    | .de, 0x200 => E.trim.toNat
    | .de, o => if fw && 0x40 ≤ o && o < 0x200 then fieldAt E.mstate (o - 0x40) 8 else 0
    | .se, 0x20 => E.err.toNat
    | .se, 0x28 => E.errVa.toNat
    | .se, 0x30 => E.trim.toNat
    | _, _ => 0

/-- The byte of DGT_KEY_OWN for a slot; slot 0 is the management complex's (R316). -/
def keyOwnByte (s : State) (n : Nat) : Nat :=
  if n = 0 then 0x80
  else
    (s.keySlot n).num.toNat + (match (s.keySlot n).owner with | .nobody => 0 | .parcel _ => 0x40 | .mgmt => 0x80)

/-- The device-wide digest control block (chapter 15, Tables 10 to 12). -/
def dgtReg (s : State) (o : Nat) : Nat :=
  let D := s.dgt
  if o < 0x100 then ((List.range 8).map fun i => keyOwnByte s (o + i) * 2 ^ (8 * i)).foldl (· + ·) 0
  else if o = 0x140 then
    2 * b2n D.cmpSrc + 4 * D.cmpEng + 0x40 * D.cmpPage + 0x2000 * D.cmpSlot + 0x40000 * b2n D.cmpDone + 0x80000 * b2n D.cmpPass
  else 0

/-- A page of public results. -/
def pubReg (s : State) (page o : Nat) : Nat := fieldAt (s.pubSlot page (o / 128)).bytes (o % 128) 8

/-- CSK_WEAR1 (chapter 16, Table 10). -/
def wear1 (C : Cask) : Nat :=
  if !C.auth then 0
  else
    let w := C.wear
    (Config.sparePct C.page.spareBlocks.toNat).toNat + 0x10000 * min (w.1 * 1000 / w.2) 0xFFFF

/-- CSK_ZONES (Table 13): zones that hold nothing are free, the first 64 being the service's own (R378). -/
def zonesReg (C : Cask) : Nat :=
  let used := (C.zones.filter fun kz => kz.2.written != 0 || kz.2.opened).length
  C.zoneCount + 2 ^ 24 * (C.zoneCount - 64 - used) + 2 ^ 48 * (C.zones.filter fun kz => kz.2.opened).length

/-- CSK_MOVE of a port (Table 16). -/
def moveReg (s : State) (n : Nat) : Nat :=
  match moveOf s n with
  | none => 0
  | some (i, v) =>
    match s.pset i with
    | none => 0
    | some P =>
      let source := v.target != n
      let peer := if source then v.target else if v.rebuild then 0 else ((P.members[v.member]?).map (·.port)).getD 0
      (v.total - (zonesOf P v.member v.left).length) % 2 ^ 24 + 2 ^ 24 * (v.total % 2 ^ 24) + 2 ^ 48 * (if v.rebuild then 2 else 1) + 2 ^ 50 * b2n source
        + 2 ^ 56 * peer

/-- A cask port's registers (Tables 6 to 16). -/
def cskReg (s : State) (n o : Nat) : Nat :=
  let C := s.cask n
  if !caskPresent s n then 0
  else
    match o with
    | 0x00 => cskSts C
    | 0x08 => C.evEn.toNat + 0x100 * b2n C.locate + 0x10000 * C.slowLimit.toNat
    | 0x10 => C.page.avgPe.toNat + 2 ^ 32 * C.page.maxPe.toNat
    | 0x18 => wear1 C
    | 0x20 => C.wrBytes.toNat
    | 0x28 => C.eol.toNat + 2 ^ 16 * C.early.toNat + 2 ^ 32 * C.late.toNat + 2 ^ 48 * C.samples.length
    | 0x30 => C.slowNs.toNat
    | 0x38 => C.slowCnt.toNat
    | 0x40 => zonesReg C
    | 0x48 => C.rackPct.toNat + 0x100 * C.rebuildPct.toNat
    | 0x50 => C.livePct.toNat
    | 0x58 => moveReg s n
    | 0x60 => C.trim.toNat
    | o => if 0x100 ≤ o && o < 0x180 && C.st != .absent && C.st != .linking then fieldAt C.idrec (o - 0x100) 8 else 0

/-- STO_SET_STS (chapter 18, Table 12). -/
def setStsReg (s : State) (i : Nat) : Nat :=
  match s.pset i with
  | none => 0
  | some P =>
    P.code + 8 * P.p + 0x100 * P.members.length + 0x10000 * maskOf ((P.members.filter fun m => !m.gone).map (·.port)) + 2 ^ 32 * P.gone
      + 2 ^ 36 * (s.sto.nss.filter fun n => n.2.set == i).length

/-- The STO block (Tables 8 to 12). -/
def stoReg (s : State) (o : Nat) : Nat :=
  let S := s.sto
  match o with
  | 0x00 => b2n S.ready + 2 * b2n (S.sets.any fun kP => kP.2.recovering) + 4 * b2n S.setChange + 8 * b2n S.paramErr
  | 0x08 => S.closeUs.toNat + 0x10000 * S.reservePct.toNat + 0x1000000 * b2n S.setEvEn
  | 0x10 => s.glb.part.service.1 + 0x100 * s.glb.part.service.2
  | 0x18 => S.nss.length
  | 0x400 => S.trim.toNat
  | o =>
    if 0x100 ≤ o && o < 0x300 then
      let i := (o - 0x100) / 0x20
      match o % 0x20, s.pset i with
      | 0x00, _ => setStsReg s i
      | 0x08, some P => P.cap
      | 0x10, some P => P.cap - setUsed s i
      | _, _ => 0
    else 0

/-- A task window's registers (chapter 17, Tables 17 to 23). -/
def tskReg (s : State) (w : Window) (o : Nat) : Nat :=
  let W := s.win w
  if o < 0x40 then fieldAt W.task o 8
  else
    match o with
    | 0x40 => taskSts s w
    | 0x48 => W.base.toNat
    | 0x50 => b2n W.en + 2 * b2n W.intEn + 0x100 * W.sizeLog2.toNat + 0x10000 * W.vector.toNat
    | 0x58 => W.head.toNat
    | 0x60 => W.tail.toNat + 0x10000 * b2n W.phase
    | 0x68 => if w.fn.val = mgrFn s && w.w.val ≠ 0 then W.wparcel.toNat + 0x40 * b2n W.wvalid else 0
    | _ => 0

/-- TIL (chapter 04, Tables 7 to 12). -/
def tilReg (s : State) (t o : Nat) : Nat :=
  let T := s.tile t
  match o with
  | 0x00 => t + 0x100 * (t % 16) + 0x1000 * (t / 16) + 0x10000 * quadOf t + 0x400000 * dieOf t
  | 0x08 => tilSts s t
  | 0x10 => T.ctl.toNat
  | 0x20 => T.excCause.toNat
  | 0x28 => T.excPc.toNat
  | 0x30 => T.excVa.toNat
  | 0x38 => T.excFrame.toNat
  | 0x40 => T.perfBusy.toNat
  | 0x48 => T.perfFdone.toNat
  | 0x50 => T.perfHolds.toNat
  | 0x58 => T.debugCtl.toNat
  | 0x60 => T.trim.toNat
  | _ => 0

/-- TCH (chapter 11, Tables 5 to 11). -/
def tchReg (C : Cache) (o : Nat) : Nat :=
  match o with
  | 0x00 => b2n C.en + 2 * b2n C.pfEn
  | 0x08 =>
    b2n C.clean + 2 * b2n C.enableRefused + 4 * b2n C.busyRefused + 8 * b2n C.wayOff + 16 * b2n C.failed + 32 * b2n C.maintBusy + 0x100 * C.offCount
  | 0x18 => C.waysOff.toNat
  | 0x60 => C.accCnt
  | 0x68 => C.perfHit.toNat
  | 0x70 => C.perfMiss.toNat
  | 0x78 => C.perfSide.toNat
  | 0x80 => C.trim.toNat
  | o =>
    if 0x20 ≤ o && o < 0x60 then Tab.get 0 C.ceWindow ((o - 0x20) / 8) + 2 ^ 32 * min (Tab.get 0 C.ceTotal ((o - 0x20) / 8)) 0xFFFFFFFF else 0

/-- MMU (chapter 12, Tables 9 to 13). -/
def mmuReg (M : Mmu) (o : Nat) : Nat :=
  match o with
  | 0x00 => M.root / 0x1000 * 0x1000 + 2 ^ 52 * b2n M.rootValid
  | 0x08 => b2n M.invBusy + 2 * b2n M.invRefused + 4 * b2n M.faultValid
  | 0x10 => M.faultVa.toNat
  | 0x18 => M.faultInfo.toNat
  | 0x20 => M.invAddr.toNat
  | 0x28 => M.invAst.toNat
  | 0x38 => M.tlb.lfsr
  | 0x40 => M.perfMiss.toNat
  | 0x48 => M.perfWread.toNat
  | _ => 0

/-- A half of an MSI-X table entry (R446). -/
def msixReg (s : State) (f v : Nat) (high : Bool) : Nat :=
  let e := Tab.get {} s.evt.msix (2048 * f + v)
  if high then e.data.toNat + 2 ^ 32 * b2n e.mask else e.addr.toNat

/-- Sixty-four pending bits of a function's vectors. -/
def pbaReg (s : State) (f i : Nat) : Nat := maskOf ((List.range 64).filter fun b => (Tab.get {} s.evt.msix (2048 * f + 64 * i + b)).pending)

/-- Eight bytes of the recovery load window. -/
def windowReg (B : Boot) (o : Nat) : Nat := leNat ((List.range 8).map fun i => (cellFind B.window (o + i)).getD 0)

/-- A window by its numbers. -/
def winOf (f w : Nat) : Window := { fn := Fin.ofNat 66 f, w := Fin.ofNat 64 w }

/-- What a requester reads from a register. -/
def regValue (s : State) (who : Who) (fw : Bool) : Loc → Nat
  | .glb o => glbReg s o
  | .frm o => frmReg s.frm o
  | .pwr o => pwrReg s o
  | .rst o => rstReg s.pwr o
  | .boot o => bootReg s.boot o
  | .hlt o => if o = 0x600 then s.hlt.trim.toNat else hltReg s o
  | .route i => if isManager s who || ownsSource s who i then routeReg s i else 0
  | .pend n => pendReg s (fun i => isManager s who || ownsSource s who i) n
  | .evt o => evtReg s.evt o
  | .ring f o => ringReg (s.evRing f) o
  | .mbx c o => mbxReg s who c o
  | .bind c => bindReg (s.mchan c)
  | .mbxBlock o => mbxBlockReg s.mbx o
  | .lock _ => 0
  | .grant n => (Tab.get 0 s.mbx.grants n).toNat
  | .pcl o => pclReg s o
  | .pclP p o => pclPReg s p o
  | .dsp o => dspReg s o
  | .dspP p o => dspPReg s p o
  | .mem k o => memReg s k o
  | .smap p o => smapReg s p o
  | .group g o => groupReg s g o
  | .chan g c o => if o = 0x50 then dmaDgtReg s g c else chanReg (s.chan g c) o
  | .eng k n o => engReg s fw k n o
  | .dgtCtl o => dgtReg s o
  | .pub page o => pubReg s page o
  | .csk n o => cskReg s n o
  | .sto o => stoReg s o
  | .tsk f w o => tskReg s (winOf f w) o
  | .til t o => if tilePresent s t then tilReg s t o else 0
  | .tch t o => if tilePresent s t then tchReg (s.tile t).cache o else 0
  | .mmu t o => if tilePresent s t then mmuReg (s.tile t).mmu o else 0
  | .viewId p => viewIdReg s p
  | .tsel p => (s.parcel p).tsel.toNat
  | .msix f v high => msixReg s f v high
  | .pba f i => pbaReg s f i
  | .window o => windowReg s.boot o
  | .nowhere => 0

-- ## Reads that act

/-- The bits of a word whose bytes are named. -/
def laneMask (lanes : BitVec 8) : Word := BitVec.ofNat 64 (leNat ((List.range 8).map fun i => if lanes.getLsbD i then 0xFF else 0))

/-- What a read does beside returning a value: read-to-clear counts clear (R7), the PTM set freezes (R51), the last byte of a message
takes it (R424), and a stranger's read of a message is noted. `full` says that the register is not seen through a read-only view. -/
def readEffect (s : State) (who : Who) (full : Bool) (lanes : BitVec 8) : Loc → State
  | .frm o => if o = 0x28 then s.updFrm Frm.freeze else if o = 0x38 then s.updFrm Frm.unfreeze else s
  | .pclP p o => if o = 0x30 then s.updParcel p fun P => { P with staleCnt := 0 } else s
  | .dspP p o =>
    if !full then s
    else if o = 0x20 then s.updDsp p fun D => { D with refused := 0 }
    else if o = 0x28 then s.updDsp p fun D => { D with discard := 0 }
    else s
  | .mbx c o =>
    if 0x40 ≤ o then s
    else if isReceiver s who c then (if o = 0x38 && lanes.getLsbD 7 then takeMessage s c else s)
    else if isSender s who c then s
    else deny s c
  | _ => s

/-- A read of the bytes of a register that `lanes` names (R452, R453). -/
def readRegister (s : State) (who : Who) (off : Nat) (lanes : BitVec 8) : State :=
  let x := locate s who (off / 8 * 8)
  if lanes = 0 then s else
  match x.1, x.2 with
  | _, .none => { s with lastRead := 0 }
  | .lock n, _ =>
    let s := readLock s who n
    { s with lastRead := s.lastRead &&& laneMask lanes }
  | l, r =>
    let v := BitVec.ofNat 64 (regValue s who (r == .firmware) l)
    readEffect { s with lastRead := v &&& laneMask lanes } who (r == .write || r == .firmware) lanes l

end Sys2Proof.Machine
end

