-- ==== Sys2Proof/Machine/RegWrite.lean ====
section
/-! DEFINITION. What a write of each register does (R7, R8, R452): RW fields take the new value, a 1 clears a W1C bit, and a control acts.
In each function `put` is the register with the named bytes replaced, `ones` the named bytes alone, and `fw` says that a management
core writes. -/

namespace Sys2Proof.Machine

/-- Whether a write names a byte of `[lo, lo + n)`. -/
def hits (lanes : BitVec 8) (lo n : Nat) : Bool := (List.range n).any fun i => lanes.getLsbD (lo + i)

/-- A flag under write-one-to-clear. -/
def w1c (flag : Bool) (ones : Word) (i : Nat) : Bool := flag && !fbit ones i

/-- Bytes with some replaced by those that a write names. -/
def putLanes (bs : List Byte) (o : Nat) (lanes : BitVec 8) (v : Word) : List Byte :=
  (List.range bs.length).map fun i =>
    if o ≤ i && i < o + 8 && lanes.getLsbD (i - o) then BitVec.ofNat 8 (fld v (8 * (i - o)) 8) else (bs[i]?).getD 0

/-- GLB: the fuse control is locked once the firmware is ready. -/
def glbPut (s : State) (fw : Bool) (o : Nat) (put : Word) : State :=
  match o with
  | 0x40 => { s with glb := { s.glb with scratch := put } }
  | 0x48 => if fw && decide (s.boot.stage < 6) then { s with glb := { s.glb with fuseCtl := put } } else s
  | _ => s

/-- FRM. -/
def frmPut (s : State) (fw : Bool) (o : Nat) (lanes : BitVec 8) (put ones : Word) : State :=
  match o with
  | 0x00 => if hits lanes 0 2 then periodWrite s put else s
  | 0x10 => if hits lanes 0 1 then holdLimitWrite s put else s
  | 0x18 => s.updFrm fun F => { F with
      periodRefused := w1c F.periodRefused ones 1, periodRange := w1c F.periodRange ones 2, holdErr := w1c F.holdErr ones 3 }
  | 0x20 => s.updFrm fun F => { F with ptmEn := fbit put 0, ptmPort := fbit put 1 }
  | 0x40 => if fw then s.updFrm fun F => { F with trim := put } else s
  | _ => s

/-- PWR. -/
def pwrPut (s : State) (fw : Bool) (o : Nat) (lanes : BitVec 8) (put ones : Word) : State :=
  match o with
  | 0x00 => s.updPwr fun P => { P with paramErr := w1c P.paramErr ones 4 }
  | 0x08 => if hits lanes 0 3 then pwrCtlWrite s put else s
  | 0x20 => if hits lanes 0 4 then ps4IdleWrite s put else s
  | 0x38 => s.updPwr fun P => { P with lost := P.lost &&& ~~~(BitVec.ofNat 10 (fld ones 16 10)) }
  | 0x40 => s.updPwr fun P => { P with tripValid := w1c P.tripValid ones 10 }
  | 0x48 => if fw then s.updPwr fun P => { P with trim := put } else s
  | _ => s

/-- RST. -/
def rstPut (s : State) (fw : Bool) (o : Nat) (put ones : Word) : State :=
  match o with
  | 0x00 => settleFrom s (rstCtlWrite s ones)
  | 0x18 => if fw then s.updPwr fun P => { P with wdog := put } else s
  | _ => s

/-- BOOT: the recovery registers belong to the recovery personality. -/
def bootPut (s : State) (fw : Bool) (o : Nat) (put ones : Word) : State :=
  match o with
  | 0x50 => if s.boot.stage = 7 then s.updBoot fun B => { B with recLen := BitVec.ofNat 23 (fld put 0 23) } else s
  | 0x58 => if s.boot.stage = 7 then recCtlWrite s ones false else s
  | 0x60 => if fw then s.updBoot fun B => { B with flashCtl := put } else s
  | _ => s

/-- HLT. -/
def hltPut (s : State) (fw : Bool) (o : Nat) (put ones : Word) : State :=
  match o with
  | 0x000 => s.updHlt fun H => { H with
      historyReset := w1c H.historyReset ones 1, sensorFault := w1c H.sensorFault ones 2, atLimit := w1c H.atLimit ones 3
      marginLow := w1c H.marginLow ones 4 }
  | 0x008 => s.updHlt fun H => { H with ctl := BitVec.ofNat 2 (fld put 0 2) }
  | 0x040 => if fld put 0 16 = 0 then s else s.updHlt fun H => { H with ceLimit := BitVec.ofNat 16 (fld put 0 16) }
  | 0x600 => if fw then s.updHlt fun H => { H with trim := put } else s
  | _ => s

/-- EVT: a route, written by the manager, or by the function that owns its source. -/
def routePut (s : State) (who : Who) (i : Nat) (lanes : BitVec 8) (put : Word) : State :=
  if !hits lanes 0 2 then s
  else if isManager s who then routeWrite s i false put
  else if ownsSource s who i then routeWrite s i true put
  else s

/-- EVT: pending bits. -/
def pendPut (s : State) (who : Who) (n : Nat) (ones : Word) : State :=
  (setBits 64 ones.toNat).foldl (fun s b => if isManager s who || ownsSource s who (64 * n + b) then clearSource s (64 * n + b) else s) s

/-- EVT_STS and EVT_TRIM. -/
def evtPut (s : State) (fw : Bool) (o : Nat) (put ones : Word) : State :=
  match o with
  | 0x3100 => { s with evt := { s.evt with
      routeErr := w1c s.evt.routeErr ones 0, cfgRefused := w1c s.evt.cfgRefused ones 1, headErr := w1c s.evt.headErr ones 2 } }
  | 0x5000 => if fw then { s with evt := { s.evt with trim := put } } else s
  | _ => s

/-- A ring's registers. -/
def ringPut (s : State) (f o : Nat) (lanes : BitVec 8) (put : Word) : State :=
  match o with
  | 0x00 => evRingBase s f put
  | 0x08 => if hits lanes 0 2 then evRingCfg s f put else s
  | 0x10 => if hits lanes 0 2 then evRingHead s f put else s
  | _ => s

/-- A mailbox channel's registers (R423, R424). -/
def mbxPut (s : State) (who : Who) (c o : Nat) (lanes : BitVec 8) (put v : Word) : State :=
  if o < 0x40 then
    if !isSender s who c then otherWrite s who c
    else if o < 0x38 then s.updMchan c fun C => { C with staging := putLanes C.staging o lanes v }
    else
      let l := putLanes (s.mchan c).last 0 lanes v
      if lanes.getLsbD 7 then placeMessage s c (BitVec.ofNat 64 (leNat l)) else s.updMchan c fun C => { C with last := l }
  else if o = 0x40 then
    let ones := v &&& laneMask lanes
    if isManager s who || isSender s who c || isReceiver s who c then
      s.updMchan c fun C => { C with collision := w1c C.collision ones 1, stale := w1c C.stale ones 2, denied := w1c C.denied ones 4 }
    else s
  else if o = 0x48 && isManager s who then s.updMchan c fun C => { C with ctl := BitVec.ofNat 3 (fld put 0 3) }
  else s

/-- The mailbox and lock block's own registers. -/
def mbxBlockPut (s : State) (o : Nat) (lanes : BitVec 8) (put ones : Word) : State :=
  match o with
  | 0x4400 => { s with mbx := { s.mbx with bindLock := s.mbx.bindLock ||| ones } }
  | 0x4408 => if hits lanes 0 4 then { s with mbx := { s.mbx with staleUs := BitVec.ofNat 32 (fld put 0 32) } } else s
  | 0x4410 => { s with mbx := { s.mbx with bindRefused := w1c s.mbx.bindRefused ones 0 } }
  | 0x8400 => forceLock s ones
  | 0x8408 => { s with mbx := { s.mbx with violation := w1c s.mbx.violation ones 0, forced := w1c s.mbx.forced ones 1 } }
  | _ => s

/-- PCL. -/
def pclPut (s : State) (o : Nat) (lanes : BitVec 8) (put ones : Word) : State :=
  match o with
  | 0x00 => { s with pcl := { s.pcl with
      splitErr := w1c s.pcl.splitErr ones 0, divErr := w1c s.pcl.divErr ones 1, parkErr := w1c s.pcl.parkErr ones 2 } }
  | 0x08 => if hits lanes 0 1 then vfSplitWrite s put else s
  | _ => s

/-- A parcel's registers. -/
def pclPPut (s : State) (p o : Nat) (lanes : BitVec 8) (put : Word) : State :=
  match o with
  | 0x08 => if hits lanes 0 1 then frameDivWrite s p put else s
  | 0x10 => if hits lanes 0 2 then parkLimitWrite s p put else s
  | 0x18 => if hits lanes 0 4 then idleWrite s p 0 put else s
  | 0x20 => if hits lanes 0 4 then idleWrite s p 1 put else s
  | 0x28 => if hits lanes 0 4 then idleWrite s p 2 put else s
  | _ => s

/-- DSP. -/
def dspPut (s : State) (fw : Bool) (o : Nat) (lanes : BitVec 8) (put ones : Word) : State :=
  match o with
  | 0x00 => { s with dsp := { s.dsp with ctl := mergeMask 1 0 put } }
  | 0x08 => if hits lanes 0 1 then affDepthWrite s put else s
  | 0x10 => { s with dsp := { s.dsp with affWindow := BitVec.ofNat 16 (fld put 0 8) } }
  | 0x18 => { s with dsp := { s.dsp with paramErr := w1c s.dsp.paramErr ones 2 } }
  | 0x300 => if fw then { s with dsp := { s.dsp with trim := put } } else s
  | _ => s

/-- MEM. -/
def memPut (s : State) (fw : Bool) (k o : Nat) (lanes : BitVec 8) (put ones : Word) : State :=
  if !stackPresent s k then s
  else
    match o with
    | 0x000 => s.updStack k fun K => { K with
        ueSeen := w1c K.ueSeen ones 1, ceThresh := w1c K.ceThresh ones 2, scrubPass := w1c K.scrubPass ones 3, paramErr := w1c K.paramErr ones 4 }
    | 0x008 => s.updStack k fun K => { K with ctl := mergeMask 0xFFFF0007 0 put }
    | 0x010 => if hits lanes 0 2 then scrubCtlWrite s k put else s
    | 0x0A0 => s.updStack k fun K => { K with ueValid := w1c K.ueValid ones 63 }
    | 0x100 => if fw then s.updStack k fun K => { K with train := put } else s
    | 0x108 => if fw then s.updStack k fun K => { K with refresh := put } else s
    | _ => s

/-- A group's registers. -/
def groupPut (s : State) (fw : Bool) (g o : Nat) (put ones : Word) : State :=
  match o with
  | 0x00 =>
    if fbit ones 0 && (s.group g).chans.all fun c => !c.2.busy then s.updGroup g fun G => { G with stopped := false, errValid := false } else s
  | 0x08 => s.updGroup g fun G => { G with stopEvEn := fbit put 0, retryEvEn := fbit put 1 }
  | 0x10 => s.updGroup g fun G => { G with errValid := w1c G.errValid ones 63 }
  | 0x18 => if fw then s.updGroup g fun G => { G with trim := put } else s
  | _ => s

/-- A channel's plain registers. -/
def Chan.put (C : Chan) (o : Nat) (put ones : Word) : Chan :=
  match o with
  | 0x00 => { C with src := put }
  | 0x08 => { C with dst := put }
  | 0x10 => { C with cnt := BitVec.ofNat 32 (fld put 0 32) }
  | 0x18 => { C with ctl := mergeMask 0x1FFFFFFFFC 0 put }
  | 0x20 => { C with startRefused := w1c C.startRefused ones 4, writeRefused := w1c C.writeRefused ones 5 }
  | 0x28 => { C with hiwat := BitVec.ofNat 32 (fld put 0 32) }
  | 0x30 => { C with lowat := BitVec.ofNat 32 (fld put 0 32) }
  | 0x38 => { C with qsel := mergeMask 0xFFFFFFF1F 0 put }
  | 0x40 => { C with ns := BitVec.ofNat 10 (fld put 0 10) }
  | 0x48 => { C with enq := mergeMask 0xFFFFFF03FF03 0 put }
  | _ => C

/-- A channel's registers (R270, R272). -/
def chanPut (s : State) (who : Who) (g c o : Nat) (put ones : Word) : State :=
  if o = 0x18 && fbit ones 0 then dmaStart s who g c put
  else if chanLocked s g c then s.updChan g c fun C => { C with writeRefused := true }
  else if o = 0x18 && fbit ones 1 then abortChan s g c
  else if (s.chan g c).busy then s.updChan g c fun C => { C with writeRefused := true }
  else s.updChan g c fun C => C.put o put ones

/-- An engine's registers. -/
def engPut (s : State) (fw : Bool) (k : EngKind) (n o : Nat) (put ones : Word) : State :=
  if !engPresent s k n then s
  else
    match k, o with
    | k, 0x00 => s.updEng k n fun E => { E with
        late := w1c E.late ones 13, verifyFail := E.verifyFail && !(k == .ce && fbit ones 14) }
    | k, 0x08 => s.updEng k n fun E => { E with evEn := fbit put 0 }
    | .ce, 0x40 => if fw then s.updEng .ce n fun E => { E with trim := put } else s
    | .de, 0x30 => if fw then s.updEng .de n fun E => { E with mjobReg := put } else s
    | .de, 0x200 => if fw then s.updEng .de n fun E => { E with trim := put } else s
    | .se, 0x30 => if fw then s.updEng .se n fun E => { E with trim := put } else s
    | _, _ => s

/-- The device-wide digest control block. -/
def dgtPut (s : State) (o : Nat) (lanes : BitVec 8) (put v : Word) : State :=
  if o < 0x100 then keyOwnWrite s (o / 8) v.toNat fun i => lanes.getLsbD i
  else if o < 0x140 then { s with dgt := { s.dgt with expect := putLanes s.dgt.expect (o - 0x100) lanes v } }
  else if o = 0x140 then dgtCmpWrite s put
  else s

/-- CSK. -/
def cskPut (s : State) (fw : Bool) (n o : Nat) (lanes : BitVec 8) (put ones : Word) : State :=
  if !caskPresent s n then s
  else
    match o with
    | 0x00 => s.updCask n fun C => { C with evPending := C.evPending &&& ~~~(BitVec.ofNat 8 (fld ones 24 8)) }
    | 0x08 => slowEvent (s.updCask n fun C => { C with
        evEn := BitVec.ofNat 8 (fld put 0 8), locate := fbit put 8, slowLimit := BitVec.ofNat 16 (fld put 16 16) }) n
    | 0x30 => s.updCask n fun C => { C with slowNs := BitVec.ofNat 32 (fld put 0 32) }
    | 0x48 => if hits lanes 0 2 then rackShareWrite s n put else s
    | 0x50 => if hits lanes 0 1 then rackLiveWrite s n put else s
    | 0x60 => if fw then s.updCask n fun C => { C with trim := put } else s
    | _ => s

/-- STO. -/
def stoPut (s : State) (fw : Bool) (o : Nat) (lanes : BitVec 8) (put ones : Word) : State :=
  match o with
  | 0x000 => { s with sto := { s.sto with setChange := w1c s.sto.setChange ones 2, paramErr := w1c s.sto.paramErr ones 3 } }
  | 0x008 => if hits lanes 0 4 then stoCtlWrite s put else s
  | 0x400 => if fw then { s with sto := { s.sto with trim := put } } else s
  | _ => s

/-- TSK. -/
def tskPut (s : State) (who : Who) (w : Window) (o : Nat) (lanes : BitVec 8) (put ones : Word) : State :=
  if !mayWin s who w then s
  else if o < 0x40 then taskWrite s w o ((leBytes 8 put.toNat).take (if lanes.getLsbD 7 then 8 else 7))
  else
    match o with
    | 0x40 => s.updWin w fun W => { W with
        dropped := w1c W.dropped ones 1, noRing := w1c W.noRing ones 2, cfgRefused := w1c W.cfgRefused ones 3, headErr := w1c W.headErr ones 4 }
    | 0x48 => cqBase s w put
    | 0x50 => if hits lanes 0 4 then cqCfg s w put else s
    | 0x58 => if hits lanes 0 2 then cqHead s w put else s
    | 0x68 => if hits lanes 0 1 && isManager s who then wparcel s w put else s
    | _ => s

/-- TIL. -/
def tilPut (s : State) (fw : Bool) (t o : Nat) (put ones : Word) : State :=
  match o with
  | 0x08 => s.updTile t fun T => { T with resetRefused := w1c T.resetRefused ones 6 }
  | 0x10 => s.updTile t fun T => { T with ctl := BitVec.ofNat 3 (fld put 0 3) }
  | 0x18 => if fbit ones 0 then tilReset s t else s
  | 0x58 => if fw then s.updTile t fun T => { T with debugCtl := put } else s
  | 0x60 => if fw then s.updTile t fun T => { T with trim := put } else s
  | _ => s

/-- TCH. -/
def tchPut (s : State) (who : Who) (fw : Bool) (t o : Nat) (lanes : BitVec 8) (put ones : Word) : State :=
  match o with
  | 0x00 => if hits lanes 0 1 then tchCtl s t put else s
  | 0x08 => s.updCache t fun C => { C with
      enableRefused := w1c C.enableRefused ones 1, busyRefused := w1c C.busyRefused ones 2, wayOff := w1c C.wayOff ones 3 }
  | 0x10 =>
    match fld ones 0 2 with
    | 0 => tchIdle s who t
    | 1 => tchMaint s who t .clean 1
    | 2 => tchMaint s who t .inv 2
    | _ => tchMaint s who t .cinv 3
  | 0x80 => if fw then s.updCache t fun C => { C with trim := put } else s
  | _ => s

/-- MMU. -/
def mmuPut (s : State) (who : Who) (t o : Nat) (put ones : Word) : State :=
  let upd := fun (f : Mmu → Mmu) => s.updTile t fun T => { T with mmu := f T.mmu }
  match o with
  | 0x08 => upd fun M => { M with invRefused := w1c M.invRefused ones 1, faultValid := w1c M.faultValid ones 2 }
  | 0x20 => upd fun M => { M with invAddr := put }
  | 0x28 => upd fun M => { M with invAst := BitVec.ofNat 16 (fld put 0 16) }
  | 0x30 => if fld ones 0 2 = 0 then mmuIdle s who t else mmuInv s who t (fbit ones 2) (fld ones 0 2)
  | _ => s

/-- An MSI-X entry: clearing its mask sends what waited (R446). -/
def msixPut (s : State) (f v : Nat) (high : Bool) (put : Word) : State :=
  let k := 2048 * f + v
  let e := Tab.get {} s.evt.msix k
  let set := fun (e : MsixEntry) => { s with evt := { s.evt with msix := Tab.set s.evt.msix k e } }
  if !high then set { e with addr := put }
  else
    let t := set { e with data := BitVec.ofNat 32 (fld put 0 32), mask := e.mask || fbit put 32 }
    if fbit put 32 then t else unmaskVector t f v

/-- Bytes of the recovery load window. -/
def windowPut (s : State) (o : Nat) (lanes : BitVec 8) (v : Word) : State :=
  if s.boot.stage ≠ 7 then s
  else s.updBoot fun B => { B with
    window := (List.range 8).foldl (fun m i => if lanes.getLsbD i then cellSet m (o + i) (BitVec.ofNat 8 (fld v (8 * i) 8)) else m) B.window }

/-- What a write of a register does. -/
def regPut (s : State) (who : Who) (fw : Bool) (l : Loc) (lanes : BitVec 8) (v : Word) : State :=
  let m := laneMask lanes
  let put := mergeMask m (BitVec.ofNat 64 (regValue s who fw l)) v
  let ones := v &&& m
  match l with
  | .glb o => glbPut s fw o put
  | .frm o => frmPut s fw o lanes put ones
  | .pwr o => pwrPut s fw o lanes put ones
  | .rst o => rstPut s fw o put ones
  | .boot o => bootPut s fw o put ones
  | .hlt o => hltPut s fw o put ones
  | .route i => routePut s who i lanes put
  | .pend n => pendPut s who n ones
  | .evt o => evtPut s fw o put ones
  | .ring f o => ringPut s f o lanes put
  | .mbx c o => mbxPut s who c o lanes put v
  | .bind c => if isManager s who then bindWrite s c put else s
  | .mbxBlock o => mbxBlockPut s o lanes put ones
  | .lock n => writeLock s who n ones
  | .grant n => { s with mbx := { s.mbx with grants := Tab.set s.mbx.grants n put } }
  | .pcl o => pclPut s o lanes put ones
  | .pclP p o => pclPPut s p o lanes put
  | .dsp o => dspPut s fw o lanes put ones
  | .mem k o => memPut s fw k o lanes put ones
  | .group g o => groupPut s fw g o put ones
  | .chan g c o => chanPut s who g c o put ones
  | .eng k n o => engPut s fw k n o put ones
  | .dgtCtl o => dgtPut s o lanes put v
  | .csk n o => cskPut s fw n o lanes put ones
  | .sto o => stoPut s fw o lanes put ones
  | .tsk f w o => tskPut s who (winOf f w) o lanes put ones
  | .til t o => if tilePresent s t then tilPut s fw t o put ones else s
  | .tch t o => if tilePresent s t then tchPut s who fw t o lanes put ones else s
  | .mmu t o => if tilePresent s t then mmuPut s who t o put ones else s
  | .tsel p => s.updParcel p fun P => { P with tsel := BitVec.ofNat 10 (fld put 0 10) }
  | .msix f v high => msixPut s f v high put
  | .window o => windowPut s o lanes v
  | .dspP _ _ | .smap _ _ | .pub _ _ | .viewId _ | .pba _ _ | .nowhere => s

/-- A write of the bytes of a register that `lanes` names; a requester that may only read writes nothing. -/
def writeRegister (s : State) (who : Who) (off : Nat) (lanes : BitVec 8) (v : Word) : State :=
  let x := locate s who (off / 8 * 8)
  if lanes = 0 then s
  else
    match x.2 with
    | .write => regPut s who false x.1 lanes v
    | .firmware => regPut s who true x.1 lanes v
    | _ => s

end Sys2Proof.Machine
end

