-- ==== Sys2Proof/Machine/Regs.lean ====
section
/-! DEFINITION. Register reads and writes without a row of their own (R7), and requests at the memory fabric (R212, R213, R216). -/

namespace Sys2Proof.Machine

/-- The port that must answer a request as an Unsupported Request, for its form (R450, R452). Firmware sends no TLP. -/
def unsupportedAt (s : State) (who : Who) (form : TlpForm) : Option Nat :=
  match who, form with
  | .firmware _, _ => none
  | .fn _, .plain => none
  | .fn f, _ => some (fnPort s f.val)

/-- An Unsupported Request: AER logs it, and it reaches no register (R450, R452). -/
def unsupported (s : State) (port : Nat) : State := s.updPort port HostPort.unsupported

/-- RC_READ: a read of a register. One that is an Unsupported Request ends in an error completion. -/
def execRcRead (who : Who) (off : BitVec 29) (lanes : Lanes) (s : State) : Host.Outcome State Fault Refusal :=
  ok (live s fun s =>
    match unsupportedAt s who lanes.form with
    | some port => { unsupported s port with lastEnd := .error }
    | none => { readRegister s who off.toNat lanes.mask with lastEnd := .good })

/-- REGISTER_WRITE: a write of a register acts by its access code. One that is an Unsupported Request is discarded. -/
def execRegisterWrite (who : Who) (off : BitVec 29) (lanes : Lanes) (value : Word) (s : State) :
    Host.Outcome State Fault Refusal :=
  ok (live s fun s =>
    match unsupportedAt s who lanes.form with
    | some port => unsupported s port
    | none => writeRegister s who off.toNat lanes.mask value)

-- ## Requests at the memory fabric

/-- The identity that a master's requests carry (R420). -/
def masterIdentity (s : State) : Master → Nat
  | .tile t => (Requester.tile t).identity s
  | .group g => (Requester.group g).identity s
  | .ce e => (Requester.eng .ce e).identity s
  | .de e => (Requester.eng .de e).identity s
  | .se e => (Requester.eng .se e).identity s
  | .loader p => (Requester.loader p).identity s
  | .dispatcher d _ => (Requester.dispatcher d).identity s
  | .mgmt k => (Requester.core k).identity s

/-- The parcel of a master; the management cores have none. -/
def masterParcel (s : State) : Master → Option Nat
  | .tile t => tileParcel s t
  | .group g => groupParcel s g
  | .ce e => engParcel s .ce e
  | .de e => engParcel s .de e
  | .se e => engParcel s .se e
  | .loader p => some p
  | .dispatcher _ p => some p
  | .mgmt _ => none

/-- The registers that a byte range names, with their lanes. -/
def regRuns (off n : Nat) : List (Nat × BitVec 8) :=
  if n = 0 then []
  else (List.range ((off + n - 1) / 8 - off / 8 + 1)).map fun i =>
    let r := off / 8 * 8 + 8 * i
    (r, BitVec.ofNat 8 (maskOf ((List.range 8).filter fun b => decide (off ≤ r + b) && decide (r + b < off + n))))

/-- Registers read by management core `k`; the first eight bytes are what it last read. -/
def coreRegRead (s : State) (k : Fin 4) (off n : Nat) : State :=
  let step := fun (acc : List Byte × State) (x : Nat × BitVec 8) =>
    let t := readRegister acc.2 (.firmware k) x.1 x.2
    let bs := leBytes 8 t.lastRead.toNat
    (acc.1 ++ (List.range 8).filterMap fun b => if x.2.getLsbD b then bs[b]? else none, t)
  let r := (regRuns off n).foldl step ([], s)
  { r.2 with lastRead := BitVec.ofNat 64 (leNat (r.1.take 8)) }

/-- Registers written by management core `k`. -/
def coreRegWrite (s : State) (k : Fin 4) (off : Nat) (bs : List Byte) : State :=
  (regRuns off bs.length).foldl (fun s x =>
    let v := leNat ((List.range 8).map fun b => if x.1 + b < off then 0 else (bs[x.1 + b - off]?).getD 0)
    writeRegister s (.firmware k) x.1 x.2 (BitVec.ofNat 64 v)) s

/-- Whether a management core's request meets an absent slice, or a tile of a fused-off quad (R26, R27). -/
def absentPlace (s : State) (a : Nat) : Bool :=
  match place a with
  | .cellar a => !slicePresent s (a / sliceBytes)
  | .tileStore t _ => !tilePresent s t
  | .inboxB t _ => !tilePresent s t
  | _ => false

/-- Whether the map gives an address contents at all. -/
def mapped (s : State) (a : Nat) : Bool :=
  match place a with
  | .reserved => false
  | .window p off => ((s.parcel p).windowDpa off).isSome
  | _ => true

/-- A request that is served: a read meets the line's check symbols first, and returns a line found uncorrectable marked poisoned (R220). -/
def serve (s : State) (p : Option Nat) (a : Nat) (op : MemOp) (ecc : Ecc) : State :=
  match op with
  | .read n =>
    let s := match canon s a with | some c => eccRead s c ecc | none => s
    let (bs, _, t) := fabricRead s a n
    { t with lastRead := BitVec.ofNat 64 (leNat (bs.take 8)), lastEnd := readEnd s a n }
  | .write bs poison => { noteHost (fabricWrite s a bs poison) p a with lastEnd := writeEnd s a bs.length }

/-- The bytes that a request names. -/
def memOpLen : MemOp → Nat
  | .read n => n
  | .write bs _ => bs.length

/-- Whether a byte range meets an absent unit: at its first byte or at its last. -/
def absentRange (s : State) (a n : Nat) : Bool := absentPlace s a || absentPlace s (a + n - 1)

/-- Write the parts of a byte string that meet no absent unit, line by line. -/
def writePresent (s : State) (a : Nat) (bs : List Byte) (poison : Bool) : State :=
  (linesOf a bs.length).foldl (fun s l =>
    let lo := max a l
    if absentPlace s lo then s else fabricWrite s lo (slice bs (lo - a) (min (l + 64) (a + bs.length) - lo)) poison) s

/-- A request of a management core that meets an absent unit: a read returns poisoned data, a write to the unit is discarded, and HEALTH
cause 3 is raised (R26, R27, R29). -/
def absentRequest (s : State) (a : Nat) (op : MemOp) : State :=
  let s := match op with
    | .read _ => { s with lastRead := Config.freeWord s.freeCtr, lastEnd := .poisoned, freeCtr := s.freeCtr + 1 }
    | .write bs poison => { writePresent s a bs poison with lastEnd := .good }
  raiseGlobal s 4 3

/-- A request refused before any access (R213): the target is unchanged. -/
def refuseRequest (s : State) : State := { s with lastEnd := .refused }

/-- A request of management core `k`: it reaches every range of the map. -/
def coreRequest (s : State) (k : Fin 4) (a : Nat) (op : MemOp) (ecc : Ecc) : State :=
  match place a, op with
  | .regs off, .read n => { coreRegRead s k off n with lastEnd := .good }
  | .regs off, .write bs _ => { coreRegWrite s k off bs with lastEnd := .good }
  | _, op =>
    if absentRange s a (memOpLen op) then absentRequest s a op
    else if mapped s a && mapped s (a + memOpLen op - 1) then serve s none a op ecc
    else refuseRequest s

/-- A request at the memory fabric: one outside what R212 allows is refused before any access. -/
def memRequest (s : State) (m : Master) (a : Nat) (op : MemOp) (ecc : Ecc) : State :=
  match m with
  | .mgmt k => coreRequest s k a op ecc
  | _ =>
    match masterParcel s m with
    | some p => if (s.parcel p).holds && allowedRange s p a (memOpLen op) then serve s (some p) a op ecc else refuseRequest s
    | none => refuseRequest s

/-- MEMORY_REQUEST. -/
def execMemoryRequest (m : Master) (dpa : Word) (op : MemOp) (ecc : Ecc) (s : State) : Host.Outcome State Fault Refusal :=
  ok (live s fun s => memRequest s m dpa.toNat op ecc)

end Sys2Proof.Machine
end

