-- ==== Sys2Proof/Machine/Vector.lean ====
section
/-! DEFINITION. Vector instructions that compute in registers: arithmetic, compares, logic, moves, permutes, reductions, scans and bit
operations (chapter 05, Tables 5 and 6). -/

namespace Sys2Proof.Machine

-- ## Shared forms

/-- Write f i to every active element of v[rd], elements being read as they stood at the start. -/
def mapActive (T : Tile) (rd pred : Nat) (f : Nat → Nat) : Tile :=
  (T.active pred).foldl (fun T' i => T'.setV rd i (f i)) T

/-- What an instruction does to the tile's registers, nothing where VSTART is at or above VL (R110). -/
def fromStart (f : Tile → Tile) (T : Tile) : Tile := if T.vl ≤ T.vstart.toNat then T else f T

/-- Run a vector instruction on the tile's registers (R106, R110). -/
def vecOp (s : State) (t : TileId) (legal : Tile → Bool) (f : Tile → Tile) : Host.Outcome State Fault Refusal :=
  issue s t fun s => if legal (s.tile t) then retireV s t (fromStart f) else takeIllegal s t

/-- Instructions marked W require VSTART 0 (R106, R110). -/
def startZero (T : Tile) : Bool := T.vstart == 0
/-- Floating point accepts widths 32 and 64. -/
def fpWidth (T : Tile) : Bool := decide (32 ≤ T.ew)

/-- Integer division with the results of chapter 04. -/
def divide (signed : Bool) (w a b : Nat) : Nat × Nat :=
  if b % 2 ^ w = 0 then (2 ^ w - 1, a % 2 ^ w)
  else if signed then
    let x := toSigned w a
    let y := toSigned w b
    (ofInt w (x.tdiv y), ofInt w (x.tmod y))
  else (a % 2 ^ w / (b % 2 ^ w), a % 2 ^ w % (b % 2 ^ w))

/-- A value held within the range of a signedness. -/
def saturate (signed : Bool) (w : Nat) (z : Int) : Nat :=
  let lo : Int := if signed then -(2 ^ (w - 1) : Nat) else 0
  let hi : Int := if signed then (2 ^ (w - 1) - 1 : Nat) else (2 ^ w - 1 : Nat)
  ofInt w (max lo (min hi z))

/-- Minimum or maximum by signedness. -/
def minMax (mx signed : Bool) (w a b : Nat) : Nat :=
  if decide (ival signed w a < ival signed w b) = mx then b % 2 ^ w else a % 2 ^ w

/-- Leading zeros of a `w`-bit number. -/
def clz (w n : Nat) : Nat := if n % 2 ^ w = 0 then w else w - 1 - (n % 2 ^ w).log2
/-- Trailing zeros. -/
def ctz (w n : Nat) : Nat := (findBelow w fun i => bitOf n i).getD w

-- ## Major 0x20

/-- One element of integer arithmetic. -/
def vintElem (op : VIntOp) (signed : Bool) (w a b : Nat) : Nat :=
  let x := ival signed w a
  let y := ival signed w b
  match op with
  | .vadd => (a + b) % 2 ^ w
  | .vsub => (a + 2 ^ w - b % 2 ^ w) % 2 ^ w
  | .vmul => a * b % 2 ^ w
  | .vmulh => ofInt w ((x * y) / (2 ^ w : Nat))
  | .vmin => minMax false signed w a b
  | .vmax => minMax true signed w a b
  | .vsadd => saturate signed w (x + y)
  | .vssub => saturate signed w (x - y)
  | .vabsd => ofInt w ((x - y).natAbs : Int)

/-- VADD to VABSD. -/
def execVintArith (t : TileId) (op : VIntOp) (vs : Bool) (rd rs1 rs2 : Reg) (pred : PReg) (s : State) : Host.Outcome State Fault Refusal :=
  vecOp s t (fun _ => true) fun T =>
    mapActive T rd.toNat pred.toNat fun i => vintElem op T.signed T.ew (T.elem rs1.toNat i) (T.src2 vs rs2.toNat i)

/-- VDIV, VREM. -/
def execVdiv (t : TileId) (op : VDivOp) (vs : Bool) (rd rs1 rs2 : Reg) (pred : PReg) (s : State) : Host.Outcome State Fault Refusal :=
  vecOp s t (fun _ => true) fun T =>
    mapActive T rd.toNat pred.toNat fun i =>
      let q := divide T.signed T.ew (T.elem rs1.toNat i) (T.src2 vs rs2.toNat i)
      match op with
      | .vdiv => q.1
      | .vrem => q.2

-- ## Major 0x21

/-- One element of floating point. -/
def vfpElem (op : VFpOp) (signed : Bool) (w d a b : Nat) : Nat :=
  match op with
  | .vfadd => fAdd w a b
  | .vfsub => fSub w a b
  | .vfmul => fMul w a b
  | .vfdiv => fDiv w a b
  | .vfsqrt => fSqrt w a
  | .vfmin => fMinMax false w a b
  | .vfmax => fMinMax true w a b
  | .vfma => fFma w d a b
  | .vfcvtFX => fOfInt w (ival signed w a)
  | .vfcvtXF => ofInt w (fToInt w w signed a)
  | .vfabs => fAbs w a
  | .vfneg => fNeg w a

/-- VFADD to VFNEG. -/
def execVfpArith (t : TileId) (op : VFpOp) (vs : Bool) (rd rs1 rs2 : Reg) (pred : PReg) (s : State) : Host.Outcome State Fault Refusal :=
  vecOp s t fpWidth fun T =>
    mapActive T rd.toNat pred.toNat fun i =>
      vfpElem op T.signed T.ew (T.elem rd.toNat i) (T.elem rs1.toNat i) (T.fsrc2 vs rs2.toNat i)

-- ## Major 0x22

/-- Whether a compare reads floating point. -/
def cmpFloat : VCmpOp → Bool
  | .feq => true | .flt => true | .fle => true | .funord => true
  | _ => false

/-- One element of a compare. -/
def vcmpElem (op : VCmpOp) (signed : Bool) (w a b : Nat) : Bool :=
  let x := ival signed w a
  let y := ival signed w b
  match op with
  | .eq => x == y
  | .ne => x != y
  | .lt => decide (x < y)
  | .le => decide (x ≤ y)
  | .gt => decide (y < x)
  | .ge => decide (y ≤ x)
  | .feq => fEq w a b
  | .flt => fLt w a b
  | .fle => fLe w a b
  | .funord => fIsNan w a || fIsNan w b

/-- VCMP forms. -/
def execVcmp (t : TileId) (op : VCmpOp) (vs : Bool) (pd : PReg) (rs1 rs2 : Reg) (pred : PReg) (s : State) : Host.Outcome State Fault Refusal :=
  vecOp s t (fun T => !cmpFloat op || fpWidth T) fun T =>
    (T.active pred.toNat).foldl (fun T' i =>
      T'.setP pd.toNat i (vcmpElem op T.signed T.ew (T.elem rs1.toNat i)
        (if cmpFloat op then T.fsrc2 vs rs2.toNat i else T.src2 vs rs2.toNat i))) T

-- ## Major 0x23

/-- One element of logic or a shift; the count is the low log2(w) bits (R112). -/
def vlogicElem (op : VLogicOp) (signed : Bool) (w a b : Nat) : Nat :=
  match op with
  | .vand => a &&& b
  | .vor => a ||| b
  | .vxor => a ^^^ b
  | .vandn => a &&& (2 ^ w - 1 - b)
  | .vsll => a * 2 ^ (b % w) % 2 ^ w
  | .vsr => ofInt w (ival signed w a / (2 ^ (b % w) : Nat))
  | .vnot => 2 ^ w - 1 - a

/-- VAND to VNOT. -/
def execVlogic (t : TileId) (op : VLogicOp) (vs : Bool) (rd rs1 rs2 : Reg) (pred : PReg) (s : State) : Host.Outcome State Fault Refusal :=
  vecOp s t (fun _ => true) fun T =>
    mapActive T rd.toNat pred.toNat fun i => vlogicElem op T.signed T.ew (T.elem rs1.toNat i) (T.src2 vs rs2.toNat i)

/-- Predicate logic on all 512 bits. -/
def plogic (op : PLogicOp) (a b : BitVec 512) : BitVec 512 :=
  match op with
  | .pand => a &&& b
  | .por => a ||| b
  | .pxor => a ^^^ b
  | .pandn => a &&& ~~~b
  | .pnot => ~~~a

/-- PAND to PNOT: they ignore VL and VSTART, and retire like every vector instruction with VSTART 0 (R110). -/
def execPredicateLogic (t : TileId) (op : PLogicOp) (pd ps1 ps2 : PReg) (s : State) : Host.Outcome State Fault Refusal :=
  issue s t fun s => retireV s t fun T => T.pPut pd.toNat (plogic op (T.pGet ps1.toNat) (T.pGet ps2.toNat))

-- ## Major 0x24

/-- VSEL. -/
def execVsel (t : TileId) (rd rs1 rs2 : Reg) (pred : PReg) (s : State) : Host.Outcome State Fault Refusal :=
  vecOp s t (fun _ => true) fun T =>
    T.span.foldl (fun T' i => T'.setV rd.toNat i (if T.sel pred.toNat i then T.elem rs1.toNat i else T.elem rs2.toNat i)) T

/-- Number a list's members from 0. -/
def numbered (l : List Nat) : List (Nat × Nat) := (List.range l.length).zip l

/-- VCOMPRESS. -/
def execVcompress (t : TileId) (rd rs1 : Reg) (pred : PReg) (s : State) : Host.Outcome State Fault Refusal :=
  vecOp s t startZero fun T =>
    (numbered (T.active pred.toNat)).foldl (fun T' ni => T'.setV rd.toNat ni.1 (T.elem rs1.toNat ni.2)) T

/-- VEXPAND. -/
def execVexpand (t : TileId) (rd rs1 : Reg) (pred : PReg) (s : State) : Host.Outcome State Fault Refusal :=
  vecOp s t startZero fun T =>
    (numbered (T.active pred.toNat)).foldl (fun T' ni => T'.setV rd.toNat ni.2 (T.elem rs1.toNat ni.1)) T

/-- VMV. -/
def execVmv (t : TileId) (rd rs1 : Reg) (pred : PReg) (s : State) : Host.Outcome State Fault Refusal :=
  vecOp s t (fun _ => true) fun T => mapActive T rd.toNat pred.toNat fun i => T.elem rs1.toNat i

/-- VMV.VS. -/
def execVmvVs (t : TileId) (rd rs1 : Reg) (pred : PReg) (s : State) : Host.Outcome State Fault Refusal :=
  vecOp s t (fun _ => true) fun T => mapActive T rd.toNat pred.toNat fun _ => (T.sGet rs1.toNat).toNat

/-- VMV.SV. -/
def execVmvSv (t : TileId) (rd rs1 rs2 : Reg) (s : State) : Host.Outcome State Fault Refusal :=
  vecOp s t startZero fun T =>
    let i := (T.sGet rs2.toNat).toNat
    T.sPut rd.toNat (if T.vlmax ≤ i then 0 else ext T.signed T.ew (T.elem rs1.toNat i))

/-- VINS: element s[rs2] when it is active, that is at or above VSTART and below VL (R109). -/
def execVins (t : TileId) (rd rs1 rs2 : Reg) (s : State) : Host.Outcome State Fault Refusal :=
  vecOp s t (fun _ => true) fun T =>
    let i := (T.sGet rs2.toNat).toNat
    if i < T.vl && T.vstart.toNat ≤ i then T.setV rd.toNat i (T.sGet rs1.toNat).toNat else T

/-- VIOTA. -/
def execViota (t : TileId) (rd : Reg) (pred : PReg) (s : State) : Host.Outcome State Fault Refusal :=
  vecOp s t (fun _ => true) fun T => mapActive T rd.toNat pred.toNat fun i => i

-- ## Major 0x25

/-- VPERM. -/
def execVperm (t : TileId) (rd rs1 rs2 : Reg) (pred : PReg) (s : State) : Host.Outcome State Fault Refusal :=
  vecOp s t startZero fun T =>
    mapActive T rd.toNat pred.toNat fun i => if T.elem rs2.toNat i < T.vl then T.elem rs1.toNat (T.elem rs2.toNat i) else 0

/-- VSLIDEUP. -/
def execVslideup (t : TileId) (rd rs1 rs2 : Reg) (pred : PReg) (s : State) : Host.Outcome State Fault Refusal :=
  vecOp s t startZero fun T =>
    let k := (T.sGet rs2.toNat).toNat
    mapActive T rd.toNat pred.toNat fun i => if k ≤ i then T.elem rs1.toNat (i - k) else T.elem rd.toNat i

/-- VSLIDEDN. -/
def execVslidedn (t : TileId) (rd rs1 rs2 : Reg) (pred : PReg) (s : State) : Host.Outcome State Fault Refusal :=
  vecOp s t startZero fun T =>
    let k := (T.sGet rs2.toNat).toNat
    mapActive T rd.toNat pred.toNat fun i => if i + k < T.vl then T.elem rs1.toNat (i + k) else 0

/-- VREV. -/
def execVrev (t : TileId) (rd rs1 : Reg) (pred : PReg) (s : State) : Host.Outcome State Fault Refusal :=
  vecOp s t startZero fun T => mapActive T rd.toNat pred.toNat fun i => T.elem rs1.toNat (T.vl - 1 - i)

-- ## Major 0x26 (R119)

/-- Combine two values of an integer reduction. -/
def vredCombine (op : VRedOp) (signed : Bool) (w a b : Nat) : Nat :=
  match op with
  | .sum => (a + b) % 2 ^ w
  | .min => minMax false signed w a b
  | .max => minMax true signed w a b
  | .and => a &&& b
  | .or => a ||| b
  | .xor => a ^^^ b

/-- VREDSUM to VREDXOR. -/
def execVred (t : TileId) (op : VRedOp) (rd rs1 rs2 : Reg) (pred : PReg) (s : State) : Host.Outcome State Fault Refusal :=
  vecOp s t startZero fun T =>
    let r := (T.active pred.toNat).foldl (fun a i => vredCombine op T.signed T.ew a (T.elem rs1.toNat i)) ((T.sGet rs2.toNat).toNat % 2 ^ T.ew)
    T.sPut rd.toNat (ext T.signed T.ew r)

/-- Add neighbours of a list. -/
def pairUp (f : Nat → Nat → Nat) : List Nat → List Nat
  | a :: b :: l => f a b :: pairUp f l
  | l => l

/-- A balanced binary tree over a list of a power of two. -/
def treeSum (f : Nat → Nat → Nat) : Nat → List Nat → Nat
  | 0, l => l.headD 0
  | n + 1, l => treeSum f n (pairUp f l)

/-- VFREDSUM, VFREDMIN, VFREDMAX. -/
def execVfredsum (t : TileId) (op : VFRedOp) (rd rs1 rs2 : Reg) (pred : PReg) (s : State) : Host.Outcome State Fault Refusal :=
  vecOp s t (fun T => startZero T && fpWidth T) fun T =>
    let w := T.ew
    let act := T.active pred.toNat
    let c := T.fGet rs2.toNat % 2 ^ w
    let r := match op with
      | .sum => fAdd w c (treeSum (fAdd w) 7 ((List.range T.vlmax).map fun i => if act.contains i then T.elem rs1.toNat i else 0))
      | .min => fResult w (act.foldl (fun a i => fMinMax false w a (T.elem rs1.toNat i)) c)
      | .max => fResult w (act.foldl (fun a i => fMinMax true w a (T.elem rs1.toNat i)) c)
    T.fPut rd.toNat r

-- ## Major 0x27 (R120)

/-- Combine two values of a scan. -/
def vscanCombine (op : VScanOp) (signed : Bool) (w a b : Nat) : Nat :=
  match op with
  | .add => (a + b) % 2 ^ w
  | .min => minMax false signed w a b
  | .max => minMax true signed w a b
  | .or => a ||| b

/-- Scan the elements below VL: the running value restarts at each segment, and inactive elements contribute nothing. -/
def scanLoop (T : Tile) (op : VScanOp) (rd rs1 seg pred : Nat) : List Nat → Option Nat → Tile → Tile
  | [], _, T' => T'
  | i :: rest, acc, T' =>
    let acc := if T.sel seg i then none else acc
    if T.sel pred i then
      let x := T.elem rs1 i
      let y := match acc with | some a => vscanCombine op T.signed T.ew a x | none => x
      scanLoop T op rd rs1 seg pred rest (some y) (T'.setV rd i y)
    else scanLoop T op rd rs1 seg pred rest acc T'

/-- VSCANADD to VSCANOR. -/
def execVscan (t : TileId) (op : VScanOp) (rd rs1 : Reg) (seg pred : PReg) (s : State) : Host.Outcome State Fault Refusal :=
  vecOp s t startZero fun T => scanLoop T op rd.toNat rs1.toNat seg.toNat pred.toNat (List.range T.vl) none T

-- ## Major 0x28

/-- One element of a bit count. -/
def vbitElem (op : VBitOp) (w a : Nat) : Nat :=
  match op with
  | .vpopc => popcount w a
  | .vclz => clz w a
  | .vctz => ctz w a

/-- VPOPC, VCLZ, VCTZ. -/
def execVpopc (t : TileId) (op : VBitOp) (rd rs1 : Reg) (pred : PReg) (s : State) : Host.Outcome State Fault Refusal :=
  vecOp s t (fun _ => true) fun T => mapActive T rd.toNat pred.toNat fun i => vbitElem op T.ew (T.elem rs1.toNat i)

/-- PCNT. -/
def execPcnt (t : TileId) (rd : Reg) (ps : PReg) (s : State) : Host.Outcome State Fault Refusal :=
  vecOp s t startZero fun T =>
    T.sPut rd.toNat (BitVec.ofNat 64 ((List.range T.vl).filter fun i => T.sel ps.toNat i).length)

/-- PFIRST. -/
def execPfirst (t : TileId) (rd : Reg) (ps : PReg) (s : State) : Host.Outcome State Fault Refusal :=
  vecOp s t startZero fun T =>
    T.sPut rd.toNat (BitVec.ofNat 64 ((findBelow T.vl fun i => T.sel ps.toNat i).getD T.vl))

/-- VCRC32C. -/
def execVcrc32c (t : TileId) (rd rs1 rs2 : Reg) (pred : PReg) (s : State) : Host.Outcome State Fault Refusal :=
  vecOp s t startZero fun T =>
    let bs := (T.active pred.toNat).flatMap fun i => leBytes (T.ew / 8) (T.elem rs1.toNat i)
    T.sPut rd.toNat (BitVec.ofNat 64 (crc32c (T.sGet rs2.toNat).toNat bs))

/-- VCRC32C.E. -/
def execVcrc32cE (t : TileId) (rd rs1 rs2 : Reg) (pred : PReg) (s : State) : Host.Outcome State Fault Refusal :=
  vecOp s t fpWidth fun T =>
    mapActive T rd.toNat pred.toNat fun i => crc32c (T.sGet rs2.toNat).toNat (leBytes (T.ew / 8) (T.elem rs1.toNat i))

-- ## VSORT (R130)

/-- The pairs an exchange step compares. -/
def sortPairs (vl k : Nat) : List (Nat × Nat) :=
  ((List.range vl).filter fun i => !bitOf i k && decide (i + 2 ^ k < vl)).map fun i => (i, i + 2 ^ k)

/-- VSORT. -/
def execVsort (t : TileId) (k m : BitVec 4) (rd rs1 : Reg) (s : State) : Host.Outcome State Fault Refusal :=
  vecOp s t (fun T => startZero T && rd != rs1 && decide (2 ^ k.toNat < T.vl)
      && (m == 0xF || (decide (1 ≤ m.toNat) && decide (m.toNat ≤ 9) && decide (k.toNat < m.toNat)))) fun T =>
    (sortPairs T.vl k.toNat).foldl (fun T' ij =>
      let a := T.elem rd.toNat ij.1
      let b := T.elem rd.toNat ij.2
      let up := m == 0xF || !bitOf ij.1 m.toNat
      let x := ival T.signed T.ew a
      let y := ival T.signed T.ew b
      if if up then y < x else x < y then
        (((T'.setV rd.toNat ij.1 b).setV rd.toNat ij.2 a).setV rs1.toNat ij.1 (T.elem rs1.toNat ij.2)).setV rs1.toNat ij.2 (T.elem rs1.toNat ij.1)
      else T') T

end Sys2Proof.Machine
end

