-- ==== Sys2Proof/Machine/Dispatch.lean ====
section
/-! DEFINITION. One arm per command: which meaning it has. -/

namespace Sys2Proof.Machine

/-- The effect of a command on everything but the queue. -/
def exec (i : Instr) (s : State) : Host.Outcome State Fault Refusal :=
  match i with
  | .globalBoundary => Sys2Proof.Machine.execGlobalBoundary s
  | .guardWindowOpen => Sys2Proof.Machine.execGuardWindowOpen s
  | .frmPeriodWrite who value => Sys2Proof.Machine.execFrmPeriodWrite who value s
  | .frmHoldLimitWrite who value => Sys2Proof.Machine.execFrmHoldLimitWrite who value s
  | .ptmRequestTimer => Sys2Proof.Machine.execPtmRequestTimer s
  | .ptmDialogueComplete hostNs => Sys2Proof.Machine.execPtmDialogueComplete hostNs s
  | .frmPtmFrameRead who => Sys2Proof.Machine.execFrmPtmFrameRead who s
  | .frmPtmHostRead who => Sys2Proof.Machine.execFrmPtmHostRead who s
  | .loadImage win => Sys2Proof.Machine.execLoadImage win s
  | .imageStreamData p r => Sys2Proof.Machine.execImageStreamData p r s
  | .tiledataCopyDone p => Sys2Proof.Machine.execTiledataCopyDone p s
  | .unloadImage win => Sys2Proof.Machine.execUnloadImage win s
  | .salu t op rd rs1 rs2 => Sys2Proof.Machine.execSalu t op rd rs1 rs2 s
  | .aluImmediate t op rd rs1 imm => Sys2Proof.Machine.execAluImmediate t op rd rs1 imm s
  | .lui t rd imm => Sys2Proof.Machine.execLui t rd imm s
  | .shifti t kind rd rs1 count => Sys2Proof.Machine.execShifti t kind rd rs1 count s
  | .crc32cD t rd rs1 rs2 => Sys2Proof.Machine.execCrc32cD t rd rs1 rs2 s
  | .sld t uns size rd rs1 imm => Sys2Proof.Machine.execSld t uns size rd rs1 imm s
  | .sst t size rd rs1 imm => Sys2Proof.Machine.execSst t size rd rs1 imm s
  | .sldt t uns size rd rs1 imm => Sys2Proof.Machine.execSldt t uns size rd rs1 imm s
  | .sstt t size rd rs1 imm => Sys2Proof.Machine.execSstt t size rd rs1 imm s
  | .branch t cond rs1 rs2 off => Sys2Proof.Machine.execBranch t cond rs1 rs2 off s
  | .jal t rd off => Sys2Proof.Machine.execJal t rd off s
  | .jalr t rd rs1 imm => Sys2Proof.Machine.execJalr t rd rs1 imm s
  | .sfp t op dbl rd rs1 rs2 => Sys2Proof.Machine.execSfp t op dbl rd rs1 rs2 s
  | .illegalInstruction t => Sys2Proof.Machine.execIllegalInstruction t s
  | .vintArith t op vs rd rs1 rs2 pred => Sys2Proof.Machine.execVintArith t op vs rd rs1 rs2 pred s
  | .vdiv t op vs rd rs1 rs2 pred => Sys2Proof.Machine.execVdiv t op vs rd rs1 rs2 pred s
  | .vfpArith t op vs rd rs1 rs2 pred => Sys2Proof.Machine.execVfpArith t op vs rd rs1 rs2 pred s
  | .vcmp t op vs pd rs1 rs2 pred => Sys2Proof.Machine.execVcmp t op vs pd rs1 rs2 pred s
  | .vlogic t op vs rd rs1 rs2 pred => Sys2Proof.Machine.execVlogic t op vs rd rs1 rs2 pred s
  | .predicateLogic t op pd ps1 ps2 => Sys2Proof.Machine.execPredicateLogic t op pd ps1 ps2 s
  | .vsel t rd rs1 rs2 pred => Sys2Proof.Machine.execVsel t rd rs1 rs2 pred s
  | .vcompress t rd rs1 pred => Sys2Proof.Machine.execVcompress t rd rs1 pred s
  | .vexpand t rd rs1 pred => Sys2Proof.Machine.execVexpand t rd rs1 pred s
  | .vmv t rd rs1 pred => Sys2Proof.Machine.execVmv t rd rs1 pred s
  | .vmvVs t rd rs1 pred => Sys2Proof.Machine.execVmvVs t rd rs1 pred s
  | .vmvSv t rd rs1 rs2 => Sys2Proof.Machine.execVmvSv t rd rs1 rs2 s
  | .vins t rd rs1 rs2 => Sys2Proof.Machine.execVins t rd rs1 rs2 s
  | .viota t rd pred => Sys2Proof.Machine.execViota t rd pred s
  | .vperm t rd rs1 rs2 pred => Sys2Proof.Machine.execVperm t rd rs1 rs2 pred s
  | .vslideup t rd rs1 rs2 pred => Sys2Proof.Machine.execVslideup t rd rs1 rs2 pred s
  | .vslidedn t rd rs1 rs2 pred => Sys2Proof.Machine.execVslidedn t rd rs1 rs2 pred s
  | .vrev t rd rs1 pred => Sys2Proof.Machine.execVrev t rd rs1 pred s
  | .vred t op rd rs1 rs2 pred => Sys2Proof.Machine.execVred t op rd rs1 rs2 pred s
  | .vfredsum t op rd rs1 rs2 pred => Sys2Proof.Machine.execVfredsum t op rd rs1 rs2 pred s
  | .vscan t op rd rs1 seg pred => Sys2Proof.Machine.execVscan t op rd rs1 seg pred s
  | .vpopc t op rd rs1 pred => Sys2Proof.Machine.execVpopc t op rd rs1 pred s
  | .pcnt t rd ps => Sys2Proof.Machine.execPcnt t rd ps s
  | .pfirst t rd ps => Sys2Proof.Machine.execPfirst t rd ps s
  | .vcrc32c t rd rs1 rs2 pred => Sys2Proof.Machine.execVcrc32c t rd rs1 rs2 pred s
  | .vcrc32cE t rd rs1 rs2 pred => Sys2Proof.Machine.execVcrc32cE t rd rs1 rs2 pred s
  | .vld t ts ff rd rs1 pred => Sys2Proof.Machine.execVld t ts ff rd rs1 pred s
  | .vst t ts rd rs1 pred => Sys2Proof.Machine.execVst t ts rd rs1 pred s
  | .vlds t ts ff rd rs1 rs2 pred => Sys2Proof.Machine.execVlds t ts ff rd rs1 rs2 pred s
  | .vsts t ts rd rs1 rs2 pred => Sys2Proof.Machine.execVsts t ts rd rs1 rs2 pred s
  | .vgather t ts ff iw sc rd rs1 rs2 pred => Sys2Proof.Machine.execVgather t ts ff iw sc rd rs1 rs2 pred s
  | .vscatter t ts iw sc rd rs1 rs2 pred => Sys2Proof.Machine.execVscatter t ts iw sc rd rs1 rs2 pred s
  | .vhash t slot rd rs1 pred => Sys2Proof.Machine.execVhash t slot rd rs1 pred s
  | .vhashT t slot rd rs1 rs2 pred => Sys2Proof.Machine.execVhashT t slot rd rs1 rs2 pred s
  | .vunpk t n1 sx rd rs1 rs2 pred => Sys2Proof.Machine.execVunpk t n1 sx rd rs1 rs2 pred s
  | .vdict t iw rd rs1 rs2 pred => Sys2Proof.Machine.execVdict t iw rd rs1 rs2 pred s
  | .vsort t k m rd rs1 => Sys2Proof.Machine.execVsort t k m rd rs1 s
  | .vredM t op rd rs1 rs2 pred => Sys2Proof.Machine.execVredM t op rd rs1 rs2 pred s
  | .csrr t rd csr => Sys2Proof.Machine.execCsrr t rd csr s
  | .csrw t csr rs1 => Sys2Proof.Machine.execCsrw t csr rs1 s
  | .obxLenWrite t rs1 => Sys2Proof.Machine.execObxLenWrite t rs1 s
  | .estop t rs1 => Sys2Proof.Machine.execEstop t rs1 s
  | .eret t => Sys2Proof.Machine.execEret t s
  | .fdone t => Sys2Proof.Machine.execFdone t s
  | .fdoneEos t => Sys2Proof.Machine.execFdoneEos t s
  | .dqGet t rd rs1 => Sys2Proof.Machine.execDqGet t rd rs1 s
  | .dqDelivery t => Sys2Proof.Machine.execDqDelivery t s
  | .dqDone t => Sys2Proof.Machine.execDqDone t s
  | .dqPut t rd rs1 => Sys2Proof.Machine.execDqPut t rd rs1 s
  | .vsetvl t rd rs1 vt => Sys2Proof.Machine.execVsetvl t rd rs1 vt s
  | .fence t => Sys2Proof.Machine.execFence t s
  | .dcCleanVa t rs1 => Sys2Proof.Machine.execDcCleanVa t rs1 s
  | .dcInvVa t rs1 => Sys2Proof.Machine.execDcInvVa t rs1 s
  | .dcCinvVa t rs1 => Sys2Proof.Machine.execDcCinvVa t rs1 s
  | .dcCleanRange t rs1 rs2 => Sys2Proof.Machine.execDcCleanRange t rs1 rs2 s
  | .dcInvRange t rs1 rs2 => Sys2Proof.Machine.execDcInvRange t rs1 rs2 s
  | .dcCinvRange t rs1 rs2 => Sys2Proof.Machine.execDcCinvRange t rs1 rs2 s
  | .dcCleanAll t => Sys2Proof.Machine.execDcCleanAll t s
  | .dcInvAll t => Sys2Proof.Machine.execDcInvAll t s
  | .dcCinvAll t => Sys2Proof.Machine.execDcCinvAll t s
  | .tlbiVa t rs1 rs2 => Sys2Proof.Machine.execTlbiVa t rs1 rs2 s
  | .tlbiAst t rs1 => Sys2Proof.Machine.execTlbiAst t rs1 s
  | .tlbiAll t => Sys2Proof.Machine.execTlbiAll t s
  | .tlbiVaP t rs1 rs2 => Sys2Proof.Machine.execTlbiVaP t rs1 rs2 s
  | .tlbiAstP t rs1 => Sys2Proof.Machine.execTlbiAstP t rs1 s
  | .tlbiAllP t => Sys2Proof.Machine.execTlbiAllP t s
  | .tlbsync t => Sys2Proof.Machine.execTlbsync t s
  | .invalidationComplete p => Sys2Proof.Machine.execInvalidationComplete p s
  | .decodeDoorbell t rd => Sys2Proof.Machine.execDecodeDoorbell t rd s
  | .decodeCommandBegin t => Sys2Proof.Machine.execDecodeCommandBegin t s
  | .decodeStep t => Sys2Proof.Machine.execDecodeStep t s
  | .decodeStall t => Sys2Proof.Machine.execDecodeStall t s
  | .recordDelivery src => Sys2Proof.Machine.execRecordDelivery src s
  | .tilResetGo who t => Sys2Proof.Machine.execTilResetGo who t s
  | .tileResetDone t => Sys2Proof.Machine.execTileResetDone t s
  | .sortDoorbell t rd => Sys2Proof.Machine.execSortDoorbell t rd s
  | .sortJobEnd e => Sys2Proof.Machine.execSortJobEnd e s
  | .reductionApply n => Sys2Proof.Machine.execReductionApply n s
  | .memoryRequest m dpa op ecc => Sys2Proof.Machine.execMemoryRequest m dpa op ecc s
  | .scrubLine k ecc => Sys2Proof.Machine.execScrubLine k ecc s
  | .memScrubCtlWrite who k value => Sys2Proof.Machine.execMemScrubCtlWrite who k value s
  | .memUeAddrClear who k => Sys2Proof.Machine.execMemUeAddrClear who k s
  | .cacheLineFill t dpa => Sys2Proof.Machine.execCacheLineFill t dpa s
  | .prefetchFill t => Sys2Proof.Machine.execPrefetchFill t s
  | .sideLineExpire t => Sys2Proof.Machine.execSideLineExpire t s
  | .ceWindowEnd t => Sys2Proof.Machine.execCeWindowEnd t s
  | .cacheWayDisable t w => Sys2Proof.Machine.execCacheWayDisable t w s
  | .tchCtlWrite who t value => Sys2Proof.Machine.execTchCtlWrite who t value s
  | .tchDisableDone t => Sys2Proof.Machine.execTchDisableDone t s
  | .tchMaintCleanAll who t => Sys2Proof.Machine.execTchMaintCleanAll who t s
  | .tchMaintInvalidateAll who t => Sys2Proof.Machine.execTchMaintInvalidateAll who t s
  | .tchMaintCleanInvalidate who t => Sys2Proof.Machine.execTchMaintCleanInvalidate who t s
  | .tchMaintDone t => Sys2Proof.Machine.execTchMaintDone t s
  | .walkDescriptorRead u va k ecc busError => Sys2Proof.Machine.execWalkDescriptorRead u va k ecc busError s
  | .mmuInvByAddress who t parcelWide => Sys2Proof.Machine.execMmuInvByAddress who t parcelWide s
  | .mmuInvByAst who t parcelWide => Sys2Proof.Machine.execMmuInvByAst who t parcelWide s
  | .mmuInvAll who t parcelWide => Sys2Proof.Machine.execMmuInvAll who t parcelWide s
  | .map win => Sys2Proof.Machine.execMap win s
  | .unmap win => Sys2Proof.Machine.execUnmap win s
  | .dmaStart who g c ctl => Sys2Proof.Machine.execDmaStart who g c ctl s
  | .dmaAbort who g c => Sys2Proof.Machine.execDmaAbort who g c s
  | .dmaRequest g c src => Sys2Proof.Machine.execDmaRequest g c src s
  | .moverDoorbell t rd => Sys2Proof.Machine.execMoverDoorbell t rd s
  | .burstStart g c => Sys2Proof.Machine.execBurstStart g c s
  | .burstComplete g c r => Sys2Proof.Machine.execBurstComplete g c r s
  | .dmaBusError g c dpa onWrite => Sys2Proof.Machine.execDmaBusError g c dpa onWrite s
  | .dmaGStoppedClear who g => Sys2Proof.Machine.execDmaGStoppedClear who g s
  | .compressionDoorbell t rd => Sys2Proof.Machine.execCompressionDoorbell t rd s
  | .cmpJobSuspend e => Sys2Proof.Machine.execCmpJobSuspend e s
  | .cmpOutputBlock e => Sys2Proof.Machine.execCmpOutputBlock e s
  | .cmpJobEnd e upset => Sys2Proof.Machine.execCmpJobEnd e upset s
  | .digestDoorbell t rd => Sys2Proof.Machine.execDigestDoorbell t rd s
  | .dgtJobSuspend e => Sys2Proof.Machine.execDgtJobSuspend e s
  | .dgtJobEnd e => Sys2Proof.Machine.execDgtJobEnd e s
  | .managementJobStart e job => Sys2Proof.Machine.execManagementJobStart e job s
  | .managementJobDone e => Sys2Proof.Machine.execManagementJobDone e s
  | .dgtKeyOwnWrite who j value => Sys2Proof.Machine.execDgtKeyOwnWrite who j value s
  | .dgtCmpGo who value => Sys2Proof.Machine.execDgtCmpGo who value s
  | .dgtCompareDone => Sys2Proof.Machine.execDgtCompareDone s
  | .caskPresenceChange n present => Sys2Proof.Machine.execCaskPresenceChange n present s
  | .cskPerstRelease n => Sys2Proof.Machine.execCskPerstRelease n s
  | .caskLinkUp l => Sys2Proof.Machine.execCaskLinkUp l s
  | .caskLinkTimeout n => Sys2Proof.Machine.execCaskLinkTimeout n s
  | .caskIdentified n ident => Sys2Proof.Machine.execCaskIdentified n ident s
  | .caskLinkDown n => Sys2Proof.Machine.execCaskLinkDown n s
  | .caskFatalReport n => Sys2Proof.Machine.execCaskFatalReport n s
  | .caskCommandTimeout n => Sys2Proof.Machine.execCaskCommandTimeout n s
  | .caskWearRead n page => Sys2Proof.Machine.execCaskWearRead n page s
  | .caskWearSample n => Sys2Proof.Machine.execCaskWearSample n s
  | .slowReadTimeout n => Sys2Proof.Machine.execSlowReadTimeout n s
  | .caskReadDone n r => Sys2Proof.Machine.execCaskReadDone n r s
  | .stripeMoveCommit n => Sys2Proof.Machine.execStripeMoveCommit n s
  | .migrationComplete n => Sys2Proof.Machine.execMigrationComplete n s
  | .rebuildComplete n => Sys2Proof.Machine.execRebuildComplete n s
  | .caskPrepareRemove win => Sys2Proof.Machine.execCaskPrepareRemove win s
  | .cskRackShareWrite who n value => Sys2Proof.Machine.execCskRackShareWrite who n value s
  | .cskRackLiveWrite who n value => Sys2Proof.Machine.execCskRackLiveWrite who n value s
  | .taskSubmit win off bytes => Sys2Proof.Machine.execTaskSubmit win off bytes s
  | .unlistedOpcode win => Sys2Proof.Machine.execUnlistedOpcode win s
  | .commandDataRead win tag r got => Sys2Proof.Machine.execCommandDataRead win tag r got s
  | .read win => Sys2Proof.Machine.execRead win s
  | .write win hostData => Sys2Proof.Machine.execWrite win hostData s
  | .flush win => Sys2Proof.Machine.execFlush win s
  | .deallocate win => Sys2Proof.Machine.execDeallocate win s
  | .stripeCloseTimeout set => Sys2Proof.Machine.execStripeCloseTimeout set s
  | .stripeChunksAcked set => Sys2Proof.Machine.execStripeChunksAcked set s
  | .stripeCommit set => Sys2Proof.Machine.execStripeCommit set s
  | .journalReplayDone set => Sys2Proof.Machine.execJournalReplayDone set s
  | .nsReadaheadReady g c => Sys2Proof.Machine.execNsReadaheadReady g c s
  | .execute win => Sys2Proof.Machine.execExecute win s
  | .cancel win => Sys2Proof.Machine.execCancel win s
  | .resume win => Sys2Proof.Machine.execResume win s
  | .queryStatus win => Sys2Proof.Machine.execQueryStatus win s
  | .cellarCopy win => Sys2Proof.Machine.execCellarCopy win s
  | .createNs win => Sys2Proof.Machine.execCreateNs win s
  | .deleteNs win => Sys2Proof.Machine.execDeleteNs win s
  | .attachNs win => Sys2Proof.Machine.execAttachNs win s
  | .identify win => Sys2Proof.Machine.execIdentify win s
  | .getLog win => Sys2Proof.Machine.execGetLog win s
  | .setFeature win => Sys2Proof.Machine.execSetFeature win s
  | .getFeature win => Sys2Proof.Machine.execGetFeature win s
  | .fwStage win => Sys2Proof.Machine.execFwStage win s
  | .fwCommit win => Sys2Proof.Machine.execFwCommit win s
  | .parcelCreate win => Sys2Proof.Machine.execParcelCreate win s
  | .parcelBuildDone p => Sys2Proof.Machine.execParcelBuildDone p s
  | .parcelDestroy win => Sys2Proof.Machine.execParcelDestroy win s
  | .parcelReset win => Sys2Proof.Machine.execParcelReset win s
  | .vfFlr v => Sys2Proof.Machine.execVfFlr v s
  | .tskCqCfgWrite who win value => Sys2Proof.Machine.execTskCqCfgWrite who win value s
  | .tskCqBaseWrite who win value => Sys2Proof.Machine.execTskCqBaseWrite who win value s
  | .tskCqHeadWrite who win value => Sys2Proof.Machine.execTskCqHeadWrite who win value s
  | .tskWparcelWrite who win value => Sys2Proof.Machine.execTskWparcelWrite who win value s
  | .parcelIdleTimeout p => Sys2Proof.Machine.execParcelIdleTimeout p s
  | .powerStateExitDone p => Sys2Proof.Machine.execPowerStateExitDone p s
  | .ps4IdleTimeout => Sys2Proof.Machine.execPs4IdleTimeout s
  | .pclFrameDivWrite who p value => Sys2Proof.Machine.execPclFrameDivWrite who p value s
  | .pclParkLimitWrite who p value => Sys2Proof.Machine.execPclParkLimitWrite who p value s
  | .pclVfSplitWrite who value => Sys2Proof.Machine.execPclVfSplitWrite who value s
  | .pclIdleWrite who p k value => Sys2Proof.Machine.execPclIdleWrite who p k value s
  | .mbxSend who c value => Sys2Proof.Machine.execMbxSend who c value s
  | .mbxTake who c => Sys2Proof.Machine.execMbxTake who c s
  | .mbxStaleTimeout c => Sys2Proof.Machine.execMbxStaleTimeout c s
  | .mbxBindWrite who c value => Sys2Proof.Machine.execMbxBindWrite who c value s
  | .mbxBindLockSet who value => Sys2Proof.Machine.execMbxBindLockSet who value s
  | .lockRead who n => Sys2Proof.Machine.execLockRead who n s
  | .lockWrite who n value => Sys2Proof.Machine.execLockWrite who n value s
  | .lckForce who value => Sys2Proof.Machine.execLckForce who value s
  | .evtRouteWrite who n value => Sys2Proof.Machine.execEvtRouteWrite who n value s
  | .evtPendClear who n value => Sys2Proof.Machine.execEvtPendClear who n value s
  | .evtRingCfgWrite who f isBase value => Sys2Proof.Machine.execEvtRingCfgWrite who f isBase value s
  | .evtRingHeadWrite who f value => Sys2Proof.Machine.execEvtRingHeadWrite who f value s
  | .hostLinkDown port => Sys2Proof.Machine.execHostLinkDown port s
  | .perstAssert port mgrStrap bootSrc => Sys2Proof.Machine.execPerstAssert port mgrStrap bootSrc s
  | .pf0Flr port => Sys2Proof.Machine.execPf0Flr port s
  | .configRequest port req => Sys2Proof.Machine.execConfigRequest port req s
  | .portOrderReadDone port failed => Sys2Proof.Machine.execPortOrderReadDone port failed s
  | .oscillatorMeasure q ppm => Sys2Proof.Machine.execOscillatorMeasure q ppm s
  | .linkMarginMeasure n margin => Sys2Proof.Machine.execLinkMarginMeasure n margin s
  | .poweredDayEnd => Sys2Proof.Machine.execPoweredDayEnd s
  | .i3cPrivateWrite w => Sys2Proof.Machine.execI3cPrivateWrite w s
  | .i3cPrivateRead r => Sys2Proof.Machine.execI3cPrivateRead r s
  | .hltCeLimitWrite who value => Sys2Proof.Machine.execHltCeLimitWrite who value s
  | .coldPowerOn mgrStrap bootSrc => Sys2Proof.Machine.execColdPowerOn mgrStrap bootSrc s
  | .railLoss r => Sys2Proof.Machine.execRailLoss r s
  | .refclkSysLoss => Sys2Proof.Machine.execRefclkSysLoss s
  | .temperatureUpdate die dieTemp stack stackTemp => Sys2Proof.Machine.execTemperatureUpdate die dieTemp stack stackTemp s
  | .thermalTrip die temp => Sys2Proof.Machine.execThermalTrip die temp s
  | .rstCtlWrite who value => Sys2Proof.Machine.execRstCtlWrite who value s
  | .watchdogExpiry => Sys2Proof.Machine.execWatchdogExpiry s
  | .firmwareReady micros failedStacks => Sys2Proof.Machine.execFirmwareReady micros failedStacks s
  | .bootRecGo g => Sys2Proof.Machine.execBootRecGo g s
  | .pwrCtlWrite who value => Sys2Proof.Machine.execPwrCtlWrite who value s
  | .pwrPs4IdleWrite who value => Sys2Proof.Machine.execPwrPs4IdleWrite who value s
  | .stoCtlWrite who value => Sys2Proof.Machine.execStoCtlWrite who value s
  | .dspAffDepthWrite who value => Sys2Proof.Machine.execDspAffDepthWrite who value s
  | .tapInstructionLoad x => Sys2Proof.Machine.execTapInstructionLoad x s
  | .rcRead who off lanes => Sys2Proof.Machine.execRcRead who off lanes s
  | .registerWrite who off lanes value => Sys2Proof.Machine.execRegisterWrite who off lanes value s
  | .vddAonLoss => Sys2Proof.Machine.execVddAonLoss s
  | .railsGood => Sys2Proof.Machine.execRailsGood s
  | .perstDeassert port => Sys2Proof.Machine.execPerstDeassert port s
  | .hostLinkUp port => Sys2Proof.Machine.execHostLinkUp port s
  | .dynamicAddressAssignment addr => Sys2Proof.Machine.execDynamicAddressAssignment addr s
  | .linkErrorCorrected n => Sys2Proof.Machine.execLinkErrorCorrected n s
  | .parcelResetComplete p => Sys2Proof.Machine.execParcelResetComplete p s
  | .quiescingEnd p => Sys2Proof.Machine.execQuiescingEnd p s
  | .attentionIndicatorBlink n => Sys2Proof.Machine.execAttentionIndicatorBlink n s
  | .msixVectorUnmask f v => Sys2Proof.Machine.execMsixVectorUnmask f v s

end Sys2Proof.Machine
end

