-- ==== Sys2Proof/Machine/Step.lean ====
section
/-! DEFINITION. One step: the command in front of the queue, or one tile cycle when none waits. -/

namespace Sys2Proof.Machine

/-- Take the command in front of the queue and run it with the queue's rest; with an empty queue one tile cycle passes
(DESIGN CHOICE, log entry 2). -/
def step (s : State) : Host.Outcome State Fault Refusal :=
  match s.pending with
  | [] => .next (idleCycle s)
  | c :: cs => exec c { s with pending := cs }

/-- The command that a word spells, put in front of the queue: no row of the table has bits. -/
def State.withFetchWord (s : State) (nbits w : Nat) : State :=
  match Sys2Proof.decodeTableWord nbits w with
  | some c => { s with pending := c :: s.pending }
  | none => s

end Sys2Proof.Machine
end

