-- ==== Sys2Proof/Safety.lean ====
section
/-! DEFINITION. The terms of the claims: safe runs, the invariants of the machine, and the results of instructions as the manual states
them, in integers. -/

namespace Sys2Proof.Machine

-- ## Runs

/-- A step is safe when it answers a next state: the model neither faults nor refuses. -/
def Safe (s : State) : Prop := ∃ t, step s = .next t

/-- The clocks run: the engine acts on commands (R475, R480). -/
def Clocked (s : State) : Prop := s.pwr.stopped = false

/-- Tile `t` executes: the clocks run, the tile is running, not in reset, and waits for nothing. -/
def TileRuns (s : State) (t : Nat) : Prop := Clocked s ∧ (s.tile t).executes = true

-- ## Invariants

/-- Memory is in its canonical form. -/
def State.memOk (s : State) : Prop := s.mem.wf = true

/-- The frame generator's settings are ones that it accepts (R33, Table 11 of chapter 02). -/
def Frm.legal (F : Frm) : Prop :=
  600 ≤ F.period.toNat ∧ F.period.toNat ≤ 38400 ∧ 600 ≤ F.periodNow.toNat ∧ F.periodNow.toNat ≤ 38400 ∧ F.hold ≠ 0 ∧ F.holdNow ≠ 0

-- ## Results of scalar instructions

/-- Major 0x01 (chapter 05, Table 4; division as chapter 04 has it). -/
def scalarSpec (op : SaluOp) (a b : Word) : Word :=
  let x := a.toInt
  let y := b.toInt
  let n := b.toNat % 64
  match op with
  | .add => BitVec.ofInt 64 (x + y)
  | .sub => BitVec.ofInt 64 (x - y)
  | .and => a &&& b
  | .or => a ||| b
  | .xor => a ^^^ b
  | .sll => BitVec.ofNat 64 (a.toNat * 2 ^ n)
  | .srl => BitVec.ofNat 64 (a.toNat / 2 ^ n)
  | .sra => BitVec.ofInt 64 (x / 2 ^ n)
  | .slt => BitVec.ofNat 64 (b2n (decide (x < y)))
  | .sltu => BitVec.ofNat 64 (b2n (decide (a.toNat < b.toNat)))
  | .mul => BitVec.ofInt 64 (x * y)
  | .mulh => BitVec.ofInt 64 (x * y / 2 ^ 64)
  | .mulhu => BitVec.ofNat 64 (a.toNat * b.toNat / 2 ^ 64)
  | .div => if y = 0 then BitVec.allOnes 64 else if x = -2 ^ 63 ∧ y = -1 then a else BitVec.ofInt 64 (x.tdiv y)
  | .divu => if b.toNat = 0 then BitVec.allOnes 64 else BitVec.ofNat 64 (a.toNat / b.toNat)
  | .rem => if y = 0 then a else if x = -2 ^ 63 ∧ y = -1 then 0 else BitVec.ofInt 64 (x.tmod y)
  | .remu => if b.toNat = 0 then a else BitVec.ofNat 64 (a.toNat % b.toNat)
  | .min => BitVec.ofInt 64 (min x y)
  | .max => BitVec.ofInt 64 (max x y)
  | .minu => BitVec.ofNat 64 (min a.toNat b.toNat)
  | .maxu => BitVec.ofNat 64 (max a.toNat b.toNat)
  | .popc => BitVec.ofNat 64 ((List.range 64).filter fun i => a.getLsbD i).length
  | .clz => BitVec.ofNat 64 ((List.range 64).filter fun i => decide (a.toNat < 2 ^ i)).length
  | .ctz => BitVec.ofNat 64 ((List.range 64).filter fun i => decide (a.toNat % 2 ^ (i + 1) = 0)).length

/-- The immediate forms: the immediate is sign-extended for ADDI, SLTI and SLTIU and zero-extended for the logic forms. -/
def immSpec (op : ImmOp) (a : Word) (imm : BitVec 16) : Word :=
  match op with
  | .addi => BitVec.ofInt 64 (a.toInt + imm.toInt)
  | .andi => a &&& BitVec.ofNat 64 imm.toNat
  | .ori => a ||| BitVec.ofNat 64 imm.toNat
  | .xori => a ^^^ BitVec.ofNat 64 imm.toNat
  | .slti => BitVec.ofNat 64 (b2n (decide (a.toInt < imm.toInt)))
  | .sltiu => BitVec.ofNat 64 (b2n (decide (a.toNat < (BitVec.ofInt 64 imm.toInt).toNat)))

/-- The kinds of SHIFTI as operations of major 0x01. -/
def shiftOp : ShiftKind → SaluOp
  | .sll => .sll
  | .srl => .srl
  | .sra => .sra

/-- Whether a branch condition holds. -/
def branchSpec (c : BrCond) (a b : Word) : Prop :=
  match c with
  | .eq => a = b
  | .ne => a ≠ b
  | .lt => a.toInt < b.toInt
  | .ge => b.toInt ≤ a.toInt
  | .ltu => a.toNat < b.toNat
  | .geu => b.toNat ≤ a.toNat

-- ## Results of vector instructions

/-- Element `j` is active (R109). -/
def isActive (T : Tile) (p j : Nat) : Bool := decide (j < T.vl) && decide (T.vstart.toNat ≤ j) && T.sel p j

/-- What a vector instruction leaves: it retires with VSTART 0, it changes no more of the state than vector registers of its tile, and
of their elements those of v[rd] to which `val` gives a value. -/
def WroteVector (s s' : State) (t rd : Nat) (val : Nat → Option Nat) : Prop :=
  (∃ m, s' = s.updTile t fun T => { T with vRegs := m, vstart := 0, pc := T.pc + 4, unparked := false }) ∧
  ∀ k j, j < (s.tile t).vlmax →
    (s'.tile t).elem k j = if k = rd then (val j).getD ((s.tile t).elem k j) else (s.tile t).elem k j

/-- The outcome is a next state in which the instruction wrote a vector register so. -/
def VectorResult (o : Host.Outcome State Fault Refusal) (s : State) (t rd : Nat) (val : Nat → Option Nat) : Prop :=
  ∃ s', o = .next s' ∧ WroteVector s s' t rd val

/-- The value an integer operation gives an element, modulo 2^w (R112). -/
def vintSpec (op : VIntOp) (signed : Bool) (w a b : Nat) : Int :=
  let x := ival signed w a
  let y := ival signed w b
  let lo : Int := if signed then -2 ^ (w - 1) else 0
  let hi : Int := if signed then 2 ^ (w - 1) - 1 else 2 ^ w - 1
  match op with
  | .vadd => x + y
  | .vsub => x - y
  | .vmul => x * y
  | .vmulh => x * y / 2 ^ w
  | .vmin => min x y
  | .vmax => max x y
  | .vsadd => max lo (min hi (x + y))
  | .vssub => max lo (min hi (x - y))
  | .vabsd => ((x - y).natAbs : Int)

/-- The value a division gives an element: the results that chapter 04 states for scalar division. -/
def vdivSpec (op : VDivOp) (signed : Bool) (w a b : Nat) : Int :=
  let x := ival signed w a
  let y := ival signed w b
  match op with
  | .vdiv => if y = 0 then 2 ^ w - 1 else x.tdiv y
  | .vrem => if y = 0 then x else x.tmod y

/-- The value a logic operation or a shift gives an element. -/
def vlogicSpec (op : VLogicOp) (signed : Bool) (w a b : Nat) : Int :=
  match op with
  | .vand => (a &&& b : Nat)
  | .vor => (a ||| b : Nat)
  | .vxor => (a ^^^ b : Nat)
  | .vandn => (a : Int) - (a &&& b : Nat)
  | .vsll => (a * 2 ^ (b % w) : Nat)
  | .vsr => ival signed w a / 2 ^ (b % w)
  | .vnot => 2 ^ w - 1 - (a : Int)

/-- What a compare says of two elements (R112, Table 5). -/
def vcmpSpec (op : VCmpOp) (signed : Bool) (w a b : Nat) : Bool :=
  let x := ival signed w a
  let y := ival signed w b
  match op with
  | .eq => decide (x = y)
  | .ne => decide (x ≠ y)
  | .lt => decide (x < y)
  | .le => decide (x ≤ y)
  | .gt => decide (x > y)
  | .ge => decide (x ≥ y)
  | .feq => fEq w a b
  | .flt => fLt w a b
  | .fle => fLe w a b
  | .funord => fIsNan w a || fIsNan w b

/-- What a bit count gives an element: the set bits; the leading zeros; the trailing zeros. -/
def vbitSpec (op : VBitOp) (w a : Nat) : Nat :=
  match op with
  | .vpopc => ((List.range w).filter fun i => bitOf a i).length
  | .vclz => ((List.range w).filter fun i => decide (a < 2 ^ i)).length
  | .vctz => ((List.range w).filter fun i => decide (a % 2 ^ (i + 1) = 0)).length

/-- A reduction of elements into a starting value, on integers (R119). -/
def vredSpec (op : VRedOp) (signed : Bool) (w c : Nat) (l : List Nat) : Int :=
  match op with
  | .sum => ival signed w (l.foldl (· + ·) c)
  | .min => l.foldl (fun m x => min m (ival signed w x)) (ival signed w c)
  | .max => l.foldl (fun m x => max m (ival signed w x)) (ival signed w c)
  | .and => ival signed w (l.foldl (· &&& ·) c)
  | .or => ival signed w (l.foldl (· ||| ·) c)
  | .xor => ival signed w (l.foldl (· ^^^ ·) c)

/-- A scan over the elements of a segment up to one of them, first element first (R120). -/
def vscanSpec (op : VScanOp) (signed : Bool) (w : Nat) : List Nat → Int
  | [] => 0
  | x :: l =>
    match op with
    | .add => (l.foldl (· + ·) x : Nat)
    | .min => l.foldl (fun m y => min m (ival signed w y)) (ival signed w x)
    | .max => l.foldl (fun m y => max m (ival signed w y)) (ival signed w x)
    | .or => (l.foldl (· ||| ·) x : Nat)

/-- The first element of the segment that holds element `j` (R120). -/
def segStart (T : Tile) (seg j : Nat) : Nat := ((List.range (j + 1)).filter fun i => T.sel seg i).getLastD 0

/-- The outcome is a next state in which an instruction wrote predicate register `pd` so: it retires with VSTART 0 and changes no more of
the state than predicate registers of its tile, and of their bits those of `pd`, p0 excepted, to which `val` gives a value. -/
def PredicateResult (o : Host.Outcome State Fault Refusal) (s : State) (t pd : Nat) (val : Nat → Option Bool) : Prop :=
  ∃ s' m, o = .next s' ∧ s' = s.updTile t (fun T => { T with pRegs := m, vstart := 0, pc := T.pc + 4, unparked := false }) ∧
    ∀ k b, b < 512 → ((s'.tile t).pGet k).getLsbD b
      = if k = pd ∧ k ≠ 0 then (val b).getD (((s.tile t).pGet k).getLsbD b) else ((s.tile t).pGet k).getLsbD b

-- ## Memory as tile code reaches it

/-- A tile-store form reads `n` bytes at `off`: aligned, inside what R84 allows, and free of poison. -/
def TsReads (s : State) (t off n : Nat) : Prop := off % n = 0 ∧ tsLoadBad s t off n = false ∧ s.tsPoison t off n = none

/-- A tile-store form writes `n` bytes at `off`: aligned, and inside what R84 allows. -/
def TsWrites (s : State) (t off n : Nat) : Prop := off % n = 0 ∧ tsStoreBad s t off n = false

/-- Where tile `t`'s MMU has a walk in flight, or has kept what one ended in, it is for this access: a tile makes its accesses one after another,
and goes on to another one by ending the walk of the last (log entry 26). -/
def WalksFor (s : State) (t va : Nat) (k : AccessKind) : Prop :=
  (∀ w, (s.tile t).mmu.tlb.walk = some w → w.serves va k = true) ∧ ∀ r, (s.tile t).mmu.tlb.result = some r → r.va = va ∧ r.kind = k

/-- An access of tile `t` finds its page in the TLB: entry `e` of parcel `p`, which takes the access to `dpa` of the cellar, at the place within 4 KiB
that the address has (R246). -/
def Hits (s : State) (t va : Nat) (k : AccessKind) (p : Nat) (e : TlbEntry) (dpa : Nat) : Prop :=
  va < 2 ^ 48 ∧ WalksFor s t va k ∧ tileParcel s t = some p ∧ (s.tile t).mmu.tlb.lookup va = some e ∧ dpa = e.base + va % 2 ^ e.sizeLog2 ∧
    dpa % 4096 = va % 4096 ∧ ∃ a, place dpa = .cellar a

/-- A memory form of tile `t` reaches the cellar at `dpa` by its address `va`: aligned, the page in the tile's TLB, its leaf permitting the
access, the fabric admitting it, and the tile cache disabled. -/
def Reaches (s : State) (t va n : Nat) (k : AccessKind) (dpa : Nat) : Prop :=
  va % n = 0 ∧ (s.tile t).cache.en = false ∧ ∃ p e, Hits s t va k p e dpa ∧ permReason s p e k dpa = none

/-- What a memory form reads there: the bytes of storage, none of them poisoned. -/
def Reads (s : State) (t va n dpa : Nat) : Prop := Reaches s t va n .load dpa ∧ ∀ i, i < n → s.mem.poisoned (dpa + i) = false

/-- No word that was reduced into in this frame, and no byte that a running sort job may write, lies in a range: what is stored there stands
(R170, R181). -/
def Mem.quiet (m : Mem) (a n : Nat) : Prop :=
  (∀ r ∈ m.reduced, a + n ≤ r.1 ∨ r.2 ≤ a) ∧ ∀ r ∈ m.churn, a + n ≤ r.lo ∨ r.hi ≤ a

/-- Memory `m'` is `m` with bytes stored at `a`: they stand there, and every other byte is as it was. -/
def Stored (m m' : Mem) (a : Nat) (bs : List Byte) : Prop :=
  m'.wf = true ∧ ∀ b, m'.byte b = if a ≤ b ∧ b < a + bs.length then (bs[b - a]?).getD 0 else m.byte b

-- ## Wear

/-- The end of life that R340 predicts from samples of day and wear fraction, oldest first: `e` holds eol, early and late. With se2 the square of R340's
se, a prediction is at least k days where k of its steps stay within what is left, 1 - wn; the steps of early and late are b + 2 se and b - 2 se, and their
inequalities stand here squared. -/
def EolRule (l : List (Nat × Nat × Nat)) (e : Nat × Nat × Nat) : Prop :=
  let sum := fun (f : Rat → Rat → Rat) => (l.map fun x => f x.1 ((x.2.1 : Rat) / x.2.2)).sum
  let n : Rat := l.length
  let tbar := sum (fun t _ => t) / n
  let wbar := sum (fun _ w => w) / n
  let sxx := sum fun t _ => (t - tbar) * (t - tbar)
  let b := (sum fun t w => (t - tbar) * (w - wbar)) / sxx
  let a := wbar - b * tbar
  let se2 := (sum fun t w => (w - a - b * t) * (w - a - b * t)) / (n - 2) / sxx
  let left := 1 - (a + b * ((l.getLast?.map (·.1)).getD 0 : Nat))
  (l.length < 7 → e = (0xFFFF, 0xFFFF, 0xFFFF)) ∧
  (7 ≤ l.length →
    (left ≤ 0 → e = (0, 0, 0)) ∧
    (0 < left → b ≤ 0 → e = (0xFFFF, 0xFFFF, 0xFFFF)) ∧
    (0 < left → 0 < b → e.1 ≤ 65534 ∧ e.2.1 ≤ 65534 ∧ (4 * se2 < b * b → e.2.2 ≤ 65534) ∧ (b * b ≤ 4 * se2 → e.2.2 = 0xFFFF) ∧
      ∀ k : Nat, k ≤ 65534 →
        (k ≤ e.1 ↔ k * b ≤ left) ∧
        (k ≤ e.2.1 ↔ k * b ≤ left ∧ 4 * (k * k * se2) ≤ (left - k * b) * (left - k * b)) ∧
        (4 * se2 < b * b → (k ≤ e.2.2 ↔ k * b ≤ left ∨ (k * b - left) * (k * b - left) ≤ 4 * (k * k * se2)))))

-- ## Outcomes of commands

/-- State `t` is one in which the outcome of command `c` has just been decided, with a status and a detail, after what `eff` says. -/
def Ended (t : State) (c : Cmd) (status : Nat) (det : List Byte) (eff : State → Prop) : Prop := ∃ u, eff u ∧ t = endCmd u c status det

/-- In state `t` the EXECUTE that parcel `p` runs in `s` is over: none runs, its tiles are idle, and the channels of its programs have stopped. -/
def ExecOver (s t : State) (p : Nat) : Prop :=
  (t.parcel p).exec = none ∧ (∀ i ∈ (s.parcel p).tiles, (t.tile i).run = .idle) ∧
    ∀ g ∈ setBits 64 (s.parcel p).groups.toNat, ∀ c, c < 16 → (s.chan g c).prog.isSome = true → (t.chan g c).busy = false

/-- Every stage of a pipeline was done before the guard window opened: each of its tiles has executed FDONE by then (R36 to R38). -/
def PipeDone (s : State) (P : Parcel) (k : Nat) : Prop :=
  ∀ e ∈ P.image.stages, e.pipeline = k → ∀ i ∈ poolTiles P e, (s.tile i).run = .fdone ∧ (s.tile i).fdoneLate = false

/-- A tile of a pipeline is parked on a fault (R44). -/
def PipeParked (s : State) (P : Parcel) (k : Nat) : Prop :=
  ∃ e ∈ P.image.stages, e.pipeline = k ∧ ∃ i ∈ poolTiles P e, (s.tile i).run = .parked

/-- What steps 1 to 4 of R415 leave of parcel `p`, which stood in `s`: a new vintage, the empty image, nothing running or waiting on any of its units, its
key slots empty and every command of its windows ended; its units, its tables and its settings are as they were. -/
def ParcelStopped (s t : State) (p : Nat) : Prop :=
  let P := s.parcel p
  let Q := t.parcel p
  Q.vintage = (if P.vintage = 0xFFFF then 1 else P.vintage + 1) ∧ Q.exec = none ∧ Q.loader = none ∧ Q.image = {} ∧
    Q.dsp.pending = [] ∧ Q.dsp.ready = [] ∧ Q.dsp.waiting = [] ∧ Q.dsp.heldBack = [] ∧
    (∀ i ∈ P.tiles, (t.tile i).run = .idle ∧ (t.tile i).inReset = true ∧ (t.tile i).localQ = [] ∧ (t.tile i).decQ = []) ∧
    (∀ g ∈ setBits 64 P.groups.toNat, ∀ c, c < 16 → (t.chan g c).busy = false ∧ (t.chan g c).reqPending = 0) ∧
    (∀ e ∈ setBits 16 P.se.toNat, (t.eng .se e).jobs = []) ∧ (∀ e ∈ setBits 16 P.ce.toNat, (t.eng .ce e).jobs = []) ∧
    (∀ e ∈ setBits 16 P.de.toNat, (t.eng .de e).jobs = []) ∧
    (∀ e ∈ t.dgt.keys, e.2.owner = .parcel p → e.2.key = none) ∧ (∀ d ∈ t.cmds, d.parcel = some p → d.phase = .decided) ∧
    Q.units = P.units ∧ Q.root = P.root ∧ Q.tablesUsed = P.tablesUsed ∧ Q.div = P.div ∧ Q.park = P.park ∧ Q.vf = P.vf

end Sys2Proof.Machine
end

