-- ==== Sys2Proof/Certificates/Slice0/Obligations.lean ====
section
/-! DEFINITION. The statements for the provers. -/

open Sys2Proof Sys2Proof.Machine

-- ## The step

/-- A step takes the command at the front of the queue and runs it on the state with the queue's rest; with an empty queue one tile
cycle passes (the model's choice, log entry 2). -/
def Obligations.StepRunsFront : Prop :=
  ∀ s : State, (∀ c cs, s.pending = c :: cs → step s = exec c { s with pending := cs }) ∧ (s.pending = [] → step s = .next (idleCycle s))

/-- The engine never stops the model: every command, listed or not, in any state, is answered by a next state. -/
def Obligations.NoFaultNoRefusal : Prop := ∀ s : State, Safe s

-- ## Scalar instructions

/-- Scalar integer instructions write their result to s[rd], s0 excepted, and go on to the next instruction; nothing else changes. -/
def Obligations.ScalarIntegerResults : Prop :=
  ∀ (s : State) (t : TileId), TileRuns s t → ∀ rd rs1 rs2 : Reg,
    let a := (s.tile t).sGet rs1.toNat
    let b := (s.tile t).sGet rs2.toNat
    let put := fun (x : Word) => Host.Outcome.next (retire s t fun T => T.sPut rd.toNat x)
    (∀ op, exec (.salu t op rd rs1 rs2) s = put (scalarSpec op a b)) ∧
    (∀ op imm, exec (.aluImmediate t op rd rs1 imm) s = put (immSpec op a imm)) ∧
    (∀ imm, exec (.lui t rd imm) s = put (BitVec.ofInt 64 (imm.toInt * 2 ^ 16))) ∧
    (∀ k c, exec (.shifti t k rd rs1 c) s = put (scalarSpec (shiftOp k) a (BitVec.ofNat 64 c.toNat))) ∧
    exec (.crc32cD t rd rs1 rs2) s = put (BitVec.ofNat 64 (crc32c (a.toNat % 2 ^ 32) (leBytes 8 b.toNat)))

/-- Branches and jumps: the target, the link register, and s0, which takes no link. -/
def Obligations.BranchesAndJumps : Prop :=
  ∀ (s : State) (t : TileId), TileRuns s t → ∀ rd rs1 rs2 : Reg,
    let T := s.tile t
    let a := T.sGet rs1.toNat
    let b := T.sGet rs2.toNat
    let go := fun (f : Tile → Tile) (pc : Word) => Host.Outcome.next (s.updTile t fun T => { f T with pc := pc, unparked := false })
    (∀ c off, branchSpec c a b → exec (.branch t c rs1 rs2 off) s = go id (T.pc + BitVec.ofInt 64 (4 * off.toInt))) ∧
    (∀ c off, ¬ branchSpec c a b → exec (.branch t c rs1 rs2 off) s = go id (T.pc + 4)) ∧
    (∀ off, exec (.jal t rd off) s = go (fun T => T.sPut rd.toNat (T.pc + 4)) (T.pc + BitVec.ofInt 64 (4 * off.toInt))) ∧
    (∀ imm, exec (.jalr t rd rs1 imm) s
      = go (fun T => T.sPut rd.toNat (T.pc + 4)) (BitVec.ofNat 64 ((a + BitVec.ofInt 64 imm.toInt).toNat / 4 * 4)))

-- ## Floating point

/-- Scalar floating point: the result goes to f[rd] with the bits above it cleared, or to s[rd] for the compares, FCVT.X.F and FMV.X.F; nothing
else changes. Every NaN result is the canonical quiet NaN; a minimum or maximum with one NaN operand is the other operand; −0 orders below +0; a
compare with a NaN is false. -/
def Obligations.ScalarFloatResults : Prop :=
  (∀ (s : State) (t : TileId), TileRuns s t → ∀ (dbl : Bool) (rd rs1 rs2 : Reg),
     let w := if dbl then 64 else 32
     let a := ((s.tile t).vGet rs1.toNat).toNat % 2 ^ w
     let b := ((s.tile t).vGet rs2.toNat).toNat % 2 ^ w
     let c := ((s.tile t).vGet rd.toNat).toNat % 2 ^ w
     let x := (s.tile t).sGet rs1.toNat
     let run := fun op => exec (.sfp t op dbl rd rs1 rs2) s
     let toF := fun (r : Nat) => Host.Outcome.next (retire s t fun T => T.vPut rd.toNat (BitVec.ofNat 4096 (r % 2 ^ w)))
     let toS := fun (y : Word) => Host.Outcome.next (retire s t fun T => T.sPut rd.toNat y)
     run .fadd = toF (fAdd w a b) ∧ run .fsub = toF (fSub w a b) ∧ run .fmul = toF (fMul w a b) ∧ run .fdiv = toF (fDiv w a b) ∧
     run .fsqrt = toF (fSqrt w a) ∧ run .fmin = toF (fMinMax false w a b) ∧ run .fmax = toF (fMinMax true w a b) ∧
     run .fma = toF (fFma w c a b) ∧ run .fcvtFX = toF (fOfInt w x.toInt) ∧ run .fmvFX = toF x.toNat ∧
     run .feq = toS (if fEq w a b then 1 else 0) ∧ run .flt = toS (if fLt w a b then 1 else 0) ∧ run .fle = toS (if fLe w a b then 1 else 0) ∧
     run .fcvtXF = toS (BitVec.ofInt 64 (fToInt w 64 true a)) ∧ run .fmvXF = toS (BitVec.ofNat 64 a)) ∧
  (∀ w nan : Nat, (w = 32 ∧ nan = 0x7FC00000) ∨ (w = 64 ∧ nan = 0x7FF8000000000000) →
     (∀ a b c : Nat, ∀ r ∈ [fAdd w a b, fSub w a b, fMul w a b, fDiv w a b, fSqrt w a, fFma w c a b, fMinMax true w a b, fMinMax false w a b],
       fIsNan w r = true → r = nan) ∧
     (∀ (mx : Bool) (a b : Nat), a < 2 ^ w → b < 2 ^ w → fIsNan w a = true → fIsNan w b = false → fMinMax mx w a b = b ∧ fMinMax mx w b a = b) ∧
     (∀ (mx : Bool) (a b : Nat), fIsNan w a = true → fIsNan w b = true → fMinMax mx w a b = nan) ∧
     (∀ a ∈ [0, 2 ^ (w - 1)], ∀ b ∈ [0, 2 ^ (w - 1)], fMinMax false w a b = max a b ∧ fMinMax true w a b = min a b) ∧
     (∀ a b : Nat, fIsNan w a = true ∨ fIsNan w b = true → fEq w a b = false ∧ fLt w a b = false ∧ fLe w a b = false))

-- ## The tile store and memory, by scalar instructions

/-- A tile-store load writes s[rd] with the bytes there, extended by its form; a store writes its bytes, least significant first, and no other byte. A
misaligned access takes exception 4, also one that is against R84 too (the order is the model's, log entry 23); a load beyond the store or in the
current half B, and a store beyond the store or in either inbox half, takes exception 7, and then nothing is stored. A store that meets no region of a
decode command in the unit changes nothing else; one that does leaves the command's outputs and record undefined. -/
def Obligations.TileStoreAccess : Prop :=
  (∀ (s : State) (t : TileId), TileRuns s t → ∀ (uns : Bool) (size : Size) (rd rs1 : Reg) (imm : BitVec 13),
     let off := memAddr s t rs1 imm
     let n := 2 ^ size.toNat
     let run := exec (.sldt t uns size rd rs1 imm) s
     let v := leNat ((List.range n).map fun i => s.mem.byte (tsBase t + off + i))
     off = ((s.tile t).sGet rs1.toNat + BitVec.ofInt 64 imm.toInt).toNat ∧
     (TsReads s t off n → run = .next (retire s t fun T => T.sPut rd.toNat (if uns then BitVec.ofNat 64 v else BitVec.ofInt 64 (toSigned (8 * n) v)))) ∧
     (off % n ≠ 0 → run = .next (takeExc s t { idx := 4, va := off } none)) ∧
     (off % n = 0 → 0x100000 < off + n ∨ ((inboxOf s t).2 ≠ 0 ∧ off < halfB s t + (inboxOf s t).2 ∧ halfB s t < off + n) →
       run = .next (takeExc s t { idx := 7, va := off } none))) ∧
  (∀ (s : State) (t : TileId), TileRuns s t → s.memOk → ∀ (size : Size) (rd rs1 : Reg) (imm : BitVec 13),
     let off := memAddr s t rs1 imm
     let n := 2 ^ size.toNat
     let run := exec (.sstt t size rd rs1 imm) s
     off = ((s.tile t).sGet rs1.toNat + BitVec.ofInt 64 imm.toInt).toNat ∧
     (TsWrites s t off n → n = 8 ∧ 0xFFFD8 ≤ off ∨
       ∃ m, run = .next (retire (noteDecode { noteSends s t off n with mem := m } t off n) t id) ∧ m.wf = true ∧ m.poison = s.mem.poison ∧
         ∀ a, m.byte a = if tsBase t + off ≤ a ∧ a < tsBase t + off + n
           then ((s.tile t).sGet rd.toNat).extractLsb' (8 * (a - (tsBase t + off))) 8 else s.mem.byte a) ∧
     ((∀ c ∈ (s.tile t).decQ ++ ((s.tile t).decRun.map (·.cmd)).toList, c.meets off n = false) →
       (∀ x ∈ (s.tile t).sendQ, overlaps off n x.src x.len = false) → ∀ m,
       noteDecode { noteSends s t off n with mem := m } t off n = { s with mem := m }) ∧
     (off % n ≠ 0 → run = .next (takeExc s t { idx := 4, va := off } none)) ∧
     (off % n = 0 → 0x100000 < off + n ∨ ((inboxOf s t).2 ≠ 0 ∧ off < (inboxOf s t).1 + 2 * (inboxOf s t).2 ∧ (inboxOf s t).1 < off + n) →
       run = .next (takeExc s t { idx := 7, va := off } none)))

/-- An 8-byte store to a doorbell posts the block that the value names, at the end of the unit's queue with its status byte cleared: bytes
0x00 to 0x5F for the decode unit, 0x00 to 0x3F for an engine of the parcel, where a compression job makes slots that it shares with another engine's
job undefined; and rings the mover's channel. -/
def Obligations.Doorbells : Prop :=
  ∀ (s : State) (t : TileId), TileRuns s t → ∀ rd : Reg,
    let v := ((s.tile t).sGet rd.toNat).toNat
    let off := v % 2 ^ 20
    let put := fun (db : Nat) => s.codePut t db (leBytes 8 v)
    let job := fun (k : EngKind) (db size top : Nat) (c : Instr) (after : State → Nat → State) =>
      ∀ r e, TsWrites s t db 8 → off % size = 0 → off ≤ top → roleOf s t = some r → bits v 20 4 < r.parcel.image.engCount k →
        r.parcel.peng k (bits v 20 4) = some e → (16 ≤ (s.eng k e).jobs.length → exec c s = .next s) ∧ ((s.eng k e).jobs.length < 16 →
        exec c s = .next (retire (after (((put db).tsWrite t (off + size - 1) [0]).updEng k e fun E => { E with
          posts := E.posts + 1
          jobs := E.jobs ++ [{
            vtile := r.v, tile := t, off := off, blk := (put db).tsRead t off 0x40, frame := pframe s r.p, post := (s.eng k e).posts
            vintage := r.parcel.vintage }] }) r.p) t id))
    (TsWrites s t 0xFFFF8 8 → off % 128 = 0 → off ≤ 0xFFF00 → (s.tile t).decQ.length < 8 →
      exec (.decodeDoorbell t rd) s = .next (retire (((put 0xFFFF8).tsWrite t (off + 0x7F) [0]).updTile t fun T => { T with
        decQ := T.decQ ++ [{ off := off, bytes := (put 0xFFFF8).tsRead t off 0x60 }] }) t id)) ∧
    (TsWrites s t 0xFFFF8 8 → off % 128 = 0 → off ≤ 0xFFF00 → 8 ≤ (s.tile t).decQ.length → exec (.decodeDoorbell t rd) s = .next s) ∧
    (TsWrites s t 0xFFFF8 8 → off % 128 ≠ 0 ∨ 0xFFF00 < off → ∃ e, exec (.decodeDoorbell t rd) s = .next (takeExc s t e none) ∧ e.idx = 4 ∧ e.va = 0xFFFF8) ∧
    job .se 0xFFFF0 128 0xFFF80 (.sortDoorbell t rd) (fun s _ => s) ∧ job .ce 0xFFFE0 128 0xFFF80 (.compressionDoorbell t rd) spoilSlots ∧
    job .de 0xFFFD8 256 0xFFE00 (.digestDoorbell t rd) (fun s _ => s) ∧
    (∀ r g m, TsWrites s t 0xFFFE8 8 → roleOf s t = some r → r.parcel.pgroup (bits v 0 8) = some g →
      (r.parcel.image.movers.find? fun m => m.vgroup == bits v 0 8 && m.channel == bits v 8 4) = some m →
      m.pipeline = r.stage.pipeline → m.stage = r.stage.stage → (s.chan g (bits v 8 4)).prog.isSome = true →
      fld (s.chan g (bits v 8 4)).xctl 14 3 = 2 → guardNow s r.p = false →
      exec (.moverDoorbell t rd) s = .next (retire (addRequest (put 0xFFFE8) g (bits v 8 4) 2 true) t id)) ∧
    (∀ (rs1 : Reg) (imm : BitVec 13) db c, (db, c) ∈ [(0xFFFF8, Instr.decodeDoorbell t rd), (0xFFFF0, .sortDoorbell t rd),
        (0xFFFE8, .moverDoorbell t rd), (0xFFFE0, .compressionDoorbell t rd), (0xFFFD8, .digestDoorbell t rd)] →
      memAddr s t rs1 imm = db → exec (.sstt t 3 rd rs1 imm) s = exec c s)

/-- Loads and stores of memory that the tile cache does not serve: the load writes s[rd] with the bytes of storage, extended by its form; the
store writes its bytes, least significant first, and no other byte; a load of poison takes exception 6, a misaligned access exception 4, an address of
2^48 or above exception 0, an access that the leaf or the fabric refuses exception 1. -/
def Obligations.MemoryLoadStore : Prop :=
  ∀ (s : State) (t : TileId), TileRuns s t → ∀ (uns : Bool) (size : Size) (rd rs1 : Reg) (imm : BitVec 13),
    let va := memAddr s t rs1 imm
    let n := 2 ^ size.toNat
    let load := exec (.sld t uns size rd rs1 imm) s
    let store := exec (.sst t size rd rs1 imm) s
    va = ((s.tile t).sGet rs1.toNat + BitVec.ofInt 64 imm.toInt).toNat ∧
    (∀ dpa, Reads s t va n dpa → load = .next (retire s t fun T => T.sPut rd.toNat
      (let v := leNat ((List.range n).map fun i => s.mem.byte (dpa + i)); if uns then BitVec.ofNat 64 v else BitVec.ofInt 64 (toSigned (8 * n) v)))) ∧
    (∀ dpa, Reaches s t va n .load dpa → (∃ i, i < n ∧ s.mem.poisoned (dpa + i) = true) → load = .next (takeExc s t { idx := 6, va := va } none)) ∧
    (∀ dpa, Reaches s t va n .store dpa →
      let bs := leBytes n ((s.tile t).sGet rd.toNat).toNat
      let m := s.mem.store dpa bs false
      store = .next (retire { s with mem := m } t id) ∧ (s.memOk → s.mem.quiet dpa n → Stored s.mem m dpa bs)) ∧
    (∀ p e dpa r, va % n = 0 →
      (Hits s t va .load p e dpa → permReason s p e .load dpa = some r → ∃ x, load = .next (takeExc s t x none) ∧ x.idx = 1 ∧ x.reason = r ∧ x.va = va) ∧
      (Hits s t va .store p e dpa → permReason s p e .store dpa = some r →
        ∃ x, store = .next (takeExc s t x none) ∧ x.idx = 1 ∧ x.reason = r ∧ x.va = va)) ∧
    (va % n ≠ 0 → load = .next (takeExc s t { idx := 4, va := va } none) ∧ store = .next (takeExc s t { idx := 4, va := va } none)) ∧
    (va % n = 0 → 2 ^ 48 ≤ va → ∃ e e' s', load = .next (takeExc s' t e none) ∧ store = .next (takeExc s' t e' none) ∧
      e.idx = 0 ∧ e.reason = 5 ∧ e.va = va ∧ e'.idx = 0 ∧ e'.reason = 5 ∧ e'.va = va ∧ s' = { s with freeCtr := s.freeCtr + 1 })

/-- Accesses that the tile cache serves. A load whose line is valid there returns the line's bytes, and beside s[rd] only the cache's counters and tree
bits change; a poisoned line gives exception 6. A store to a valid line makes it dirty with the bytes in their place, and memory stays as it was. An
access that misses fills the line from memory into a way that R229 chooses, whose line, where it is dirty, is written back before; a load leaves the
line clean, a store puts its bytes into it. -/
def Obligations.CacheHitLoad : Prop :=
  ∀ (s : State) (t : TileId), TileRuns s t → ∀ (uns : Bool) (size : Size) (rd rs1 : Reg) (imm : BitVec 13) p e dpa,
    let va := memAddr s t rs1 imm
    let n := 2 ^ size.toNat
    let C := (s.tile t).cache
    let load := exec (.sld t uns size rd rs1 imm) s
    let store := exec (.sst t size rd rs1 imm) s
    let ext := fun (v : Nat) => if uns then BitVec.ofNat 64 (v % 2 ^ (8 * n)) else BitVec.ofInt 64 (toSigned (8 * n) v)
    let merged := fun (l : List Byte) => l.take (dpa % 64) ++ leBytes n ((s.tile t).sGet rd.toNat).toNat ++ l.drop (dpa % 64 + n)
    let loads := Hits s t va .load p e dpa ∧ permReason s p e .load dpa = none
    let stores := Hits s t va .store p e dpa ∧ permReason s p e .store dpa = none
    va % n = 0 → C.en = true →
    (∀ l, loads → C.lineAt dpa = some l → l.poison = false → ∃ tr hit acc win,
      load = .next (retire (s.updTile t fun T => { T with
        cache := { T.cache with tree := tr, perfHit := hit, accCnt := acc, ceWindow := win } }) t fun T =>
          T.sPut rd.toNat (ext (leNat (slice l.data (dpa % 64) n))))) ∧
    (∀ l, loads → C.lineAt dpa = some l → l.poison = true → ∃ s', load = .next (takeExc s' t { idx := 6, va := va } none) ∧ s'.mem = s.mem) ∧
    (∀ l, stores → C.lineAt dpa = some l → ∃ s', store = .next s' ∧ s'.mem = s.mem ∧ (s'.tile t).pc = (s.tile t).pc + 4 ∧
      (s'.tile t).sRegs = (s.tile t).sRegs ∧ (s'.tile t).cache.lineAt dpa = some { l with dirty := true, data := merged l.data }) ∧
    (bitOf e.leaf 4 = true → C.lineAt dpa = none → (∀ x ∈ C.side, x.dpa ≠ dpa / 64 * 64) → s.mem.poisoned dpa = false →
      let line := s.mem.read (dpa / 64 * 64) 64
      let victim := Tab.find C.lines (8 * setOf dpa + C.fillWay (setOf dpa))
      let wrote := fun (m : Mem) => ((∀ v, victim = some v → v.dirty = false) → m = s.mem) ∧
        ∀ v, victim = some v → v.dirty = true → (∃ a, place v.dpa = .cellar a) → v.dpa % 64 = 0 → v.data.length = 64 →
          m = s.mem.store v.dpa v.data v.poison
      (loads → ∃ s', load = .next s' ∧ wrote s'.mem ∧ (s'.tile t).pc = (s.tile t).pc + 4 ∧
        (s'.tile t).sRegs = ((s.tile t).sPut rd.toNat (ext (leNat ((List.range n).map fun i => s.mem.byte (dpa + i))))).sRegs ∧
        (s'.tile t).cache.lineAt dpa = some { dpa := dpa / 64 * 64, dirty := false, poison := false, data := line }) ∧
      (stores → ∃ s', store = .next s' ∧ wrote s'.mem ∧ (s'.tile t).pc = (s.tile t).pc + 4 ∧ (s'.tile t).sRegs = (s.tile t).sRegs ∧
        (s'.tile t).cache.lineAt dpa = some { dpa := dpa / 64 * 64, dirty := true, poison := false, data := merged line }))

-- ## Exceptions

/-- An illegal instruction takes exception 5: EPC names it, ECAUSE and TFAULT_VA are set, and the tile goes on at its handler; with no handler,
or inside one, it stops. ERET leaves a handler: it goes on at EPC; outside a handler it is itself illegal. -/
def Obligations.IllegalAndEret : Prop :=
  ∀ (s : State) (t : TileId), TileRuns s t →
    let T := s.tile t
    (∀ h, handlerOf s t 5 = some h → T.inHandler = false →
      exec (.illegalInstruction t) s = .next (s.updTile t fun T => { T with
        tfaultVa := 0, epc := T.pc, ecause := 5, inHandler := true, pc := BitVec.ofNat 64 h })) ∧
    (handlerOf s t 5 = none ∨ T.inHandler = true → ∃ s', exec (.illegalInstruction t) s = .next s' ∧ (s'.tile t).run = .stopped ∧
      (s'.tile t).epc = T.pc ∧ (s'.tile t).ecause = 5 ∧ (s'.tile t).tfaultVa = 0 ∧ (s'.tile t).inHandler = true ∧ (s'.tile t).pc = T.pc ∧
      (s'.tile t).sRegs = T.sRegs ∧ (s'.tile t).vRegs = T.vRegs ∧ (s'.tile t).pRegs = T.pRegs ∧
      ((s'.tile t).stop.map fun r => (r.status, r.reason)) = some (0x85, 5)) ∧
    (T.inHandler = true → exec (.eret t) s = .next (s.updTile t fun T => { T with inHandler := false, pc := T.epc })) ∧
    (T.inHandler = false → exec (.eret t) s = exec (.illegalInstruction t) s)

-- ## Vector instructions in registers

/-- Integer arithmetic, division, logic, shifts and bit counts: every active element of v[rd] takes its result modulo 2^w, read before any is
written; every other element, and everything but v[rd], VSTART and the program counter, is unchanged. -/
def Obligations.VectorIntegerResults : Prop :=
  ∀ (s : State) (t : TileId), TileRuns s t → ∀ (vs : Bool) (rd rs1 rs2 : Reg) (pred : PReg),
    let T := s.tile t
    let w := T.ew
    let a := T.elem rs1.toNat
    let b := fun (j : Nat) => if vs then (T.sGet rs2.toNat).toNat % 2 ^ w else T.elem rs2.toNat j
    let writes := fun (c : Instr) (f : Nat → Int) =>
      VectorResult (exec c s) s t rd.toNat fun j => if isActive T pred.toNat j then some (f j % 2 ^ w).toNat else none
    (∀ op, writes (.vintArith t op vs rd rs1 rs2 pred) fun j => vintSpec op T.signed w (a j) (b j)) ∧
    (∀ op, writes (.vdiv t op vs rd rs1 rs2 pred) fun j => vdivSpec op T.signed w (a j) (b j)) ∧
    (∀ op, writes (.vlogic t op vs rd rs1 rs2 pred) fun j => vlogicSpec op T.signed w (a j) (b j)) ∧
    (∀ op, writes (.vpopc t op rd rs1 pred) fun j => (vbitSpec op w (a j) : Nat))

/-- Floating-point vector arithmetic at width 32 or 64: every active element takes the result of its operation, VFMA adding to the element of
v[rd] (VFABS and VFNEG act on the sign bit, log entry 23); conversions read an element by VTYPE.signed or saturate to it; nothing else is written. -/
def Obligations.VectorFloatResults : Prop :=
  ∀ (s : State) (t : TileId), TileRuns s t → 32 ≤ (s.tile t).ew → ∀ (vs : Bool) (rd rs1 rs2 : Reg) (pred : PReg),
    let T := s.tile t
    let w := T.ew
    let a := T.elem rs1.toNat
    let b := fun (j : Nat) => if vs then (T.vGet rs2.toNat).toNat % 2 ^ w else T.elem rs2.toNat j
    let writes := fun (op : VFpOp) (f : Nat → Nat) =>
      VectorResult (exec (.vfpArith t op vs rd rs1 rs2 pred) s) s t rd.toNat fun j => if isActive T pred.toNat j then some (f j % 2 ^ w) else none
    writes .vfadd (fun j => fAdd w (a j) (b j)) ∧ writes .vfsub (fun j => fSub w (a j) (b j)) ∧ writes .vfmul (fun j => fMul w (a j) (b j)) ∧
    writes .vfdiv (fun j => fDiv w (a j) (b j)) ∧ writes .vfsqrt (fun j => fSqrt w (a j)) ∧ writes .vfmin (fun j => fMinMax false w (a j) (b j)) ∧
    writes .vfmax (fun j => fMinMax true w (a j) (b j)) ∧ writes .vfma (fun j => fFma w (T.elem rd.toNat j) (a j) (b j)) ∧
    writes .vfcvtFX (fun j => fOfInt w (ival T.signed w (a j))) ∧ writes .vfcvtXF (fun j => (fToInt w w T.signed (a j) % 2 ^ w).toNat) ∧
    writes .vfabs (fun j => a j % 2 ^ (w - 1)) ∧ writes .vfneg (fun j => if a j < 2 ^ (w - 1) then a j + 2 ^ (w - 1) else a j - 2 ^ (w - 1))

/-- Compares write, for every active element, all its byte lanes of p[pd]; predicate logic writes all 512 bits; p0 takes no write; nothing else
changes. A floating-point compare needs width 32 or 64. -/
def Obligations.PredicateResults : Prop :=
  ∀ (s : State) (t : TileId), TileRuns s t → ∀ (vs : Bool) (rs1 rs2 : Reg) (pd pred ps1 ps2 : PReg),
    let T := s.tile t
    let w := T.ew
    let b := fun (op : VCmpOp) (j : Nat) =>
      if vs then (if op ∈ [.feq, .flt, .fle, .funord] then (T.vGet rs2.toNat).toNat else (T.sGet rs2.toNat).toNat) % 2 ^ w else T.elem rs2.toNat j
    (∀ op, (op ∈ [.feq, .flt, .fle, .funord] → 32 ≤ w) →
      PredicateResult (exec (.vcmp t op vs pd rs1 rs2 pred) s) s t pd.toNat fun i =>
        let j := i / (w / 8)
        if isActive T pred.toNat j then some (vcmpSpec op T.signed w (T.elem rs1.toNat j) (b op j)) else none) ∧
    (∀ op, PredicateResult (exec (.predicateLogic t op pd ps1 ps2) s) s t pd.toNat fun i =>
      let x := (T.pGet ps1.toNat).getLsbD i
      let y := (T.pGet ps2.toNat).getLsbD i
      some (match op with | .pand => x && y | .por => x || y | .pxor => x != y | .pandn => x && !y | .pnot => !x))

/-- Selects and moves: VSEL writes every element from VSTART to below VL; VMV, VMV.VS, VIOTA and VINS write active elements; nothing else changes. -/
def Obligations.VectorMoves : Prop :=
  ∀ (s : State) (t : TileId), TileRuns s t → ∀ (rd rs1 rs2 : Reg) (pred : PReg),
    let T := s.tile t
    let x := (T.sGet rs1.toNat).toNat
    let writes := fun (c : Instr) (f : Nat → Option Nat) => VectorResult (exec c s) s t rd.toNat f
    writes (.vsel t rd rs1 rs2 pred) (fun j =>
      if j < T.vl ∧ T.vstart.toNat ≤ j then some (if T.sel pred.toNat j then T.elem rs1.toNat j else T.elem rs2.toNat j) else none) ∧
    writes (.vmv t rd rs1 pred) (fun j => if isActive T pred.toNat j then some (T.elem rs1.toNat j) else none) ∧
    writes (.vmvVs t rd rs1 pred) (fun j => if isActive T pred.toNat j then some (x % 2 ^ T.ew) else none) ∧
    writes (.viota t rd pred) (fun j => if isActive T pred.toNat j then some (j % 2 ^ T.ew) else none) ∧
    writes (.vins t rd rs1 rs2) (fun j =>
      if j = (T.sGet rs2.toNat).toNat ∧ j < T.vl ∧ T.vstart.toNat ≤ j then some (x % 2 ^ T.ew) else none)

/-- Permutes, with VSTART 0: VPERM takes the element that an index names, or 0 at VL and above; the slides move by s[rs2], VSLIDEUP leaving the
elements below it and VSLIDEDN filling with 0; VREV reverses; VCOMPRESS packs the active elements and VEXPAND spreads them. -/
def Obligations.VectorPermutes : Prop :=
  ∀ (s : State) (t : TileId), TileRuns s t → (s.tile t).vstart = 0 → ∀ (rd rs1 rs2 : Reg) (pred : PReg),
    let T := s.tile t
    let k := (T.sGet rs2.toNat).toNat
    let a := T.elem rs1.toNat
    let idx := T.elem rs2.toNat
    let act := isActive T pred.toNat
    let writes := fun (c : Instr) (f : Nat → Option Nat) => VectorResult (exec c s) s t rd.toNat f
    writes (.vperm t rd rs1 rs2 pred) (fun j => if act j then some (if idx j < T.vl then a (idx j) else 0) else none) ∧
    writes (.vslideup t rd rs1 rs2 pred) (fun j => if act j ∧ k ≤ j then some (a (j - k)) else none) ∧
    writes (.vslidedn t rd rs1 rs2 pred) (fun j => if act j then some (if j + k < T.vl then a (j + k) else 0) else none) ∧
    writes (.vrev t rd rs1 pred) (fun j => if act j then some (a (T.vl - 1 - j)) else none) ∧
    writes (.vcompress t rd rs1 pred) (fun j => (((List.range T.vl).filter act)[j]?).map a) ∧
    writes (.vexpand t rd rs1 pred) (fun j => if act j then some (a (((List.range j).filter act).length)) else none)

/-- Instructions that write s[rd] from a vector or a predicate, with VSTART 0: the value, extended by VTYPE.signed for elements; nothing else
changes; with VL 0 they write nothing. -/
def Obligations.VectorToScalar : Prop :=
  ∀ (s : State) (t : TileId), TileRuns s t → (s.tile t).vstart = 0 → ∀ (rd rs1 rs2 : Reg) (pred : PReg),
    let T := s.tile t
    let w := T.ew
    let x := (T.sGet rs2.toNat).toNat
    let act := (List.range T.vl).filter (isActive T pred.toNat)
    let sel := (List.range T.vl).filter fun j => T.sel pred.toNat j
    let puts := fun (c : Instr) (y : Word) => exec c s = .next (retireV s t fun T => T.sPut rd.toNat y)
    (0 < T.vl →
      puts (.vmvSv t rd rs1 rs2) (if x < T.vlmax then BitVec.ofInt 64 (ival T.signed w (T.elem rs1.toNat x)) else 0) ∧
      puts (.pcnt t rd pred) (BitVec.ofNat 64 sel.length) ∧
      puts (.pfirst t rd pred) (BitVec.ofNat 64 (sel.head?.getD T.vl)) ∧
      (∀ op, puts (.vred t op rd rs1 rs2 pred) (BitVec.ofInt 64 (vredSpec op T.signed w (x % 2 ^ w) (act.map (T.elem rs1.toNat))))) ∧
      puts (.vcrc32c t rd rs1 rs2 pred) (BitVec.ofNat 64 (crc32c x (act.flatMap fun j => leBytes (w / 8) (T.elem rs1.toNat j))))) ∧
    (T.vl = 0 → ∀ op, ∀ c ∈ [Instr.vmvSv t rd rs1 rs2, .pcnt t rd pred, .pfirst t rd pred, .vred t op rd rs1 rs2 pred, .vcrc32c t rd rs1 rs2 pred],
      exec c s = .next (retireV s t id))

/-- Floating-point reductions, with VSTART 0, VL above 0 and width 32 or 64: the minimum or maximum of f[rs2] and the active elements in ascending
order, a NaN result being the canonical one; the sum adds f[rs2] to a balanced tree over VLMAX elements, the inactive ones being +0. The result goes to
f[rd]. -/
def Obligations.FloatReductions : Prop :=
  ∀ (s : State) (t : TileId), TileRuns s t → (s.tile t).vstart = 0 → 0 < (s.tile t).vl → 32 ≤ (s.tile t).ew → ∀ (rd rs1 rs2 : Reg) (pred : PReg),
    let T := s.tile t
    let w := T.ew
    let a := T.elem rs1.toNat
    let c := (T.vGet rs2.toNat).toNat % 2 ^ w
    let act := (List.range T.vl).filter (isActive T pred.toNat)
    let puts := fun (op : VFRedOp) (r : Nat) => exec (.vfredsum t op rd rs1 rs2 pred) s
      = .next (retireV s t fun T => T.vPut rd.toNat (BitVec.ofNat 4096 (r % 2 ^ 64)))
    let canonical := fun (r : Nat) => if fIsNan w r then (if w = 32 then 0x7FC00000 else 0x7FF8000000000000) else r
    puts .min (canonical (act.foldl (fun m j => fMinMax false w m (a j)) c)) ∧
    puts .max (canonical (act.foldl (fun m j => fMinMax true w m (a j)) c)) ∧
    puts .sum (fAdd w c (treeSum (fAdd w) 7 ((List.range T.vlmax).map fun j => if isActive T pred.toNat j then a j else 0)))

/-- Scans and per-element CRCs: with VSTART 0, element j of a scan takes the running value over the active elements of its segment up to j; at width
32 or 64, VCRC32C.E writes the CRC of each active element. Nothing else changes. -/
def Obligations.ScansAndElementCrc : Prop :=
  ∀ (s : State) (t : TileId), TileRuns s t → ∀ (rd rs1 rs2 : Reg) (seg pred : PReg),
    let T := s.tile t
    let w := T.ew
    let act := isActive T pred.toNat
    ((T.vstart = 0 → ∀ op, VectorResult (exec (.vscan t op rd rs1 seg pred) s) s t rd.toNat fun j =>
      if act j then
        some (vscanSpec op T.signed w (((List.range (j + 1)).filter fun i => decide (segStart T seg.toNat j ≤ i) && act i).map (T.elem rs1.toNat)) % 2 ^ w).toNat
      else none)) ∧
    (32 ≤ w → VectorResult (exec (.vcrc32cE t rd rs1 rs2 pred) s) s t rd.toNat fun j =>
      if act j then some (crc32c (T.sGet rs2.toNat).toNat (leBytes (w / 8) (T.elem rs1.toNat j))) else none)

/-- An exchange step of VSORT: each pair of elements 2^k apart, both below VL, is put in the order that bit m of the lower index gives, equal keys
staying, and the elements of v[rs1] move with their keys; nothing else changes. Other values of k, m and rs1 are illegal. -/
def Obligations.SortStep : Prop :=
  ∀ (s : State) (t : TileId), TileRuns s t → ∀ (k m : BitVec 4) (rd rs1 : Reg), (s.tile t).vstart = 0 →
    let T := s.tile t
    let key := T.elem rd.toNat
    let d := 2 ^ k.toNat
    let legal := rd ≠ rs1 ∧ d < T.vl ∧ (m = 0xF ∨ (1 ≤ m.toNat ∧ m.toNat ≤ 9 ∧ k.toNat < m.toNat))
    let low := fun (j : Nat) => bitOf j k.toNat = false ∧ j + d < T.vl
    let swap := fun (j : Nat) =>
      let x := ival T.signed T.ew (key j)
      let y := ival T.signed T.ew (key (j + d))
      if m = 0xF ∨ bitOf j m.toNat = false then y < x else x < y
    let from_ := fun (j : Nat) =>
      if low j then (if swap j then j + d else j) else if d ≤ j ∧ low (j - d) ∧ swap (j - d) then j - d else j
    (¬ legal → exec (.vsort t k m rd rs1) s = exec (.illegalInstruction t) s) ∧
    (legal → ∃ s' v, exec (.vsort t k m rd rs1) s = .next s' ∧
      s' = s.updTile t (fun T => { T with vRegs := v, vstart := 0, pc := T.pc + 4, unparked := false }) ∧
      ∀ r j, j < T.vlmax → (s'.tile t).elem r j = if r = rd.toNat ∨ r = rs1.toNat then T.elem r (from_ j) else T.elem r j)

/-- Vector instructions that are illegal by R106 or R110 take the exception of an illegal instruction: floating point below width 32, an
instruction marked W with VSTART above 0, indices wider than a register, and the width, slot and pairing rules of VSORT, VHASH, VUNPK and VRED.M. -/
def Obligations.VectorIllegal : Prop :=
  ∀ (s : State) (t : TileId), TileRuns s t → ∀ (ts ff vs sc sx : Bool) (iw : Size) (k m : BitVec 4) (slot : BitVec 3) (n1 : BitVec 6)
      (rd rs1 rs2 : Reg) (pd seg pred : PReg),
    let T := s.tile t
    let trap := fun (c : Instr) => exec c s = exec (.illegalInstruction t) s
    (T.ew < 32 → (∀ op, trap (.vfpArith t op vs rd rs1 rs2 pred)) ∧ (∀ op, trap (.vfredsum t op rd rs1 rs2 pred)) ∧
      (∀ op ∈ [VCmpOp.feq, .flt, .fle, .funord], trap (.vcmp t op vs pd rs1 rs2 pred)) ∧ trap (.vcrc32cE t rd rs1 rs2 pred) ∧
      (∀ op, trap (.vredM t op rd rs1 rs2 pred))) ∧
    (T.vstart ≠ 0 → (∀ c ∈ [Instr.vcompress t rd rs1 pred, .vexpand t rd rs1 pred, .vmvSv t rd rs1 rs2, .vperm t rd rs1 rs2 pred,
        .vslideup t rd rs1 rs2 pred, .vslidedn t rd rs1 rs2 pred, .vrev t rd rs1 pred, .pcnt t rd pred, .pfirst t rd pred,
        .vcrc32c t rd rs1 rs2 pred, .vsort t k m rd rs1], trap c) ∧
      (∀ op, trap (.vred t op rd rs1 rs2 pred)) ∧ (∀ op, trap (.vfredsum t op rd rs1 rs2 pred)) ∧ (∀ op, trap (.vscan t op rd rs1 seg pred))) ∧
    (4096 < T.vl * (8 * 2 ^ iw.toNat) → trap (.vgather t ts ff iw sc rd rs1 rs2 pred) ∧ trap (.vscatter t ts iw sc rd rs1 rs2 pred) ∧
      trap (.vdict t iw rd rs1 rs2 pred)) ∧
    (rd = rs1 ∨ T.vl ≤ 2 ^ k.toNat ∨ m = 0 ∨ (10 ≤ m.toNat ∧ m.toNat ≤ 14) ∨ (m.toNat ≤ 9 ∧ m.toNat ≤ k.toNat) → trap (.vsort t k m rd rs1)) ∧
    (T.ew ≠ 64 → trap (.vhash t slot rd rs1 pred) ∧ trap (.vhashT t slot rd rs1 rs2 pred) ∧ trap (.vredM t .fadd rd rs1 rs2 pred)) ∧
    (T.ew < n1.toNat + 1 → trap (.vunpk t n1 sx rd rs1 rs2 pred))

-- ## Vector instructions on memory

/-- Vector accesses of the tile store, unit-stride, strided and indexed: a load whose elements can all be read writes each active element with its
bytes; a store whose elements can all be written writes them one after another, in ascending order; nothing else changes, but for sends and decode
commands that the store meets. -/
def Obligations.VectorTileStoreAccess : Prop :=
  ∀ (s : State) (t : TileId), TileRuns s t → ∀ (ff sc : Bool) (iw : Size) (rd rs1 rs2 : Reg) (pred : PReg),
    let T := s.tile t
    let n := T.ew / 8
    let x := (T.sGet rs1.toNat).toNat
    let y := (T.sGet rs2.toNat).toNat
    let act := isActive T pred.toNat
    let index := fun (j : Nat) => (T.vGet rs2.toNat).toNat / 2 ^ (8 * 2 ^ iw.toNat * j) % 2 ^ (8 * 2 ^ iw.toNat)
    let agrees := fun (load store : Instr) (addr : Nat → Nat) =>
      ((∀ j, act j = true → TsReads s t (addr j) n) → VectorResult (exec load s) s t rd.toNat fun j =>
        if act j then some (leNat ((List.range n).map fun i => s.mem.byte (tsBase t + addr j + i))) else none) ∧
      ((∀ j, act j = true → TsWrites s t (addr j) n) → exec store s = .next (retireV
        (((List.range T.vl).filter act).foldl
          (fun s j => s.codePut t (addr j) (leBytes n (T.elem rd.toNat j))) s) t id))
    agrees (.vld t true ff rd rs1 pred) (.vst t true rd rs1 pred) (fun j => (x + j * n) % 2 ^ 64) ∧
    agrees (.vlds t true ff rd rs1 rs2 pred) (.vsts t true rd rs1 rs2 pred) (fun j => (x + j * y) % 2 ^ 64) ∧
    (T.vl * (8 * 2 ^ iw.toNat) ≤ 4096 → agrees (.vgather t true ff iw sc rd rs1 rs2 pred) (.vscatter t true iw sc rd rs1 rs2 pred)
      (fun j => (x + index j * (if sc then n else 1)) % 2 ^ 64))

/-- Vector accesses of memory that the tile cache does not serve, in the same three forms: loads write each active element with the bytes of
storage, stores write them one after another, in ascending order, so that a byte that several elements write holds the last of them; nothing else
changes. -/
def Obligations.VectorMemoryAccess : Prop :=
  ∀ (s : State) (t : TileId), TileRuns s t → ∀ (ff sc : Bool) (iw : Size) (rd rs1 rs2 : Reg) (pred : PReg) (dpa : Nat → Nat),
    let T := s.tile t
    let n := T.ew / 8
    let x := (T.sGet rs1.toNat).toNat
    let y := (T.sGet rs2.toNat).toNat
    let act := isActive T pred.toNat
    let index := fun (j : Nat) => (T.vGet rs2.toNat).toNat / 2 ^ (8 * 2 ^ iw.toNat * j) % 2 ^ (8 * 2 ^ iw.toNat)
    let agrees := fun (load store : Instr) (addr : Nat → Nat) =>
      ((∀ j, act j = true → Reads s t (addr j) n (dpa j)) → VectorResult (exec load s) s t rd.toNat fun j =>
        if act j then some (leNat ((List.range n).map fun i => s.mem.byte (dpa j + i))) else none) ∧
      ((∀ j, act j = true → Reaches s t (addr j) n .store (dpa j)) →
        let m := ((List.range T.vl).filter act).foldl (fun m j => m.store (dpa j) (leBytes n (T.elem rd.toNat j)) false) s.mem
        exec store s = .next (retireV { s with mem := m } t id) ∧
        (s.memOk → (∀ j, act j = true → s.mem.quiet (dpa j) n) → m.wf = true ∧ ∀ a,
          ((∀ j, act j = true → a < dpa j ∨ dpa j + n ≤ a) → m.byte a = s.mem.byte a) ∧
          ∀ j, act j = true → dpa j ≤ a → a < dpa j + n → (∀ k, act k = true → j < k → a < dpa k ∨ dpa k + n ≤ a) →
            m.byte a = BitVec.ofNat 8 (T.elem rd.toNat j / 2 ^ (8 * (a - dpa j)))))
    agrees (.vld t false ff rd rs1 pred) (.vst t false rd rs1 pred) (fun j => (x + j * n) % 2 ^ 64) ∧
    agrees (.vlds t false ff rd rs1 rs2 pred) (.vsts t false rd rs1 rs2 pred) (fun j => (x + j * y) % 2 ^ 64) ∧
    (T.vl * (8 * 2 ^ iw.toNat) ≤ 4096 → agrees (.vgather t false ff iw sc rd rs1 rs2 pred) (.vscatter t false iw sc rd rs1 rs2 pred)
      (fun j => (x + index j * (if sc then n else 1)) % 2 ^ 64))

/-- A unit-stride vector access, of the tile store or of memory that the tile cache does not serve, that meets an exception at an active element has
done the active elements below it and no other. It takes the exception with VSTART at the element, or, in a first-fault form past the first active
element, it retires with VL at the element. Alignment is looked at before the bounds of the tile store (the model's order, log entry 23). -/
def Obligations.VectorLoadFault : Prop :=
  ∀ (s : State) (t : TileId), TileRuns s t → ∀ (ff : Bool) (rd rs1 : Reg) (pred : PReg) (i : Nat) (dpa : Nat → Nat),
    let T := s.tile t
    let n := T.ew / 8
    let act := isActive T pred.toNat
    let addr := fun (j : Nat) => ((T.sGet rs1.toNat).toNat + j * n) % 2 ^ 64
    let below := (List.range i).filter act
    let word := fun (j : Nat) => leBytes n (T.elem rd.toNat j)
    let loads := fun (c : Instr) (from_ : Nat → Nat) (P : Exc → Prop) =>
      ∃ v, (∀ k j, j < T.vlmax → ({ T with vRegs := v }).elem k j =
          if k = rd.toNat ∧ act j = true ∧ j < i then leNat ((List.range n).map fun b => s.mem.byte (from_ j + b)) else T.elem k j) ∧
        ((ff = true ∧ ∃ j, act j = true ∧ j < i) →
          exec c s = .next (s.updTile t fun T => { T with vRegs := v, vl := i, vstart := 0, pc := T.pc + 4, unparked := false })) ∧
        (¬ (ff = true ∧ ∃ j, act j = true ∧ j < i) → ∃ e, exec c s
            = .next (takeExc (s.updTile t fun T => { T with vRegs := v }) t e (some i)) ∧ P e)
    act i = true →
    ((∀ j, act j = true → j < i → TsReads s t (addr j) n) → ¬ TsReads s t (addr i) n →
      loads (.vld t true ff rd rs1 pred) (fun j => tsBase t + addr j) fun e =>
        (addr i % n ≠ 0 → e.idx = 4 ∧ e.va = addr i) ∧ (addr i % n = 0 → tsLoadBad s t (addr i) n = true → e.idx = 7 ∧ e.va = addr i) ∧
        (addr i % n = 0 → tsLoadBad s t (addr i) n = false → e.idx = 6)) ∧
    ((∀ j, act j = true → j < i → Reads s t (addr j) n (dpa j)) →
      (addr i % n ≠ 0 → loads (.vld t false ff rd rs1 pred) dpa fun e => e.idx = 4 ∧ e.va = addr i) ∧
      (Reaches s t (addr i) n .load (dpa i) → (∃ b, b < n ∧ s.mem.poisoned (dpa i + b) = true) →
        loads (.vld t false ff rd rs1 pred) dpa fun e => e.idx = 6 ∧ e.va = addr i) ∧
      (∀ p e r, addr i % n = 0 → Hits s t (addr i) .load p e (dpa i) → permReason s p e .load (dpa i) = some r →
        loads (.vld t false ff rd rs1 pred) dpa fun x => x.idx = 1 ∧ x.reason = r ∧ x.va = addr i)) ∧
    ((∀ j, act j = true → j < i → TsWrites s t (addr j) n) → ¬ TsWrites s t (addr i) n → exec (.vst t true rd rs1 pred) s = .next
      (takeExc (below.foldl (fun s j => s.codePut t (addr j) (word j)) s) t { idx := if addr i % n ≠ 0 then 4 else 7, va := addr i } (some i))) ∧
    ((∀ j, act j = true → j < i → Reaches s t (addr j) n .store (dpa j)) →
      let stored := { s with mem := below.foldl (fun m j => m.store (dpa j) (word j) false) s.mem }
      (addr i % n ≠ 0 → exec (.vst t false rd rs1 pred) s = .next (takeExc stored t { idx := 4, va := addr i } (some i))) ∧
      (∀ p e r, addr i % n = 0 → Hits s t (addr i) .store p e (dpa i) → permReason s p e .store (dpa i) = some r →
        ∃ x, exec (.vst t false rd rs1 pred) s = .next (takeExc stored t x (some i)) ∧ x.idx = 1 ∧ x.reason = r ∧ x.va = addr i))

/-- Hashing, unpacking and dictionary lookup: every active element takes the key hash of its key, the n bits at its place in a bit stream, or the
dictionary entry that its index names, where the tile store can be read; nothing else changes. A lookup that goes on from VSTART after a fault takes the
indices that it began with, but for one that has changed in v[rd] since (log entry 23); every other takes those of v[rd]. -/
def Obligations.HashUnpackDictionary : Prop :=
  ∀ (s : State) (t : TileId), TileRuns s t → ∀ (slot : BitVec 3) (n1 : BitVec 6) (sx : Bool) (iw : Size) (rd rs1 rs2 : Reg) (pred : PReg),
    let T := s.tile t
    let w := T.ew
    let act := isActive T pred.toNat
    let h := hashSlot s t slot.toNat
    let x := (T.sGet rs1.toNat).toNat
    let y := (T.sGet rs2.toNat).toNat
    let writes := fun (c : Instr) (f : Nat → Nat) => VectorResult (exec c s) s t rd.toNat fun j => if act j then some (f j % 2 ^ w) else none
    let len := if h.1 = 0 then y / 2 ^ 16 % 2 ^ 8 else h.1
    let key := fun (j : Nat) => (x + j * (y % 2 ^ 16)) % 2 ^ 64
    let n := n1.toNat + 1
    let bit := fun (j : Nat) => y + j * n
    let at_ := fun (j : Nat) => (x + bit j / 8) % 2 ^ 64
    let part := fun (j : Nat) => s.tsNat t (at_ j) ((bit j % 8 + n + 7) / 8) / 2 ^ (bit j % 8) % 2 ^ n
    let iw8 := 8 * 2 ^ iw.toNat
    let field := fun (v : BitVec 4096) (j : Nat) => v.toNat / 2 ^ (iw8 * j) % 2 ^ iw8
    let index := fun (j : Nat) => dictIndex T rd iw8 j
    let entry := fun (j : Nat) => (x + index j * (w / 8)) % 2 ^ 64
    (T.dictIdx = none ∨ T.vstart = 0 → ∀ j, index j = field (T.vGet rd.toNat) j) ∧
    (∀ k j, T.dictIdx = some k → k.pc = T.pc → k.at_ ≠ 0 → k.at_ = T.vstart.toNat →
      index j = if field (T.vGet rd.toNat) j = field k.left j then field k.indices j else field (T.vGet rd.toNat) j) ∧
    (w = 64 → h.1 ≤ 8 → writes (.vhash t slot rd rs1 pred) fun j => keyHash h.2 (leBytes (if h.1 = 0 then 8 else h.1) (T.elem rs1.toNat j))) ∧
    (w = 64 → 1 ≤ len → len ≤ 64 → (∀ j, act j = true → badByte s t (key j) len = none) →
      writes (.vhashT t slot rd rs1 rs2 pred) fun j => keyHash h.2 (s.tsRead t (key j) len)) ∧
    (n ≤ w → (∀ j, act j = true → badByte s t (at_ j) ((bit j % 8 + n + 7) / 8) = none) →
      writes (.vunpk t n1 sx rd rs1 rs2 pred) fun j => if sx then (toSigned n (part j) % 2 ^ w).toNat else part j) ∧
    (T.vl * (8 * 2 ^ iw.toNat) ≤ 4096 → x % (w / 8) = 0 → (∀ j, act j = true → index j < y ∧ TsReads s t (entry j) (w / 8)) →
      VectorResult (exec (.vdict t iw rd rs1 rs2 pred) s) (s.updTile t Tile.dropIndices) t rd.toNat fun j =>
        if act j then some (s.tsNat t (entry j) (w / 8) % 2 ^ w) else none)

/-- VRED.M sends one reduction per active element to the memory, in ascending order, while the queues have room; a controller that applies one leaves
in its word the word combined with the element, and no other byte changes; a poisoned word is left alone and ends the EXECUTE. -/
def Obligations.MemoryReductions : Prop :=
  ∀ (s : State) (t : TileId), TileRuns s t → ∀ (op : RedOp) (rd rs1 rs2 : Reg) (pred : PReg) (dpa : Nat → Nat),
    let T := s.tile t
    let n := T.ew / 8
    let act := isActive T pred.toNat
    let va := fun (j : Nat) => ((T.sGet rs1.toNat).toNat + T.elem rs2.toNat j * n) % 2 ^ 64
    (32 ≤ T.ew → (op = .fadd → T.ew = 64) → (∀ j, act j = true → Reaches s t (va j) n .reduce (dpa j)) →
      s.reds.length + ((List.range T.vl).filter act).length ≤ 32 →
      exec (.vredM t op rd rs1 rs2 pred) s = .next (retireV { s with
        reds := s.reds ++ ((List.range T.vl).filter act).map fun j => {
          dpa := dpa j, op := op, signed := T.signed, bytes := n, value := T.elem rd.toNat j, tile := t, parcel := (tileParcel s t).getD 0
          vintage := (s.parcel ((tileParcel s t).getD 0)).vintage } } t id)) ∧
    (∀ k r, s.reds[k]? = some r → s.mem.poisoned r.dpa = false → (∀ x ∈ s.mem.stores, x.2 ≤ r.dpa ∨ r.dpa + r.bytes ≤ x.1) →
      let m := leNat (s.mem.read r.dpa r.bytes)
      let w := 8 * r.bytes
      let v := match r.op with
        | .add => (m + r.value) % 2 ^ w
        | .min => if ival r.signed w r.value < ival r.signed w m then r.value % 2 ^ w else m
        | .max => if ival r.signed w m < ival r.signed w r.value then r.value % 2 ^ w else m
        | .count => (m + 1) % 2 ^ w
        | .fadd => fAdd 64 m r.value
      (s.memOk → Stored s.mem (s.mem.write r.dpa (leBytes r.bytes v)) r.dpa (leBytes r.bytes v)) ∧ exec (.reductionApply k) s = .next (settleFrom s (({ s with
        reds := s.reds.eraseIdx k
        mem := { s.mem.write r.dpa (leBytes r.bytes v) with reduced := (r.dpa, r.dpa + r.bytes) :: s.mem.reduced } }).updStack
          (r.dpa / sliceBytes / 8) fun K => { K with redCnt := satAdd K.redCnt 1 }))) ∧
    (∀ k r, s.reds[k]? = some r → s.mem.poisoned r.dpa = true → exec (.reductionApply k) s = .next (settleFrom s
      (failExec { s with reds := s.reds.eraseIdx k } r.parcel { status := 0x17, source := 8, reason := 0, sub := 0, address := r.dpa })))

-- ## Control registers and the tile's frame

/-- CSRR writes s[rd] with the control register; a number that Table 4 does not list is illegal. -/
def Obligations.ControlRegisterReads : Prop :=
  ∀ (s : State) (t : TileId), TileRuns s t → ∀ rd : Reg,
    let T := s.tile t
    let reads := fun (csr : BitVec 12) (x : Word) => exec (.csrr t rd csr) s = .next (retire s t fun T => T.sPut rd.toNat x)
    reads 0x000 (BitVec.ofNat 64 T.vl) ∧ reads 0x001 (BitVec.ofNat 64 T.vtype.toNat) ∧ reads 0x002 T.vstart ∧ reads 0x003 T.tfaultVa ∧ reads 0x006 0 ∧
    reads 0x004 T.epc ∧ reads 0x005 (BitVec.ofNat 64 (T.ecause.toNat + if T.inHandler then 256 else 0)) ∧ reads 0x011 (BitVec.ofNat 64 t.val) ∧
    reads 0x013 s.frm.count ∧ reads 0x020 (BitVec.ofNat 64 (halfA s t)) ∧ reads 0x021 (BitVec.ofNat 64 (inboxOf s t).2) ∧
    reads 0x023 (BitVec.ofNat 64 T.ibxSel.toNat) ∧ reads 0x030 T.obxRoute ∧ reads 0x031 T.obxSrc ∧
    reads 0x033 (BitVec.ofNat 64 (T.sendQ.length + if T.refused then 256 else 0)) ∧
    (∀ r, roleOf s t = some r →
      reads 0x010 (BitVec.ofNat 64 r.v) ∧ reads 0x012 (BitVec.ofNat 64 (r.stage.stage + 256 * r.stage.pipeline)) ∧
      reads 0x015 (BitVec.ofNat 64 r.stage.budget) ∧
      (r.stage.source = false → reads 0x022 (BitVec.ofNat 64 T.dirA.length) ∧
        reads 0x024 (BitVec.ofNat 64 (((T.dirA[T.ibxSel.toNat]?).map (·.off)).getD 0xFFFFFFFF)))) ∧
    (∀ p, tileParcel s t = some p → reads 0x014 (BitVec.ofNat 64
      (s.frm.count.toNat % (s.parcel p).divNow.toNat * s.frm.periodNow.toNat + s.frm.cycle))) ∧
    (∀ csr : BitVec 12, csrListed csr.toNat = false → exec (.csrr t rd csr) s = exec (.illegalInstruction t) s)

/-- CSRW and VSETVL write the control registers, VL never above VLMAX; a write of a register that is read-only or not listed is illegal; ESTOP stops the
tile with the image's status code. That IBX_SEL keeps ten bits, and the place that TIL_EXC_PC shows then, are the model's reading (log entry 21). -/
def Obligations.ControlRegisterWrites : Prop :=
  ∀ (s : State) (t : TileId), TileRuns s t → ∀ (rd rs1 : Reg) (vt : BitVec 3),
    let T := s.tile t
    let x := T.sGet rs1.toNat
    let writes := fun (csr : BitVec 12) (f : Tile → Tile) => exec (.csrw t csr rs1) s = .next (retire s t f)
    writes 0x000 (fun T => { T with vl := min x.toNat (512 / 2 ^ (T.vtype.toNat % 4)) }) ∧
    (x.toNat < 8 → writes 0x001 fun T => { T with vtype := BitVec.ofNat 3 x.toNat, vl := min T.vl (512 / 2 ^ (x.toNat % 4)) }) ∧
    writes 0x002 (fun T => { T with vstart := x }) ∧ writes 0x004 (fun T => { T with epc := x }) ∧
    writes 0x023 (fun T => { T with ibxSel := BitVec.ofNat 10 x.toNat }) ∧ writes 0x030 (fun T => { T with obxRoute := x }) ∧
    writes 0x031 (fun T => { T with obxSrc := x }) ∧
    (∀ csr : BitVec 12, csr ∉ [0x000, 0x001, 0x002, 0x004, 0x006, 0x023, 0x030, 0x031, 0x032] →
      exec (.csrw t csr rs1) s = exec (.illegalInstruction t) s) ∧
    (8 ≤ x.toNat → exec (.csrw t 0x001 rs1) s = exec (.illegalInstruction t) s) ∧
    (let n := min x.toNat (512 / 2 ^ (vt.toNat % 4));
      exec (.vsetvl t rd rs1 vt) s = .next (retire s t fun T => Tile.sPut { T with vtype := vt, vl := n, vstart := 0 } rd.toNat (BitVec.ofNat 64 n))) ∧
    (∃ s', exec (.estop t rs1) s = .next s' ∧ (s'.tile t).run = .stopped ∧ (s'.tile t).excPc = T.pc ∧
      (s'.tile t).sRegs = T.sRegs ∧ (s'.tile t).vRegs = T.vRegs ∧ ((s'.tile t).stop.map (·.status)) = some (0xC0 + x.toNat % 64)) ∧
    exec (.csrw t 0x006 rs1) s = exec (.estop t rs1) s ∧ exec (.csrw t 0x032 rs1) s = exec (.obxLenWrite t rs1) s

/-- A write of OBX_LEN queues a send of a route that the tile may name, for the next frame inside the guard window, with the next sequence number, or 0
then (log entry 14), wherever its source ends (log entry 22); a full queue stalls it; a bad length, route or fan header is illegal. RECORD_DELIVERY takes
the oldest send of the frame, and transmits of each byte of the source what stands there or what the tile has overwritten there since. -/
def Obligations.Sends : Prop :=
  ∀ (s : State) (t : TileId), TileRuns s t → ∀ (rs1 : Reg) (r : Route),
    let T := s.tile t
    let n := (T.sGet rs1.toNat).toNat
    let src := T.obxSrc.toNat
    let late := tileGuard s t
    (routeOf s t T.obxRoute.toNat = none → exec (.obxLenWrite t rs1) s = exec (.illegalInstruction t) s) ∧
    (n = 0 ∨ 65536 < n → exec (.obxLenWrite t rs1) s = exec (.illegalInstruction t) s) ∧
    (routeOf s t T.obxRoute.toNat = some r → 1 ≤ n → n ≤ 65536 →
      let queues := fun (h : List Byte) =>
        (T.sendQ.length < 16 → exec (.obxLenWrite t rs1) s = .next (retire s t fun T => { T with
          sendQ := T.sendQ ++ [{ route := r.id, src := src, len := n, seq := if late then 0 else T.sendSeq, hdr := h, late := late }]
          sendSeq := if late then T.sendSeq else T.sendSeq + 1, guardStall := late })) ∧
        (16 ≤ T.sendQ.length → exec (.obxLenWrite t rs1) s = .next s)
      (r.fan = false → queues []) ∧
      (r.fan = true → n < 16 → exec (.obxLenWrite t rs1) s = exec (.illegalInstruction t) s) ∧
      (r.fan = true → 16 ≤ n → src + 16 ≤ 0x100000 →
        (∀ a, s.tsPoison t src 16 = some a → ∃ e, exec (.obxLenWrite t rs1) s = .next (takeExc s t e none) ∧ e.idx = 6) ∧
        (s.tsPoison t src 16 = none → fanBad (s.tsRead t src 16) n = true → exec (.obxLenWrite t rs1) s = exec (.illegalInstruction t) s) ∧
        (s.tsPoison t src 16 = none → fanBad (s.tsRead t src 16) n = false → queues (s.tsRead t src 16)))) ∧
    (T.sendQ = [] ∨ (∃ x, T.sendQ.head? = some x ∧ x.late = true) → exec (.recordDelivery t) s = .next s) ∧
    (∀ x rest o d, T.sendQ = x :: rest → x.late = false → roleOf s t = some o → routeOf s t x.route = some r → r.fan = false →
      x.src + x.len ≤ 0x100000 →
      o.parcel.ptile r.dst = some d → d < 256 → d ≠ t.val → s.memOk → halfB s d + (inboxOf s d).2 ≤ 0x100000 →
      let D := s.tile d
      let n := 16 + roundUp x.len 16
      let at_ := tsBase d + halfB s d + D.fillB
      D.fillB + n ≤ (inboxOf s d).2 → D.dirB.length < 1024 →
      ∃ (m : Mem) (body : List Byte), exec (.recordDelivery t) s = .next (State.updTile (State.updTile { s with
          mem := m } t fun T => { T with sendQ := rest }) d fun D => { D with
          dirB := D.dirB ++ [{ off := D.fillB, srcVtile := o.v, seq := x.seq }], fillB := D.fillB + n }) ∧
        m.read at_ n = leBytes 2 x.route ++ leBytes 2 o.v ++ leBytes 4 x.len ++ leBytes 4 x.seq ++ zeros 4 ++ body ++ zeros (n - 16 - x.len) ∧
        (x.old = [] → body = s.tsRead t x.src x.len) ∧ body.length = x.len ∧
        (∀ i b, body[i]? = some b → b = s.mem.byte (tsBase t + x.src + i) ∨ ∃ o ∈ x.old, o.1 = x.src + i ∧ o.2.1 = b) ∧
        ∀ a, a < at_ ∨ at_ + n ≤ a → m.byte a = s.mem.byte a)

/-- FDONE ends the tile's work of the frame once its sends, reductions and decode commands are done, and stalls until then; FDONE.EOS also ends its stream;
both are illegal while a work item is held. FENCE retires once the tile's reductions are accepted. -/
def Obligations.FrameDone : Prop :=
  ∀ (s : State) (t : TileId), TileRuns s t →
    let T := s.tile t
    let done := fun (eos : Bool) => retire s t fun T => { T with
      run := .fdone, fdoneLate := tileGuard s t, eos := T.eos || eos
      perfFdone := if T.ctl.getLsbD 2 then T.perfFdone else BitVec.ofNat 64 s.frm.cycle }
    let ready := T.sendQ = [] ∧ (∀ r ∈ s.reds, r.tile ≠ t.val) ∧ T.decQ = [] ∧ T.decRun = none
    (T.held = none → ready → (∀ r, roleOf s t = some r → r.stage.pooled = false) →
      exec (.fdone t) s = .next (done false) ∧ exec (.fdoneEos t) s = .next (done true)) ∧
    (∀ r, T.held = none → ready → roleOf s t = some r → r.stage.pooled = true →
      exec (.fdone t) s = .next (assign (returnQueue (done false) r.p t) r.p) ∧
      exec (.fdoneEos t) s = .next (assign (returnQueue (done true) r.p t) r.p)) ∧
    (T.held = none → ¬ ready → exec (.fdone t) s = .next s ∧ exec (.fdoneEos t) s = .next s) ∧
    (T.held.isSome = true → exec (.fdone t) s = exec (.illegalInstruction t) s ∧ exec (.fdoneEos t) s = exec (.illegalInstruction t) s) ∧
    ((∀ r ∈ s.reds, r.tile ≠ t.val) → exec (.fence t) s = .next (retire s t id)) ∧
    ((∃ r ∈ s.reds, r.tile = t.val) → exec (.fence t) s = .next s)

/-- Work items: DQ.GET waits for the dispatcher, whose delivery puts the descriptor into the tile store and 1 into s[rd] where the parcel has a dispatch slot
on the tile's die, or 0 with nothing to deliver; DQ.DONE gives the held item up; DQ.PUT writes its result code, and an accepted item is pending. -/
def Obligations.WorkItems : Prop :=
  ∀ (s : State) (t : TileId), Clocked s → ∀ (rd rs1 : Reg) r, roleOf s t = some r →
    let T := s.tile t
    let off := (T.sGet rs1.toNat).toNat
    let bs := s.tsRead t off 32
    let code := putCode s r.p (itemOf bs) (itemReserved bs) (r.stage.pooled && T.held.isNone)
    (TileRuns s t → r.stage.pooled = true → T.held = none → TsWrites s t off 32 →
      exec (.dqGet t rd rs1) s = .next (s.updTile t fun T => { T with dqWait := some (rd.toNat, off) })) ∧
    (TileRuns s t → r.stage.pooled = false ∨ T.held.isSome = true → exec (.dqGet t rd rs1) s = exec (.illegalInstruction t) s) ∧
    (∀ q o d rest, T.run = .running → T.dqWait = some (q, o) → T.localQ = d :: rest →
      (r.parcel.hasSlot t = true → exec (.dqDelivery t) s = .next (deliverItem (s.updTile t fun T => { T with localQ := rest }) r.p t q o d)) ∧
      (r.parcel.hasSlot t = false → exec (.dqDelivery t) s = .next s) ∧
      ((deliverItem (s.updTile t fun T => { T with localQ := rest }) r.p t q o d).tile t).held = some { d with pinned := false }) ∧
    (T.run ≠ .running ∨ T.dqWait = none → exec (.dqDelivery t) s = .next s) ∧
    (∀ q o, T.run = .running → T.dqWait = some (q, o) → (∀ u, (s.tile u).localQ = []) →
      exec (.dqDelivery t) s = .next (retire s t fun T => { T.sPut q 0 with dqWait := none })) ∧
    (∀ d, TileRuns s t → T.held = some d → d.item.cls = 0 →
      exec (.dqDone t) s = .next (assign (retire s t fun T => { T with held := none, puts := 0 }) r.p)) ∧
    (TileRuns s t → T.held = none → exec (.dqDone t) s = exec (.illegalInstruction t) s) ∧
    (TileRuns s t → TsReads s t off 32 → code = 0 → r.stage.pooled = false →
      exec (.dqPut t rd rs1) s = .next (retire (acceptItem s r.p {
        item := fillItem r.parcel.image (itemOf bs) r.parcel.vintage, origin := 3, k1 := r.v, k2 := (s.parcel r.p).dsp.arrivals } false) t
          fun T => T.sPut rd.toNat 0)) ∧
    (TileRuns s t → TsReads s t off 32 → code ≠ 0 → code ≠ 3 →
      exec (.dqPut t rd rs1) s = .next (retire (s.updDsp r.p fun D => { D with refused := D.refused + 1 }) t
        fun T => T.sPut rd.toNat (BitVec.ofNat 64 code)))

-- ## The tile cache and the MMU

/-- Cache maintenance instructions: a clean writes the covered dirty lines back, an invalidation drops the covered lines, and the third form does both; with
no prefetch in flight. Address forms and CLEAN.ALL do nothing while the cache is disabled. -/
def Obligations.CacheMaintenance : Prop :=
  ∀ (s : State) (t : TileId), TileRuns s t → ∀ rs1 rs2 : Reg,
    let C := (s.tile t).cache
    let x := ((s.tile t).sGet rs1.toNat).toNat
    let n := ((s.tile t).sGet rs2.toNat).toNat % 2 ^ 32
    let done := fun (s : State) => Host.Outcome.next (retire s t id)
    let written := fun (f : Nat → Bool) => C.lines.foldl (fun s kl =>
      if f kl.2.dpa = true ∧ kl.2.dirty = true then fabricWrite s kl.2.dpa kl.2.data kl.2.poison else s) s
    let clean := fun (f : Nat → Bool) (C : Cache) =>
      { C with lines := C.lines.map fun kl => if f kl.2.dpa then (kl.1, { kl.2 with dirty := false }) else kl }
    let drop := fun (f : Nat → Bool) (C : Cache) =>
      { C with lines := C.lines.filter fun kl => !f kl.2.dpa, side := C.side.filter fun y => !f y.dpa }
    let all := fun (_ : Nat) => true
    let empty := fun (C : Cache) => { C with lines := [], side := [], tree := [], clean := true }
    (C.en = true → C.clean = true → C.prefetches = [] → ∀ p e, x < 2 ^ 48 → WalksFor s t x .load → tileParcel s t = some p →
      (s.tile t).mmu.tlb.lookup x = some e → 12 ≤ e.sizeLog2 →
      let d := e.base + x % 2 ^ e.sizeLog2
      let f := fun (l : Nat) => decide (d / 64 * 64 ≤ l) && decide (l ≤ d)
      exec (.dcCleanVa t rs1) s = done ((written f).updCache t (clean f)) ∧ exec (.dcInvVa t rs1) s = done (s.updCache t (drop f)) ∧
      exec (.dcCinvVa t rs1) s = done ((written f).updCache t (drop f))) ∧
    exec (.dcCleanRange t rs1 rs2) s = done (dcRange s t .clean x n) ∧ exec (.dcInvRange t rs1 rs2) s = done (dcRange s t .inv x n) ∧
    exec (.dcCinvRange t rs1 rs2) s = done (dcRange s t .cinv x n) ∧
    (C.prefetches = [] → exec (.dcInvAll t) s = done (s.updCache t empty) ∧
      (C.clean = true → exec (.dcCinvAll t) s = done ((written all).updCache t empty) ∧
        (C.en = true → exec (.dcCleanAll t) s = done ((written all).updCache t (clean all))))) ∧
    (C.en = false → ∀ i ∈ [Instr.dcCleanVa t rs1, .dcInvVa t rs1, .dcCinvVa t rs1, .dcCleanRange t rs1 rs2, .dcInvRange t rs1 rs2,
      .dcCinvRange t rs1 rs2, .dcCleanAll t], exec i s = done s)

/-- What happens in a tile cache: fills, prefetches, the side buffer, errors of its lines and their window, the loss of a way at 16 corrected errors, and
its control registers; a cache that is disabled writes back what has been stored to it until then (how errors come in, and that last, are the model's
choice: log entry 25). -/
def Obligations.TileCacheRows : Prop :=
  ∀ (s : State), Clocked s → ∀ (who : Who) (t : TileId) (dpa v : Word) (w : Fin 8) (n : BitVec 5) (bad : List (Fin 256)),
    let report := Instr.cacheWayDisable t { way := w, corrected := n, bad := bad }
    let C := (s.tile t).cache
    let l := dpa.toNat / 64 * 64
    let sets := fun (f : Cache → Cache) => ok (s.updCache t f)
    (C.en = true → mayCache s t l = true → C.way l = none → place l = .cellar l → ∃ s', exec (.cacheLineFill t dpa) s = .next s' ∧
      (s'.tile t).cache.lineAt l = some { dpa := l, dirty := false, poison := s.mem.poisoned l, data := s.mem.read l 64 }) ∧
    (C.en = false ∨ mayCache s t l = false ∨ C.way l ≠ none → exec (.cacheLineFill t dpa) s = .next s) ∧
    (∀ q rest, C.prefetches = q :: rest →
      (C.way q = none → exec (.prefetchFill t) s = sets fun C => { C.sideFill {
        dpa := q, poison := (readLine s q).poison, data := (readLine s q).data, misses := 0 } with prefetches := C.prefetches.filter (· != q) }) ∧
      (C.way q ≠ none → exec (.prefetchFill t) s = sets fun C => { C with prefetches := C.prefetches.filter (· != q) })) ∧
    (C.prefetches = [] → exec (.prefetchFill t) s = .next s) ∧
    exec (.sideLineExpire t) s = sets (fun C => { C with side := C.side.filter fun y => decide (y.misses < 64) }) ∧
    exec (.ceWindowEnd t) s = sets (fun C => { C with accCnt := 0, ceWindow := [] }) ∧
    (tilePresent s t = true → C.waysOff.getLsbD w.val = false →
      let k := Tab.get 0 C.ceWindow w.val + n.toNat
      let D := C.errors w.val n.toNat (bad.map (·.val))
      (k < 16 → exec report s = sets fun C => C.errors w.val n.toNat (bad.map (·.val))) ∧
      Tab.get 0 D.ceWindow w.val = min k 16 ∧ Tab.get 0 D.ceTotal w.val = min (Tab.get 0 C.ceTotal w.val + n.toNat) (2 ^ 32 - 1) ∧
      D.lines = C.lines.map (fun kl => (kl.1, { kl.2 with poison := kl.2.poison || (kl.1 % 8 == w.val && bad.any fun b => b.val == kl.1 / 8) })) ∧
      (16 ≤ k → ∃ s', exec report s = .next s' ∧
        let C' := (s'.tile t).cache
        C'.waysOff = C.waysOff ||| BitVec.ofNat 8 (2 ^ w.val) ∧ C'.wayOff = true ∧ (∀ kl ∈ C'.lines, kl.1 % 8 ≠ w.val) ∧
        (4 ≤ C'.offCount → C'.en = false ∧ C'.failed = true ∧ C'.lines = []))) ∧
    (tilePresent s t = false ∨ C.waysOff.getLsbD w.val = true → exec report s = .next s) ∧
    (C.disabling = true → exec (.tchDisableDone t) s = .next ((if C.clean = true then C.lines.foldl (fun s kl =>
      if kl.2.dirty = true then fabricWrite s kl.2.dpa kl.2.data kl.2.poison else s) s else s).updCache t fun C => { C with
        en := false, clean := false, maintBusy := false, disabling := false, lines := [], side := [], prefetches := [], trackers := [] })) ∧
    (C.disabling = false → exec (.tchDisableDone t) s = .next s) ∧
    (C.maintOp ≠ 0 → exec (.tchMaintDone t) s = sets fun C => { C with
      maintBusy := C.disabling, clean := C.clean || C.maintOp != 1, maintOp := 0 }) ∧
    (C.maintOp = 0 → exec (.tchMaintDone t) s = .next s) ∧
    (isManager s who = true → tilePresent s t = true →
      ((tileBusy s t || C.maintBusy) = true → ∀ i ∈ [Instr.tchCtlWrite who t v, .tchMaintCleanAll who t, .tchMaintInvalidateAll who t,
        .tchMaintCleanInvalidate who t], exec i s = sets fun C => { C with busyRefused := true }) ∧
      ((tileBusy s t || C.maintBusy) = false →
        (fbit v 0 = true → C.en = false → exec (.tchCtlWrite who t v) s = sets fun C =>
          if C.failed || !C.clean then { C with pfEn := fbit v 1, enableRefused := true } else { C with pfEn := fbit v 1, en := true }) ∧
        (fbit v 0 = true → C.en = true → exec (.tchCtlWrite who t v) s = sets fun C => { C with pfEn := fbit v 1 }) ∧
        (fbit v 0 = false → C.en = true → ∃ s', exec (.tchCtlWrite who t v) s = .next s' ∧ (s'.tile t).cache.disabling = true ∧
          (s'.tile t).cache.maintBusy = true ∧ ∀ kl ∈ (s'.tile t).cache.lines, kl.2.dirty = false) ∧
        (C.prefetches = [] → exec (.tchMaintInvalidateAll who t) s = sets fun C => { C with
          lines := [], side := [], tree := [], maintBusy := true, maintOp := 2 }) ∧
        exec (.tchMaintCleanAll who t) s = .next ((if C.en then dcLines s t .clean (fun _ => true) else s).updCache t fun C => { C with
          maintBusy := true, maintOp := 1 }) ∧
        exec (.tchMaintCleanInvalidate who t) s = .next ((dcLines s t .cinv fun _ => true).updCache t fun C => { C with
          tree := [], maintBusy := true, maintOp := 3 })))

/-- TLB maintenance: an instruction of a tile removes what it names from the tile's TLB and walk cache; a parcel-wide one does so in every unit of the parcel
and completes later, when the walks and accesses in flight have drained; TLBSYNC waits for that; MMU_INV_CMD does the same for the manager. -/
def Obligations.TlbMaintenance : Prop :=
  (∀ (s : State) (t : TileId), TileRuns s t → ∀ rs1 rs2 : Reg,
    let x := ((s.tile t).sGet rs1.toNat).toNat
    let y := ((s.tile t).sGet rs2.toNat).toNat % 2 ^ 16
    let keeps := fun (f : TlbEntry → Bool) (g : WcEntry → Bool) (q : Nat → Nat) (o : Nat × Nat × Nat) => ok
      (retire (s.updTile t fun T => { T with mmu := { T.mmu with
        tlb := { T.mmu.tlb with
          entries := T.mmu.tlb.entries.filter fun e => f e.2, walk := T.mmu.tlb.walk.map fun w => { w with invs := o :: w.invs }
          result := T.mmu.tlb.result.filter (·.late) }
        wc := T.mmu.wc.filter fun e => g e.2, wcPtr := q T.mmu.wcPtr } }) t id)
    exec (.tlbiVa t rs1 rs2) s = keeps (fun e => !(e.maps (x % 2 ^ 48) && e.ast == y && x / 2 ^ 48 == 0)) (fun w => w.tag != x / 2 ^ (39 - 9 * w.level)) id (1, x, y) ∧
    exec (.tlbiAst t rs1) s = keeps (fun e => e.ast != x % 2 ^ 16) (fun _ => false) (fun _ => 0) (2, 0, x % 2 ^ 16) ∧
    exec (.tlbiAll t) s = keeps (fun _ => false) (fun _ => false) (fun _ => 0) (3, 0, 0) ∧
    (∀ p, tileParcel s t = some p →
      let wide := fun (o : InvOp) => ok
        (retire ((invParcel (leaveWalk s t p (fun _ => false) fun _ => false) p o).updParcel p fun P => { P with
          invals := P.invals ++ [{ tile := some t.val, byReg := false }] }) t id)
      exec (.tlbiVaP t rs1 rs2) s = wide { kind := 1, va := x, ast := y } ∧ exec (.tlbiAstP t rs1) s = wide { kind := 2, ast := x % 2 ^ 16 } ∧
      exec (.tlbiAllP t) s = wide { kind := 3 } ∧
      ((∀ i ∈ (s.parcel p).invals, i.tile = some t.val → i.byReg = true) → exec (.tlbsync t) s = .next (retire s t id)) ∧
      ((∃ i ∈ (s.parcel p).invals, i.tile = some t.val ∧ i.byReg = false) → exec (.tlbsync t) s = .next s))) ∧
  (∀ (s : State) (who : Who) (t : TileId) (wide : Bool), Clocked s → isManager s who = true → tilePresent s t = true →
    let M := (s.tile t).mmu
    let rows := [(1, Instr.mmuInvByAddress who t wide), (2, .mmuInvByAst who t wide), (3, .mmuInvAll who t wide)]
    (M.invBusy = true → ∀ r ∈ rows, exec r.2 s = .next (s.updTile t fun T => { T with mmu := { T.mmu with invRefused := true } })) ∧
    (M.invBusy = false → ∀ r ∈ rows,
      let o : InvOp := { kind := r.1, va := M.invAddr.toNat, ast := M.invAst.toNat }
      let s1 := invUnit (holdUnit s (.tile t) o) (.tile t) o
      ((wide && M.rootValid) = false → tileParcel s t = none ∨ unitDrained s1 (.tile t) = true → exec r.2 s = .next s1) ∧
      (∀ p, (wide && M.rootValid) = false → tileParcel s t = some p → unitDrained s1 (.tile t) = false →
        exec r.2 s = .next ((s1.updParcel p fun P => { P with invals := P.invals ++ [{ tile := some t.val, byReg := true, only := true }] }).updTile t
          fun T => { T with mmu := { T.mmu with invBusy := true } })) ∧
      (∀ p, (wide && M.rootValid) = true → tileParcel s t = some p → exec r.2 s = .next (((invParcel s p o).updParcel p fun P => { P with
        invals := P.invals ++ [{ tile := some t.val, byReg := true }] }).updTile t fun T => { T with mmu := { T.mmu with invBusy := true } })))) ∧
  (∀ (s : State) (p : ParcelId), Clocked s →
    ((s.parcel p).invals = [] → exec (.invalidationComplete p) s = .next (settle s)) ∧
    (∀ i rest, (s.parcel p).invals = i :: rest →
      let s1 := s.updParcel p fun P => { P with invals := rest }
      (invDrained s p i = false → exec (.invalidationComplete p) s = .next (settle s)) ∧
      (invDrained s p i = true →
        (∀ t, i.byReg = true → i.tile = some t → i.cmd = none → exec (.invalidationComplete p) s
          = .next (settle (s1.updTile t fun T => { T with mmu := { T.mmu with invBusy := false } }))) ∧
        (i.byReg = false → i.cmd = none → exec (.invalidationComplete p) s = .next (settle s1)) ∧
        (∀ q, i.byReg = false → i.cmd = some q → exec (.invalidationComplete p) s = .next (settle (endSeq s1 q 0 (zeros 16)))))))

/-- One descriptor read of a walk: a leaf is installed, a table descriptor leads one level deeper, and an invalid descriptor, a refused table pointer, a bus
error or poison ends the walk; what it ended in waits for the access, which takes it as its exception (that it waits so is the model's reading: log entry 26). -/
def Obligations.WalkDescriptorReads : Prop :=
  ∀ (s : State) (u : WalkUnit) (p : Nat) (va : Word) (k : AccessKind) (busError : Bool), Clocked s → unitParcel s u = some p → va.toNat < 2 ^ 48 →
    (unitTlb s u).walk = none → (unitTlb s u).lookup va.toNat = none →
    let w := walkStart s u p va.toNat k
    let at_ := w.table + 8 * (va.toNat / 2 ^ (39 - 9 * w.level) % 512)
    let a := (canon s at_).getD at_
    let d := leNat (s.mem.read a 8)
    let run := exec (.walkDescriptorRead u va k .clean busError) s
    (pointerReason s p w.table = none → busError = false → s.mem.poisoned a = false → descReason d w.level = none →
      (bitOf d 1 = true →
        let z := 39 - 9 * w.level
        let e : TlbEntry := { vaBase := va.toNat / 2 ^ z * 2 ^ z, sizeLog2 := z, leaf := d % 2 ^ 8, ast := d / 2 ^ 8 % 2 ^ 16, base := d / 2 ^ 24 % 2 ^ 40 * 2 ^ 12 }
        ∃ s', run = .next s' ∧ s'.mem = s.mem ∧ unitTlb s' u = { (unitTlb s u).fill (tlbSize u) e with walk := none }) ∧
      (bitOf d 1 = false → ∃ s', run = .next s' ∧ s'.mem = s.mem ∧
        unitTlb s' u = { unitTlb s u with walk := some { w with
          level := w.level + 1, table := d / 2 ^ 24 % 2 ^ 40 * 2 ^ 12
          found := [{ level := w.level, tag := va.toNat / 2 ^ (39 - 9 * w.level), desc := d }] } })) ∧
    (let ends := fun (idx reason : Nat) => ∃ s' r, run = .next s' ∧ s'.mem = s.mem ∧
        unitTlb s' u = { unitTlb s u with walk := none, result := some r } ∧ r.va = va.toNat ∧ r.kind = k ∧ r.entry = none ∧
        r.level = w.level ∧ r.idx = idx ∧ r.reason = reason;
      (∀ r, pointerReason s p w.table = some r → ends 3 r) ∧
      (pointerReason s p w.table = none → busError = true → ends 2 0x20) ∧
      (pointerReason s p w.table = none → busError = false → s.mem.poisoned a = true → ends 2 0x21) ∧
      (∀ r, pointerReason s p w.table = none → busError = false → s.mem.poisoned a = false → descReason d w.level = some r → ends 0 r)) ∧
    (∀ r, (unitTlb s u).result = some r → r.va = va.toNat → r.kind = k → r.entry = none →
      ∃ e, (translate s u va.toNat k).1 = .error e ∧ e.idx = r.idx ∧ e.reason = r.reason ∧ e.va = va.toNat ∧ e.level = r.level)

-- ## The decode unit and tile reset

/-- The decode unit takes its queued commands in order, makes one step of the running one at a time, and fails a command that has made 4,096 steps without
input or output, at the row that follows (that instant is the model's: log entry 27). Outputs and record of a command that tile code has stored into
meanwhile are undefined. A reset of a tile is refused while its parcel is busy. -/
def Obligations.DecodeUnitAndTileReset : Prop :=
  ∀ (s : State) (t : TileId), Clocked s →
    let T := s.tile t
    let undef := fun (s : State) (c : DecCmd) => if c.touched then forgetDec s t c else s
    (∀ c rest, T.decRun = none → T.decQ = c :: rest →
      let s1 := s.updTile t fun T => { T with decQ := rest }
      (decCheck s1 t c = none → exec (.decodeCommandBegin t) s = .next ((undef s1 c).updTile t fun T => { T with decRun := some (decBegin c) })) ∧
      (∀ r, decCheck s1 t c = some r → exec (.decodeCommandBegin t) s
        = .next (decStop (undef s1 c) t { status := 0x12, source := 3, reason := r, sub := 0, address := c.f 0x38 8 } 0))) ∧
    (T.decRun ≠ none ∨ T.decQ = [] → exec (.decodeCommandBegin t) s = .next s) ∧
    (T.decRun = none → exec (.decodeStep t) s = .next s ∧ exec (.decodeStall t) s = .next s) ∧
    (∀ R, T.decRun = some R →
      (4096 ≤ R.idle → ∀ i ∈ [Instr.decodeStep t, .decodeStall t], exec i s
        = .next (decStop (undef s R.cmd) t { status := 0x12, source := 3, reason := 0x10, sub := 0, address := R.cmd.f 0x38 8 } 0)) ∧
      (R.idle < 4096 → exec (.decodeStall t) s = .next s ∧
        let x := decStepW t { s := s, r := R }
        (x.e = .go → exec (.decodeStep t) s = .next ((undef x.s x.r.cmd).updTile t fun T => { T with decRun := some x.r })) ∧
        (∀ st r, x.e = .done st → roleOf x.s t = some r → exec (.decodeStep t) s = .next (requestFrom ((if x.r.cmd.touched then forgetDec x.s t x.r.cmd
          else x.s.tilePut t (x.r.cmd.off + 0x60) (decRecord x.r st)).updTile t fun T => { T with decRun := none }) r.p 4 r.v)) ∧
        (∀ r c, x.e = .fail r c → exec (.decodeStep t) s
          = .next (decStop (undef x.s x.r.cmd) t { status := 0x12, source := 3, reason := r, sub := c, address := x.r.cmd.f 0x38 8 } 0)) ∧
        (∀ r, x.e = .poison → roleOf x.s t = some r → exec (.decodeStep t) s = .next (decStop (undef x.s x.r.cmd) t {
          status := 0x17, source := 2, reason := 6, sub := r.stage.stage, address := x.r.cmd.f 0x38 8 } 6)))) ∧
    (∀ who, isManager s who = true → tilePresent s t = true →
      (tileBusy s t = true → exec (.tilResetGo who t) s = .next (s.updTile t fun T => { T with resetRefused := true })) ∧
      (tileBusy s t = false → exec (.tilResetGo who t) s = .next (resetTile s t) ∧ ((resetTile s t).tile t).inReset = true ∧
        ((resetTile s t).tile t).sRegs = [] ∧ ((resetTile s t).tile t).run = .idle ∧ ((resetTile s t).tile t).cache.en = false ∧
        ((resetTile s t).tile t).ctl = T.ctl ∧ ((resetTile s t).tile t).mmu.tlb.entries = [])) ∧
    exec (.tileResetDone t) s = .next (s.updTile t fun T => { T with inReset := false })

-- ## Sort, compression and digest engines

/-- The ends of engine jobs: a sort job is read and sorted, its runs and merge passes going through the scratch area; a compression job ends with what the
codec made of its input, or fails; a digest job hashes its input; the outcome is kept for the boundary that publishes it. A block of bound output is
written and requested. A suspension gives the engine to a job of higher priority. An engine that runs nothing ends nothing, and an engine without a slot
on its bank moves nothing. No run of the codec makes more output than it has room for. The compressor and a faulty verify lane are functions without a
body (log entry 33). -/
def Obligations.EngineJobs : Prop :=
  ∀ (s : State) (e : EngId) (j : EngJob) (p : Nat), Clocked s →
    (∀ T, engHasSlot s .se e = true → (s.eng .se e).running = some j → engParcel s .se e = some p → sortTable (s.parcel p).image j = some T →
      exec (.sortJobEnd e) s = .next ((sortRun s p e T j).2.updJob .se e j.post fun j => { j with
        outcome := some (sortRun s p e T j).1, running := false }) ∧
      (∀ input s1 x s2 places s3, unitRead s (engUnit .se e) (sjInAddr j) (sjInBytes j) false .any = (.ok input, s1) →
        unitPlaces s1 (engUnit .se e) (j.f 0x28 8) (sortPlan T j).scratch .cellar = (.ok x, s2) →
        unitPlaces s2 (engUnit .se e) (j.f 0x18 8) (sortPlan T j).outBytes .cellar = (.ok places, s3) → scratchPoison s2 T j x = none →
        (sortRun s p e T j).1.code = 0 ∧
        (sortRun s p e T j).1.writes = overPlaces x (scratchWrites T j (keyedRecords (s3.parcel p).image T j (j.input input))) ++
          layOut places ((sortRecords (s3.parcel p).image T j (j.input input)).take (sjLimit j)).flatten) ∧
      (j.kept = [] → ∀ l, j.input l = l)) ∧
    (engHasSlot s .se e = false → exec (.sortJobEnd e) s = .next s) ∧
    (engHasSlot s .ce e = false → ∀ upset, ∀ i ∈ [Instr.cmpJobEnd e upset, .cmpOutputBlock e, .cmpJobSuspend e], exec i s = .next s) ∧
    (engHasSlot s .de e = false → exec (.dgtJobEnd e) s = .next s) ∧
    (engHasSlot s .ce e = true → (s.eng .ce e).running = some j → engParcel s .ce e = some p →
      (∀ upset, exec (.cmpJobEnd e upset) s = .next (cmpPick (cmpEnd s p e upset j) p e)) ∧ exec (.cmpOutputBlock e) s = .next (outputBlock s p e j) ∧
      (∀ upset r places t, cmpRun s e upset j = (r, places, t) →
        (∀ f, r.fail = some f → cmpEnd s p e upset j = cmpFail (if r.verify then verifyFailed t e else t) p e j r f) ∧
        (r.fail = none → j.op 9 = false → cmpEnd s p e upset j = cmpFinish t p e j r places [])) ∧
      (∀ r places t, cmpRun s e 0 j = (r, places, t) → bitOf (cjBind j) 15 = true → 65536 * (j.blocks + 1) ≤ r.out.length → outputBlock s p e j
        = blockRequests (putAll t (overPlaces places [(65536 * j.blocks, slice r.out (65536 * j.blocks) 65536)])) p e j 1) ∧
      (bitOf (cjBind j) 15 = false → outputBlock s p e j = s) ∧
      (suspendFor (s.eng .ce e).jobs slotClash = (s.eng .ce e).jobs → exec (.cmpJobSuspend e) s = .next s) ∧
      (suspendFor (s.eng .ce e).jobs slotClash ≠ (s.eng .ce e).jobs → exec (.cmpJobSuspend e) s = .next (cmpSuspend s p e j)) ∧
      (∀ l t, unitPlaces s (engUnit .ce e) (j.f 0x30 8 + cjHalf j) (cjHalf j) .cellar = (.ok l, t) → cmpSuspend s p e j
        = (l.foldl (fun s x => forgetRun s x.1 x.2) t).updEng .ce e fun E => { E with jobs := suspendFor E.jobs slotClash })) ∧
    (∀ n upset t (room : Room) input, let r := compressRun n upset j t room input none
      (r.fail = none → (upset ≠ 0 → Config.verifyLane upset (cjFormat j) t.ctx.state r.out input.length = input) ∧ r.used = input.length) ∧
      r.out.length ≤ room.bytes) ∧
    (∀ t (room : Room) input stop, (decompressRun j t room input stop).out.length ≤ room.bytes) ∧
    ((s.eng .se e).running = none → exec (.sortJobEnd e) s = .next s) ∧
    ((s.eng .ce e).running = none → ∀ upset, ∀ i ∈ [Instr.cmpJobEnd e upset, .cmpOutputBlock e, .cmpJobSuspend e], exec i s = .next s) ∧
    (engHasSlot s .de e = true → (s.eng .de e).snoopDone = some j → exec (.dgtJobEnd e) s = .next (dgtSet e j (dgtSnooped s e j)) ∧
      (djResume j = false → j.seenPoison = none → dgtSnooped s e j = dgtFinish s e j [] j.seen)) ∧
    ((s.eng .de e).snoopDone = none → (s.eng .de e).running = none → exec (.dgtJobEnd e) s = .next s) ∧
    (engHasSlot s .de e = true → (s.eng .de e).snoopDone = none → (s.eng .de e).running = some j → j.snoop = false →
      exec (.dgtJobEnd e) s = .next (dgtPick (dgtSet e j (dgtRun s e j)) e) ∧
      (∀ input s1, djResume j = false → djKeep j = false → djFinal j = true → djOut j ≠ 2 → djHmac j = false → djKeyLoad j = false →
        unitRead s (engUnit .de e) (j.f 8 8) (j.f 0x10 8) false .cellarOrTiles = (.ok input, s1) →
        (dgtRun s e j).1.code = 0 ∧ (dgtRun s e j).1.inUsed = input.length ∧
        (dgtRun s e j).1.digest = hashEnd (djAlg j) (hashMore (djAlg j) (hashInit (djAlg j) (j.f 0x20 8)) input))) ∧
    exec (.dgtJobSuspend e) s = .next (s.updEng .de e fun E => { E with jobs := suspendFor E.jobs noClash }) ∧
    (∀ (l : List EngJob) (n : EngJob), l.find? (·.running) = some j → nextJob l noClash = some n → j.prio < n.prio → n.post ≠ j.post →
      ∀ k ∈ suspendFor l noClash, (k.post = j.post → k.running = false ∧ k.suspended = true ∧ k.suspendedOnce = true) ∧
        (k.post = n.post → k.running = true))

/-- Keys, management jobs and the constant-time compare: an owner change empties a key slot; a management job takes the engine and ends with its result, its
event and the engine's next job; a compare sets done, and pass where the digest equals the expected one. -/
def Obligations.KeysAndManagementJobs : Prop :=
  ∀ (s : State) (e : EngId) (m : MgmtJob) (who : Who) (j : Fin 32) (v : Word), Clocked s →
    (isManager s who = true → ∃ s', exec (.dgtKeyOwnWrite who j v) s = .next s' ∧ ∀ i, i < 8 →
      let n := 8 * j.val + i
      (∀ o, keyOwnerOf v.toNat i = some o → n ≠ 0 → (s'.keySlot n).owner = o ∧ (s'.keySlot n).num.toNat = v.toNat / 2 ^ (8 * i) % 2 ^ 6 ∧
        (s'.keySlot n).key = if o = (s.keySlot n).owner then (s.keySlot n).key else none) ∧
      (n = 0 ∨ keyOwnerOf v.toNat i = none → s'.keySlot n = s.keySlot n)) ∧
    (engPresent s .de e = true → (s.eng .de e).mjob = none → (s.eng .de e).jobs.any (·.snoop) = false → loaderSnoops s e = false →
      m.data.length ≤ 4096 → exec (.managementJobStart e m) s = .next (s.updEng .de e fun E => { E with
        mjob := some m
        jobs := E.jobs.map fun j => if j.running then { j with running := false, suspended := true, suspendedOnce := true } else j })) ∧
    ((s.eng .de e).mjob = some m → m.keyLoad = false → exec (.managementJobDone e) s = .next (dgtPick (raise
      (({ s.updEng .de e (fun E => { E with mresult := (mgmtValue s m).1, mstate := (mgmtValue s m).2 }) with freeCtr := s.freeCtr + 1 }
        : State).updEng .de e fun E => { E with mjob := none }) (1008 + e.val) 0 0) e)) ∧
    ((s.eng .de e).mjob = some m → m.keyLoad = true → (s.keySlot m.keySlot.toNat).owner = .mgmt → exec (.managementJobDone e) s = .next (dgtPick (raise
      (({ s.setKey m.keySlot.toNat { s.keySlot m.keySlot.toNat with key := some (m.alg.toNat, m.data) } with freeCtr := s.freeCtr + 1 }
        : State).updEng .de e fun E => { E with mjob := none }) (1008 + e.val) 0 0) e)) ∧
    (m.alg.toNat < 5 → (mgmtValue s m).1 = hashEnd m.alg.toNat (hashMore m.alg.toNat (hashInit m.alg.toNat (freeNat s 0 64)) m.data)) ∧
    (isManager s who = true → ∃ s', exec (.dgtCmpGo who v) s = .next s' ∧ s'.dgt.cmpBusy = true ∧ s'.dgt.cmpDone = false ∧ s'.dgt.cmpPass = false ∧
      s'.dgt.cmpSrc = fbit v 1 ∧ s'.dgt.cmpEng = v.toNat / 2 ^ 2 % 2 ^ 4 ∧ s'.dgt.cmpPage = v.toNat / 2 ^ 6 % 2 ^ 7 ∧
      s'.dgt.cmpSlot = v.toNat / 2 ^ 13 % 2 ^ 5 ∧ s'.dgt.expect = s.dgt.expect) ∧
    (s.dgt.cmpBusy = true → exec .dgtCompareDone s = .next (s.updDgt fun D => { D with
      cmpBusy := false, cmpDone := true, cmpPass := cmpValue s == D.expect }))

-- ## Memory

/-- Requests at the memory fabric read and write the cellar where the parcel of the master may, with the check symbols met first, a poisoned line being
returned marked so; others are refused; a management core's at an absent unit reads poisoned data or is discarded, and raises HEALTH cause 3.
Which check symbols a request meets is its operand (log entry 31). Scrubbing, its interval and the record of an uncorrectable line. -/
def Obligations.MemoryController : Prop :=
  ∀ (s : State) (m : Master) (dpa v : Word) (ecc : Ecc) (who : Who) (k : StackId), Clocked s →
    let a := dpa.toNat
    let n := a / 2 ^ 33
    let reads := fun (m : Master) (len : Nat) =>
      let s1 := eccRead s a ecc
      exec (.memoryRequest m dpa (.read len) ecc) s = .next { s1 with
        lastRead := BitVec.ofNat 64 (leNat ((s1.mem.read a len).take 8))
        lastEnd := if (List.range len).any fun i => s1.mem.poisoned (a + i) then .poisoned else .good }
    let writes := fun (m : Master) (bs : List Byte) (poison : Bool) =>
      exec (.memoryRequest m dpa (.write bs poison) ecc) s = .next { s with mem := s.mem.store a bs poison, lastEnd := .good } ∧
      (s.memOk → s.mem.quiet a bs.length → Stored s.mem (s.mem.store a bs poison) a bs)
    (∀ p, (∀ core, m ≠ .mgmt core) → masterParcel s m = some p → (s.parcel p).holds = true →
      (∀ len, 1 ≤ len → a + len ≤ 2 ^ 39 → allowedRange s p a len = true → reads m len) ∧
      (∀ bs poison, 1 ≤ bs.length → a + bs.length ≤ 2 ^ 39 → allowedRange s p a bs.length = true → writes m bs poison)) ∧
    ((∀ core, m ≠ .mgmt core) → ∀ op,
      (∀ p, masterParcel s m = some p → (s.parcel p).holds = true → allowedRange s p a (memOpLen op) = false) →
      exec (.memoryRequest m dpa op ecc) s = .next { s with lastEnd := .refused }) ∧
    (∀ core len, 1 ≤ len → a + len ≤ 2 ^ 39 → absentPlace s a = false → absentPlace s (a + len - 1) = false → reads (.mgmt core) len ∧
      ∀ bs poison, bs.length = len → writes (.mgmt core) bs poison) ∧
    (∀ core, absentPlace s a = true →
      (∀ n, exec (.memoryRequest (.mgmt core) dpa (.read n) ecc) s = .next (raiseGlobal { s with
        lastRead := Config.freeWord s.freeCtr, lastEnd := .poisoned, freeCtr := s.freeCtr + 1 } 4 3)) ∧
      (∀ bs poison, a % 64 + bs.length ≤ 64 →
        exec (.memoryRequest (.mgmt core) dpa (.write bs poison) ecc) s = .next (raiseGlobal { s with lastEnd := .good } 4 3))) ∧
    (a < 2 ^ 39 → s.mem.poisoned (a / 64 * 64) = false →
      let K := s.stack (n / 8)
      let K1 := (eccRead s a .corrected).stack (n / 8)
      let K2 := (eccRead s a .uncorrectable).stack (n / 8)
      eccRead s a .clean = s ∧ Tab.get 0 K1.ceCnt (n % 8) = satAdd (Tab.get 0 K.ceCnt (n % 8)) 1 ∧
      Tab.get 0 K2.ueCnt (n % 8) = satAdd (Tab.get 0 K.ueCnt (n % 8)) 1 ∧ K2.ueSeen = true ∧ K2.ueValid = true ∧
      K2.ueAddr = if K.ueValid then K.ueAddr else a / 64 * 64) ∧
    (stackPresent s k = true → fbit (s.stack k).scrubCtl 0 = true → (s.stack k).trained = true → ∀ ecc i0, i0 < 8 →
      let pos := fun (i : Nat) => Tab.get 0 (s.stack k).pos i
      selfRefresh s (8 * k.val + i0) = false → pos i0 + 1 < 2 ^ 24 → ∃ s', exec (.scrubLine k ecc) s = .next s' ∧
        ∀ i, i < 8 → Tab.get 0 (s'.stack k).pos i = if selfRefresh s (8 * k.val + i) = false ∧ pos i < 2 ^ 24 then pos i + 1 else pos i) ∧
    (stackPresent s k = false ∨ fbit (s.stack k).scrubCtl 0 = false ∨ (s.stack k).trained = false → ∀ ecc, exec (.scrubLine k ecc) s = .next s) ∧
    (isManager s who = true → stackPresent s k = true →
      (let h := v.toNat / 2 ^ 8 % 2 ^ 8; exec (.memScrubCtlWrite who k v) s = .next (s.updStack k fun K =>
        if 1 ≤ h ∧ h ≤ 168 then { K with scrubCtl := v &&& 0xFF01 } else { K with paramErr := true })) ∧
      exec (.memUeAddrClear who k) s = .next (s.updStack k fun K => { K with ueValid := false })) ∧
    (isManager s who = false ∨ stackPresent s k = false →
      exec (.memScrubCtlWrite who k v) s = .next s ∧ exec (.memUeAddrClear who k) s = .next s)

-- ## Data movers

/-- A data-mover channel starts with the registers it samples, halts on a setup that its checks refuse, and refuses a start while locked, busy or stopped;
it is aborted; it takes requests up to its limit. That the attachment of the namespace is checked at the start, and that a write with abort and start
to an idle channel starts it, are the model's readings (log entry 32). -/
def Obligations.MoverStartsAndRequests : Prop :=
  ∀ (s : State) (who : Who) (g : GroupId) (c : ChanId) (ctl : Word) (src : BitVec 3), Clocked s →
    let C := s.chan g c
    let chan := fun (f : Chan → Chan) => Host.Outcome.next (s.updChan g c f)
    let start := exec (.dmaStart who g c ctl) s
    (mayGroup s who g = false → start = .next s ∧ exec (.dmaAbort who g c) s = .next s) ∧
    (mayGroup s who g = true → groupParcel s g = none → start = chan fun C => { C with startRefused := true }) ∧
    (∀ p, mayGroup s who g = true → groupParcel s g = some p →
      (chanLocked s g c = true → start = chan (fun C => { C with writeRefused := true }) ∧
        exec (.dmaAbort who g c) s = chan fun C => { C with writeRefused := true }) ∧
      (chanLocked s g c = false →
        (C.busy = true → fbit ctl 1 = false → start = chan fun C => { C with startRefused := true }) ∧
        (C.busy = true → fbit ctl 1 = true → start = exec (.dmaAbort who g c) s) ∧
        (C.busy = true → ∃ s', exec (.dmaAbort who g c) s = .next s' ∧ (s'.chan g c).busy = false ∧ (s'.chan g c).aborted = true ∧
          (s'.chan g c).done = false ∧ (s'.chan g c).err = 0 ∧ (s'.chan g c).burst = none) ∧
        (C.busy = false → (s.group g).stopped = true → start = chan fun C => { C with startRefused := true }) ∧
        (C.busy = false → (s.group g).stopped = false →
          let s0 := keepMoved (s.updChan g c fun C => { C with ctl := ctl &&& 0x1FFFFFFFFC, prog := none, badNs := false }) g c
          let s1 := s0.updChan g c fun C => { C with
            xsrc := C.src.toNat, xdst := C.dst.toNat, xcnt := C.cnt.toNat
            xctl := ctl &&& 0x1FFFFFFFFC, xhi := C.hiwat.toNat, xlo := C.lowat.toNat, xqsel := C.qsel, xns := C.ns.toNat, xenq := C.enq
            vintage := (s.parcel p).vintage, done := false, aborted := false, err := 0, retries := 0, remaining := C.cnt.toNat, moved := 0
            busy := true, gateClosed := false, burst := none, burstNo := 0, ahead := false, aheadOff := 0
            snoopLive := C.snoop.isSome }
          (badSetup s1 g (s1.chan g c) = true → start = .next (haltChan s1 g c 0x0A)) ∧
          (badSetup s1 g (s1.chan g c) = false → badNs s1 g (s1.chan g c) = true → start = .next (haltChan s1 g c 0x09)) ∧
          (badSetup s1 g (s1.chan g c) = false → badNs s1 g (s1.chan g c) = false → C.cnt = 0 → start = .next (finishDone s1 g c)) ∧
          (badSetup s1 g (s1.chan g c) = false → badNs s1 g (s1.chan g c) = false → C.cnt ≠ 0 →
            start = .next (readAhead (sendLtr (s1.updParcel p fun P => { P with ps := 0 })) g c))))) ∧
    (C.reqSrc = src.toNat → src ≠ 0 → C.busy = true → C.paced = true →
      let frame := src = 1 ∨ src = 2
      (∀ p, frame → groupParcel s g = some p → guardNow s p = true → exec (.dmaRequest g c src) s = chan fun C => { C with lateReq := C.lateReq + 1 }) ∧
      ((frame → ∀ p, groupParcel s g = some p → guardNow s p = false) →
        (C.reqPending < 4095 → exec (.dmaRequest g c src) s = chan fun C => { C with
          reqPending := C.reqPending + 1, dueOpen := C.dueOpen + if src = 1 ∨ src = 2 then 1 else 0 }) ∧
        (4095 ≤ C.reqPending → exec (.dmaRequest g c src) s = .next (haltChan s g c 0x0C))))

/-- Bursts of a data mover: one begins when requests and fill gate allow, takes the lower of its size and what remains, and its end moves its bytes; a bus
error is retried, up to the limit for each failing access, or halts the channel, or on a prefetched read stops the group; a burst of a namespace that the
service holds ready raises a request, and the next one is read. That the service reads one burst ahead, that the request comes with
NS_READAHEAD_READY, and that retries count for each failing access are the model's readings (log entry 32). -/
def Obligations.MoverBursts : Prop :=
  ∀ (s : State) (who : Who) (g : GroupId) (c : ChanId) (dpa : Word) (r : ReadResult), Clocked s →
    let C := s.chan g c
    let looked := fun (f : Chan → Chan) => Host.Outcome.next ((fillLooked s g C).updChan g c f)
    let late := exec (.dmaBusError g c dpa true) s
    (C.busy = true → C.burst = none → (C.paced = true → C.reqPending ≠ 0) →
      (gateClosed s g C = true → exec (.burstStart g c) s = looked fun C => { C with gateClosed := true }) ∧
      (gateClosed s g C = false → exec (.burstStart g c) s = looked fun C => { C with
        gateClosed := false
        burst := some { off := C.xcnt - C.remaining, len := min (64 * 2 ^ (C.xctl.toNat / 2 ^ 25 % 2 ^ 4)) C.remaining, due := C.reqSrc == 1 || C.reqSrc == 2 }
        reqPending := if C.paced then C.reqPending - 1 else C.reqPending })) ∧
    (C.busy = true → C.burst = none → C.paced = true → C.reqPending = 0 → exec (.burstStart g c) s = .next s) ∧
    (C.busy = false ∨ C.burst ≠ none → exec (.burstStart g c) s = .next s) ∧
    exec (.burstComplete g c r) s = .next (settleFrom s (burstComplete s g c r)) ∧
    (∀ b bs s1 n s2, C.burst = some b → burstSource s g C b r = (bs, none, s1) →
      let m := C.xctl.toNat / 2 ^ 2 % 2 ^ 3
      let u := swapUnit m
      burstWrite s1 g C (sideRuns C.xdst (fbit C.xctl 6) (C.xctl.toNat / 2 ^ 7 % 2 ^ 5) (b.len + 1) b.off b.len)
        (swapBytes m (bs.take (bs.length / u * u))) = (n, none, s2) →
      burstComplete s g c r = burstAccept (retryDone s2 g c) g c b (swapBytes m (bs.take (bs.length / u * u))) n true) ∧
    (∀ o rest, C.burst = none → C.old = o :: rest → o.host = true →
      burstComplete s g c r = countStale (s.updChan g c fun C => { C with old := rest }) o.parcel) ∧
    (∀ b run port off0, C.burst = some b → fbit C.xctl 36 = false → (sideRuns C.xsrc (fbit C.xctl 5) (C.xctl.toNat / 2 ^ 7 % 2 ^ 5) (b.len + 1) b.off b.len).head? = some run →
      ∀ x s1, translate s (.group g) run.1 .load = (.ok x, s1) → place x.dpa = .host port off0 → b.lost.contains port = true →
        burstSource s g C b r = ([], some (.bus x.dpa), s1.updPort port fun P => P.logged .completionTimeout)) ∧
    (isHost dpa.toNat = true → late = .next s) ∧
    (C.burst = none → ∀ onWrite, (onWrite && isHost dpa.toNat) = false →
      exec (.dmaBusError g c dpa onWrite) s = .next (settleFrom s (oldBurstEnds s g c))) ∧
    (∀ b, C.burst = some b →
      (fbit C.xctl 29 = true → exec (.dmaBusError g c dpa false) s = .next (groupStop (nextAccess s g c dpa.toNat false) g dpa.toNat)) ∧
      (∀ onWrite, (onWrite && isHost dpa.toNat) = false → (!onWrite && fbit C.xctl 29) = false →
        let again := fun (t : State) (b : Burst) => Host.Outcome.next (if b.retries < C.xctl.toNat / 2 ^ 30 % 2 ^ 4
          then t.updChan g c fun C => { C with retries := C.retries + 1, burst := some { b with retries := b.retries + 1, lost := [] } }
          else haltChan t g c 0x01)
        let b1 := { b with failing := some (dpa.toNat, onWrite) }
        exec (.dmaBusError g c dpa onWrite) s = .next (busError s g c dpa.toNat onWrite).1 ∧
        (b.failing = b1.failing → exec (.dmaBusError g c dpa onWrite) s = again s b) ∧
        (b.failing ≠ b1.failing → b.retries = 0 →
          exec (.dmaBusError g c dpa onWrite) s = again (s.updChan g c fun C => { C with burst := some b1 }) b1) ∧
        (b.failing ≠ b1.failing → b.retries ≠ 0 → (s.group g).retryEvEn = false → exec (.dmaBusError g c dpa onWrite) s
          = again (s.updChan g c fun C => { C with burst := some { b1 with retries := 0 } }) { b1 with retries := 0 }))) ∧
    (mayGroup s who g = true → (∀ e ∈ (s.group g).chans, e.2.busy = false) →
      exec (.dmaGStoppedClear who g) s = .next (s.updGroup g fun G => { G with stopped := false, errValid := false })) ∧
    (mayGroup s who g = false ∨ (∃ e ∈ (s.group g).chans, e.2.busy = true) → exec (.dmaGStoppedClear who g) s = .next s) ∧
    (let ready := C.busy = true ∧ fbit C.xctl 36 = true ∧ C.ahead = true ∧ ∀ x ∈ s.sto.reads, x.reader ≠ .chan g c;
      (¬ ready → exec (.nsReadaheadReady g c) s = .next s) ∧
      (ready →
        ((s.nspace C.xns).bind (fun N => s.pset N.set) = none → exec (.nsReadaheadReady g c) s = .next (haltChan s g c 0x09)) ∧
        (∀ P, (s.nspace C.xns).bind (fun N => s.pset N.set) = some P → P.recovering = true →
          exec (.nsReadaheadReady g c) s = .next (haltChan s g c 0x09)) ∧
        (∀ P, (s.nspace C.xns).bind (fun N => s.pset N.set) = some P → P.recovering = false →
          let len := 64 * 2 ^ (C.xctl.toNat / 2 ^ 25 % 2 ^ 4)
          let off := max C.aheadOff (match C.burst with | some b => b.off + b.len | none => C.xcnt - C.remaining)
          (∀ bs, nsRead s C.xns (C.xsrc + off) (min len (C.xcnt - off)) = .ok bs → exec (.nsReadaheadReady g c) s
            = .next (readAhead (addRequest (s.updChan g c fun C => { C with
                ahead := false, aheadOff := off + min len (C.xcnt - off) }) g c 3 false) g c)) ∧
          (∀ e, nsRead s C.xns (C.xsrc + off) (min len (C.xcnt - off)) = .error e →
            exec (.nsReadaheadReady g c) s = .next (haltChan s g c 0x08)))))

-- ## Frames

/-- Frames. The global boundary, where the settings written since take effect, and which is a parcel boundary of the parcels whose divisor divides the frame
count. What a parcel boundary decides of an EXECUTE, in R48's order: the final commit, then a CANCEL, then an overrun of holds or an expired park, each with its
status and with the EXECUTE over; otherwise each pipeline decants, its inboxes exchanged, its tiles begun and its hold count 0, or it holds, its tiles left
where they stand and its count one up unless it is parked; a RESUME unparks. An EXECUTE starts with its tiles at their entries. The guard window; the
period and the hold limit with their refusals; and the correlation with the host's time. Which pipeline an overrun names where several hold too long (log
entry 16), a dialogue during a freeze, and the two FRAME events of a write that is out of range and refused (log entry 13) are the model's readings. -/
def Obligations.Frames : Prop :=
  ∀ (s : State) (who : Who) (v : Word), Clocked s →
    let n := v.toNat % 2 ^ 16
    let h := v.toNat % 2 ^ 8
    let held := s.parcels.any fun e => e.2.st == .active || e.2.st == .quiescing
    let opened := { s.updFrm (fun F => { F with count := F.count + 1, cycle := 0, guardOpen := false, periodNow := F.period, holdNow := F.hold }) with
      parcels := s.parcels.map fun e => (e.1, { e.2 with divNow := e.2.div }) }
    exec .globalBoundary s = .next (settleFrom s (globalBoundary s)) ∧
    ((∀ p, p < 64 → (s.parcel p).holds = false) → (globalBoundary s).frm = { s.frm with
      count := s.frm.count + 1, cycle := 0, guardOpen := false, periodNow := s.frm.period, holdNow := s.frm.hold }) ∧
    (globalBoundary s = together opened fun t => endDetaches (foldNat (List.range 64) (fun p t =>
      if (t.parcel p).holds = true ∧ t.frm.count.toNat % (t.parcel p).divNow.toNat = 0 then parcelBoundary t p else t) t)) ∧
    (∀ p, let P := s.parcel p
      let a := forgetStores (engineBoundary (P.tiles.foldl deliverAll (s.updParcel p fun P => { P with parkNow := P.park })) p) P
      let b := loadBoundary (cancelWaiting (decideExecute a p) p) p (loadBusy s p)
      parcelBoundary s p = cancelRest (startNext b.cmds.length b p) p) ∧
    (∀ p x, (s.parcel p).exec = some x →
      let P := s.parcel p
      let cancels := observedFor s p 0x13 x.seq
      let resumes := observedFor s p 0x14 x.seq
      let o := outcome s P x cancels resumes
      let t := decideExecute s p
      let late := fun (k : Nat) => decants s P k = false ∧ ¬ PipeParked s P k ∧ s.frm.holdNow.toNat < (x.pipe k).holds + 1
      let expired := ∃ k ∈ P.image.pipeIds, ∃ e ∈ P.image.stages, e.pipeline = k ∧ (∃ i ∈ poolTiles P e, (s.tile i).run = .parked) ∧
        P.parkNow.toNat < Tab.get 0 (x.pipe k).parks e.stage + (if resumes = [] then 1 else 0)
      (∀ k, decants s P k = true ↔ PipeDone s P k ∧ dueHold s P k = false) ∧
      (finalCommit s P = true → o = some (sSUCCESS, leBytes 4 (x.frames + 1) ++ leBytes 4 x.holds ++ leBytes 8 x.start.toNat)) ∧
      (finalCommit s P = false → cancels ≠ [] → o = some (sCANCELLED, zeros 16)) ∧
      (finalCommit s P = false → cancels = [] → failure s P x = none →
        (∀ k ∈ P.image.pipeIds, late k → (∀ j ∈ P.image.pipeIds, j < k → ¬ late j) → ¬ expired →
          ∃ st, o = some (sFRAME_OVERRUN, detail 0 10 k st 0) ∧ ((∃ e ∈ P.image.pipeStages k, stageDone s P e = false) →
            (∃ e ∈ P.image.pipeStages k, e.stage = st ∧ stageDone s P e = false) ∧ ∀ e ∈ P.image.pipeStages k, stageDone s P e = false → st ≤ e.stage)) ∧
        (expired → (∀ k ∈ P.image.pipeIds, ¬ late k) → ∃ det, o = some (sTRANSLATION_FAULT, det)) ∧
        (¬ expired → (∀ k ∈ P.image.pipeIds, ¬ late k) → o = none)) ∧
      (∀ st det c, o = some (st, det) → s.cmd x.seq = some c →
        let e := endExecute s.stamp.2 p x st det
        Ended e c st det (ExecOver s · p) ∧
        t = endResumes (match cancels with | k :: _ => if st = sCANCELLED then endCmd e k sSUCCESS (zeros 16) else e | [] => e) resumes sTOO_LATE) ∧
      (o = none → (P.image.pipeIds.flatMap (pipeTiles P)).Nodup →
        ((t.parcel p).exec.map fun y => y.frames) = some (x.frames + 1) ∧
        ∀ k ∈ P.image.pipeIds,
          (∃ y q, (t.parcel p).exec = some y ∧ (y.pipes.find? fun q => q.id == k) = some q ∧
            ((decants s P k = true ∨ (PipeParked s P k ∧ resumes ≠ [])) → q.holds = 0) ∧
            (decants s P k = false → ¬ PipeParked s P k → q.holds = (x.pipe k).holds + 1) ∧
            (decants s P k = false → PipeParked s P k → resumes = [] → q.holds = (x.pipe k).holds)) ∧
          (decants s P k = true →
            (∀ i ∈ pipeTiles P k, (t.tile i).bLower = !(s.tile i).bLower ∧ (t.tile i).dirB = [] ∧ (t.tile i).fillB = 0) ∧
            (∀ e ∈ P.image.pipeStages k, e.pooled = false → ∀ i ∈ poolTiles P e, (s.tile i).eos = false →
              (t.tile i).run = .running ∧ (t.tile i).pc = BitVec.ofNat 64 ((((P.vtile i).bind P.image.codeOf).map (·.entry)).getD 0))) ∧
          (decants s P k = false → ∀ i ∈ pipeTiles P k, (t.tile i).bLower = (s.tile i).bLower ∧ (t.tile i).dirA = (s.tile i).dirA ∧
            (t.tile i).pc = (s.tile i).pc ∧ ((s.tile i).run ≠ .parked ∨ resumes = [] → (t.tile i).run = (s.tile i).run) ∧
            ((s.tile i).run = .parked → resumes ≠ [] → i ∈ P.tiles → (t.tile i).run = .running ∧ (t.tile i).vstart = (s.tile i).vstart)))) ∧
    (∀ p c, (s.parcel p).exec = none → startFlaw s p c (c.fetched.getD []) = none →
      let P := s.parcel p
      let t := startExecute s p c
      ((t.parcel p).exec.map fun y => (y.seq, y.start, y.frames, y.holds)) = some (c.seq, s.frm.count, 0, 0) ∧
      ∀ e ∈ P.image.stages, ∀ i ∈ poolTiles P e, i ∈ P.tiles → (t.tile i).run = .running ∧ (t.tile i).vl = 512 ∧
        (t.tile i).pc = BitVec.ofNat 64 ((((P.vtile i).bind P.image.codeOf).map (·.entry)).getD 0)) ∧
    (∀ p c st det, startFlaw s p c (c.fetched.getD []) = some (st, det) → startExecute s p c = endCmd s c st det) ∧
    exec .guardWindowOpen s = .next (s.updFrm fun F => { F with cycle := F.periodNow.toNat - 48, guardOpen := true }) ∧
    (isManager s who = true →
      (held = false → 600 ≤ n → n ≤ 38400 → exec (.frmPeriodWrite who v) s = .next (s.updFrm fun F => { F with period := BitVec.ofNat 16 n })) ∧
      (held = false → (n < 600 ∨ 38400 < n) →
        exec (.frmPeriodWrite who v) s = .next (raiseGlobal (s.updFrm fun F => { F with periodRange := true }) 0 2)) ∧
      (held = true → 600 ≤ n → n ≤ 38400 →
        exec (.frmPeriodWrite who v) s = .next (raiseGlobal (s.updFrm fun F => { F with periodRefused := true }) 0 1)) ∧
      (held = true → (n < 600 ∨ 38400 < n) → exec (.frmPeriodWrite who v) s
        = .next (raiseGlobal (raiseGlobal (s.updFrm fun F => { F with periodRefused := true, periodRange := true }) 0 1) 0 2)) ∧
      (h ≠ 0 → exec (.frmHoldLimitWrite who v) s = .next (s.updFrm fun F => { F with hold := BitVec.ofNat 8 h })) ∧
      (h = 0 → exec (.frmHoldLimitWrite who v) s = .next (raiseGlobal (s.updFrm fun F => { F with holdErr := true }) 0 3)) ∧
      (∀ fz, let late := match s.frm.ptmLate with
          | none => { s.frm with frozen := fz }
          | some (c, k, ns) => { s.frm with frozen := fz, ptmCycle := c, ptmSeq := k, ptmHost := ns, ptmLate := none }
        (fz = true → exec (.frmPtmFrameRead who) s = .next { s with lastRead := s.frm.ptmFrame, frm := late }) ∧
        (fz = false → exec (.frmPtmHostRead who) s = .next { s with lastRead := s.frm.ptmHost, frm := late }))) ∧
    (isManager s who = false → ∀ i ∈ [Instr.frmPeriodWrite who v, .frmHoldLimitWrite who v, .frmPtmFrameRead who, .frmPtmHostRead who],
      exec i s = .next s) ∧
    (s.frm.ptmEn = true → linkUp s (b2n s.frm.ptmPort) = true → exec .ptmRequestTimer s = .next (s.updFrm fun F => { F with ptmAsked := true })) ∧
    (s.frm.ptmEn = true → s.frm.ptmAsked = true →
      (s.frm.frozen = false → exec (.ptmDialogueComplete v) s = .next (raiseGlobal (s.updFrm fun F => { F with
        ptmAsked := false, ptmFrame := F.count, ptmCycle := BitVec.ofNat 16 F.cycle, ptmSeq := F.ptmSeq + 1, ptmHost := v }) 1 1)) ∧
      (s.frm.frozen = true → exec (.ptmDialogueComplete v) s = .next (raiseGlobal (s.updFrm fun F => { F with
        ptmAsked := false, ptmFrame := F.count, ptmLate := some (BitVec.ofNat 16 F.cycle, ((F.ptmLate.map (·.2.1)).getD F.ptmSeq) + 1, v) }) 1 1)))

-- ## Task windows and commands

/-- The engine takes a latched command of each opcode: it is accepted behind those before it with the next number, or completed at once with the status of the
first check that it fails; a load of a parcel without a loader path is rejected as soon as it is accepted; then what can begin begins. A row of another
opcode than the latched one does nothing. What commands do once begun: EXECUTE reads its parameter block, MAP, UNMAP and CELLAR_COPY change tables and
memory, the administrative commands create, delete and attach namespaces, identify, and stage and commit firmware (the instant at which firmware is written
and what an unwritten slot holds: log entry 46); LOAD_IMAGE, the parcel commands, the storage commands and CASK_PREPARE_REMOVE have statements of their own. -/
def Obligations.CommandAcceptance : Prop :=
  ∀ (s : State) (w : Window) (data : List Byte), Clocked s →
    let rows := [(0x10, Instr.loadImage w), (0x11, .unloadImage w), (0x12, .execute w), (0x13, .cancel w), (0x14, .resume w), (0x15, .queryStatus w),
      (0x20, .map w), (0x21, .unmap w), (0x22, .cellarCopy w), (1, .read w), (4, .flush w), (5, .deallocate w), (0x40, .createNs w), (0x41, .deleteNs w),
      (0x42, .attachNs w), (0x43, .identify w), (0x44, .getLog w), (0x45, .setFeature w), (0x46, .getFeature w), (0x47, .caskPrepareRemove w),
      (0x48, .fwStage w), (0x49, .fwCommit w), (0x4A, .parcelCreate w), (0x4B, .parcelDestroy w), (0x4C, .parcelReset w)]
    let raw := (s.win w).latched
    let op := fieldAt raw 0 1
    let s1 := s.updWin w fun W => { W with busy := false, latched := [] }
    (∀ r ∈ rows, latchedOp s w = some r.1 → exec r.2 s = .next (settle (noteAwake s (takeLatched s w [])))) ∧
    (latchedOp s w = some 2 → exec (.write w data) s = .next (settle (noteAwake s (takeLatched s w data)))) ∧
    (∀ r ∈ rows, latchedOp s w ≠ some r.1 → exec r.2 s = .next s) ∧
    (winAccepts s1 w op = false → isAdminWin s1 w = true → takeLatched s w data = refuseCmd s1 w raw none sINVALID_OPCODE (cmdDetail 0 0)) ∧
    (winAccepts s1 w op = true → opGroup op = some .admin → fieldChecks s1 w raw = none → takeLatched s w data = acceptCmd s1 w raw none data) ∧
    (winAccepts s1 w op = true → opGroup op ≠ some .admin →
      (winParcel s1 w = none → takeLatched s w data = refuseCmd s1 w raw none sPERMISSION (cmdDetail 6 0)) ∧
      (∀ q, winParcel s1 w = some q → (s.parcel q).st = .resetting → takeLatched s w data = refuseCmd s1 w raw (some q) sPARCEL_RESET (cmdDetail 0 0)) ∧
      (∀ q st d, winParcel s1 w = some q → (s.parcel q).st ≠ .resetting → fieldChecks s1 w raw = some (st, d) →
        takeLatched s w data = refuseCmd s1 w raw (some q) st d) ∧
      (∀ q, winParcel s1 w = some q → (s.parcel q).st ≠ .resetting → fieldChecks s1 w raw = none →
        takeLatched s w data = acceptCmd s1 w raw (some q) data ∧
        (op = 0x10 → (s.parcel q).noLoaderPath = true → ∃ c, c.win = w ∧ c.tag = fieldAt raw 2 2 ∧ c.opcode = op ∧ c.parcel = some q ∧
          acceptCmd s1 w raw (some q) data = endCmd
            (({ s1 with cmds := s1.cmds ++ [c], accepted := s.accepted + 1, pwr := { s.pwr with ps4 := false } }).updParcel q fun P => { P with ps := 0 })
            c sIMAGE_REJECTED (detail 0x1C 9 0xFFFF 0 0)) ∧
        (op ≠ 0x10 ∨ (s.parcel q).noLoaderPath = false → ∃ c, (acceptCmd s1 w raw (some q) data).cmds = s.cmds ++ [c] ∧
          c.win = w ∧ c.tag = fieldAt raw 2 2 ∧ c.opcode = op ∧ c.raw = raw ∧
          c.parcel = some q ∧ c.vintage = (s.parcel q).vintage ∧ c.seq = s.accepted ∧ c.phase = .held ∧
          (acceptCmd s1 w raw (some q) data).accepted = s.accepted + 1 ∧ (acceptCmd s1 w raw (some q) data).pwr.ps4 = false ∧
          ((acceptCmd s1 w raw (some q) data).parcel q).ps = 0))) ∧
    (∀ (c : Cmd) (p : Nat),
      let q := c.parcel.getD 0
      let fails := fun (st r sub : Nat) => endCmd s c st (detail r 1 0 sub 0)
      let runs := s.updCmd c.seq fun c => { c with phase := .running }
      ((c.opcode ∈ [1, 2, 4, 5] → startCmd s c = startStorage s c q) ∧ (c.opcode ∈ [0x20, 0x21] → startCmd s c = editTables s c q) ∧
        (c.opcode = 0x22 → startCmd s c = cellarCopy s c q) ∧ (c.opcode = 0x12 → startCmd s c = fetchNow s c) ∧
        (c.opcode = 0x41 → startCmd s c = deleteNs s c) ∧ (c.opcode = 0x42 → startCmd s c = attachNs s c) ∧
        (c.opcode = 0x43 → startCmd s c = identify s c) ∧ (c.opcode = 0x47 → startCmd s c = prepareRemove s c) ∧
        (c.opcode = 0x49 → startCmd s c = fwCommit s c) ∧ (c.opcode = 0x4B → startCmd s c = destroyStart s c) ∧
        (c.opcode = 0x4C → startCmd s c = resetStart s c) ∧
        (∀ n, (c.opcode, n) ∈ [(0x40, 64), (0x4A, 128)] →
          (c.f 0x10 4 ≠ n → startCmd s c = fails sINVALID_FIELD 4 0x10) ∧ (c.f 0x10 4 = n → startCmd s c = runs))) ∧
      (c.opcode = 0x12 → c.parcel = some p →
        (c.f 0x10 4 = 0 → fetchNow s c = s.updCmd c.seq fun c => { c with fetched := some [] }) ∧
        (c.f 0x10 4 ≠ 0 → c.space = false → fetchNow s c = s) ∧
        (c.f 0x10 4 ≠ 0 → c.space = true →
          (∀ bs s2, cmdRead s p (c.f 8 8) (c.f 0x10 4) = (.ok bs, s2) → fetchNow s c = s2.updCmd c.seq fun c => { c with fetched := some bs }) ∧
          (∀ e i s2, cmdRead s p (c.f 8 8) (c.f 0x10 4) = (.error (e, i), s2) → fetchNow s c = endCmd s2 c e.status (detail 0 1 1 i e.va)))) ∧
      (let va := c.f 8 8
       let n := c.f 0x18 8
       let page := c.f 0x20 1
       let leaf := 3 + 4 * c.f 0x22 1 + 0x100 * c.f 0x24 2 + mapBase s c p / 4096 * 2 ^ 24
       let flushed := fun (t : State) => ((invParcel t p { kind := 4, va := va, ast := va + n }).updParcel p fun P => { P with
         invals := P.invals ++ [{ tile := none, byReg := false, cmd := some c.seq }] }).updCmd c.seq fun c => { c with phase := .running }
       (c.opcode = 0x20 → page < 4 → n = 2 ^ (12 + 9 * page) →
         (∀ st d, mapSlot 4 s p va 0 (3 - page) (s.parcel p).root = .error (st, d) → editTables s c p = endCmd s c st d) ∧
         (∀ a t, mapSlot 4 s p va 0 (3 - page) (s.parcel p).root = .ok (a, t) → place a = .cellar a → a % 8 = 0 → t.memOk → t.mem.quiet a 8 →
           ∃ u, editTables s c p = flushed u ∧ Stored t.mem u.mem a (leBytes 8 leaf))) ∧
       (c.opcode = 0x21 →
         (∀ st d, unmapTable 4 s p (s.parcel p).root 0 0 va (va + n) = .error (st, d) → editTables s c p = endCmd s c st d) ∧
         (∀ t, unmapTable 4 s p (s.parcel p).root 0 0 va (va + n) = .ok t → editTables s c p = flushed (unmapTdescs t p va (va + n))))) ∧
      (let src := c.f 8 8
       let dst := c.f 0x10 8
       let n := c.f 0x18 8
       (src < dst + n → dst < src + n → cellarCopy s c p = fails sINVALID_FIELD 4 0x10) ∧
       (¬ (src < dst + n ∧ dst < src + n) → 0 < n → src / 4096 = (src + n - 1) / 4096 → dst / 4096 = (dst + n - 1) / 4096 →
         (∀ a b, cmdXlat s p src .load = .ok a → cmdXlat s p dst .load = .ok b → cmdXlat s p dst .store = .ok b →
           place a = .cellar a → place b = .cellar b → a % 4096 = src % 4096 → b % 4096 = dst % 4096 → (∀ i, i < n → s.mem.poisoned (a + i) = false) →
           cellarCopy s c p = endCmd { s with mem := s.mem.store b (s.mem.read a n) false } c sSUCCESS (zeros 16)) ∧
         (∀ e, cmdXlat s p src .load = .error e → cellarCopy s c p = endCmd { s with freeCtr := s.freeCtr + 1 } c e.status (detail 0 1 0 8 src)))) ∧
      (∀ d, let p := fieldAt d 0xB 1
        let bs := if fieldAt d 8 1 = 1 then 16384 else 4096
        let units := (fieldAt d 0 8 * bs + 262143) / 262144
        let set := fieldAt d 0xA 1
        (∀ x, nsField d = some x → createNs s c d = endCmd s c sINVALID_FIELD (detail 4 1 1 x 0)) ∧
        (nsField d = none → s.sto.nss.length < 1024 →
          (∀ P n, fieldAt d 9 1 = 0 → s.pset set = some P → P.code ≠ 4 →
            (P.cap < setUsed s set + units → createNs s c d = endCmd s c sCAPACITY (detail 0x22 1 1 0 0)) ∧
            (setUsed s set + units ≤ P.cap → findBelow 1024 (fun n => (s.nspace n).isNone) = some n →
              createNs s c d = endCmd { s with sto := { s.sto with nss := Tab.set s.sto.nss n {
                nblocks := fieldAt d 0 8, bs := bs, set := set, guid := slice d 0x10 16 } } } c sSUCCESS (leBytes 4 n ++ zeros 12))) ∧
          (∀ n i, fieldAt d 9 1 = 1 → s.sto.sets.length < 16 → findBelow 1024 (fun n => (s.nspace n).isNone) = some n →
            findBelow 16 (fun i => (s.pset i).isNone) = some i →
            let ports := setBits 16 (fieldAt d 0xC 2)
            let z := ports.foldl (fun z n => min z (s.cask n).zoneCount) (2 ^ 32)
            4 ≤ ports.length → p + 2 ≤ ports.length → (∀ k ∈ ports, caskPresent s k = true ∧ (s.cask k).st = .spare ∧ isTarget s k = false) →
            units ≤ setCapacity ports.length p z s.sto.reservePct.toNat →
            Ended (createNs s c d) c sSUCCESS (leBytes 4 n ++ zeros 12) fun u =>
              u.nspace n = some { nblocks := fieldAt d 0 8, bs := bs, set := i, guid := slice d 0x10 16 } ∧
              (∃ P, u.pset i = some P ∧ P.p = p ∧ P.members.map (·.port) = ports ∧ P.cap = setCapacity ports.length p z s.sto.reservePct.toNat) ∧
              ∀ k ∈ ports, (u.cask k).inSet = true ∧ (u.cask k).set = i ∧ ((u.cask k).st = .member ∨ (u.cask k).st = .readonly)))) ∧
      (let n := c.f 4 4
       (s.nspace n = none → deleteNs s c = fails sNS_NOT_READY 0 4 ∧ attachNs s c = fails sNS_NOT_READY 0 4 ∧
         (n ≠ 0xFFFFFFFF → identify s c = fails sNS_NOT_READY 0 4)) ∧
       (∀ N, s.nspace n = some N →
         ((N.attached ≠ none ∨ s.cmds.any (detaching n) = true) → deleteNs s c = fails sINVALID_FIELD 0x26 4) ∧
         (N.attached = none → s.cmds.any (detaching n) = false → ∃ u, deleteNs s c = tryDissolve (endCmd u c sSUCCESS (zeros 16)) N.set ∧
           u.nspace n = none ∧ ∀ P, u.pset N.set = some P → ∀ x ∈ P.opened, x.id.ns ≠ n) ∧
         (c.f 9 1 = 0 →
           ((s.parcel (c.f 8 1)).holds = false → attachNs s c = fails sINVALID_FIELD 4 8) ∧
           ((s.parcel (c.f 8 1)).holds = true →
             (∀ o, N.attached = some o → o ≠ c.f 8 1 → attachNs s c = fails sINVALID_FIELD 0x27 8) ∧
             (N.attached = none ∨ N.attached = some (c.f 8 1) →
               attachNs s c = endCmd (s.updNs n fun N => { N with attached := some (c.f 8 1) }) c sSUCCESS (zeros 16)))) ∧
         (c.f 9 1 ≠ 0 →
           (N.attached ≠ some (c.f 8 1) → attachNs s c = fails sINVALID_FIELD 4 8) ∧
           (N.attached = some (c.f 8 1) → attachNs s c = (s.updNs n fun N => { N with attached := none }).updCmd c.seq fun c => { c with phase := .running })) ∧
         (n ≠ 0xFFFFFFFF → identify s c = endCmd (hostWrite s (winPort s c.win) (c.f 8 8) (identifyNs s n N)) c sSUCCESS (zeros 16))) ∧
       (n = 0xFFFFFFFF → identify s c = endCmd (hostWrite s (winPort s c.win) (c.f 8 8) (identifyDevice s)) c sSUCCESS (zeros 16))) ∧
      (∀ bs, fwStageCheck s c = none → ∃ F, fwStage s c bs = endCmd { s with boot := { s.boot with flash := F } } c sSUCCESS (zeros 16) ∧
        F.dir0 = s.boot.flash.dir0 ∧ F.dir1 = s.boot.flash.dir1 ∧
        (s.glb.fwSlot = false → F.slotA = s.boot.flash.slotA ∧ F.slotB = flashPut s.boot.flash.slotB (c.f 0x18 8) bs) ∧
        (s.glb.fwSlot = true → F.slotB = s.boot.flash.slotB ∧ F.slotA = flashPut s.boot.flash.slotA (c.f 0x18 8) bs)) ∧
      (∀ st d, fwStageCheck s c = some (st, d) → c.opcode = 0x48 → startCmd s c = endCmd s c st d) ∧
      (fwBusy s c = true → fwCommit s c = fails sINVALID_FIELD 0x44 0) ∧
      (fwBusy s c = false → ∀ d, s.boot.flash.dir = some d →
        let b := c.f 4 1 == 1
        (slotReason s d b ≠ 0 → fwCommit s c = fails (fwReason (slotReason s d b)).1 (fwReason (slotReason s d b)).2 0) ∧
        (slotReason s d b = 0 → Ended (fwCommit s c) c sSUCCESS (zeros 16) fun u =>
          u.boot.flash.dir0 = dirPut d (b2n b) (if b = s.glb.fwSlot then fieldAt d 7 1 else fieldAt d 7 1 / 2 * 2 + 1) ∧
          u.boot.flash.dir1 = u.boot.flash.dir0 ∧ u.pwr.resetAfter = if c.f 5 1 = 1 then some c.seq else s.pwr.resetAfter)))

/-- What the controls do: CANCEL, RESUME and QUERY_STATUS of a command that is gone, held, running or decided; and what the end of any command is: its pennant
of 32 bytes goes to the ring's tail where nothing waits before it and there is room, and the command is gone; without room it waits, and stays outstanding; a
stale one is counted and discarded. That a waiting command which is neither an EXECUTE nor a load is TOO_LATE to cancel is the model's choice (log entry 17);
the source and sub that a pennant's detail names with NOT_PARKED are its reading (log entry 38). -/
def Obligations.Controls : Prop :=
  ∀ (s : State) (c : Cmd),
    (target s c = none → cancelStart s c = endCmd s c sTOO_LATE (zeros 16) ∧ resumeStart s c = endCmd s c sTOO_LATE (zeros 16) ∧
      queryStart s c = endCmd s c sSUCCESS (zeros 8 ++ leBytes 8 ((c.parcel.map fun p => (s.parcel p).image.imageId).getD 0))) ∧
    (∀ t, target s c = some t →
      (t.phase = .held → cancelStart s c = endCmd (endCmd s t sCANCELLED (zeros 16)) c sSUCCESS (zeros 16)) ∧
      (t.phase = .decided → cancelStart s c = endCmd s c sTOO_LATE (zeros 16)) ∧
      ((t.phase = .waiting ∨ t.phase = .running) → t.opcode ∈ [0x10, 0x11, 0x12] → cancelStart s c = s.updCmd c.seq fun c => { c with phase := .running }) ∧
      ((t.phase = .waiting ∨ t.phase = .running) → t.opcode ∉ [0x10, 0x11, 0x12] → cancelStart s c = endCmd s c sTOO_LATE (zeros 16)) ∧
      (hasParked s t = true → t.phase ≠ .decided → resumeStart s c = s.updCmd c.seq fun c => { c with phase := .running }) ∧
      (hasParked s t = false → resumeStart s c = endCmd s c sINVALID_FIELD (cmdDetail 7 0)) ∧
      (t.phase = .held → queryState s t = 1) ∧ (t.phase = .waiting → queryState s t = 2) ∧ (t.phase = .decided → queryState s t = 0) ∧
      (t.phase = .running → queryState s t = if hasParked s t then 4 else 3)) ∧
    (∀ (st : Nat) (det : List Byte), s.deciding = false → (s.win c.win).waitQ = [] → (s.ports.orderReads.all fun o => o.cmd != c.seq) = true →
      let W := s.win c.win
      let q : Pennant := {
        bytes := leBytes 2 c.tag ++ leBytes 1 st ++ leBytes 1 0 ++ leBytes 1 c.opcode ++ leBytes 1 c.win.w.val ++ leBytes 2 c.vintage
          ++ leBytes 8 s.frm.count.toNat ++ det
        cmd := some c.seq, vintage := c.vintage, parcel := c.parcel }
      let room := W.en = true ∧ (W.tail.toNat + 2 ^ W.sizeLog2.toNat - W.head.toNat) % 2 ^ W.sizeLog2.toNat < 2 ^ W.sizeLog2.toNat - 1
      let t := endCmd s c st det
      let gone := s.cmds.filter fun d => d.seq != c.seq
      (staleVintage s c.parcel c.vintage = true → t.cmds = gone ∧ t.mem = s.mem ∧ (t.win c.win).waitQ = [] ∧
        (t.parcel (c.parcel.getD 0)).staleCnt = satAdd (s.parcel (c.parcel.getD 0)).staleCnt 1) ∧
      (staleVintage s c.parcel c.vintage = false → room → t.cmds = gone ∧ (t.win c.win).waitQ = [] ∧
        (t.win c.win).tail = BitVec.ofNat 16 ((W.tail.toNat + 1) % 2 ^ W.sizeLog2.toNat) ∧
        t.mem = (hostWrite s (fnPort s c.win.fn.val) (W.base.toNat + 32 * W.tail.toNat) (withPhase q.bytes W.phase)).mem) ∧
      (staleVintage s c.parcel c.vintage = false → ¬ room → t.mem = s.mem ∧ (t.win c.win).waitQ = [q] ∧
        t.cmds = s.cmds.map fun d => if d.seq = c.seq then { d with phase := .decided } else d))

/-- Submission and what commands bring from outside: bytes of a task window, latched by its last byte while a ring is there and none is latched; a structure
read from the host; and a load from its beginning to its commit: the stream, its bytes staged, the flaws and failures that end it, the TILEDATA copy,
and the boundaries that begin the copy and commit the image. A load whose source stops at poison, and the detail of a failure in the staging range, are the
model's choices (log entry 19). -/
def Obligations.TaskSubmission : Prop :=
  ∀ (s : State) (w : Window) (off : BitVec 6) (bytes : List Byte) (tag : BitVec 16) (got : Nat) (p : ParcelId) (r : ReadResult), Clocked s →
    let W := s.win w
    let n := off.toNat + bytes.length
    let put := fun (W : Win) => W.task.take off.toNat ++ bytes ++ W.task.drop n
    let port := fnPort s w.fn.val
    ((s.hport port).retry = false → winServed s w = true → bytes ≠ [] →
      (n < 64 → exec (.taskSubmit w off bytes) s = .next (s.updWin w fun W => { W with task := put W })) ∧
      (n = 64 → W.busy = false → W.en = true →
        exec (.taskSubmit w off bytes) s = .next (s.updWin w fun W => { W with task := put W, latched := put W, busy := true })) ∧
      (n = 64 → W.busy = true → exec (.taskSubmit w off bytes) s = .next (s.updWin w fun W => { W with dropped := true, noRing := W.noRing || !W.en })) ∧
      (n = 64 → W.busy = false → W.en = false → exec (.taskSubmit w off bytes) s = .next (s.updWin w fun W => { W with noRing := true })) ∧
      (64 < n → exec (.taskSubmit w off bytes) s = .next (s.updPort port fun P => { P with
        aer := P.aer + 1, aerErrs := if P.aerErrs.contains .unsupportedRequest then P.aerErrs else P.aerErrs ++ [.unsupportedRequest] }))) ∧
    (∀ op, latchedOp s w = some op → winAccepts s w op = false → exec (.unlistedOpcode w) s = .next (settle (takeLatched s w []))) ∧
    (s.cmds.find? (fun c => c.win == w && c.tag == tag.toNat && c.awaits) = none → exec (.commandDataRead w tag r got) s = .next (settle s)) ∧
    (∀ c o len, s.cmds.find? (fun c => c.win == w && c.tag == tag.toNat && c.awaits) = some c → c.structure_ = some (o, len) →
      let at_ := c.f o 8 + got
      ((linkUp s (winPort s w) = false ∨ r = .error) →
        exec (.commandDataRead w tag r got) s = .next (settle (endCmd (noteRead s (winPort s w) .error) c sDMA_BUS_ERROR (structDetail got at_)))) ∧
      (linkUp s (winPort s w) = true →
        (r = .poisoned → exec (.commandDataRead w tag r got) s
          = .next (settle (endCmd (noteRead s (winPort s w) .poisoned) c sPOISONED (structDetail got at_)))) ∧
        (∀ bs, r = .data bs → bs.length = len →
          exec (.commandDataRead w tag r got) s = .next (settle (withStruct { s with freeCtr := s.freeCtr + 1 } c bs))))) ∧
    (∀ L, (s.parcel p).loader = some L →
      exec (.imageStreamData p r) s = .next (settle (imageStream s p (if hostReachable s L.seq then r else .error))) ∧
      (L.bound = false → imageStream s p r = s) ∧
      (∀ c, s.cmd L.seq = some c → L.phase = .streaming → L.bound = true → imageStream s p r = streamData s p c L r)) ∧
    (∀ c, c.opcode = 0x10 → ((beginLoad s c p).parcel p).loader = some {
      phase := .streaming, seq := c.seq, streamLen := c.f 0x10 8, staging := c.f 0x18 8, stagingBytes := c.f 0x20 8, bytes := [], shadow := {} }) ∧
    (∀ c L bs, (s.parcel p).loader = some L → s.cmd L.seq = some c → c.space = false →
      let all := L.bytes ++ bs.take (L.streamLen - L.bytes.length)
      let parts := stagingParts all L.bytes.length
      let kept := s.updLoader p fun L => { L with bytes := all }
      (∀ x, imageFlaw s p L.streamLen L.stagingBytes all = some x → parts x.pos = [] →
        streamData s p c L (.data bs) = endLoad kept p L sIMAGE_REJECTED (detail x.code 9 x.sec (if x.count then 0x8000 else 0) 0)) ∧
      (imageFlaw s p L.streamLen L.stagingBytes all = none →
        (parts all.length = [] → all.length < L.streamLen → streamData s p c L (.data bs) = kept) ∧
        (parts all.length = [] → all.length = L.streamLen → streamData s p c L (.data bs)
          = kept.updLoader p fun L => { L with phase := .checked, bytes := [], shadow := parseImage all (s.parcel p).quads.toNat }) ∧
        (∀ o at_ n a, parts all.length = [(o, at_, n)] → pageRuns (L.staging + o) n = [(L.staging + o, n)] → all.length < L.streamLen →
          cmdPlaces s p (L.staging + o) n true true = .ok [(a, n)] → place a = .cellar a → a % 4096 + n ≤ 4096 →
          streamData s p c L (.data bs) = { s with mem := s.mem.store a (slice all at_ n) false }.updLoader p fun L => { L with bytes := all }) ∧
        (∀ o at_ n e, parts all.length = [(o, at_, n)] → pageRuns (L.staging + o) n = [(L.staging + o, n)] →
          cmdPlaces s p (L.staging + o) n true true = .error e → streamData s p c L (.data bs) = endLoad kept p L e.status (detail 0 1 0 0x18 e.va)))) ∧
    (∀ c L, (s.parcel p).loader = some L → s.cmd L.seq = some c → L.bytes.length < L.streamLen → (r = .error ∨ r = .poisoned) →
      imageFlaw s p L.streamLen L.stagingBytes L.bytes = none → stagingParts L.bytes L.bytes.length L.bytes.length = [] →
      ∃ u, streamData s p c L r = endLoad u p L sIMAGE_REJECTED (detail 4 9 (sectionAt L.bytes L.bytes.length) 0 0)) ∧
    exec (.tiledataCopyDone p) s = .next (settle (copyDone s p)) ∧
    (∀ L, (s.parcel p).loader = some L → L.phase ≠ .copying → copyDone s p = s) ∧
    (∀ L ts s1, (s.parcel p).loader = some L → L.phase = .copying → copySections s p L.staging L.shadow L.shadow.datas [] = (.done, ts, s1) →
      copyDone s p = s1.updLoader p fun L => { L with phase := .copied }) ∧
    (∀ L d bs s1, (s.parcel p).loader = some L → L.phase = .copying → L.shadow.datas = [d] → d.tsOffset + d.dataBytes + d.zeroBytes ≤ 0x100000 →
      cmdRead s p (L.staging + d.stagedAt) d.dataBytes = (.ok bs, s1) → s1.memOk →
      (∀ i ∈ L.shadow.maskTiles d.tiles, s1.mem.quiet (tsBase i + d.tsOffset) (bs.length + d.zeroBytes)) →
      ∀ i ∈ L.shadow.maskTiles d.tiles, (copyDone s p).tsRead i d.tsOffset (bs.length + d.zeroBytes) = bs ++ zeros d.zeroBytes) ∧
    (∀ L c va ts s1, (s.parcel p).loader = some L → L.phase = .copying → s1.cmd L.seq = some c →
      copySections s p L.staging L.shadow L.shadow.datas [] = (.poisoned va, ts, s1) →
      Ended (copyDone s p) c sPOISONED (detail 0 1 0 0x18 va) fun u => (u.parcel p).loader = none ∧
        ∀ i ∈ ts, ∀ o, o < 0x100000 → u.mem.isUndef (tsBase i + o) = true) ∧
    (∀ L c, (s.parcel p).loader = some L → s.cmd L.seq = some c →
      (L.phase = .copied ∨ (L.phase = .checked ∧ L.shadow.datas = []) → Ended (loadBoundary s p false) c sSUCCESS (zeros 16) fun u =>
        (u.parcel p).image = L.shadow ∧ (u.parcel p).loader = none ∧ (u.parcel p).dsp.affDepth = s.dsp.affDepth.toNat ∧
        ∀ i ∈ (s.parcel p).tiles, indexOf? (· == quadOf i) L.shadow.placement = none → ∀ o, o < 0x100000 → u.mem.isUndef (tsBase i + o) = true) ∧
      (L.phase = .checked → L.shadow.datas ≠ [] → loadBoundary s p false = s.updLoader p fun L => { L with phase := .copying }) ∧
      (L.phase = .streaming ∨ L.phase = .copying ∨ L.phase = .checked → loadBoundary s p true = s))

-- ## Parcels

/-- The life of a parcel. PARCEL_CREATE is refused by the first check that fails, or its parcel is BUILDING with the units that the descriptor names; the end of
the building clears the memory it takes and makes it ACTIVE, and the command succeeds with the parcel and its vintage. PARCEL_RESET, a VF's reset and
PARCEL_DESTROY stop the parcel, and each ends: the parcel is ACTIVE again, or FREE with its namespaces detached and its mailbox pair unlocked, and the
command succeeds. A VF's reset during another is absorbed. The power states down and up. (Which dispatch slots a parcel takes is a free value: log entry 39.) -/
def Obligations.ParcelLife : Prop :=
  ∀ (s : State) (p : ParcelId) (v : Fin 64), Clocked s →
    let P := s.parcel p
    let ends := fun (op : Nat) (t : State) (det : List Byte) (eff : State → Prop) =>
      (runningFor s op p = none → eff t) ∧ (∀ c, runningFor s op p = some c → Ended t c sSUCCESS det eff)
    (∀ (c : Cmd) (d : List Byte),
      (∀ st r o, createCheck s d = some (st, r, o) → createStart s c d = endCmd s c st (detail r 1 1 o 0)) ∧
      (∀ k, createCheck s d = none → createId s d = some k →
        let t := createStart s c d
        let Q := t.parcel k
        let U : UnitSet := {
          quads := BitVec.ofNat 64 (fieldAt d 8 8), slices := BitVec.ofNat 64 (fieldAt d 0x10 8), groups := BitVec.ofNat 64 (fieldAt d 0x18 8)
          ce := BitVec.ofNat 16 (fieldAt d 0x20 2), de := BitVec.ofNat 16 (fieldAt d 0x22 2), se := BitVec.ofNat 16 (fieldAt d 0x24 2) }
        Q.st = .building ∧ Q.vintage = (s.parcel k).vintage ∧ Q.units = U ∧ Q.vf = fieldAt d 3 1 ∧ Q.mbxPair = fieldAt d 4 1 ∧ Q.div.toNat = fieldAt d 2 1 % 128 ∧
          Q.park = BitVec.ofNat 16 (fieldAt d 6 2) ∧ Q.itemCap = fieldAt d 0x38 4 ∧ Q.flowCap = fieldAt d 0x3C 4 ∧ Q.tablePages = fieldAt d 0x40 4 ∧
          Q.rs = createRs d ∧ Q.keyHash = slice d 0x48 48 ∧ Q.signedOnly = (fieldAt d 1 1 == 1) ∧
          (∀ i ∈ Q.tiles, ∀ o, o < 0x100000 → t.mem.isUndef (tsBase i + o) = true) ∧
          t.cmds = s.cmds.map (fun x => if x.seq = c.seq then { x with phase := .running, fetched := some (leBytes 1 k) } else x))) ∧
    exec (.parcelBuildDone p) s = .next (settle (buildDone s p)) ∧
    (P.st ≠ .building → buildDone s p = s) ∧
    (P.st = .building → ends 0x4A (buildDone s p) (leBytes 1 p ++ leBytes 1 0 ++ leBytes 2 P.vintage ++ zeros 12) fun t =>
      (t.parcel p).st = .active ∧ (t.parcel p).vintage = P.vintage ∧ (t.parcel p).image = {} ∧ (t.parcel p).root = (P.tablePage 0).getD 0 ∧
      (∀ n ∈ P.smap, ∀ a, a / 2 ^ 33 = n → t.mem.byte a = 0) ∧
      (∀ i ∈ P.tiles, (∀ o, o < 2 ^ 20 → t.mem.byte (tsBase i + o) = 0) ∧ (t.tile i).mmu.rootValid = true ∧
        (t.tile i).mmu.root = (P.tablePage 0).getD 0 ∧ (t.tile i).cache.en = !(s.tile i).cache.failed ∧ (t.tile i).cache.lines = [])) ∧
    (∀ c : Cmd, c.f 4 1 = p →
      (P.st ≠ .active → resetStart s c = endCmd s c sINVALID_FIELD (detail 4 1 0 4 0)) ∧
      (P.st = .active → ((resetStart s c).parcel p).st = .resetting ∧ ParcelStopped s (resetStart s c) p) ∧
      (P.st ≠ .active → P.st ≠ .resetting → destroyStart s c = endCmd s c sINVALID_FIELD (detail 4 1 0 4 0)) ∧
      (P.st = .active ∨ P.st = .resetting → ((destroyStart s c).parcel p).st = .quiescing ∧ ParcelStopped s (destroyStart s c) p)) ∧
    exec (.parcelResetComplete p) s = .next (settle (resetDone s p)) ∧
    (P.st ≠ .resetting → resetDone s p = s) ∧
    (P.st = .resetting →
      let u := s.updParcel p fun P => { P with st := .active, ps := 0 }
      (runningFor s 0x4C p = none → resetDone s p = raiseParcel u p 2) ∧
      (∀ c, runningFor s 0x4C p = some c → resetDone s p = raiseParcel (endCmd u c sSUCCESS (zeros 16)) p 2)) ∧
    exec (.quiescingEnd p) s = .next (settle (quiescingEnd s p)) ∧
    (P.st ≠ .quiescing → quiescingEnd s p = s) ∧
    (P.st = .quiescing →
      let freed := fun (t : State) => (t.parcel p).st = .free ∧ (t.parcel p).vintage = P.vintage ∧ (t.parcel p).units = {} ∧
        (∀ n ∈ t.sto.nss, n.2.attached ≠ some p.val) ∧ (P.mbxPair < 64 → t.mbx.bindLock.getLsbD P.mbxPair = false) ∧
        (∀ e ∈ t.dgt.keys, e.2.owner ≠ .parcel p) ∧ (∀ i ∈ P.tiles, (t.tile i).mmu.rootValid = false) ∧
        (∀ w ∈ t.wins, w.2.wparcel.toNat = p → w.2.wvalid = false)
      (runningFor s 0x4C p = none → ends 0x4B (quiescingEnd s p) (zeros 16) freed) ∧
      (∀ r c, runningFor s 0x4C p = some r → runningFor s 0x4B p = some c → r.seq ≠ c.seq →
        Ended (quiescingEnd s p) c sSUCCESS (zeros 16) fun t => Ended t r sSUCCESS (zeros 16) freed)) ∧
    exec (.vfFlr v) s = .next (settleFrom s (vfReset s (v.val + 1))) ∧
    (let f := v.val + 2
     let t := vfReset s (v.val + 1)
     t.evRing f = {} ∧ ((s.cmds.map (·.seq)).Nodup → ∀ x ∈ t.wins, x.1 / 64 ≠ f) ∧
     (vfParcel s (v.val + 1) = none → (∀ x ∈ t.evt.msix, x.1 / 2048 ≠ f) ∧ t.parcels = s.parcels) ∧
     (∀ q, vfParcel s (v.val + 1) = some q → (t.parcel q).tsel = 0 ∧
       ((s.parcel q).st = .active → (t.parcel q).st = .resetting ∧ ParcelStopped s t q) ∧
       ((s.parcel q).st ≠ .active → (t.parcel q).st = (s.parcel q).st ∧ (t.parcel q).vintage = (s.parcel q).vintage))) ∧
    (let timer := if P.ps = 0 then P.idle1 else if P.ps = 1 then P.idle2 else if P.ps = 2 then P.idle3 else 0;
      (parcelIdle s p = true → timer ≠ 0 → exec (.parcelIdleTimeout p) s = .next (sendLtr (s.updParcel p fun P => { P with ps := P.ps + 1 }))) ∧
      (parcelIdle s p = false ∨ timer = 0 → exec (.parcelIdleTimeout p) s = .next s)) ∧
    exec (.powerStateExitDone p) s = .next (settle { s with
      cmds := s.cmds.map fun c => if c.parcel = some p.val then { c with wake := false } else c }) ∧
    (mayPs4 s = true → fbit s.pwr.ctl 1 = true →
      exec .ps4IdleTimeout s = .next (raiseGlobal (sendLtr { s with pwr := { s.pwr with ps4 := true } }) 2 1)) ∧
    (mayPs4 s = true → fbit s.pwr.ctl 1 = false → exec .ps4IdleTimeout s = .next (sendLtr { s with pwr := { s.pwr with ps4 := true } })) ∧
    (mayPs4 s = false → exec .ps4IdleTimeout s = .next s)

/-- The settings of parcels, completion rings, storage service and dispatcher, each taken whole where its rules admit it and otherwise refused with its
error bit; only the manager, or the window's own function, writes them. -/
def Obligations.ParcelAndRingSettings : Prop :=
  ∀ (s : State) (who : Who) (p : ParcelId) (w : Window) (v : Word) (k : Fin 3), Clocked s →
    let P := s.parcel p
    let d := v.toNat % 2 ^ 7
    let n16 := v.toNat % 2 ^ 16
    let n32 := BitVec.ofNat 32 (v.toNat % 2 ^ 32)
    let pct := v.toNat / 2 ^ 16 % 2 ^ 8
    (isManager s who = true →
      exec (.pclFrameDivWrite who p v) s = .next (if parcelBusy s p = true ∨ d = 0 ∨ 64 < d ∨ d * s.frm.period.toNat < P.image.minFrame
        then { s with pcl := { s.pcl with divErr := true } } else s.updParcel p fun P => { P with div := BitVec.ofNat 7 d }) ∧
      exec (.pclParkLimitWrite who p v) s = .next (if n16 = 0 then { s with pcl := { s.pcl with parkErr := true } }
        else s.updParcel p fun P => { P with park := BitVec.ofNat 16 n16 }) ∧
      exec (.pclVfSplitWrite who v) s = .next (if 64 < d ∨ s.ports.hpa.vfEnable = true ∨ s.ports.hpb.vfEnable = true ∨
          (∃ e ∈ s.parcels, e.2.holds = true ∧ e.2.vf ≠ 0)
        then { s with pcl := { s.pcl with splitErr := true } } else { s with pcl := { s.pcl with split := BitVec.ofNat 7 d } }) ∧
      exec (.pclIdleWrite who p k v) s = .next (s.updParcel p fun P => if k = 0 then { P with idle1 := n32 } else if k = 1 then { P with idle2 := n32 }
        else { P with idle3 := n32 }) ∧
      exec (.stoCtlWrite who v) s = .next { s with sto := if n16 = 0 ∨ pct = 0 ∨ 50 < pct then { s.sto with paramErr := true }
        else { s.sto with closeUs := BitVec.ofNat 16 n16, reservePct := BitVec.ofNat 8 pct, setEvEn := fbit v 24 } } ∧
      exec (.dspAffDepthWrite who v) s = .next { s with dsp := if 4 < v.toNat % 2 ^ 3 then { s.dsp with paramErr := true }
        else { s.dsp with affDepth := BitVec.ofNat 16 (v.toNat % 2 ^ 3) } } ∧
      exec (.hltCeLimitWrite who v) s = .next (if n16 = 0 then s else s.updHlt fun H => { H with ceLimit := BitVec.ofNat 16 n16 })) ∧
    (isManager s who = false → ∀ i ∈ [Instr.pclFrameDivWrite who p v, .pclParkLimitWrite who p v, .pclVfSplitWrite who v, .pclIdleWrite who p k v,
      .stoCtlWrite who v, .dspAffDepthWrite who v, .hltCeLimitWrite who v], exec i s = .next s) ∧
    (mayWin s who w = true →
      let W := s.win w
      let log := v.toNat / 2 ^ 8 % 2 ^ 5
      let vec := v.toNat / 2 ^ 16 % 2 ^ 11
      let refused := Host.Outcome.next (s.updWin w fun W => { W with cfgRefused := true })
      ((log < 4 ∨ 16 < log ∨ vectorsOf s w.fn.val ≤ vec ∨ ringBusy s w = true) → exec (.tskCqCfgWrite who w v) s = refused) ∧
      (4 ≤ log → log ≤ 16 → vec < vectorsOf s w.fn.val → ringBusy s w = false →
        exec (.tskCqCfgWrite who w v) s = .next (drainRing (s.updWin w fun W =>
          let W1 := { W with en := fbit v 0, intEn := fbit v 1, sizeLog2 := BitVec.ofNat 5 log, vector := BitVec.ofNat 11 vec }
          if fbit v 0 = true ∧ (W.en = false ∨ W.sizeLog2.toNat ≠ log) then { W1 with head := 0, tail := 0, phase := true } else W1) w)) ∧
      (ringBusy s w = true → exec (.tskCqBaseWrite who w v) s = refused) ∧
      (ringBusy s w = false → exec (.tskCqBaseWrite who w v) s = .next (s.updWin w fun W =>
        if W.en then { W with base := v &&& ~~~0xFFF, head := 0, tail := 0, phase := true } else { W with base := v &&& ~~~0xFFF })) ∧
      (headBad W.sizeLog2.toNat W.tail.toNat W.head.toNat n16 = true →
        exec (.tskCqHeadWrite who w v) s = .next (s.updWin w fun W => { W with headErr := true })) ∧
      (headBad W.sizeLog2.toNat W.tail.toNat W.head.toNat n16 = false →
        exec (.tskCqHeadWrite who w v) s = .next (drainRing (s.updWin w fun W => { W with head := BitVec.ofNat 16 n16 }) w)) ∧
      (isManager s who = true → w.fn.val < 2 → w.w.val ≠ 0 →
        (outstanding s w ≠ 0 → exec (.tskWparcelWrite who w v) s = refused) ∧
        (outstanding s w = 0 → exec (.tskWparcelWrite who w v) s = .next (s.updWin w fun W => { W with
          wparcel := BitVec.ofNat 6 (v.toNat % 2 ^ 6), wvalid := fbit v 6 }))))

-- ## Mailboxes, locks and events

/-- Mailbox messages are placed by the sender, taken by the receiver, overwritten with an alarm, and reported stale once; a fault record that waits takes the
place of a message taken, unless the sender's next one came in the same cycle (whether it did is free: log entry 9); others are denied, but a receiver's
write only has no effect (log entry 41). Bindings change until they are locked. A lock is acquired by a read, released by its owner's write of 0, and
forced by the manager; one that a requester cannot reach reads 0 (log entry 12). -/
def Obligations.MailboxesAndLocks : Prop :=
  ∀ (s : State) (who : Who) (c : MbxId) (n : Fin 64) (v : Word), Clocked s →
    let C := s.mchan c
    let m := leBytes 8 v.toNat
    let placed := s.updMchan c fun C => { C with held := C.staging ++ m, last := m, full := true, fault := false, staleDone := s.mbx.staleUs == 0 }
    let clash := fun (s : State) => s.updMchan c fun C => { C with collision := true }
    let denied := fun (s : State) => s.updMchan c fun C => { C with denied := true }
    let id_ := whoId s who
    (isSender s who c = true →
      (C.full = false → exec (.mbxSend who c v) s = .next (arrival placed c)) ∧
      (C.full = true → C.fault = false → exec (.mbxSend who c v) s = .next (alarm (clash placed) c)) ∧
      (C.full = true → C.fault = true → exec (.mbxSend who c v) s = .next (alarm (clash s) c))) ∧
    (isSender s who c = false → isReceiver s who c = false → reachesChan s who c = true → exec (.mbxSend who c v) s = .next (denied s)) ∧
    (isSender s who c = false → isReceiver s who c = true ∨ reachesChan s who c = false → exec (.mbxSend who c v) s = .next s) ∧
    (isReceiver s who c = true →
      let s1 := { s with lastRead := BitVec.ofNat 64 (fieldAt C.held 56 8) }
      (C.full = false → exec (.mbxTake who c) s = .next s1) ∧
      (C.full = true → C.waiting = [] →
        exec (.mbxTake who c) s = .next (takenEvent (s1.updMchan c fun C => { C with full := false, fault := false }) c)) ∧
      (∀ r rest p, C.full = true → C.waiting = r :: rest → C.valid = true → pairParcel s (c / 2) = some p → r.vintage = (s.parcel p).vintage →
        let taken := takenEvent (s1.updMchan c fun C => { C with full := false, fault := false }) c
        let next := fun (t : State) => arrival (t.updMchan c fun C => { C with
          waiting := rest, held := r.bytes, full := true, fault := true, staleDone := s.mbx.staleUs == 0 }) c
        (sendFollows s c = false → exec (.mbxTake who c) s = .next (next taken)) ∧
        (sendFollows s c = true → exec (.mbxTake who c) s
          = .next (let t := { taken with freeCtr := s.freeCtr + 1 }; if Config.freeBool s.freeCtr then t else next t)))) ∧
    (isReceiver s who c = false → isSender s who c = true → exec (.mbxTake who c) s = .next { s with lastRead := BitVec.ofNat 64 (leNat C.last) }) ∧
    (isReceiver s who c = false → isSender s who c = false → reachesChan s who c = true →
      exec (.mbxTake who c) s = .next (denied { s with lastRead := 0 })) ∧
    (C.full = true → C.staleDone = false →
      exec (.mbxStaleTimeout c) s = .next (alarm (s.updMchan c fun C => { C with stale := true, staleDone := true }) c)) ∧
    (C.full = false ∨ C.staleDone = true → exec (.mbxStaleTimeout c) s = .next s) ∧
    (isManager s who = true →
      (s.mbx.bindLock.getLsbD (c / 2) = true → exec (.mbxBindWrite who c v) s = .next { s with mbx := { s.mbx with bindRefused := true } }) ∧
      (s.mbx.bindLock.getLsbD (c / 2) = false → C.waiting = [] → exec (.mbxBindWrite who c v) s = .next (s.updMchan c fun C => { C with
        sender := BitVec.ofNat 16 (v.toNat % 2 ^ 16), receiver := BitVec.ofNat 16 (v.toNat / 2 ^ 16 % 2 ^ 16), valid := fbit v 32 })) ∧
      exec (.mbxBindLockSet who v) s = .next { s with mbx := { s.mbx with bindLock := s.mbx.bindLock ||| v } }) ∧
    (lockRole s who n = .user →
      (∀ o, Tab.find s.mbx.locks n = some o → exec (.lockRead who n) s = .next { s with lastRead := BitVec.ofNat 64 (0x80000000 + o.toNat) }) ∧
      (Tab.find s.mbx.locks n = none → exec (.lockRead who n) s
        = .next { s with lastRead := 0, mbx := { s.mbx with locks := Tab.set s.mbx.locks n (BitVec.ofNat 16 id_) } })) ∧
    (lockRole s who n = .stranger → exec (.lockRead who n) s = .next { s with lastRead := BitVec.allOnes 64 }) ∧
    (lockRole s who n = .outside → exec (.lockRead who n) s = .next { s with lastRead := 0 } ∧ exec (.lockWrite who n v) s = .next s) ∧
    (lockRole s who n ≠ .outside →
      (v = 0 ∧ Tab.find s.mbx.locks n = some (BitVec.ofNat 16 id_) →
        exec (.lockWrite who n v) s = .next { s with mbx := { s.mbx with locks := s.mbx.locks.filter fun e => e.1 != n.val } }) ∧
      (¬ (v = 0 ∧ Tab.find s.mbx.locks n = some (BitVec.ofNat 16 id_)) → exec (.lockWrite who n v) s = .next (raiseGlobal { s with
        mbx := { s.mbx with violation := true, writer := BitVec.ofNat 16 id_, badLock := BitVec.ofNat 6 n } } 5 1))) ∧
    (isManager s who = true → let k := v.toNat % 2 ^ 6;
      (fbit v 6 = true → (Tab.find s.mbx.locks k).isSome = true → exec (.lckForce who v) s = .next (raiseGlobal { s with
        mbx := { s.mbx with locks := s.mbx.locks.filter fun e => e.1 != k, forced := true } } 5 2)) ∧
      (fbit v 6 = false ∨ Tab.find s.mbx.locks k = none → exec (.lckForce who v) s = .next s))

/-- The event block: a route is written whole or refused, and unmasking a pending source writes the record withheld, with its count, to a ring or to the
management complex; pending bits are cleared; rings are set up and drained; an unmasked vector sends the message that waited, where MSI-X is enabled and the
function itself not masked. That the vector of a route to the management complex is not checked, that a mask withholds only what is raised after it, and that a message is
discarded where the link is down when its mask is lifted, are the model's readings (log entry 42). -/
def Obligations.Events : Prop :=
  ∀ (s : State) (who : Who) (i : Fin 1280) (n : Fin 20) (f : FnId) (x : BitVec 11) (v : Word), Clocked s →
    let e := s.evSrc i
    let vec := v.toNat % 2 ^ 11
    let dest := if isManager s who then v.toNat / 2 ^ 11 % 2 ^ 2 else e.dest.toNat
    let s1 := s.updEvSrc i fun e => { e with
      vector := BitVec.ofNat 11 vec, dest := BitVec.ofNat 2 dest, mask := fbit v 13, masked := if fbit v 13 then e.masked else none }
    let R := s.evRing f
    let log := v.toNat / 2 ^ 8 % 2 ^ 5
    let refused := Host.Outcome.next { s with evt := { s.evt with cfgRefused := true } }
    let k := 2048 * f.val + x.toNat
    let E := Tab.get {} s.evt.msix k
    let M := Tab.get {} s.evt.msixCtl f.val
    let s2 := { s with evt := { s.evt with msix := Tab.set s.evt.msix k { E with mask := false, pending := false } } }
    (isManager s who = true ∨ ownsSource s who i = true →
      (dest = 3 ∨ vectorOk s i dest vec = false → exec (.evtRouteWrite who i v) s = .next { s with evt := { s.evt with routeErr := true } }) ∧
      (dest ≠ 3 → vectorOk s i dest vec = true →
        (¬ (e.mask = true ∧ e.pending = true ∧ fbit v 13 = false) ∨ e.masked = none → exec (.evtRouteWrite who i v) s = .next s1) ∧
        (∀ r, e.mask = true → e.pending = true → fbit v 13 = false → e.masked = some r →
          exec (.evtRouteWrite who i v) s = .next (deliverRecord s1 r e.coalesced.toNat)))) ∧
    (isManager s who = false → ownsSource s who i = false → exec (.evtRouteWrite who i v) s = .next s) ∧
    (∃ s', exec (.evtPendClear who n v) s = .next s' ∧ ∀ b, b < 64 →
      s'.evSrc (64 * n + b) = if fbit v b = true ∧ (isManager s who = true ∨ ownsSource s who (64 * n + b) = true)
        then { s.evSrc (64 * n + b) with pending := false, owner := none, coalesced := 0, masked := none } else s.evSrc (64 * n + b)) ∧
    (mayRing s who f = true →
      (log < 4 ∨ 16 < log ∨ evRingBusy R = true → exec (.evtRingCfgWrite who f false v) s = refused) ∧
      (4 ≤ log → log ≤ 16 → evRingBusy R = false → R.waitQ = [] → exec (.evtRingCfgWrite who f false v) s = .next (s.updEvRing f fun R =>
        let R1 := { R with en := fbit v 0, sizeLog2 := BitVec.ofNat 5 log }
        if fbit v 0 = true ∧ (R.en = false ∨ R.sizeLog2.toNat ≠ log) then { R1 with head := 0, tail := 0, phase := true } else R1)) ∧
      (evRingBusy R = true → exec (.evtRingCfgWrite who f true v) s = refused) ∧
      (evRingBusy R = false → exec (.evtRingCfgWrite who f true v) s = .next (s.updEvRing f fun R =>
        if R.en then { R with base := v &&& ~~~0xFFF, head := 0, tail := 0, phase := true } else { R with base := v &&& ~~~0xFFF })) ∧
      (headBad R.sizeLog2.toNat R.tail.toNat R.head.toNat (v.toNat % 2 ^ 16) = true →
        exec (.evtRingHeadWrite who f v) s = .next { s with evt := { s.evt with headErr := true } }) ∧
      (headBad R.sizeLog2.toNat R.tail.toNat R.head.toNat (v.toNat % 2 ^ 16) = false → exec (.evtRingHeadWrite who f v) s
        = .next (drainEvRing R.waitQ.length (s.updEvRing f fun R => { R with head := BitVec.ofNat 16 (v.toNat % 2 ^ 16) }) f))) ∧
    (∀ r count, (s.evSrc r.source).dest = 2 → staleVintage s r.parcel r.vintage = false →
      deliverRecord s r count = { s with evt := { s.evt with fwQueue := (r, count) :: s.evt.fwQueue } }) ∧
    (x.toNat < (if f.val < 2 then 2048 else 256) → (f.val < 2 ∨ (vfParcel s (f.val - 1)).isSome = true) →
      (E.pending = false ∨ M.enable = false ∨ M.mask = true → exec (.msixVectorUnmask f x) s
        = .next { s with evt := { s.evt with msix := Tab.set s.evt.msix k { E with mask := false } } }) ∧
      (E.pending = true → M.enable = true → M.mask = false → linkUp s (fnPort s f) = false → exec (.msixVectorUnmask f x) s = .next s2) ∧
      (E.pending = true → M.enable = true → M.mask = false → linkUp s (fnPort s f) = true →
        exec (.msixVectorUnmask f x) s = .next { s2 with evt := { s2.evt with sent := (f.val, x.toNat) :: s.evt.sent } })) ∧
    (2 ≤ f.val → vfParcel s (f.val - 1) = none → exec (.msixVectorUnmask f x) s = .next s) ∧
    ((if f.val < 2 then 2048 else 256) ≤ x.toNat → exec (.msixVectorUnmask f x) s = .next s)

-- ## Host ports

/-- The host ports: links come and go, and the loss of the manager's port is a warm reset, of the other a reset of the port; configuration requests meet retry,
recovery or service, which shows the part's identity, the capabilities that Table 1 lists with what they offer and none of Table 2, settings that are kept
within those limits, the errors that AER holds, and the VFs that are placed on the port; the recovery personality shows R489's identity and of the
capabilities the DVSEC alone (the forms of a request, and the settings that stand at reset, are the model's: log entry 43); an ordering read lets the pennant that waits for it go. -/
def Obligations.HostPorts : Prop :=
  ∀ (s : State) (port : Port) (req : CfgReq) (failed mgr src : Bool), Clocked s →
    let k := portNo port
    let P := s.hport k
    let down := dropOrderReads (s.updPort k fun P => { P with linkUp := false }) k
    (P.perst = false → exec (.hostLinkUp port) s = .next (s.updPort k fun P => { P with linkUp := true })) ∧
    (P.perst = true → exec (.hostLinkUp port) s = .next s) ∧
    (P.linkUp = true → k = mgrPort down → exec (.hostLinkDown port) s = .next (settleFrom s (warmReset down 6))) ∧
    (P.linkUp = true → k ≠ mgrPort down → exec (.hostLinkDown port) s = .next (settleFrom s (portReset down k))) ∧
    (P.linkUp = true → exec (.pf0Flr port) s = .next (settleFrom s (if k = mgrPort s then warmReset s 5 else portReset s k))) ∧
    (P.linkUp = false → exec (.pf0Flr port) s = .next s) ∧
    (let s1 := s.updPort k fun P => { P with perst := true, linkUp := false };
      let runs := s.boot.stage ≤ 5 ∧ (s.pwr.cause = 1 ∨ s.pwr.cause = 2)
      (k = mgrPort s1 → ¬ runs → exec (.perstAssert port mgr src) s = .next (settleFrom s (perstReset (dropOrderReads s1 k) mgr src))) ∧
      (k = mgrPort s1 → runs → exec (.perstAssert port mgr src) s = .next (settleFrom s s1)) ∧
      (k ≠ mgrPort s1 → exec (.perstAssert port mgr src) s = .next (settleFrom s (portReset (dropOrderReads s1 k) k)))) ∧
    exec (.perstDeassert port) s = .next (bootBegin (s.updPort k fun P => { P with perst := false })) ∧
    (s.boot.stage ≠ 0 → exec (.perstDeassert port) s = .next (s.updPort k fun P => { P with perst := false })) ∧
    (P.linkUp = false → exec (.configRequest port req) s = .next s) ∧
    (P.linkUp = true → P.recovery = false →
      (P.retry = true → exec (.configRequest port req) s = .next (s.updPort k fun P => { P with answer := .retry })) ∧
      (P.retry = false →
        let answers := fun (x : Nat) => Host.Outcome.next { s.updPort k (fun P => { P with answer := .served }) with lastRead := BitVec.ofNat 64 x }
        exec (.configRequest port .hpPort) s = answers (hpPort s k) ∧
        exec (.configRequest port (.identity .vendorId)) s = answers 0x1F6E ∧
        exec (.configRequest port (.identity .deviceId)) s = answers (match s.glb.part with | .xv256 => 0x7256 | .xv192 => 0x7192 | .xv128 => 0x7128) ∧
        exec (.configRequest port (.identity .classCode)) s = answers (Config.classCode s.glb.part.device).toNat ∧
        (∀ b, exec (.configRequest port (.setVfEnable b)) s = .next (s.updPort k fun P => { P with answer := .served, vfEnable := b })) ∧
        exec (.configRequest port (.sriov .firstVfOffset)) s = answers 1 ∧ exec (.configRequest port (.sriov .vfStride)) s = answers 1 ∧
        exec (.configRequest port (.sriov .totalVfs)) s = answers (if k = 0 then s.pcl.split.toNat else 64 - s.pcl.split.toNat) ∧
        exec (.configRequest port (.sriov .vfEnable)) s = answers (b2n P.vfEnable) ∧
        (∀ c ∈ [Capability.msix, .sriov, .aer, .ptm, .ltr, .l0p, .readiness, .flr, .dvsec], exec (.configRequest port (.capability c)) s = answers 1) ∧
        (∀ c ∈ [Capability.ide, .tdisp, .ats, .pri, .pasid, .cxl, .atomicOp, .aspmL0s, .aspmL1, .l1Substates, .resizableBar, .acs, .dpc],
          exec (.configRequest port (.capability c)) s = answers 0) ∧
        let refused := Host.Outcome.next (s.updPort k fun P => { P with
          answer := .unsupported, aer := P.aer + 1, aerErrs := if P.aerErrs.contains .unsupportedRequest then P.aerErrs else P.aerErrs ++ [.unsupportedRequest] })
        exec (.configRequest port .ideTlp) s = refused ∧
        (∀ l ∈ [(PortLimit.rate, 128), (.width, if s.ports.bifurcated then 8 else 16), (.nonFlit, 0), (.tag10, 1), (.tag14, 1), (.payload, 512),
            (.readRequest, 4096), (.readBoundary, 128), (.timeout, 50000), (.timeoutDisable, 0), (.vectors, 2048)],
          exec (.configRequest port (.limit l.1)) s = answers l.2) ∧
        (∀ n, exec (.configRequest port (.setSetting .payload n)) s = .next (s.updPort k fun P => { P with
            answer := .served, payload := if n ∈ [128, 256, 512] then n else P.payload }) ∧
          exec (.configRequest port (.setSetting .readRequest n)) s = .next (s.updPort k fun P => { P with
            answer := .served, readRequest := if n ∈ [128, 256, 512, 1024, 2048, 4096] then n else P.readRequest })) ∧
        exec (.configRequest port (.setting .payload)) s = answers P.payload ∧ exec (.configRequest port (.setting .readRequest)) s = answers P.readRequest ∧
        (∀ e, exec (.configRequest port (.aerError e)) s = answers (if e ∈ P.aerErrs then 1 else 0) ∧
          exec (.configRequest port (.aerClear e)) s = .next (s.updPort k fun P => { P with answer := .served, aerErrs := P.aerErrs.filter (· ≠ e) })) ∧
        (∀ on masked, exec (.configRequest port (.msixControl on masked)) s
          = .next (msixControl (s.updPort k fun P => { P with answer := .served }) k on masked)) ∧
        (∀ (x : Fin 64) (q : VfReq), (P.vfEnable = false ∨ vfPort s (x + 1) ≠ k → exec (.configRequest port (.vf x q)) s = refused) ∧
          (P.vfEnable = true → vfPort s (x + 1) = k →
            (∀ c, exec (.configRequest port (.vf x (.capability c))) s = answers (if c ∈ [Capability.msix, .aer, .flr] then 1 else 0)) ∧
            ∀ on masked, exec (.configRequest port (.vf x (.msixControl on masked))) s
              = .next (msixControl (s.updPort k fun P => { P with answer := .served }) (x + 2) on masked))))) ∧
    (P.linkUp = true → P.recovery = true →
      let met := s.updPort k fun P => { P with answer := .recovery }
      let answers := fun (x : Nat) => Host.Outcome.next { met with lastRead := BitVec.ofNat 64 x }
      exec (.configRequest port (.identity .vendorId)) s = answers 0x1F6E ∧ exec (.configRequest port (.identity .deviceId)) s = answers 0x7F00 ∧
      exec (.configRequest port (.identity .classCode)) s = answers 0x088000 ∧ exec (.configRequest port .hpPort) s = answers (hpPort s k) ∧
      exec (.configRequest port (.capability .dvsec)) s = answers 1 ∧
      (∀ c, c ≠ .dvsec → exec (.configRequest port (.capability c)) s = answers 0) ∧
      (∀ f b, exec (.configRequest port (.sriov f)) s = .next met ∧ exec (.configRequest port (.setVfEnable b)) s = .next met) ∧
      exec (.configRequest port .ideTlp) s = .next met) ∧
    (let s0 := if failed then noteRead s k .error else s
     (s.ports.orderReads.find? (fun o => o.port == k) = none → exec (.portOrderReadDone port failed) s = .next s0) ∧
     ∀ o c, s.ports.orderReads.find? (fun o => o.port == k) = some o → s.cmd o.cmd = some c →
      let s1 := { s0 with ports := { s0.ports with orderReads := s.ports.orderReads.erase o } }
      exec (.portOrderReadDone port failed) s = .next (settle (drainWin (s1.win c.win).waitQ.length s1 c.win)))

-- ## Casks and protection sets

/-- A cask's port: presence, the release of its reset, its link with the rate and width that its training reached, its identity record, the ways it fails,
its indicator, its wear with samples, estimate and thresholds, CASK_PREPARE_REMOVE, and the shares of racking (what a row brings of the cask is the model's
choice: log entries 35 and 36; when a port is powered is its reading: log entry 46). -/
def Obligations.Casks : Prop :=
  ∀ (s : State) (n : CaskId) (ident : CaskIdent) (page : WearPage) (who : Who) (v : Word), Clocked s →
    let C := s.cask n
    let upd := fun (f : Cask → Cask) => s.updCask n f
    let gone := together s fun s => endDetaches (failCask s n)
    let dies := if C.st.serves then settleFrom s gone else s
    ((∀ b, (caskPresent s n = false ∨ C.present = b) → exec (.caskPresenceChange n b) s = .next s) ∧
      (caskPresent s n = true → C.present = false →
        exec (.caskPresenceChange n true) s = .next (raiseCask (if s.boot.stage = 5 ∨ s.boot.stage = 6 then
          upd fun C => { C with present := true, st := .linking, powered := true, refclk := true, perstLow := true } else upd fun C => { C with present := true }) n 0)) ∧
      (caskPresent s n = true → C.present = true → exec (.caskPresenceChange n false) s
        = .next (settle (raiseCask (caskAbsent (if C.st ∈ [.member, .readonly, .preparing] then gone else s) n) n 0)))) ∧
    ((C.st = .linking → exec (.cskPerstRelease n) s = .next (upd fun C => { C with perstLow := false }) ∧ exec (.caskLinkTimeout n) s = .next (settle gone)) ∧
      (C.st ≠ .linking → exec (.cskPerstRelease n) s = .next s ∧ exec (.caskLinkTimeout n) s = .next s) ∧
      (∀ rate width, let l : LinkTrain := { port := n, rate := rate, width := width }
        let full := rate = .gt64 ∧ width = .x4
        let up := upd fun C => { C with st := .identifying, linkUp := true, short := decide ¬full };
        (C.st = .linking → C.perstLow = false →
          (full → exec (.caskLinkUp l) s = .next up) ∧
          (¬full → exec (.caskLinkUp l) s
            = .next (up.updInd (130 + n.val) fun I => { I with shortfalls := I.shortfalls ++ [(s.hlt.days, rate, width)] }))) ∧
        (C.st ≠ .linking ∨ C.perstLow = true → exec (.caskLinkUp l) s = .next s))) ∧
    ((C.st ≠ .identifying → exec (.caskIdentified n ident) s = .next s) ∧
      (C.st = .identifying → exec (.caskIdentified n ident) s = .next (settle (portHistory (caskIdentify s n ident) n))) ∧
      (let r := (ident.record ++ zeros 128).take 128
       let q := raiseCask (upd fun C => { C with idrec := r, st := .quarantine, qReason := identReason s n r, blinkLow := true }) n 1
       identReason s n r ≠ 0 → caskIdentify s n ident = if isTarget s n = true then loseTarget q n else q)) ∧
    (exec (.caskLinkDown n) s = .next (dies.updCask n fun C => { C with linkUp := false }) ∧ exec (.caskFatalReport n) s = .next dies ∧ exec (.caskCommandTimeout n) s = .next dies) ∧
    ((C.linkUp = true → exec (.linkErrorCorrected n) s = .next (raiseCask s n 7)) ∧ (C.linkUp = false → exec (.linkErrorCorrected n) s = .next s) ∧
      ((C.st = .quarantine ∨ C.st = .failed) → exec (.attentionIndicatorBlink n) s = .next (upd fun C => { C with blinkLow := !C.blinkLow })) ∧
      (C.st ≠ .quarantine → C.st ≠ .failed → exec (.attentionIndicatorBlink n) s = .next s)) ∧
    (let read := fun (C : Cask) => { C with page := { page with written := C.page.written }, slowHour := 0, slowRaised := false };
      (C.st.serves = false → exec (.caskWearRead n page) s = .next s) ∧
      (C.st.serves = true → C.st ≠ .member → exec (.caskWearRead n page) s = .next (upd read)) ∧
      (C.st = .member → page.readOnly = true → exec (.caskWearRead n page) s = .next (raiseCask (upd fun C => { read C with st := .readonly }) n 2)) ∧
      (C.st = .member → page.readOnly = false → page.spareBlocks ≠ 0 → exec (.caskWearRead n page) s = .next (upd read))) ∧
    (exec (.caskWearSample n) s = .next (noteCaskEol (wearSample s n)) ∧
      (C.st.serves = false → wearSample s n = upd fun C => { C with day := C.day + 1 }) ∧
      (C.st.serves = true →
        let l := C.samples ++ [{ day := C.day, num := C.wear.1, den := C.wear.2 }]
        let e := eolEstimate ((l.drop (l.length - 30)).map fun x => (x.day, x.num, x.den))
        let early := e.2.1 % 65536
        let armed := fun (a : Bool) (t : Nat) => if early ≤ t then false else a || decide (t + 30 < early)
        let T := (wearSample s n).cask n
        T.day = C.day + 1 ∧ T.page.written = C.wrBytes ∧ T.samples = l.drop (l.length - 30) ∧
        T.eol = BitVec.ofNat 16 e.1 ∧ T.early = BitVec.ofNat 16 e.2.1 ∧ T.late = BitVec.ofNat 16 e.2.2 ∧
        T.armed180 = armed C.armed180 180 ∧ T.armed90 = armed C.armed90 90 ∧ T.armed30 = armed C.armed30 30 ∧
        T.wearLevel = ([T.armed180, T.armed90, T.armed30].filter fun a => !a).length ∧
        ((C.armed180 = true ∧ early ≤ 180 ∨ C.armed90 = true ∧ early ≤ 90 ∨ C.armed30 = true ∧ early ≤ 30) → C.evEn.getLsbD 3 = true →
          T.evPending = C.evPending ||| 8 ∧ ((wearSample s n).evSrc (768 + 8 * n.val + 3)).pending = true) ∧
        (¬ (C.armed180 = true ∧ early ≤ 180 ∨ C.armed90 = true ∧ early ≤ 90 ∨ C.armed30 = true ∧ early ≤ 30) →
          T.evPending = C.evPending ∧ (wearSample s n).evt = s.evt))) ∧
    (∀ c : Cmd, c.f 4 1 = n.val →
      let no := fun (reason : Nat) => endCmd s c sCAPACITY (detail reason 11 n.val 0 0)
      let out := enterRemovable s n
      ((out.cask n).st = .removable ∧ (out.cask n).linkUp = false ∧ (out.cask n).perstLow = true ∧ (out.cask n).blinkLow = true ∧ (out.cask n).prepare = none) ∧
      (C.st = .preparing ∨ C.st = .removable → prepareRemove s c = no 4) ∧
      (C.st = .spare ∨ C.st = .quarantine ∨ C.st = .failed →
        prepareRemove s c = endCmd (if C.st = .spare ∧ isTarget s n = true then loseTarget out n else out) c sSUCCESS (zeros 16)) ∧
      (C.st = .member ∨ C.st = .readonly → ∀ i m P, memberOf s n = some (i, m) → s.pset i = some P →
        (∀ t, chooseTarget s C.zoneCount = some t → prepareRemove s c
          = (startMigration (upd fun C => { C with prepare := some c.seq }) i m n t).updCmd c.seq fun c => { c with phase := .running }) ∧
        (chooseTarget s C.zoneCount = none →
          (c.f 5 1 = 0 → prepareRemove s c = no 1) ∧
          (c.f 5 1 ≠ 0 → P.p < P.gone + 1 → prepareRemove s c = no 2) ∧
          (c.f 5 1 ≠ 0 → P.gone + 1 ≤ P.p → prepareRemove s c = endCmd (loseMember out n) c sSUCCESS (zeros 16)))) ∧
      (C.st = .absent ∨ C.st = .linking ∨ C.st = .identifying → prepareRemove s c = no (if c.f 5 1 = 0 then 1 else 2))) ∧
    ((isManager s who = true → caskPresent s n = true →
        (v.toNat % 128 ≤ 100 → 1 ≤ v.toNat / 256 % 128 → v.toNat / 256 % 128 ≤ 100 → exec (.cskRackShareWrite who n v) s
          = .next (upd fun C => { C with rackPct := BitVec.ofNat 7 (v.toNat % 128), rebuildPct := BitVec.ofNat 7 (v.toNat / 256 % 128) })) ∧
        ((100 < v.toNat % 128 ∨ v.toNat / 256 % 128 = 0 ∨ 100 < v.toNat / 256 % 128) → exec (.cskRackShareWrite who n v) s = .next s) ∧
        (1 ≤ v.toNat % 128 → v.toNat % 128 ≤ 100 → exec (.cskRackLiveWrite who n v) s = .next (upd fun C => { C with livePct := BitVec.ofNat 7 (v.toNat % 128) })) ∧
        ((v.toNat % 128 = 0 ∨ 100 < v.toNat % 128) → exec (.cskRackLiveWrite who n v) s = .next s)) ∧
      ((isManager s who = false ∨ caskPresent s n = false) → exec (.cskRackShareWrite who n v) s = .next s ∧ exec (.cskRackLiveWrite who n v) s = .next s))

/-- Protection sets and storage commands: how stripes close and commit, how the stripes of a member move, how a migration, a rebuild and a recovery end, how
reads of a cask end, and what READ, WRITE, FLUSH and DEALLOCATE do (racking and moves rest on the model's reading in log entry 35, the data and errors of
reads in log entry 36, and the order in which a command finds its buffers and its set in log entry 37). -/
def Obligations.ProtectionSets : Prop :=
  ∀ (s : State) (n : CaskId) (i : Fin 16) (r : ReadResult), Clocked s →
    (s.pset i = none → exec (.stripeCloseTimeout i) s = .next s ∧ exec (.stripeChunksAcked i) s = .next s ∧ exec (.stripeCommit i) s = .next s ∧
      exec (.journalReplayDone i) s = .next s) ∧
    (∀ P, s.pset i = some P →
      let upd := fun (f : ProtSet → ProtSet) => { s with sto := { s.sto with sets := Tab.set s.sto.sets i (f P) } }
      let away := fun (x : Member) => x.gone || !((s.cask x.port).st.inService && recSerial (s.cask x.port).idrec == x.serial)
      exec (.stripeCloseTimeout i) s = .next (closeStripe s i) ∧ (P.opened = [] → closeStripe s i = s) ∧
      (∀ a c b, P.closing = a ++ c :: b → (∀ x ∈ a, x.journal = true) → c.journal = false →
        exec (.stripeChunksAcked i) s = .next (upd fun P => { P with closing := a ++ { c with journal := true } :: b })) ∧
      ((∀ x ∈ P.closing, x.journal = true) → exec (.stripeChunksAcked i) s = .next (upd id)) ∧
      (P.closing = [] → exec (.stripeCommit i) s = .next s) ∧
      (∀ c l, P.closing = c :: l → c.journal = false → exec (.stripeCommit i) s = .next s) ∧
      (∀ c l, P.closing = c :: l → c.journal = true → exec (.stripeCommit i) s
        = .next (settle (beginRack (beginCopies (flushCommitted (mapStripe (upd fun P => { P with closing := l }) i c) i c.k) i) i))) ∧
      (P.recovering = false → exec (.journalReplayDone i) s = .next s) ∧
      (P.recovering = true → exec (.journalReplayDone i) s = .next (recovered s i) ∧ ∃ Q, (recovered s i).pset i = some Q ∧ Q.recovering = false ∧
        Q.members = P.members.map (fun x => { x with gone := away x }) ∧
        Q.generation = if ∃ x ∈ P.members, x.gone = false ∧ away x = true then P.generation + 1 else P.generation)) ∧
    ((memberOf s n = none → moveOf s n = none → exec (.stripeMoveCommit n) s = .next s) ∧
      (∀ j v, moveOf s n = some (j, v) → memberOf s n = none → exec (.stripeMoveCommit n) s = .next (moveNext s j v)) ∧
      (∀ j m v, memberOf s n = some (j, m) → moveOf s n = some v → exec (.stripeMoveCommit n) s = .next (emptyZones (moveNext s v.1 v.2) j)) ∧
      (∀ j m, memberOf s n = some (j, m) → moveOf s n = none → exec (.stripeMoveCommit n) s = .next (emptyZones (rackNext s j) j) ∧
        (setRests s j = true → (∀ P, s.pset j = some P → P.rack = none) → rackNext s j = s))) ∧
    ((moveOf s n = none → exec (.migrationComplete n) s = .next (settle s) ∧ exec (.rebuildComplete n) s = .next s) ∧
      (∀ j v P, moveOf s n = some (j, v) → s.pset j = some P →
        let ready := v.left = [] ∧ targetReady s v = true ∧ P.recovering = false
        (v.rebuild = true → exec (.migrationComplete n) s = .next (settle s) ∧
          (ready → exec (.rebuildComplete n) s = .next (tryRebuild (moveDone s j v) j)) ∧ (¬ready → exec (.rebuildComplete n) s = .next s)) ∧
        (∀ m, v.rebuild = false → P.members[v.member]? = some m →
          let emptied := ready ∧ (s.cask m.port).st = .preparing
          exec (.rebuildComplete n) s = .next s ∧
          (¬emptied → exec (.migrationComplete n) s = .next (settle s)) ∧
          (emptied → (s.cask m.port).prepare = none → exec (.migrationComplete n) s = .next (settle (enterRemovable (moveDone s j v) m.port))) ∧
          (∀ q, emptied → (s.cask m.port).prepare = some q → exec (.migrationComplete n) s
            = .next (settle (endSeq (enterRemovable (moveDone s j v) m.port) q sSUCCESS (zeros 16))))))) ∧
    ((s.sto.reads.filter fun x => x.port == n.val) = [] → exec (.caskReadDone n r) s = .next (settleFrom s s)) ∧
    ((∀ y ∈ s.sto.reads, y.port = n.val → y.reader = .nobody ∨ y.slow = true) → exec (.slowReadTimeout n) s = .next (settle s)) ∧
    (∀ a x b, s.sto.reads = a ++ x :: b → x.port = n.val →
      let t := s.setReads (a ++ b)
      ((∀ y ∈ a, y.port ≠ n.val) →
        (x.reader = .nobody → exec (.caskReadDone n r) s = .next (settleFrom s t)) ∧
        (x.reader ≠ .nobody →
          (∀ bs, exec (.caskReadDone n (.data bs)) s = .next (settleFrom s (unitSettled (if x.direct
            then t.setReads ((a ++ b).map fun y => if y.reader = x.reader ∧ y.id = x.id then { y with reader := .nobody } else y) else t) x))) ∧
          ((∀ bs, r ≠ .data bs) → exec (.caskReadDone n r) s
            = .next (settleFrom s (unitSettled (if x.direct then reconstruct (mediaError t x) x else mediaError t x) x))))) ∧
      ((∀ y ∈ a, y.port = n.val → y.reader = .nobody ∨ y.slow = true) → x.reader ≠ .nobody → x.slow = false →
        ((s.cask n).st.inService = false ∨ x.bypass = false ∨ parityCovers s x [x.member] = false →
          exec (.slowReadTimeout n) s = .next (settle s)) ∧
        ((s.cask n).st.inService = true → x.bypass = true → parityCovers s x [x.member] = true →
          let u := (s.setReads (a ++ b ++ [{ x with slow := true }])).updCask n fun C => { C with
            slowCnt := satAdd C.slowCnt 1, slowHour := C.slowHour + 1 }
          let raised := (s.cask n).slowRaised = false ∧ (s.cask n).slowLimit.toNat ≤ (s.cask n).slowHour
          exec (.slowReadTimeout n) s = .next (settle (unitSettled (reconstruct (if raised
            then raiseCask (u.updCask n fun C => { C with slowRaised := true }) n 4 else u) x) x))))) ∧
    (∀ (c : Cmd) (p k : Nat) (N : Namespace) (P : ProtSet), s.nspace c.nsid = some N → N.set = k → s.pset k = some P →
      let o := c.f 8 8 * N.bs
      let len := c.f 0x10 4 * N.bs
      let unit := fun (i : Nat) => ({ ns := c.nsid, unit := (o + i) / 262144 } : UnitId)
      let whole := o % 262144 = 0 ∧ len % 262144 = 0
      let now := fun (t : State) (i : Nat) (x : Byte) => ∃ d, unitNow t (unit i) = .ok d ∧ chunkByte d ((o + i) % 262144) = x
      let runs := s.updCmd c.seq fun c => { c with phase := .running }
      let rs := (unitRuns o len).flatMap fun x => readsFor s { ns := c.nsid, unit := x.1 } (.cmd c.seq)
      let worn := ∃ m ∈ P.members, m.gone = false ∧ (s.cask m.port).st = .readonly
      ((worn → setRefuses s k = some sWEAR_OUT_READONLY) ∧ (¬worn → P.p < P.gone → setRefuses s k = some sCASK_MISSING) ∧
        (¬worn → P.gone ≤ P.p → setRefuses s k = none)) ∧
      (c.nsid ≠ 0xFFFFFFFF →
        (nsAttached runs c p c.nsid = false → startStorage s c p = endCmd runs c sNS_NOT_READY (cmdDetail 0 4)) ∧
        (nsAttached runs c p c.nsid = true → P.recovering = true → startStorage s c p = endCmd runs c sNS_NOT_READY (cmdDetail 0x28 4)) ∧
        (nsAttached runs c p c.nsid = true → P.recovering = false → c.opcode ≠ 4 → N.nblocks * N.bs < o + len →
          startStorage s c p = endCmd runs c sINVALID_FIELD (cmdDetail 4 8))) ∧
      (∀ l, c.fetched = some l →
        (c.opcode = 1 ∨ c.opcode = 2 → ∀ st d, listCheck c l len = some (st, d) → actStorage s c p = endCmd s c st d) ∧
        (c.opcode = 1 → listCheck c l len = none →
          (rs ≠ [] → actStorage s c p = s.addReads rs) ∧ (rs = [] → actStorage s c p = finishRead s c p)) ∧
        (∀ st, setRefuses s k = some st →
          (c.opcode = 2 → listCheck c l len = none → actStorage s c p = endCmd s c st (zeros 16)) ∧
          (c.opcode = 5 → actStorage s c p = endCmd s c st (zeros 16))) ∧
        (setRefuses s k = none →
          (c.opcode = 2 → listCheck c l len = none → c.space = false → whole → len ≤ c.data.length →
            ∃ t d, d.seq = c.seq ∧ actStorage s c p = endCmd t d sSUCCESS (zeros 16) ∧ ∀ i, i < len → now t i ((c.data[i]?).getD 0)) ∧
          (c.opcode = 5 → whole → ∃ t, actStorage s c p = endCmd t c sSUCCESS (zeros 16) ∧ ∀ i, i < len → now t i 0)) ∧
        (c.opcode = 4 →
          let mine := fun (x : UnitId) => x.ns ∈ c.spaces s p
          ((∀ e ∈ s.sto.sets, (∀ x ∈ e.2.opened, ¬ mine x.id) ∧ ∀ x ∈ e.2.closing, ∀ y ∈ x.content, ¬ mine y.id) →
            actStorage s c p = endCmd s c sSUCCESS (zeros 16)) ∧
          (∀ j Q, s.pset j = some Q → (∃ x ∈ Q.opened, mine x.id) ∨ (∃ x ∈ Q.closing, ∃ y ∈ x.content, mine y.id) →
            ∃ (u : State) (w : List (Nat × Nat)), w ≠ [] ∧ actStorage s c p = { u with sto := { u.sto with flushes := s.sto.flushes ++ [{ cmd := c.seq, stripes := w }] } } ∧
              (∀ g R, u.pset g = some R → ∀ x ∈ R.opened, ¬ mine x.id) ∧
              ∀ g h, (g, h) ∈ w ↔ ∃ R, (g, R) ∈ u.sto.sets ∧ ∃ x ∈ R.closing, x.k = h ∧ ∃ y ∈ x.content, mine y.id))) ∧
      ((∀ bs, nsRead s c.nsid o len = .ok bs → bs.length = len ∧ (∀ i, i < len → now s i ((bs[i]?).getD 0)) ∧
          (c.f 0x14 4 = 0 → c.space = false →
            finishRead s c p = endCmd (hostWrite s (winPort s c.win) (c.f 0x18 8) bs) c sSUCCESS (zeros 16)) ∧
          (c.f 0x14 4 = 0 → c.space = true →
            (∀ e, cmdPlaces s p (c.f 0x18 8) len true false false = .error e → finishRead s c p = endCmd s c e.status (detail 0 1 0 0x18 e.va)) ∧
            (∀ q, cmdPlaces s p (c.f 0x18 8) len true false false = .ok q → finishRead s c p = endCmd (putAll s (layOut q bs)) c sSUCCESS (zeros 16)))) ∧
        (∀ st, nsRead s c.nsid o len = .error st → finishRead s c p = endCmd s c st (zeros 16))))

-- ## Health, power, reset and boot

/-- Health: measurements, the end of a powered day with its samples, predictions and thresholds, the estimate that wear and health share, and what the I3C
target answers (which readings are plausible, and a day that ends before the log is loaded: log entry 44; the address that the target answers at: log
entry 47). -/
def Obligations.Health : Prop :=
  ∀ (s : State) (q : QuadId) (i : Fin 18) (m : BitVec 16) (ppm : BitVec 32) (w : I3cWrite) (r : I3cRead) (addr : BitVec 7),
    let seq := fun (t : State) => t.updHlt fun H => { H with seq := H.seq + 2 }
    let raised := fun (t : State) (cause : Nat) => if s.hlt.ctl.getLsbD 0 then raiseHealth t cause else t
    let aon := s.pwr.down.getLsbD 0 = false
    let measures := quadPresent s q = true ∧ quadOn s q = true ∧ s.pwr.down.getLsbD 3 = false ∧ s.pwr.down.getLsbD 4 = false
    let plausible := ppm.toNat ≤ 1000000 ∧ Config.plausiblePpm ppm.toNat = true
    let port := if i.val = 0 then s.ports.hpa.linkUp else if i.val = 1 then s.ports.hpb.linkUp && !s.ports.bifurcated
      else (s.cask (i.val - 2)).linkUp && caskOn s (i.val - 2)
    (∀ t cause, ((raiseHealth t cause).evSrc 1220).pending = true) ∧
    (aon → measures →
      (plausible → exec (.oscillatorMeasure q ppm) s = .next (seq (s.updInd q fun I => { I with value := ppm.toNat, measured := true }))) ∧
      (¬plausible → exec (.oscillatorMeasure q ppm) s = .next (raised (s.updHlt fun H => { H with sensorFault := true }) 20))) ∧
    (¬aon ∨ ¬measures → exec (.oscillatorMeasure q ppm) s = .next s) ∧
    (Clocked s →
      (port = false → exec (.linkMarginMeasure i m) s = .next s) ∧
      (port = true →
        let t := seq (s.updInd (128 + i.val) fun I => { I with value := m.toNat, measured := true })
        (50 ≤ m.toNat → exec (.linkMarginMeasure i m) s = .next t) ∧
        (m.toNat < 50 → exec (.linkMarginMeasure i m) s = .next (raised (t.updHlt fun H => { H with marginLow := true }) 21)))) ∧
    (¬aon → exec .poweredDayEnd s = .next s) ∧
    (aon → s.hlt.valid = false → exec .poweredDayEnd s = .next (dayWaits s) ∧ (dayWaits s).hlt.waitDays = s.hlt.waitDays + 1 ∧
      (dayWaits s).hlt.days = s.hlt.days ∧ ∀ k ∈ indicators s, ((dayWaits s).hlt.ind k).history = (s.hlt.ind k).history) ∧
    (aon → s.hlt.valid = true → exec .poweredDayEnd s = .next (dayEnd s) ∧
      (let t := dayEnd s
       let day := s.hlt.days + 1
       let slice := fun (k : Nat) => 64 ≤ k ∧ k < 128
       let value := fun (k : Nat) => if slice k then (s.hlt.ind k).ceCarry + ((Tab.get 0 (s.stack ((k - 64) / 8)).ceCnt ((k - 64) % 8)).toNat - (s.hlt.ind k).ceBase)
         else (s.hlt.ind k).value
       let sampled := fun (k : Nat) => slice k ∨ (s.hlt.ind k).measured = true
       let wear := fun (k : Nat) => if k < 64 then (value k, 60000) else if k < 128 then (value k, s.hlt.ceLimit.toNat)
         else
           let m0 := (s.hlt.ind k).m0.getD (value k)
           if m0 ≤ 50 then (1, 1) else (m0 - value k, m0 - 50)
       let early := t.hlt.devEarly
       let armed := fun (a : Bool) (d : Nat) => if early ≤ d then false else a || decide (d + 30 < early)
       t.hlt.days = day ∧ t.hlt.seq = s.hlt.seq + 2 ∧
       (∀ k ∈ indicators s,
         let I := s.hlt.ind k
         let J := t.hlt.ind k
         (¬sampled k → J.history = I.history ∧ J.eol = I.eol ∧ J.early = I.early ∧ J.late = I.late) ∧
         (sampled k →
           let l := I.history ++ [{ day := day, num := (wear k).1, den := (wear k).2 }]
           J.history = l.drop (l.length - 30) ∧ (J.num, J.den) = wear k ∧ J.m0 = some (I.m0.getD (value k)) ∧ J.measured = false ∧
           (J.eol, J.early, J.late) = eolEstimate (J.history.map fun x => (x.day, x.num, x.den)) ∧
           ((wear k).2 ≤ (wear k).1 → t.hlt.atLimit = true ∧ (s.hlt.ctl.getLsbD 0 = true → (t.evSrc 1220).pending = true)))) ∧
       (let all := (indicators s).map fun k => t.hlt.ind k
        t.hlt.devEol = (all.map (·.eol)).foldl min 0xFFFF ∧ early = (all.map (·.early)).foldl min 0xFFFF ∧
        t.hlt.devLate = (all.map (·.late)).foldl min 0xFFFF ∧
        t.hlt.worst = ((indicators s).find? fun k => (t.hlt.ind k).eol == t.hlt.devEol).getD 0) ∧
       t.hlt.armed16 = armed s.hlt.armed16 180 ∧ t.hlt.armed17 = armed s.hlt.armed17 90 ∧ t.hlt.armed18 = armed s.hlt.armed18 30 ∧
       t.hlt.devLevel = BitVec.ofNat 2 ([t.hlt.armed16, t.hlt.armed17, t.hlt.armed18].filter fun a => !a).length ∧
       (s.hlt.armed16 = true ∧ early ≤ 180 ∨ s.hlt.armed17 = true ∧ early ≤ 90 ∨ s.hlt.armed18 = true ∧ early ≤ 30 →
         s.hlt.ctl.getLsbD 0 = true → (t.evSrc 1220).pending = true) ∧
       (s.hlt.ctl.getLsbD 1 = true → t.hlt.log.present = true ∧ t.hlt.log.hist = t.hlt.inds) ∧
       (s.hlt.ctl.getLsbD 1 = false → t.hlt.log = s.hlt.log))) ∧
    (∀ l : List (Nat × Nat × Nat), (∀ x ∈ l, x.2.2 ≠ 0) → (l.Pairwise fun x y => x.1 < y.1) → EolRule l (eolEstimate l)) ∧
    (let io := aon ∧ s.pwr.down.getLsbD 1 = false
     let at_ := fun (x : I3cTo) => io ∧ x.addr = if x.legacy = true then 0x4E else s.pkg.i3cDyn.getD 0x4E
     (at_ w.dest → 2 ≤ w.bytes.length → exec (.i3cPrivateWrite w) s = .next { s with pkg := { s.pkg with i3cOff := fieldAt w.bytes 0 2 } }) ∧
     (¬at_ w.dest ∨ w.bytes.length < 2 → exec (.i3cPrivateWrite w) s = .next s) ∧
     (at_ r.dest → exec (.i3cPrivateRead r) s = .next { s with pkg := { s.pkg with
        i3cOut := (List.range r.len).map fun k =>
          let o := (s.pkg.i3cOff + k) % 65536
          if o < 0x600 then BitVec.ofNat 8 (hltReg s (o / 8 * 8) / 2 ^ (8 * (o % 8))) else 0
        i3cOff := (s.pkg.i3cOff + r.len) % 65536 } }) ∧
     (¬at_ r.dest → exec (.i3cPrivateRead r) s = .next s) ∧
     (io → exec (.dynamicAddressAssignment addr) s = .next { s with pkg := { s.pkg with i3cDyn := some addr } }) ∧
     (¬io → exec (.dynamicAddressAssignment addr) s = .next s))

/-- Power: rails, the system clock, temperatures with their warnings and events, the trip of 112 °C, and the power registers (how a row brings a measurement
is the model's choice: log entries 7 and 44; what a loss of VDD_AON ends and which stop counts as a rail's: log entry 45). -/
def Obligations.Power : Prop :=
  ∀ (s : State) (r : Fin 10) (die : Fin 3) (a b : BitVec 8) (k : StackId) (who : Who) (v : Word),
    let pwr := fun (f : Pwr → Pwr) => { s with pwr := f s.pwr }
    let aon := s.pwr.down.getLsbD 0 = false
    let bit := BitVec.ofNat 10 (2 ^ r.val)
    let off := pwr fun P => { P with good := 0, railsGood := false, stopped := true, down := BitVec.allOnes 10 }
    let warned := fun (t : State) =>
      let warm := t.pwr.dies.any fun d => decide (t.pwr.ctl.toNat / 2 ^ 8 % 256 ≤ d)
      { t with pwr := { t.pwr with
          twarn := warm, hot := t.pwr.hot || warm
          stackWarn := (List.range 8).any fun k => stackPresent t k && decide (t.pwr.ctl.toNat / 2 ^ 16 % 256 ≤ (t.stack k).temp) } }
    let trip := warned { s with hlt := { s.hlt with peak := max s.hlt.peak a.toNat }, pwr := { s.pwr with
        stopped := true, thermtrip := true, tripTemp := a, tripSensor := BitVec.ofNat 2 die.val, tripValid := true, dies := s.pwr.dies.set die.val a.toNat } }
    let tw := s.pwr.ctl.toNat / 2 ^ 8 % 256
    let sw := s.pwr.ctl.toNat / 2 ^ 16 % 256
    let admits := s.pwr.ctl.getLsbD 0 = true
    exec .vddAonLoss s = .next off ∧
    (¬aon → exec .railsGood s = .next s ∧ exec (.railLoss r) s = .next s ∧ exec .refclkSysLoss s = .next s ∧ exec (.thermalTrip die a) s = .next s ∧
      exec (.temperatureUpdate die a k b) s = .next s) ∧
    (aon →
      (let t := pwr fun P => { P with good := 0x3FF, railsGood := true, down := 0 }
       exec .railsGood s = .next (bootBegin t) ∧
       ((s.boot.stage ≠ 0 ∨ (s.hport (mgrPort s)).perst = true ∨ s.pwr.stopped = true) → bootBegin t = t) ∧
       (s.boot.stage = 0 → (s.hport (mgrPort s)).perst = false → s.pwr.stopped = false → bootBegin t = bootRom t true)) ∧
      (r = 0 → exec (.railLoss r) s = .next off) ∧
      (r ≠ 0 → s.boot.stage = 0 → exec (.railLoss r) s = .next (pwr fun P => { P with
        good := P.good &&& ~~~bit, railsGood := false, down := P.down ||| bit })) ∧
      (r ≠ 0 → s.boot.stage ≠ 0 → exec (.railLoss r) s = .next (pwr fun P => { P with
        good := P.good &&& ~~~bit, railsGood := false, down := P.down ||| bit, lost := P.lost ||| bit, stopped := true, railStop := P.railStop || !P.stopped })) ∧
      exec .refclkSysLoss s = .next (pwr fun P => { P with stopped := true, railStop := P.railStop || !P.stopped }) ∧
      (a.toNat < 112 ∨ s.pwr.thermtrip = true → exec (.thermalTrip die a) s = .next s) ∧
      (112 ≤ a.toNat → s.pwr.thermtrip = false → exec (.thermalTrip die a) s = .next trip ∧ exec (.temperatureUpdate die a k b) s = .next trip) ∧
      (a.toNat < 112 ∨ s.pwr.thermtrip = true →
        let seen := warned { (if stackPresent s k then s.updStack k fun K => { K with temp := b.toNat } else s) with
          hlt := { s.hlt with peak := max s.hlt.peak (max a.toNat (if stackPresent s k then b.toNat else 0)) }
          pwr := { s.pwr with dies := s.pwr.dies.set die.val a.toNat } }
        let dieUp := (s.pwr.dies[die.val]?).getD 0 < tw ∧ tw ≤ a.toNat
        let stackUp := stackPresent s k = true ∧ (s.stack k).temp < sw ∧ sw ≤ b.toNat
        let t1 := if dieUp ∧ admits then raiseGlobal seen 3 1 else seen
        let cool := { t1 with pwr := { t1.pwr with hot := false } }
        let t2 := if t1.pwr.hot = true ∧ ∀ d ∈ t1.pwr.dies, d + 3 ≤ tw then (if admits then raiseGlobal cool 3 2 else cool) else t1
        exec (.temperatureUpdate die a k b) s = .next (if stackUp ∧ admits then raiseGlobal t2 3 3 else t2))) ∧
    (∀ t cause, ((raiseGlobal t 3 cause).evSrc 1219).pending = true ∧ (raiseGlobal t 3 cause).pwr = t.pwr) ∧
    (Clocked s →
      (isManager s who = false → exec (.pwrCtlWrite who v) s = .next s ∧ exec (.pwrPs4IdleWrite who v) s = .next s) ∧
      (isManager s who = true →
        let t := v.toNat / 2 ^ 8 % 256
        let u := v.toNat / 2 ^ 16 % 256
        ((t < 60 ∨ 105 < t ∨ u < 60 ∨ 95 < u) → exec (.pwrCtlWrite who v) s = .next (pwr fun P => { P with paramErr := true })) ∧
        (60 ≤ t → t ≤ 105 → 60 ≤ u → u ≤ 95 → exec (.pwrCtlWrite who v) s = .next (warned (pwr fun P => { P with ctl := v &&& 0xFFFF03 }))) ∧
        exec (.pwrPs4IdleWrite who v) s = .next (pwr fun P => { P with ps4Idle := BitVec.ofNat 32 (v.toNat % 2 ^ 32) })))

/-- Resets: a cold power-on sets the units named here to their reset values and keeps the serial, the flash and the health log, and
after_trip and after_rail_loss then tell why the engine had stopped (R481, R499; log entry 45); a warm reset of a running
engine clears the units named here (which of them it keeps in part is the model's reading, log entry 45), keeps the service region of the cellar, and goes
through the boot ROM; the key of RST_CTL begins one, and the watchdog, which alone resets a firmware that is still starting. -/
def Obligations.Resets : Prop :=
  ∀ (s : State) (mgr src : Bool) (who : Who) (v : Word) (cause : Nat),
    let w := commitSets s
    let t := resetUnits w true
    let service := s.glb.part.service
    let runs := s.boot.stage = 6 ∨ (s.boot.stage = 5 ∧ cause = 7)
    (exec (.coldPowerOn mgr src) s = .next (coldReset s mgr src) ∧
      (let c := coldReset s mgr src
       c.pwr = { State.reset.pwr with afterTrip := s.pwr.thermtrip, afterRail := s.pwr.railStop } ∧ c.frm = State.reset.frm ∧ c.tiles = [] ∧ c.parcels = [] ∧ c.wins = [] ∧ c.cmds = [] ∧ c.mbx = {} ∧ c.groups = [] ∧ c.hbms = [] ∧
       c.ces = [] ∧ c.des = [] ∧ c.ses = [] ∧ c.glb.serial = s.glb.serial ∧ c.glb.scratch = 0 ∧ c.boot.stage = 0 ∧ c.boot.flash = s.boot.flash ∧
       c.boot.mgrHpb = mgr ∧ c.boot.bootSrc = src ∧ c.hlt.log = s.hlt.log ∧ c.hlt.valid = false ∧ c.pending = s.pending)) ∧
    (¬runs → warmReset s cause = s) ∧
    (runs → warmReset s cause = bootRom { t with pwr := { t.pwr with
      cause := BitVec.ofNat 4 cause, afterTrip := false, afterRail := false, resetCount := t.pwr.resetCount + 1 } } false) ∧
    (t.cmds = [] ∧ t.wins = [] ∧ t.groups = [] ∧ t.des = [] ∧ t.ses = [] ∧ t.reds = [] ∧ t.mbx = {} ∧ t.glb.scratch = 0 ∧ t.frm.count = 0 ∧ t.boot.stage = 0 ∧
      t.evt = { sent := w.evt.sent } ∧
      (∀ p, t.parcel p = { vintage := (w.parcel p).vintage }) ∧
      (∀ k, (t.tile k).run = .idle ∧ (t.tile k).pc = 0 ∧ (t.tile k).cache.ceTotal = (w.tile k).cache.ceTotal) ∧
      (∀ b, service.1 * sliceBytes ≤ b → b < (service.1 + service.2) * sliceBytes → t.mem.byte b = w.mem.byte b ∧ t.mem.poisoned b = w.mem.poisoned b)) ∧
    (Clocked s →
      (isManager s who = true → v.toNat % 2 = 1 → v.toNat / 256 % 256 = 0xA5 → exec (.rstCtlWrite who v) s = .next (settleFrom s (warmReset s 3))) ∧
      (isManager s who = true → (v.toNat % 2 = 0 ∨ v.toNat / 256 % 256 ≠ 0xA5) → exec (.rstCtlWrite who v) s = .next (settleFrom s s)) ∧
      (isManager s who = false → exec (.rstCtlWrite who v) s = .next s) ∧
      exec .watchdogExpiry s = .next (settleFrom s (warmReset s 7)))

/-- Boot: how the boot ROM opens the flash and which image it runs, when the firmware's release of retry takes effect and what it leaves, recovery's
verification of the load window, and the test access port with its boundary register (which slot comes first, what an unwritten flash holds, and the order of
an image's checks are the model's reading: log entry 46; so are the boundary register's cells: log entry 47). -/
def Obligations.Boot : Prop :=
  ∀ (s : State) (mode : Bool) (micros : BitVec 32) (failed : BitVec 8) (g : RecGo) (i : TapInstr),
    let B := { s with boot := { s.boot with
      srcRec := false, fallback := false, xspi := if s.boot.flash.octal then .d8 else .s1, xspiResets := s.boot.xspiResets + 1 } }
    let ports := fun (t : State) (m : Bool) => if mode then { t with ports := { t.ports with bifurcated := m } } else t
    let img := (List.range s.boot.recLen.toNat).map fun i => (cellFind s.boot.window i).getD 0
    let why := imageReason s img s.boot.recLen.toNat g.failed
    let c := tapCode i
    let t := { s with pkg := { s.pkg with
      tap := c, tapDr := if c = 1 then BitVec.ofNat 32 (idcode s) else 0
      captured := if 2 ≤ c ∧ c ≤ 5 then captureLevels s else s.pkg.captured
      preloaded := match i with | .preload l => l | _ => s.pkg.preloaded
      drive := if c = 6 then .highz else if 3 ≤ c ∧ c ≤ 7 then .boundary else .functional } }
    (s.boot.bootSrc = true → bootRom s mode = enterRecovery (ports B false)) ∧
    (s.boot.bootSrc = false → dirOk s.boot.flash.dir0 = false → dirOk s.boot.flash.dir1 = false →
      bootRom s mode = enterRecovery (ports { B with boot := { B.boot with lastReason := 1 } } false)) ∧
    (s.boot.bootSrc = false → ∀ d, (dirOk s.boot.flash.dir0 = true ∧ d = s.boot.flash.dir0 ∨
        dirOk s.boot.flash.dir0 = false ∧ dirOk s.boot.flash.dir1 = true ∧ d = s.boot.flash.dir1) →
      let X := ports B (bitOf (fieldAt d 8 4) 0)
      let next := fieldAt d 6 1 != 0
      let first := if bitOf (fieldAt d 7 1) 0 && s.pwr.cause == 7 then !next else next
      let Y := { X with boot := { (X.boot.failed first (slotReason X d first)) with fallback := true } }
      bootRom s mode =
        if slotReason X d first = 0 then enterSlot X first
        else if slotReason X d (!first) = 0 then enterSlot Y (!first)
        else enterRecovery (ports { Y with boot := Y.boot.failed (!first) (slotReason X d (!first)) } false)) ∧
    (Clocked s →
      exec (.firmwareReady micros failed) s = .next (settle (firmwareReady s micros.toNat failed.toNat)) ∧
      (let rising := ∃ n : CaskId, (s.cask n).st = .linking ∨ (s.cask n).st = .identifying
       (s.boot.stage ≠ 5 ∨ (rising ∧ micros.toNat < 850000) → firmwareReady s micros.toNat failed.toNat = s) ∧
       (s.boot.stage = 5 → ¬rising ∨ 850000 ≤ micros.toNat → let u := firmwareReady s micros.toNat failed.toNat
        u.boot.stage = 6 ∧ u.boot.time = micros ∧ u.hlt.valid = true ∧ u.ports.hpa.retry = false ∧ u.ports.hpb.retry = false ∧
        u.ports.hpa.drs = s.ports.hpa.drs + 1 ∧ u.ports.hpb.drs = s.ports.hpb.drs + 1 ∧ (u.evSrc 1222).pending = true ∧
        (∀ k : StackId, stackPresent s k = true → if failed.getLsbD k.val = true then (u.stack k).failed = true else (u.stack k).trained = true) ∧
        u.boot.flash = if s.boot.srcRec = true then s.boot.flash else s.boot.flash.triedOnce)) ∧
      (s.boot.stage ≠ 7 → exec (.bootRecGo g) s = .next s) ∧
      (s.boot.stage = 7 → g.value.toNat % 2 = 0 → exec (.bootRecGo g) s = .next s) ∧
      (s.boot.stage = 7 → g.value.toNat % 2 = 1 → exec (.bootRecGo g) s = .next (
        if why ≠ 0 then { s with boot := { s.boot with recDone := true, recPass := false, recReason := why, lastReason := why } }
        else enterImage (State.updPort { s with boot := { s.boot with recDone := true, recPass := true } } (mgrPort s) fun P => { P with recovery := false }) img))) ∧
    (∀ d, dirOk d = true → ∀ F : Flash, F.dir0 = d → F.triedOnce.dir0 = dirPut d (fieldAt d 6 1) (fieldAt d 7 1 / 2 * 2)) ∧
    (s.pwr.down.getLsbD 1 = true → exec (.tapInstructionLoad i) s = .next s) ∧
    (s.pwr.down.getLsbD 1 = false →
      (¬ (3 ≤ c ∧ c ≤ 7) → exec (.tapInstructionLoad i) s = .next t) ∧
      (3 ≤ c → c ≤ 7 → exec (.tapInstructionLoad i) s = .next { t with pkg := { t.pkg with scan := true }, pwr := { t.pwr with stopped := true } })) ∧
    (∀ n : CaskId, ((3, n.val + 1), !(s.cask n).present) ∈ captureLevels s ∧
      (s.pkg.drive = .functional → ((2, n.val + 1), !(cskPerstLow s n)) ∈ captureLevels s ∧ ((1, 1), !s.pwr.thermtrip) ∈ captureLevels s))

-- ## Registers

/-- Reads and writes of registers by their access codes: RW for the scratch register, RO, W1C for HLT_STS, W1S for the
mailbox bind locks, RC for DSP_P_REFUSED, RWL for GLB_FUSE_CTL; what a requester that the layout shows nothing reads, what a requester that may only read
writes, and what a request in a form that no port supports meets: it is an Unsupported Request, which AER logs (where a PF0's BAR2 lies beside its BAR0 is the
model's choice: log entry 11; what a requester may reach is its reading: log entry 12). -/
def Obligations.Registers : Prop :=
  ∀ (s : State) (who : Who) (off : BitVec 29) (mask : BitVec 8) (v : Word), Clocked s → mask ≠ 0 → off.toNat % 8 = 0 →
    let l := locate s who off.toNat
    let lanes : Lanes := { mask := mask }
    let m := laneMask mask
    let reads := fun (x : Word) => exec (.rcRead who off lanes) s = .next { s with lastRead := x &&& m, lastEnd := .good }
    let writes := fun (t : State) => exec (.registerWrite who off lanes v) s = .next t
    let full := l.2 = .write ∨ l.2 = .firmware
    (∀ (f : FnId) (form : TlpForm), form ≠ .plain →
      let t := s.updPort (fnPort s f) fun P => { P with
        aer := P.aer + 1, aerErrs := if .unsupportedRequest ∈ P.aerErrs then P.aerErrs else P.aerErrs ++ [.unsupportedRequest] }
      exec (.rcRead (.fn f) off { mask := mask, form := form }) s = .next { t with lastEnd := .error } ∧ exec (.registerWrite (.fn f) off { mask := mask, form := form } v) s = .next t) ∧
    (∀ b, b < 64 → m.getLsbD b = mask.getLsbD (b / 8)) ∧
    (l.2 = .none → reads 0 ∧ writes s) ∧
    (l.2 = .read → writes s) ∧
    (l.2 = .write → writes (regPut s who false l.1 mask v)) ∧
    (l.2 = .firmware → writes (regPut s who true l.1 mask v)) ∧
    (∀ o, l.2 ≠ .none → l.1 = .glb o → reads (BitVec.ofNat 64 (glbReg s o))) ∧
    (∀ p o, l.2 ≠ .none → l.1 = .smap p o → reads (BitVec.ofNat 64 (regValue s who (l.2 == .firmware) l.1)) ∧ (full → writes s)) ∧
    (full → l.1 = .glb 0 → writes s) ∧
    (full → l.1 = .glb 0x40 → reads s.glb.scratch ∧ writes { s with glb := { s.glb with scratch := (s.glb.scratch &&& ~~~m) ||| (v &&& m) } }) ∧
    (l.1 = .glb 0x48 →
      (l.2 = .firmware → s.boot.stage < 6 → writes { s with glb := { s.glb with fuseCtl := (s.glb.fuseCtl &&& ~~~m) ||| (v &&& m) } }) ∧
      (full → l.2 = .write ∨ 6 ≤ s.boot.stage → writes s)) ∧
    (full → l.1 = .hlt 0 →
      let keeps := fun (f : Bool) (b : Nat) => f && !(mask.getLsbD 0 && v.getLsbD b)
      (let H := s.hlt
       let x := b2n H.valid + 2 * b2n H.historyReset + 4 * b2n H.sensorFault + 8 * b2n H.atLimit + 16 * b2n H.marginLow + 32 * H.devLevel.toNat
       reads (BitVec.ofNat 64 x)) ∧
      writes { s with hlt := { s.hlt with
        historyReset := keeps s.hlt.historyReset 1, sensorFault := keeps s.hlt.sensorFault 2, atLimit := keeps s.hlt.atLimit 3
        marginLow := keeps s.hlt.marginLow 4 } }) ∧
    (full → l.1 = .mbxBlock 0x4400 → writes { s with mbx := { s.mbx with bindLock := s.mbx.bindLock ||| (v &&& m) } }) ∧
    (∀ p, full → l.1 = .dspP p 0x20 → writes s ∧ exec (.rcRead who off lanes) s
      = .next { s.updDsp p (fun D => { D with refused := 0 }) with lastRead := BitVec.ofNat 64 (s.parcel p).dsp.refused.toNat &&& m, lastEnd := .good })

-- ## The whole machine

/-- What cold power-on leaves, as the manual gives it, and that the invariants below hold of it. -/
def Obligations.ResetState : Prop :=
  let s := State.reset
  (s.frm.period = 0x960 ∧ s.frm.hold = 0x10 ∧ s.frm.count = 0 ∧ s.pwr.ctl = 0x005A5F03 ∧ s.pwr.cause = 1 ∧ s.pwr.ps4Idle = 0xEA60 ∧ s.glb.scratch = 0) ∧
  (∀ p, (s.parcel p).st = .free ∧ (s.parcel p).vintage = 1 ∧ (s.parcel p).div = 1 ∧ (s.parcel p).park = 0x3E8) ∧
  (∀ n, (s.cask n).st = .absent ∧ (s.cask n).evEn = 0xFF ∧ (s.cask n).slowLimit = 0x10 ∧ (s.cask n).eol = 0xFFFF ∧ (s.cask n).rackPct = 0x14) ∧
  (∀ k, (s.stack k).ctl = 0x04000003 ∧ (s.stack k).scrubCtl = 0x1801) ∧
  s.cmds = [] ∧ s.pending = [] ∧ s.memOk ∧ s.frm.legal

/-- Every step keeps the settings of the frame generator legal, whatever is written to its registers. -/
def Obligations.FrameSettingsStayLegal : Prop := ∀ s s' : State, s.frm.legal → step s = .next s' → s'.frm.legal

/-- Every step keeps memory in its canonical form: addresses rising, no byte listed that reads as an unlisted one (the model's own form, log entry 1). -/
def Obligations.MemoryStaysCanonical : Prop := ∀ s s' : State, s.memOk → step s = .next s' → s'.memOk

/-- Decoding gives back every well-formed instruction that has a word, with every operand, on the tile that fetches it. -/
def Obligations.DecodeEncode : Prop :=
  ∀ (i : Instr) (w : BitVec 32), wellFormed i = true → encode i = some w → ∃ t, decodeWord t w = some i
end

