-- ==== Sys2Proof/Laws/Tab.lean ====
section
/-! SUPPORT. Laws of the sparse tables: a read after a write, and the canonical form. -/

namespace Sys2Proof

variable {α : Type}

@[simp] theorem Tab.find_set_same (m : Tab α) (k : Nat) (a : α) : Tab.find (Tab.set m k a) k = some a := by
  induction m with
  | nil => simp [Tab.set, Tab.find]
  | cons x m ih =>
    obtain ⟨j, b⟩ := x
    simp only [Tab.set]
    split
    · simp [Tab.find]
    · split
      · simp [Tab.find]
      · rename_i _ h
        simp [Tab.find, Ne.symm h, ih]

theorem Tab.find_set_ne (m : Tab α) {k i : Nat} (a : α) (h : i ≠ k) : Tab.find (Tab.set m k a) i = Tab.find m i := by
  induction m with
  | nil => simp [Tab.set, Tab.find, Ne.symm h]
  | cons x m ih =>
    obtain ⟨j, b⟩ := x
    simp only [Tab.set]
    split
    · simp [Tab.find, Ne.symm h]
    · split
      · rename_i _ hk
        subst hk
        simp [Tab.find, Ne.symm h]
      · simp only [Tab.find, ih]

@[simp] theorem Tab.get_set_same (d : α) (m : Tab α) (k : Nat) (a : α) : Tab.get d (Tab.set m k a) k = a := by simp [Tab.get]

theorem Tab.get_set_ne (d : α) (m : Tab α) {k i : Nat} (a : α) (h : i ≠ k) : Tab.get d (Tab.set m k a) i = Tab.get d m i := by
  simp [Tab.get, Tab.find_set_ne m a h]

theorem Tab.get_set (d : α) (m : Tab α) (k i : Nat) (a : α) : Tab.get d (Tab.set m k a) i = if i = k then a else Tab.get d m i := by
  split
  · rename_i h; subst h; simp
  · rename_i h; exact Tab.get_set_ne d m a h

@[simp] theorem Tab.get_upd_same (d : α) (m : Tab α) (k : Nat) (f : α → α) : Tab.get d (Tab.upd d m k f) k = f (Tab.get d m k) := by
  simp [Tab.upd]

theorem Tab.get_upd_ne (d : α) (m : Tab α) {k i : Nat} (f : α → α) (h : i ≠ k) : Tab.get d (Tab.upd d m k f) i = Tab.get d m i := by
  simp [Tab.upd, Tab.get_set_ne d m _ h]

/-- Of two settings of a key the second stays. -/
@[simp] theorem Tab.set_set (m : Tab α) (k : Nat) (a b : α) : Tab.set (Tab.set m k a) k b = Tab.set m k b := by
  induction m with
  | nil => simp [Tab.set]
  | cons e m ih =>
    obtain ⟨j, c⟩ := e
    simp only [Tab.set]
    by_cases h : k < j
    · simp [h, Tab.set]
    · by_cases h' : k = j
      · simp [h', Tab.set]
      · simp [h, h', Tab.set, ih]

/-- Two changes under one key are one. -/
@[simp] theorem Tab.upd_upd (d : α) (m : Tab α) (k : Nat) (f g : α → α) : Tab.upd d (Tab.upd d m k f) k g = Tab.upd d m k (fun a => g (f a)) := by
  simp [Tab.upd]

@[simp] theorem Tab.get_nil (d : α) (k : Nat) : Tab.get d [] k = d := rfl

/-- The canonical form from a bound holds from a lower one. -/
theorem Tab.wfFrom_mono {m : Tab α} {lo hi : Nat} (h : Tab.wfFrom hi m = true) (hl : lo ≤ hi) : Tab.wfFrom lo m = true := by
  cases m with
  | nil => rfl
  | cons x m =>
    obtain ⟨j, b⟩ := x
    simp only [Tab.wfFrom, Bool.and_eq_true, decide_eq_true_eq] at h ⊢
    exact ⟨Nat.le_trans hl h.1, h.2⟩

/-- Writing under a key keeps the canonical form. -/
theorem Tab.wfFrom_set {m : Tab α} {lo k : Nat} (a : α) (h : Tab.wfFrom lo m = true) (hk : lo ≤ k) : Tab.wfFrom lo (Tab.set m k a) = true := by
  induction m generalizing lo with
  | nil => simp [Tab.set, Tab.wfFrom, hk]
  | cons x m ih =>
    obtain ⟨j, b⟩ := x
    simp only [Tab.wfFrom, Bool.and_eq_true, decide_eq_true_eq] at h
    simp only [Tab.set]
    split
    · rename_i hlt
      simp only [Tab.wfFrom, Bool.and_eq_true, decide_eq_true_eq]
      exact ⟨hk, hlt, h.2⟩
    · split
      · rename_i _ heq
        subst heq
        simp only [Tab.wfFrom, Bool.and_eq_true, decide_eq_true_eq]
        exact ⟨hk, h.2⟩
      · rename_i hnlt hne
        simp only [Tab.wfFrom, Bool.and_eq_true, decide_eq_true_eq]
        exact ⟨h.1, ih h.2 (by omega)⟩

theorem Tab.wf_set {m : Tab α} (k : Nat) (a : α) (h : Tab.wf m = true) : Tab.wf (Tab.set m k a) = true :=
  Tab.wfFrom_set a h (Nat.zero_le k)

end Sys2Proof
end

