-- ==== Sys2Proof/Laws/State.lean ====
section
/-! SUPPORT. What each named update of the state leaves unchanged, field by field, and what it leaves in the unit it changes. -/

namespace Sys2Proof.Machine

-- ## State.updTile

@[simp] theorem State.updTile_glb (s : State) (t : Nat) (f : Tile → Tile) : (s.updTile t f).glb = s.glb := rfl
@[simp] theorem State.updTile_frm (s : State) (t : Nat) (f : Tile → Tile) : (s.updTile t f).frm = s.frm := rfl
@[simp] theorem State.updTile_mem (s : State) (t : Nat) (f : Tile → Tile) : (s.updTile t f).mem = s.mem := rfl
@[simp] theorem State.updTile_hbms (s : State) (t : Nat) (f : Tile → Tile) : (s.updTile t f).hbms = s.hbms := rfl
@[simp] theorem State.updTile_reds (s : State) (t : Nat) (f : Tile → Tile) : (s.updTile t f).reds = s.reds := rfl
@[simp] theorem State.updTile_dsp (s : State) (t : Nat) (f : Tile → Tile) : (s.updTile t f).dsp = s.dsp := rfl
@[simp] theorem State.updTile_groups (s : State) (t : Nat) (f : Tile → Tile) : (s.updTile t f).groups = s.groups := rfl
@[simp] theorem State.updTile_ces (s : State) (t : Nat) (f : Tile → Tile) : (s.updTile t f).ces = s.ces := rfl
@[simp] theorem State.updTile_des (s : State) (t : Nat) (f : Tile → Tile) : (s.updTile t f).des = s.des := rfl
@[simp] theorem State.updTile_ses (s : State) (t : Nat) (f : Tile → Tile) : (s.updTile t f).ses = s.ses := rfl
@[simp] theorem State.updTile_dgt (s : State) (t : Nat) (f : Tile → Tile) : (s.updTile t f).dgt = s.dgt := rfl
@[simp] theorem State.updTile_casks (s : State) (t : Nat) (f : Tile → Tile) : (s.updTile t f).casks = s.casks := rfl
@[simp] theorem State.updTile_sto (s : State) (t : Nat) (f : Tile → Tile) : (s.updTile t f).sto = s.sto := rfl
@[simp] theorem State.updTile_parcels (s : State) (t : Nat) (f : Tile → Tile) : (s.updTile t f).parcels = s.parcels := rfl
@[simp] theorem State.updTile_pcl (s : State) (t : Nat) (f : Tile → Tile) : (s.updTile t f).pcl = s.pcl := rfl
@[simp] theorem State.updTile_wins (s : State) (t : Nat) (f : Tile → Tile) : (s.updTile t f).wins = s.wins := rfl
@[simp] theorem State.updTile_cmds (s : State) (t : Nat) (f : Tile → Tile) : (s.updTile t f).cmds = s.cmds := rfl
@[simp] theorem State.updTile_accepted (s : State) (t : Nat) (f : Tile → Tile) : (s.updTile t f).accepted = s.accepted := rfl
@[simp] theorem State.updTile_mbx (s : State) (t : Nat) (f : Tile → Tile) : (s.updTile t f).mbx = s.mbx := rfl
@[simp] theorem State.updTile_evt (s : State) (t : Nat) (f : Tile → Tile) : (s.updTile t f).evt = s.evt := rfl
@[simp] theorem State.updTile_ports (s : State) (t : Nat) (f : Tile → Tile) : (s.updTile t f).ports = s.ports := rfl
@[simp] theorem State.updTile_hlt (s : State) (t : Nat) (f : Tile → Tile) : (s.updTile t f).hlt = s.hlt := rfl
@[simp] theorem State.updTile_pwr (s : State) (t : Nat) (f : Tile → Tile) : (s.updTile t f).pwr = s.pwr := rfl
@[simp] theorem State.updTile_boot (s : State) (t : Nat) (f : Tile → Tile) : (s.updTile t f).boot = s.boot := rfl
@[simp] theorem State.updTile_pkg (s : State) (t : Nat) (f : Tile → Tile) : (s.updTile t f).pkg = s.pkg := rfl
@[simp] theorem State.updTile_lastRead (s : State) (t : Nat) (f : Tile → Tile) : (s.updTile t f).lastRead = s.lastRead := rfl
@[simp] theorem State.updTile_lastEnd (s : State) (t : Nat) (f : Tile → Tile) : (s.updTile t f).lastEnd = s.lastEnd := rfl
@[simp] theorem State.updTile_deciding (s : State) (t : Nat) (f : Tile → Tile) : (s.updTile t f).deciding = s.deciding := rfl
@[simp] theorem State.updTile_freeCtr (s : State) (t : Nat) (f : Tile → Tile) : (s.updTile t f).freeCtr = s.freeCtr := rfl
@[simp] theorem State.updTile_pending (s : State) (t : Nat) (f : Tile → Tile) : (s.updTile t f).pending = s.pending := rfl

-- ## State.updParcel

@[simp] theorem State.updParcel_glb (s : State) (p : Nat) (f : Parcel → Parcel) : (s.updParcel p f).glb = s.glb := rfl
@[simp] theorem State.updParcel_frm (s : State) (p : Nat) (f : Parcel → Parcel) : (s.updParcel p f).frm = s.frm := rfl
@[simp] theorem State.updParcel_mem (s : State) (p : Nat) (f : Parcel → Parcel) : (s.updParcel p f).mem = s.mem := rfl
@[simp] theorem State.updParcel_hbms (s : State) (p : Nat) (f : Parcel → Parcel) : (s.updParcel p f).hbms = s.hbms := rfl
@[simp] theorem State.updParcel_reds (s : State) (p : Nat) (f : Parcel → Parcel) : (s.updParcel p f).reds = s.reds := rfl
@[simp] theorem State.updParcel_tiles (s : State) (p : Nat) (f : Parcel → Parcel) : (s.updParcel p f).tiles = s.tiles := rfl
@[simp] theorem State.updParcel_dsp (s : State) (p : Nat) (f : Parcel → Parcel) : (s.updParcel p f).dsp = s.dsp := rfl
@[simp] theorem State.updParcel_groups (s : State) (p : Nat) (f : Parcel → Parcel) : (s.updParcel p f).groups = s.groups := rfl
@[simp] theorem State.updParcel_ces (s : State) (p : Nat) (f : Parcel → Parcel) : (s.updParcel p f).ces = s.ces := rfl
@[simp] theorem State.updParcel_des (s : State) (p : Nat) (f : Parcel → Parcel) : (s.updParcel p f).des = s.des := rfl
@[simp] theorem State.updParcel_ses (s : State) (p : Nat) (f : Parcel → Parcel) : (s.updParcel p f).ses = s.ses := rfl
@[simp] theorem State.updParcel_dgt (s : State) (p : Nat) (f : Parcel → Parcel) : (s.updParcel p f).dgt = s.dgt := rfl
@[simp] theorem State.updParcel_casks (s : State) (p : Nat) (f : Parcel → Parcel) : (s.updParcel p f).casks = s.casks := rfl
@[simp] theorem State.updParcel_sto (s : State) (p : Nat) (f : Parcel → Parcel) : (s.updParcel p f).sto = s.sto := rfl
@[simp] theorem State.updParcel_pcl (s : State) (p : Nat) (f : Parcel → Parcel) : (s.updParcel p f).pcl = s.pcl := rfl
@[simp] theorem State.updParcel_wins (s : State) (p : Nat) (f : Parcel → Parcel) : (s.updParcel p f).wins = s.wins := rfl
@[simp] theorem State.updParcel_cmds (s : State) (p : Nat) (f : Parcel → Parcel) : (s.updParcel p f).cmds = s.cmds := rfl
@[simp] theorem State.updParcel_accepted (s : State) (p : Nat) (f : Parcel → Parcel) : (s.updParcel p f).accepted = s.accepted := rfl
@[simp] theorem State.updParcel_mbx (s : State) (p : Nat) (f : Parcel → Parcel) : (s.updParcel p f).mbx = s.mbx := rfl
@[simp] theorem State.updParcel_evt (s : State) (p : Nat) (f : Parcel → Parcel) : (s.updParcel p f).evt = s.evt := rfl
@[simp] theorem State.updParcel_ports (s : State) (p : Nat) (f : Parcel → Parcel) : (s.updParcel p f).ports = s.ports := rfl
@[simp] theorem State.updParcel_hlt (s : State) (p : Nat) (f : Parcel → Parcel) : (s.updParcel p f).hlt = s.hlt := rfl
@[simp] theorem State.updParcel_pwr (s : State) (p : Nat) (f : Parcel → Parcel) : (s.updParcel p f).pwr = s.pwr := rfl
@[simp] theorem State.updParcel_boot (s : State) (p : Nat) (f : Parcel → Parcel) : (s.updParcel p f).boot = s.boot := rfl
@[simp] theorem State.updParcel_pkg (s : State) (p : Nat) (f : Parcel → Parcel) : (s.updParcel p f).pkg = s.pkg := rfl
@[simp] theorem State.updParcel_lastRead (s : State) (p : Nat) (f : Parcel → Parcel) : (s.updParcel p f).lastRead = s.lastRead := rfl
@[simp] theorem State.updParcel_lastEnd (s : State) (p : Nat) (f : Parcel → Parcel) : (s.updParcel p f).lastEnd = s.lastEnd := rfl
@[simp] theorem State.updParcel_deciding (s : State) (p : Nat) (f : Parcel → Parcel) : (s.updParcel p f).deciding = s.deciding := rfl
@[simp] theorem State.updParcel_freeCtr (s : State) (p : Nat) (f : Parcel → Parcel) : (s.updParcel p f).freeCtr = s.freeCtr := rfl
@[simp] theorem State.updParcel_pending (s : State) (p : Nat) (f : Parcel → Parcel) : (s.updParcel p f).pending = s.pending := rfl

-- ## State.updGroup

@[simp] theorem State.updGroup_glb (s : State) (g : Nat) (f : Group → Group) : (s.updGroup g f).glb = s.glb := rfl
@[simp] theorem State.updGroup_frm (s : State) (g : Nat) (f : Group → Group) : (s.updGroup g f).frm = s.frm := rfl
@[simp] theorem State.updGroup_mem (s : State) (g : Nat) (f : Group → Group) : (s.updGroup g f).mem = s.mem := rfl
@[simp] theorem State.updGroup_hbms (s : State) (g : Nat) (f : Group → Group) : (s.updGroup g f).hbms = s.hbms := rfl
@[simp] theorem State.updGroup_reds (s : State) (g : Nat) (f : Group → Group) : (s.updGroup g f).reds = s.reds := rfl
@[simp] theorem State.updGroup_tiles (s : State) (g : Nat) (f : Group → Group) : (s.updGroup g f).tiles = s.tiles := rfl
@[simp] theorem State.updGroup_dsp (s : State) (g : Nat) (f : Group → Group) : (s.updGroup g f).dsp = s.dsp := rfl
@[simp] theorem State.updGroup_ces (s : State) (g : Nat) (f : Group → Group) : (s.updGroup g f).ces = s.ces := rfl
@[simp] theorem State.updGroup_des (s : State) (g : Nat) (f : Group → Group) : (s.updGroup g f).des = s.des := rfl
@[simp] theorem State.updGroup_ses (s : State) (g : Nat) (f : Group → Group) : (s.updGroup g f).ses = s.ses := rfl
@[simp] theorem State.updGroup_dgt (s : State) (g : Nat) (f : Group → Group) : (s.updGroup g f).dgt = s.dgt := rfl
@[simp] theorem State.updGroup_casks (s : State) (g : Nat) (f : Group → Group) : (s.updGroup g f).casks = s.casks := rfl
@[simp] theorem State.updGroup_sto (s : State) (g : Nat) (f : Group → Group) : (s.updGroup g f).sto = s.sto := rfl
@[simp] theorem State.updGroup_parcels (s : State) (g : Nat) (f : Group → Group) : (s.updGroup g f).parcels = s.parcels := rfl
@[simp] theorem State.updGroup_pcl (s : State) (g : Nat) (f : Group → Group) : (s.updGroup g f).pcl = s.pcl := rfl
@[simp] theorem State.updGroup_wins (s : State) (g : Nat) (f : Group → Group) : (s.updGroup g f).wins = s.wins := rfl
@[simp] theorem State.updGroup_cmds (s : State) (g : Nat) (f : Group → Group) : (s.updGroup g f).cmds = s.cmds := rfl
@[simp] theorem State.updGroup_accepted (s : State) (g : Nat) (f : Group → Group) : (s.updGroup g f).accepted = s.accepted := rfl
@[simp] theorem State.updGroup_mbx (s : State) (g : Nat) (f : Group → Group) : (s.updGroup g f).mbx = s.mbx := rfl
@[simp] theorem State.updGroup_evt (s : State) (g : Nat) (f : Group → Group) : (s.updGroup g f).evt = s.evt := rfl
@[simp] theorem State.updGroup_ports (s : State) (g : Nat) (f : Group → Group) : (s.updGroup g f).ports = s.ports := rfl
@[simp] theorem State.updGroup_hlt (s : State) (g : Nat) (f : Group → Group) : (s.updGroup g f).hlt = s.hlt := rfl
@[simp] theorem State.updGroup_pwr (s : State) (g : Nat) (f : Group → Group) : (s.updGroup g f).pwr = s.pwr := rfl
@[simp] theorem State.updGroup_boot (s : State) (g : Nat) (f : Group → Group) : (s.updGroup g f).boot = s.boot := rfl
@[simp] theorem State.updGroup_pkg (s : State) (g : Nat) (f : Group → Group) : (s.updGroup g f).pkg = s.pkg := rfl
@[simp] theorem State.updGroup_lastRead (s : State) (g : Nat) (f : Group → Group) : (s.updGroup g f).lastRead = s.lastRead := rfl
@[simp] theorem State.updGroup_lastEnd (s : State) (g : Nat) (f : Group → Group) : (s.updGroup g f).lastEnd = s.lastEnd := rfl
@[simp] theorem State.updGroup_deciding (s : State) (g : Nat) (f : Group → Group) : (s.updGroup g f).deciding = s.deciding := rfl
@[simp] theorem State.updGroup_freeCtr (s : State) (g : Nat) (f : Group → Group) : (s.updGroup g f).freeCtr = s.freeCtr := rfl
@[simp] theorem State.updGroup_pending (s : State) (g : Nat) (f : Group → Group) : (s.updGroup g f).pending = s.pending := rfl

-- ## State.updChan

@[simp] theorem State.updChan_glb (s : State) (g c : Nat) (f : Chan → Chan) : (s.updChan g c f).glb = s.glb := rfl
@[simp] theorem State.updChan_frm (s : State) (g c : Nat) (f : Chan → Chan) : (s.updChan g c f).frm = s.frm := rfl
@[simp] theorem State.updChan_mem (s : State) (g c : Nat) (f : Chan → Chan) : (s.updChan g c f).mem = s.mem := rfl
@[simp] theorem State.updChan_hbms (s : State) (g c : Nat) (f : Chan → Chan) : (s.updChan g c f).hbms = s.hbms := rfl
@[simp] theorem State.updChan_reds (s : State) (g c : Nat) (f : Chan → Chan) : (s.updChan g c f).reds = s.reds := rfl
@[simp] theorem State.updChan_tiles (s : State) (g c : Nat) (f : Chan → Chan) : (s.updChan g c f).tiles = s.tiles := rfl
@[simp] theorem State.updChan_dsp (s : State) (g c : Nat) (f : Chan → Chan) : (s.updChan g c f).dsp = s.dsp := rfl
@[simp] theorem State.updChan_ces (s : State) (g c : Nat) (f : Chan → Chan) : (s.updChan g c f).ces = s.ces := rfl
@[simp] theorem State.updChan_des (s : State) (g c : Nat) (f : Chan → Chan) : (s.updChan g c f).des = s.des := rfl
@[simp] theorem State.updChan_ses (s : State) (g c : Nat) (f : Chan → Chan) : (s.updChan g c f).ses = s.ses := rfl
@[simp] theorem State.updChan_dgt (s : State) (g c : Nat) (f : Chan → Chan) : (s.updChan g c f).dgt = s.dgt := rfl
@[simp] theorem State.updChan_casks (s : State) (g c : Nat) (f : Chan → Chan) : (s.updChan g c f).casks = s.casks := rfl
@[simp] theorem State.updChan_sto (s : State) (g c : Nat) (f : Chan → Chan) : (s.updChan g c f).sto = s.sto := rfl
@[simp] theorem State.updChan_parcels (s : State) (g c : Nat) (f : Chan → Chan) : (s.updChan g c f).parcels = s.parcels := rfl
@[simp] theorem State.updChan_pcl (s : State) (g c : Nat) (f : Chan → Chan) : (s.updChan g c f).pcl = s.pcl := rfl
@[simp] theorem State.updChan_wins (s : State) (g c : Nat) (f : Chan → Chan) : (s.updChan g c f).wins = s.wins := rfl
@[simp] theorem State.updChan_cmds (s : State) (g c : Nat) (f : Chan → Chan) : (s.updChan g c f).cmds = s.cmds := rfl
@[simp] theorem State.updChan_accepted (s : State) (g c : Nat) (f : Chan → Chan) : (s.updChan g c f).accepted = s.accepted := rfl
@[simp] theorem State.updChan_mbx (s : State) (g c : Nat) (f : Chan → Chan) : (s.updChan g c f).mbx = s.mbx := rfl
@[simp] theorem State.updChan_evt (s : State) (g c : Nat) (f : Chan → Chan) : (s.updChan g c f).evt = s.evt := rfl
@[simp] theorem State.updChan_ports (s : State) (g c : Nat) (f : Chan → Chan) : (s.updChan g c f).ports = s.ports := rfl
@[simp] theorem State.updChan_hlt (s : State) (g c : Nat) (f : Chan → Chan) : (s.updChan g c f).hlt = s.hlt := rfl
@[simp] theorem State.updChan_pwr (s : State) (g c : Nat) (f : Chan → Chan) : (s.updChan g c f).pwr = s.pwr := rfl
@[simp] theorem State.updChan_boot (s : State) (g c : Nat) (f : Chan → Chan) : (s.updChan g c f).boot = s.boot := rfl
@[simp] theorem State.updChan_pkg (s : State) (g c : Nat) (f : Chan → Chan) : (s.updChan g c f).pkg = s.pkg := rfl
@[simp] theorem State.updChan_lastRead (s : State) (g c : Nat) (f : Chan → Chan) : (s.updChan g c f).lastRead = s.lastRead := rfl
@[simp] theorem State.updChan_lastEnd (s : State) (g c : Nat) (f : Chan → Chan) : (s.updChan g c f).lastEnd = s.lastEnd := rfl
@[simp] theorem State.updChan_deciding (s : State) (g c : Nat) (f : Chan → Chan) : (s.updChan g c f).deciding = s.deciding := rfl
@[simp] theorem State.updChan_freeCtr (s : State) (g c : Nat) (f : Chan → Chan) : (s.updChan g c f).freeCtr = s.freeCtr := rfl
@[simp] theorem State.updChan_pending (s : State) (g c : Nat) (f : Chan → Chan) : (s.updChan g c f).pending = s.pending := rfl

-- ## State.updStack

@[simp] theorem State.updStack_glb (s : State) (k : Nat) (f : Stack → Stack) : (s.updStack k f).glb = s.glb := rfl
@[simp] theorem State.updStack_frm (s : State) (k : Nat) (f : Stack → Stack) : (s.updStack k f).frm = s.frm := rfl
@[simp] theorem State.updStack_mem (s : State) (k : Nat) (f : Stack → Stack) : (s.updStack k f).mem = s.mem := rfl
@[simp] theorem State.updStack_reds (s : State) (k : Nat) (f : Stack → Stack) : (s.updStack k f).reds = s.reds := rfl
@[simp] theorem State.updStack_tiles (s : State) (k : Nat) (f : Stack → Stack) : (s.updStack k f).tiles = s.tiles := rfl
@[simp] theorem State.updStack_dsp (s : State) (k : Nat) (f : Stack → Stack) : (s.updStack k f).dsp = s.dsp := rfl
@[simp] theorem State.updStack_groups (s : State) (k : Nat) (f : Stack → Stack) : (s.updStack k f).groups = s.groups := rfl
@[simp] theorem State.updStack_ces (s : State) (k : Nat) (f : Stack → Stack) : (s.updStack k f).ces = s.ces := rfl
@[simp] theorem State.updStack_des (s : State) (k : Nat) (f : Stack → Stack) : (s.updStack k f).des = s.des := rfl
@[simp] theorem State.updStack_ses (s : State) (k : Nat) (f : Stack → Stack) : (s.updStack k f).ses = s.ses := rfl
@[simp] theorem State.updStack_dgt (s : State) (k : Nat) (f : Stack → Stack) : (s.updStack k f).dgt = s.dgt := rfl
@[simp] theorem State.updStack_casks (s : State) (k : Nat) (f : Stack → Stack) : (s.updStack k f).casks = s.casks := rfl
@[simp] theorem State.updStack_sto (s : State) (k : Nat) (f : Stack → Stack) : (s.updStack k f).sto = s.sto := rfl
@[simp] theorem State.updStack_parcels (s : State) (k : Nat) (f : Stack → Stack) : (s.updStack k f).parcels = s.parcels := rfl
@[simp] theorem State.updStack_pcl (s : State) (k : Nat) (f : Stack → Stack) : (s.updStack k f).pcl = s.pcl := rfl
@[simp] theorem State.updStack_wins (s : State) (k : Nat) (f : Stack → Stack) : (s.updStack k f).wins = s.wins := rfl
@[simp] theorem State.updStack_cmds (s : State) (k : Nat) (f : Stack → Stack) : (s.updStack k f).cmds = s.cmds := rfl
@[simp] theorem State.updStack_accepted (s : State) (k : Nat) (f : Stack → Stack) : (s.updStack k f).accepted = s.accepted := rfl
@[simp] theorem State.updStack_mbx (s : State) (k : Nat) (f : Stack → Stack) : (s.updStack k f).mbx = s.mbx := rfl
@[simp] theorem State.updStack_evt (s : State) (k : Nat) (f : Stack → Stack) : (s.updStack k f).evt = s.evt := rfl
@[simp] theorem State.updStack_ports (s : State) (k : Nat) (f : Stack → Stack) : (s.updStack k f).ports = s.ports := rfl
@[simp] theorem State.updStack_hlt (s : State) (k : Nat) (f : Stack → Stack) : (s.updStack k f).hlt = s.hlt := rfl
@[simp] theorem State.updStack_pwr (s : State) (k : Nat) (f : Stack → Stack) : (s.updStack k f).pwr = s.pwr := rfl
@[simp] theorem State.updStack_boot (s : State) (k : Nat) (f : Stack → Stack) : (s.updStack k f).boot = s.boot := rfl
@[simp] theorem State.updStack_pkg (s : State) (k : Nat) (f : Stack → Stack) : (s.updStack k f).pkg = s.pkg := rfl
@[simp] theorem State.updStack_lastRead (s : State) (k : Nat) (f : Stack → Stack) : (s.updStack k f).lastRead = s.lastRead := rfl
@[simp] theorem State.updStack_lastEnd (s : State) (k : Nat) (f : Stack → Stack) : (s.updStack k f).lastEnd = s.lastEnd := rfl
@[simp] theorem State.updStack_deciding (s : State) (k : Nat) (f : Stack → Stack) : (s.updStack k f).deciding = s.deciding := rfl
@[simp] theorem State.updStack_freeCtr (s : State) (k : Nat) (f : Stack → Stack) : (s.updStack k f).freeCtr = s.freeCtr := rfl
@[simp] theorem State.updStack_pending (s : State) (k : Nat) (f : Stack → Stack) : (s.updStack k f).pending = s.pending := rfl

-- ## State.updCask

@[simp] theorem State.updCask_glb (s : State) (n : Nat) (f : Cask → Cask) : (s.updCask n f).glb = s.glb := rfl
@[simp] theorem State.updCask_frm (s : State) (n : Nat) (f : Cask → Cask) : (s.updCask n f).frm = s.frm := rfl
@[simp] theorem State.updCask_mem (s : State) (n : Nat) (f : Cask → Cask) : (s.updCask n f).mem = s.mem := rfl
@[simp] theorem State.updCask_hbms (s : State) (n : Nat) (f : Cask → Cask) : (s.updCask n f).hbms = s.hbms := rfl
@[simp] theorem State.updCask_reds (s : State) (n : Nat) (f : Cask → Cask) : (s.updCask n f).reds = s.reds := rfl
@[simp] theorem State.updCask_tiles (s : State) (n : Nat) (f : Cask → Cask) : (s.updCask n f).tiles = s.tiles := rfl
@[simp] theorem State.updCask_dsp (s : State) (n : Nat) (f : Cask → Cask) : (s.updCask n f).dsp = s.dsp := rfl
@[simp] theorem State.updCask_groups (s : State) (n : Nat) (f : Cask → Cask) : (s.updCask n f).groups = s.groups := rfl
@[simp] theorem State.updCask_ces (s : State) (n : Nat) (f : Cask → Cask) : (s.updCask n f).ces = s.ces := rfl
@[simp] theorem State.updCask_des (s : State) (n : Nat) (f : Cask → Cask) : (s.updCask n f).des = s.des := rfl
@[simp] theorem State.updCask_ses (s : State) (n : Nat) (f : Cask → Cask) : (s.updCask n f).ses = s.ses := rfl
@[simp] theorem State.updCask_dgt (s : State) (n : Nat) (f : Cask → Cask) : (s.updCask n f).dgt = s.dgt := rfl
@[simp] theorem State.updCask_sto (s : State) (n : Nat) (f : Cask → Cask) : (s.updCask n f).sto = s.sto := rfl
@[simp] theorem State.updCask_parcels (s : State) (n : Nat) (f : Cask → Cask) : (s.updCask n f).parcels = s.parcels := rfl
@[simp] theorem State.updCask_pcl (s : State) (n : Nat) (f : Cask → Cask) : (s.updCask n f).pcl = s.pcl := rfl
@[simp] theorem State.updCask_wins (s : State) (n : Nat) (f : Cask → Cask) : (s.updCask n f).wins = s.wins := rfl
@[simp] theorem State.updCask_cmds (s : State) (n : Nat) (f : Cask → Cask) : (s.updCask n f).cmds = s.cmds := rfl
@[simp] theorem State.updCask_accepted (s : State) (n : Nat) (f : Cask → Cask) : (s.updCask n f).accepted = s.accepted := rfl
@[simp] theorem State.updCask_mbx (s : State) (n : Nat) (f : Cask → Cask) : (s.updCask n f).mbx = s.mbx := rfl
@[simp] theorem State.updCask_evt (s : State) (n : Nat) (f : Cask → Cask) : (s.updCask n f).evt = s.evt := rfl
@[simp] theorem State.updCask_ports (s : State) (n : Nat) (f : Cask → Cask) : (s.updCask n f).ports = s.ports := rfl
@[simp] theorem State.updCask_hlt (s : State) (n : Nat) (f : Cask → Cask) : (s.updCask n f).hlt = s.hlt := rfl
@[simp] theorem State.updCask_pwr (s : State) (n : Nat) (f : Cask → Cask) : (s.updCask n f).pwr = s.pwr := rfl
@[simp] theorem State.updCask_boot (s : State) (n : Nat) (f : Cask → Cask) : (s.updCask n f).boot = s.boot := rfl
@[simp] theorem State.updCask_pkg (s : State) (n : Nat) (f : Cask → Cask) : (s.updCask n f).pkg = s.pkg := rfl
@[simp] theorem State.updCask_lastRead (s : State) (n : Nat) (f : Cask → Cask) : (s.updCask n f).lastRead = s.lastRead := rfl
@[simp] theorem State.updCask_lastEnd (s : State) (n : Nat) (f : Cask → Cask) : (s.updCask n f).lastEnd = s.lastEnd := rfl
@[simp] theorem State.updCask_deciding (s : State) (n : Nat) (f : Cask → Cask) : (s.updCask n f).deciding = s.deciding := rfl
@[simp] theorem State.updCask_freeCtr (s : State) (n : Nat) (f : Cask → Cask) : (s.updCask n f).freeCtr = s.freeCtr := rfl
@[simp] theorem State.updCask_pending (s : State) (n : Nat) (f : Cask → Cask) : (s.updCask n f).pending = s.pending := rfl

-- ## State.updWin

@[simp] theorem State.updWin_glb (s : State) (w : Window) (f : Win → Win) : (s.updWin w f).glb = s.glb := rfl
@[simp] theorem State.updWin_frm (s : State) (w : Window) (f : Win → Win) : (s.updWin w f).frm = s.frm := rfl
@[simp] theorem State.updWin_mem (s : State) (w : Window) (f : Win → Win) : (s.updWin w f).mem = s.mem := rfl
@[simp] theorem State.updWin_hbms (s : State) (w : Window) (f : Win → Win) : (s.updWin w f).hbms = s.hbms := rfl
@[simp] theorem State.updWin_reds (s : State) (w : Window) (f : Win → Win) : (s.updWin w f).reds = s.reds := rfl
@[simp] theorem State.updWin_tiles (s : State) (w : Window) (f : Win → Win) : (s.updWin w f).tiles = s.tiles := rfl
@[simp] theorem State.updWin_dsp (s : State) (w : Window) (f : Win → Win) : (s.updWin w f).dsp = s.dsp := rfl
@[simp] theorem State.updWin_groups (s : State) (w : Window) (f : Win → Win) : (s.updWin w f).groups = s.groups := rfl
@[simp] theorem State.updWin_ces (s : State) (w : Window) (f : Win → Win) : (s.updWin w f).ces = s.ces := rfl
@[simp] theorem State.updWin_des (s : State) (w : Window) (f : Win → Win) : (s.updWin w f).des = s.des := rfl
@[simp] theorem State.updWin_ses (s : State) (w : Window) (f : Win → Win) : (s.updWin w f).ses = s.ses := rfl
@[simp] theorem State.updWin_dgt (s : State) (w : Window) (f : Win → Win) : (s.updWin w f).dgt = s.dgt := rfl
@[simp] theorem State.updWin_casks (s : State) (w : Window) (f : Win → Win) : (s.updWin w f).casks = s.casks := rfl
@[simp] theorem State.updWin_sto (s : State) (w : Window) (f : Win → Win) : (s.updWin w f).sto = s.sto := rfl
@[simp] theorem State.updWin_parcels (s : State) (w : Window) (f : Win → Win) : (s.updWin w f).parcels = s.parcels := rfl
@[simp] theorem State.updWin_pcl (s : State) (w : Window) (f : Win → Win) : (s.updWin w f).pcl = s.pcl := rfl
@[simp] theorem State.updWin_cmds (s : State) (w : Window) (f : Win → Win) : (s.updWin w f).cmds = s.cmds := rfl
@[simp] theorem State.updWin_accepted (s : State) (w : Window) (f : Win → Win) : (s.updWin w f).accepted = s.accepted := rfl
@[simp] theorem State.updWin_mbx (s : State) (w : Window) (f : Win → Win) : (s.updWin w f).mbx = s.mbx := rfl
@[simp] theorem State.updWin_evt (s : State) (w : Window) (f : Win → Win) : (s.updWin w f).evt = s.evt := rfl
@[simp] theorem State.updWin_ports (s : State) (w : Window) (f : Win → Win) : (s.updWin w f).ports = s.ports := rfl
@[simp] theorem State.updWin_hlt (s : State) (w : Window) (f : Win → Win) : (s.updWin w f).hlt = s.hlt := rfl
@[simp] theorem State.updWin_pwr (s : State) (w : Window) (f : Win → Win) : (s.updWin w f).pwr = s.pwr := rfl
@[simp] theorem State.updWin_boot (s : State) (w : Window) (f : Win → Win) : (s.updWin w f).boot = s.boot := rfl
@[simp] theorem State.updWin_pkg (s : State) (w : Window) (f : Win → Win) : (s.updWin w f).pkg = s.pkg := rfl
@[simp] theorem State.updWin_lastRead (s : State) (w : Window) (f : Win → Win) : (s.updWin w f).lastRead = s.lastRead := rfl
@[simp] theorem State.updWin_lastEnd (s : State) (w : Window) (f : Win → Win) : (s.updWin w f).lastEnd = s.lastEnd := rfl
@[simp] theorem State.updWin_deciding (s : State) (w : Window) (f : Win → Win) : (s.updWin w f).deciding = s.deciding := rfl
@[simp] theorem State.updWin_freeCtr (s : State) (w : Window) (f : Win → Win) : (s.updWin w f).freeCtr = s.freeCtr := rfl
@[simp] theorem State.updWin_pending (s : State) (w : Window) (f : Win → Win) : (s.updWin w f).pending = s.pending := rfl

-- ## State.updMchan

@[simp] theorem State.updMchan_glb (s : State) (c : Nat) (f : Mbx → Mbx) : (s.updMchan c f).glb = s.glb := rfl
@[simp] theorem State.updMchan_frm (s : State) (c : Nat) (f : Mbx → Mbx) : (s.updMchan c f).frm = s.frm := rfl
@[simp] theorem State.updMchan_mem (s : State) (c : Nat) (f : Mbx → Mbx) : (s.updMchan c f).mem = s.mem := rfl
@[simp] theorem State.updMchan_hbms (s : State) (c : Nat) (f : Mbx → Mbx) : (s.updMchan c f).hbms = s.hbms := rfl
@[simp] theorem State.updMchan_reds (s : State) (c : Nat) (f : Mbx → Mbx) : (s.updMchan c f).reds = s.reds := rfl
@[simp] theorem State.updMchan_tiles (s : State) (c : Nat) (f : Mbx → Mbx) : (s.updMchan c f).tiles = s.tiles := rfl
@[simp] theorem State.updMchan_dsp (s : State) (c : Nat) (f : Mbx → Mbx) : (s.updMchan c f).dsp = s.dsp := rfl
@[simp] theorem State.updMchan_groups (s : State) (c : Nat) (f : Mbx → Mbx) : (s.updMchan c f).groups = s.groups := rfl
@[simp] theorem State.updMchan_ces (s : State) (c : Nat) (f : Mbx → Mbx) : (s.updMchan c f).ces = s.ces := rfl
@[simp] theorem State.updMchan_des (s : State) (c : Nat) (f : Mbx → Mbx) : (s.updMchan c f).des = s.des := rfl
@[simp] theorem State.updMchan_ses (s : State) (c : Nat) (f : Mbx → Mbx) : (s.updMchan c f).ses = s.ses := rfl
@[simp] theorem State.updMchan_dgt (s : State) (c : Nat) (f : Mbx → Mbx) : (s.updMchan c f).dgt = s.dgt := rfl
@[simp] theorem State.updMchan_casks (s : State) (c : Nat) (f : Mbx → Mbx) : (s.updMchan c f).casks = s.casks := rfl
@[simp] theorem State.updMchan_sto (s : State) (c : Nat) (f : Mbx → Mbx) : (s.updMchan c f).sto = s.sto := rfl
@[simp] theorem State.updMchan_parcels (s : State) (c : Nat) (f : Mbx → Mbx) : (s.updMchan c f).parcels = s.parcels := rfl
@[simp] theorem State.updMchan_pcl (s : State) (c : Nat) (f : Mbx → Mbx) : (s.updMchan c f).pcl = s.pcl := rfl
@[simp] theorem State.updMchan_wins (s : State) (c : Nat) (f : Mbx → Mbx) : (s.updMchan c f).wins = s.wins := rfl
@[simp] theorem State.updMchan_cmds (s : State) (c : Nat) (f : Mbx → Mbx) : (s.updMchan c f).cmds = s.cmds := rfl
@[simp] theorem State.updMchan_accepted (s : State) (c : Nat) (f : Mbx → Mbx) : (s.updMchan c f).accepted = s.accepted := rfl
@[simp] theorem State.updMchan_evt (s : State) (c : Nat) (f : Mbx → Mbx) : (s.updMchan c f).evt = s.evt := rfl
@[simp] theorem State.updMchan_ports (s : State) (c : Nat) (f : Mbx → Mbx) : (s.updMchan c f).ports = s.ports := rfl
@[simp] theorem State.updMchan_hlt (s : State) (c : Nat) (f : Mbx → Mbx) : (s.updMchan c f).hlt = s.hlt := rfl
@[simp] theorem State.updMchan_pwr (s : State) (c : Nat) (f : Mbx → Mbx) : (s.updMchan c f).pwr = s.pwr := rfl
@[simp] theorem State.updMchan_boot (s : State) (c : Nat) (f : Mbx → Mbx) : (s.updMchan c f).boot = s.boot := rfl
@[simp] theorem State.updMchan_pkg (s : State) (c : Nat) (f : Mbx → Mbx) : (s.updMchan c f).pkg = s.pkg := rfl
@[simp] theorem State.updMchan_lastRead (s : State) (c : Nat) (f : Mbx → Mbx) : (s.updMchan c f).lastRead = s.lastRead := rfl
@[simp] theorem State.updMchan_lastEnd (s : State) (c : Nat) (f : Mbx → Mbx) : (s.updMchan c f).lastEnd = s.lastEnd := rfl
@[simp] theorem State.updMchan_deciding (s : State) (c : Nat) (f : Mbx → Mbx) : (s.updMchan c f).deciding = s.deciding := rfl
@[simp] theorem State.updMchan_freeCtr (s : State) (c : Nat) (f : Mbx → Mbx) : (s.updMchan c f).freeCtr = s.freeCtr := rfl
@[simp] theorem State.updMchan_pending (s : State) (c : Nat) (f : Mbx → Mbx) : (s.updMchan c f).pending = s.pending := rfl

-- ## State.updFrm

@[simp] theorem State.updFrm_glb (s : State) (f : Frm → Frm) : (s.updFrm f).glb = s.glb := rfl
@[simp] theorem State.updFrm_mem (s : State) (f : Frm → Frm) : (s.updFrm f).mem = s.mem := rfl
@[simp] theorem State.updFrm_hbms (s : State) (f : Frm → Frm) : (s.updFrm f).hbms = s.hbms := rfl
@[simp] theorem State.updFrm_reds (s : State) (f : Frm → Frm) : (s.updFrm f).reds = s.reds := rfl
@[simp] theorem State.updFrm_tiles (s : State) (f : Frm → Frm) : (s.updFrm f).tiles = s.tiles := rfl
@[simp] theorem State.updFrm_dsp (s : State) (f : Frm → Frm) : (s.updFrm f).dsp = s.dsp := rfl
@[simp] theorem State.updFrm_groups (s : State) (f : Frm → Frm) : (s.updFrm f).groups = s.groups := rfl
@[simp] theorem State.updFrm_ces (s : State) (f : Frm → Frm) : (s.updFrm f).ces = s.ces := rfl
@[simp] theorem State.updFrm_des (s : State) (f : Frm → Frm) : (s.updFrm f).des = s.des := rfl
@[simp] theorem State.updFrm_ses (s : State) (f : Frm → Frm) : (s.updFrm f).ses = s.ses := rfl
@[simp] theorem State.updFrm_dgt (s : State) (f : Frm → Frm) : (s.updFrm f).dgt = s.dgt := rfl
@[simp] theorem State.updFrm_casks (s : State) (f : Frm → Frm) : (s.updFrm f).casks = s.casks := rfl
@[simp] theorem State.updFrm_sto (s : State) (f : Frm → Frm) : (s.updFrm f).sto = s.sto := rfl
@[simp] theorem State.updFrm_parcels (s : State) (f : Frm → Frm) : (s.updFrm f).parcels = s.parcels := rfl
@[simp] theorem State.updFrm_pcl (s : State) (f : Frm → Frm) : (s.updFrm f).pcl = s.pcl := rfl
@[simp] theorem State.updFrm_wins (s : State) (f : Frm → Frm) : (s.updFrm f).wins = s.wins := rfl
@[simp] theorem State.updFrm_cmds (s : State) (f : Frm → Frm) : (s.updFrm f).cmds = s.cmds := rfl
@[simp] theorem State.updFrm_accepted (s : State) (f : Frm → Frm) : (s.updFrm f).accepted = s.accepted := rfl
@[simp] theorem State.updFrm_mbx (s : State) (f : Frm → Frm) : (s.updFrm f).mbx = s.mbx := rfl
@[simp] theorem State.updFrm_evt (s : State) (f : Frm → Frm) : (s.updFrm f).evt = s.evt := rfl
@[simp] theorem State.updFrm_ports (s : State) (f : Frm → Frm) : (s.updFrm f).ports = s.ports := rfl
@[simp] theorem State.updFrm_hlt (s : State) (f : Frm → Frm) : (s.updFrm f).hlt = s.hlt := rfl
@[simp] theorem State.updFrm_pwr (s : State) (f : Frm → Frm) : (s.updFrm f).pwr = s.pwr := rfl
@[simp] theorem State.updFrm_boot (s : State) (f : Frm → Frm) : (s.updFrm f).boot = s.boot := rfl
@[simp] theorem State.updFrm_pkg (s : State) (f : Frm → Frm) : (s.updFrm f).pkg = s.pkg := rfl
@[simp] theorem State.updFrm_lastRead (s : State) (f : Frm → Frm) : (s.updFrm f).lastRead = s.lastRead := rfl
@[simp] theorem State.updFrm_lastEnd (s : State) (f : Frm → Frm) : (s.updFrm f).lastEnd = s.lastEnd := rfl
@[simp] theorem State.updFrm_deciding (s : State) (f : Frm → Frm) : (s.updFrm f).deciding = s.deciding := rfl
@[simp] theorem State.updFrm_freeCtr (s : State) (f : Frm → Frm) : (s.updFrm f).freeCtr = s.freeCtr := rfl
@[simp] theorem State.updFrm_pending (s : State) (f : Frm → Frm) : (s.updFrm f).pending = s.pending := rfl

-- ## State.tsWrite

@[simp] theorem State.tsWrite_glb (s : State) (t off : Nat) (bs : List Byte) : (s.tsWrite t off bs).glb = s.glb := rfl
@[simp] theorem State.tsWrite_frm (s : State) (t off : Nat) (bs : List Byte) : (s.tsWrite t off bs).frm = s.frm := rfl
@[simp] theorem State.tsWrite_hbms (s : State) (t off : Nat) (bs : List Byte) : (s.tsWrite t off bs).hbms = s.hbms := rfl
@[simp] theorem State.tsWrite_reds (s : State) (t off : Nat) (bs : List Byte) : (s.tsWrite t off bs).reds = s.reds := rfl
@[simp] theorem State.tsWrite_tiles (s : State) (t off : Nat) (bs : List Byte) : (s.tsWrite t off bs).tiles = s.tiles := rfl
@[simp] theorem State.tsWrite_dsp (s : State) (t off : Nat) (bs : List Byte) : (s.tsWrite t off bs).dsp = s.dsp := rfl
@[simp] theorem State.tsWrite_groups (s : State) (t off : Nat) (bs : List Byte) : (s.tsWrite t off bs).groups = s.groups := rfl
@[simp] theorem State.tsWrite_ces (s : State) (t off : Nat) (bs : List Byte) : (s.tsWrite t off bs).ces = s.ces := rfl
@[simp] theorem State.tsWrite_des (s : State) (t off : Nat) (bs : List Byte) : (s.tsWrite t off bs).des = s.des := rfl
@[simp] theorem State.tsWrite_ses (s : State) (t off : Nat) (bs : List Byte) : (s.tsWrite t off bs).ses = s.ses := rfl
@[simp] theorem State.tsWrite_dgt (s : State) (t off : Nat) (bs : List Byte) : (s.tsWrite t off bs).dgt = s.dgt := rfl
@[simp] theorem State.tsWrite_casks (s : State) (t off : Nat) (bs : List Byte) : (s.tsWrite t off bs).casks = s.casks := rfl
@[simp] theorem State.tsWrite_sto (s : State) (t off : Nat) (bs : List Byte) : (s.tsWrite t off bs).sto = s.sto := rfl
@[simp] theorem State.tsWrite_parcels (s : State) (t off : Nat) (bs : List Byte) : (s.tsWrite t off bs).parcels = s.parcels := rfl
@[simp] theorem State.tsWrite_pcl (s : State) (t off : Nat) (bs : List Byte) : (s.tsWrite t off bs).pcl = s.pcl := rfl
@[simp] theorem State.tsWrite_wins (s : State) (t off : Nat) (bs : List Byte) : (s.tsWrite t off bs).wins = s.wins := rfl
@[simp] theorem State.tsWrite_cmds (s : State) (t off : Nat) (bs : List Byte) : (s.tsWrite t off bs).cmds = s.cmds := rfl
@[simp] theorem State.tsWrite_accepted (s : State) (t off : Nat) (bs : List Byte) : (s.tsWrite t off bs).accepted = s.accepted := rfl
@[simp] theorem State.tsWrite_mbx (s : State) (t off : Nat) (bs : List Byte) : (s.tsWrite t off bs).mbx = s.mbx := rfl
@[simp] theorem State.tsWrite_evt (s : State) (t off : Nat) (bs : List Byte) : (s.tsWrite t off bs).evt = s.evt := rfl
@[simp] theorem State.tsWrite_ports (s : State) (t off : Nat) (bs : List Byte) : (s.tsWrite t off bs).ports = s.ports := rfl
@[simp] theorem State.tsWrite_hlt (s : State) (t off : Nat) (bs : List Byte) : (s.tsWrite t off bs).hlt = s.hlt := rfl
@[simp] theorem State.tsWrite_pwr (s : State) (t off : Nat) (bs : List Byte) : (s.tsWrite t off bs).pwr = s.pwr := rfl
@[simp] theorem State.tsWrite_boot (s : State) (t off : Nat) (bs : List Byte) : (s.tsWrite t off bs).boot = s.boot := rfl
@[simp] theorem State.tsWrite_pkg (s : State) (t off : Nat) (bs : List Byte) : (s.tsWrite t off bs).pkg = s.pkg := rfl
@[simp] theorem State.tsWrite_lastRead (s : State) (t off : Nat) (bs : List Byte) : (s.tsWrite t off bs).lastRead = s.lastRead := rfl
@[simp] theorem State.tsWrite_lastEnd (s : State) (t off : Nat) (bs : List Byte) : (s.tsWrite t off bs).lastEnd = s.lastEnd := rfl
@[simp] theorem State.tsWrite_deciding (s : State) (t off : Nat) (bs : List Byte) : (s.tsWrite t off bs).deciding = s.deciding := rfl
@[simp] theorem State.tsWrite_freeCtr (s : State) (t off : Nat) (bs : List Byte) : (s.tsWrite t off bs).freeCtr = s.freeCtr := rfl
@[simp] theorem State.tsWrite_pending (s : State) (t off : Nat) (bs : List Byte) : (s.tsWrite t off bs).pending = s.pending := rfl

-- ## State.forget

@[simp] theorem State.forget_glb (s : State) (lo hi : Nat) : (s.forget lo hi).glb = s.glb := rfl
@[simp] theorem State.forget_frm (s : State) (lo hi : Nat) : (s.forget lo hi).frm = s.frm := rfl
@[simp] theorem State.forget_hbms (s : State) (lo hi : Nat) : (s.forget lo hi).hbms = s.hbms := rfl
@[simp] theorem State.forget_reds (s : State) (lo hi : Nat) : (s.forget lo hi).reds = s.reds := rfl
@[simp] theorem State.forget_tiles (s : State) (lo hi : Nat) : (s.forget lo hi).tiles = s.tiles := rfl
@[simp] theorem State.forget_dsp (s : State) (lo hi : Nat) : (s.forget lo hi).dsp = s.dsp := rfl
@[simp] theorem State.forget_groups (s : State) (lo hi : Nat) : (s.forget lo hi).groups = s.groups := rfl
@[simp] theorem State.forget_ces (s : State) (lo hi : Nat) : (s.forget lo hi).ces = s.ces := rfl
@[simp] theorem State.forget_des (s : State) (lo hi : Nat) : (s.forget lo hi).des = s.des := rfl
@[simp] theorem State.forget_ses (s : State) (lo hi : Nat) : (s.forget lo hi).ses = s.ses := rfl
@[simp] theorem State.forget_dgt (s : State) (lo hi : Nat) : (s.forget lo hi).dgt = s.dgt := rfl
@[simp] theorem State.forget_casks (s : State) (lo hi : Nat) : (s.forget lo hi).casks = s.casks := rfl
@[simp] theorem State.forget_sto (s : State) (lo hi : Nat) : (s.forget lo hi).sto = s.sto := rfl
@[simp] theorem State.forget_parcels (s : State) (lo hi : Nat) : (s.forget lo hi).parcels = s.parcels := rfl
@[simp] theorem State.forget_pcl (s : State) (lo hi : Nat) : (s.forget lo hi).pcl = s.pcl := rfl
@[simp] theorem State.forget_wins (s : State) (lo hi : Nat) : (s.forget lo hi).wins = s.wins := rfl
@[simp] theorem State.forget_cmds (s : State) (lo hi : Nat) : (s.forget lo hi).cmds = s.cmds := rfl
@[simp] theorem State.forget_accepted (s : State) (lo hi : Nat) : (s.forget lo hi).accepted = s.accepted := rfl
@[simp] theorem State.forget_mbx (s : State) (lo hi : Nat) : (s.forget lo hi).mbx = s.mbx := rfl
@[simp] theorem State.forget_evt (s : State) (lo hi : Nat) : (s.forget lo hi).evt = s.evt := rfl
@[simp] theorem State.forget_ports (s : State) (lo hi : Nat) : (s.forget lo hi).ports = s.ports := rfl
@[simp] theorem State.forget_hlt (s : State) (lo hi : Nat) : (s.forget lo hi).hlt = s.hlt := rfl
@[simp] theorem State.forget_pwr (s : State) (lo hi : Nat) : (s.forget lo hi).pwr = s.pwr := rfl
@[simp] theorem State.forget_boot (s : State) (lo hi : Nat) : (s.forget lo hi).boot = s.boot := rfl
@[simp] theorem State.forget_pkg (s : State) (lo hi : Nat) : (s.forget lo hi).pkg = s.pkg := rfl
@[simp] theorem State.forget_lastRead (s : State) (lo hi : Nat) : (s.forget lo hi).lastRead = s.lastRead := rfl
@[simp] theorem State.forget_lastEnd (s : State) (lo hi : Nat) : (s.forget lo hi).lastEnd = s.lastEnd := rfl
@[simp] theorem State.forget_deciding (s : State) (lo hi : Nat) : (s.forget lo hi).deciding = s.deciding := rfl
@[simp] theorem State.forget_freeCtr (s : State) (lo hi : Nat) : (s.forget lo hi).freeCtr = s.freeCtr := rfl
@[simp] theorem State.forget_pending (s : State) (lo hi : Nat) : (s.forget lo hi).pending = s.pending := rfl

-- ## State.updEng

@[simp] theorem State.updEng_glb (s : State) (k : EngKind) (n : Nat) (f : Engine → Engine) : (s.updEng k n f).glb = s.glb := by
  cases k <;> rfl
@[simp] theorem State.updEng_frm (s : State) (k : EngKind) (n : Nat) (f : Engine → Engine) : (s.updEng k n f).frm = s.frm := by
  cases k <;> rfl
@[simp] theorem State.updEng_mem (s : State) (k : EngKind) (n : Nat) (f : Engine → Engine) : (s.updEng k n f).mem = s.mem := by
  cases k <;> rfl
@[simp] theorem State.updEng_hbms (s : State) (k : EngKind) (n : Nat) (f : Engine → Engine) : (s.updEng k n f).hbms = s.hbms := by
  cases k <;> rfl
@[simp] theorem State.updEng_reds (s : State) (k : EngKind) (n : Nat) (f : Engine → Engine) : (s.updEng k n f).reds = s.reds := by
  cases k <;> rfl
@[simp] theorem State.updEng_tiles (s : State) (k : EngKind) (n : Nat) (f : Engine → Engine) : (s.updEng k n f).tiles = s.tiles := by
  cases k <;> rfl
@[simp] theorem State.updEng_dsp (s : State) (k : EngKind) (n : Nat) (f : Engine → Engine) : (s.updEng k n f).dsp = s.dsp := by
  cases k <;> rfl
@[simp] theorem State.updEng_groups (s : State) (k : EngKind) (n : Nat) (f : Engine → Engine) : (s.updEng k n f).groups = s.groups := by
  cases k <;> rfl
@[simp] theorem State.updEng_dgt (s : State) (k : EngKind) (n : Nat) (f : Engine → Engine) : (s.updEng k n f).dgt = s.dgt := by
  cases k <;> rfl
@[simp] theorem State.updEng_casks (s : State) (k : EngKind) (n : Nat) (f : Engine → Engine) : (s.updEng k n f).casks = s.casks := by
  cases k <;> rfl
@[simp] theorem State.updEng_sto (s : State) (k : EngKind) (n : Nat) (f : Engine → Engine) : (s.updEng k n f).sto = s.sto := by
  cases k <;> rfl
@[simp] theorem State.updEng_parcels (s : State) (k : EngKind) (n : Nat) (f : Engine → Engine) : (s.updEng k n f).parcels = s.parcels := by
  cases k <;> rfl
@[simp] theorem State.updEng_pcl (s : State) (k : EngKind) (n : Nat) (f : Engine → Engine) : (s.updEng k n f).pcl = s.pcl := by
  cases k <;> rfl
@[simp] theorem State.updEng_wins (s : State) (k : EngKind) (n : Nat) (f : Engine → Engine) : (s.updEng k n f).wins = s.wins := by
  cases k <;> rfl
@[simp] theorem State.updEng_cmds (s : State) (k : EngKind) (n : Nat) (f : Engine → Engine) : (s.updEng k n f).cmds = s.cmds := by
  cases k <;> rfl
@[simp] theorem State.updEng_accepted (s : State) (k : EngKind) (n : Nat) (f : Engine → Engine) : (s.updEng k n f).accepted = s.accepted := by
  cases k <;> rfl
@[simp] theorem State.updEng_mbx (s : State) (k : EngKind) (n : Nat) (f : Engine → Engine) : (s.updEng k n f).mbx = s.mbx := by
  cases k <;> rfl
@[simp] theorem State.updEng_evt (s : State) (k : EngKind) (n : Nat) (f : Engine → Engine) : (s.updEng k n f).evt = s.evt := by
  cases k <;> rfl
@[simp] theorem State.updEng_ports (s : State) (k : EngKind) (n : Nat) (f : Engine → Engine) : (s.updEng k n f).ports = s.ports := by
  cases k <;> rfl
@[simp] theorem State.updEng_hlt (s : State) (k : EngKind) (n : Nat) (f : Engine → Engine) : (s.updEng k n f).hlt = s.hlt := by
  cases k <;> rfl
@[simp] theorem State.updEng_pwr (s : State) (k : EngKind) (n : Nat) (f : Engine → Engine) : (s.updEng k n f).pwr = s.pwr := by
  cases k <;> rfl
@[simp] theorem State.updEng_boot (s : State) (k : EngKind) (n : Nat) (f : Engine → Engine) : (s.updEng k n f).boot = s.boot := by
  cases k <;> rfl
@[simp] theorem State.updEng_pkg (s : State) (k : EngKind) (n : Nat) (f : Engine → Engine) : (s.updEng k n f).pkg = s.pkg := by
  cases k <;> rfl
@[simp] theorem State.updEng_lastRead (s : State) (k : EngKind) (n : Nat) (f : Engine → Engine) : (s.updEng k n f).lastRead = s.lastRead := by
  cases k <;> rfl
@[simp] theorem State.updEng_lastEnd (s : State) (k : EngKind) (n : Nat) (f : Engine → Engine) : (s.updEng k n f).lastEnd = s.lastEnd := by
  cases k <;> rfl
@[simp] theorem State.updEng_deciding (s : State) (k : EngKind) (n : Nat) (f : Engine → Engine) : (s.updEng k n f).deciding = s.deciding := by
  cases k <;> rfl
@[simp] theorem State.updEng_freeCtr (s : State) (k : EngKind) (n : Nat) (f : Engine → Engine) : (s.updEng k n f).freeCtr = s.freeCtr := by
  cases k <;> rfl
@[simp] theorem State.updEng_pending (s : State) (k : EngKind) (n : Nat) (f : Engine → Engine) : (s.updEng k n f).pending = s.pending := by
  cases k <;> rfl

-- ## Two updates of one unit are one

@[simp] theorem State.updTile_twice (s : State) (t : Nat) (f g : Tile → Tile) : (s.updTile t f).updTile t g = s.updTile t fun x => g (f x) := by
  simp [State.updTile]
@[simp] theorem State.updParcel_twice (s : State) (p : Nat) (f g : Parcel → Parcel) : (s.updParcel p f).updParcel p g = s.updParcel p fun x => g (f x) := by
  simp [State.updParcel]
@[simp] theorem State.updGroup_twice (s : State) (n : Nat) (f g : Group → Group) : (s.updGroup n f).updGroup n g = s.updGroup n fun x => g (f x) := by
  simp [State.updGroup]
@[simp] theorem State.updStack_twice (s : State) (k : Nat) (f g : Stack → Stack) : (s.updStack k f).updStack k g = s.updStack k fun x => g (f x) := by
  simp [State.updStack]
@[simp] theorem State.updCask_twice (s : State) (n : Nat) (f g : Cask → Cask) : (s.updCask n f).updCask n g = s.updCask n fun x => g (f x) := by
  simp [State.updCask]
@[simp] theorem State.updMchan_twice (s : State) (c : Nat) (f g : Mbx → Mbx) : (s.updMchan c f).updMchan c g = s.updMchan c fun x => g (f x) := by
  simp [State.updMchan]
@[simp] theorem State.updWin_twice (s : State) (w : Window) (f g : Win → Win) : (s.updWin w f).updWin w g = s.updWin w fun x => g (f x) := by
  simp [State.updWin]
@[simp] theorem State.updEng_twice (s : State) (k : EngKind) (n : Nat) (f g : Engine → Engine) :
    (s.updEng k n f).updEng k n g = s.updEng k n fun x => g (f x) := by
  cases k <;> simp [State.updEng]

-- ## The unit that an update changes

@[simp] theorem State.updTile_tile (s : State) (k : Nat) (f : Tile → Tile) : (s.updTile k f).tile k = f (s.tile k) := by
  simp [State.updTile, State.tile]
theorem State.updTile_tile_ne (s : State) {k i : Nat} (f : Tile → Tile) (h : i ≠ k) : (s.updTile k f).tile i = s.tile i := by
  simp [State.updTile, State.tile, Tab.get_upd_ne _ _ _ h]
@[simp] theorem State.updParcel_parcel (s : State) (k : Nat) (f : Parcel → Parcel) : (s.updParcel k f).parcel k = f (s.parcel k) := by
  simp [State.updParcel, State.parcel]
theorem State.updParcel_parcel_ne (s : State) {k i : Nat} (f : Parcel → Parcel) (h : i ≠ k) : (s.updParcel k f).parcel i = s.parcel i := by
  simp [State.updParcel, State.parcel, Tab.get_upd_ne _ _ _ h]
@[simp] theorem State.updGroup_group (s : State) (k : Nat) (f : Group → Group) : (s.updGroup k f).group k = f (s.group k) := by
  simp [State.updGroup, State.group]
theorem State.updGroup_group_ne (s : State) {k i : Nat} (f : Group → Group) (h : i ≠ k) : (s.updGroup k f).group i = s.group i := by
  simp [State.updGroup, State.group, Tab.get_upd_ne _ _ _ h]
@[simp] theorem State.updStack_stack (s : State) (k : Nat) (f : Stack → Stack) : (s.updStack k f).stack k = f (s.stack k) := by
  simp [State.updStack, State.stack]
theorem State.updStack_stack_ne (s : State) {k i : Nat} (f : Stack → Stack) (h : i ≠ k) : (s.updStack k f).stack i = s.stack i := by
  simp [State.updStack, State.stack, Tab.get_upd_ne _ _ _ h]
@[simp] theorem State.updCask_cask (s : State) (k : Nat) (f : Cask → Cask) : (s.updCask k f).cask k = f (s.cask k) := by
  simp [State.updCask, State.cask]
theorem State.updCask_cask_ne (s : State) {k i : Nat} (f : Cask → Cask) (h : i ≠ k) : (s.updCask k f).cask i = s.cask i := by
  simp [State.updCask, State.cask, Tab.get_upd_ne _ _ _ h]
@[simp] theorem State.updMchan_mchan (s : State) (k : Nat) (f : Mbx → Mbx) : (s.updMchan k f).mchan k = f (s.mchan k) := by
  simp [State.updMchan, State.mchan]
theorem State.updMchan_mchan_ne (s : State) {k i : Nat} (f : Mbx → Mbx) (h : i ≠ k) : (s.updMchan k f).mchan i = s.mchan i := by
  simp [State.updMchan, State.mchan, Tab.get_upd_ne _ _ _ h]
@[simp] theorem State.updChan_chan (s : State) (g c : Nat) (f : Chan → Chan) : (s.updChan g c f).chan g c = f (s.chan g c) := by
  simp [State.updChan, State.chan]
@[simp] theorem State.updWin_win (s : State) (w : Window) (f : Win → Win) : (s.updWin w f).win w = f (s.win w) := by
  simp [State.updWin, State.win]
@[simp] theorem State.updEng_eng (s : State) (k : EngKind) (n : Nat) (f : Engine → Engine) : (s.updEng k n f).eng k n = f (s.eng k n) := by
  cases k <;> simp [State.updEng, State.eng]

-- ## Units that an update of another kind leaves

@[simp] theorem State.updTile_parcel_other (s : State) (t : Nat) (f : Tile → Tile) (u : Nat) : (s.updTile t f).parcel u = s.parcel u := rfl
@[simp] theorem State.updTile_group_other (s : State) (t : Nat) (f : Tile → Tile) (u : Nat) : (s.updTile t f).group u = s.group u := rfl
@[simp] theorem State.updTile_chan_other (s : State) (t : Nat) (f : Tile → Tile) (u v : Nat) : (s.updTile t f).chan u v = s.chan u v := rfl
@[simp] theorem State.updTile_stack_other (s : State) (t : Nat) (f : Tile → Tile) (u : Nat) : (s.updTile t f).stack u = s.stack u := rfl
@[simp] theorem State.updTile_cask_other (s : State) (t : Nat) (f : Tile → Tile) (u : Nat) : (s.updTile t f).cask u = s.cask u := rfl
@[simp] theorem State.updTile_win_other (s : State) (t : Nat) (f : Tile → Tile) (u : Window) : (s.updTile t f).win u = s.win u := rfl
@[simp] theorem State.updTile_mchan_other (s : State) (t : Nat) (f : Tile → Tile) (u : Nat) : (s.updTile t f).mchan u = s.mchan u := rfl
@[simp] theorem State.updParcel_tile_other (s : State) (p : Nat) (f : Parcel → Parcel) (u : Nat) : (s.updParcel p f).tile u = s.tile u := rfl
@[simp] theorem State.updParcel_group_other (s : State) (p : Nat) (f : Parcel → Parcel) (u : Nat) : (s.updParcel p f).group u = s.group u := rfl
@[simp] theorem State.updParcel_chan_other (s : State) (p : Nat) (f : Parcel → Parcel) (u v : Nat) : (s.updParcel p f).chan u v = s.chan u v := rfl
@[simp] theorem State.updParcel_stack_other (s : State) (p : Nat) (f : Parcel → Parcel) (u : Nat) : (s.updParcel p f).stack u = s.stack u := rfl
@[simp] theorem State.updParcel_cask_other (s : State) (p : Nat) (f : Parcel → Parcel) (u : Nat) : (s.updParcel p f).cask u = s.cask u := rfl
@[simp] theorem State.updParcel_win_other (s : State) (p : Nat) (f : Parcel → Parcel) (u : Window) : (s.updParcel p f).win u = s.win u := rfl
@[simp] theorem State.updParcel_mchan_other (s : State) (p : Nat) (f : Parcel → Parcel) (u : Nat) : (s.updParcel p f).mchan u = s.mchan u := rfl
@[simp] theorem State.updGroup_tile_other (s : State) (g : Nat) (f : Group → Group) (u : Nat) : (s.updGroup g f).tile u = s.tile u := rfl
@[simp] theorem State.updGroup_parcel_other (s : State) (g : Nat) (f : Group → Group) (u : Nat) : (s.updGroup g f).parcel u = s.parcel u := rfl
@[simp] theorem State.updGroup_stack_other (s : State) (g : Nat) (f : Group → Group) (u : Nat) : (s.updGroup g f).stack u = s.stack u := rfl
@[simp] theorem State.updGroup_cask_other (s : State) (g : Nat) (f : Group → Group) (u : Nat) : (s.updGroup g f).cask u = s.cask u := rfl
@[simp] theorem State.updGroup_win_other (s : State) (g : Nat) (f : Group → Group) (u : Window) : (s.updGroup g f).win u = s.win u := rfl
@[simp] theorem State.updGroup_mchan_other (s : State) (g : Nat) (f : Group → Group) (u : Nat) : (s.updGroup g f).mchan u = s.mchan u := rfl
@[simp] theorem State.updChan_tile_other (s : State) (g c : Nat) (f : Chan → Chan) (u : Nat) : (s.updChan g c f).tile u = s.tile u := rfl
@[simp] theorem State.updChan_parcel_other (s : State) (g c : Nat) (f : Chan → Chan) (u : Nat) : (s.updChan g c f).parcel u = s.parcel u := rfl
@[simp] theorem State.updChan_stack_other (s : State) (g c : Nat) (f : Chan → Chan) (u : Nat) : (s.updChan g c f).stack u = s.stack u := rfl
@[simp] theorem State.updChan_cask_other (s : State) (g c : Nat) (f : Chan → Chan) (u : Nat) : (s.updChan g c f).cask u = s.cask u := rfl
@[simp] theorem State.updChan_win_other (s : State) (g c : Nat) (f : Chan → Chan) (u : Window) : (s.updChan g c f).win u = s.win u := rfl
@[simp] theorem State.updChan_mchan_other (s : State) (g c : Nat) (f : Chan → Chan) (u : Nat) : (s.updChan g c f).mchan u = s.mchan u := rfl
@[simp] theorem State.updStack_tile_other (s : State) (k : Nat) (f : Stack → Stack) (u : Nat) : (s.updStack k f).tile u = s.tile u := rfl
@[simp] theorem State.updStack_parcel_other (s : State) (k : Nat) (f : Stack → Stack) (u : Nat) : (s.updStack k f).parcel u = s.parcel u := rfl
@[simp] theorem State.updStack_group_other (s : State) (k : Nat) (f : Stack → Stack) (u : Nat) : (s.updStack k f).group u = s.group u := rfl
@[simp] theorem State.updStack_chan_other (s : State) (k : Nat) (f : Stack → Stack) (u v : Nat) : (s.updStack k f).chan u v = s.chan u v := rfl
@[simp] theorem State.updStack_cask_other (s : State) (k : Nat) (f : Stack → Stack) (u : Nat) : (s.updStack k f).cask u = s.cask u := rfl
@[simp] theorem State.updStack_win_other (s : State) (k : Nat) (f : Stack → Stack) (u : Window) : (s.updStack k f).win u = s.win u := rfl
@[simp] theorem State.updStack_mchan_other (s : State) (k : Nat) (f : Stack → Stack) (u : Nat) : (s.updStack k f).mchan u = s.mchan u := rfl
@[simp] theorem State.updCask_tile_other (s : State) (n : Nat) (f : Cask → Cask) (u : Nat) : (s.updCask n f).tile u = s.tile u := rfl
@[simp] theorem State.updCask_parcel_other (s : State) (n : Nat) (f : Cask → Cask) (u : Nat) : (s.updCask n f).parcel u = s.parcel u := rfl
@[simp] theorem State.updCask_group_other (s : State) (n : Nat) (f : Cask → Cask) (u : Nat) : (s.updCask n f).group u = s.group u := rfl
@[simp] theorem State.updCask_chan_other (s : State) (n : Nat) (f : Cask → Cask) (u v : Nat) : (s.updCask n f).chan u v = s.chan u v := rfl
@[simp] theorem State.updCask_stack_other (s : State) (n : Nat) (f : Cask → Cask) (u : Nat) : (s.updCask n f).stack u = s.stack u := rfl
@[simp] theorem State.updCask_win_other (s : State) (n : Nat) (f : Cask → Cask) (u : Window) : (s.updCask n f).win u = s.win u := rfl
@[simp] theorem State.updCask_mchan_other (s : State) (n : Nat) (f : Cask → Cask) (u : Nat) : (s.updCask n f).mchan u = s.mchan u := rfl
@[simp] theorem State.updWin_tile_other (s : State) (w : Window) (f : Win → Win) (u : Nat) : (s.updWin w f).tile u = s.tile u := rfl
@[simp] theorem State.updWin_parcel_other (s : State) (w : Window) (f : Win → Win) (u : Nat) : (s.updWin w f).parcel u = s.parcel u := rfl
@[simp] theorem State.updWin_group_other (s : State) (w : Window) (f : Win → Win) (u : Nat) : (s.updWin w f).group u = s.group u := rfl
@[simp] theorem State.updWin_chan_other (s : State) (w : Window) (f : Win → Win) (u v : Nat) : (s.updWin w f).chan u v = s.chan u v := rfl
@[simp] theorem State.updWin_stack_other (s : State) (w : Window) (f : Win → Win) (u : Nat) : (s.updWin w f).stack u = s.stack u := rfl
@[simp] theorem State.updWin_cask_other (s : State) (w : Window) (f : Win → Win) (u : Nat) : (s.updWin w f).cask u = s.cask u := rfl
@[simp] theorem State.updWin_mchan_other (s : State) (w : Window) (f : Win → Win) (u : Nat) : (s.updWin w f).mchan u = s.mchan u := rfl
@[simp] theorem State.updMchan_tile_other (s : State) (c : Nat) (f : Mbx → Mbx) (u : Nat) : (s.updMchan c f).tile u = s.tile u := rfl
@[simp] theorem State.updMchan_parcel_other (s : State) (c : Nat) (f : Mbx → Mbx) (u : Nat) : (s.updMchan c f).parcel u = s.parcel u := rfl
@[simp] theorem State.updMchan_group_other (s : State) (c : Nat) (f : Mbx → Mbx) (u : Nat) : (s.updMchan c f).group u = s.group u := rfl
@[simp] theorem State.updMchan_chan_other (s : State) (c : Nat) (f : Mbx → Mbx) (u v : Nat) : (s.updMchan c f).chan u v = s.chan u v := rfl
@[simp] theorem State.updMchan_stack_other (s : State) (c : Nat) (f : Mbx → Mbx) (u : Nat) : (s.updMchan c f).stack u = s.stack u := rfl
@[simp] theorem State.updMchan_cask_other (s : State) (c : Nat) (f : Mbx → Mbx) (u : Nat) : (s.updMchan c f).cask u = s.cask u := rfl
@[simp] theorem State.updMchan_win_other (s : State) (c : Nat) (f : Mbx → Mbx) (u : Window) : (s.updMchan c f).win u = s.win u := rfl
@[simp] theorem State.updFrm_tile_other (s : State) (f : Frm → Frm) (u : Nat) : (s.updFrm f).tile u = s.tile u := rfl
@[simp] theorem State.updFrm_parcel_other (s : State) (f : Frm → Frm) (u : Nat) : (s.updFrm f).parcel u = s.parcel u := rfl
@[simp] theorem State.updFrm_group_other (s : State) (f : Frm → Frm) (u : Nat) : (s.updFrm f).group u = s.group u := rfl
@[simp] theorem State.updFrm_chan_other (s : State) (f : Frm → Frm) (u v : Nat) : (s.updFrm f).chan u v = s.chan u v := rfl
@[simp] theorem State.updFrm_stack_other (s : State) (f : Frm → Frm) (u : Nat) : (s.updFrm f).stack u = s.stack u := rfl
@[simp] theorem State.updFrm_cask_other (s : State) (f : Frm → Frm) (u : Nat) : (s.updFrm f).cask u = s.cask u := rfl
@[simp] theorem State.updFrm_win_other (s : State) (f : Frm → Frm) (u : Window) : (s.updFrm f).win u = s.win u := rfl
@[simp] theorem State.updFrm_mchan_other (s : State) (f : Frm → Frm) (u : Nat) : (s.updFrm f).mchan u = s.mchan u := rfl
@[simp] theorem State.tsWrite_tile_other (s : State) (t off : Nat) (bs : List Byte) (u : Nat) : (s.tsWrite t off bs).tile u = s.tile u := rfl
@[simp] theorem State.tsWrite_parcel_other (s : State) (t off : Nat) (bs : List Byte) (u : Nat) : (s.tsWrite t off bs).parcel u = s.parcel u := rfl
@[simp] theorem State.tsWrite_group_other (s : State) (t off : Nat) (bs : List Byte) (u : Nat) : (s.tsWrite t off bs).group u = s.group u := rfl
@[simp] theorem State.tsWrite_chan_other (s : State) (t off : Nat) (bs : List Byte) (u v : Nat) : (s.tsWrite t off bs).chan u v = s.chan u v := rfl
@[simp] theorem State.tsWrite_stack_other (s : State) (t off : Nat) (bs : List Byte) (u : Nat) : (s.tsWrite t off bs).stack u = s.stack u := rfl
@[simp] theorem State.tsWrite_cask_other (s : State) (t off : Nat) (bs : List Byte) (u : Nat) : (s.tsWrite t off bs).cask u = s.cask u := rfl
@[simp] theorem State.tsWrite_win_other (s : State) (t off : Nat) (bs : List Byte) (u : Window) : (s.tsWrite t off bs).win u = s.win u := rfl
@[simp] theorem State.tsWrite_mchan_other (s : State) (t off : Nat) (bs : List Byte) (u : Nat) : (s.tsWrite t off bs).mchan u = s.mchan u := rfl
@[simp] theorem State.forget_tile_other (s : State) (lo hi : Nat) (u : Nat) : (s.forget lo hi).tile u = s.tile u := rfl
@[simp] theorem State.forget_parcel_other (s : State) (lo hi : Nat) (u : Nat) : (s.forget lo hi).parcel u = s.parcel u := rfl
@[simp] theorem State.forget_group_other (s : State) (lo hi : Nat) (u : Nat) : (s.forget lo hi).group u = s.group u := rfl
@[simp] theorem State.forget_chan_other (s : State) (lo hi : Nat) (u v : Nat) : (s.forget lo hi).chan u v = s.chan u v := rfl
@[simp] theorem State.forget_stack_other (s : State) (lo hi : Nat) (u : Nat) : (s.forget lo hi).stack u = s.stack u := rfl
@[simp] theorem State.forget_cask_other (s : State) (lo hi : Nat) (u : Nat) : (s.forget lo hi).cask u = s.cask u := rfl
@[simp] theorem State.forget_win_other (s : State) (lo hi : Nat) (u : Window) : (s.forget lo hi).win u = s.win u := rfl
@[simp] theorem State.forget_mchan_other (s : State) (lo hi : Nat) (u : Nat) : (s.forget lo hi).mchan u = s.mchan u := rfl

end Sys2Proof.Machine
end

