-- ==== Sys2Proof/Laws/Elements.lean ====
section
/-! SUPPORT. Laws of the registers of a tile and of their elements: what a write of one element leaves in each. -/

namespace Sys2Proof.Machine

-- ## Elements of a number

theorem elemOf_lt (w n i : Nat) : elemOf w n i < 2 ^ w := Nat.mod_lt _ (Nat.two_pow_pos w)

/-- A number apart from its element `i`: what lies above, the element, and what lies below. -/
theorem elem_split (w n i : Nat) :
    n = (n / 2 ^ (w * (i + 1)) * 2 ^ w + elemOf w n i) * 2 ^ (w * i) + n % 2 ^ (w * i) := by
  have h1 := Nat.div_add_mod n (2 ^ (w * i))
  have h2 := Nat.div_add_mod (n / 2 ^ (w * i)) (2 ^ w)
  have h3 : n / 2 ^ (w * i) / 2 ^ w = n / 2 ^ (w * (i + 1)) := by
    rw [Nat.div_div_eq_div_mul, ← Nat.pow_add, Nat.mul_succ]
  rw [h3] at h2
  unfold elemOf
  rw [Nat.mul_comm (n / 2 ^ (w * (i + 1)))]
  rw [h2, Nat.mul_comm _ (2 ^ (w * i))]
  exact h1.symm

theorem setElem_eq (w n i x : Nat) :
    setElem w n i x = (n / 2 ^ (w * (i + 1)) * 2 ^ w + x % 2 ^ w) * 2 ^ (w * i) + n % 2 ^ (w * i) := by
  unfold setElem
  have h := elem_split w n i
  generalize n / 2 ^ (w * (i + 1)) = q at *
  generalize elemOf w n i = e at *
  generalize n % 2 ^ (w * i) = l at *
  generalize x % 2 ^ w = y
  generalize 2 ^ (w * i) = A at *
  generalize 2 ^ w = B at *
  rw [h, Nat.add_mul, Nat.add_mul]
  omega

theorem setElem_mod (w n i x : Nat) : setElem w n i x % 2 ^ (w * i) = n % 2 ^ (w * i) := by
  rw [setElem_eq, Nat.mul_comm, Nat.mul_add_mod, Nat.mod_mod]

theorem setElem_div (w n i x : Nat) : setElem w n i x / 2 ^ (w * i) = n / 2 ^ (w * (i + 1)) * 2 ^ w + x % 2 ^ w := by
  rw [setElem_eq, Nat.mul_comm, Nat.mul_add_div (Nat.two_pow_pos _), Nat.div_eq_of_lt (Nat.mod_lt _ (Nat.two_pow_pos _)), Nat.add_zero]

theorem setElem_above (w n i x : Nat) : setElem w n i x / 2 ^ (w * (i + 1)) = n / 2 ^ (w * (i + 1)) := by
  rw [Nat.mul_succ, Nat.pow_add, ← Nat.div_div_eq_div_mul, setElem_div, Nat.mul_comm (n / 2 ^ (w * (i + 1))),
    Nat.mul_add_div (Nat.two_pow_pos _), Nat.div_eq_of_lt (Nat.mod_lt _ (Nat.two_pow_pos _)), Nat.add_zero, Nat.mul_succ, Nat.pow_add]

@[simp] theorem elemOf_setElem_same (w n i x : Nat) : elemOf w (setElem w n i x) i = x % 2 ^ w := by
  unfold elemOf
  rw [setElem_div, Nat.mul_comm, Nat.mul_add_mod, Nat.mod_mod]

theorem elemOf_setElem_ne (w n x : Nat) {i j : Nat} (h : j ≠ i) : elemOf w (setElem w n i x) j = elemOf w n j := by
  rcases Nat.lt_or_gt_of_ne h with hlt | hgt
  · have key : ∀ m : Nat, elemOf w m j = m % 2 ^ (w * i) / 2 ^ (w * j) % 2 ^ w := by
      intro m
      unfold elemOf
      have e : w * i = w * j + (w * (i - j)) := by rw [← Nat.mul_add]; congr 1; omega
      rw [e, Nat.pow_add, Nat.mod_mul_right_div_self]
      have e2 : w * (i - j) = w + w * (i - j - 1) := by
        have : i - j = 1 + (i - j - 1) := by omega
        rw [this, Nat.mul_add, Nat.mul_one]
        congr 2
        omega
      rw [e2, Nat.pow_add, Nat.mod_mul_right_mod]
    rw [key, key, setElem_mod]
  · have key : ∀ m : Nat, elemOf w m j = m / 2 ^ (w * (i + 1)) / 2 ^ (w * (j - (i + 1))) % 2 ^ w := by
      intro m
      unfold elemOf
      rw [Nat.div_div_eq_div_mul, ← Nat.pow_add, ← Nat.mul_add]
      congr 4
      omega
    rw [key, key, setElem_above]

/-- Elements within a bound are read from the bits below it. -/
theorem elemOf_mod {w j b : Nat} (n : Nat) (h : w * (j + 1) ≤ b) : elemOf w (n % 2 ^ b) j = elemOf w n j := by
  unfold elemOf
  have e : b = w * j + (w + (b - w * (j + 1))) := by rw [Nat.mul_succ] at *; omega
  rw [e, Nat.pow_add, Nat.mod_mul_right_div_self, Nat.pow_add, Nat.mod_mul_right_mod]

-- ## Registers

@[simp] theorem Tile.sGet_zero (T : Tile) : T.sGet 0 = 0 := rfl
@[simp] theorem Tile.sPut_zero (T : Tile) (x : Word) : T.sPut 0 x = T := rfl

theorem Tile.sGet_sPut (T : Tile) (r k : Nat) (x : Word) : (T.sPut r x).sGet k = if k = r ∧ r ≠ 0 then x else T.sGet k := by
  unfold Tile.sPut Tile.sGet
  by_cases hr : r = 0
  · simp [hr]
  · by_cases hk : k = 0
    · have : ¬ (0 = r ∧ r ≠ 0) := by omega
      subst hk
      simp [this]
    · simp only [hr, hk, if_false, Tab.get_set]
      by_cases h : k = r <;> simp [h, hr]

theorem Tile.vGet_vPut (T : Tile) (r k : Nat) (x : BitVec 4096) : (T.vPut r x).vGet k = if k = r then x else T.vGet k := by
  unfold Tile.vPut Tile.vGet
  exact Tab.get_set 0 T.vRegs r k x

theorem Tile.pGet_pPut (T : Tile) (r k : Nat) (x : BitVec 512) : (T.pPut r x).pGet k = if k = r ∧ r ≠ 0 then x else T.pGet k := by
  unfold Tile.pPut Tile.pGet
  by_cases hr : r = 0
  · simp [hr]
  · by_cases hk : k = 0
    · have : ¬ (0 = r ∧ r ≠ 0) := by omega
      subst hk
      simp [this]
    · simp only [hr, hk, if_false, Tab.get_set]
      by_cases h : k = r <;> simp [h, hr]

@[simp] theorem Tile.pGet_zero (T : Tile) : T.pGet 0 = BitVec.allOnes 512 := rfl

-- ## Elements of registers

theorem vlmaxOf_mul (vt : Nat) : 8 * 2 ^ (vt % 4) * vlmaxOf vt = 4096 := by
  have h : vt % 4 = 0 ∨ vt % 4 = 1 ∨ vt % 4 = 2 ∨ vt % 4 = 3 := by omega
  unfold vlmaxOf
  rcases h with h | h | h | h <;> simp [h]

theorem Tile.ew_mul_vlmax (T : Tile) : T.ew * T.vlmax = 4096 := vlmaxOf_mul T.vtype.toNat

theorem Tile.ew_pos (T : Tile) : 0 < T.ew := by exact Nat.mul_pos (by decide) (Nat.two_pow_pos _)

@[simp] theorem Tile.vPut_ew (T : Tile) (r : Nat) (x : BitVec 4096) : (T.vPut r x).ew = T.ew := rfl
@[simp] theorem Tile.setV_ew (T : Tile) (r i x : Nat) : (T.setV r i x).ew = T.ew := rfl
@[simp] theorem Tile.setV_vl (T : Tile) (r i x : Nat) : (T.setV r i x).vl = T.vl := rfl
@[simp] theorem Tile.setV_vstart (T : Tile) (r i x : Nat) : (T.setV r i x).vstart = T.vstart := rfl
@[simp] theorem Tile.setV_vtype (T : Tile) (r i x : Nat) : (T.setV r i x).vtype = T.vtype := rfl
@[simp] theorem Tile.setV_pGet (T : Tile) (r i x k : Nat) : (T.setV r i x).pGet k = T.pGet k := rfl
@[simp] theorem Tile.setV_sGet (T : Tile) (r i x k : Nat) : (T.setV r i x).sGet k = T.sGet k := rfl
@[simp] theorem Tile.setV_sel (T : Tile) (r i x k j : Nat) : (T.setV r i x).sel k j = T.sel k j := rfl

/-- Writing one element: that element holds the value, every other element of every register stays. -/
theorem Tile.elem_setV (T : Tile) (r i x k j : Nat) (hj : j < T.vlmax) :
    (T.setV r i x).elem k j = if k = r ∧ j = i then x % 2 ^ T.ew else T.elem k j := by
  have hb : T.ew * (j + 1) ≤ 4096 := by
    rw [← T.ew_mul_vlmax]
    exact Nat.mul_le_mul_left _ hj
  simp only [Tile.elem, Tile.setV_ew]
  unfold Tile.setV
  rw [Tile.vGet_vPut]
  by_cases hk : k = r
  · subst hk
    simp only [if_true, BitVec.toNat_ofNat, elemOf_mod _ hb, true_and]
    by_cases hj : j = i
    · subst hj
      simp
    · simp [hj, elemOf_setElem_ne _ _ _ hj]
  · simp [hk]

@[simp] theorem Tile.setV_vlmax (T : Tile) (r i x : Nat) : (T.setV r i x).vlmax = T.vlmax := rfl

/-- What writing a list of elements leaves in each. -/
theorem foldl_setV_elem (r : Nat) (f : Nat → Nat) (l : List Nat) (T : Tile) (k j : Nat) (hj : j < T.vlmax) :
    (l.foldl (fun T' i => T'.setV r i (f i)) T).elem k j = if k = r ∧ j ∈ l then f j % 2 ^ T.ew else T.elem k j := by
  induction l generalizing T with
  | nil => simp
  | cons i l ih =>
    simp only [List.foldl_cons]
    rw [ih (T.setV r i (f i)) hj, Tile.elem_setV T r i (f i) k j hj]
    simp only [Tile.setV_ew, List.mem_cons]
    by_cases hk : k = r
    · by_cases hj : j ∈ l
      · simp [hk, hj]
      · by_cases hji : j = i
        · subst hji; simp [hk, hj]
        · simp [hj, hji]
    · simp [hk]

/-- Writing elements of a vector register changes nothing else of the tile. -/
theorem foldl_setV_rest (r : Nat) (f : Nat → Nat) (l : List Nat) (T : Tile) :
    ∃ m, l.foldl (fun T' i => T'.setV r i (f i)) T = { T with vRegs := m } := by
  induction l generalizing T with
  | nil => exact ⟨T.vRegs, rfl⟩
  | cons i l ih =>
    obtain ⟨m, hm⟩ := ih (T.setV r i (f i))
    exact ⟨m, hm⟩

theorem Tile.mem_active {T : Tile} {p i : Nat} : i ∈ T.active p ↔ i < T.vl ∧ T.vstart.toNat ≤ i ∧ T.sel p i = true := by
  simp [Tile.active, Tile.span, and_comm (a := T.sel p i = true)]

/-- An elementwise form: active elements take their result, every other element of every register stays (R109). -/
theorem mapActive_elem (T : Tile) (rd p : Nat) (f : Nat → Nat) (k j : Nat) (hj : j < T.vlmax) :
    (mapActive T rd p f).elem k j = if k = rd ∧ j ∈ T.active p then f j % 2 ^ T.ew else T.elem k j :=
  foldl_setV_elem rd f (T.active p) T k j hj

/-- An elementwise form changes nothing of the tile but vector registers. -/
theorem mapActive_rest (T : Tile) (rd p : Nat) (f : Nat → Nat) : ∃ m, mapActive T rd p f = { T with vRegs := m } :=
  foldl_setV_rest rd f (T.active p) T

end Sys2Proof.Machine
end

