-- ==== Sys2Proof/Laws/Memory.lean ====
section
/-! SUPPORT. Laws of memory: a read after a write, what a write leaves alone, and the canonical form that every memory operation keeps. -/

namespace Sys2Proof.Machine

-- ## Cells

theorem cellFind_of_lt {m : List Host.Cell} {lo a : Nat} (h : cellsWfFrom lo m = true) (ha : a < lo) : cellFind m a = none := by
  induction m generalizing lo with
  | nil => rfl
  | cons x m ih =>
    obtain ⟨j, b⟩ := x
    simp only [cellsWfFrom, Bool.and_eq_true, decide_eq_true_eq] at h
    have hj : ¬ j = a := by omega
    simp only [cellFind, hj, if_false]
    exact ih h.2 (by omega)

theorem cellsWfFrom_mono {m : List Host.Cell} {lo hi : Nat} (h : cellsWfFrom hi m = true) (hl : lo ≤ hi) : cellsWfFrom lo m = true := by
  cases m with
  | nil => rfl
  | cons x m =>
    obtain ⟨j, b⟩ := x
    simp only [cellsWfFrom, Bool.and_eq_true, decide_eq_true_eq] at h ⊢
    exact ⟨⟨Nat.le_trans hl h.1.1, h.1.2⟩, h.2⟩

/-- A byte written is read back; byte 0 is the one that is not listed. -/
theorem cellFind_set_same {m : List Host.Cell} {lo : Nat} (a : Nat) (v : Byte) (h : cellsWfFrom lo m = true) :
    cellFind (cellSet m a v) a = if v = 0#8 then none else some v := by
  induction m generalizing lo with
  | nil => by_cases hv : v = 0#8 <;> simp [cellSet, cellFind, hv]
  | cons x m ih =>
    obtain ⟨j, b⟩ := x
    simp only [cellsWfFrom, Bool.and_eq_true, decide_eq_true_eq] at h
    simp only [cellSet]
    split
    · rename_i hlt
      by_cases hv : v = 0#8
      · have hj : ¬ j = a := by omega
        simp only [BitVec.ofNat_eq_ofNat, hv, if_true, cellFind, hj, if_false]
        exact cellFind_of_lt h.2 (by omega)
      · simp [hv, cellFind]
    · split
      · rename_i _ heq
        subst heq
        by_cases hv : v = 0#8
        · simp only [BitVec.ofNat_eq_ofNat, hv, if_true]
          exact cellFind_of_lt h.2 (by omega)
        · simp [hv, cellFind]
      · rename_i hnlt hne
        have hj : ¬ j = a := fun h => hne h.symm
        simp only [cellFind, hj, if_false]
        exact ih h.2

/-- A write leaves every other address alone. -/
theorem cellFind_set_ne (m : List Host.Cell) {a i : Nat} (v : Byte) (h : i ≠ a) : cellFind (cellSet m a v) i = cellFind m i := by
  induction m with
  | nil => by_cases hv : v = 0#8 <;> simp [cellSet, cellFind, hv, Ne.symm h]
  | cons x m ih =>
    obtain ⟨j, b⟩ := x
    simp only [cellSet]
    split
    · by_cases hv : v = 0#8 <;> simp [hv, cellFind, Ne.symm h]
    · split
      · rename_i _ heq
        subst heq
        by_cases hv : v = 0#8 <;> simp [hv, cellFind, Ne.symm h]
      · simp only [cellFind, ih]

/-- Writing a byte keeps the canonical form. -/
theorem cellsWfFrom_set {m : List Host.Cell} {lo a : Nat} (v : Byte) (h : cellsWfFrom lo m = true) (ha : lo ≤ a) :
    cellsWfFrom lo (cellSet m a v) = true := by
  induction m generalizing lo with
  | nil =>
    by_cases hv : v = 0#8
    · simp [cellSet, hv, cellsWfFrom]
    · simp [cellSet, hv, cellsWfFrom, ha]
  | cons x m ih =>
    obtain ⟨j, b⟩ := x
    have h0 := h
    simp only [cellsWfFrom, Bool.and_eq_true, decide_eq_true_eq] at h
    simp only [cellSet]
    split
    · rename_i hlt
      by_cases hv : v = 0#8
      · simp only [BitVec.ofNat_eq_ofNat, hv, if_true]
        exact h0
      · simp only [BitVec.ofNat_eq_ofNat, hv, if_false, cellsWfFrom, Bool.and_eq_true, decide_eq_true_eq, bne_iff_ne]
        exact ⟨⟨ha, by simpa using hv⟩, ⟨hlt, by simpa using h.1.2⟩, h.2⟩
    · split
      · rename_i _ heq
        subst heq
        by_cases hv : v = 0#8
        · simp only [BitVec.ofNat_eq_ofNat, hv, if_true]
          exact cellsWfFrom_mono h.2 (by omega)
        · simp only [BitVec.ofNat_eq_ofNat, hv, if_false, cellsWfFrom, Bool.and_eq_true, decide_eq_true_eq, bne_iff_ne]
          exact ⟨⟨ha, by simpa using hv⟩, h.2⟩
      · rename_i hnlt hne
        simp only [cellsWfFrom, Bool.and_eq_true, decide_eq_true_eq]
        exact ⟨h.1, ih h.2 (by omega)⟩

theorem cellsWfFrom_write {m : List Host.Cell} (a : Nat) (bs : List Byte) (h : cellsWfFrom 0 m = true) :
    cellsWfFrom 0 (cellsWrite m a bs) = true := by
  induction bs generalizing m a with
  | nil => exact h
  | cons b bs ih => exact ih (a + 1) (cellsWfFrom_set b h (Nat.zero_le a))

theorem cellsWfFrom_filter {m : List Host.Cell} {lo : Nat} (p : Host.Cell → Bool) (h : cellsWfFrom lo m = true) :
    cellsWfFrom lo (m.filter p) = true := by
  induction m generalizing lo with
  | nil => exact h
  | cons x m ih =>
    obtain ⟨j, b⟩ := x
    simp only [cellsWfFrom, Bool.and_eq_true, decide_eq_true_eq] at h
    by_cases hp : p (j, b) = true
    · simp only [List.filter_cons_of_pos hp, cellsWfFrom, Bool.and_eq_true, decide_eq_true_eq]
      exact ⟨h.1, ih h.2⟩
    · simp only [List.filter_cons_of_neg hp]
      exact ih (cellsWfFrom_mono h.2 (by omega))

theorem cellFind_write_out (m : List Host.Cell) (a i : Nat) (bs : List Byte) (h : i < a ∨ a + bs.length ≤ i) :
    cellFind (cellsWrite m a bs) i = cellFind m i := by
  induction bs generalizing m a with
  | nil => rfl
  | cons b bs ih =>
    simp only [List.length_cons] at h
    simp only [cellsWrite]
    rw [ih (cellSet m a b) (a + 1) (by omega), cellFind_set_ne m b (by omega)]

theorem cellFind_write_in {m : List Host.Cell} {a i : Nat} {bs : List Byte} (h : cellsWfFrom 0 m = true) (hi : i < bs.length) :
    cellFind (cellsWrite m a bs) (a + i) = if bs[i] = 0#8 then none else some bs[i] := by
  induction bs generalizing m a i with
  | nil => simp at hi
  | cons b bs ih =>
    simp only [cellsWrite]
    cases i with
    | zero =>
      rw [cellFind_write_out (cellSet m a b) (a + 1) (a + 0) bs (by omega)]
      simpa using cellFind_set_same a b h
    | succ i =>
      have := ih (m := cellSet m a b) (a := a + 1) (i := i) (cellsWfFrom_set b h (Nat.zero_le a)) (by simpa using hi)
      simpa [Nat.add_assoc, Nat.add_comm 1 i] using this

-- ## What is undefined

theorem carve_find_out (lo hi a : Nat) (l : List Undef) (h : a < lo ∨ hi ≤ a) :
    ((carve lo hi l).find? fun u => decide (u.lo ≤ a) && decide (a < u.hi)).map Undef.stamp
      = (l.find? fun u => decide (u.lo ≤ a) && decide (a < u.hi)).map Undef.stamp := by
  induction l with
  | nil => rfl
  | cons u l ih =>
    simp only [carve, List.flatMap_cons] at ih ⊢
    by_cases h1 : (decide (u.hi ≤ lo) || decide (hi ≤ u.lo)) = true
    · simp only [h1, if_true, List.singleton_append, List.find?_cons]
      split
      · rfl
      · exact ih
    · simp only [Bool.not_eq_true] at h1
      simp only [h1]
      simp only [Bool.or_eq_false_iff, decide_eq_false_iff_not, Nat.not_le] at h1
      by_cases hu : (decide (u.lo ≤ a) && decide (a < u.hi)) = true
      · have hu' : u.lo ≤ a ∧ a < u.hi := by simpa using hu
        simp only [List.find?_cons, hu]
        by_cases ha : a < lo
        · have : u.lo < lo := by omega
          simp [this, hu'.1, ha]
        · have h3 : hi ≤ a := by omega
          have h4 : hi < u.hi := by omega
          by_cases h5 : u.lo < lo
          · have : ¬ a < lo := ha
            simp [h5, h4, hu'.1, hu'.2, this, h3]
          · simp [h5, h4, hu'.2, h3]
      · simp only [Bool.not_eq_true] at hu
        simp only [List.find?_cons, hu]
        rw [← ih]
        have hu' : ¬ (u.lo ≤ a ∧ a < u.hi) := by simpa using hu
        have e1 : (decide (u.lo ≤ a) && decide (a < lo)) = false := by
          have : ¬ (u.lo ≤ a ∧ a < lo) := by omega
          simpa using this
        have e2 : (decide (hi ≤ a) && decide (a < u.hi)) = false := by
          have : ¬ (hi ≤ a ∧ a < u.hi) := by omega
          simpa using this
        by_cases h5 : u.lo < lo <;> by_cases h4 : hi < u.hi <;>
          simp only [h5, h4, Bool.false_eq_true, if_false, if_true, List.nil_append, List.cons_append, List.find?_cons, e1, e2]

theorem carve_find_in (lo hi a : Nat) (l : List Undef) (h : lo ≤ a ∧ a < hi) :
    ((carve lo hi l).find? fun u => decide (u.lo ≤ a) && decide (a < u.hi)) = none := by
  rw [List.find?_eq_none]
  intro u hu
  simp only [carve, List.mem_flatMap] at hu
  obtain ⟨v, _, hv⟩ := hu
  split at hv
  · rename_i h1
    simp only [List.mem_singleton] at hv
    subst hv
    simp only [Bool.or_eq_true, decide_eq_true_eq] at h1
    simp only [Bool.and_eq_true, decide_eq_true_eq]
    omega
  · simp only [List.mem_append] at hv
    rcases hv with hv | hv
    · split at hv
      · simp only [List.mem_singleton] at hv
        subst hv
        simp only [Bool.and_eq_true, decide_eq_true_eq]
        omega
      · simp at hv
    · split at hv
      · simp only [List.mem_singleton] at hv
        subst hv
        simp only [Bool.and_eq_true, decide_eq_true_eq]
        omega
      · simp at hv

-- ## Bytes

theorem Mem.blank_eq (m : Mem) (a : Nat) :
    m.blank a = match (m.undef.find? fun u => decide (u.lo ≤ a) && decide (a < u.hi)).map Undef.stamp with
      | some n => Config.memByte n a
      | none => 0 := by
  simp only [Mem.blank]
  cases m.undef.find? fun u => decide (u.lo ≤ a) && decide (a < u.hi) <;> rfl

/-- A write leaves every byte outside it as it was. -/
theorem Mem.byte_write_out (m : Mem) (a i : Nat) (bs : List Byte) (h : i < a ∨ a + bs.length ≤ i) : (m.write a bs).byte i = m.byte i := by
  have e1 : cellFind (m.write a bs).cells i = cellFind m.cells i := cellFind_write_out m.cells a i bs h
  have e2 : (m.write a bs).blank i = m.blank i := by
    rw [Mem.blank_eq, Mem.blank_eq]
    simp only [Mem.write, carve_find_out a (a + bs.length) i m.undef h]
  simp only [Mem.byte, e1, e2]

/-- A byte written is the byte read. -/
theorem Mem.byte_write_in {m : Mem} {a i : Nat} {bs : List Byte} (h : m.wf = true) (hi : i < bs.length) :
    (m.write a bs).byte (a + i) = bs[i] := by
  have e1 : cellFind (m.write a bs).cells (a + i) = if bs[i] = 0#8 then none else some bs[i] := cellFind_write_in h hi
  have e2 : (m.write a bs).blank (a + i) = 0 := by
    rw [Mem.blank_eq]
    simp only [Mem.write, carve_find_in a (a + bs.length) (a + i) m.undef (by omega), Option.map_none]
  by_cases hb : bs[i] = 0#8
  · simp [Mem.byte, e1, e2, hb]
  · simp [Mem.byte, e1, hb]

-- ## The canonical form

theorem Mem.wf_write {m : Mem} (a : Nat) (bs : List Byte) (h : m.wf = true) : (m.write a bs).wf = true := cellsWfFrom_write a bs h
theorem Mem.wf_clear {m : Mem} (lo hi : Nat) (h : m.wf = true) : (m.clear lo hi).wf = true := cellsWfFrom_filter _ h
theorem Mem.wf_forget {m : Mem} (lo hi : Nat) (h : m.wf = true) : (m.forget lo hi).wf = true := cellsWfFrom_filter _ h
theorem Mem.wf_setPoison {m : Mem} (a : Nat) (on : Bool) (h : m.wf = true) : (m.setPoison a on).wf = true := h
theorem Mem.wf_unknown {m : Mem} (h : m.wf = true) : m.unknown.wf = true := cellsWfFrom_filter _ h

/-- What a step of a fold keeps, the fold keeps. -/
theorem foldl_keeps {α β : Type} {P : β → Prop} {f : β → α → β} (l : List α) (b : β) (h : P b) (hf : ∀ b a, P b → P (f b a)) :
    P (l.foldl f b) := by
  induction l generalizing b with
  | nil => exact h
  | cons a l ih => exact ih (f b a) (hf b a h)

theorem Mem.wf_noteStore {m : Mem} (a n : Nat) (h : m.wf = true) : (m.noteStore a n).wf = true := by
  unfold Mem.noteStore
  split
  · exact h
  · exact foldl_keeps (P := fun m : Mem => m.wf = true) _ _
      (foldl_keeps (P := fun m : Mem => m.wf = true) _ _ h fun m r hm => Mem.wf_forget r.1 r.2 hm)
      fun m r hm => Mem.wf_forget _ _ hm

/-- A write that reaches storage keeps the canonical form. -/
theorem Mem.wf_store {m : Mem} (a : Nat) (bs : List Byte) (p : Bool) (h : m.wf = true) : (m.store a bs p).wf = true := by
  unfold Mem.store
  refine foldl_keeps (P := fun m : Mem => m.wf = true) _ _ (Mem.wf_noteStore a _ (Mem.wf_write a bs h)) fun m l hm => ?_
  split
  · exact Mem.wf_setPoison l true hm
  · split
    · exact Mem.wf_setPoison l false hm
    · exact hm

/-- Memory after reset is in its canonical form. -/
theorem State.reset_mem_wf : State.reset.mem.wf = true := rfl

/-- Two canonical memories that list the same bytes are the same list: nothing is written in two ways. -/
theorem cells_ext {l m : List Host.Cell} {lo : Nat} (hl : cellsWfFrom lo l = true) (hm : cellsWfFrom lo m = true)
    (h : ∀ a, cellFind l a = cellFind m a) : l = m := by
  induction l generalizing m lo with
  | nil =>
    cases m with
    | nil => rfl
    | cons y m =>
      obtain ⟨k, c⟩ := y
      simpa [cellFind] using h k
  | cons x l ih =>
    obtain ⟨j, b⟩ := x
    simp only [cellsWfFrom, Bool.and_eq_true, decide_eq_true_eq] at hl
    cases m with
    | nil => simpa [cellFind] using h j
    | cons y m =>
      obtain ⟨k, c⟩ := y
      simp only [cellsWfFrom, Bool.and_eq_true, decide_eq_true_eq] at hm
      have hjk : j = k := by
        rcases Nat.lt_trichotomy j k with hlt | heq | hgt
        · have h1 := h j
          have h2 : cellFind m j = none := cellFind_of_lt hm.2 (by omega)
          have hk : ¬ k = j := by omega
          simp [cellFind, hk, h2] at h1
        · exact heq
        · have h1 := h k
          have h2 : cellFind l k = none := cellFind_of_lt hl.2 (by omega)
          have hk : ¬ j = k := by omega
          simp [cellFind, hk, h2] at h1
      subst hjk
      have hbc : b = c := by simpa [cellFind] using h j
      subst hbc
      have hrest : ∀ a, cellFind l a = cellFind m a := by
        intro a
        by_cases ha : j = a
        · subst ha
          rw [cellFind_of_lt hl.2 (by omega), cellFind_of_lt hm.2 (by omega)]
        · simpa [cellFind, ha] using h a
      rw [ih hl.2 hm.2 hrest]

end Sys2Proof.Machine
end

