-- ==== Sys2Proof/Laws/Ops.lean ====
section
/-! SUPPORT. What the shared operations do: running a command while the clocks run, issuing, retiring, and taking an exception. -/

namespace Sys2Proof.Machine

/-- A command that needs the clocks acts while they run. -/
@[simp] theorem live_clocked {s : State} (h : Clocked s) (f : State → State) : live s f = f s := by
  unfold live; rw [h]; rfl

/-- A command that needs the clocks does nothing while they are stopped. -/
theorem live_stopped {s : State} (h : s.pwr.stopped = true) (f : State → State) : live s f = s := by
  unfold live; rw [h]; rfl

/-- An instruction of a tile that executes has its effect. -/
theorem issue_runs {s : State} {t : TileId} (h : TileRuns s t) (f : State → State) : issue s t f = .next (f s) := by
  unfold issue; rw [live_clocked h.1, h.2]; rfl

/-- An instruction of a tile that does not execute has none. -/
theorem issue_waits {s : State} {t : TileId} (h : (s.tile t).executes = false) (f : State → State) : issue s t f = .next s := by
  unfold issue live; cases hs : s.pwr.stopped <;> simp [h, ok]

/-- A vector instruction whose operands are legal retires with its effect. -/
theorem vecOp_legal {s : State} {t : TileId} (h : TileRuns s t) {legal : Tile → Bool} (hl : legal (s.tile t) = true) (f : Tile → Tile) :
    vecOp s t legal f = .next (retireV s t (fromStart f)) := by
  unfold vecOp; rw [issue_runs h]; simp [hl]

/-- A vector instruction whose operands are not legal takes the illegal-instruction exception. -/
theorem vecOp_illegal {s : State} {t : TileId} (h : TileRuns s t) {legal : Tile → Bool} (hl : legal (s.tile t) = false) (f : Tile → Tile) :
    vecOp s t legal f = .next (takeIllegal s t) := by
  unfold vecOp; rw [issue_runs h]; simp [hl]

/-- Retiring changes one tile: the instruction's effect, then the program counter. -/
theorem retire_eq (s : State) (t : Nat) (f : Tile → Tile) :
    retire s t f = s.updTile t fun T => { f T with pc := (f T).pc + 4, unparked := false } := rfl

/-- A vector instruction that retires leaves VSTART 0. -/
theorem retireV_eq (s : State) (t : Nat) (f : Tile → Tile) :
    retireV s t f = s.updTile t fun T => { f T with vstart := 0, pc := (f T).pc + 4, unparked := false } := rfl

/-- Retiring leaves memory as it was. -/
@[simp] theorem retire_mem (s : State) (t : Nat) (f : Tile → Tile) : (retire s t f).mem = s.mem := rfl
/-- Retiring leaves the parcels as they were. -/
@[simp] theorem retire_parcels (s : State) (t : Nat) (f : Tile → Tile) : (retire s t f).parcels = s.parcels := rfl
/-- Retiring leaves the waiting commands as they were. -/
@[simp] theorem retire_pending (s : State) (t : Nat) (f : Tile → Tile) : (retire s t f).pending = s.pending := rfl

/-- A write to a host changes no tile. -/
theorem hostWrite_tiles (s : State) (p a : Nat) (bs : List Byte) : (hostWrite s p a bs).tiles = s.tiles := by
  unfold hostWrite; split <;> rfl

/-- A message changes no tile. -/
theorem sendMsix_tiles (s : State) (f v : Nat) : (sendMsix s f v).tiles = s.tiles := by
  unfold sendMsix; dsimp only; split
  · rfl
  · split
    · rfl
    · split <;> rfl

/-- Writing the records that wait changes no tile. -/
theorem drainEvRing_tiles : ∀ (n : Nat) (s : State) (f : Nat), (drainEvRing n s f).tiles = s.tiles
  | 0, _, _ => rfl
  | n + 1, s, f => by
    unfold drainEvRing
    dsimp only
    split
    · rfl
    · split
      · rw [drainEvRing_tiles n]; rfl
      · split
        · rw [drainEvRing_tiles n, sendMsix_tiles]; exact hostWrite_tiles ..
        · rfl

/-- A record on its way changes no tile. -/
theorem deliverRecord_tiles (s : State) (r : EvRec) (n : Nat) : (deliverRecord s r n).tiles = s.tiles := by
  unfold deliverRecord
  dsimp only
  split
  · rfl
  · split
    · rfl
    · split
      · rfl
      · split
        · rw [drainEvRing_tiles]; rfl
        · exact sendMsix_tiles ..

/-- An event changes no tile, whatever status its record holds. -/
theorem raiseWith_tiles (s : State) (i c u x : Nat) : (raiseWith s i c u x).tiles = s.tiles := by
  unfold raiseWith
  dsimp only
  split
  · rfl
  · split
    · rfl
    · exact deliverRecord_tiles ..

/-- An event changes no tile. -/
theorem raise_tiles (s : State) (i c u : Nat) : (raise s i c u).tiles = s.tiles := raiseWith_tiles ..

/-- A tile event changes no tile. -/
theorem raiseTile_tiles (s : State) (t e : Nat) : (raiseTile s t e).tiles = s.tiles := by
  unfold raiseTile; split
  · exact raise_tiles ..
  · rfl

end Sys2Proof.Machine
end

