-- ==== Sys2Proof/Tests/Slice0.lean ====
section
/-! SUPPORT. Tests: ill-formed terms, words written out from the spec's encodings, worked examples of the spec, one step at a time, and for each
statement states and operands that meet its hypotheses. -/

namespace Sys2Proof.Tests

open Sys2Proof Sys2Proof.Machine

set_option Elab.async false

-- ## Ill-formed commands are refused

theorem test_wf_salu : wellFormed (.salu 0 .popc 1 2 3) = false ∧ wellFormed (.salu 0 .popc 1 2 0) = true := by decide
theorem test_wf_sfp : wellFormed (.sfp 0 .fsqrt true 1 2 3) = false ∧ wellFormed (.sfp 0 .fsqrt true 1 2 0) = true := by decide
theorem test_wf_vfp_vs : wellFormed (.vfpArith 0 .vfabs true 1 2 0 0) = false ∧ wellFormed (.vfpArith 0 .vfadd true 1 2 0 0) = true := by decide
theorem test_wf_vfp_unary : wellFormed (.vfpArith 0 .vfneg false 1 2 4 0) = false := by decide
theorem test_wf_vnot : wellFormed (.vlogic 0 .vnot false 1 2 4 0) = false ∧ wellFormed (.vlogic 0 .vnot true 1 2 0 0) = false := by decide
theorem test_wf_csrw : wellFormed (.csrw 0 0x032 1) = false ∧ wellFormed (.csrw 0 0x006 1) = false ∧ wellFormed (.csrw 0 0x000 1) = true := by decide
theorem test_wf_submit : wellFormed (.taskSubmit { fn := 0, w := 0 } 60 [1, 2, 3, 4, 5]) = false ∧ wellFormed (.taskSubmit { fn := 0, w := 0 } 60 []) = false ∧
    wellFormed (.taskSubmit { fn := 0, w := 0 } 60 [1, 2, 3, 4]) = true := by decide
theorem test_wf_read : wellFormed (.rcRead (.fn 0) 0x14 ⟨0xFF, .plain⟩) = false ∧ wellFormed (.rcRead (.fn 0) 0x10 ⟨0, .plain⟩) = false := by decide
theorem test_wf_register_write : wellFormed (.registerWrite (.fn 0) 0x14 ⟨0xFF, .plain⟩ 0) = false ∧ wellFormed (.registerWrite (.fn 0) 0x10 ⟨0, .plain⟩ 0) = false := by decide
theorem test_wf_msix : wellFormed (.msixVectorUnmask 2 256) = false ∧ wellFormed (.msixVectorUnmask 1 2047) = true := by decide
theorem test_wf_fill : wellFormed (.cacheLineFill 0 32) = false := by decide
theorem test_wf_memory : wellFormed (.memoryRequest (.mgmt 0) 0 (.read 65) .clean) = false ∧ wellFormed (.memoryRequest (.mgmt 0) 0 (.write [] false) .clean) = false ∧
    wellFormed (.memoryRequest (.mgmt 0) 0 (.read 64) .clean) = true := by decide
theorem test_wf_i3c : wellFormed (.i3cPrivateWrite { bytes := [] }) = false ∧ wellFormed (.i3cPrivateRead { len := 0 }) = false := by decide
theorem test_wf_scrub : wellFormed (.scrubLine 0 (List.replicate 65 .clean)) = false := by decide
theorem test_wf_ident : wellFormed (.caskIdentified 0 { record := [], setRec := none, page := {
    avgPe := 0, maxPe := 0, spareBlocks := 0, readOnly := false, written := 0 } }) = false := by decide
theorem test_wf_job : wellFormed (.managementJobStart 0 { alg := 0, keySlot := 0, keyLoad := false, data := List.replicate 4097 0 }) = false := by
  decide +kernel

-- ## Words, written out from Tables 1, 2 and 4 to 12 of chapter 05

/-- VADD v3, v1, v2 under p2: the example of R105's fields. -/
theorem test_word_vadd : decodeWord 0 0x80611200 = some (.vintArith 0 .vadd false 3 1 2 2) := by decide
/-- VGATHER v1, [s5 + v2 × 8], and its first-fault form: the example of R124. -/
theorem test_word_vgather : decodeWord 0 0xD0251038 = some (.vgather 0 false false 3 true 1 5 2 0) ∧
    decodeWord 0 0xD0251078 = some (.vgather 0 false true 3 true 1 5 2 0) := by decide
/-- SALU: major 0x01; SUB s3, s1, s2 has func 1, CRC32C.D func 0x18, POPC func 0x15 with rs2 0. -/
theorem test_word_salu : decodeWord 0 0b000001_00011_00001_00010_000_00000001 = some (.salu 0 .sub 3 1 2) ∧
    decodeWord 0 0b000001_00011_00001_00010_000_00011000 = some (.crc32cD 0 3 1 2) ∧
    decodeWord 0 0b000001_00011_00001_00010_000_00010101 = none := by decide
/-- IMM: ADDI s3, s1, −1; LUI s3, 0x8000; SHIFTI SRA by 7; JALR. -/
theorem test_word_imm : decodeWord 0 0b000010_00011_00001_1111111111111111 = some (.aluImmediate 0 .addi 3 1 0xFFFF) ∧
    decodeWord 0 0b001000_00011_00000_1000000000000000 = some (.lui 0 3 0x8000) ∧
    decodeWord 0 0b001001_00011_00001_00000000_10_000111 = some (.shifti 0 .sra 3 1 7) ∧
    decodeWord 0 0b010111_00001_00010_0000000000000100 = some (.jalr 0 1 2 4) := by decide
/-- MEM: SLDT of 4 bytes with uns, SST of 8 bytes; a store with uns is illegal (R117). -/
theorem test_word_mem : decodeWord 0 0b001100_00011_00001_1_10_0000000010000 = some (.sldt 0 true 2 3 1 16) ∧
    decodeWord 0 0b001011_00011_00001_0_11_1111111111000 = some (.sst 0 3 3 1 0x1FF8) ∧
    decodeWord 0 0b001011_00011_00001_1_11_1111111111000 = none := by decide
/-- SFP: func = 2 × op + D; FMA double is 29. -/
theorem test_word_sfp : decodeWord 0 0b011001_00011_00001_00010_000_00011101 = some (.sfp 0 .fma true 3 1 2) := by decide
/-- MAINT: DC.CLEAN of a range has func 0x04; TLBI of an address, parcel-wide, 0x18. -/
theorem test_word_maint : decodeWord 0 0b011010_00000_00001_00010_000_00000100 = some (.dcCleanRange 0 1 2) ∧
    decodeWord 0 0b011010_00000_00001_00010_000_00011000 = some (.tlbiVaP 0 1 2) := by decide
/-- Compares, logic and predicate logic: VCMP.FLT.VS into p4, VNOT, PANDN p1, p2, p3. -/
theorem test_word_vcmp : decodeWord 0 0b100010_00100_00001_00010_101_10001001 = some (.vcmp 0 .flt true 4 1 2 5) ∧
    decodeWord 0 0b100011_00011_00001_00000_001_00000110 = some (.vlogic 0 .vnot false 3 1 0 1) ∧
    decodeWord 0 0b100011_00001_00010_00011_000_01000011 = some (.predicateLogic 0 .pandn 1 2 3) ∧
    decodeWord 0 0b100011_01000_00010_00011_000_01000011 = none := by decide
/-- Moves, permutes, reductions, scans and counts. -/
theorem test_word_vmove : decodeWord 0 0b100100_00011_00001_00010_000_00000101 = some (.vmvSv 0 3 1 2) ∧
    decodeWord 0 0b100101_00011_00001_00010_110_00000010 = some (.vslidedn 0 3 1 2 6) ∧
    decodeWord 0 0b100110_00011_00001_00010_000_00001000 = some (.vfredsum 0 .sum 3 1 2 0) ∧
    decodeWord 0 0b100111_00011_00001_00111_001_00000010 = some (.vscan 0 .max 3 1 7 1) ∧
    decodeWord 0 0b101000_00011_00101_00000_000_00000100 = some (.pcnt 0 3 5) := by decide
/-- Operators: VHASH.T slot 6, VUNPK of 3 bits with sx, VDICT iw 1, VSORT k 2 m 5, VRED.M COUNT. -/
theorem test_word_operators : decodeWord 0 0b101001_00011_00001_00010_000_10000110 = some (.vhashT 0 6 3 1 2 0) ∧
    decodeWord 0 0b101010_00011_00001_00010_000_01000010 = some (.vunpk 0 2 true 3 1 2 0) ∧
    decodeWord 0 0b101011_00011_00001_00010_000_00000001 = some (.vdict 0 1 3 1 2 0) ∧
    decodeWord 0 0b101100_00011_00001_00000_000_01010010 = some (.vsort 0 2 5 3 1) ∧
    decodeWord 0 0b101101_00011_00001_00010_000_00000011 = some (.vredM 0 .count 3 1 2 0) := by decide
/-- Vector memory: VLD.T.FF, VSTS, VSCATTER with a scale. -/
theorem test_word_vmem : decodeWord 0 0b110000_00011_00001_00000_000_11000000 = some (.vld 0 true true 3 1 0) ∧
    decodeWord 0 0b110011_00011_00001_00010_000_00000000 = some (.vsts 0 false 3 1 2 0) ∧
    decodeWord 0 0b110101_00011_00001_00010_000_10011000 = some (.vscatter 0 true 1 true 3 1 2 0) ∧
    decodeWord 0 0b110001_00011_00001_00000_000_01000000 = none := by decide
/-- SYS: CSRR of VL, CSRW of OBX_LEN and ESTOP, FDONE.EOS, VSETVL, FENCE. -/
theorem test_word_sys : decodeWord 0 0b011000_00011_00000_000000010001_0000 = some (.csrr 0 3 0x011) ∧
    decodeWord 0 0b011000_00000_00010_000000110010_0001 = some (.obxLenWrite 0 2) ∧
    decodeWord 0 0b011000_00000_00010_000000000110_0001 = some (.estop 0 2) ∧
    decodeWord 0 0b011000_00000_00000_000000000001_0011 = some (.fdoneEos 0) ∧
    decodeWord 0 0b011000_00011_00001_000000000110_0111 = some (.vsetvl 0 3 1 6) ∧
    decodeWord 0 0b011000_00000_00000_000000000000_1000 = some (.fence 0) := by decide
/-- Branches and JAL; majors 0x00 and 0x0E are illegal (R92, Table 2). -/
theorem test_word_branch : decodeWord 0 0b010010_00001_00010_1111111111111110 = some (.branch 0 .lt 1 2 0xFFFE) ∧
    decodeWord 0 0b010110_00001_000000000000000000001 = some (.jal 0 1 1) ∧
    decodeWord 0 0 = none ∧ decodeWord 0 0b001110_00001_00010_0000000000000000 = none ∧ decodeYilnel 0 0 = .illegalInstruction 0 := by decide
/-- No row of the table has bits. -/
theorem test_table_word : decodeTableWord 32 0 = none ∧ (State.reset.withFetchWord 32 0).pending = [] := by decide


-- ## Small states

/-- An image of one stage on one quad: pipeline 0, stage 3, the inbox of the example of chapter 04 (base 0x40, half 0x20), a route to virtual tile 1. -/
def tImage : Image := {
  loaded := true, imageId := 7, pipelines := 1, placement := [0]
  stages := [{ pipeline := 0, stage := 3, pooled := false, source := false, sink := false, tiles := [0, 1, 2, 3], budget := 900, inboxBase := 0x40, inboxHalf := 0x20 }]
  routes := [{ id := 2, fan := false, src := 0, dst := 1, hashLo := 0, hashBits := 0 }] }

/-- A parcel that holds Q0, S0, a mover group and an engine of each kind. -/
def tParcel : Parcel := { st := .active, quads := 1, slices := 1, groups := 1, ce := 1, de := 1, se := 1, bslots := [1, 1, 1, 1], image := tImage, vintage := 2 }

/-- Parcel 5 with tile T000 running. -/
def tState (T : Tile) : State := { parcels := [(5, tParcel)], tiles := [(0, { T with run := .running })] }

/-- The next state of an outcome. -/
def tOut (o : Host.Outcome State Fault Refusal) : State :=
  match o with
  | .next s => s
  | _ => State.reset

/-- What one step of `i` leaves. -/
def tStep (i : Instr) (s : State) : State := tOut (step { s with pending := [i] })

/-- What one step of an instruction leaves of its tile. -/
def tRun (i : Instr) (T : Tile) : Tile := (tStep i (tState T)).tile 0

/-- Scalar registers 1 and 2. -/
def tS (a b : Word) : Tile := { sRegs := [(1, a), (2, b)] }

/-- Two 32-bit elements in v1 and v2 (VL 2, unsigned), with `b` in both operands of the element above. -/
def tV (a b : BitVec 4096) : Tile := { vtype := 2, vl := 2, vRegs := [(1, a), (2, b)] }

-- ## Scalar instructions

theorem test_addi_wraps : (tRun (.aluImmediate 0 .addi 3 1 0xFFFF) (tS 0 0)).sGet 3 = 0xFFFFFFFFFFFFFFFF := by decide
theorem test_andi_zero_extends : (tRun (.aluImmediate 0 .andi 3 1 0x8001) (tS 0xFFFFFFFFFFFFFFFF 0)).sGet 3 = 0x8001 := by decide
theorem test_sub_order : (tRun (.salu 0 .sub 3 1 2) (tS 5 7)).sGet 3 = 0xFFFFFFFFFFFFFFFE := by decide
theorem test_div_by_zero : (tRun (.salu 0 .div 3 1 2) (tS 5 0)).sGet 3 = 0xFFFFFFFFFFFFFFFF ∧ (tRun (.salu 0 .rem 3 1 2) (tS 5 0)).sGet 3 = 5 := by decide
theorem test_div_overflow : (tRun (.salu 0 .div 3 1 2) (tS 0x8000000000000000 0xFFFFFFFFFFFFFFFF)).sGet 3 = 0x8000000000000000 := by decide
theorem test_s0_is_zero : (tRun (.salu 0 .add 0 1 2) (tS 5 7)).sGet 0 = 0 := by decide
theorem test_lui_sign : (tRun (.lui 0 3 0x8000) (tS 0 0)).sGet 3 = 0xFFFFFFFF80000000 := by decide
theorem test_sra : (tRun (.shifti 0 .sra 3 1 4) (tS 0x8000000000000000 0)).sGet 3 = 0xF800000000000000 := by decide
/-- The check value of R121. -/
theorem test_crc32c : crc32c 0xFFFFFFFF [0x31, 0x32, 0x33, 0x34, 0x35, 0x36, 0x37, 0x38, 0x39] = 0x1CF96D7C := by decide +kernel
theorem test_branch_back : (tRun (.branch 0 .ltu 1 2 0xFFFF) { tS 1 2 with pc := 8 }).pc = 4 := by decide
theorem test_branch_falls : (tRun (.branch 0 .lt 1 2 0xFFFF) { tS 1 0xFFFFFFFFFFFFFFFF with pc := 8 }).pc = 12 := by decide
theorem test_jal : (tRun (.jal 0 3 2) { tS 1 2 with pc := 8 }).pc = 16 ∧ (tRun (.jal 0 3 2) { tS 1 2 with pc := 8 }).sGet 3 = 12 := by decide
theorem test_jalr_clears : (tRun (.jalr 0 3 1 3) (tS 0x100 0)).pc = 0x100 := by decide
theorem test_fadd : ((tRun (.sfp 0 .fadd false 3 1 2) (tV 0x3FC00000 0x3FC00000)).vGet 3).toNat = 0x40400000 := by decide +kernel
theorem test_nan_canonical : ((tRun (.sfp 0 .fmul false 3 1 2) (tV 0x7F800000 0)).vGet 3).toNat = 0x7FC00000 := by decide +kernel
theorem test_fmin_zero : ((tRun (.sfp 0 .fmin false 3 1 2) (tV 0 0x80000000)).vGet 3).toNat = 0x80000000 := by decide +kernel
theorem test_fcvt_saturates : (tRun (.sfp 0 .fcvtXF false 3 1 2) (tV 0x7F800000 0)).sGet 3 = 0x7FFFFFFFFFFFFFFF := by decide +kernel

-- ## Exceptions and the tile store

theorem test_illegal_stops : (tRun (.illegalInstruction 0) {}).run = .stopped := by decide +kernel
theorem test_eret : (tRun (.eret 0) { inHandler := true, epc := 0x40 }).pc = 0x40 := by decide
theorem test_misaligned : (tRun (.sldt 0 true 2 3 1 0) (tS 0x102 0)).ecause = 4 := by decide +kernel
/-- The inbox example of chapter 04: half B is 0x6_0000 to 0x7_FFFF, which a load may not read (R84). -/
theorem test_half_b : halfA (tState {}) 0 = 0x40000 ∧ halfB (tState {}) 0 = 0x60000 ∧ (tRun (.sldt 0 true 2 3 1 0) (tS 0x60000 0)).ecause = 7 ∧
    (tRun (.sldt 0 true 2 3 1 0) (tS 0x40000 0)).ecause = 0 := by decide +kernel
theorem test_sstt : (tStep (.sstt 0 1 2 1 0) (tState (tS 0x100 0x1234))).tsRead 0 0x100 2 = [0x34, 0x12] := by decide +kernel
theorem test_sldt_sign : ((tStep (.sldt 0 false 0 3 1 0) (tStep (.sstt 0 1 2 1 0) (tState (tS 0x100 0x12F4)))).tile 0).sGet 3 = 0xFFFFFFFFFFFFFFF4 := by
  decide +kernel

-- ## Vector instructions

theorem test_vadd : (tRun (.vintArith 0 .vadd false 3 1 2 0) (tV 0x0000000500000001 0x00000002FFFFFFFF)).vGet 3 = 0x0000000700000000 := by decide +kernel
theorem test_vabsd_signed : (tRun (.vintArith 0 .vabsd false 3 1 2 0) { tV 0x0000000080000000 0x000000007FFFFFFF with vtype := 6 }).elem 3 0 = 0xFFFFFFFF := by
  decide +kernel
theorem test_vsadd_signed : (tRun (.vintArith 0 .vsadd true 3 1 2 0) { tV 0x7FFFFFFF 0 with vtype := 6, sRegs := [(2, 1)] }).elem 3 0 = 0x7FFFFFFF := by decide +kernel
theorem test_vdiv_zero : (tRun (.vdiv 0 .vdiv false 3 1 2 0) (tV 5 0)).elem 3 0 = 0xFFFFFFFF := by decide +kernel
theorem test_inactive_kept : (tRun (.vmvVs 0 3 1 1) { tV 0 0 with sRegs := [(1, 9)], vRegs := [(3, 0x0000000700000007)], pRegs := [(1, 0x10)] }).vGet 3
    = 0x0000000900000007 := by decide +kernel
theorem test_vfma : (tRun (.vfpArith 0 .vfma false 3 1 2 0) { tV 0x40000000 0x40400000 with vRegs := [(1, 0x40000000), (2, 0x40400000), (3, 0x3F800000)] }).elem 3 0
    = 0x40E00000 := by decide +kernel
theorem test_vcmp_lanes : ((tRun (.vcmp 0 .lt false 2 1 2 0) (tV 0x0000000500000001 0x0000000300000003)).pGet 2).toNat = 0xF := by decide +kernel
theorem test_vcompress : (tRun (.vcompress 0 3 1 1) { tV 0x0000000500000001 0 with pRegs := [(1, 0x10)] }).elem 3 0 = 5 := by decide +kernel
theorem test_vslidedn : (tRun (.vslidedn 0 3 1 2 0) { tV 0x0000000500000001 0 with sRegs := [(2, 1)] }).vGet 3 = 5 := by decide +kernel
theorem test_vred_extends : (tRun (.vred 0 .sum 3 1 2 0) { tV 0xFFFFFFFE00000001 0 with vtype := 6 }).sGet 3 = 0xFFFFFFFFFFFFFFFF := by decide +kernel
theorem test_vscan_segments : (tRun (.vscan 0 .add 3 1 1 0) { tV 0x0000000500000001 0 with pRegs := [(1, 0x10)] }).elem 3 1 = 5 ∧
    (tRun (.vscan 0 .add 3 1 1 0) (tV 0x0000000500000001 0)).elem 3 1 = 6 := by decide +kernel
theorem test_vsort : (tRun (.vsort 0 0 0xF 1 2) (tV 0x0000000100000005 0x0000000B0000000A)).vGet 1 = 0x0000000500000001 ∧
    (tRun (.vsort 0 0 0xF 1 2) (tV 0x0000000100000005 0x0000000B0000000A)).vGet 2 = 0x0000000A0000000B := by decide +kernel
theorem test_pfirst : (tRun (.pfirst 0 3 1) (tV 0 0)).sGet 3 = 2 ∧ (tRun (.pfirst 0 3 1) { tV 0 0 with pRegs := [(1, 0x10)] }).sGet 3 = 1 := by decide +kernel
theorem test_vsetvl : (tRun (.vsetvl 0 3 1 3) { tS 100 0 with vstart := 9 }).vl = 64 ∧ (tRun (.vsetvl 0 3 1 3) { tS 100 0 with vstart := 9 }).vstart = 0 := by decide
theorem test_vl_zero_writes_nothing : (tRun (.pcnt 0 3 0) { vl := 0, sRegs := [(3, 77)] }).sGet 3 = 77 := by decide +kernel
theorem test_first_fault : (tRun (.vld 0 true true 3 1 0) { tV 0 0 with sRegs := [(1, 0x5FFFC)] }).vl = 1 := by decide +kernel
theorem test_vector_fault : (tRun (.vld 0 true false 3 1 0) { tV 0 0 with sRegs := [(1, 0x5FFFC)] }).vstart = 1 := by decide +kernel
/-- Three bits at a time from bit 1 of the bytes 0x34, 0x12. -/
theorem test_vunpk : let s := tStep (.sstt 0 1 2 1 0) (tState (tS 0x100 0x1234))
    ((tStep (.vunpk 0 2 false 3 1 2 0) (s.updTile 0 fun T => { T with vtype := 2, vl := 4, sRegs := [(1, 0x100), (2, 1)] })).tile 0).vGet 3
      = 0x00000004000000040000000300000002 := by decide +kernel
theorem test_vst_low_first : (tStep (.vst 0 true 1 1 0) (tState { tV 0x0000000500000001 0 with sRegs := [(1, 0x100)] })).tsRead 0 0x100 8 = [1, 0, 0, 0, 5, 0, 0, 0] := by
  decide +kernel
theorem test_vhash_width : (tRun (.vhash 0 0 3 1 0) (tV 0 0)).ecause = 5 := by decide +kernel

-- ## Frames, sends and the course of a frame

theorem test_boundary_counts : (tStep .globalBoundary State.reset).frm.count = 1 := by decide +kernel
theorem test_period_range : (tStep (.frmPeriodWrite (.fn 0) 599) State.reset).frm.periodRange = true ∧
    (tStep (.frmPeriodWrite (.fn 0) 599) State.reset).frm.period = 0x960 ∧ (tStep (.frmPeriodWrite (.fn 0) 38400) State.reset).frm.period = 38400 := by decide +kernel
theorem test_period_refused : (tStep (.frmPeriodWrite (.fn 0) 600) (tState {})).frm.periodRefused = true := by decide +kernel
theorem test_other_function : (tStep (.frmPeriodWrite (.fn 1) 600) State.reset).frm.period = 0x960 := by decide +kernel
/-- The example of chapter 04: a record of 100 bytes takes 16 + 112 bytes at half-B offset 0. -/
theorem test_record : let s := tStep (.obxLenWrite 0 1) (tState { tS 100 0 with obxRoute := 2, obxSrc := 0x1000 })
    ((s.tile 0).sendQ.map (·.len)) = [100] ∧ ((tStep (.recordDelivery 0) s).tile 1).dirB = [{ off := 0, srcVtile := 0, seq := 0 }] ∧
    ((tStep (.recordDelivery 0) s).tile 1).fillB = 128 := by decide +kernel
theorem test_fdone : (tRun (.fdone 0) {}).run = .fdone := by decide +kernel
theorem test_fence_waits : (tStep (.fence 0) { tState {} with reds := [{ dpa := 0, op := .add, signed := false, bytes := 8, value := 1, tile := 0, parcel := 5, vintage := 2 }] }).tile 0
    = { run := .running } := by decide +kernel

-- ## Worked examples of the other chapters

/-- Q13 holds T042, T043, T058 and T059; Q63 holds T238, T239, T254 and T255 (chapter 01). -/
theorem test_quads : (List.range 4).map (tileAt 13) = [42, 43, 58, 59] ∧ (List.range 4).map (tileAt 63) = [238, 239, 254, 255] := by decide
/-- The window of parcel 5 over S16 to S23, offset 0x1_0000 and the line after it (chapter 10). -/
theorem test_window_address : let s : State := { parcels := [(5, { st := .active, slices := 0xFF0000 })] }
    canon s 0x428000010000 = some 0x002000002000 ∧ canon s 0x428000010040 = some 0x002200002000 := by decide +kernel
theorem test_gf_double : gfDouble 0x80 = 0x1D := by decide
/-- Capacity of a set of 16 casks with two parity members and 7 % in reserve (chapter 18). -/
theorem test_capacity : setCapacity 16 2 114440 7 = 6099662929 := by decide
/-- A lock that MC1 holds, read by the manager (chapter 20). -/
theorem test_lock : (tStep (.lockRead (.fn 0) 3) { State.reset with mbx := { State.reset.mbx with locks := [(3, 0x8001)] } }).lastRead = 0x80008001 := by decide +kernel

/-- 1,000,000 records of 32 bytes: 16 runs, one merge pass, 2,401,200 cycles; 100,000,000 of 64 bytes: two passes (chapter 08). -/
theorem test_sort_plan :
    let job := fun (n w : Nat) => ({ vtile := 0, tile := 0, off := 0, frame := 0, post := 0, blk := zeros 8 ++ leBytes 8 (n * w) ++ leBytes 4 n ++ zeros 44 } : EngJob)
    let t := fun (w : Nat) => ({ id := 0, keyBytes := 4, recordBytes := w, stable := false, columns := [] } : SortTable)
    (sortPlan (t 32) (job 1000000 32)).cycles = 2401200 ∧ (sortPlan (t 32) (job 1000000 32)).runs = 16 ∧
    (sortPlan (t 64) (job 100000000 64)).passes = 2 ∧ (sortPlan (t 64) (job 100000000 64)).cycles = 720001200 := by decide +kernel
/-- Normalized keys: −2 and 1 as signed columns, 1.5 and −1.5 as floating point (chapter 08). -/
theorem test_sort_key :
    let c := fun (k : Nat) (d : Bool) =>
      ({ srcOffset := 0, width := 4, kind := k, descending := d, nullsFirst := false, transformOn := false, transform := 0, nullBit := 0xFFFF } : SortColumn)
    columnKey tImage [0xFE, 0xFF, 0xFF, 0xFF] (c 1 false) = [1, 0x7F, 0xFF, 0xFF, 0xFE] ∧ columnKey tImage [1, 0, 0, 0] (c 1 true) = [1, 0x7F, 0xFF, 0xFF, 0xFE] ∧
    columnKey tImage [0, 0, 0xC0, 0x3F] (c 2 false) = [1, 0xBF, 0xC0, 0, 0] ∧ columnKey tImage [0, 0, 0xC0, 0xBF] (c 2 false) = [1, 0x40, 0x3F, 0xFF, 0xFF] := by
  decide +kernel
/-- Victims of a full set after a hit on way 0: 4; without way 4, 5; without 4 and 5, 6 (chapter 11, Table 2). -/
theorem test_victims :
    let full := (List.range 8).foldl touchTree 0
    let C := fun (off : BitVec 8) => ({ tree := [(9, touchTree full 0)], waysOff := off } : Cache)
    full = 0 ∧ (C 0).treeWay 9 = 4 ∧ (C 0x10).treeWay 9 = 5 ∧ (C 0x30).treeWay 9 = 6 := by decide +kernel
/-- 30 daily samples with b = 0.0005, a = 0.4 and a residual variance of 8.99 × 10⁻⁷ (chapter 16). -/
theorem test_wear_estimate :
    eolEstimate ((List.range 30).map fun t =>
      (t, if t < 28 then (if t % 4 = 0 ∨ t % 4 = 3 then 400948 + 500 * t else 399052 + 500 * t) else 400000 + 500 * t, 1000000)) = (1171, 1084, 1272) := by decide +kernel
/-- The routing register of source 535 is EVT_ROUTE of DG5, at 0x0004_10B8 of PF0 (chapter 21). -/
theorem test_route_offset : locate State.reset (.fn 0) 0x410B8 = (.route 535, .write) := by decide +kernel
/-- TIL_ID of T255 (chapter 04, Table 8). -/
theorem test_til_id : regValue State.reset (.fn 0) false (.til 255 0) = 0x7FFFFF := by decide +kernel
/-- Row hash 0x3C5A_9E01_7B24_D6E3 goes to entry 32 + 3 of the fan list (R161). -/
theorem test_fan : let I := { tImage with routes := [{ id := 3, fan := true, src := 0, dst := 32, hashLo := 0, hashBits := 4 }], fanList := List.replicate 35 0 ++ [1] }
    let s := ({ parcels := [(5, { tParcel with image := I })], tiles := [(0, { tS 32 0 with run := .running, obxRoute := 3, obxSrc := 0x1000 })] } : State).tsWrite 0 0x1000
      (leBytes 4 16 ++ leBytes 4 1 ++ zeros 8 ++ leBytes 8 0x3C5A9E017B24D6E3 ++ zeros 8)
    ((tStep (.recordDelivery 0) (tStep (.obxLenWrite 0 1) s)).tile 1).dirB.length = 1 := by decide +kernel

-- ## Other commands, one step each

/-- The balls of CSK5 lane 2, of HPB_TXP[13] and of CSK_REFCLK_P[5] (chapter 25). -/
theorem test_balls : (LaneSignal.txp.ball (caskLane 5 2)).name = "AD64" ∧ (LaneSignal.rxn.ball (caskLane 5 2)).name = "AE67" ∧
    (LaneSignal.txp.ball (hostLane 1 13)).name = "AP5" ∧ (refclkBall 5).name = "CJ66" ∧ ((caskLane 5 2).caskPort, (refclkBall 5).caskPort) = (some 5, some 5) ∧
    (Ball.mk 1 24).sideband = some "XSPI_DQ7" ∧ (Ball.mk 3 18).sideband = some "VDD_CORE_SNS_STH" := by decide +kernel
/-- A command port answers an AtomicOp as an Unsupported Request, which AER logs. -/
theorem test_atomic : let s := tStep (.rcRead (.fn 0) 0x40 ⟨0xFF, .atomicOp⟩) State.reset
    s.lastEnd = .error ∧ (s.hport (fnPort State.reset 0)).aer = 1 := by decide +kernel

theorem test_submit : let s : State := { State.reset with ports := { hpa := { linkUp := true, retry := false } }, wins := [(0, { en := true })] }
    let s1 := tStep (.taskSubmit { fn := 0, w := 0 } 0 ([0x43] ++ zeros 63)) s
    (s1.win { fn := 0, w := 0 }).busy = true ∧ latchedOp s1 { fn := 0, w := 0 } = some 0x43 := by decide +kernel
theorem test_mailbox : let s : State := { State.reset with mbx := { chans := [(1, { sender := 0, receiver := 0x8001, valid := true })] } }
    (((tStep (.mbxSend (.fn 0) 1 7) s).mchan 1).full) = true ∧ (tStep (.mbxTake (.firmware 1) 1) (tStep (.mbxSend (.fn 0) 1 7) s)).lastRead = 7 := by decide +kernel
theorem test_reduction : let s : State := { tState {} with reds := [{ dpa := 0x1000, op := .count, signed := false, bytes := 8, value := 9, tile := 0, parcel := 5, vintage := 2 }] }
    (tStep (.reductionApply 0) s).mem.byte 0x1000 = 1 ∧ (tStep (.reductionApply 0) s).reds = [] := by decide +kernel
theorem test_memory_owner : let s := tState {}
    (tStep (.memoryRequest (.tile 0) 0x1000 (.write [7] false) .clean) s).mem.byte 0x1000 = 7 ∧
    (tStep (.memoryRequest (.tile 0) 0x200001000 (.write [7] false) .clean) s).mem.byte 0x200001000 = 0 := by decide +kernel
theorem test_scratch : (tStep (.registerWrite (.fn 0) 0x40 ⟨0x0F, .plain⟩ 0x1122334455667788) State.reset).glb.scratch = 0x55667788 := by decide +kernel
theorem test_thermal : (tStep (.thermalTrip 1 112) State.reset).pwr.stopped = true ∧ (tStep (.thermalTrip 1 111) State.reset).pwr.stopped = false := by decide +kernel
theorem test_watchdog : let s := { State.reset with boot := { State.reset.boot with stage := 6 } }
    (tStep .watchdogExpiry s).pwr.cause = 7 ∧ (tStep .watchdogExpiry s).pwr.resetCount = 1 := by decide +kernel
theorem test_tap : (tStep (.tapInstructionLoad .idcode) State.reset).pkg.tapDr = BitVec.ofNat 32 (idcode State.reset) := by decide +kernel


-- ## Witnesses: states and operands that meet the hypotheses of the statements, clause by clause

/-- A tile of `tState` executes. -/
theorem tState_runs (T : Tile) (h : ({ T with run := .running } : Tile).executes = true) : TileRuns (tState T) 0 := ⟨rfl, h⟩

/-- An active element lies below VL. -/
theorem active_below {T : Tile} {p j : Nat} (h : isActive T p j = true) : j < T.vl := by
  simp only [isActive, Bool.and_eq_true, decide_eq_true_eq] at h
  exact h.1.1

/-- A 2 MiB page of parcel 5 at address 0x200000, in S0, that allows everything. -/
def wEntry : TlbEntry := { vaBase := 0x200000, sizeLog2 := 21, leaf := 0x7F, ast := 0, base := 0x600000 }

/-- Tile T000 with that page in its TLB. -/
def wState (T : Tile) : State := tState { T with mmu := { tlb := { entries := [(0, wEntry)] } } }

theorem wState_role (T : Tile) : ∃ r, roleOf (wState T) 0 = some r := ⟨_, rfl⟩

/-- No walk of that tile is in flight. -/
theorem wWalks (T : Tile) (va : Nat) (k : AccessKind) : WalksFor (wState T) 0 va k := ⟨(fun _ h => nomatch h), (fun _ h => nomatch h)⟩

theorem wit_StepRunsFront : (∃ c cs, ({ State.reset with pending := [.vddAonLoss] } : State).pending = c :: cs) ∧ State.reset.pending = [] := ⟨⟨_, _, rfl⟩, rfl⟩
theorem wit_ScalarIntegerResults : TileRuns (tState {}) 0 := ⟨rfl, rfl⟩
theorem wit_BranchesAndJumps : TileRuns (tState (tS 1 1)) 0 ∧
    branchSpec .geu (((tState (tS 1 1)).tile 0).sGet 1) (((tState (tS 1 1)).tile 0).sGet 2) ∧
    ¬ branchSpec .lt (((tState (tS 1 1)).tile 0).sGet 1) (((tState (tS 1 1)).tile 0).sGet 2) := ⟨⟨rfl, rfl⟩, by unfold branchSpec; decide, by unfold branchSpec; decide⟩
theorem wit_ScalarFloatResults : TileRuns (tState {}) 0 ∧
    (fIsNan 32 (fAdd 32 0x7F800000 0xFF800000) = true ∧ fIsNan 32 0x7F800001 = true ∧ fIsNan 32 0x7F800000 = false) ∧
    (fIsNan 64 (fSqrt 64 0xBFF0000000000000) = true ∧ fIsNan 64 0x7FF0000000000001 = true ∧ fIsNan 64 0 = false) := ⟨⟨rfl, rfl⟩, by decide +kernel, by decide +kernel⟩
theorem wit_TileStoreAccess_reads : TileRuns (tState (tS 0x5FFF8 0)) 0 ∧ memAddr (tState (tS 0x5FFF8 0)) 0 1 0 = 0x5FFF8 ∧ TsReads (tState (tS 0x5FFF8 0)) 0 0x5FFF8 8 ∧
    TsReads (tState (tS 0 0)) 0 0xFFFF8 8 ∧ 0x102 % 4 ≠ 0 ∧ 0x100000 < 0x100000 + 8 ∧ (inboxOf (tState {}) 0).2 ≠ 0 ∧
    0x7FFF8 < halfB (tState {}) 0 + (inboxOf (tState {}) 0).2 ∧ halfB (tState {}) 0 < 0x7FFF8 + 8 := by
  refine ⟨⟨rfl, rfl⟩, by decide +kernel, ⟨rfl, by decide +kernel, by decide +kernel⟩, ⟨rfl, by decide +kernel, by decide +kernel⟩, ?_⟩
  decide +kernel
theorem wit_TileStoreAccess_writes : (tState {}).memOk ∧ TsWrites (tState {}) 0 0x3FFF8 8 ∧ TsWrites (tState {}) 0 0x80000 8 ∧ TsWrites (tState {}) 0 0xFFFD0 8 ∧
    0x40000 < (inboxOf (tState {}) 0).1 + 2 * (inboxOf (tState {}) 0).2 ∧ (inboxOf (tState {}) 0).1 < 0x40000 + 8 := by
  refine ⟨rfl, ⟨rfl, by decide +kernel⟩, ⟨rfl, by decide +kernel⟩, ⟨rfl, by decide +kernel⟩, ?_⟩
  decide +kernel

/-- A parcel with an engine of each kind in its image, and a program on channel 1 of its mover group that takes requests from its stage. -/
def wBell : State :=
  { tState (tS 0 0x100) with
    parcels := [(5, { tParcel with image := { tImage with ceCount := 1, deCount := 1, seCount := 1, movers := [{ vgroup := 0, channel := 1, pipeline := 0, stage := 3, steps := [] }] } })]
    groups := [(0, { chans := [(1, { prog := some (0, 0), xctl := 0x8000 })] })] }
theorem wit_Doorbells : TileRuns wBell 0 ∧ (∀ db ∈ [0xFFFF8, 0xFFFF0, 0xFFFE8, 0xFFFE0, 0xFFFD8], TsWrites wBell 0 db 8) ∧
    (0 % 128 = 0 ∧ 0xFFF80 % 128 = 0 ∧ 0xFFF00 % 128 = 0 ∧ 0xFFE00 % 256 = 0) ∧ (wBell.tile 0).decQ.length < 8 ∧
    (∀ k ∈ [EngKind.ce, .de, .se], ∃ r e, roleOf wBell 0 = some r ∧ 0 < r.parcel.image.engCount k ∧ r.parcel.peng k 0 = some e ∧ (wBell.eng k e).jobs.length < 16) ∧
    (∃ r g m, roleOf wBell 0 = some r ∧ r.parcel.pgroup (bits 0x100 0 8) = some g ∧
      (r.parcel.image.movers.find? fun m => m.vgroup == bits 0x100 0 8 && m.channel == bits 0x100 8 4) = some m ∧ m.pipeline = r.stage.pipeline ∧
      m.stage = r.stage.stage ∧ (wBell.chan g (bits 0x100 8 4)).prog.isSome = true ∧ fld (wBell.chan g (bits 0x100 8 4)).xctl 14 3 = 2 ∧ guardNow wBell r.p = false) := by
  refine ⟨⟨rfl, rfl⟩, ?_, by decide, by decide, ?_, ⟨_, _, _, rfl, rfl, rfl, rfl, rfl, rfl, by decide, by decide⟩⟩
  · intro db h
    simp only [List.mem_cons, List.mem_nil_iff, or_false] at h
    rcases h with rfl | rfl | rfl | rfl | rfl <;> exact ⟨rfl, by decide +kernel⟩
  · intro k h
    simp only [List.mem_cons, List.mem_nil_iff, or_false] at h
    rcases h with rfl | rfl | rfl <;> exact ⟨_, _, rfl, by decide, rfl, by decide⟩
theorem wit_MemoryLoadStore : TileRuns (wState {}) 0 ∧ Reads (wState {}) 0 0x3FFFF8 8 0x7FFFF8 ∧ Reaches (wState {}) 0 0x200000 1 .store 0x600000 ∧
    0x200001 % 2 ≠ 0 ∧ 2 ^ 48 % 8 = 0 ∧ memAddr (wState (tS 0x200000 0)) 0 1 0 = 0x200000 := by
  refine ⟨⟨rfl, rfl⟩, ⟨⟨rfl, rfl, 5, wEntry, ⟨by decide, wWalks _ _ _, by decide, by decide, rfl, rfl, _, rfl⟩, by decide +kernel⟩, by decide +kernel⟩,
    ⟨rfl, rfl, 5, wEntry, ⟨by decide, wWalks _ _ _, by decide, by decide, rfl, rfl, _, rfl⟩, by decide +kernel⟩, by decide, by decide, by decide +kernel⟩
/-- The line at DPA 0x600000 is valid in way 0 of its set. -/
def wCached : State := wState { tS 0x200000 0 with cache := { en := true, lines := [(0, { dpa := 0x600000, dirty := false, poison := false, data := zeros 64 })] } }
theorem wit_CacheHitLoad : TileRuns wCached 0 ∧ memAddr wCached 0 1 0 = 0x200000 ∧ Hits wCached 0 0x200000 .load 5 wEntry 0x600000 ∧
    permReason wCached 5 wEntry .load 0x600000 = none ∧
    (wCached.tile 0).cache.lineAt 0x600000 = some { dpa := 0x600000, dirty := false, poison := false, data := zeros 64 } :=
  ⟨⟨rfl, rfl⟩, by decide +kernel, ⟨by decide, wWalks _ _ _, by decide, by decide, rfl, rfl, _, rfl⟩, by decide +kernel, by decide +kernel⟩
/-- A tile with code at virtual tile 0 whose handler of exception 5 is at 0x80. -/
def wHandled : State := { tState {} with parcels := [(5, { tParcel with image := { tImage with codes := [{ tiles := 1, code := [], entry := 0, handlers := [0, 0, 0, 0, 0, 0x80, 0, 0] }] } })] }
theorem wit_IllegalAndEret : TileRuns wHandled 0 ∧ handlerOf wHandled 0 5 = some 0x80 ∧ (wHandled.tile 0).inHandler = false ∧
    handlerOf (tState {}) 0 5 = none ∧ ((tState { inHandler := true }).tile 0).inHandler = true := ⟨⟨rfl, rfl⟩, by decide, rfl, by decide, rfl⟩
theorem wit_VectorIntegerResults : TileRuns (tState (tV 0 0)) 0 ∧ isActive ((tState (tV 0 0)).tile 0) 0 1 = true := ⟨⟨rfl, rfl⟩, by decide +kernel⟩
theorem wit_VectorFloatResults : TileRuns (tState (tV 0 0)) 0 ∧ 32 ≤ ((tState (tV 0 0)).tile 0).ew := ⟨⟨rfl, rfl⟩, by decide⟩
theorem wit_PredicateResults : TileRuns (tState (tV 0 0)) 0 ∧ 32 ≤ ((tState (tV 0 0)).tile 0).ew := ⟨⟨rfl, rfl⟩, by decide⟩
theorem wit_VectorMoves : TileRuns (tState (tV 0 0)) 0 := ⟨rfl, rfl⟩
theorem wit_VectorPermutes : TileRuns (tState (tV 0 0)) 0 ∧ ((tState (tV 0 0)).tile 0).vstart = 0 := ⟨⟨rfl, rfl⟩, rfl⟩
theorem wit_VectorToScalar : TileRuns (tState (tV 0 0)) 0 ∧ ((tState (tV 0 0)).tile 0).vstart = 0 ∧ 0 < ((tState (tV 0 0)).tile 0).vl ∧
    ((tState { vl := 0 }).tile 0).vl = 0 := ⟨⟨rfl, rfl⟩, rfl, by decide, rfl⟩
theorem wit_FloatReductions : TileRuns (tState (tV 0 0)) 0 ∧ ((tState (tV 0 0)).tile 0).vstart = 0 ∧ 0 < ((tState (tV 0 0)).tile 0).vl ∧
    32 ≤ ((tState (tV 0 0)).tile 0).ew := ⟨⟨rfl, rfl⟩, rfl, by decide, by decide⟩
theorem wit_ScansAndElementCrc : TileRuns (tState (tV 0 0)) 0 ∧ ((tState (tV 0 0)).tile 0).vstart = 0 ∧ 32 ≤ ((tState (tV 0 0)).tile 0).ew :=
  ⟨⟨rfl, rfl⟩, rfl, by decide⟩
theorem wit_SortStep : TileRuns (tState (tV 0 0)) 0 ∧ ((tState (tV 0 0)).tile 0).vstart = 0 ∧
    ((1 : Reg) ≠ 2 ∧ 2 ^ 0 < ((tState (tV 0 0)).tile 0).vl ∧ (1 ≤ (9 : BitVec 4).toNat ∧ (9 : BitVec 4).toNat ≤ 9 ∧ 0 < (9 : BitVec 4).toNat)) ∧
    ¬ 2 ^ 1 < ((tState (tV 0 0)).tile 0).vl := ⟨⟨rfl, rfl⟩, rfl, by decide, by decide⟩
theorem wit_VectorIllegal : TileRuns (tState {}) 0 ∧ ((tState {}).tile 0).ew < 32 ∧ ((tState { vstart := 1 }).tile 0).vstart ≠ 0 ∧
    4096 < ((tState {}).tile 0).vl * (8 * 2 ^ (1 : Size).toNat) ∧ ((tState (tV 0 0)).tile 0).ew ≠ 64 ∧ ((tState {}).tile 0).ew < (8 : BitVec 6).toNat + 1 ∧
    (10 ≤ (10 : BitVec 4).toNat ∧ (14 : BitVec 4).toNat ≤ 14) ∧ (9 : BitVec 4).toNat ≤ (9 : BitVec 4).toNat := ⟨⟨rfl, rfl⟩, by decide⟩
/-- Two 32-bit elements at 0x100, and indices 0 and 1. -/
def wVts : Tile := { tV 0x0000000500000001 0x0000000100000000 with sRegs := [(1, 0x100), (2, 4)] }
theorem wit_VectorTileStoreAccess : TileRuns (tState wVts) 0 ∧
    (∀ j, isActive ((tState wVts).tile 0) 0 j = true → TsReads (tState wVts) 0 ((0x100 + j * 4) % 2 ^ 64) 4 ∧ TsWrites (tState wVts) 0 ((0x100 + j * 4) % 2 ^ 64) 4) ∧
    ((tState wVts).tile 0).vl * (8 * 2 ^ (2 : Size).toNat) ≤ 4096 := by
  refine ⟨⟨rfl, rfl⟩, ?_, by decide⟩
  intro j h
  have : ∀ j < 2, (0x100 + j * 4) % 2 ^ 64 % 4 = 0 ∧ tsLoadBad (tState wVts) 0 ((0x100 + j * 4) % 2 ^ 64) 4 = false ∧
    (tState wVts).tsPoison 0 ((0x100 + j * 4) % 2 ^ 64) 4 = none ∧ tsStoreBad (tState wVts) 0 ((0x100 + j * 4) % 2 ^ 64) 4 = false := by decide +kernel
  have := this j (active_below h)
  exact ⟨⟨this.1, this.2.1, this.2.2.1⟩, ⟨this.1, this.2.2.2⟩⟩
/-- Two 32-bit elements at address 0x200000. -/
def wVm : State := wState { tV 0x0000000500000001 0x0000000100000000 with sRegs := [(1, 0x200000), (2, 4)] }
theorem wVm_reads (j : Nat) (h : isActive (wVm.tile 0) 0 j = true) (k : AccessKind) :
    Reaches wVm 0 ((0x200000 + j * 4) % 2 ^ 64) 4 k (0x600000 + j * 4) ∧ ∀ i, i < 4 → wVm.mem.poisoned (0x600000 + j * 4 + i) = false := by
  have h1 := active_below h
  have : j = 0 ∨ j = 1 := by have : (wVm.tile 0).vl = 2 := rfl; omega
  rcases this with rfl | rfl <;> cases k <;>
    exact ⟨⟨rfl, rfl, 5, wEntry, ⟨by decide, wWalks _ _ _, by decide, by decide, rfl, rfl, _, rfl⟩, by decide +kernel⟩, by decide +kernel⟩
theorem wit_VectorMemoryAccess : TileRuns wVm 0 ∧
    (∀ j, isActive (wVm.tile 0) 0 j = true → Reads wVm 0 ((0x200000 + j * 4) % 2 ^ 64) 4 (0x600000 + j * 4)) ∧
    (∀ j, isActive (wVm.tile 0) 0 j = true → Reaches wVm 0 ((0x200000 + j * 4) % 2 ^ 64) 4 .store (0x600000 + j * 4)) ∧
    (wVm.tile 0).vl * (8 * 2 ^ (2 : Size).toNat) ≤ 4096 := ⟨⟨rfl, rfl⟩, fun j h => wVm_reads j h .load, fun j h => (wVm_reads j h .store).1, by decide⟩
/-- The second of two elements lies in half B. -/
def wHalf (a : Word) : Tile := { tV 0 0 with sRegs := [(1, a)] }
theorem wit_VectorLoadFault : TileRuns (tState (wHalf 0x5FFFC)) 0 ∧ isActive ((tState (wHalf 0x5FFFC)).tile 0) 0 1 = true ∧
    (∀ j, isActive ((tState (wHalf 0x5FFFC)).tile 0) 0 j = true → j < 1 → TsReads (tState (wHalf 0x5FFFC)) 0 ((0x5FFFC + j * 4) % 2 ^ 64) 4) ∧
    ¬ TsReads (tState (wHalf 0x5FFFC)) 0 0x60000 4 ∧ ¬ TsReads (tState (wHalf 0x102)) 0 0x102 4 ∧ 0x102 % 4 ≠ 0 ∧ 0x60000 % 4 = 0 ∧
    tsLoadBad (tState (wHalf 0x5FFFC)) 0 0x60000 4 = true ∧
    (∃ s : State, tsLoadBad s 0 0x100 4 = false ∧ ¬ TsReads s 0 0x100 4) := by
  refine ⟨⟨rfl, rfl⟩, by decide +kernel, ?_, ?_, ?_, by decide, rfl, by decide +kernel, ?_⟩
  · intro j _ h1
    have : j = 0 := by omega
    subst this
    exact ⟨rfl, by decide +kernel, by decide +kernel⟩
  · intro h
    exact absurd h.2.1 (by decide +kernel)
  · intro h
    exact absurd h.1 (by decide)
  · refine ⟨{ tState {} with mem := { poison := [tsBase 0 + 0x100] } }, by decide +kernel, ?_⟩
    intro h
    exact absurd h.2.2 (by decide +kernel)
/-- Two 64-bit elements; hash slot 0 of virtual tile 0 takes keys of 8 bytes, slot 1 keys whose length is an operand. -/
def wHash (a b : Word) : State :=
  { tState { vtype := 3, vl := 2, sRegs := [(1, a), (2, b)] } with
    parcels := [(5, { tParcel with image := { tImage with hashes := [{ tiles := 1, slot := 0, keyLen := 8, seed := 1 }] } })] }
theorem wit_HashUnpackDictionary : TileRuns (wHash 0x100 8) 0 ∧ ((wHash 0x100 8).tile 0).ew = 64 ∧ (hashSlot (wHash 0x100 8) 0 0).1 = 8 ∧
    (hashSlot (wHash 0x100 0x400008) 0 1).1 = 0 ∧ 0x400008 / 2 ^ 16 % 2 ^ 8 = 64 ∧
    (∀ j, isActive ((wHash 0x100 0x400008).tile 0) 0 j = true → badByte (wHash 0x100 0x400008) 0 ((0x100 + j * 8) % 2 ^ 64) 64 = none) ∧
    (63 : BitVec 6).toNat + 1 ≤ 64 ∧
    (∀ j, isActive ((wHash 0x100 7).tile 0) 0 j = true →
      badByte (wHash 0x100 7) 0 ((0x100 + (7 + j * 64) / 8) % 2 ^ 64) (((7 + j * 64) % 8 + 64 + 7) / 8) = none) ∧
    ((wHash 0x100 8).tile 0).vl * (8 * 2 ^ (3 : Size).toNat) ≤ 4096 ∧ 0x100 % (64 / 8) = 0 ∧
    (∀ j, isActive ((wHash 0x100 8).tile 0) 0 j = true → 0 < 8 ∧ TsReads (wHash 0x100 8) 0 0x100 8) := by
  refine ⟨⟨rfl, rfl⟩, by decide, by decide, by decide, rfl, ?_, by decide, ?_, by decide, rfl, fun _ _ => ⟨by decide, rfl, by decide +kernel, by decide +kernel⟩⟩
  · intro j h
    have : ∀ j < 2, badByte (wHash 0x100 0x400008) 0 ((0x100 + j * 8) % 2 ^ 64) 64 = none := by decide +kernel
    exact this j (active_below h)
  · intro j h
    have : ∀ j < 2, badByte (wHash 0x100 7) 0 ((0x100 + (7 + j * 64) / 8) % 2 ^ 64) (((7 + j * 64) % 8 + 64 + 7) / 8) = none := by decide +kernel
    exact this j (active_below h)

/-- Reductions of two elements, one of them at the last words of the page; a word at 0x600000 waits to be reduced. -/
def wRed : Red := { dpa := 0x600000, op := .add, signed := false, bytes := 4, value := 1, tile := 0, parcel := 5, vintage := 2 }
def wReds : State := { wVm with reds := [wRed] }
theorem wit_MemoryReductions : TileRuns wVm 0 ∧ 32 ≤ (wVm.tile 0).ew ∧
    (∀ j, isActive (wVm.tile 0) 0 j = true → Reaches wVm 0 ((0x200000 + j * 4) % 2 ^ 64) 4 .reduce (0x600000 + j * 4)) ∧
    wVm.reds.length + ((List.range (wVm.tile 0).vl).filter (isActive (wVm.tile 0) 0)).length ≤ 32 ∧
    wReds.reds[0]? = some wRed ∧ wReds.mem.poisoned wRed.dpa = false ∧ (∀ x ∈ wReds.mem.stores, x.2 ≤ wRed.dpa ∨ wRed.dpa + wRed.bytes ≤ x.1) ∧
    ({ wReds with mem := { poison := [0x600000] } } : State).mem.poisoned wRed.dpa = true := by
  refine ⟨⟨rfl, rfl⟩, by decide, fun j h => (wVm_reads j h .reduce).1, by decide +kernel, rfl, by decide +kernel, ?_, by decide +kernel⟩
  intro x h
  cases h
theorem wit_ControlRegisterReads : (∃ r, roleOf (tState {}) 0 = some r ∧ r.stage.source = false) ∧ tileParcel (tState {}) 0 = some 5 ∧
    csrListed (0x007 : BitVec 12).toNat = false ∧ csrListed (0xFFF : BitVec 12).toNat = false := ⟨⟨_, rfl, rfl⟩, by decide, by decide, by decide⟩
theorem wit_ControlRegisterWrites : TileRuns (tState (tS 7 0)) 0 ∧ (((tState (tS 7 0)).tile 0).sGet 1).toNat < 8 ∧ 8 ≤ (((tState (tS 8 0)).tile 0).sGet 1).toNat ∧
    (0x003 : BitVec 12) ∉ ([0x000, 0x001, 0x002, 0x004, 0x006, 0x023, 0x030, 0x031, 0x032] : List (BitVec 12)) := ⟨⟨rfl, rfl⟩, by decide, by decide, by decide⟩
/-- Sixteen sends wait. -/
def wSend : Send := { route := 2, src := 0x1000, len := 100, seq := 0, hdr := [], late := false }
theorem wit_Sends : TileRuns (tState (tS 65536 0)) 0 ∧ routeOf (tState {}) 0 9 = none ∧ 65536 < 65537 ∧ 0x100000 < 0xF0000 + 65537 ∧
    (∃ r, routeOf (tState {}) 0 2 = some r ∧ r.fan = false) ∧ 0xF0000 + 65536 ≤ 0x100000 ∧ ((tState {}).tile 0).sendQ.length < 16 ∧
    16 ≤ ((tState { sendQ := List.replicate 16 wSend }).tile 0).sendQ.length ∧
    (let s := tState { sendQ := [wSend] }
     ∃ o r, (s.tile 0).sendQ = wSend :: [] ∧ roleOf s 0 = some o ∧ routeOf s 0 wSend.route = some r ∧ r.fan = false ∧ o.parcel.ptile r.dst = some 1 ∧
       s.memOk ∧ halfB s 1 + (inboxOf s 1).2 ≤ 0x100000 ∧ (s.tile 1).fillB + (16 + roundUp wSend.len 16) ≤ (inboxOf s 1).2 ∧ (s.tile 1).dirB.length < 1024) :=
  ⟨⟨rfl, rfl⟩, by decide, by decide, by decide, ⟨_, rfl, rfl⟩, by decide, by decide, by decide +kernel,
    ⟨_, _, rfl, rfl, rfl, rfl, rfl, rfl, by decide +kernel, by decide +kernel, by decide⟩⟩
/-- An item, and a parcel whose stage is pooled and whose image sets up flow 0 of it. -/
def wItem : Item := { flow := 0, cls := 0, priority := 0, close := false, stage := 3, pipeline := 0, vintage := 2, payload := 0, length := 0, seq := 0, tag := 0 }
def wPool (T : Tile) : State :=
  { tState T with
    parcels := [(5, { tParcel with itemCap := 64, flowCap := 64, image := { tImage with
      stages := [{ pipeline := 0, stage := 3, pooled := true, source := false, sink := false, tiles := [0, 1, 2, 3], budget := 900, inboxBase := 0, inboxHalf := 0 }]
      flows := [{ pipeline := 0, stage := 3, cls := 0, priority := 0, flowBase := 0, flowCount := 1, affDepth := 0, affWindow := 0, reorder := 0 }] } })] }
theorem wit_FrameDone : TileRuns (tState {}) 0 ∧ ((tState {}).tile 0).held = none ∧
    (((tState {}).tile 0).sendQ = [] ∧ (∀ r ∈ (tState {}).reds, r.tile ≠ 0) ∧ ((tState {}).tile 0).decQ = [] ∧ ((tState {}).tile 0).decRun = none) ∧
    (∀ r, roleOf (tState {}) 0 = some r → r.stage.pooled = false) ∧ (∃ r, roleOf (wPool {}) 0 = some r ∧ r.stage.pooled = true) ∧
    ((tState { sendQ := [wSend] }).tile 0).sendQ ≠ [] ∧ ((wPool { held := some { item := wItem } }).tile 0).held.isSome = true ∧
    (∃ r ∈ wReds.reds, r.tile = 0) := by
  refine ⟨⟨rfl, rfl⟩, rfl, ⟨rfl, ?_, rfl, rfl⟩, ?_, ⟨_, rfl, rfl⟩, by decide, rfl, ⟨_, List.mem_singleton.mpr rfl, rfl⟩⟩
  · intro r h
    cases h
  · intro r h
    have h1 : roleOf (tState {}) 0 = some _ := rfl
    rw [h1] at h
    cases h
    rfl
/-- The 32 bytes of an item at 0x200 of the tile store of a lockstep stage, beside a pooled stage 4. -/
def wPut (bs : List Byte) : State :=
  (({ tState { sRegs := [(1, 0x200)] } with
      parcels := [(5, { tParcel with itemCap := 64, flowCap := 64, image := { tImage with stages := tImage.stages ++ [{
        pipeline := 0, stage := 4, pooled := true, source := false, sink := false, tiles := [], budget := 900, inboxBase := 0, inboxHalf := 0 }] } })] } : State).tsWrite
    0 0x200 bs)
theorem wPut_role (bs : List Byte) : ∃ r, roleOf (wPut bs) 0 = some r ∧ r.stage.pooled = false := ⟨_, rfl, rfl⟩
theorem wit_WorkItems : Clocked (wPool {}) ∧ (∃ r, roleOf (wPool {}) 0 = some r ∧ r.stage.pooled = true) ∧ TsWrites (wPool {}) 0 0xFFFA0 32 ∧
    (let s := wPool { dqWait := some (3, 0x200), localQ := [{ item := wItem }] }
     (s.tile 0).run = .running ∧ (s.tile 0).dqWait = some (3, 0x200) ∧ (s.tile 0).localQ = { item := wItem } :: []) ∧
    (∀ u, ((wPool { dqWait := some (3, 0x200) }).tile u).localQ = []) ∧ ((wPool { held := some { item := wItem } }).tile 0).held = some { item := wItem } ∧
    wItem.cls = 0 ∧ TsReads (tState {}) 0 0x200 32 ∧
    (∃ r, roleOf (tState {}) 0 = some r ∧ r.stage.pooled = false ∧ TileRuns (tState {}) 0) ∧
    (let s := wPut (Item.bytes { wItem with stage := 4 })
     let bs := s.tsRead 0 0x200 32
     TileRuns s 0 ∧ TsReads s 0 0x200 32 ∧ putCode s 5 (itemOf bs) (itemReserved bs) false = 0) ∧
    (let s := wPut (zeros 32)
     let bs := s.tsRead 0 0x200 32
     TileRuns s 0 ∧ TsReads s 0 0x200 32 ∧ putCode s 5 (itemOf bs) (itemReserved bs) false ≠ 0 ∧ putCode s 5 (itemOf bs) (itemReserved bs) false ≠ 3) := by
  refine ⟨rfl, ⟨_, rfl, rfl⟩, ⟨rfl, by decide +kernel⟩, ⟨rfl, rfl, rfl⟩, ?_, rfl, rfl, ⟨rfl, by decide +kernel, by decide +kernel⟩, ⟨_, rfl, rfl, rfl, rfl⟩,
    ⟨⟨rfl, by decide +kernel⟩, ⟨rfl, by decide +kernel, by decide +kernel⟩, by decide +kernel⟩,
    ⟨⟨rfl, by decide +kernel⟩, ⟨rfl, by decide +kernel, by decide +kernel⟩, by decide +kernel, by decide +kernel⟩⟩
  intro u
  cases u <;> rfl

/-- The line at 0x600000 is dirty. -/
def wDirty (en : Bool) : State := wState { tS 0x200008 64 with cache := { en := en, clean := true, lines := [(0, { dpa := 0x600000, dirty := true, poison := false, data := zeros 64 })] } }
theorem wit_CacheMaintenance : TileRuns (wDirty true) 0 ∧ ((wDirty true).tile 0).cache.en = true ∧ ((wDirty true).tile 0).cache.clean = true ∧
    ((wDirty true).tile 0).cache.prefetches = [] ∧ (((wDirty true).tile 0).sGet 1).toNat < 2 ^ 48 ∧ tileParcel (wDirty true) 0 = some 5 ∧
    ((wDirty true).tile 0).mmu.tlb.lookup (0x200008 / 4096 * 4096) = some wEntry ∧ ((wDirty false).tile 0).cache.en = false :=
  ⟨⟨rfl, rfl⟩, rfl, rfl, rfl, by decide, by decide, by decide, rfl⟩
/-- The same tile with no line, and its parcel running an EXECUTE. -/
def wBusy : State := { wState {} with cmds := [{
  win := { fn := 0, w := 1 }, tag := 3, opcode := 0x12, ordered := true, raw := [], parcel := some 5, vintage := 2, seq := 0, phase := .running }] }
theorem wit_TileCacheRows : Clocked (wDirty true) ∧ mayCache (wDirty true) 0 0x600040 = true ∧ ((wDirty true).tile 0).cache.way 0x600040 = none ∧
    place 0x600040 = .cellar 0x600040 ∧ ((tState { cache := { prefetches := [0x600000] } }).tile 0).cache.prefetches = 0x600000 :: [] ∧
    tilePresent (wDirty true) 0 = true ∧ ((wDirty true).tile 0).cache.waysOff.getLsbD 7 = false ∧
    4 ≤ Cache.offCount { waysOff := 0x07 ||| BitVec.ofNat 8 (2 ^ 7) } ∧ ((tState { cache := { disabling := true } }).tile 0).cache.disabling = true ∧
    ((tState { cache := { maintOp := 2 } }).tile 0).cache.maintOp ≠ 0 ∧ isManager (wDirty true) (.fn 0) = true ∧
    (tileBusy wBusy 0 || (wBusy.tile 0).cache.maintBusy) = true ∧ (tileBusy (wDirty true) 0 || ((wDirty true).tile 0).cache.maintBusy) = false ∧
    (fbit 1 0 = true ∧ fbit 2 0 = false) ∧ ((wDirty true).tile 0).cache.prefetches = [] :=
  ⟨rfl, by decide +kernel, by decide, rfl, rfl, by decide, by decide, by decide, rfl, by decide, by decide, by decide, by decide, by decide, rfl⟩
/-- Parcel 5 with an invalidation of tile 0 outstanding. -/
def wInval (i : Inval) : State := { tState {} with parcels := [(5, { tParcel with invals := [i] })] }
theorem wit_TlbMaintenance : TileRuns (tState {}) 0 ∧ tileParcel (tState {}) 0 = some 5 ∧
    (∀ i ∈ ((wInval { tile := some 0, byReg := true }).parcel 5).invals, i.tile = some 0 → i.byReg = true) ∧
    (∃ i ∈ ((wInval { tile := some 0, byReg := false }).parcel 5).invals, i.tile = some 0 ∧ i.byReg = false) ∧ isManager (tState {}) (.fn 0) = true ∧
    tilePresent (tState {}) 0 = true ∧ ((tState { mmu := { invBusy := true } }).tile 0).mmu.invBusy = true ∧
    (let M := ((tState { mmu := { rootValid := true } }).tile 0).mmu
     M.invBusy = false ∧ (false && M.rootValid) = false ∧ (true && M.rootValid) = true) ∧
    ((wInval { tile := some 0, byReg := true }).parcel 5).invals = { tile := some 0, byReg := true } :: [] := by
  refine ⟨⟨rfl, rfl⟩, by decide, ?_, ⟨_, List.mem_singleton.mpr rfl, rfl, rfl⟩, by decide, by decide, rfl, ⟨rfl, rfl, rfl⟩, rfl⟩
  intro i h _
  rw [List.mem_singleton.mp h]
/-- Parcel 5 with its root table at `root`, whose first descriptor is `d`. -/
def wWalk (root : Nat) (d : Byte) (poison : List Nat) : State :=
  { tState {} with parcels := [(5, { tParcel with root := root })], mem := { cells := if d = 0 then [] else [(0x600000, d)], poison := poison } }
theorem wit_WalkDescriptorReads : Clocked (wWalk 0x600000 7 []) ∧ unitParcel (wWalk 0x600000 7 []) (.tile 0) = some 5 ∧ unitParcel (wWalk 0x600000 7 []) (.se 0) = some 5 ∧
    (unitTlb (wWalk 0x600000 7 []) (.tile 0)).walk = none ∧ (unitTlb (wWalk 0x600000 7 []) (.tile 0)).lookup 0x200000 = none ∧
    (let w := walkStart (wWalk 0x600000 7 []) (.tile 0) 5 0x200000 .load
     w.table + 8 * (0x200000 / 2 ^ (39 - 9 * w.level) % 512) = 0x600000 ∧ canon (wWalk 0x600000 7 []) 0x600000 = some 0x600000 ∧
     pointerReason (wWalk 0x600000 7 []) 5 w.table = none ∧ (wWalk 0x600000 7 []).mem.poisoned 0x600000 = false ∧
     leNat ((wWalk 0x600000 7 []).mem.read 0x600000 8) = 7 ∧ descReason 7 0 = none ∧ bitOf 7 1 = true) ∧
    (leNat ((wWalk 0x600000 1 []).mem.read 0x600000 8) = 1 ∧ descReason 1 0 = none ∧ bitOf 1 1 = false) ∧
    ((wWalk 0 0 []).tile 0).executes = true ∧ pointerReason (wWalk 0x100000000000 0 []) 5 0x100000000000 = some 0x31 ∧
    (wWalk 0x600000 7 [0x600000]).mem.poisoned 0x600000 = true ∧ leNat ((wWalk 0x600000 0 []).mem.read 0x600000 8) = 0 ∧ descReason 0 0 = some 1 :=
  ⟨rfl, by decide, by decide, rfl, by decide, by decide +kernel, by decide +kernel, by decide, by decide +kernel, by decide +kernel, by decide +kernel, by decide⟩
/-- A decode command of 16 bytes of input at 0x2000, under a table of one state whose transition runs the action `a`, or does nothing. -/
def wDec (act : Bool) (T : Tile) : State :=
  { tState T with parcels := [(5, { tParcel with image := { tImage with decTables := [{
      tiles := 1, slot := 0, states := 1, actionBase := 0, transitions := [if act then 0x1000000 else 0], actions := [0x80000000 + 0x11 * 2 ^ 26 + 1] }] } })] }
def wDecCmd : DecCmd := { off := 0x3000, bytes := leBytes 4 0x2000 ++ leBytes 4 16 ++ zeros 88 }
theorem wit_DecodeUnitAndTileReset : Clocked (wDec false {}) ∧ ((wDec false { decQ := [wDecCmd] }).tile 0).decRun = none ∧
    ((wDec false { decQ := [wDecCmd] }).tile 0).decQ = wDecCmd :: [] ∧ decCheck (wDec false {}) 0 wDecCmd = none ∧
    decCheck (tState {}) 0 wDecCmd = some 5 ∧ 4096 ≤ ({ decBegin wDecCmd with idle := 4096 } : DecRun).idle ∧ (decBegin wDecCmd).idle < 4096 ∧
    (decStepW 0 { s := wDec false {}, r := decBegin wDecCmd }).e = .go ∧
    (∃ r, (decStepW 0 { s := wDec true {}, r := decBegin wDecCmd }).e = .done 2 ∧ roleOf (decStepW 0 { s := wDec true {}, r := decBegin wDecCmd }).s 0 = some r) ∧
    (decStepW 0 { s := tState {}, r := decBegin wDecCmd }).e = .fail 5 0 ∧ isManager (tState {}) (.fn 0) = true ∧ tilePresent (tState {}) 0 = true ∧
    tileBusy wBusy 0 = true ∧ tileBusy (tState {}) 0 = false :=
  ⟨rfl, rfl, rfl, by decide +kernel, by decide +kernel, by decide, by decide, by decide +kernel, ⟨_, by decide +kernel, rfl⟩, by decide +kernel, by decide, by decide,
    by decide, by decide⟩

/-- Whether an access succeeds. -/
def okay {ε α : Type} : Except ε α → Bool
  | .ok _ => true
  | .error _ => false
theorem okay_pair {ε α : Type} (r : Except ε α × State) (h : okay r.1 = true) : ∃ a, r = (.ok a, r.2) := by
  rcases r with ⟨_ | a, s⟩
  · cases h
  · exact ⟨a, rfl⟩
/-- A running job of a block. -/
def wJob (blk : List Byte) : EngJob := { vtile := 0, tile := 0, off := 0, blk := blk, frame := 0, post := 0, admitted := true, running := true }
/-- Engine 0 of a kind with one job and the page of `wEntry`. -/
def wEng (j : EngJob) : Engine := { jobs := [j], tlb := { entries := [(0, wEntry)] } }
/-- Two records of 4 bytes from 0x200000 to 0x200040, under table 0. -/
def wSortJob : EngJob := wJob (leBytes 8 0x200000 ++ leBytes 8 8 ++ leBytes 4 2 ++ zeros 4 ++ leBytes 8 0x200040 ++ leBytes 8 64 ++ leBytes 8 0x200080 ++ zeros 16)
def wTable : SortTable := { id := 0, keyBytes := 4, recordBytes := 4, stable := true, columns := [] }
def wSort : State := { tState {} with parcels := [(5, { tParcel with image := { tImage with sortTables := [wTable] } })], ses := [(0, wEng wSortJob)] }
/-- SHA-256 of three bytes at 0x200000, final, nothing kept; and the compression job of no bytes, one way and the other. -/
def wDigestJob : EngJob := wJob (leBytes 8 0x80 ++ leBytes 8 0x200000 ++ leBytes 8 3 ++ zeros 40)
def wDigest (j : EngJob) : State := { tState {} with des := [(0, wEng j)], ces := [(0, wEng j)] }
theorem wit_EngineJobs_sort : Clocked wSort ∧ (wSort.eng .se 0).running = some wSortJob ∧ engParcel wSort .se 0 = some 5 ∧ sortTable (wSort.parcel 5).image wSortJob = some wTable ∧
    (∃ input s1 x s2 places s3, unitRead wSort (engUnit .se 0) (sjInAddr wSortJob) (sjInBytes wSortJob) false .any = (.ok input, s1) ∧
      unitPlaces s1 (engUnit .se 0) (wSortJob.f 0x28 8) (sortPlan wTable wSortJob).scratch .cellar = (.ok x, s2) ∧
      unitPlaces s2 (engUnit .se 0) (wSortJob.f 0x18 8) (sortPlan wTable wSortJob).outBytes .cellar = (.ok places, s3)) := by
  refine ⟨rfl, by decide, by decide, by decide +kernel, ?_⟩
  obtain ⟨a, ha⟩ := okay_pair (unitRead wSort (engUnit .se 0) (sjInAddr wSortJob) (sjInBytes wSortJob) false .any) (by decide +kernel)
  obtain ⟨b, hb⟩ := okay_pair (unitPlaces (unitRead wSort (engUnit .se 0) (sjInAddr wSortJob) (sjInBytes wSortJob) false .any).2 (engUnit .se 0) (wSortJob.f 0x28 8)
    (sortPlan wTable wSortJob).scratch .cellar) (by decide +kernel)
  obtain ⟨c, hc⟩ := okay_pair (unitPlaces (unitPlaces (unitRead wSort (engUnit .se 0) (sjInAddr wSortJob) (sjInBytes wSortJob) false .any).2 (engUnit .se 0)
    (wSortJob.f 0x28 8) (sortPlan wTable wSortJob).scratch .cellar).2 (engUnit .se 0) (wSortJob.f 0x18 8) (sortPlan wTable wSortJob).outBytes .cellar) (by decide +kernel)
  exact ⟨a, _, b, _, c, _, ha, hb, hc⟩
/-- A job that resumes a slot of an address that no page maps: it fails before the codec runs. -/
def wLostSlot : EngJob := wJob (leBytes 8 0x1000000100 ++ zeros 56)
theorem wit_EngineJobs_codec : ((wDigest wDigestJob).eng .ce 0).running = some wDigestJob ∧ engParcel (wDigest wDigestJob) .ce 0 = some 5 ∧
    ((cmpRun (wDigest wLostSlot) 0 0 wLostSlot).1.fail.isSome = true ∧ (wDigest wLostSlot).eng .ce 0 = wEng wLostSlot) ∧
    (bitOf (cjBind (wJob (leBytes 8 0x8000000000000000))) 15 = true ∧ bitOf (cjBind wDigestJob) 15 = false ∧ wDigestJob.op 9 = false) ∧
    suspendFor ((wDigest wDigestJob).eng .ce 0).jobs slotClash = ((wDigest wDigestJob).eng .ce 0).jobs ∧
    (let n : EngJob := { wDigestJob with post := 1, running := false, prio := 1, blk := zeros 48 ++ leBytes 8 0x1000000 ++ zeros 8 }
     suspendFor [wDigestJob, n] slotClash ≠ [wDigestJob, n]) ∧
    (∃ l t, unitPlaces (wDigest wDigestJob) (engUnit .ce 0) 0x200000 64 .cellar = (.ok l, t)) ∧
    (State.reset.eng .ce 0).running = none ∧ (State.reset.eng .se 0).running = none := by
  refine ⟨by decide, by decide, by decide +kernel, by decide, by decide, by decide, ?_, rfl, rfl⟩
  obtain ⟨a, ha⟩ := okay_pair (unitPlaces (wDigest wDigestJob) (engUnit .ce 0) 0x200000 64 .cellar) (by decide +kernel)
  exact ⟨a, _, ha⟩
/-- A decompression of a whole DEFLATE stream of an undeclared length. -/
def wInflate : EngJob := wJob (leBytes 8 0x81 ++ zeros 32 ++ leBytes 8 (2 ^ 64 - 1) ++ zeros 16)
theorem wInflate_fields : wInflate.op 7 = true ∧ cjFormat wInflate = 0 ∧ cjDeclared wInflate = false := by decide
/-- A stream of one fixed block, "aaa" by three literals (RFC 1951), and a reserved block type. -/
theorem test_inflate :
    let r := fun (l : List Byte) => decompressRun wInflate {} { bytes := 100, beyond := { code := 0, reason := 0 } } l none
    (r [0x4B, 0x4C, 0x4C, 0x04, 0x00]).fail.isNone = true ∧ (r [0x4B, 0x4C, 0x4C, 0x04, 0x00]).out = [0x61, 0x61, 0x61] ∧
    (r [0x07]).fail = some { code := sDECOMPRESS_CHECK_FAIL, reason := 0x0E } := by decide +kernel
/-- The check values that the formats' own documents give for known strings. -/
theorem test_checks : crc32 0 [0x31, 0x32, 0x33, 0x34, 0x35, 0x36, 0x37, 0x38, 0x39] = 0xCBF43926 ∧
    adler32 1 [0x57, 0x69, 0x6B, 0x69, 0x70, 0x65, 0x64, 0x69, 0x61] = 0x11E60398 := by decide +kernel
theorem wit_EngineJobs :
    ((wDigest { wDigestJob with running := false, snoop := true, ended := true }).eng .de 0).snoopDone.map (fun j => (djResume j, j.seenPoison)) = some (false, none) ∧
    ((wDigest { wDigestJob with running := false, snoop := true, ended := true }).eng .de 0).snoopDone
      = some { wDigestJob with running := false, snoop := true, ended := true } ∧
    ((wDigest wDigestJob).eng .de 0).snoopDone = none ∧ ((wDigest wDigestJob).eng .de 0).running = some wDigestJob ∧ wDigestJob.snoop = false ∧
    (djResume wDigestJob = false ∧ djKeep wDigestJob = false ∧ djFinal wDigestJob = true ∧ djOut wDigestJob ≠ 2 ∧ djHmac wDigestJob = false ∧ djKeyLoad wDigestJob = false) ∧
    (∃ input s1, unitRead (wDigest wDigestJob) (engUnit .de 0) (wDigestJob.f 8 8) (wDigestJob.f 0x10 8) false .cellarOrTiles = (.ok input, s1)) ∧
    (let n : EngJob := { wDigestJob with post := 1, running := false, prio := 1 }
     [wDigestJob, n].find? (·.running) = some wDigestJob ∧ nextJob [wDigestJob, n] (fun _ _ => false) = some n ∧ wDigestJob.prio < n.prio ∧ n.post ≠ wDigestJob.post) := by
  refine ⟨by decide, by decide, by decide, by decide, rfl, by decide, ?_, by decide⟩
  obtain ⟨a, ha⟩ := okay_pair (unitRead (wDigest wDigestJob) (engUnit .de 0) (wDigestJob.f 8 8) (wDigestJob.f 0x10 8) false .cellarOrTiles) (by decide +kernel)
  exact ⟨a, _, ha⟩
/-- A management job, and an engine that runs it. -/
def wMgmt (load : Bool) : MgmtJob := { alg := 4, keySlot := 0, keyLoad := load, data := List.replicate 4096 0 }
def wManaged (load : Bool) : State := { State.reset with des := [(0, { mjob := some (wMgmt load) })] }
theorem wit_KeysAndManagementJobs : Clocked State.reset ∧ isManager State.reset (.fn 0) = true ∧
    (keyOwnerOf 0x45 0 = some (.parcel 5) ∧ 8 * 1 + 0 ≠ 0 ∧ KeyOwner.parcel 5 ≠ (State.reset.keySlot 8).owner) ∧ 8 * 0 + 0 = 0 ∧ keyOwnerOf 0xC0 0 = none ∧
    keyOwnerOf 0 0 = some (State.reset.keySlot 8).owner ∧ engPresent State.reset .de 15 = true ∧ (State.reset.eng .de 15).mjob = none ∧
    (State.reset.eng .de 15).jobs.any (·.snoop) = false ∧ loaderSnoops State.reset 15 = false ∧ (wMgmt false).data.length ≤ 4096 ∧
    ((wManaged false).eng .de 0).mjob = some (wMgmt false) ∧ ((wManaged true).eng .de 0).mjob = some (wMgmt true) ∧ ((wManaged true).keySlot 0).owner = .mgmt ∧
    (wMgmt false).alg.toNat < 5 ∧ ({ State.reset with dgt := { cmpBusy := true } } : State).dgt.cmpBusy = true :=
  ⟨rfl, by decide, by decide, rfl, by decide, by decide, by decide, by decide, by decide, by decide, by decide +kernel, rfl, rfl, by decide, by decide, rfl⟩
theorem wit_MemoryController : Clocked (tState {}) ∧ masterParcel (tState {}) (.tile 0) = some 5 ∧ ((tState {}).parcel 5).holds = true ∧
    (0x1FFFFFFFF + 1 ≤ 2 ^ 39 ∧ allowedRange (tState {}) 5 0x1FFFFFFFF 1 = true) ∧ allowedRange (tState {}) 5 0x1FFFFFFFF (memOpLen (.read 2)) = false ∧
    masterParcel (tState {}) (.tile 255) = none ∧ absentPlace { State.reset with glb := { part := .xv128 } } 0x7FFFFFFFC0 = true ∧
    (0x7FFFFFFFFF < 2 ^ 39 ∧ (tState {}).mem.poisoned (0x7FFFFFFFFF / 64 * 64) = false) ∧
    (let s : State := { State.reset with hbms := [(7, { trained := true })] }
     stackPresent s 7 = true ∧ fbit (s.stack 7).scrubCtl 0 = true ∧ (s.stack 7).trained = true ∧ selfRefresh s (8 * 7 + 0) = false ∧
     Tab.get 0 (s.stack 7).pos 0 + 1 < 2 ^ 24) ∧ isManager (tState {}) (.firmware 3) = true ∧
    ((0x100 : Nat) / 2 ^ 8 % 2 ^ 8 = 1 ∧ (0xA801 : Nat) / 2 ^ 8 % 2 ^ 8 = 168) :=
  ⟨rfl, by decide, by decide, by decide +kernel, by decide +kernel, by decide, by decide +kernel, by decide +kernel, by decide, by decide, by decide⟩

/-- Three members on ports 0 to 2, one of them parity, and namespace 1 on the set, attached to parcel 5; unit 0 lies in stripe 0. -/
def wMembers (gone : Bool) : List Member := [{ port := 0, serial := [], zoneCount := 100, gone := gone }, { port := 1, serial := [], zoneCount := 100, gone := gone },
  { port := 2, serial := [], zoneCount := 100 }]
def wStripe : Stripe := { units := [some { ns := 1, unit := 0 }, none], data := [[], []], pChunk := [], qChunk := [], omitted := [] }
def wSet (gone : Bool) : ProtSet := { members := wMembers gone, p := 1, cap := 100, stripes := [(0, wStripe)] }
def wNs : Namespace := { nblocks := 128, bs := 4096, set := 0, guid := [], attached := some 5, map := [(0, (0, 0))] }
def wStore (P : ProtSet) (C : Chan) : State := { tState {} with sto := { sets := [(0, P)], nss := [(1, wNs)] }, groups := [(0, { chans := [(0, C)] })] }
/-- Group 0 of parcel 5 with channel 0 as given. -/
def wChan (C : Chan) : State := { tState {} with groups := [(0, { chans := [(0, C)] })] }
/-- The channel as a start leaves it before the checks. -/
def wStarted (s : State) (ctl : Word) : State :=
  let C := s.chan 0 0
  s.updChan 0 0 fun C' => { C' with
    ctl := ctl &&& 0x1FFFFFFFFC, prog := none, badNs := false, xsrc := C.src.toNat, xdst := C.dst.toNat, xcnt := C.cnt.toNat
    xctl := ctl &&& 0x1FFFFFFFFC, xhi := C.hiwat.toNat, xlo := C.lowat.toNat, xqsel := C.qsel, xns := C.ns.toNat, xenq := C.enq
    vintage := (s.parcel 5).vintage, done := false, aborted := false, err := 0, retries := 0, remaining := C.cnt.toNat, moved := 0
    busy := true, gateClosed := false, burst := none, burstNo := 0, ahead := false, snoopLive := C.snoop.isSome }
theorem wit_MoverStarts : Clocked (wChan {}) ∧ mayGroup (wChan {}) (.fn 2) 0 = false ∧ mayGroup State.reset (.fn 0) 0 = true ∧ groupParcel State.reset 0 = none ∧
    mayGroup (wChan {}) (.fn 0) 0 = true ∧ groupParcel (wChan {}) 0 = some 5 ∧ chanLocked wBusy 0 15 = true ∧ chanLocked (wChan {}) 0 0 = false ∧
    ((wChan { busy := true }).chan 0 0).busy = true ∧ (fbit 0 1 = false ∧ fbit 2 1 = true) ∧ ((wChan {}).chan 0 0).busy = false ∧
    (({ State.reset with groups := [(0, { stopped := true })] } : State).group 0).stopped = true ∧ ((wChan {}).group 0).stopped = false ∧
    (let s := wStarted (wChan {}) 0x14; badSetup s 0 (s.chan 0 0) = true) ∧
    (let s := wStarted (wChan {}) 0x100000D000; badSetup s 0 (s.chan 0 0) = false ∧ badNs s 0 (s.chan 0 0) = true) ∧
    (let s := wStarted (wChan {}) 1; badSetup s 0 (s.chan 0 0) = false ∧ badNs s 0 (s.chan 0 0) = false ∧ ((wChan {}).chan 0 0).cnt = 0) ∧
    (let s := wStarted (wChan { cnt := 0xFFFFFFFF }) 1
     badSetup s 0 (s.chan 0 0) = false ∧ badNs s 0 (s.chan 0 0) = false ∧ ((wChan { cnt := 0xFFFFFFFF }).chan 0 0).cnt ≠ 0) :=
  ⟨rfl, by decide +kernel⟩
theorem wit_MoverRequests :
    (let s := wChan { busy := true, xctl := 0x9000, reqPending := 4094 }
     let C := s.chan 0 0
     C.reqSrc = (2 : BitVec 3).toNat ∧ (2 : BitVec 3) ≠ 0 ∧ C.busy = true ∧ C.paced = true ∧ groupParcel s 0 = some 5 ∧ guardNow s 5 = false ∧ C.reqPending < 4095 ∧
       guardNow { s with frm := { guardOpen := true } } 5 = true) ∧
    (let C := (wChan { busy := true, xctl := 0xD000, reqPending := 4095 }).chan 0 0
     C.reqSrc = (3 : BitVec 3).toNat ∧ (3 : BitVec 3) ≠ 0 ∧ C.busy = true ∧ C.paced = true ∧ ¬ ((3 : BitVec 3) = 1 ∨ (3 : BitVec 3) = 2) ∧ 4095 ≤ C.reqPending) := by decide +kernel
def wBurst : Burst := { off := 0, len := 64, due := false, retries := 3 }
theorem wit_MoverBursts :
    (let C := (wChan { busy := true, xctl := 0x1000, reqPending := 1 }).chan 0 0
     C.busy = true ∧ C.burst = none ∧ C.paced = true ∧ C.reqPending ≠ 0 ∧ gateClosed (wChan { busy := true, xctl := 0x1000, reqPending := 1 }) 0 C = false) ∧
    (let s := wChan { busy := true, xctl := 0x2000, xhi := 64, xlo := 0, moved := 64, xqsel := 2 }
     (s.chan 0 0).paced = false ∧ (s.chan 0 0).burst = none ∧ gateClosed s 0 (s.chan 0 0) = true) ∧
    (let C := (wChan { busy := true, xctl := 0x1000 }).chan 0 0
     C.busy = true ∧ C.burst = none ∧ C.paced = true ∧ C.reqPending = 0) ∧
    ((wChan { old := [{ parcel := 5, vintage := 1, host := true, runs := [] }] }).chan 0 0).old = { parcel := 5, vintage := 1, host := true, runs := [] } :: [] ∧
    isHost 0x8000000000000 = true ∧ isHost 0x7FFFFFFFFFFFF = false ∧ ((wChan { burst := some wBurst }).chan 0 0).burst = some wBurst ∧
    (fbit 0x20000000 29 = true ∧ fbit 0x100000000 29 = false) ∧ (wBurst.retries < (0x100000000 : Nat) / 2 ^ 30 % 2 ^ 4 ∧ (0xC0000000 : Nat) / 2 ^ 30 % 2 ^ 4 ≤ wBurst.retries) ∧
    mayGroup (wChan {}) (.firmware 0) 0 = true ∧ (∀ e ∈ ((wChan {}).group 0).chans, e.2.busy = false) := by
  refine ⟨by decide +kernel, by decide +kernel, by decide +kernel, rfl, by decide, by decide, rfl, by decide, by decide, by decide, ?_⟩
  intro e h
  rw [List.mem_singleton.mp h]
def wNsChan (ns : Nat) : Chan := { busy := true, xctl := 0x1000000000, reqPending := 63, xcnt := 0x100000, remaining := 0x100000, xns := ns }
theorem wit_MoverBursts_namespace : let C := (wStore (wSet false) (wNsChan 1)).chan 0 0
    C.busy = true ∧ fbit C.xctl 36 = true ∧ C.reqPending < 64 ∧
    ((wStore (wSet false) (wNsChan 2)).nspace 2).bind (fun N => (wStore (wSet false) (wNsChan 2)).pset N.set) = none ∧
    ((wStore { wSet false with recovering := true } (wNsChan 1)).nspace 1).bind (fun N => (wStore { wSet false with recovering := true } (wNsChan 1)).pset N.set)
      = some { wSet false with recovering := true } ∧
    ((wStore (wSet false) (wNsChan 1)).nspace 1).bind (fun N => (wStore (wSet false) (wNsChan 1)).pset N.set) = some (wSet false) ∧ (wSet false).recovering = false ∧
    C.xcnt - C.remaining + C.reqPending * (64 * 2 ^ (C.xctl.toNat / 2 ^ 25 % 2 ^ 4)) < C.xcnt ∧
    okay (nsRead (wStore (wSet false) (wNsChan 1)) 1 4032 64) = true ∧ okay (nsRead (wStore (wSet true) (wNsChan 1)) 1 4032 64) = false := by decide +kernel
theorem wit_Frames : Clocked State.reset ∧ (∀ p, p < 64 → (State.reset.parcel p).holds = false) ∧ isManager State.reset (.fn 0) = true ∧
    isManager State.reset (.fn 1) = false ∧ (State.reset.parcels.any fun e => e.2.st == .active || e.2.st == .quiescing) = false ∧
    ((tState {}).parcels.any fun e => e.2.st == .active || e.2.st == .quiescing) = true ∧ (600 ≤ 0x10258 % 2 ^ 16 ∧ 38400 ≤ 38400 % 2 ^ 16 ∧ 599 % 2 ^ 16 < 600 ∧
    38400 < 38401 % 2 ^ 16) ∧ (0x1FF % 2 ^ 8 ≠ 0 ∧ 0x100 % 2 ^ 8 = 0) ∧
    (let s : State := { State.reset with frm := { ptmEn := true, ptmAsked := true }, ports := { hpa := { linkUp := true } } }
     s.frm.ptmEn = true ∧ linkUp s (b2n s.frm.ptmPort) = true ∧ s.frm.ptmAsked = true ∧ s.frm.frozen = false) ∧
    ({ State.reset with frm := { ptmEn := true, ptmAsked := true, frozen := true } } : State).frm.frozen = true :=
  ⟨rfl, fun _ _ => rfl, by decide, by decide, by decide, by decide, by decide, by decide, by decide, rfl⟩

/-- Window 0 of PF0 is the admin window; window 1 belongs to parcel 5. -/
def wAdmin : Window := { fn := 0, w := 0 }
def wWin : Window := { fn := 0, w := 1 }
/-- A state with `raw` latched in a window. -/
def wLatched (w : Window) (raw : List Byte) (st : ParcelSt) : State :=
  { State.reset with
    parcels := [(5, { tParcel with st := st })]
    ports := { hpa := { linkUp := true, retry := false } }
    wins := [(winIx w, { en := true, busy := true, latched := raw, wparcel := 5, wvalid := true })] }
theorem wit_CommandAcceptance_rows :
    (∀ op ∈ [0x10, 0x11, 0x12, 0x13, 0x14, 0x15, 0x20, 0x21, 0x22, 1, 4, 5, 0x40, 0x41, 0x42, 0x43, 0x44, 0x45, 0x46, 0x47, 0x48, 0x49, 0x4A, 0x4B, 0x4C, 2],
      latchedOp (wLatched wWin (leBytes 1 op ++ zeros 63) .active) wWin = some op) ∧
    (∀ op ∈ [0x10, 0x11], latchedOp (wLatched wWin (leBytes 1 0x13 ++ zeros 63) .active) wWin ≠ some op) ∧ Clocked (wLatched wWin [] .active) :=
  ⟨by decide, by decide, rfl⟩
theorem wit_CommandAcceptance : let s := fun (w : Window) (raw : List Byte) (st : ParcelSt) => (wLatched w raw st).updWin w fun W => { W with busy := false, latched := [] }
    (winAccepts (s wAdmin [] .active) wAdmin 0x12 = false ∧ isAdminWin (s wAdmin [] .active) wAdmin = true) ∧
    (winAccepts (s wAdmin [] .active) wAdmin 0x40 = true ∧ opGroup 0x40 = some .admin ∧ fieldChecks (s wAdmin [] .active) wAdmin (leBytes 1 0x40 ++ zeros 63) = none) ∧
    (winAccepts (s wWin [] .active) wWin 0x15 = true ∧ opGroup 0x15 ≠ some .admin ∧ winParcel (s wWin [] .free) wWin = none ∧ winParcel (s wWin [] .active) wWin = some 5) ∧
    (winParcel (s wWin [] .resetting) wWin = some 5 ∧ ((wLatched wWin [] .resetting).parcel 5).st = .resetting) ∧ ((wLatched wWin [] .active).parcel 5).st ≠ .resetting ∧
    (fieldChecks (s wWin [] .active) wWin (leBytes 1 0x15 ++ leBytes 1 1 ++ zeros 62)).isSome = true ∧
    fieldChecks (s wWin [] .active) wWin (leBytes 1 0x15 ++ zeros 63) = none := by decide +kernel
/-- A command with tag 7 in a phase, and a QUERY_STATUS that names it, or names tag 8. -/
def wCmd (op tag seq : Nat) (ph : CmdPhase) (raw : List Byte) : Cmd :=
  { win := wWin, tag := tag, opcode := op, ordered := false, raw := raw, parcel := some 5, vintage := 2, seq := seq, phase := ph }
def wAsk (tag : Nat) : Cmd := wCmd 0x15 1 9 .running (zeros 4 ++ leBytes 2 tag ++ zeros 58)
def wTwo (op : Nat) (ph : CmdPhase) : State := { wLatched wWin [] .active with cmds := [wCmd op 7 3 ph [], wAsk 7] }
def wParked : State :=
  { wTwo 0x12 .running with parcels := [(5, { tParcel with exec := some { seq := 3, start := 0 } })], tiles := [(0, { run := .parked })] }
theorem wit_Controls : target (wTwo 0x12 .held) (wAsk 8) = none ∧
    (∀ ph ∈ [CmdPhase.held, .waiting, .running, .decided], ∀ op ∈ [0x10, 0x11, 0x12, 0x20], target (wTwo op ph) (wAsk 7) = some (wCmd op 7 3 ph [])) ∧
    hasParked wParked (wCmd 0x12 7 3 .running []) = true ∧ target wParked (wAsk 7) = some (wCmd 0x12 7 3 .running []) ∧
    hasParked (wTwo 0x12 .running) (wCmd 0x12 7 3 .running []) = false := by decide +kernel
/-- A PARCEL_CREATE and a READ without a list that wait for the host's structure, with tag 7. -/
def wWaits (n : Nat) : State := { wLatched wWin [] .active with cmds := [wCmd 0x12 7 3 .running (zeros 16 ++ leBytes 4 n ++ zeros 44)] }
def wLoader (ph : LoadPhase) (bound : Bool) : Loader := { phase := ph, seq := 3, streamLen := 64, staging := 0, stagingBytes := 0x1000, bytes := [], bound := bound, shadow := {} }
def wLoading (L : Loader) : State := { wLatched wWin [] .active with parcels := [(5, { tParcel with loader := some L })], cmds := [wCmd 0x10 7 3 .running (zeros 64)] }
theorem wit_TaskSubmission : let s := wLatched wWin [] .active
    let s0 : State := { s with wins := [(winIx wWin, { en := true })] }
    Clocked s ∧ ((s.hport (fnPort s wWin.fn.val)).retry = false ∧ winServed s wWin = true) ∧
    ((0 : BitVec 6).toNat + [(1 : Byte)].length < 64 ∧ (63 : BitVec 6).toNat + [(1 : Byte)].length = 64 ∧ 64 < (63 : BitVec 6).toNat + [(1 : Byte), 2].length) ∧
    ((s0.win wWin).busy = false ∧ (s0.win wWin).en = true ∧ (s.win wWin).busy = true) ∧
    (let s1 : State := { s with wins := [(winIx wWin, {})] }; (s1.win wWin).busy = false ∧ (s1.win wWin).en = false) ∧
    (latchedOp (wLatched wWin [0x7F] .active) wWin = some 0x7F ∧ winAccepts (wLatched wWin [0x7F] .active) wWin 0x7F = false) ∧
    (wWaits 16).cmds.find? (fun c => c.win == wWin && c.tag == (8 : BitVec 16).toNat && c.awaits) = none ∧
    (wWaits 16).cmds.find? (fun c => c.win == wWin && c.tag == (7 : BitVec 16).toNat && c.awaits) = some (wCmd 0x12 7 3 .running (zeros 16 ++ leBytes 4 16 ++ zeros 44)) ∧
    (wCmd 0x12 7 3 .running (zeros 16 ++ leBytes 4 16 ++ zeros 44)).structure_ = some (8, 16) ∧
    (linkUp (wWaits 16) (winPort (wWaits 16) wWin) = true ∧ linkUp State.reset (winPort State.reset wWin) = false) ∧
    ((wLoading (wLoader .streaming true)).parcel 5).loader = some (wLoader .streaming true) ∧ (wLoader .streaming false).bound = false ∧
    (wLoading (wLoader .streaming true)).cmd 3 = some (wCmd 0x10 7 3 .running (zeros 64)) ∧ ((wLoading (wLoader .copying true)).parcel 5).loader = some (wLoader .copying true) := by
  refine ⟨rfl, ?_⟩
  decide +kernel
theorem wit_TaskSubmission_copy : ∃ ts s1, copySections (wLoading (wLoader .copying true)) 5 (wLoader .copying true).staging (wLoader .copying true).shadow
    (wLoader .copying true).shadow.datas [] = (.done, ts, s1) := ⟨_, _, rfl⟩
/-- Parcel 5 in a phase of its life, without commands. -/
def wLife (P : Parcel) : State := { State.reset with parcels := [(5, P)] }
theorem wit_ParcelLife : Clocked (wLife {}) ∧ ((wLife { tParcel with st := .building }).parcel 5).st = .building ∧ (wLife {}).cmds = [] ∧
    (∃ n ∈ ((wLife { tParcel with st := .building }).parcel 5).smap, ∃ a : Nat, a / 2 ^ 33 = n) ∧ (∃ t ∈ ((wLife { tParcel with st := .building }).parcel 5).tiles, t = 17) ∧
    ((wLife { tParcel with st := .resetting }).parcel 5).st = .resetting ∧ ((wLife { tParcel with st := .quiescing }).parcel 5).st = .quiescing ∧
    vfParcel (wLife {}) 64 = none ∧
    (∀ ps ∈ [0, 1, 2], parcelIdle (wLife { tParcel with ps := ps }) 5 = true ∧
      (let P := (wLife { tParcel with ps := ps }).parcel 5
       (if P.ps = 0 then P.idle1 else if P.ps = 1 then P.idle2 else if P.ps = 2 then P.idle3 else 0) ≠ 0)) ∧
    parcelIdle { wTwo 0x12 .running with boot := { stage := 6 } } 5 = false ∧
    (mayPs4 { State.reset with boot := { stage := 6 } } = true ∧ mayPs4 (wTwo 0x12 .running) = false) ∧
    (fbit State.reset.pwr.ctl 1 = true ∧ fbit ({ State.reset with pwr := { ctl := 0x005A5F01 } } : State).pwr.ctl 1 = false) := by
  refine ⟨rfl, by decide, rfl, ⟨0, by decide, 0, rfl⟩, ⟨17, by decide +kernel, rfl⟩, by decide, by decide, by decide, by decide +kernel, by decide +kernel, by decide +kernel,
    by decide⟩

/-- Window 1 of PF0 with a ring of 16 entries, and the parcel in `st` with an image that wants `least` cycles. -/
def wRing (W : Win) : State := { State.reset with wins := [(winIx wWin, W)] }
theorem wit_ParcelAndRingSettings : Clocked State.reset ∧ isManager State.reset (.fn 0) = true ∧ isManager State.reset (.fn 1) = false ∧
    (parcelBusy wBusy 5 = true ∧ parcelBusy State.reset 5 = false) ∧ (0x80 % 2 ^ 7 = 0 ∧ 64 < 65 % 2 ^ 7 ∧ ¬ 64 < 64 % 2 ^ 7) ∧
    (∃ e ∈ ({ State.reset with parcels := [(5, { tParcel with vf := 3 })] } : State).parcels, e.2.holds = true ∧ e.2.vf ≠ 0) ∧
    (0x10000 % 2 ^ 16 = 0 ∧ (0 : Nat) / 2 ^ 16 % 2 ^ 8 = 0 ∧ 50 < (0x330001 : Nat) / 2 ^ 16 % 2 ^ 8) ∧ (4 < 5 % 2 ^ 3 ∧ ¬ 4 < 4 % 2 ^ 3) ∧
    mayWin State.reset (.fn 0) wWin = true ∧ ((0x300 : Nat) / 2 ^ 8 % 2 ^ 5 < 4 ∧ 16 < (0x1100 : Nat) / 2 ^ 8 % 2 ^ 5 ∧ 4 ≤ (0x400 : Nat) / 2 ^ 8 % 2 ^ 5 ∧
    (0x1000 : Nat) / 2 ^ 8 % 2 ^ 5 ≤ 16) ∧ (0x7FF0000 : Nat) / 2 ^ 16 % 2 ^ 11 < vectorsOf State.reset 0 ∧ vectorsOf State.reset 3 ≤ 0 ∧
    ringBusy (wRing { en := true, tail := 1 }) wWin = true ∧ ringBusy (wRing {}) wWin = false ∧
    (headBad 4 0 0 16 = true ∧ headBad 4 3 1 0 = true ∧ headBad 4 3 1 3 = false ∧ headBad 4 15 15 15 = false) ∧
    (wWin.fn.val < 2 ∧ wWin.w.val ≠ 0) ∧ outstanding (wTwo 0x12 .running) wWin ≠ 0 ∧ outstanding (wRing {}) wWin = 0 :=
  ⟨rfl, by decide, by decide, by decide, by decide, ⟨_, List.mem_singleton.mpr rfl, rfl, by decide⟩, by decide, by decide, by decide, by decide, by decide, by decide,
    by decide, by decide, by decide, by decide, by decide, by decide⟩
/-- Channel 1, from PF0 to management core 1. -/
def wMbx (C : Mbx) : State := { State.reset with mbx := { chans := [(1, { C with sender := 0, receiver := 0x8001, valid := true })] } }
/-- Parcel 5 bound to VF1 (function 2), with lock 3 granted to it. -/
def wVf : State := { State.reset with parcels := [(5, { tParcel with vf := 1, vectors := 256 })], mbx := { grants := [(3, 0x20)] } }
theorem wit_MailboxesAndLocks : Clocked (wMbx {}) ∧ isSender (wMbx {}) (.fn 0) 1 = true ∧ ((wMbx {}).mchan 1).full = false ∧
    (((wMbx { full := true }).mchan 1).full = true ∧ ((wMbx { full := true }).mchan 1).fault = false ∧ ((wMbx { full := true, fault := true }).mchan 1).fault = true) ∧
    (isSender (wMbx {}) (.firmware 2) 1 = false ∧ reachesChan (wMbx {}) (.firmware 2) 1 = true ∧ isReceiver (wMbx {}) (.firmware 2) 1 = false) ∧
    isReceiver (wMbx {}) (.firmware 1) 1 = true ∧ ((wMbx { full := true }).mchan 1).waiting = [] ∧ isReceiver (wMbx {}) (.fn 0) 1 = false ∧
    ((wMbx { full := true }).mchan 1).staleDone = false ∧ ((wMbx { full := true, staleDone := true }).mchan 1).staleDone = true ∧ isManager (wMbx {}) (.fn 0) = true ∧
    (({ State.reset with mbx := { bindLock := 1 } } : State).mbx.bindLock.getLsbD (1 / 2) = true ∧ (wMbx {}).mbx.bindLock.getLsbD (1 / 2) = false) ∧
    (lockRole wVf (.fn 0) 3 = .user ∧ lockRole wVf (.fn 2) 3 = .user ∧ lockRole wVf (.fn 2) 4 = .stranger ∧ lockRole wVf (.fn 3) 3 = .outside) ∧
    (Tab.find ({ State.reset with mbx := { locks := [(3, 0x8001)] } } : State).mbx.locks 3 = some 0x8001 ∧ Tab.find State.reset.mbx.locks 3 = none) ∧
    (Tab.find ({ State.reset with mbx := { locks := [(3, 0)] } } : State).mbx.locks 3 = some (BitVec.ofNat 16 (whoId State.reset (.fn 0)))) ∧
    (fbit 0x43 6 = true ∧ 0x43 % 2 ^ 6 = 3 ∧ fbit 3 6 = false) :=
  ⟨rfl, by decide, by decide, by decide, by decide, by decide, by decide, by decide, by decide, by decide, by decide, by decide, by decide, by decide, by decide, by decide⟩
theorem wit_Events : Clocked wVf ∧ (isManager wVf (.fn 0) = true ∧ isManager wVf (.fn 2) = false ∧ isManager wVf (.fn 3) = false) ∧ ownsSource wVf (.fn 2) 0 = true ∧
    ownsSource wVf (.fn 3) 0 = false ∧ vectorOk wVf 0 0 256 = false ∧ vectorOk wVf 0 0 255 = true ∧ (0x1800 : Nat) / 2 ^ 11 % 2 ^ 2 = 3 ∧ (0x1000 : Nat) / 2 ^ 11 % 2 ^ 2 ≠ 3 ∧
    (∃ r, (({ wVf with evt := { srcs := [(0, { mask := true, pending := true, masked := some r })] } } : State).evSrc 0).masked = some r) ∧ fbit 0xFF 13 = false ∧
    (wVf.evSrc 0).masked = none ∧ (mayRing wVf (.fn 0) 0 = true ∧ mayRing wVf (.fn 2) 2 = true) ∧
    ((0x300 : Nat) / 2 ^ 8 % 2 ^ 5 < 4 ∧ 16 < (0x1100 : Nat) / 2 ^ 8 % 2 ^ 5 ∧ 4 ≤ (0x400 : Nat) / 2 ^ 8 % 2 ^ 5 ∧ (0x1000 : Nat) / 2 ^ 8 % 2 ^ 5 ≤ 16) ∧
    evRingBusy { en := true, tail := 1 } = true ∧ evRingBusy {} = false ∧ (headBad 4 0 0 16 = true ∧ headBad 4 3 1 3 = false) ∧
    ((2047 : BitVec 11).toNat < 2048 ∧ (255 : BitVec 11).toNat < 256) ∧
    ((Tab.get {} ({ State.reset with evt := { msix := [(2047, { pending := true })] } } : State).evt.msix (2048 * 0 + 2047)).pending = true ∧
     (Tab.get {} State.reset.evt.msix 2047).pending = false) :=
  ⟨rfl, by decide, by decide, by decide, by decide, by decide, by decide, by decide,
    ⟨{ source := 0, cause := 0, vunit := 0, vintage := 0, frame := 0, sub := 0, status := 0, parcel := none }, rfl⟩, by decide, by decide, by decide, by decide,
    by decide, by decide, by decide, by decide, by decide⟩
/-- The manager is PF0 of HPA; HPB is the other port. -/
def wPorts (A : HostPort) : State := { State.reset with ports := { hpa := A, hpb := A }, boot := { stage := 6 } }
theorem wit_HostPorts : Clocked (wPorts {}) ∧ ((wPorts {}).hport 0).perst = false ∧ ((wPorts { perst := true }).hport 1).perst = true ∧
    ((wPorts { linkUp := true }).hport 0).linkUp = true ∧ ((wPorts {}).hport 1).linkUp = false ∧
    (let down := fun (k : Nat) => dropOrderReads ((wPorts { linkUp := true }).updPort k fun P => { P with linkUp := false }) k
     portNo .hpa = mgrPort (down 0) ∧ portNo .hpb ≠ mgrPort (down 1)) ∧
    (let s1 := fun (k : Nat) => (wPorts {}).updPort k fun P => { P with perst := true, linkUp := false }
     portNo .hpa = mgrPort (s1 0) ∧ portNo .hpb ≠ mgrPort (s1 1)) ∧ (wPorts {}).boot.stage ≠ 0 ∧
    (((wPorts { linkUp := true }).hport 0).recovery = false ∧ ((wPorts { linkUp := true }).hport 0).retry = true ∧ ((wPorts { retry := false }).hport 0).retry = false) ∧
    ((wPorts { linkUp := true, recovery := true }).hport 0).recovery = true ∧ (wPorts {}).ports.orderReads.find? (fun o => o.port == 0) = none ∧
    (let s : State := { wTwo 0x12 .decided with ports := { hpa := { linkUp := true }, orderReads := [{ port := 0, addr := 0, cmd := 3 }] } }
     s.ports.orderReads.find? (fun o => o.port == 0) = some { port := 0, addr := 0, cmd := 3 } ∧ s.cmd 3 = some (wCmd 0x12 7 3 .decided [])) :=
  ⟨rfl, by decide, by decide, by decide, by decide, by decide, by decide, by decide, by decide, by decide, by decide, by decide⟩
/-- Port 5 with a cask in a state. -/
def wCask (C : Cask) : State := { State.reset with casks := [(5, C)] }
theorem wit_Casks : Clocked (wCask {}) ∧ caskPresent (wCask {}) 5 = true ∧ caskPresent { State.reset with glb := { part := .xv128 } } 15 = false ∧
    (((wCask {}).cask 5).present = false ∧ ((wCask { present := true }).cask 5).present = true) ∧
    (((wCask { st := .linking, perstLow := false }).cask 5).st = .linking ∧ ((wCask { st := .linking, perstLow := false }).cask 5).perstLow = false ∧
     ((wCask { st := .linking }).cask 5).perstLow = true ∧ ((wCask {}).cask 5).st ≠ .linking) ∧
    (((wCask { st := .identifying }).cask 5).st = .identifying ∧ ((wCask {}).cask 5).st ≠ .identifying) ∧ identReason (wCask {}) 5 ((zeros 128 ++ zeros 128).take 128) ≠ 0 ∧
    (((wCask { linkUp := true }).cask 5).linkUp = true ∧ ((wCask {}).cask 5).linkUp = false) ∧
    (((wCask { st := .quarantine }).cask 5).st = .quarantine ∧ ((wCask { st := .failed }).cask 5).st = .failed ∧ ((wCask {}).cask 5).st ≠ .failed) ∧
    (CaskSt.serves .absent = false ∧ CaskSt.serves .spare = true ∧ (CaskSt.spare : CaskSt) ≠ .member ∧ ((wCask { st := .member }).cask 5).st = .member) ∧
    (isManager (wCask {}) (.fn 0) = true ∧ isManager (wCask {}) (.fn 1) = false) ∧
    (100 % 128 ≤ 100 ∧ 1 ≤ 0x100 / 256 % 128 ∧ 100 < 101 % 128 ∧ 0x80FF / 256 % 128 = 0 ∧ 100 < 0x6500 / 256 % 128 ∧ 128 % 128 = 0) :=
  ⟨rfl, by decide, by decide, by decide, by decide, by decide, by decide +kernel, by decide, by decide, by decide, by decide, by decide⟩

def wMove (rebuild : Bool) (left : List Nat) : Move := { member := 1, target := 7, rebuild := rebuild, left := left, total := 1, serial := [] }
def wMoving (rebuild : Bool) (left : List Nat) (q : Option Nat) : State :=
  { wStore { wSet false with moves := [wMove rebuild left] } {} with casks := [(1, { prepare := q })] }
def wRead (who : CaskReader) (y : Bool) : CaskRead := { port := 2, set := 0, stripe := 0, member := 2, id := { ns := 1, unit := 0 }, reader := who, bypass := y }
def wReading (gone : Bool) (x : CaskRead) (C : Cask) : State :=
  let s := wStore (wSet gone) {}
  { s with casks := [(2, C)], sto := { s.sto with reads := [x] } }
def wClosing (j : Bool) : Closing := { k := 1, stripe := wStripe, content := [], journal := j }
theorem wit_ProtectionSets : Clocked (wStore (wSet false) {}) ∧ State.reset.pset 3 = none ∧ (wStore (wSet false) {}).pset 0 = some (wSet false) ∧ (wSet false).opened = [] ∧
    (let P := { wSet false with closing := [wClosing true, wClosing false] }
     (wStore P {}).pset 0 = some P ∧ P.closing = [wClosing true] ++ wClosing false :: [] ∧ (∀ x ∈ [wClosing true], x.journal = true) ∧ (wClosing false).journal = false ∧ (wClosing true).journal = true) ∧
    (wSet false).recovering = false ∧ ({ wSet false with recovering := true } : ProtSet).recovering = true ∧
    (let s := wMoving false [4] none
     memberOf s 9 = none ∧ moveOf s 9 = none ∧ memberOf s 7 = none ∧ moveOf s 7 = some (0, wMove false [4]) ∧
     memberOf s 1 = some (0, 1) ∧ moveOf s 1 = some (0, wMove false [4]) ∧ memberOf s 2 = some (0, 2) ∧ moveOf s 2 = none ∧ (wMove false [4]).left ≠ []) ∧
    (moveOf (wMoving true [] none) 7 = some (0, wMove true []) ∧ (wMove true []).rebuild = true ∧ (wMove true [4]).left ≠ []) ∧
    (let s := fun (q : Option Nat) => wMoving false [] q
     let m : Member := { port := 1, serial := [], zoneCount := 100 }
     moveOf (s none) 1 = some (0, wMove false []) ∧ ((s none).pset 0).map (fun P => P.members[1]?) = some (some m) ∧ ((s none).cask 1).prepare = none ∧
     ((s (some 4)).cask 1).prepare = some 4) ∧
    (State.reset.sto.reads.filter fun x => x.port == 2) = [] := by
  refine ⟨rfl, ?_⟩
  decide +kernel
theorem wit_ProtectionSets_reads :
    (wReading false (wRead .nobody true) {}).sto.reads = [] ++ wRead .nobody true :: [] ∧ (wRead .nobody true).reader = .nobody ∧
    ((wRead (.cmd 3) true).reader ≠ .nobody ∧ (wRead (.chan 0 1) true).reader ≠ .nobody) ∧ ((wRead (.cmd 3) true).direct = true ∧ (wRead (.cmd 3) true).slow = false) ∧
    ({ wRead (.cmd 3) true with direct := false } : CaskRead).direct = false ∧ (∀ bs, (ReadResult.error : ReadResult) ≠ .data bs) ∧
    ((wReading false (wRead (.cmd 3) true) {}).cask 2).st.inService = false ∧ (wRead (.cmd 3) false).bypass = false ∧
    parityCovers (wReading true (wRead (.cmd 3) true) {}) (wRead (.cmd 3) true) [2] = false ∧
    (let s := wReading false (wRead (.cmd 3) true) { st := .member, slowHour := 15 }
     (s.cask 2).st.inService = true ∧ parityCovers s (wRead (.cmd 3) true) [2] = true ∧ ¬ (s.cask 2).slowLimit.toNat ≤ (s.cask 2).slowHour) ∧
    (let s := wReading false (wRead (.cmd 3) true) { st := .member, slowHour := 16 }
     (s.cask 2).st.inService = true ∧ parityCovers s (wRead (.cmd 3) true) [2] = true ∧ (s.cask 2).slowRaised = false ∧ (s.cask 2).slowLimit.toNat ≤ (s.cask 2).slowHour) ∧
    ((wReading false (wRead (.cmd 3) true) { slowRaised := true }).cask 2).slowRaised = true ∧ setRests { wStore (wSet false) {} with pwr := { ps4 := true } } 0 = true := by
  refine ⟨rfl, rfl, by decide, by decide, rfl, (fun _ h => by cases h), by decide, rfl, by decide, by decide, by decide, by decide, by decide⟩
theorem wit_Health : Clocked (tState {}) ∧ quadPresent (tState {}) 0 = true ∧ quadOn (tState {}) 0 = true ∧ quadOn State.reset 0 = false ∧
    ((0xF4240 : BitVec 32).toNat ≤ 1000000 ∧ 1000000 < (0xF4241 : BitVec 32).toNat) ∧ (wPorts {}).ports.hpa.linkUp = false ∧
    (wPorts { linkUp := true }).ports.hpa.linkUp = true ∧
    ((wCask { linkUp := true }).cask 5).linkUp = true ∧ (Tab.get {} (wCask { linkUp := true }).hlt.inds (128 + 7)).serial = recSerial ((wCask { linkUp := true }).cask 5).idrec ∧
    (let s := wCask { linkUp := true, idrec := List.replicate 128 7 }
     (s.hlt.ind (128 + 7)).serial ≠ recSerial (s.cask 5).idrec) ∧ (50 ≤ (50 : BitVec 16).toNat ∧ (49 : BitVec 16).toNat < 50) ∧
    (State.reset.hlt.valid = false ∧ ({ State.reset with hlt := { valid := true } } : State).hlt.valid = true) ∧ (([5] : List Byte).length < 2 ∧ 2 ≤ ([5, 6] : List Byte).length) :=
  ⟨rfl, by decide, by decide, by decide, by decide, by decide, by decide, by decide, by decide, by decide, by decide, by decide, by decide⟩
theorem wit_Power : (let s : State := { State.reset with boot := { stage := 1 } }
      s.boot.stage ≠ 0 ∧ (3 : Fin 10) ≠ 0) ∧ (State.reset.boot.stage = 0 ∧ (State.reset.hport (mgrPort State.reset)).perst = false ∧ State.reset.pwr.stopped = false) ∧
    ((111 : BitVec 8).toNat < 112 ∧ 112 ≤ (112 : BitVec 8).toNat) ∧ Clocked State.reset ∧ (isManager State.reset (.fn 1) = false ∧ isManager State.reset (.fn 0) = true) ∧
    (0x3B00 / 2 ^ 8 % 256 < 60 ∧ 105 < 0x6A00 / 2 ^ 8 % 256 ∧ 0x3B0000 / 2 ^ 16 % 256 < 60 ∧ 95 < 0x600000 / 2 ^ 16 % 256) ∧
    (60 ≤ 0x5F3C03 / 2 ^ 8 % 256 ∧ 0x3C6903 / 2 ^ 8 % 256 ≤ 105 ∧ 60 ≤ 0x3C6903 / 2 ^ 16 % 256 ∧ 0x5F3C03 / 2 ^ 16 % 256 ≤ 95) :=
  ⟨by decide, by decide, by decide, rfl, by decide, by decide, by decide⟩
theorem wit_Resets : State.reset.boot.stage ≠ 6 ∧ (wPorts {}).boot.stage = 6 ∧ Clocked (wPorts {}) ∧ (isManager (wPorts {}) (.fn 0) = true ∧ isManager (wPorts {}) (.fn 1) = false) ∧
    (0xA501 % 2 = 1 ∧ 0xA501 / 256 % 256 = 0xA5) ∧ (0xA500 % 2 = 0 ∧ 0xA401 / 256 % 256 ≠ 0xA5) :=
  ⟨by decide, rfl, rfl, by decide, by decide, by decide⟩
/-- The two directories: one with its check value made good, one empty. -/
def wDir : List Byte := dirPut ([0x58, 0x56, 0x42, 0x44, 1, 0] ++ zeros 54) 1 1
def wBoot (src : Bool) (stage : Nat) (dir : List Byte) : State := { State.reset with boot := { bootSrc := src, stage := stage, flash := { dir0 := dir } } }
theorem wit_Boot : (wBoot true 0 []).boot.bootSrc = true ∧ (wBoot false 0 []).boot.bootSrc = false ∧ dirOk ([] : List Byte) = false ∧ dirOk (List.replicate 64 0xFF) = false ∧
    dirOk wDir = true ∧ Clocked (wBoot false 5 []) ∧ (wBoot false 5 []).boot.stage = 5 ∧ (wBoot false 7 []).boot.stage = 7 ∧ (2 % 2 = 0 ∧ 3 % 2 = 1) ∧
    ¬ (3 ≤ tapCode .sample ∧ tapCode .sample ≤ 7) ∧ (3 ≤ tapCode .extest ∧ tapCode .clamp ≤ 7) ∧ ¬ (3 ≤ tapCode (.other 8) ∧ tapCode (.other 8) ≤ 7) :=
  ⟨rfl, rfl, by decide +kernel, by decide +kernel, by decide +kernel, rfl, rfl, rfl, by decide, by decide, by decide, by decide⟩
/-- An empty slot is rejected, so that the boot ROM ends in recovery with the reason 2. -/
theorem test_boot_empty_slots : (bootRom (wBoot false 0 wDir) true).boot.stage = 7 ∧ (bootRom (wBoot false 0 wDir) true).boot.bReason = 2 := by decide +kernel
theorem wit_Registers : Clocked State.reset ∧ (0xFF : BitVec 8) ≠ 0 ∧ (0x40 : BitVec 29).toNat % 8 = 0 ∧ locate State.reset (.fn 1) 0x10000 = (.nowhere, .none) ∧
    locate State.reset (.fn 1) 0x40 = (.glb 0x40, .read) ∧ locate State.reset (.fn 0) 0x40 = (.glb 0x40, .write) ∧ locate State.reset (.firmware 0) 0x40 = (.glb 0x40, .firmware) ∧
    locate State.reset (.fn 0) 0x180000 = (.smap 0 0, .write) :=
  ⟨rfl, by decide, by decide, by decide, by decide, by decide, by decide, by decide⟩
theorem wit_FrameSettingsStayLegal : State.reset.frm.legal ∧ ∃ s', step { State.reset with pending := [.frmPeriodWrite (.fn 0) 600] } = .next s' :=
  ⟨by unfold Frm.legal; decide, _, rfl⟩
theorem wit_MemoryStaysCanonical : State.reset.memOk ∧ ∃ s', step { State.reset with pending := [.globalBoundary] } = .next s' := ⟨by unfold State.memOk; decide, _, rfl⟩
theorem wit_DecodeEncode : wellFormed (.salu 0 .sub 3 1 2) = true ∧ encode (.salu 0 .sub 3 1 2) = some 0b000001_00011_00001_00010_000_00000001 := by decide

-- ## Further clauses of the statements

theorem wit_MemoryController_more : ((∀ core, Master.tile 255 ≠ .mgmt core) ∧ ∀ p, masterParcel (tState {}) (.tile 255) = some p → False) ∧
    (0x7FFFFFFFC0 + 64 ≤ 2 ^ 39 ∧ absentPlace State.reset 0x7FFFFFFFC0 = false ∧ absentPlace State.reset (0x7FFFFFFFC0 + 64 - 1) = false) ∧
    (absentPlace { State.reset with glb := { part := .xv128 } } 0x7FFFFFFFC0 = true ∧ 0x7FFFFFFFC0 % 64 + 64 ≤ 64) ∧
    (let s : State := { State.reset with hbms := [(7, { trained := true })] }
     stackPresent s 7 = true ∧ stackPresent { s with glb := { part := .xv128 } } 7 = false ∧ (State.reset.stack 7).trained = false ∧
     fbit (({ State.reset with hbms := [(7, { scrubCtl := 0x1800 })] } : State).stack 7).scrubCtl 0 = false) ∧
    (isManager State.reset (.fn 0) = true ∧ isManager State.reset (.fn 1) = false) ∧ ((0xFF : Nat) / 2 ^ 8 % 2 ^ 8 = 0 ∧ 168 < (0xA900 : Nat) / 2 ^ 8 % 2 ^ 8) :=
  ⟨⟨(by intro core h; cases h), (by intro p h; cases h)⟩, by decide +kernel, by decide +kernel, by decide, by decide, by decide⟩
/-- A burst whose source and target lie in the page of group 0. -/
def wMoves : State :=
  { wChan { busy := true, xsrc := 0x200000, xdst := 0x200100, xcnt := 64, remaining := 64, xctl := 0x60, burst := some wBurst } with
    groups := [(0, { chans := [(0, { busy := true, xsrc := 0x200000, xdst := 0x200100, xcnt := 64, remaining := 64, xctl := 0x60, burst := some wBurst })], tlb := { entries := [(0, wEntry)] } })] }
theorem wit_MoverBursts_more :
    ((wChan {}).chan 0 0).busy = false ∧ ((wMoves.chan 0 0).busy = true ∧ (wMoves.chan 0 0).burst = some wBurst) ∧
    (∃ bs s1 n s2, burstSource wMoves 0 (wMoves.chan 0 0) wBurst (.data []) = (bs, none, s1) ∧
      burstWrite s1 0 (wMoves.chan 0 0) (sideRuns (wMoves.chan 0 0).xdst (fbit (wMoves.chan 0 0).xctl 6) ((wMoves.chan 0 0).xctl.toNat / 2 ^ 7 % 2 ^ 5) (wBurst.len + 1)
        wBurst.off wBurst.len) (swapBytes ((wMoves.chan 0 0).xctl.toNat / 2 ^ 2 % 2 ^ 3)
          (bs.take (bs.length / swapUnit ((wMoves.chan 0 0).xctl.toNat / 2 ^ 2 % 2 ^ 3) * swapUnit ((wMoves.chan 0 0).xctl.toNat / 2 ^ 2 % 2 ^ 3)))) = (n, none, s2)) ∧
    ((true && isHost 0x8000000000000) = true ∧ (false && isHost 0x8000000000000) = false ∧ (!true && fbit 0x20000000 29) = false) ∧
    (let b : Burst := { wBurst with failing := some (64, true) }
     b.failing = some (64, true) ∧ b.failing ≠ some (64, false) ∧ b.retries ≠ 0 ∧ ({ wBurst with retries := 0 } : Burst).failing ≠ some (64, true)) ∧
    ((wChan {}).group 0).retryEvEn = false ∧ (∃ e ∈ ((wChan { busy := true }).group 0).chans, e.2.busy = true) ∧ mayGroup (wChan {}) (.fn 2) 0 = false := by
  refine ⟨by decide, ⟨by decide, by decide⟩, ?_, by decide, by decide, by decide, ⟨_, List.mem_singleton.mpr rfl, rfl⟩, by decide⟩
  exact ⟨_, _, _, _, by rfl, by rfl⟩
theorem wit_MoverBursts_ahead : let C := (wStore (wSet false) { wNsChan 1 with ahead := true }).chan 0 0
    (C.busy = true ∧ fbit C.xctl 36 = true ∧ C.ahead = true ∧ ∀ x ∈ (wStore (wSet false) { wNsChan 1 with ahead := true }).sto.reads, x.reader ≠ .chan 0 0) ∧
    ((wStore (wSet false) (wNsChan 1)).chan 0 0).ahead = false := by
  refine ⟨⟨by decide, by decide, by decide, ?_⟩, by decide⟩
  intro x h
  cases h
theorem wit_TileCacheRows_more :
    (let s := tState { cache := { ceWindow := [(3, 10)] } }
     tilePresent s 0 = true ∧ (s.tile 0).cache.waysOff.getLsbD 3 = false ∧ Tab.get 0 (s.tile 0).cache.ceWindow 3 + (5 : BitVec 5).toNat < 16 ∧
     16 ≤ Tab.get 0 (s.tile 0).cache.ceWindow 3 + (6 : BitVec 5).toNat) ∧
    (let s := wState { cache := { en := true, lines := [(0, { dpa := 0x600000, dirty := false, poison := false, data := [] })], prefetches := [0x600000] } }
     (s.tile 0).cache.way 0x600000 ≠ none ∧ (s.tile 0).cache.prefetches = 0x600000 :: []) ∧
    ((tState { cache := { waysOff := 8 } }).tile 0).cache.waysOff.getLsbD 3 = true ∧ tilePresent { State.reset with glb := { part := .xv128 } } 255 = false ∧
    ((tState {}).tile 0).cache.disabling = false ∧ ((tState {}).tile 0).cache.maintOp = 0 ∧ ((tState {}).tile 0).cache.en = false ∧
    mayCache (tState {}) 0 0x7FFFFFFFC0 = false := by decide +kernel
theorem wit_TlbMaintenance_more :
    (let o : InvOp := { kind := 3, va := 0, ast := 0 }
     let s1 := invUnit (holdUnit (tState {}) (.tile 0) o) (.tile 0) o
     unitDrained s1 (.tile 0) = true ∧ tileParcel (tState {}) 0 = some 5) ∧
    (let s := tState { mmu := { tlb := { walk := some { va := 0, kind := .load, level := 0, table := 0 } } } }
     let o : InvOp := { kind := 3, va := 0, ast := 0 }
     unitDrained (invUnit (holdUnit s (.tile 0) o) (.tile 0) o) (.tile 0) = false) ∧
    invDrained (wInval { tile := some 0, byReg := true }) 5 { tile := some 0, byReg := true } = true ∧
    (let s : State := { wInval { tile := some 0, byReg := true } with
       tiles := [(0, { run := .running, mmu := { tlb := { walk := some { va := 0, kind := .load, level := 0, table := 0, invs := [(3, 0, 0)] } } } })] }
     invDrained s 5 { tile := some 0, byReg := true } = false) := by decide +kernel
theorem wit_WalkDescriptorReads_result :
    let s := tState { mmu := { tlb := { result := some { va := 0x200000, kind := .load, idx := 2, reason := 0x21, level := 1 } } } }
    (unitTlb s (.tile 0)).result = some { va := 0x200000, kind := .load, idx := 2, reason := 0x21, level := 1 } ∧ (unitTlb s (.tile 0)).walk = none := by decide
/-- A table whose only transition peeks a byte of its input, which is poisoned. -/
def wPeek : State :=
  { tState {} with
    parcels := [(5, { tParcel with image := { tImage with decTables := [{ tiles := 1, slot := 0, states := 1, actionBase := 0, transitions := [0x2000000], actions := [] }] } })]
    mem := { poison := [tsBase 0 + 0x2000] } }
theorem wit_DecodeUnit_more : ((wDec false { decRun := some (decBegin wDecCmd) }).tile 0).decRun = some (decBegin wDecCmd) ∧ ((wDec false {}).tile 0).decQ = [] ∧
    ((wDec false {}).tile 0).decRun = none ∧
    (let s := wPeek
     ∃ r, (decStepW 0 { s := s, r := decBegin wDecCmd }).e = .poison ∧ roleOf (decStepW 0 { s := s, r := decBegin wDecCmd }).s 0 = some r) :=
  ⟨rfl, rfl, rfl, ⟨_, by decide +kernel, rfl⟩⟩
/-- A tile that may use a fan route, with a header of 16 bytes at 0x1000. -/
def wFan (hdr : List Byte) : State :=
  ({ parcels := [(5, { tParcel with image := { tImage with routes := [{ id := 3, fan := true, src := 0, dst := 32, hashLo := 0, hashBits := 4 }] } })]
     tiles := [(0, { tS 32 0 with run := .running, obxRoute := 3, obxSrc := 0x1000 })] } : State).tsWrite 0 0x1000 hdr
theorem wit_Sends_fan :
    (let s := wFan (leBytes 4 16 ++ leBytes 4 1 ++ zeros 8)
     TileRuns s 0 ∧ (∃ r, routeOf s 0 3 = some r ∧ r.fan = true) ∧ s.tsPoison 0 0x1000 16 = none ∧ fanBad (s.tsRead 0 0x1000 16) 32 = false ∧
       0x1000 + 16 ≤ 0x100000) ∧
    (let s := wFan (zeros 16); s.tsPoison 0 0x1000 16 = none ∧ fanBad (s.tsRead 0 0x1000 16) 32 = true) ∧
    (∃ a, ({ wFan [] with mem := { poison := [tsBase 0 + 0x1000] } } : State).tsPoison 0 0x1000 16 = some a) ∧
    ((tState { sendQ := [{ wSend with late := true }] }).tile 0).sendQ.head? = some { wSend with late := true } ∧ ((tState {}).tile 0).sendQ = [] := by
  refine ⟨⟨⟨rfl, by decide +kernel⟩, ?_, by decide +kernel, by decide +kernel, by decide⟩, by decide +kernel, ?_, rfl, rfl⟩
  · exact ⟨_, rfl, rfl⟩
  · exact ⟨_, rfl⟩
theorem wit_WorkItems_slots : ({ tParcel with slots0 := [1] } : Parcel).hasSlot 0 = true ∧ tParcel.hasSlot 0 = false ∧
    (((wPool { run := .fdone }).tile 0).dqWait = none) := by decide
theorem wit_Doorbells_more : 8 ≤ ((tState { decQ := List.replicate 8 wDecCmd }).tile 0).decQ.length ∧ TsWrites (tState {}) 0 0xFFFF8 8 ∧ (0x40 % 128 ≠ 0 ∧ 0xFFF00 < 0xFFF80) ∧
    16 ≤ (({ wBell with ces := [(0, { jobs := List.replicate 16 wSortJob })] } : State).eng .ce 0).jobs.length :=
  ⟨by decide, ⟨rfl, by decide +kernel⟩, by decide, by decide⟩
theorem wit_HashUnpackDictionary_kept : ((wHash 0x100 8).tile 0).dictIdx = none ∧
    ((tState { dictIdx := some { pc := 0, at_ := 1, indices := 7, left := 7 } }).tile 0).vstart = 0 ∧
    (let T := (tState { pc := 8, vstart := 1, dictIdx := some { pc := 8, at_ := 1, indices := 0x907, left := 0x500 } }).tile 0
     let k : DictKept := { pc := 8, at_ := 1, indices := 0x907, left := 0x500 }
     T.dictIdx = some k ∧ k.pc = T.pc ∧ k.at_ ≠ 0 ∧ k.at_ = T.vstart.toNat) := ⟨rfl, rfl, rfl, rfl, by decide, by decide⟩
/-- An index that has not changed since is the one the lookup began with; one that a handler has repaired is the new one (R129). -/
theorem test_dict_kept :
    let T : Tile := { vtype := 2, pc := 8, vstart := 1, vRegs := [(1, 0x600)], dictIdx := some { pc := 8, at_ := 1, indices := 0x907, left := 0x500 } }
    dictIndex T 1 8 1 = 6 ∧ dictIndex { T with vRegs := [(1, 0x500)] } 1 8 1 = 9 := by decide +kernel
theorem wit_MailboxesAndLocks_more : isSender (wMbx {}) (.firmware 1) 1 = false ∧ isReceiver (wMbx {}) (.firmware 1) 1 = true ∧
    (isSender (wMbx {}) (.fn 2) 1 = false ∧ reachesChan (wMbx {}) (.fn 2) 1 = false) ∧ (isReceiver (wMbx {}) (.fn 0) 1 = false ∧ isSender (wMbx {}) (.fn 0) 1 = true) := by decide
theorem wit_Events_link :
    (let s : State := { State.reset with evt := { msix := [(2047, { pending := true })] }, ports := { hpa := { linkUp := true } } }
     (Tab.get {} s.evt.msix 2047).pending = true ∧ linkUp s (fnPort s 0) = true) ∧ linkUp State.reset (fnPort State.reset 0) = false ∧
    256 ≤ (256 : BitVec 11).toNat := by decide
theorem wit_CommandAcceptance_loader : let s := (wLatched wWin [] .active).updWin wWin fun W => { W with busy := false, latched := [] }
    winAccepts s wWin 0x10 = true ∧ fieldChecks s wWin (leBytes 1 0x10 ++ zeros 7 ++ leBytes 8 0 ++ leBytes 8 64 ++ leBytes 8 0 ++ leBytes 8 0x1000 ++ zeros 24) = none ∧
    (s.parcel 5).noLoaderPath = false ∧ ({ tParcel with groups := 0 } : Parcel).noLoaderPath = true := by decide +kernel
theorem wit_Registers_more : (TlpForm.plain ≠ .atomicOp ∧ TlpForm.ide ≠ .plain) ∧ locate State.reset (.fn 0) 0x180000 = (.smap 0 0, .write) ∧
    fieldAt (leBytes 8 0xFF) 0 1 ≠ 0 := by decide
theorem wit_Frames_late : ({ State.reset with frm := { ptmLate := some (1, 2, 3) } } : State).frm.ptmLate = some (1, 2, 3) ∧ State.reset.frm.ptmLate = none ∧
    ({ State.reset with frm := { ptmEn := true, ptmAsked := true, frozen := true } } : State).frm.frozen = true := by decide

-- ## Witnesses of clauses on memory, caches and engines

/-- Tile T000 with page `e` in its TLB, and the line at 0x600000 poisoned. -/
def wPage (e : TlbEntry) (T : Tile) : State :=
  { tState { T with mmu := { tlb := { entries := [(0, e)] } } } with mem := { poison := [0x600000] } }
theorem wPage_walks (e : TlbEntry) (T : Tile) (va : Nat) (k : AccessKind) : WalksFor (wPage e T) 0 va k := ⟨(fun _ h => nomatch h), (fun _ h => nomatch h)⟩
/-- A page that allows nothing. -/
def wShut : TlbEntry := { wEntry with leaf := 0x13 }
theorem wShut_hits (T : Tile) (k : AccessKind) : Hits (wPage wShut T) 0 0x200000 k 5 wShut 0x600000 :=
  ⟨by decide, wPage_walks _ _ _ _, by rfl, by rfl, rfl, rfl, _, rfl⟩
theorem wit_MemoryLoadStore_more : Reaches (wPage wEntry {}) 0 0x200000 8 .load 0x600000 ∧ (wPage wEntry {}).mem.poisoned (0x600000 + 7) = true ∧
    (wState {}).memOk ∧ (wState {}).mem.quiet 0x600000 8 ∧
    (Hits (wPage wShut {}) 0 0x200000 .load 5 wShut 0x600000 ∧ permReason (wPage wShut {}) 5 wShut .load 0x600000 = some 0x10) ∧
    (Hits (wPage wShut {}) 0 0x200000 .store 5 wShut 0x600000 ∧ permReason (wPage wShut {}) 5 wShut .store 0x600000 = some 0x11) :=
  ⟨⟨rfl, rfl, 5, wEntry, ⟨by decide, wPage_walks _ _ _ _, by rfl, by rfl, rfl, rfl, _, rfl⟩, by decide +kernel⟩, by decide +kernel, rfl,
    ⟨(fun _ h => nomatch h), (fun _ h => nomatch h)⟩, ⟨wShut_hits _ _, by decide +kernel⟩, ⟨wShut_hits _ _, by decide +kernel⟩⟩
/-- The cache of that tile, with what its lines are. -/
def wLines (l : List (Nat × CacheLine)) : State := wState { tS 0x200000 0 with cache := { en := true, clean := true, lines := l } }
def wLine (dpa : Nat) (dirty poison : Bool) : CacheLine := { dpa := dpa, dirty := dirty, poison := poison, data := zeros 64 }
theorem wLines_hits (l : List (Nat × CacheLine)) (k : AccessKind) : Hits (wLines l) 0 0x200000 k 5 wEntry 0x600000 :=
  ⟨by decide, wWalks _ _ _, by rfl, by rfl, rfl, rfl, _, rfl⟩
/-- A set full of the lines of other addresses, all of them dirty. -/
def wFull : List (Nat × CacheLine) := (List.range 8).map fun w => (w, wLine (0x700000 + 0x4000 * w) true false)
theorem wit_CacheHitLoad_more :
    (Hits (wLines [(0, wLine 0x600000 false true)]) 0 0x200000 .load 5 wEntry 0x600000 ∧
      ((wLines [(0, wLine 0x600000 false true)]).tile 0).cache.lineAt 0x600000 = some (wLine 0x600000 false true)) ∧
    (Hits (wLines [(0, wLine 0x600000 false false)]) 0 0x200000 .store 5 wEntry 0x600000 ∧
      permReason (wLines [(0, wLine 0x600000 false false)]) 5 wEntry .store 0x600000 = none ∧
      ((wLines [(0, wLine 0x600000 false false)]).tile 0).cache.lineAt 0x600000 = some (wLine 0x600000 false false)) ∧
    (bitOf wEntry.leaf 4 = true ∧ ((wLines []).tile 0).cache.lineAt 0x600000 = none ∧ (∀ x ∈ ((wLines []).tile 0).cache.side, x.dpa ≠ 0x600000 / 64 * 64) ∧
      (wLines []).mem.poisoned 0x600000 = false ∧ Tab.find ((wLines []).tile 0).cache.lines (8 * setOf 0x600000 + ((wLines []).tile 0).cache.fillWay (setOf 0x600000)) = none) ∧
    (((wLines wFull).tile 0).cache.lineAt 0x600000 = none ∧
      Tab.find ((wLines wFull).tile 0).cache.lines (8 * setOf 0x600000 + ((wLines wFull).tile 0).cache.fillWay (setOf 0x600000)) = some (wLine 0x700000 true false) ∧
      (∃ a, place 0x700000 = .cellar a) ∧ 0x700000 % 64 = 0 ∧ (zeros 64).length = 64) := by
  refine ⟨⟨wLines_hits _ _, by decide +kernel⟩, ⟨wLines_hits _ _, by decide +kernel, by decide +kernel⟩, ⟨by decide, by decide +kernel, (fun _ h => nomatch h), by decide +kernel,
    by decide +kernel⟩, by decide +kernel, by decide +kernel, ⟨_, rfl⟩, rfl, rfl⟩
/-- A store that misses a full set writes the victim back and leaves the line dirty in its place; memory is otherwise as it was (R226, R229). -/
theorem test_store_miss : let s := tStep (.sst 0 3 1 1 0) (wLines wFull)
    (s.tile 0).cache.lineAt 0x600000 = some { wLine 0x600000 true false with data := leBytes 8 0x200000 ++ zeros 56 } ∧
    s.mem.byte 0x600002 = 0 ∧ (s.tile 0).cache.lineAt 0x700000 = none := by decide +kernel
theorem wit_VectorMemoryAccess_quiet : wVm.memOk ∧ ∀ j, wVm.mem.quiet (0x600000 + j * 4) 4 := ⟨rfl, fun _ => ⟨(fun _ h => nomatch h), (fun _ h => nomatch h)⟩⟩
/-- Two elements by memory forms from `a` on, in a page. -/
def wVecs (e : TlbEntry) (a : Word) : State := wPage e { tV 0 0 with sRegs := [(1, a)] }
theorem wit_VectorLoadFault_more : isActive ((wVecs wEntry 0x200000).tile 0) 0 0 = true ∧
    (let s := tState (wHalf 0x3FFFC)
     TsWrites s 0 0x3FFFC 4 ∧ ¬ TsWrites s 0 0x40000 4 ∧ isActive (s.tile 0) 0 1 = true) ∧ 0x200001 % 4 ≠ 0 ∧
    (Reaches (wVecs wEntry 0x200000) 0 0x200000 4 .load 0x600000 ∧ (wVecs wEntry 0x200000).mem.poisoned 0x600000 = true) ∧
    (Hits (wVecs wShut 0x200000) 0 0x200000 .load 5 wShut 0x600000 ∧ permReason (wVecs wShut 0x200000) 5 wShut .load 0x600000 = some 0x10) ∧
    (Hits (wVecs wShut 0x200000) 0 0x200000 .store 5 wShut 0x600000 ∧ permReason (wVecs wShut 0x200000) 5 wShut .store 0x600000 = some 0x11) := by
  refine ⟨by decide +kernel, ⟨⟨rfl, by decide +kernel⟩, ?_, by decide +kernel⟩, by decide,
    ⟨⟨rfl, rfl, 5, wEntry, ⟨by decide, wPage_walks _ _ _ _, by rfl, by rfl, rfl, rfl, _, rfl⟩, by decide +kernel⟩, by decide +kernel⟩,
    ⟨wShut_hits _ _, by decide +kernel⟩, ⟨wShut_hits _ _, by decide +kernel⟩⟩
  intro h
  exact absurd h.2 (by decide +kernel)
theorem wit_Sends_delivery : (0x1000 + wSend.len ≤ 0x100000 ∧ (1 : Nat) < 256 ∧ (1 : Nat) ≠ (0 : TileId).val ∧ wSend.old = []) ∧
    ({ wSend with old := [(0x1000, 7, false)] } : Send).old ≠ [] := by decide
theorem wit_CacheMaintenance_more : WalksFor (wDirty true) 0 0x200000 .load ∧ (0x200000 : Nat) < 2 ^ 48 ∧ tileParcel (wDirty true) 0 = some 5 ∧
    ((wDirty true).tile 0).mmu.tlb.lookup 0x200000 = some wEntry ∧ 12 ≤ wEntry.sizeLog2 := ⟨wWalks _ _ _, by decide, by decide, by decide, by decide⟩
theorem wit_TileCacheRows_disable : let s := wState { cache := { en := true, disabling := true, clean := true, lines := [(0, wLine 0x600000 true false)] } }
    (s.tile 0).cache.disabling = true ∧ (s.tile 0).cache.clean = true ∧ (s.tile 0).cache.lines = [(0, wLine 0x600000 true false)] := by decide
theorem wit_EngineJobs_slots : (∀ k, engHasSlot wSort k 0 = true) ∧ engHasSlot { wSort with parcels := [(5, { tParcel with bslots := [0, 0, 0, 0] })] } .se 0 = false ∧
    engHasSlot { wSort with parcels := [(5, { tParcel with bslots := [0, 1, 1, 1] })] } .ce 3 = true := by
  refine ⟨?_, by decide +kernel, by decide +kernel⟩
  intro k
  cases k <;> decide +kernel

-- ## Witnesses of clauses on frames, commands and loads

/-- An EXECUTE of parcel 5 in its course, and its four tiles as given. -/
def wExecOf (T : Tile) (x : Exec) (cs : List Cmd) : State :=
  { wTwo 0x12 .running with
    parcels := [(5, { tParcel with exec := some x })], tiles := [(0, T), (1, T), (16, T), (17, T)], cmds := wCmd 0x12 7 3 .running [] :: cs }
def wX : Exec := { seq := 3, start := 9 }
/-- A CANCEL or a RESUME that names it. -/
def wNames (op : Nat) : Cmd := { wAsk 7 with opcode := op }
theorem wit_Frames_boundary :
    (let s := wExecOf { run := .fdone, eos := true } wX []
     finalCommit s (s.parcel 5) = true ∧ (s.parcel 5).exec = some wX ∧ s.cmd 3 = some (wCmd 0x12 7 3 .running [])) ∧
    (let s := wExecOf { run := .running } wX [wNames 0x13]
     finalCommit s (s.parcel 5) = false ∧ observedFor s 5 0x13 3 = [wNames 0x13]) ∧
    (let s := wExecOf { run := .running } { wX with pipes := [{ id := 0, holds := 16 }] } []
     finalCommit s (s.parcel 5) = false ∧ observedFor s 5 0x13 3 = [] ∧ failure s (s.parcel 5) { wX with pipes := [{ id := 0, holds := 16 }] } = none ∧
       decants s (s.parcel 5) 0 = false ∧ ¬ PipeParked s (s.parcel 5) 0 ∧ s.frm.holdNow.toNat < (({ wX with pipes := [{ id := 0, holds := 16 }] } : Exec).pipe 0).holds + 1 ∧
       0 ∈ (s.parcel 5).image.pipeIds ∧ ∀ j ∈ (s.parcel 5).image.pipeIds, ¬ j < 0) ∧
    (let x : Exec := { wX with pipes := [{ id := 0, parks := [(3, 1000)] }] }
     let s := wExecOf { run := .parked } x []
     ∃ e ∈ (s.parcel 5).image.stages, e.pipeline = 0 ∧ (∃ i ∈ poolTiles (s.parcel 5) e, (s.tile i).run = .parked) ∧
       (s.parcel 5).parkNow.toNat < Tab.get 0 (x.pipe 0).parks e.stage + 1) ∧
    (let s := wExecOf { run := .fdone } wX []
     finalCommit s (s.parcel 5) = false ∧ failure s (s.parcel 5) wX = none ∧ decants s (s.parcel 5) 0 = true ∧
       ((s.parcel 5).image.pipeIds.flatMap (pipeTiles (s.parcel 5))).Nodup ∧ (s.tile 0).eos = false) ∧
    (let s := wExecOf { run := .running } wX []
     decants s (s.parcel 5) 0 = false ∧ ¬ PipeParked s (s.parcel 5) 0 ∧ failure s (s.parcel 5) wX = none) ∧
    (let s := wExecOf { run := .parked } wX [wNames 0x14]
     decants s (s.parcel 5) 0 = false ∧ PipeParked s (s.parcel 5) 0 ∧ observedFor s 5 0x14 3 = [wNames 0x14] ∧ observedFor s 5 0x13 3 = []) := by
  unfold PipeParked
  decide +kernel
/-- A boundary has no outcome for an EXECUTE that goes on. -/
theorem wit_Frames_goes_on : let s := wExecOf { run := .running } wX []
    outcome s (s.parcel 5) wX (observedFor s 5 0x13 3) (observedFor s 5 0x14 3) = none := by
  intro s
  have h1 : finalCommit s (s.parcel 5) = false := by decide +kernel
  have h2 : observedFor s 5 0x13 3 = [] := by decide +kernel
  have h3 : failure s (s.parcel 5) wX = none := by decide +kernel
  have h4 : overrun s (s.parcel 5) wX = none := by decide +kernel
  have h5 : parkExpired s (s.parcel 5) wX (!(observedFor s 5 0x14 3).isEmpty) = none := by decide +kernel
  unfold outcome
  rw [h1, h2, h3, h4, h5]
  simp
theorem wit_Frames_starts : let s := wExecOf {} wX []
    startFlaw s 5 (wCmd 0x12 7 3 .running (zeros 64)) [] = none ∧ ({ s with parcels := [(5, tParcel)] } : State).parcel 5 = tParcel ∧ tParcel.exec = none ∧
    startFlaw s 5 (wCmd 0x12 7 3 .running (zeros 0x18 ++ leBytes 4 1 ++ zeros 0x24)) [] ≠ none := by decide +kernel
/-- A boundary that decants exchanges the inboxes and begins the tiles; one at which the last stage has ended its stream ends the EXECUTE well. -/
theorem test_boundary : (let s := decideExecute (wExecOf { run := .fdone, eos := true } wX []) 5
      (s.parcel 5).exec = none ∧ s.cmd 3 = none ∧ (s.tile 0).run = .idle) ∧
    ((decant (wExecOf { run := .fdone } wX []) 5 0).tile 0).bLower = true ∧ ((decant (wExecOf { run := .fdone } wX []) 5 0).tile 17).run = .running := by decide +kernel
/-- Parcel 5 with three tables at 0x600000 and one 2 MiB page at 0x200000, which allows everything, at 0x800000. -/
def wTables : State :=
  let d := fun (t : Nat) => 1 + t / 4096 * 2 ^ 24
  let m := (((({} : Mem).write 0x600000 (leBytes 8 (d 0x601000))).write 0x601000 (leBytes 8 (d 0x602000))).write 0x602008 (leBytes 8 (0x7F + 0x800000 / 4096 * 2 ^ 24)))
  { wTwo 0x12 .running with parcels := [(5, { tParcel with root := 0x600000 })], mem := m }
def wRaw (op : Nat) (l : List Byte) : Cmd := { wCmd op 7 3 .running (zeros 8 ++ l ++ zeros (56 - l.length)) with opcode := op }
theorem okay_except {ε α : Type} (r : Except ε α) (h : okay r = true) : ∃ a, r = .ok a := by
  cases r with
  | ok a => exact ⟨a, rfl⟩
  | error e => cases h
theorem of_toOption {ε α : Type} {r : Except ε α} {a : α} (h : r.toOption = some a) : r = .ok a := by
  cases r with
  | ok b => exact congrArg _ (Option.some.inj h)
  | error e => cases h
theorem bad_except {ε α : Type} (r : Except ε α) (h : okay r = false) : ∃ e, r = .error e := by
  cases r with
  | ok a => cases h
  | error e => exact ⟨e, rfl⟩
theorem wit_CommandAcceptance_execute :
    (let c := wRaw 0x12 (leBytes 8 0x200000 ++ leBytes 4 8)
     c.opcode = 0x12 ∧ c.parcel = some 5 ∧ c.f 0x10 4 ≠ 0 ∧ c.space = false ∧ { c with raw := [0, 2] ++ c.raw.drop 2 }.space = true ∧
       okay (cmdRead wTables 5 (c.f 8 8) (c.f 0x10 4)).1 = true ∧ okay (cmdRead wTables 5 0x600000 8).1 = false) ∧
    (wRaw 0x12 []).f 0x10 4 = 0 ∧ ((wRaw 0x40 (zeros 8 ++ leBytes 4 64)).f 0x10 4 = 64 ∧ (wRaw 0x40 []).f 0x10 4 ≠ 64) := by decide +kernel
/-- A MAP of one 2 MiB page at 0x400000, and one of an address in a table that is not there. -/
def wMap (va page n : Nat) : Cmd := wRaw 0x20 (leBytes 8 va ++ leBytes 8 0xA00000 ++ leBytes 8 n ++ leBytes 1 page ++ zeros 1 ++ leBytes 1 0xF)
theorem wit_CommandAcceptance_map :
    ((wMap 0x400000 1 0x200000).opcode = 0x20 ∧ (wMap 0x400000 1 0x200000).f 0x20 1 = 1 ∧ (wMap 0x400000 1 0x200000).f 0x18 8 = 2 ^ (12 + 9 * 1)) ∧
    (∃ a t, mapSlot 4 wTables 5 0x400000 0 2 0x600000 = .ok (a, t) ∧ place a = .cellar a ∧ a % 8 = 0 ∧ t.memOk ∧ t.mem.quiet a 8) ∧
    (∃ st d, mapSlot 4 wTables 5 0x200000 0 3 0x600000 = .error (st, d)) ∧
    (∃ t, unmapTable 4 wTables 5 0x600000 0 0 0x200000 0x400000 = .ok t) ∧
    (∃ st d, unmapTable 4 { wTables with parcels := [(5, { tParcel with root := 0x7FFFFFF000 })] } 5 0x7FFFFFF000 0 0 0x200000 0x400000 = .error (st, d)) := by
  refine ⟨by decide +kernel, ⟨0x602010, wTables, of_toOption (by decide +kernel), rfl, rfl, by unfold State.memOk; decide +kernel, (fun _ h => nomatch h), (fun _ h => nomatch h)⟩, ?_, ?_, ?_⟩
  · obtain ⟨e, h⟩ := bad_except (mapSlot 4 wTables 5 0x200000 0 3 0x600000) (by decide +kernel)
    exact ⟨e.1, e.2, h⟩
  · exact okay_except _ (by decide +kernel)
  · obtain ⟨e, h⟩ := bad_except (unmapTable 4 { wTables with parcels := [(5, { tParcel with root := 0x7FFFFFF000 })] } 5 0x7FFFFFF000 0 0 0x200000 0x400000) (by decide +kernel)
    exact ⟨e.1, e.2, h⟩
theorem wit_CommandAcceptance_copy :
    (let c := wRaw 0x22 (leBytes 8 0x200000 ++ leBytes 8 0x201000 ++ leBytes 8 64)
     ¬ (c.f 8 8 < c.f 0x10 8 + c.f 0x18 8 ∧ c.f 0x10 8 < c.f 8 8 + c.f 0x18 8) ∧ 0 < c.f 0x18 8 ∧ c.f 8 8 / 4096 = (c.f 8 8 + c.f 0x18 8 - 1) / 4096 ∧
       c.f 0x10 8 / 4096 = (c.f 0x10 8 + c.f 0x18 8 - 1) / 4096) ∧
    (cmdXlat wTables 5 0x200000 .load).toOption = some 0x800000 ∧ (cmdXlat wTables 5 0x201000 .load).toOption = some 0x801000 ∧
    (cmdXlat wTables 5 0x201000 .store).toOption = some 0x801000 ∧ place 0x800000 = .cellar 0x800000 ∧ place 0x801000 = .cellar 0x801000 ∧
    (∀ i, i < 64 → wTables.mem.poisoned (0x800000 + i) = false) ∧ (0x800000 % 4096 = 0x200000 % 4096 ∧ 0x801000 % 4096 = 0x201000 % 4096) ∧
    (0x200000 < 0x200000 + 64 ∧ okay (cmdXlat wTables 5 0x600000 .load) = false) := by decide +kernel
/-- The descriptor of a namespace of 128 blocks, in set 0 or in a new set over casks 0 to 3 with one parity member. -/
def wNsDesc (n new p ports : Nat) : List Byte := leBytes 8 n ++ leBytes 1 0 ++ leBytes 1 new ++ leBytes 1 0 ++ leBytes 1 p ++ leBytes 2 ports ++ zeros 50
/-- Set 0 and namespace 1, and four casks that belong to no set. -/
def wSpares : State := { wStore (wSet false) {} with casks := (List.range 4).map fun n => (n, { present := true, st := .spare, linkUp := true, zoneCount := 100 }) }
theorem wit_CommandAcceptance_namespaces :
    nsField (wNsDesc 0 0 0 0) = some 0 ∧ nsField (wNsDesc 128 0 0 0) = none ∧ wSpares.sto.nss.length < 1024 ∧ wSpares.pset 0 = some (wSet false) ∧
    (wSet false).code ≠ 4 ∧ (wSet false).cap < setUsed wSpares 0 + (100000000 * 4096 + 262143) / 262144 ∧ setUsed wSpares 0 + (128 * 4096 + 262143) / 262144 ≤ (wSet false).cap ∧
    findBelow 1024 (fun n => (wSpares.nspace n).isNone) = some 0 ∧ wSpares.sto.sets.length < 16 ∧ findBelow 16 (fun i => (wSpares.pset i).isNone) = some 1 ∧
    (nsField (wNsDesc 128 1 1 15) = none ∧ setBits 16 (fieldAt (wNsDesc 128 1 1 15) 0xC 2) = [0, 1, 2, 3] ∧
      (∀ k ∈ [0, 1, 2, 3], caskPresent wSpares k = true ∧ (wSpares.cask k).st = .spare ∧ isTarget wSpares k = false) ∧
      2 ≤ setCapacity 4 1 100 wSpares.sto.reservePct.toNat) ∧
    ((wRaw 0x41 []).f 4 4 = 0 ∧ wSpares.nspace 0 = none ∧ wSpares.nspace 1 = some wNs ∧ wNs.attached ≠ none ∧ ({ wNs with attached := none } : Namespace).attached = none ∧
      wSpares.cmds.any (detaching 1) = false) ∧
    ((wSpares.parcel 5).holds = true ∧ (wSpares.parcel 6).holds = false ∧ wNs.attached = some 5 ∧ (5 : Nat) ≠ 6) := by decide +kernel
/-- A directory with slots of 0x10000 bytes, in both copies. -/
def wFlash : Flash := { dir0 := dirPut ([0x58, 0x56, 0x42, 0x44, 1, 0] ++ zeros 18 ++ leBytes 4 0x10000 ++ zeros 32) 1 1, dir1 := [] }
theorem wit_CommandAcceptance_firmware :
    (let s : State := { State.reset with boot := { flash := wFlash } }
     let c := wRaw 0x48 (zeros 8 ++ leBytes 4 256 ++ leBytes 4 0 ++ leBytes 8 0x100)
     fwBusy s c = false ∧ s.boot.flash.dir = some wFlash.dir0 ∧ (slotReason s wFlash.dir0 false ≠ 0 ∧ s.glb.fwSlot = false) ∧ fwStageCheck s c = none ∧
       (fwStageCheck s (wRaw 0x48 (zeros 8 ++ leBytes 4 255))).isSome = true ∧ ({ s with glb := { fwSlot := true } } : State).glb.fwSlot = true) ∧
    (let c := wRaw 0x49 []
     fwBusy { State.reset with cmds := [{ c with seq := 1, opcode := 0x48 }, c] } c = true) := by decide +kernel

-- ## A whole image, laid out by Tables 1 to 6, 8 and 14 of chapter 03

def sha (l : List Byte) : List Byte := hashEnd 0 (hashMore 0 (hashInit 0 0) l)
/-- One table entry for each section, from an offset on. -/
def wEntries (off : Nat) : List (Nat × List Byte) → List Byte
  | [] => []
  | (ty, b) :: l => leBytes 1 ty ++ zeros 3 ++ leBytes 4 off ++ leBytes 4 b.length ++ zeros 4 ++ sha b ++ wEntries (off + b.length) l
/-- RESOURCE of one quad, code of one instruction for virtual tiles 0 to 3, 16 bytes of data for virtual tile 0, and one stage of the four. -/
def wSections : List (Nat × List Byte) := [
  (1, leBytes 1 1 ++ leBytes 1 1 ++ leBytes 2 1000 ++ zeros 4 ++ leBytes 8 1 ++ zeros 32),
  (3, leBytes 32 15 ++ leBytes 4 4 ++ leBytes 4 0 ++ List.replicate 32 0xFF ++ zeros 8 ++ leBytes 4 0 ++ zeros 12),
  (4, leBytes 32 1 ++ leBytes 4 0x100 ++ leBytes 4 16 ++ leBytes 4 32 ++ zeros 4 ++ leBytes 16 0xABCD),
  (9, leBytes 2 1 ++ leBytes 2 4 ++ zeros 12 ++ (zeros 4 ++ leBytes 2 0 ++ leBytes 2 4 ++ leBytes 4 900 ++ leBytes 2 0x40 ++ leBytes 2 0x20)
    ++ [0, 0, 1, 0, 2, 0, 3, 0] ++ zeros 8)]
def wHeader (n total : Nat) : List Byte :=
  [0x58, 0x56, 0x50, 0x49, 1, 0] ++ leBytes 2 n ++ leBytes 4 total ++ [7, 0, 0, 0] ++ [1, 1, 1, 1, 1, 1, 1, 0] ++ leBytes 2 1 ++ zeros 2 ++ leBytes 4 0
    ++ zeros 8 ++ leBytes 8 0x1234 ++ zeros 16
def wImage : List Byte :=
  let body := wSections.flatMap (·.2)
  let at_ := 64 + 48 * 5
  let head := wHeader 5 (at_ + body.length + 256) ++ wEntries at_ wSections
  let entry := leBytes 1 0x0C ++ zeros 3 ++ leBytes 4 (at_ + body.length) ++ leBytes 4 256 ++ zeros 4
  let measure := leBytes 4 1 ++ zeros 12 ++ sha (head ++ entry ++ zeros 32 ++ body) ++ zeros 208
  head ++ entry ++ sha measure ++ body ++ measure
/-- The loader finds no flaw in it; it finds a wrong magic byte at once. -/
theorem test_image : imageFlaw (tState {}) 5 816 0x1000 wImage = none := by decide +kernel
theorem test_image_magic : (imageFlaw (tState {}) 5 816 0x1000 [0x58, 0x57]).map (fun x => (x.code, x.pos)) = some (1, 1) := by decide +kernel

/-- The first 512 bytes of that image, up to the end of its TILEDATA; the digest of MEASURE, at its place in the table, does not matter there. -/
def wPart : List Byte :=
  ((wHeader 5 816 ++ wEntries 304 wSections) ++ (leBytes 1 0x0C ++ zeros 3 ++ leBytes 4 560 ++ leBytes 4 256 ++ zeros 36) ++ wSections.flatMap (·.2)).take 512
def wStream (staging : Nat) (bytes : List Byte) : Loader :=
  { phase := .streaming, seq := 3, streamLen := 816, staging := staging, stagingBytes := 0x1000, bytes := bytes, bound := true, shadow := {} }
theorem wit_TaskSubmission_stream :
    (let L := wStream 0x200000 []
     (imageFlaw wTables 5 L.streamLen L.stagingBytes [0x59]).map (·.pos) = some 0 ∧ stagingParts [0x59] 0 0 = [] ∧
       imageFlaw wTables 5 L.streamLen L.stagingBytes [0x58] = none ∧ stagingParts [0x58] 0 1 = [] ∧ [0x58].length < L.streamLen ∧
       imageFlaw wTables 5 L.streamLen L.stagingBytes [] = none ∧ stagingParts [] 0 0 = []) ∧
    (let all := wPart.take 496 ++ (wPart.drop 496).take (816 - 496)
     (all = wPart ∧ all.length = 512) ∧ stagingParts all 496 512 = [(0, 496, 16)] ∧ pageRuns (0x200000 + 0) 16 = [(0x200000 + 0, 16)] ∧
       (cmdPlaces wTables 5 (0x200000 + 0) 16 true true).toOption = some [(0x800000, 16)] ∧ place 0x800000 = .cellar 0x800000 ∧ 0x800000 % 4096 + 16 ≤ 4096 ∧
       okay (cmdPlaces wTables 5 (0x900000 + 0) 16 true true) = false ∧ pageRuns (0x900000 + 0) 16 = [(0x900000 + 0, 16)]) := by decide +kernel
theorem wit_TaskSubmission_part : imageFlaw wTables 5 816 0x1000 wPart = none := by decide +kernel
theorem wit_TaskSubmission_whole : (wImage ++ ([] : List Byte).take (816 - wImage.length)).length = 816 ∧ stagingParts wImage 816 816 = [] := by decide +kernel
/-- A load in its copy, of 16 bytes at 0x100 of virtual tile 0 and the zeros behind them. -/
def wData : TileData := { tiles := 1, tsOffset := 0x100, dataBytes := 16, zeroBytes := 32, stagedAt := 0 }
def wCopy (ph : LoadPhase) (datas : List TileData) (bad : List Nat) : State :=
  { wTables with
    parcels := [(5, { tParcel with root := 0x600000, loader := some { wStream 0x200000 [] with phase := ph, shadow := { tImage with datas := datas } } })]
    mem := { wTables.mem with poison := bad } }
theorem wit_TaskSubmission_ends :
    ((wCopy .copying [wData] []).parcel 5).loader = some { wStream 0x200000 [] with phase := .copying, shadow := { tImage with datas := [wData] } } ∧
    wData.tsOffset + wData.dataBytes + wData.zeroBytes ≤ 0x100000 ∧ okay (cmdRead (wCopy .copying [wData] []) 5 (0x200000 + 0) 16).1 = true ∧
    ({ tImage with datas := [wData] } : Image).maskTiles 1 = [0] ∧
    (copySections (wCopy .copying [wData] [0x800000]) 5 0x200000 { tImage with datas := [wData] } [wData] []).1 = .poisoned 0x200000 ∧
    (wCopy .copying [wData] [0x800000]).cmd 3 = some (wCmd 0x12 7 3 .running []) ∧
    ((wCopy .copied [wData] []).parcel 5).loader.isSome = true ∧ ((wCopy .checked [] []).parcel 5).loader.isSome = true ∧
    indexOf? (· == quadOf 0) tImage.placement = some 0 ∧ indexOf? (· == quadOf 200) tImage.placement = none := by decide +kernel
/-- The copy leaves the data, and zeros behind it, in the tile's store. -/
theorem test_copy : (copyDone { wCopy .copying [wData] [] with mem := wTables.mem.write 0x800000 (leBytes 8 0x1122) } 5).tsRead 0 0x100 24
    = [0x22, 0x11] ++ zeros 22 := by decide +kernel

-- ## The life of a parcel, with the command that asks for each part of it

/-- A descriptor of parcel 5 over Q0, S0, group 0 and an engine of each kind. -/
def wDesc : List Byte :=
  [5, 0, 1, 0, 7, 0] ++ leBytes 2 1000 ++ leBytes 8 1 ++ leBytes 8 1 ++ leBytes 8 1 ++ leBytes 2 1 ++ leBytes 2 1 ++ leBytes 2 1 ++ zeros 2 ++ leBytes 2 1 ++ zeros 6
    ++ [1, 0] ++ zeros 2 ++ leBytes 2 0 ++ zeros 2 ++ leBytes 4 64 ++ leBytes 4 64 ++ leBytes 4 16 ++ zeros 60
def wAsked (op : Nat) (st : ParcelSt) : State :=
  { wLife { tParcel with st := st } with cmds := [{ wCmd op 7 3 .running (zeros 4 ++ [5] ++ zeros 59) with fetched := some [5] }] }
theorem wit_ParcelLife_commands :
    (createCheck State.reset wDesc = none ∧ createId State.reset wDesc = some 5 ∧ (createCheck State.reset (zeros 128)).isSome = true) ∧
    ((runningFor (wAsked 0x4A .building) 0x4A 5).isSome = true ∧ ((wAsked 0x4A .building).parcel 5).st = .building ∧ runningFor (wLife {}) 0x4A 5 = none) ∧
    ((wCmd 0x4C 7 3 .running (zeros 4 ++ [5] ++ zeros 59)).f 4 1 = 5 ∧ ((wAsked 0x4C .active).parcel 5).st = .active ∧ ((wAsked 0x4C .free).parcel 5).st ≠ .active ∧
      ((wAsked 0x4B .free).parcel 5).st ≠ .resetting) ∧
    ((runningFor (wAsked 0x4C .resetting) 0x4C 5).isSome = true ∧ ((wAsked 0x4C .resetting).parcel 5).st = .resetting ∧ runningFor (wAsked 0x4B .resetting) 0x4C 5 = none) ∧
    ((runningFor (wAsked 0x4B .quiescing) 0x4B 5).isSome = true ∧ runningFor (wAsked 0x4B .quiescing) 0x4C 5 = none ∧ ((wAsked 0x4B .quiescing).parcel 5).st = .quiescing) ∧
    (let r : Cmd := { wCmd 0x4C 7 3 .running (zeros 4 ++ [5] ++ zeros 59) with fetched := none }
     let c : Cmd := { wCmd 0x4B 8 4 .running (zeros 4 ++ [5] ++ zeros 59) with fetched := none }
     let s : State := { wLife { tParcel with st := .quiescing } with cmds := [r, c] }
     runningFor s 0x4C 5 = some r ∧ runningFor s 0x4B 5 = some c ∧ r.seq ≠ c.seq) ∧
    (let s := wLife { tParcel with vf := 3 }
     vfParcel s (2 + 1) = some 5 ∧ (s.parcel 5).st = .active ∧ (s.cmds.map (·.seq)).Nodup ∧ ((wLife { tParcel with vf := 3, st := .resetting }).parcel 5).st ≠ .active) := by
  decide +kernel
/-- A build ends: the parcel is ACTIVE, its memory clear, its command decided, with a pennant. -/
theorem test_build : let s := tStep (.parcelBuildDone 5) (wAsked 0x4A .building)
    (s.parcel 5).st = .active ∧ (s.cmd 3).map (·.phase) = some .decided := by decide +kernel
/-- A destruction ends: the parcel is FREE and its command decided. -/
theorem test_destroy : let s := tStep (.quiescingEnd 5) (wAsked 0x4B .quiescing)
    (s.parcel 5).st = .free ∧ (s.cmd 3).map (·.phase) = some .decided := by decide +kernel
theorem wit_Controls_pennants : let c := wCmd 0x12 7 3 .running []
    let W := fun (x : Win) => ({ wTwo 0x12 .running with wins := [(winIx wWin, x)] } : State)
    ((W {}).deciding = false ∧ ((W {}).win c.win).waitQ = [] ∧ ((W {}).ports.orderReads.all fun o => o.cmd != c.seq) = true) ∧
    (staleVintage (W {}) c.parcel c.vintage = false ∧ staleVintage (W {}) c.parcel 1 = true) ∧
    (let X := (W { en := true, sizeLog2 := 4 }).win c.win
     X.en = true ∧ (X.tail.toNat + 2 ^ X.sizeLog2.toNat - X.head.toNat) % 2 ^ X.sizeLog2.toNat < 2 ^ X.sizeLog2.toNat - 1) ∧
    (let X := (W { en := true, sizeLog2 := 4, tail := 15 }).win c.win
     ¬ (X.tail.toNat + 2 ^ X.sizeLog2.toNat - X.head.toNat) % 2 ^ X.sizeLog2.toNat < 2 ^ X.sizeLog2.toNat - 1) := by decide +kernel
theorem wit_MailboxesAndLocks_waiting :
    let s : State := { wMbx { full := true, waiting := [{ bytes := zeros 64, vintage := 2 }] } with parcels := [(5, { tParcel with mbxPair := 0 })] }
    (s.mchan 1).full = true ∧ (s.mchan 1).waiting = { bytes := zeros 64, vintage := 2 } :: [] ∧ (s.mchan 1).valid = true ∧ pairParcel s (1 / 2) = some 5 ∧
    2 = (s.parcel 5).vintage ∧ sendFollows s 1 = false ∧ sendFollows { s with pending := [.mbxSend (.fn 0) 1 0] } 1 = true := by decide +kernel
theorem wit_Events_msix :
    (let s : State := { State.reset with evt := { msix := [(2047, { pending := true })], msixCtl := [(0, { enable := true })] }, ports := { hpa := { linkUp := true } } }
     let M := Tab.get {} s.evt.msixCtl 0
     (Tab.get {} s.evt.msix 2047).pending = true ∧ M.enable = true ∧ M.mask = false ∧ linkUp s (fnPort s 0) = true) ∧
    (let M := Tab.get {} ({ State.reset with evt := { msixCtl := [(0, { enable := true, mask := true })] } } : State).evt.msixCtl 0
     M.mask = true) ∧ (Tab.get {} State.reset.evt.msixCtl 0 : MsixCtl).enable = false ∧
    (vfParcel State.reset (3 - 1) = none ∧ (vfParcel wVf (2 - 1)).isSome = true) ∧
    (({ wVf with evt := { srcs := [(0, { dest := 2 })] } } : State).evSrc 0).dest = 2 ∧ staleVintage wVf none 0 = false ∧
    ((0x800 : Nat) / 2 ^ 11 % 2 ^ 2 ≠ 3 ∧ vectorOk wVf 0 1 0 = true) := by decide +kernel
theorem wit_HostPorts_config : ((wPorts { linkUp := true, retry := false }).hport 0).recovery = false ∧
    ((wPorts { linkUp := true, retry := false, vfEnable := true }).hport 0).vfEnable = true ∧ vfPort State.reset 32 = 0 ∧ vfPort State.reset 33 = 1 ∧ AerError.completionTimeout ∈ ({ aerErrs := [.completionTimeout] } : HostPort).aerErrs ∧
    (let s : State := { wPorts {} with boot := { stage := 5 }, pwr := { cause := 1 } }
     (s.boot.stage ≤ 5 ∧ (s.pwr.cause = 1 ∨ s.pwr.cause = 2)) ∧ ¬ ((wPorts {}).boot.stage ≤ 5)) := by decide

-- ## Witnesses of clauses on casks, sets, health, power, boot and registers

/-- Eight samples of wear that rise by a hundredth a day from 90 %. -/
def wWorn : List WearSample := (List.range 8).map fun d => { day := d, num := 900 + 10 * d, den := 1000 }
theorem wit_Casks_more :
    ((.gt64 : LinkRate) = .gt64 ∧ (.x4 : LinkWidth) = .x4 ∧ ¬ ((.gt32 : LinkRate) = .gt64) ∧ ((wCask { st := .linking, perstLow := false }).cask 5).st = .linking) ∧
    (let C := (wCask { st := .member, samples := wWorn, day := 8, page := { avgPe := 2940, maxPe := 3000, spareBlocks := 10, readOnly := false, written := 0 } }).cask 5
     C.st.serves = true ∧ C.armed180 = true ∧ C.evEn.getLsbD 3 = true) ∧ CaskSt.linking.serves = false ∧
    (((wCask { st := .preparing }).cask 5).st = .preparing ∧ ((wCask { st := .spare }).cask 5).st = .spare ∧ ((wCask { st := .linking }).cask 5).st = .linking) ∧
    ((wRaw 0x47 []).f 4 1 = 0 ∧ (wRaw 0x47 []).f 5 1 = 0 ∧ { wRaw 0x47 [] with raw := zeros 5 ++ [1] ++ zeros 58 }.f 5 1 ≠ 0) ∧
    (memberOf (wMoving false [] none) 1 = some (0, 1) ∧ chooseTarget State.reset 100 = none ∧ chooseTarget (wCask { st := .spare, zoneCount := 100 }) 100 = some 5 ∧
      ((wSet false).p < (wSet true).gone + 1 ∧ (wSet false).gone + 1 ≤ (wSet false).p)) ∧
    (isTarget { wMoving false [] none with casks := [(7, { st := .spare })] } 7 = true) ∧
    (State.reset.boot.stage ≠ 5 ∧ State.reset.boot.stage ≠ 6 ∧ ({ State.reset with boot := { stage := 5 } } : State).boot.stage = 5) := by decide +kernel
/-- The casks of that set serve. -/
def wServe (P : ProtSet) (st : CaskSt) : State := { wStore P {} with casks := (List.range 3).map fun n => (n, { present := true, st := st, auth := true, linkUp := true }) }
def wRw (op : Nat) (l : List Byte) : Cmd := { wRaw op [] with raw := leBytes 4 op ++ leBytes 4 1 ++ l ++ zeros (56 - l.length), fetched := some [] }
theorem wit_ProtectionSets_commands :
    ((wServe (wSet false) .member).nspace 1 = some wNs ∧ wNs.set = 0 ∧ (wServe (wSet false) .member).pset 0 = some (wSet false)) ∧
    ((∃ m ∈ (wSet false).members, m.gone = false ∧ ((wServe (wSet false) .readonly).cask m.port).st = .readonly) ∧
      ¬ (∃ m ∈ (wSet true).members, m.gone = false ∧ ((wServe (wSet true) .member).cask m.port).st = .readonly) ∧ (wSet true).p < (wSet true).gone ∧
      (wSet false).gone ≤ (wSet false).p) ∧
    (setRefuses (wServe (wSet false) .readonly) 0 = some sWEAR_OUT_READONLY ∧ setRefuses (wServe (wSet true) .member) 0 = some sCASK_MISSING ∧
      setRefuses (wServe (wSet false) .member) 0 = none) ∧
    (let c := wRw 1 (leBytes 8 0 ++ leBytes 4 1)
     c.nsid = 1 ∧ c.nsid ≠ 0xFFFFFFFF ∧ nsAttached (wServe (wSet false) .member) c 5 1 = true ∧ nsAttached (wServe (wSet false) .member) c 6 1 = false ∧
       c.opcode = 1 ∧ c.f 8 8 * 4096 + c.f 0x10 4 * 4096 ≤ 128 * 4096 ∧ 128 * 4096 < (wRw 1 (leBytes 8 128 ++ leBytes 4 1)).f 8 8 * 4096 + 4096 ∧ c.f 0x14 4 = 0 ∧ c.space = false ∧
       listCheck c [] 4096 = none ∧ (listCheck c (zeros 16) 4096).isSome = true ∧
       (unitRuns 0 4096).flatMap (fun x => readsFor (wServe (wSet false) .member) { ns := 1, unit := x.1 } (.cmd 3)) ≠ [] ∧
       (unitRuns 262144 4096).flatMap (fun x => readsFor (wServe (wSet false) .member) { ns := 1, unit := x.1 } (.cmd 3)) = [] ∧
       okay (nsRead (wServe (wSet false) .member) 1 262144 4096) = true ∧ okay (nsRead (wServe (wSet true) .member) 1 0 4096) = false) ∧
    ((0 % 262144 = 0 ∧ 64 * 4096 % 262144 = 0) ∧ (wRw 2 (leBytes 8 0 ++ leBytes 4 64)).space = false) ∧
    (∀ e ∈ (wServe (wSet false) .member).sto.sets, e.2.opened = [] ∧ e.2.closing = []) := by decide +kernel
theorem wit_ProtectionSets_moves :
    (let s := { wMoving true [] none with casks := [(7, { st := .spare, auth := true }), (1, {})] }
     targetReady s { wMove true [] with serial := recSerial (s.cask 7).idrec } = true ∧ targetReady s { wMove true [] with serial := [1] } = false) ∧
    ({ wSet false with recovering := true } : ProtSet).recovering = true ∧ (wSet false).rack = none ∧
    (({ wMoving false [] none with casks := [(1, { st := .preparing, prepare := some 4 })] }).cask 1).st = .preparing := by decide +kernel
theorem wit_Health_more :
    (State.reset.pwr.down.getLsbD 0 = false ∧ ({ State.reset with pwr := { down := 1 } } : State).pwr.down.getLsbD 0 = true) ∧
    (State.reset.hlt.valid = false ∧ ({ State.reset with hlt := { valid := true } } : State).hlt.valid = true) ∧ 64 ∈ indicators (tState {}) ∧
    (({ tState {} with hlt := { inds := [(3, { value := 60001, measured := true })] } } : State).hlt.ind 3).measured = true ∧ ((tState {}).hlt.ind 3).measured = false ∧
    (({ State.reset with hlt := { ctl := 3 } } : State).hlt.ctl.getLsbD 1 = true ∧ ({ State.reset with hlt := { ctl := 0 } } : State).hlt.ctl.getLsbD 1 = false) ∧
    (((wWorn.map fun x => (x.day, x.num, x.den)).Pairwise fun x y => x.1 < y.1) ∧ ∀ x ∈ wWorn.map fun x => (x.day, x.num, x.den), x.2.2 ≠ 0) ∧
    (({ legacy := true, addr := 0x4E } : I3cTo).addr = 0x4E ∧ ({ State.reset with pkg := { i3cDyn := some 9 } } : State).pkg.i3cDyn.getD 0x4E = 9 ∧
      (9 : BitVec 7) ≠ 0x4E) := by decide +kernel
/-- Eight days at 90 % and 1 % a day more reach the end in three days after the last (R340). -/
theorem test_worn : eolEstimate (wWorn.map fun x => (x.day, x.num, x.den)) = (3, 3, 3) := by decide +kernel
theorem wit_Power_more :
    ((0 : Fin 10) = 0 ∧ (4 : Fin 10) ≠ 0) ∧ (({ State.reset with pwr := { thermtrip := true } } : State).pwr.thermtrip = true ∧ State.reset.pwr.thermtrip = false) ∧
    ((State.reset.pwr.dies[(1 : Fin 3).val]?).getD 0 < State.reset.pwr.ctl.toNat / 2 ^ 8 % 256 ∧ State.reset.pwr.ctl.toNat / 2 ^ 8 % 256 ≤ (0x69 : BitVec 8).toNat) ∧
    (stackPresent State.reset 3 = true ∧ (State.reset.stack 3).temp < State.reset.pwr.ctl.toNat / 2 ^ 16 % 256) ∧ State.reset.pwr.ctl.getLsbD 0 = true ∧
    (({ State.reset with pwr := { hot := true } } : State).pwr.hot = true ∧ ∀ d ∈ State.reset.pwr.dies, d + 3 ≤ State.reset.pwr.ctl.toNat / 2 ^ 8 % 256) := by decide +kernel
theorem wit_Resets_more : (let s : State := { State.reset with boot := { stage := 5 } }
      (s.boot.stage = 6 ∨ (s.boot.stage = 5 ∧ (7 : Nat) = 7)) ∧ ¬ (s.boot.stage = 6 ∨ (s.boot.stage = 5 ∧ (3 : Nat) = 7))) ∧
    (let v := State.reset.glb.part.service
     v.1 * sliceBytes ≤ v.1 * sliceBytes ∧ v.1 * sliceBytes < (v.1 + v.2) * sliceBytes) := by decide +kernel
theorem wit_Boot_more :
    (let s := { wBoot false 0 wDir with boot := { (wBoot false 0 wDir).boot with flash := { dir0 := [], dir1 := wDir } } }
     s.boot.bootSrc = false ∧ dirOk s.boot.flash.dir0 = false ∧ dirOk s.boot.flash.dir1 = true ∧ slotReason s wDir false ≠ 0) ∧
    (let s : State := { wBoot false 5 [] with casks := [(2, { st := .linking })] }
     (s.cask (2 : CaskId)).st = .linking ∧ (849999 : BitVec 32).toNat < 850000 ∧ 850000 ≤ (850000 : BitVec 32).toNat ∧ s.boot.srcRec = false) ∧
    (∀ n : CaskId, ((wBoot false 5 []).cask n).st ≠ .linking ∧ ((wBoot false 5 []).cask n).st ≠ .identifying) ∧
    (({ State.reset with pwr := { down := 2 } } : State).pwr.down.getLsbD 1 = true ∧ State.reset.pwr.down.getLsbD 1 = false ∧ State.reset.pkg.drive = .functional) ∧
    (imageReason (wBoot false 7 []) [] 0 false ≠ 0 ∧ ((1 : Nat) % 2 = 1 ∧ (2 : Nat) % 2 = 0)) := by decide +kernel
theorem wit_Registers_codes :
    (locate State.reset (.firmware 0) 0x48 = (.glb 0x48, .firmware) ∧ locate State.reset (.fn 0) 0x48 = (.glb 0x48, .write) ∧ State.reset.boot.stage < 6) ∧
    (∃ off, off % 8 = 0 ∧ off < 2 ^ 29 ∧ locate State.reset (.fn 0) off = (.hlt 0, .write)) ∧ (∃ off, off % 8 = 0 ∧ off < 2 ^ 29 ∧ locate State.reset (.fn 0) off = (.mbxBlock 0x4400, .write)) ∧
    (∃ off, off % 8 = 0 ∧ off < 2 ^ 29 ∧ locate State.reset (.fn 0) off = (.dspP 5 0x20, .write)) :=
  ⟨by decide +kernel, ⟨0x30000, by decide +kernel⟩, ⟨0x54400, by decide +kernel⟩, ⟨0x81160, by decide +kernel⟩⟩
theorem wit_EngineJobs_scratch : wSortJob.kept = [] ∧ ∀ s x, scratchPoison s wTable wSortJob x = none := by
  have h : (sortPlan wTable wSortJob).passes = 0 := by decide +kernel
  exact ⟨rfl, fun s x => by simp [scratchPoison, h]⟩
/-- A burst from host memory whose reads port HPA has lost. -/
def wLost : State :=
  { wMoves with groups := [(0, {
      chans := [(0, { busy := true, xsrc := 0x200000, xdst := 0x200100, xcnt := 64, remaining := 64, xctl := 0x60, burst := some { wBurst with lost := [0] } })]
      tlb := { entries := [(0, { wEntry with base := 0x8000000000000 })] } })] }
theorem wit_MoverBursts_lost : (sideRuns (wLost.chan 0 0).xsrc true 0 65 0 64).head? = some (0x200000, 64) ∧ fbit (wLost.chan 0 0).xctl 36 = false ∧
    fbit (wLost.chan 0 0).xctl 5 = true ∧ (wLost.chan 0 0).xctl.toNat / 2 ^ 7 % 2 ^ 5 = 0 ∧ place 0x8000000000000 = .host 0 0 ∧
    ∃ x s1, translate wLost (.group 0) 0x200000 .load = (.ok x, s1) ∧ x.dpa = 0x8000000000000 := by
  refine ⟨by decide +kernel, by decide, by decide, by decide, by decide, _, _, by rfl, by decide +kernel⟩

end Sys2Proof.Tests
end

/-! PROOFS. Vector instructions of chapter 05 that leave a vector register: how one retires, and the per-element CRC (R121, Table 6). -/

namespace Sys2Proof.Machine

-- ## Retiring with vector registers written

/-- VSTART at or above VL is no special case for an effect that is then empty. -/
theorem fromStart_of_skip {f : Tile → Tile} {T : Tile} (h : T.vl ≤ T.vstart.toNat → f T = T) : fromStart f T = f T := by
  unfold fromStart
  split
  next hskip => exact (h hskip).symm
  next => rfl

/-- What a change of a tile leaves depends on what it gives that tile alone. -/
theorem State.updTile_congr {s : State} {t : Nat} {f g : Tile → Tile} (h : f (s.tile t) = g (s.tile t)) : s.updTile t f = s.updTile t g := by
  unfold State.updTile Tab.upd
  unfold State.tile at h
  rw [h]

/-- Retiring an effect on vector registers writes them, VSTART and the program counter, and nothing else. -/
theorem retireV_of_vRegs {s : State} {t : Nat} {f : Tile → Tile} {m : List (Nat × BitVec 4096)} (h : f (s.tile t) = { s.tile t with vRegs := m }) :
    retireV s t f = s.updTile t fun T => { T with vRegs := m, vstart := 0, pc := T.pc + 4, unparked := false } := by
  rw [retireV_eq]
  refine State.updTile_congr ?_
  rw [h]

/-- Retiring keeps the elements that the effect left. -/
theorem retireV_elem (s : State) (t : Nat) (f : Tile → Tile) (k j : Nat) : ((retireV s t f).tile t).elem k j = (f (s.tile t)).elem k j := by
  rw [retireV_eq, State.updTile_tile]
  rfl

/-- A legal vector instruction whose effect is on vector registers retires, keeps the elements of the effect, and changes nothing else. -/
theorem vecOp_vRegs {s : State} {t : TileId} (h : TileRuns s t) {legal : Tile → Bool} (hl : legal (s.tile t) = true) {f : Tile → Tile}
    (hskip : (s.tile t).vl ≤ (s.tile t).vstart.toNat → f (s.tile t) = s.tile t) (hrest : ∃ m, f (s.tile t) = { s.tile t with vRegs := m }) :
    ∃ s' m, vecOp s t legal f = .next s' ∧
      s' = s.updTile t (fun T => { T with vRegs := m, vstart := 0, pc := T.pc + 4, unparked := false }) ∧
      ∀ k j, (s'.tile t).elem k j = (f (s.tile t)).elem k j := by
  have hstart := fromStart_of_skip hskip
  obtain ⟨m, hm⟩ := hrest
  refine ⟨_, m, vecOp_legal h hl f, retireV_of_vRegs (hstart.trans hm), fun k j => ?_⟩
  rw [retireV_elem, hstart]

/-- A legal vector instruction whose effect is a write of v[rd] has that write as its result. -/
theorem vectorResult_vecOp {s : State} {t : TileId} (h : TileRuns s t) {legal : Tile → Bool} (hl : legal (s.tile t) = true) {f : Tile → Tile}
    {rd : Nat} {val : Nat → Option Nat} (hskip : (s.tile t).vl ≤ (s.tile t).vstart.toNat → f (s.tile t) = s.tile t)
    (hrest : ∃ m, f (s.tile t) = { s.tile t with vRegs := m })
    (helem : ∀ k j, j < (s.tile t).vlmax →
      (f (s.tile t)).elem k j = if k = rd then (val j).getD ((s.tile t).elem k j) else (s.tile t).elem k j) :
    VectorResult (vecOp s t legal f) s t rd val := by
  obtain ⟨s', m, hnext, hregs, hs'⟩ := vecOp_vRegs h hl hskip hrest
  exact ⟨s', hnext, ⟨m, hregs⟩, fun k j hj => (hs' k j).trans (helem k j hj)⟩

-- ## Elementwise forms

theorem isActive_iff_mem {T : Tile} {p j : Nat} : isActive T p j = true ↔ j ∈ T.active p := by
  simp [isActive, Tile.mem_active, and_assoc]

/-- No element is active with VSTART at or above VL (R110). -/
theorem Tile.active_eq_nil {T : Tile} {p : Nat} (h : T.vl ≤ T.vstart.toNat) : T.active p = [] :=
  List.eq_nil_iff_forall_not_mem.2 fun i hi => by
    obtain ⟨hvl, hvs, -⟩ := Tile.mem_active.1 hi
    omega

/-- A legal elementwise instruction gives each active element its result and leaves every other element (R109). -/
theorem vectorResult_mapActive {s : State} {t : TileId} (h : TileRuns s t) {legal : Tile → Bool} (hl : legal (s.tile t) = true)
    {rd pred : Nat} (f : Tile → Nat → Nat) :
    VectorResult (vecOp s t legal fun T => mapActive T rd pred (f T)) s t rd fun j =>
      if isActive (s.tile t) pred j then some (f (s.tile t) j % 2 ^ (s.tile t).ew) else none := by
  refine vectorResult_vecOp h hl (fun hskip => ?_) (mapActive_rest ..) fun k j hj => ?_
  · simp only [mapActive, Tile.active_eq_nil hskip, List.foldl_nil]
  · rw [mapActive_elem _ _ _ _ _ _ hj]
    by_cases hk : k = rd <;> by_cases ha : j ∈ (s.tile t).active pred <;> simp [hk, ha, isActive_iff_mem]

-- ## The CRC of an element

theorem crcBit_lt {w poly c : Nat} (hp : poly < 2 ^ w) (hc : c < 2 ^ w) : crcBit poly c < 2 ^ w := by
  have hhalf : c / 2 < 2 ^ w := Nat.lt_of_le_of_lt (Nat.div_le_self c 2) hc
  unfold crcBit
  split
  · exact Nat.xor_lt_two_pow hhalf hp
  · exact hhalf

theorem crcByte_lt {w poly c b : Nat} (hp : poly < 2 ^ w) (hc : c < 2 ^ w) (hb : b < 2 ^ w) : crcByte poly c b < 2 ^ w := by
  have step {c : Nat} (h : c < 2 ^ w) := crcBit_lt hp h
  exact step (step (step (step (step (step (step (step (Nat.xor_lt_two_pow hc hb))))))))

/-- CRC32C is a 32-bit value (R121). -/
theorem crc32c_lt (c : Nat) (bs : List Byte) : crc32c c bs < 2 ^ 32 := by
  unfold crc32c crcOver
  refine List.foldlRecOn (motive := (· < 2 ^ 32)) bs _ (Nat.mod_lt _ (by decide)) fun c hc b _ => ?_
  exact crcByte_lt (by decide) hc (Nat.lt_trans b.isLt (by decide))

/-- An element of 32 or 64 bits holds a CRC32C whole. -/
theorem crc32c_mod_width {w : Nat} (hw : 32 ≤ w) (c : Nat) (bs : List Byte) : crc32c c bs % 2 ^ w = crc32c c bs :=
  Nat.mod_eq_of_lt (Nat.lt_of_lt_of_le (crc32c_lt c bs) (Nat.pow_le_pow_right (by decide) hw))

/-- VCRC32C.E is an elementwise form that needs a floating-point width (Table 6). -/
theorem exec_vcrc32cE (s : State) (t : TileId) (rd rs1 rs2 : Reg) (pred : PReg) :
    exec (.vcrc32cE t rd rs1 rs2 pred) s = vecOp s t fpWidth fun T => mapActive T rd.toNat pred.toNat fun i =>
      crc32c (T.sGet rs2.toNat).toNat (leBytes (T.ew / 8) (T.elem rs1.toNat i)) := rfl

/-- VCRC32C.E at a width of 32 or 64 gives each active element its CRC (Table 6). -/
theorem vectorResult_vcrc32cE {s : State} {t : TileId} (h : TileRuns s t) (hw : 32 ≤ (s.tile t).ew) (rd rs1 rs2 : Reg) (pred : PReg) :
    VectorResult (exec (.vcrc32cE t rd rs1 rs2 pred) s) s t rd.toNat fun j =>
      if isActive (s.tile t) pred.toNat j
      then some (crc32c ((s.tile t).sGet rs2.toNat).toNat (leBytes ((s.tile t).ew / 8) ((s.tile t).elem rs1.toNat j))) else none := by
  have hres := vectorResult_mapActive h (legal := fpWidth) (decide_eq_true hw) (rd := rd.toNat) (pred := pred.toNat)
    fun T i => crc32c (T.sGet rs2.toNat).toNat (leBytes (T.ew / 8) (T.elem rs1.toNat i))
  simpa only [exec_vcrc32cE, crc32c_mod_width hw] using hres

end Sys2Proof.Machine

/-! PROOFS. Segmented scans (R120): the running value, the segments, and the element that each index takes. -/

namespace Sys2Proof.Machine

-- ## Integer values

theorem ival_mod (signed : Bool) (w n : Nat) : ival signed w (n % 2 ^ w) = ival signed w n := by
  simp [ival, toSigned]

/-- An element's signed or unsigned value has the element's bits. -/
theorem ival_emod (signed : Bool) (w n : Nat) : ival signed w n % 2 ^ w = (n % 2 ^ w : Nat) := by
  cases signed
  case false => simp [ival]
  case true =>
    simp only [ival, toSigned, if_true]
    split <;> simp

/-- The minimum and the maximum by signedness are those of the values. -/
theorem ival_minMax (mx signed : Bool) (w a b : Nat) :
    ival signed w (minMax mx signed w a b)
      = if mx then max (ival signed w a) (ival signed w b) else min (ival signed w a) (ival signed w b) := by
  unfold minMax
  rw [apply_ite (ival signed w), ival_mod, ival_mod]
  cases mx
  case false => simp only [decide_eq_false_iff_not, Int.not_lt, Bool.false_eq_true, if_false]; split <;> omega
  case true => simp only [decide_eq_true_eq, if_true]; split <;> omega

-- ## The running value

/-- The running value of a scan after some elements: none before the first. -/
def scanValue (op : VScanOp) (signed : Bool) (w : Nat) : List Nat → Option Nat
  | [] => none
  | x :: l => some (l.foldl (vscanCombine op signed w) x)

/-- One element more is combined with the running value, or begins it. -/
theorem scanValue_concat (op : VScanOp) (signed : Bool) (w : Nat) (l : List Nat) (x : Nat) :
    scanValue op signed w (l ++ [x])
      = some ((scanValue op signed w l).elim x fun a => vscanCombine op signed w a x) := by
  cases l with
  | nil => rfl
  | cons y l => simp [scanValue]

/-- A running sum modulo 2^w is the sum modulo 2^w. -/
theorem foldl_add_mod (w : Nat) (l : List Nat) {a b : Nat} (h : a % 2 ^ w = b % 2 ^ w) :
    l.foldl (fun m y => (m + y) % 2 ^ w) a % 2 ^ w = l.foldl (· + ·) b % 2 ^ w := by
  induction l generalizing a b with
  | nil => exact h
  | cons y l ih =>
    have hnext : (a + y) % 2 ^ w % 2 ^ w = (b + y) % 2 ^ w := by rw [Nat.mod_mod, Nat.add_mod, h, ← Nat.add_mod]
    exact ih hnext

/-- A running minimum or maximum has the value of the minimum or maximum of the values. -/
theorem ival_foldl_minMax (mx signed : Bool) (w : Nat) (l : List Nat) (a : Nat) :
    ival signed w (l.foldl (minMax mx signed w) a)
      = l.foldl (fun m y => if mx then max m (ival signed w y) else min m (ival signed w y)) (ival signed w a) := by
  induction l generalizing a with
  | nil => rfl
  | cons y l ih => rw [List.foldl_cons, List.foldl_cons, ih, ival_minMax]

/-- The running value is the scan of the elements, modulo 2^w (R120). -/
theorem vscanSpec_emod (op : VScanOp) (signed : Bool) (w : Nat) (l : List Nat) :
    (vscanSpec op signed w l % 2 ^ w).toNat = (scanValue op signed w l).getD 0 % 2 ^ w := by
  cases l with
  | nil => simp [vscanSpec, scanValue]
  | cons x l =>
    have hval (mx : Bool) := congrArg (· % (2 : Int) ^ w) (ival_foldl_minMax mx signed w l x)
    simp only [ival_emod] at hval
    cases op
    case add =>
      change ((l.foldl (· + ·) x : Nat) % (2 : Int) ^ w).toNat = l.foldl (fun m y => (m + y) % 2 ^ w) x % 2 ^ w
      rw [foldl_add_mod w l rfl]
      norm_cast
    case min =>
      change _ = l.foldl (minMax false signed w) x % 2 ^ w
      exact (congrArg Int.toNat (hval false)).symm
    case max =>
      change _ = l.foldl (minMax true signed w) x % 2 ^ w
      exact (congrArg Int.toNat (hval true)).symm
    case or =>
      change ((l.foldl (· ||| ·) x : Nat) % (2 : Int) ^ w).toNat = l.foldl (· ||| ·) x % 2 ^ w
      norm_cast

-- ## Segments

/-- A selected element begins a segment; another one is in the segment of the element before it. -/
theorem segStart_succ (T : Tile) (seg j : Nat) : segStart T seg (j + 1) = if T.sel seg (j + 1) then j + 1 else segStart T seg j := by
  unfold segStart
  rw [List.range_succ, List.filter_append]
  cases h : T.sel seg (j + 1) <;> simp [h]

theorem segStart_le (T : Tile) (seg j : Nat) : segStart T seg j ≤ j := by
  induction j with
  | zero => cases h : T.sel seg 0 <;> simp [segStart, h]
  | succ j ih => rw [segStart_succ]; split <;> omega

/-- The elements that scan `j` combines: the selected ones from the start of its segment to `j`. -/
def segElems (T : Tile) (seg pred j : Nat) : List Nat := (List.range (j + 1)).filter fun i => decide (segStart T seg j ≤ i) && T.sel pred i

/-- The elements that are combined when the loop has come to element `n`: those of the segment of the element before it. -/
def segBefore (T : Tile) (seg pred : Nat) : Nat → List Nat
  | 0 => []
  | n + 1 => segElems T seg pred n

/-- Element `n` joins the elements of its segment before it, if it is selected. -/
theorem segElems_eq (T : Tile) (seg pred n : Nat) :
    segElems T seg pred n = (if T.sel seg n then [] else segBefore T seg pred n) ++ if T.sel pred n then [n] else [] := by
  have hself : [n].filter (fun i => decide (segStart T seg n ≤ i) && T.sel pred i) = if T.sel pred n then [n] else [] := by
    simp [List.filter_cons, segStart_le]
  unfold segElems
  rw [List.range_succ, List.filter_append, hself]
  congr 1
  cases n with
  | zero => simp [segBefore]
  | succ n =>
    rw [segStart_succ]
    cases hs : T.sel seg (n + 1)
    case false => rfl
    case true =>
      simp only [if_true, List.filter_eq_nil_iff, List.mem_range, Bool.and_eq_true, decide_eq_true_eq]
      omega

-- ## The loop

/-- The running value with which the loop comes to element `n`. -/
def scanAcc (T : Tile) (op : VScanOp) (rs1 seg pred n : Nat) : Option Nat :=
  scanValue op T.signed T.ew ((segBefore T seg pred n).map (T.elem rs1))

/-- One turn of the loop: a selected element takes the running value that it leaves. -/
theorem scanLoop_cons (T : Tile) (op : VScanOp) (rd rs1 seg pred n : Nat) (rest : List Nat) (T' : Tile) :
    scanLoop T op rd rs1 seg pred (n :: rest) (scanAcc T op rs1 seg pred n) T'
      = scanLoop T op rd rs1 seg pred rest (scanAcc T op rs1 seg pred (n + 1))
          (if T.sel pred n then T'.setV rd n ((scanAcc T op rs1 seg pred (n + 1)).getD 0) else T') := by
  have hacc : (if T.sel seg n then none else scanAcc T op rs1 seg pred n)
      = scanValue op T.signed T.ew ((if T.sel seg n then [] else segBefore T seg pred n).map (T.elem rs1)) := by
    split <;> rfl
  have hnext : scanAcc T op rs1 seg pred (n + 1) = scanValue op T.signed T.ew ((segElems T seg pred n).map (T.elem rs1)) := rfl
  rw [segElems_eq] at hnext
  rw [scanLoop, hacc, hnext]
  cases T.sel pred n
  case false => simp
  case true =>
    simp only [if_true, List.map_append, List.map_cons, List.map_nil, scanValue_concat, Option.getD_some]
    cases scanValue op T.signed T.ew ((if T.sel seg n then [] else segBefore T seg pred n).map (T.elem rs1)) <;> rfl

/-- What the loop over elements `n` to `n + m - 1` leaves in each element. -/
theorem scanLoop_elem (T : Tile) (op : VScanOp) (rd rs1 seg pred m n : Nat) (T' : Tile) (hew : T'.ew = T.ew) (k j : Nat) (hj : j < T'.vlmax) :
    (scanLoop T op rd rs1 seg pred (List.range' n m) (scanAcc T op rs1 seg pred n) T').elem k j
      = if k = rd ∧ n ≤ j ∧ j < n + m ∧ T.sel pred j then (scanAcc T op rs1 seg pred (j + 1)).getD 0 % 2 ^ T.ew else T'.elem k j := by
  induction m generalizing n T' with
  | zero =>
    have hnone : ¬ (k = rd ∧ n ≤ j ∧ j < n + 0 ∧ T.sel pred j) := by omega
    rw [if_neg hnone]
    rfl
  | succ m ih =>
    rw [List.range'_succ, scanLoop_cons]
    cases hsel : T.sel pred n
    case false =>
      have hiff : (n + 1 ≤ j ∧ j < n + 1 + m ∧ T.sel pred j) ↔ (n ≤ j ∧ j < n + (m + 1) ∧ T.sel pred j) := by
        have hne : T.sel pred j = true → j ≠ n := by rintro h rfl; simp [hsel] at h
        constructor <;> rintro ⟨h1, h2, h3⟩ <;> refine ⟨?_, by omega, h3⟩ <;> have := hne h3 <;> omega
      rw [if_neg Bool.false_ne_true, ih (n + 1) T' hew hj]
      exact ite_congr (propext (and_congr_right fun _ => hiff)) (fun _ => rfl) fun _ => rfl
    case true =>
      rw [if_pos rfl, ih (n + 1) _ (by simpa using hew) (by simpa using hj), Tile.elem_setV _ _ _ _ _ _ hj, hew]
      by_cases hjn : j = n
      · subst hjn
        have hnot : ¬ j + 1 ≤ j := by omega
        have hlt : j < j + (m + 1) := by omega
        by_cases hk : k = rd
        · rw [if_neg fun h => hnot h.2.1, if_pos ⟨hk, rfl⟩, if_pos ⟨hk, Nat.le_refl j, hlt, hsel⟩]
        · rw [if_neg fun h => hk h.1, if_neg fun h => hk h.1, if_neg fun h => hk h.1]
      · have hle : n + 1 ≤ j ↔ n ≤ j := by omega
        have hlt : j < n + 1 + m ↔ j < n + (m + 1) := by omega
        simp [hjn, hle, hlt]

/-- A scan changes nothing of the tile but vector registers. -/
theorem scanLoop_rest (T : Tile) (op : VScanOp) (rd rs1 seg pred : Nat) (l : List Nat) (acc : Option Nat) (T' : Tile) :
    ∃ m, scanLoop T op rd rs1 seg pred l acc T' = { T' with vRegs := m } := by
  induction l generalizing acc T' with
  | nil => exact ⟨T'.vRegs, rfl⟩
  | cons i l ih =>
    rw [scanLoop]
    split
    · exact ih _ (T'.setV rd i _)
    · exact ih _ T'

/-- A scan of the elements below VL leaves in each selected one the scan of its segment up to it (R120). -/
theorem scanLoop_range_elem (T : Tile) (op : VScanOp) (rd rs1 seg pred k j : Nat) (hj : j < T.vlmax) :
    (scanLoop T op rd rs1 seg pred (List.range T.vl) none T).elem k j
      = if k = rd ∧ j < T.vl ∧ T.sel pred j
        then (vscanSpec op T.signed T.ew ((segElems T seg pred j).map (T.elem rs1)) % 2 ^ T.ew).toNat else T.elem k j := by
  have hloop := scanLoop_elem T op rd rs1 seg pred T.vl 0 T rfl k j hj
  rw [← List.range_eq_range'] at hloop
  rw [vscanSpec_emod]
  simp only [Nat.zero_le, true_and, Nat.zero_add] at hloop
  exact hloop

-- ## The instruction

/-- A scan loops over the elements below VL, and needs VSTART 0. -/
theorem exec_vscan (s : State) (t : TileId) (op : VScanOp) (rd rs1 : Reg) (seg pred : PReg) :
    exec (.vscan t op rd rs1 seg pred) s
      = vecOp s t startZero fun T => scanLoop T op rd.toNat rs1.toNat seg.toNat pred.toNat (List.range T.vl) none T := rfl

theorem isActive_of_vstart_zero {T : Tile} (h : T.vstart = 0) (p j : Nat) : isActive T p j = (decide (j < T.vl) && T.sel p j) := by
  simp [isActive, h]

/-- With VSTART 0, the active elements of a segment up to an element below VL are the selected ones. -/
theorem segElems_eq_active {T : Tile} (h : T.vstart = 0) (seg pred : Nat) {j : Nat} (hj : j < T.vl) :
    segElems T seg pred j = (List.range (j + 1)).filter fun i => decide (segStart T seg j ≤ i) && isActive T pred i := by
  refine List.filter_congr fun i hi => ?_
  have hlt : i < T.vl := Nat.lt_of_le_of_lt (Nat.lt_succ_iff.1 (List.mem_range.1 hi)) hj
  simp [isActive_of_vstart_zero h, hlt]

/-- With VSTART 0, a scan gives each active element the scan of the active elements of its segment up to it (R120). -/
theorem vectorResult_vscan {s : State} {t : TileId} (h : TileRuns s t) (h0 : (s.tile t).vstart = 0) (op : VScanOp) (rd rs1 : Reg)
    (seg pred : PReg) :
    VectorResult (exec (.vscan t op rd rs1 seg pred) s) s t rd.toNat fun j =>
      if isActive (s.tile t) pred.toNat j then
        some (vscanSpec op (s.tile t).signed (s.tile t).ew (((List.range (j + 1)).filter fun i =>
          decide (segStart (s.tile t) seg.toNat j ≤ i) && isActive (s.tile t) pred.toNat i).map ((s.tile t).elem rs1.toNat))
            % 2 ^ (s.tile t).ew).toNat
      else none := by
  rw [exec_vscan]
  refine vectorResult_vecOp h (by simp [startZero, h0]) (fun hskip => ?_) (scanLoop_rest ..) fun k j hj => ?_
  · have hvl : (s.tile t).vl = 0 := by simpa [h0] using hskip
    rw [hvl]
    rfl
  · rw [scanLoop_range_elem _ _ _ _ _ _ _ _ hj]
    by_cases hvl : j < (s.tile t).vl
    · rw [segElems_eq_active h0 _ _ hvl, isActive_of_vstart_zero h0 pred.toNat j]
      by_cases hk : k = rd.toNat <;> cases (s.tile t).sel pred.toNat j <;> simp [hk, hvl]
    · simp [isActive_of_vstart_zero h0 pred.toNat j, hvl]

/-- Settles O18: a scan by its loop over the segments (R120), VCRC32C.E as an elementwise form (R121). -/
theorem scansAndElementCrc : Obligations.ScansAndElementCrc := by
  unfold Obligations.ScansAndElementCrc
  intro s t h rd rs1 rs2 seg pred
  exact ⟨fun h0 op => vectorResult_vscan h h0 op rd rs1 seg pred, fun hw => vectorResult_vcrc32cE h hw rd rs1 rs2 pred⟩

end Sys2Proof.Machine

/-! PROOFS. The exchange step of VSORT (R130): the pairs, the order in which a pair is put, and the element that each index takes. -/

namespace Sys2Proof.Machine

-- ## The pairs

/-- The lower index of the pair of elements 2^k apart that holds element `j`. -/
def pairLow (k j : Nat) : Nat := if bitOf j k then j - 2 ^ k else j

/-- The other index of that pair. -/
def pairOther (k j : Nat) : Nat := if bitOf j k then j - 2 ^ k else j + 2 ^ k

theorem bitOf_eq_true {n k : Nat} : bitOf n k = true ↔ n / 2 ^ k % 2 = 1 := by simp [bitOf]

theorem bitOf_eq_false {n k : Nat} : bitOf n k = false ↔ n / 2 ^ k % 2 = 0 := by
  simp [bitOf]

/-- Adding 2^k changes bit `k`. -/
theorem bitOf_add_two_pow (n k : Nat) : bitOf (n + 2 ^ k) k = !bitOf n k := by
  have hdiv : (n + 2 ^ k) / 2 ^ k = n / 2 ^ k + 1 := Nat.add_div_right n (Nat.two_pow_pos k)
  cases h : bitOf n k
  case false => simp only [bitOf_eq_false, Bool.not_false, bitOf_eq_true, hdiv] at *; omega
  case true => simp only [bitOf_eq_true, Bool.not_true, bitOf_eq_false, hdiv] at *; omega

/-- A number with bit `k` set is not below 2^k. -/
theorem two_pow_le_of_bitOf {n k : Nat} (h : bitOf n k = true) : 2 ^ k ≤ n := by
  refine Nat.le_of_not_lt fun hlt => ?_
  rw [bitOf_eq_true, Nat.div_eq_of_lt hlt] at h
  omega

/-- A number from 2^k on has bit `k` other than the number 2^k below it. -/
theorem bitOf_sub_two_pow {n k : Nat} (h : 2 ^ k ≤ n) : bitOf (n - 2 ^ k) k = !bitOf n k := by
  have hadd := bitOf_add_two_pow (n - 2 ^ k) k
  rw [Nat.sub_add_cancel h] at hadd
  rw [hadd, Bool.not_not]

/-- Element `j` is one of a pair exactly where the pair's lower index is that of `j`. -/
theorem pairLow_eq_iff {i k : Nat} (hi : bitOf i k = false) (j : Nat) : pairLow k j = i ↔ j = i ∨ j = i + 2 ^ k := by
  have hhigh := bitOf_add_two_pow i k
  unfold pairLow
  cases hj : bitOf j k
  case false =>
    have hne : j ≠ i + 2 ^ k := by rintro rfl; simp [hi, hj] at hhigh
    simp [hne]
  case true =>
    have hle := two_pow_le_of_bitOf hj
    have hne : j ≠ i := by rintro rfl; simp [hi] at hj
    simp only [if_true, hne, false_or]
    omega

theorem pairOther_low {i k : Nat} (hi : bitOf i k = false) : pairOther k i = i + 2 ^ k := by simp [pairOther, hi]

theorem pairOther_high {i k : Nat} (hi : bitOf i k = false) : pairOther k (i + 2 ^ k) = i := by simp [pairOther, bitOf_add_two_pow, hi]

-- ## One exchange

/-- Exchange elements `i` and `i + 2^k` of v[rd] and of v[rs1], as they stand in `T`. -/
def exchange (T : Tile) (rd rs1 k : Nat) (T' : Tile) (i : Nat) : Tile :=
  (((T'.setV rd i (T.elem rd (i + 2 ^ k))).setV rd (i + 2 ^ k) (T.elem rd i)).setV rs1 i (T.elem rs1 (i + 2 ^ k))).setV
    rs1 (i + 2 ^ k) (T.elem rs1 i)

theorem Tile.elem_mod (T : Tile) (r i : Nat) : T.elem r i % 2 ^ T.ew = T.elem r i := Nat.mod_eq_of_lt (elemOf_lt ..)

/-- An exchange gives each element of its pair the other one, in both registers. -/
theorem exchange_elem {T T' : Tile} {i k : Nat} (hi : bitOf i k = false) (hew : T'.ew = T.ew) (rd rs1 r j : Nat) (hj : j < T'.vlmax) :
    (exchange T rd rs1 k T' i).elem r j
      = if (r = rd ∨ r = rs1) ∧ pairLow k j = i then T.elem r (pairOther k j) else T'.elem r j := by
  have hpair := pairLow_eq_iff hi j
  unfold exchange
  rw [Tile.elem_setV _ _ _ _ _ _ (by simpa using hj), Tile.elem_setV _ _ _ _ _ _ (by simpa using hj),
    Tile.elem_setV _ _ _ _ _ _ (by simpa using hj), Tile.elem_setV _ _ _ _ _ _ hj]
  simp only [Tile.setV_ew, hew, Tile.elem_mod, hpair]
  by_cases hlow : j = i
  · subst hlow
    rw [pairOther_low hi]
    by_cases hrs : r = rs1 <;> by_cases hrd : r = rd <;> simp_all
  · by_cases hhigh : j = i + 2 ^ k
    · subst hhigh
      rw [pairOther_high hi]
      by_cases hrs : r = rs1 <;> by_cases hrd : r = rd <;> simp_all
    · simp [hlow, hhigh]

-- ## All exchanges

/-- The exchanges of a list of pairs, given by their lower indices, of which `swap` says which are made. -/
def exchanges (T : Tile) (rd rs1 k : Nat) (swap : Nat → Bool) (l : List Nat) (T' : Tile) : Tile :=
  l.foldl (fun T' i => if swap i then exchange T rd rs1 k T' i else T') T'

/-- What exchanges leave in each element: the other one of its pair, where the pair is exchanged. -/
theorem exchanges_elem (T : Tile) (rd rs1 : Nat) {k : Nat} (swap : Nat → Bool) {l : List Nat} (hl : ∀ i ∈ l, bitOf i k = false) (T' : Tile)
    (hew : T'.ew = T.ew) (r j : Nat) (hj : j < T'.vlmax) :
    (exchanges T rd rs1 k swap l T').elem r j
      = if (r = rd ∨ r = rs1) ∧ pairLow k j ∈ l ∧ swap (pairLow k j) then T.elem r (pairOther k j) else T'.elem r j := by
  induction l generalizing T' with
  | nil => simp [exchanges]
  | cons i l ih =>
    have hi := hl i List.mem_cons_self
    have ih := ih fun i hi => hl i (List.mem_cons_of_mem _ hi)
    rw [exchanges, List.foldl_cons, ← exchanges]
    cases hs : swap i
    case false =>
      have hiff : pairLow k j ∈ i :: l ∧ swap (pairLow k j) ↔ pairLow k j ∈ l ∧ swap (pairLow k j) := by
        rw [List.mem_cons]
        constructor
        · rintro ⟨rfl | hm, h⟩
          · simp [hs] at h
          · exact ⟨hm, h⟩
        · exact fun ⟨hm, h⟩ => ⟨.inr hm, h⟩
      rw [if_neg Bool.false_ne_true, ih T' hew hj]
      exact ite_congr (propext (and_congr_right fun _ => hiff.symm)) (fun _ => rfl) fun _ => rfl
    case true =>
      rw [if_pos rfl, ih (exchange T rd rs1 k T' i) hew hj, exchange_elem hi hew _ _ _ _ hj]
      by_cases hji : pairLow k j = i
      · by_cases hr : r = rd ∨ r = rs1 <;> simp [hr, hji, hs]
      · simp [hji]

/-- Exchanges change nothing of the tile but vector registers. -/
theorem exchanges_rest (T : Tile) (rd rs1 k : Nat) (swap : Nat → Bool) (l : List Nat) (T' : Tile) :
    ∃ m, exchanges T rd rs1 k swap l T' = { T' with vRegs := m } := by
  induction l generalizing T' with
  | nil => exact ⟨T'.vRegs, rfl⟩
  | cons i l ih =>
    rw [exchanges, List.foldl_cons, ← exchanges]
    split
    · exact ih (exchange T rd rs1 k T' i)
    · exact ih T'

-- ## The instruction

/-- Whether the pair from element `i` stands out of the order that bit `m` of `i` gives. -/
def outOfOrder (T : Tile) (rd k : Nat) (m : BitVec 4) (i : Nat) : Bool :=
  let x := ival T.signed T.ew (T.elem rd i)
  let y := ival T.signed T.ew (T.elem rd (i + 2 ^ k))
  if m == 0xF || !bitOf i m.toNat then decide (y < x) else decide (x < y)

theorem outOfOrder_iff {T : Tile} {rd k : Nat} {m : BitVec 4} {i : Nat} :
    outOfOrder T rd k m i = true ↔
      if m = 0xF ∨ bitOf i m.toNat = false then ival T.signed T.ew (T.elem rd (i + 2 ^ k)) < ival T.signed T.ew (T.elem rd i)
      else ival T.signed T.ew (T.elem rd i) < ival T.signed T.ew (T.elem rd (i + 2 ^ k)) := by
  simp only [outOfOrder, Bool.or_eq_true, beq_iff_eq, Bool.not_eq_true']
  split <;> exact decide_eq_true_iff

/-- The lower indices of the pairs below VL. -/
def pairLows (vl k : Nat) : List Nat := (List.range vl).filter fun i => !bitOf i k && decide (i + 2 ^ k < vl)

theorem mem_pairLows {vl k i : Nat} : i ∈ pairLows vl k ↔ bitOf i k = false ∧ i + 2 ^ k < vl := by
  simp only [pairLows, List.mem_filter, List.mem_range, Bool.and_eq_true, Bool.not_eq_true', decide_eq_true_eq]
  exact ⟨And.right, fun h => ⟨Nat.lt_of_le_of_lt (Nat.le_add_right i _) h.2, h⟩⟩

/-- The element that index `j` of v[rd] and of v[rs1] takes. -/
def sortFrom (T : Tile) (rd k : Nat) (m : BitVec 4) (j : Nat) : Nat :=
  if pairLow k j ∈ pairLows T.vl k ∧ outOfOrder T rd k m (pairLow k j) then pairOther k j else j

/-- The lower element of a pair below VL takes the upper one, and the upper one the lower one, where they stand out of order (R130). -/
theorem sortFrom_eq (T : Tile) (rd k : Nat) (m : BitVec 4) (j : Nat) :
    sortFrom T rd k m j
      = if bitOf j k = false ∧ j + 2 ^ k < T.vl then (if outOfOrder T rd k m j then j + 2 ^ k else j)
        else if 2 ^ k ≤ j ∧ (bitOf (j - 2 ^ k) k = false ∧ j - 2 ^ k + 2 ^ k < T.vl) ∧ outOfOrder T rd k m (j - 2 ^ k) then j - 2 ^ k else j := by
  cases hj : bitOf j k
  case false =>
    have hnot : ¬ (2 ^ k ≤ j ∧ (bitOf (j - 2 ^ k) k = false ∧ j - 2 ^ k + 2 ^ k < T.vl) ∧ outOfOrder T rd k m (j - 2 ^ k)) := by
      rintro ⟨hle, ⟨hb, -⟩, -⟩
      simp [bitOf_sub_two_pow hle, hj] at hb
    rw [if_neg hnot]
    by_cases hvl : j + 2 ^ k < T.vl <;> simp [sortFrom, pairLow, pairOther, mem_pairLows, hj, hvl]
  case true =>
    have hle := two_pow_le_of_bitOf hj
    simp [sortFrom, pairLow, pairOther, mem_pairLows, hj, hle]

/-- What VSORT does to the tile: it exchanges the pairs that stand out of order. -/
def sortExchanges (rd rs1 k : Nat) (m : BitVec 4) (T : Tile) : Tile :=
  exchanges T rd rs1 k (outOfOrder T rd k m) (pairLows T.vl k) T

/-- An exchange step moves the elements of v[rd] and v[rs1] alike, and no other element. -/
theorem sortExchanges_elem (rd rs1 k : Nat) (m : BitVec 4) (T : Tile) (r j : Nat) (hj : j < T.vlmax) :
    (sortExchanges rd rs1 k m T).elem r j = if r = rd ∨ r = rs1 then T.elem r (sortFrom T rd k m j) else T.elem r j := by
  rw [sortExchanges, exchanges_elem T rd rs1 _ (fun i hi => (mem_pairLows.1 hi).1) T rfl r j hj, sortFrom, apply_ite (T.elem r)]
  by_cases hr : r = rd ∨ r = rs1 <;> simp [hr]

/-- An exchange step changes nothing of the tile but vector registers. -/
theorem sortExchanges_rest (rd rs1 k : Nat) (m : BitVec 4) (T : Tile) : ∃ v, sortExchanges rd rs1 k m T = { T with vRegs := v } :=
  exchanges_rest ..

/-- The operands that VSORT accepts (R130). -/
def sortLegal (k m : BitVec 4) (rd rs1 : Reg) (T : Tile) : Bool :=
  startZero T && rd != rs1 && decide (2 ^ k.toNat < T.vl)
    && (m == 0xF || (decide (1 ≤ m.toNat) && decide (m.toNat ≤ 9) && decide (k.toNat < m.toNat)))

/-- VSORT exchanges the pairs that stand out of order. -/
theorem exec_vsort (s : State) (t : TileId) (k m : BitVec 4) (rd rs1 : Reg) :
    exec (.vsort t k m rd rs1) s = vecOp s t (sortLegal k m rd rs1) (sortExchanges rd.toNat rs1.toNat k.toNat m) := by
  change vecOp s t (sortLegal k m rd rs1) _ = _
  congr 1
  funext T
  rw [sortPairs, List.foldl_map, ← pairLows, sortExchanges, exchanges]
  congr 1
  funext T' i
  refine ite_congr (propext ?_) (fun _ => rfl) fun _ => rfl
  unfold outOfOrder
  dsimp only
  split <;> simp

theorem sortLegal_iff {k m : BitVec 4} {rd rs1 : Reg} {T : Tile} (h0 : T.vstart = 0) :
    sortLegal k m rd rs1 T = true ↔
      rd ≠ rs1 ∧ 2 ^ k.toNat < T.vl ∧ (m = 0xF ∨ (1 ≤ m.toNat ∧ m.toNat ≤ 9 ∧ k.toNat < m.toNat)) := by
  simp [sortLegal, startZero, h0, and_assoc]

/-- VSORT with other operands is an illegal instruction. -/
theorem exec_vsort_illegal {s : State} {t : TileId} (h : TileRuns s t) {k m : BitVec 4} {rd rs1 : Reg}
    (hl : sortLegal k m rd rs1 (s.tile t) = false) : exec (.vsort t k m rd rs1) s = exec (.illegalInstruction t) s := by
  rw [exec_vsort, vecOp_illegal h hl]
  exact (issue_runs h fun s => takeIllegal s t).symm

/-- VSORT with legal operands moves the elements of its two registers, and changes nothing else. -/
theorem exec_vsort_legal {s : State} {t : TileId} (h : TileRuns s t) {k m : BitVec 4} {rd rs1 : Reg} (h0 : (s.tile t).vstart = 0)
    (hl : sortLegal k m rd rs1 (s.tile t) = true) :
    ∃ s' v, exec (.vsort t k m rd rs1) s = .next s' ∧
      s' = s.updTile t (fun T => { T with vRegs := v, vstart := 0, pc := T.pc + 4, unparked := false }) ∧
      ∀ r j, j < (s.tile t).vlmax → (s'.tile t).elem r j
        = if r = rd.toNat ∨ r = rs1.toNat then (s.tile t).elem r (sortFrom (s.tile t) rd.toNat k.toNat m j) else (s.tile t).elem r j := by
  obtain ⟨-, hvl, -⟩ := (sortLegal_iff h0).1 hl
  have hrun : ¬ (s.tile t).vl ≤ (s.tile t).vstart.toNat := by rw [h0]; exact Nat.not_le.2 (Nat.zero_lt_of_lt hvl)
  obtain ⟨s', v, hnext, hregs, hs'⟩ := vecOp_vRegs h hl (fun hskip => absurd hskip hrun) (sortExchanges_rest ..)
  exact ⟨s', v, (exec_vsort ..).trans hnext, hregs, fun r j hj => (hs' r j).trans (sortExchanges_elem _ _ _ _ _ r j hj)⟩

/-- Settles O19: the exchanges of disjoint pairs, element by element (R130). -/
theorem sortStep : Obligations.SortStep := by
  unfold Obligations.SortStep
  intro s t h k m rd rs1 h0 T key d legal low swap from_
  refine ⟨fun hl => exec_vsort_illegal h (Bool.eq_false_iff.2 fun hs => hl ((sortLegal_iff h0).1 hs)), fun hl => ?_⟩
  have hfrom (j : Nat) : from_ j = sortFrom T rd.toNat k.toNat m j := by
    have hswap (i : Nat) : swap i ↔ outOfOrder T rd.toNat k.toNat m i = true := outOfOrder_iff.symm
    rw [sortFrom_eq]
    simp only [from_, low, hswap]
    rfl
  simp only [hfrom]
  exact exec_vsort_legal h h0 ((sortLegal_iff h0).2 hl)

end Sys2Proof.Machine

/-! PROOFS. Memory-side reductions (R131, R167 to R172): an access that hits the TLB, the elements that VRED.M sends, and what a controller leaves. -/

namespace Sys2Proof.Machine

-- ## An access that hits

/-- A tile whose MMU walks for no other access goes on to this one with nothing left behind. -/
theorem leaveWalk_of_walksFor {s : State} {t : TileId} {va : Nat} {k : AccessKind} (p : Nat) (h : WalksFor s t va k) :
    leaveWalk s t p (·.serves va k) (fun r => r.va == va && r.kind == k) = s.updTile t id := by
  obtain ⟨hwalk, hresult⟩ := h
  have hkeep : (s.tile t).mmu.tlb.result.filter (fun r => r.va == va && r.kind == k) = (s.tile t).mmu.tlb.result := by
    cases hr : (s.tile t).mmu.tlb.result with
    | none => rfl
    | some r => simp [hresult r hr]
  have hsame : updTlb s (.tile t) (fun T => { T with result := T.result.filter fun r => r.va == va && r.kind == k }) = s.updTile t id :=
    State.updTile_congr (by simp only [hkeep, id])
  unfold leaveWalk
  rw [Fin.ofNat_val_eq_self]
  dsimp only
  split
  next w hw => rw [if_pos (hwalk w hw), hsame]
  next => exact hsame

/-- The entry of an access that hits is the TLB's. -/
theorem findEntry_of_hits {s : State} {t : TileId} {va : Nat} {k : AccessKind} {p : Nat} {e : TlbEntry} {dpa : Nat} (h : Hits s t va k p e dpa) :
    findEntry s (.tile t) p va k = (.ok e, s.updTile t id) := by
  obtain ⟨-, hwalks, -, hlookup, -⟩ := h
  have hlookup' : (unitTlb (s.updTile t id) (.tile t)).lookup va = some e := by simpa [unitTlb] using hlookup
  unfold findEntry
  simp only [leaveWalk_of_walksFor p hwalks, hlookup']

/-- An access that reaches the cellar is translated by the TLB. -/
theorem translate_of_reaches {s : State} {t : TileId} {va n : Nat} {k : AccessKind} {dpa : Nat} (h : Reaches s t va n k dpa) :
    ∃ c, translate s (.tile t) va k = (.ok { dpa := dpa, cacheable := c }, s.updTile t id) := by
  obtain ⟨-, -, p, e, hhit, hperm⟩ := h
  have ⟨hva, _, hparcel, _, hdpa, _⟩ := hhit
  have hparcel' : unitParcel s (.tile t) = some p := hparcel
  have hperm' : permReason (s.updTile t id) p e k dpa = none := hperm
  refine ⟨bitOf e.leaf 4, ?_⟩
  unfold translate
  simp only [Nat.not_le.2 hva, if_false, hparcel', findEntry_of_hits hhit, ← hdpa, hperm']

/-- Table 1 of chapter 10 has the cellar at the addresses that are its own. -/
theorem eq_of_place_cellar {dpa a : Nat} (h : place dpa = .cellar a) : a = dpa := by
  unfold place at h
  split at h
  · exact (Place.cellar.inj h).symm
  · repeat' split at h
    all_goals cases h

/-- An address of the cellar names its own byte of storage. -/
theorem canon_of_reaches {s : State} {t : TileId} {va n : Nat} {k : AccessKind} {dpa : Nat} (h : Reaches s t va n k dpa) (u : State) :
    canon u dpa = some dpa := by
  obtain ⟨-, -, -, -, ⟨-, -, -, -, -, -, a, hplace⟩, -⟩ := h
  simp only [canon, hplace, eq_of_place_cellar hplace]

-- ## What VRED.M sends

/-- The address that element `j` names (R131). -/
def redAddr (T : Tile) (rs1 rs2 : Reg) (j : Nat) : Nat := ((T.sGet rs1.toNat).toNat + T.elem rs2.toNat j * redBytes T) % 2 ^ 64

/-- The reduction that element `j` sends to its controller, at `dpa`. -/
def redOf (s : State) (t : TileId) (p : Nat) (op : RedOp) (rd : Reg) (dpa j : Nat) : Red :=
  { dpa := dpa, op := op, signed := (s.tile t).signed, bytes := redBytes (s.tile t), value := (s.tile t).elem rd.toNat j, tile := t.val, parcel := p
    vintage := (s.parcel p).vintage }

/-- One reduction more is on its way. -/
def sendRed (s : State) (t : TileId) (r : Red) : State := { s.updTile t id with reds := s.reds ++ [r] }

@[simp] theorem sendRed_tile (s : State) (t : TileId) (r : Red) : (sendRed s t r).tile t = s.tile t := State.updTile_tile s t id
@[simp] theorem sendRed_reds (s : State) (t : TileId) (r : Red) : (sendRed s t r).reds = s.reds ++ [r] := rfl

@[simp] theorem sendRed_redOf (s : State) (t : TileId) (r : Red) (p : Nat) (op : RedOp) (rd : Reg) (dpa j : Nat) :
    redOf (sendRed s t r) t p op rd dpa j = redOf s t p op rd dpa j := by
  simp only [redOf, sendRed_tile]
  rfl

/-- Once the tile retires, a send has changed nothing but what is on its way. -/
theorem retireV_sendRed (s : State) (t : TileId) (r : Red) (rs : List Red) (f : Tile → Tile) :
    retireV { sendRed s t r with reds := rs } t f = retireV { s with reds := rs } t f :=
  State.updTile_twice { s with reds := rs } t id _

/-- A reduction on its way does not change what an access of the tile reaches. -/
theorem Reaches.sendRed {s : State} {t : TileId} {va n : Nat} {k : AccessKind} {dpa : Nat} (h : Reaches s t va n k dpa) (r : Red) :
    Reaches (sendRed s t r) t va n k dpa := by
  obtain ⟨halign, hcache, p, e, ⟨hva, hwalks, hparcel, hlookup, hdpa⟩, hperm⟩ := h
  refine ⟨halign, ?_, p, e, ⟨hva, ?_, hparcel, ?_, hdpa⟩, hperm⟩
  · rwa [sendRed_tile]
  · unfold WalksFor
    rwa [sendRed_tile]
  · rwa [sendRed_tile]

/-- No pseudo-channel's queue holds more elements than are on their way. -/
theorem redQueue_le (s : State) (a : Nat) : redQueue s a ≤ s.reds.length := List.length_filter_le ..

/-- An element that reaches its word, while its queue has room, is sent. -/
theorem redLoop_cons {s : State} {t : TileId} (p : Nat) (op : RedOp) {rd rs1 rs2 : Reg} {i dpa : Nat} (rest : List Nat)
    (h : Reaches s t (redAddr (s.tile t) rs1 rs2 i) (redBytes (s.tile t)) .reduce dpa) (hroom : s.reds.length < 32) :
    redLoop t p op rd rs1 rs2 (i :: rest) s = redLoop t p op rd rs1 rs2 rest (sendRed s t (redOf s t p op rd dpa i)) := by
  obtain ⟨c, htrans⟩ := translate_of_reaches h
  have hqueue : ¬ 32 ≤ redQueue (s.updTile t id) dpa := Nat.not_le.2 (Nat.lt_of_le_of_lt (redQueue_le ..) hroom)
  unfold redAddr at h htrans
  rw [redLoop]
  simp only [h.1, htrans, canon_of_reaches h, Option.getD_some, hqueue, ne_eq, not_true_eq_false, if_false]
  rfl

/-- Elements that all reach their words, and for which the queues have room, are sent in order, and the instruction retires. -/
theorem redLoop_sends (t : TileId) (p : Nat) (op : RedOp) (rd rs1 rs2 : Reg) (dpa : Nat → Nat) (l : List Nat) (s : State)
    (h : ∀ j ∈ l, Reaches s t (redAddr (s.tile t) rs1 rs2 j) (redBytes (s.tile t)) .reduce (dpa j)) (hroom : s.reds.length + l.length ≤ 32) :
    redLoop t p op rd rs1 rs2 l s = retireV { s with reds := s.reds ++ l.map fun j => redOf s t p op rd (dpa j) j } t id := by
  induction l generalizing s with
  | nil => rw [redLoop, List.map_nil, List.append_nil]
  | cons i l ih =>
    rw [List.length_cons] at hroom
    obtain ⟨hi, hl⟩ := List.forall_mem_cons.1 h
    rw [redLoop_cons p op l hi (by omega), ih]
    · simp only [sendRed_reds, sendRed_redOf, List.append_assoc, List.singleton_append, List.map_cons, retireV_sendRed]
    · intro j hj
      rw [sendRed_tile]
      exact (hl j hj).sendRed _
    · simp only [sendRed_reds, List.length_append, List.length_singleton]
      omega

/-- The active elements in ascending order (R109). -/
theorem active_eq_filter (T : Tile) (p : Nat) : T.active p = (List.range T.vl).filter (isActive T p) := by
  rw [Tile.active, Tile.span, List.filter_filter]
  refine List.filter_congr fun j hj => ?_
  simp [isActive, List.mem_range.1 hj, Bool.and_comm]

/-- VRED.M with legal operands sends its active elements. -/
theorem exec_vredM_legal {s : State} {t : TileId} (h : TileRuns s t) {op : RedOp} (hw : 32 ≤ (s.tile t).ew)
    (hf : op = .fadd → (s.tile t).ew = 64) (rd rs1 rs2 : Reg) (pred : PReg) :
    exec (.vredM t op rd rs1 rs2 pred) s
      = .next (redLoop t ((tileParcel s t).getD 0) op rd rs1 rs2 ((List.range (s.tile t).vl).filter (isActive (s.tile t) pred.toNat)) s) := by
  have hlegal : ¬ (decide ((s.tile t).ew < 32) || (decide (op = .fadd) && decide ((s.tile t).ew ≠ 64))) = true := by
    simpa [hw] using hf
  change execVredM t op rd rs1 rs2 pred s = _
  rw [execVredM, issue_runs h]
  dsimp only
  rw [if_neg hlegal, active_eq_filter]

-- ## What a controller leaves

/-- A write to canonical memory puts its bytes there, and no other. -/
theorem Mem.stored_write {m : Mem} (h : m.wf = true) (a : Nat) (bs : List Byte) : Stored m (m.write a bs) a bs := by
  refine ⟨Mem.wf_write a bs h, fun b => ?_⟩
  split
  next hin =>
    obtain ⟨i, rfl⟩ := Nat.exists_eq_add_of_le hin.1
    have hi : i < bs.length := by omega
    rw [Mem.byte_write_in h hi, Nat.add_sub_cancel_left, List.getElem?_eq_getElem hi, Option.getD_some]
  next hout => exact Mem.byte_write_out m a b bs (by omega)

/-- A controller takes a waiting element and applies it. -/
theorem exec_reductionApply {s : State} (h : Clocked s) {k : Nat} {r : Red} (hr : s.reds[k]? = some r) :
    exec (.reductionApply k) s = .next (settleFrom s (applyRed { s with reds := s.reds.eraseIdx k } r)) := by
  change execReductionApply k s = _
  rw [execReductionApply, live_clocked h, hr]

/-- An element of a poisoned word is not applied, and its EXECUTE ends (R172). -/
theorem applyRed_poisoned {s : State} {r : Red} (h : s.mem.poisoned r.dpa = true) :
    applyRed s r = failExec s r.parcel { status := sPOISONED, source := 8, reason := 0, sub := 0, address := r.dpa } := by
  rw [applyRed, if_pos h]

/-- An element of a sound word is combined with it, and a word that no plain store has met stays defined (R167, R170). -/
theorem applyRed_sound {s : State} {r : Red} (h : s.mem.poisoned r.dpa = false)
    (hs : ∀ x ∈ s.mem.stores, x.2 ≤ r.dpa ∨ r.dpa + r.bytes ≤ x.1) :
    applyRed s r = ({ s with
      mem := { s.mem.write r.dpa (leBytes r.bytes (redResult r (leNat (s.mem.read r.dpa r.bytes)))) with
        reduced := (r.dpa, r.dpa + r.bytes) :: s.mem.reduced } }).updStack
          (r.dpa / sliceBytes / 8) fun K => { K with redCnt := satAdd K.redCnt 1 } := by
  have hmiss : (s.mem.stores.any fun x => decide (x.1 < r.dpa + r.bytes) && decide (r.dpa < x.2)) = false := by
    rw [List.any_eq_false]
    intro x hx
    have := hs x hx
    simp only [Bool.and_eq_true, decide_eq_true_eq]
    omega
  have hkeep (bs : List Byte) : (s.mem.write r.dpa bs).stores = s.mem.stores := rfl
  rw [applyRed, if_neg (by simp [h])]
  simp only [hkeep, hmiss, Bool.false_eq_true, if_false]
  rfl

/-- Settles O25: VRED.M by its loop over elements that the TLB takes to the cellar (R131), a controller by what one element
leaves of its word (R167, R172). -/
theorem memoryReductions : Obligations.MemoryReductions := by
  unfold Obligations.MemoryReductions
  intro s t h op rd rs1 rs2 pred dpa T n act va
  refine ⟨fun hw hf hreach hroom => ?_, fun k r hr hsound hs => ?_, fun k r hr hpoison => ?_⟩
  · rw [exec_vredM_legal h hw hf]
    exact congrArg _ (redLoop_sends t _ op rd rs1 rs2 dpa _ s (fun j hj => hreach j (List.mem_filter.1 hj).2) hroom)
  · refine ⟨fun hm => Mem.stored_write hm .., ?_⟩
    rw [exec_reductionApply h.1 hr, applyRed_sound (s := { s with reds := s.reds.eraseIdx k }) hsound hs]
    rfl
  · rw [exec_reductionApply h.1 hr, applyRed_poisoned (s := { s with reds := s.reds.eraseIdx k }) hpoison]
    rfl

end Sys2Proof.Machine

/-! PROOFS. What every step keeps: memory in its canonical form and the frame generator's settings legal (R33). One lemma for each operation over the
state, in the order in which the model defines them; a command is then answered by a next state that keeps both. -/

namespace Sys2Proof.Machine

/-- Equivalent conditions choose the same branch. -/
theorem ite_of_iff {α : Type} {p q : Prop} [Decidable p] [Decidable q] {x y : α} (h : p ↔ q) : (if p then x else y) = if q then x else y :=
  ite_congr (propext h) (fun _ => rfl) fun _ => rfl

-- ## What is kept

/-- Memory `m` and settings `F` keep what state `s₀` has: canonical memory, legal settings. -/
def Kept (s₀ : State) (m : Mem) (F : Frm) : Prop := (s₀.mem.wf = true → m.wf = true) ∧ (s₀.frm.legal → F.legal)

/-- State `s` keeps what state `s₀` has. -/
def Keeps (s₀ s : State) : Prop := Kept s₀ s.mem s.frm

/-- The outcome is a next state, which keeps what `s₀` has. -/
def Answers (s₀ : State) (o : Host.Outcome State Fault Refusal) : Prop := ∃ s, o = .next s ∧ Keeps s₀ s

variable {s₀ s : State}

theorem Keeps.refl (s : State) : Keeps s s := ⟨id, id⟩

/-- A state made of other units keeps what its memory and its frame generator keep. -/
theorem Keeps.mk {glb : Glb} {frm : Frm} {mem : Mem} {hbms : Tab Stack} {reds : List Red} {tiles : Tab Tile} {dsp : DspGlobal} {groups : Tab Group}
    {ces des ses : Tab Engine} {dgt : DgtCtl} {casks : Tab Cask} {sto : Sto} {parcels : Tab Parcel} {pcl : PclGlobal} {wins : Tab Win}
    {cmds : List Cmd} {accepted : Nat} {mbx : MbxBlock} {evt : EvtBlock} {ports : Ports} {hlt : Hlt} {pwr : Pwr} {boot : Boot} {pkg : Pkg}
    {lastRead : Word} {lastEnd : ReqEnd} {deciding : Bool} {freeCtr : Nat} {pending : List Instr} (h : Kept s₀ mem frm) :
    Keeps s₀ ⟨glb, frm, mem, hbms, reds, tiles, dsp, groups, ces, des, ses, dgt, casks, sto, parcels, pcl, wins, cmds, accepted, mbx, evt, ports, hlt,
      pwr, boot, pkg, lastRead, lastEnd, deciding, freeCtr, pending⟩ := h

theorem Keeps.withMem {m : Mem} (h : Keeps s₀ s) (hm : s.mem.wf = true → m.wf = true) : Keeps s₀ { s with mem := m } :=
  ⟨fun h0 => hm (h.1 h0), h.2⟩

theorem Keeps.withFrm {F : Frm} (h : Keeps s₀ s) (hF : s.frm.legal → F.legal) : Keeps s₀ { s with frm := F } := ⟨h.1, fun h0 => hF (h.2 h0)⟩

theorem Keeps.ite {c : Prop} [Decidable c] {s t : State} (hs : Keeps s₀ s) (ht : Keeps s₀ t) : Keeps s₀ (if c then s else t) := by
  split
  · exact hs
  · exact ht

theorem Keeps.foldl {α : Type} {f : State → α → State} {l : List α} (h : Keeps s₀ s) (hf : ∀ s a, Keeps s₀ s → Keeps s₀ (f s a)) :
    Keeps s₀ (l.foldl f s) := foldl_keeps l s h hf

theorem foldNat_keeps {l : List Nat} {f : Nat → State → State} (h : Keeps s₀ s) (hf : ∀ i s, Keeps s₀ s → Keeps s₀ (f i s)) :
    Keeps s₀ (foldNat l f s) := foldl_keeps l s h fun s i => hf i s

theorem keeps_snd {α : Type} {r : α × State} {x : α} {s : State} (h : Keeps s₀ r.2) (he : r = (x, s)) : Keeps s₀ s := by
  subst he
  exact h

theorem keeps_fst {α : Type} {r : State × α} {x : α} {s : State} (h : Keeps s₀ r.1) (he : r = (s, x)) : Keeps s₀ s := by
  subst he
  exact h

theorem keeps_snd_snd {α β : Type} {r : α × β × State} {x : α} {y : β} {s : State} (h : Keeps s₀ r.2.2) (he : r = (x, y, s)) : Keeps s₀ s := by
  subst he
  exact h

theorem keeps_dec {α : Type} {r : α × DecW} {x : α} {y : DecW} (h : Keeps s₀ r.2.s) (he : r = (x, y)) : Keeps s₀ y.s := by
  subst he
  exact h

-- ## The operations, in the model's order

theorem ok_keeps (h : Keeps s₀ s) : Answers s₀ (ok s) := ⟨_, rfl, h⟩

theorem live_keeps {f : State → State} (h : Keeps s₀ s) (hf : ∀ s, Keeps s₀ s → Keeps s₀ (f s)) : Keeps s₀ (live s f) := Keeps.ite h (hf _ h)

theorem State.updWin_keeps {w : Window} {f : Win → Win} (h : Keeps s₀ s) : Keeps s₀ (State.updWin s w f) := Keeps.mk h

theorem State.updParcel_keeps {p : Nat} {f : Parcel → Parcel} (h : Keeps s₀ s) : Keeps s₀ (State.updParcel s p f) := Keeps.mk h

theorem countStale_keeps {p : Nat} (h : Keeps s₀ s) : Keeps s₀ (countStale s p) := State.updParcel_keeps h

theorem dropCmd_keeps {seq : Option Nat} (h : Keeps s₀ s) : Keeps s₀ (dropCmd s seq) := by
  unfold dropCmd
  split
  · exact h
  · exact Keeps.mk h

theorem hostWrite_keeps {port a : Nat} {bs : List Byte} (h : Keeps s₀ s) : Keeps s₀ (hostWrite s port a bs) :=
  Keeps.ite (h.withMem (Mem.wf_store _ _ _)) h

theorem sendMsix_keeps {f v : Nat} (h : Keeps s₀ s) : Keeps s₀ (sendMsix s f v) := Keeps.ite h (Keeps.ite (Keeps.mk h) (Keeps.ite (Keeps.mk h) h))

theorem drainWin_keeps {n : Nat} {w : Window} (h : Keeps s₀ s) : Keeps s₀ (drainWin n s w) := by
  induction n generalizing s with
  | zero => exact h
  | succ n ih =>
    unfold drainWin
    extract_lets W
    split
    · exact h
    · exact Keeps.ite h (Keeps.ite (ih (countStale_keeps (dropCmd_keeps (State.updWin_keeps h))))
        (Keeps.ite (ih (Keeps.ite (sendMsix_keeps (dropCmd_keeps (State.updWin_keeps (hostWrite_keeps h))))
          (dropCmd_keeps (State.updWin_keeps (hostWrite_keeps h))))) h))

theorem postPennant_keeps {w : Window} {q : Pennant} (h : Keeps s₀ s) : Keeps s₀ (postPennant s w q) := drainWin_keeps (State.updWin_keeps h)

theorem endCmd_keeps {c : Cmd} {status : Nat} {det : List Byte} (h : Keeps s₀ s) : Keeps s₀ (endCmd s c status det) := postPennant_keeps (Keeps.mk h)

theorem endDetaches_keeps (h : Keeps s₀ s) : Keeps s₀ (endDetaches s) := Keeps.foldl h fun _ _ h0 => endCmd_keeps h0

theorem State.updCmd_keeps {seq : Nat} {f : Cmd → Cmd} (h : Keeps s₀ s) : Keeps s₀ (State.updCmd s seq f) := Keeps.mk h

theorem renumber_keeps {c : Cmd} (h : Keeps s₀ s) : Keeps s₀ (renumber s c).2 := by
  unfold renumber
  split
  · exact h
  · exact Keeps.mk h

theorem State.updTile_keeps {t : Nat} {f : Tile → Tile} (h : Keeps s₀ s) : Keeps s₀ (State.updTile s t f) := Keeps.mk h

theorem installTables_keeps {u : WalkUnit} {w : Walk} (h : Keeps s₀ s) : Keeps s₀ (installTables s u w) := by
  unfold installTables
  split
  · exact State.updTile_keeps h
  · exact h

theorem State.updStack_keeps {k : Nat} {f : Stack → Stack} (h : Keeps s₀ s) : Keeps s₀ (State.updStack s k f) := Keeps.mk h

theorem State.updEvSrc_keeps {i : Nat} {g : EvSrc → EvSrc} (h : Keeps s₀ s) : Keeps s₀ (State.updEvSrc s i g) := Keeps.mk h

theorem State.updEvRing_keeps {f : Nat} {g : EvRing → EvRing} (h : Keeps s₀ s) : Keeps s₀ (State.updEvRing s f g) := Keeps.mk h

theorem drainEvRing_keeps {n f : Nat} (h : Keeps s₀ s) : Keeps s₀ (drainEvRing n s f) := by
  induction n generalizing s with
  | zero => exact h
  | succ n ih =>
    unfold drainEvRing
    extract_lets R
    split
    · exact h
    · exact Keeps.ite (ih (countStale_keeps (State.updEvRing_keeps h)))
        (Keeps.ite (ih (sendMsix_keeps (State.updEvRing_keeps (hostWrite_keeps h)))) h)

theorem deliverRecord_keeps {r : EvRec} {coalesced : Nat} (h : Keeps s₀ s) : Keeps s₀ (deliverRecord s r coalesced) := by
  unfold deliverRecord
  exact Keeps.ite (countStale_keeps h) (by
    dsimp only
    split
    · exact Keeps.mk h
    · exact Keeps.ite h (Keeps.ite (drainEvRing_keeps (State.updEvRing_keeps h)) (sendMsix_keeps h)))

theorem raiseWith_keeps {i cause sub status : Nat} (h : Keeps s₀ s) : Keeps s₀ (raiseWith s i cause sub status) :=
  Keeps.ite (State.updEvSrc_keeps h) (Keeps.ite (State.updEvSrc_keeps h) (deliverRecord_keeps (State.updEvSrc_keeps h)))

theorem raise_keeps {i cause sub : Nat} (h : Keeps s₀ s) : Keeps s₀ (raise s i cause sub) := raiseWith_keeps h

theorem raiseStack_keeps {n bit : Nat} (h : Keeps s₀ s) : Keeps s₀ (raiseStack s n bit) := Keeps.ite (raise_keeps h) h

theorem countCe_keeps {n : Nat} (h : Keeps s₀ s) : Keeps s₀ (countCe s n) :=
  Keeps.ite (raiseStack_keeps (State.updStack_keeps (State.updStack_keeps h))) (State.updStack_keeps h)

theorem findUe_keeps {line : Nat} (h : Keeps s₀ s) : Keeps s₀ (findUe s line) := by
  have hp : Keeps s₀ { s with mem := s.mem.setPoison line true } := h.withMem (Mem.wf_setPoison _ _)
  exact Keeps.ite h (Keeps.ite (State.updStack_keeps hp) (raiseStack_keeps (State.updStack_keeps (State.updStack_keeps hp))))

theorem eccRead_keeps {a : Nat} {e : Ecc} (h : Keeps s₀ s) : Keeps s₀ (eccRead s a e) := by
  unfold eccRead
  exact Keeps.ite h (by
    split
    · exact h
    · exact Keeps.ite h (countCe_keeps h)
    · exact findUe_keeps h)

theorem walkRead_keeps {u : WalkUnit} {p : Nat} {w : Walk} {ecc : Ecc} {busError : Bool} (h : Keeps s₀ s) :
    Keeps s₀ (walkRead s u p w ecc busError).2 := by
  unfold walkRead
  split
  · exact installTables_keeps h
  · extract_lets acc da a s1 s2 d
    have h1 : Keeps s₀ s1 := by
      unfold s1
      split
      · exact Keeps.ite h (State.updTile_keeps h)
      · exact h
    have h2 : Keeps s₀ s2 := eccRead_keeps h1
    split
    · exact h1
    · split
      · exact h2
      · split
        · exact installTables_keeps h2
        · split
          · exact installTables_keeps h2
          · exact h2

theorem State.updPort_keeps {port : Nat} {f : HostPort → HostPort} (h : Keeps s₀ s) : Keeps s₀ (State.updPort s port f) :=
  Keeps.ite (Keeps.mk h) (Keeps.mk h)

theorem noteHostEnd_keeps {k port : Nat} {e : ReqEnd} (h : Keeps s₀ s) : Keeps s₀ (noteHostEnd k s port e) := by
  unfold noteHostEnd
  split
  · exact State.updPort_keeps h
  · exact Keeps.ite (State.updPort_keeps h) h
  · exact h

theorem fabricReadAt_keeps {k a n : Nat} (h : Keeps s₀ s) : Keeps s₀ (fabricReadAt k s a n).2.2 := by
  unfold fabricReadAt
  dsimp only
  split
  · exact Keeps.mk (noteHostEnd_keeps h)
  · exact h

theorem fabricRead_keeps {a n : Nat} (h : Keeps s₀ s) : Keeps s₀ (fabricRead s a n).2.2 := fabricReadAt_keeps h

theorem readPlaces_keeps {l : List (Nat × Nat)} (h : Keeps s₀ s) : Keeps s₀ (readPlaces s l).2.2 :=
  foldl_keeps (P := fun r : _ × _ × State => Keeps s₀ r.2.2) _ _ h fun _ _ h0 => fabricRead_keeps h0

theorem cmdRead_keeps {p va n : Nat} (h : Keeps s₀ s) : Keeps s₀ (cmdRead s p va n).2 := by
  unfold cmdRead
  split
  · exact h
  · split
    next s0 heq => exact (keeps_snd_snd (readPlaces_keeps h) heq)
    next s1 heq => exact (keeps_snd_snd (readPlaces_keeps h) heq)

theorem fetchNow_keeps {c : Cmd} (h : Keeps s₀ s) : Keeps s₀ (fetchNow s c) := by
  unfold fetchNow
  split
  · exact State.updCmd_keeps h
  · exact Keeps.ite h (by
      split
      next s0 heq => exact State.updCmd_keeps (keeps_snd (cmdRead_keeps h) heq)
      next s1 heq => exact endCmd_keeps (keeps_snd (cmdRead_keeps h) heq))
  · exact h

theorem noteRaw_keeps {t off n : Nat} (h : Keeps s₀ s) : Keeps s₀ (noteRaw s t off n) := Keeps.ite h (State.updTile_keeps h)

theorem fabricWrite_keeps {a : Nat} {bs : List Byte} {poison : Bool} (h : Keeps s₀ s) : Keeps s₀ (fabricWrite s a bs poison) := by
  have hm : s.mem.wf = true → ((pieces s a bs).foldl (fun m cb => m.store cb.1 cb.2 poison) s.mem).wf = true := fun hm =>
    foldl_keeps (P := fun m : Mem => m.wf = true) _ _ hm fun _ _ => Mem.wf_store _ _ _
  unfold fabricWrite
  split
  · exact Keeps.ite (h.withMem (Mem.wf_store _ _ _)) h
  · exact noteRaw_keeps (h.withMem hm)
  · exact h.withMem hm

theorem putAll_keeps {l : List (Nat × List Byte)} (h : Keeps s₀ s) : Keeps s₀ (putAll s l) := Keeps.foldl h fun _ _ h0 => fabricWrite_keeps h0

theorem deliverData_keeps {c : Cmd} {p : Nat} {bs : List Byte} (h : Keeps s₀ s) : Keeps s₀ (deliverData s c p bs) := by
  unfold deliverData
  exact Keeps.ite (by
    split
    · exact endCmd_keeps h
    · exact endCmd_keeps (putAll_keeps h)) (endCmd_keeps (Keeps.foldl h fun _ _ h0 => hostWrite_keeps h0))

theorem finishRead_keeps {c : Cmd} {p : Nat} (h : Keeps s₀ s) : Keeps s₀ (finishRead s c p) := by
  unfold finishRead
  split
  · exact endCmd_keeps h
  · exact deliverData_keeps h

theorem State.updPset_keeps {i : Nat} {f : ProtSet → ProtSet} (h : Keeps s₀ s) : Keeps s₀ (State.updPset s i f) := by
  unfold State.updPset
  split
  · exact h
  · exact Keeps.mk h

theorem State.updCask_keeps {n : Nat} {f : Cask → Cask} (h : Keeps s₀ s) : Keeps s₀ (State.updCask s n f) := Keeps.mk h

theorem chunkWrite_keeps {n : Nat} (h : Keeps s₀ s) : Keeps s₀ (chunkWrite s n).2 := by
  unfold chunkWrite
  split
  · exact h
  · exact State.updCask_keeps h

theorem raiseCask_keeps {n e : Nat} (h : Keeps s₀ s) : Keeps s₀ (raiseCask s n e) := Keeps.ite (raise_keeps (State.updCask_keeps h)) h

theorem wearLimit_keeps {n : Nat} (h : Keeps s₀ s) : Keeps s₀ (wearLimit s n) := Keeps.ite (raiseCask_keeps (State.updCask_keeps h)) h

theorem buildStripe_keeps {i k : Nat} {P : ProtSet} {content : List (Option UnitId × UnitData)} (h : Keeps s₀ s) :
    Keeps s₀ (buildStripe s i k P content).2 := by
  refine State.updPset_keeps (foldl_keeps (P := fun r : _ × State => Keeps s₀ r.2) _ _ h fun acc m h => ?_)
  split
  · exact h
  · extract_lets w
    split
    next heq => exact wearLimit_keeps (keeps_snd (chunkWrite_keeps h) heq)
    next heq => exact keeps_snd (chunkWrite_keeps h) heq

theorem closeStripe_keeps {i : Nat} (h : Keeps s₀ s) : Keeps s₀ (closeStripe s i) := by
  unfold closeStripe
  split
  · exact h
  · refine Keeps.ite h ?_
    extract_lets k chunks
    split
    next heq => exact State.updPset_keeps (keeps_snd (buildStripe_keeps h) heq)

theorem stageUnit_keeps {id : UnitId} {d : Option UnitData} (h : Keeps s₀ s) : Keeps s₀ (stageUnit s id d) := by
  unfold stageUnit
  split
  · exact h
  · extract_lets s1
    have h1 : Keeps s₀ s1 := State.updPset_keeps h
    split
    · exact h1
    · exact Keeps.ite (closeStripe_keeps h1) h1

theorem stageAll_keeps {c : Cmd} {l : List (UnitId × Option UnitData)} (h : Keeps s₀ s) : Keeps s₀ (stageAll s c l) :=
  endCmd_keeps (Keeps.foldl h fun _ _ h0 => stageUnit_keeps h0)

theorem finishChange_keeps {c : Cmd} (h : Keeps s₀ s) : Keeps s₀ (finishChange s c) := by
  unfold finishChange
  split
  · exact endCmd_keeps h
  · split
    · exact endCmd_keeps h
    · exact stageAll_keeps h

theorem finishReads_keeps {c : Cmd} {p : Nat} (h : Keeps s₀ s) : Keeps s₀ (finishReads s c p) := Keeps.ite (finishRead_keeps h) (finishChange_keeps h)

theorem State.addReads_keeps {l : List CaskRead} (h : Keeps s₀ s) : Keeps s₀ (State.addReads s l) := Keeps.mk h

theorem issueReads_keeps {c : Cmd} {p : Nat} {runs : List (Nat × Nat × Nat)} (h : Keeps s₀ s) : Keeps s₀ (issueReads s c p runs) :=
  Keeps.ite (finishReads_keeps h) (State.addReads_keeps h)

theorem startRead_keeps {c : Cmd} {p : Nat} (h : Keeps s₀ s) : Keeps s₀ (startRead s c p) := issueReads_keeps h

theorem writeData_keeps {c : Cmd} {p n : Nat} (h : Keeps s₀ s) : Keeps s₀ (writeData s c p n).2 := by
  unfold writeData
  split
  · split
    · exact h
    · split
      next heq => exact keeps_snd_snd (readPlaces_keeps h) heq
      next heq =>
        extract_lets l hit
        split
        · exact keeps_snd_snd (readPlaces_keeps h) heq
        · exact keeps_snd_snd (readPlaces_keeps h) heq
  · exact Keeps.mk h

theorem startWrite_keeps {c : Cmd} {p : Nat} (h : Keeps s₀ s) : Keeps s₀ (startWrite s c p) := by
  unfold startWrite
  split
  · exact endCmd_keeps h
  · split
    next s0 heq => exact endCmd_keeps (keeps_snd (writeData_keeps h) heq)
    next s1 heq => exact issueReads_keeps (State.updCmd_keeps (keeps_snd (writeData_keeps h) heq))

theorem startFlush_keeps {c : Cmd} {p : Nat} (h : Keeps s₀ s) : Keeps s₀ (startFlush s c p) :=
  Keeps.ite (endCmd_keeps (foldNat_keeps h (fun _ _ h0 => Keeps.ite (closeStripe_keeps h0) h0))) (Keeps.mk (foldNat_keeps h (fun _ _ h1 => Keeps.ite
    (closeStripe_keeps h1) h1)))

theorem startDealloc_keeps {c : Cmd} {p : Nat} (h : Keeps s₀ s) : Keeps s₀ (startDealloc s c p) := by
  unfold startDealloc
  split
  · exact endCmd_keeps h
  · exact issueReads_keeps h

theorem actStorage_keeps {c : Cmd} {p : Nat} (h : Keeps s₀ s) : Keeps s₀ (actStorage s c p) := by
  unfold actStorage
  split
  · exact h
  · split
    · exact endCmd_keeps h
    · split
      · exact startRead_keeps h
      · exact startWrite_keeps h
      · exact startFlush_keeps h
      · exact startDealloc_keeps h

theorem startStorage_keeps {c : Cmd} {p : Nat} (h : Keeps s₀ s) : Keeps s₀ (startStorage s c p) := by
  unfold startStorage
  dsimp only
  split
  · exact endCmd_keeps (State.updCmd_keeps h)
  · split
    · exact Keeps.ite (actStorage_keeps (fetchNow_keeps (State.updCmd_keeps h))) (fetchNow_keeps (State.updCmd_keeps h))
    · exact fetchNow_keeps (State.updCmd_keeps h)

theorem cancelStart_keeps {c : Cmd} (h : Keeps s₀ s) : Keeps s₀ (cancelStart s c) := by
  unfold cancelStart
  split
  · exact endCmd_keeps h
  · exact Keeps.ite (endCmd_keeps (endCmd_keeps h)) (Keeps.ite (State.updCmd_keeps h) (endCmd_keeps h))

theorem resumeStart_keeps {c : Cmd} (h : Keeps s₀ s) : Keeps s₀ (resumeStart s c) := by
  unfold resumeStart
  split
  · exact endCmd_keeps h
  · exact Keeps.ite (State.updCmd_keeps h) (endCmd_keeps h)

theorem queryStart_keeps {c : Cmd} (h : Keeps s₀ s) : Keeps s₀ (queryStart s c) := endCmd_keeps h

theorem writeDesc_keeps {a d : Nat} (h : Keeps s₀ s) : Keeps s₀ (writeDesc s a d) := fabricWrite_keeps h

theorem mapSlot_keeps {n p va level target table a : Nat} {s' : State} (h : Keeps s₀ s) (he : mapSlot n s p va level target table = .ok (a, s')) :
    Keeps s₀ s' := by
  induction n generalizing s level table with
  | zero => cases he
  | succ n ih =>
    unfold mapSlot at he
    extract_lets a at he
    clear_value a
    split at he
    · cases he
    · split at he
      · cases he
        exact h
      · split at he
        · split at he
          · cases he
          · exact ih (writeDesc_keeps (fabricWrite_keeps (State.updParcel_keeps h))) he
        · split at he
          · cases he
          · split at he
            · cases he
            · exact ih h he

theorem mapOne_keeps {p va level d : Nat} {tab : Bool} {s' : State} (h : Keeps s₀ s) (he : mapOne s p va level d tab = .ok s') : Keeps s₀ s' := by
  unfold mapOne at he
  split at he
  · cases he
  next heq =>
    cases he
    exact State.updParcel_keeps (writeDesc_keeps (mapSlot_keeps h heq))

theorem mapLeaves_keeps {p level leaf n va dpa : Nat} {s' : State} (h : Keeps s₀ s) (he : mapLeaves p level leaf n s va dpa = .ok s') :
    Keeps s₀ s' := by
  induction n generalizing s va dpa with
  | zero =>
    cases he
    exact h
  | succ n ih =>
    unfold mapLeaves at he
    split at he
    · cases he
    next heq => exact ih (mapOne_keeps h heq) he

theorem mapEdit_keeps {c : Cmd} {p : Nat} {s' : State} (h : Keeps s₀ s) (he : mapEdit s c p = .ok s') : Keeps s₀ s' := by
  unfold mapEdit at he
  extract_lets page a at he
  split at he
  · exact mapOne_keeps h he
  · exact mapLeaves_keeps h he

theorem unmapTable_keeps {n p table level base lo hi : Nat} {s' : State} (h : Keeps s₀ s) (he : unmapTable n s p table level base lo hi = .ok s') :
    Keeps s₀ s' := by
  induction n generalizing s s' table level base with
  | zero =>
    cases he
    exact h
  | succ n ih =>
    unfold unmapTable at he
    extract_lets span first last at he
    refine foldl_keeps (P := fun r : Except MapErr State => ∀ s', r = .ok s' → Keeps s₀ s') _ _ ?_ ?_ s' he
    · rintro _ ⟨⟩
      exact h
    · intro r i hr s' he
      split at he
      · cases he
      next s =>
        have hs := hr s rfl
        extract_lets b a at he
        split at he
        · cases he
        · split at he
          · cases he
            exact hs
          · split at he
            · split at he
              · cases he
                exact writeDesc_keeps hs
              · cases he
            · split at he
              · cases he
                exact hs
              · exact ih hs he

theorem unmapTdescs_keeps {p lo hi : Nat} (h : Keeps s₀ s) : Keeps s₀ (unmapTdescs s p lo hi) := by
  unfold unmapTdescs
  exact State.updParcel_keeps (Keeps.foldl h fun _ _ h0 => by
    split
    · exact Keeps.ite (writeDesc_keeps h0) h0
    · exact h0)

theorem unmapEdit_keeps {c : Cmd} {p : Nat} {s' : State} (h : Keeps s₀ s) (he : unmapEdit s c p = .ok s') : Keeps s₀ s' := by
  unfold unmapEdit at he
  extract_lets lo hi at he
  split at he
  · cases he
  next heq =>
    cases he
    exact unmapTdescs_keeps (unmapTable_keeps h heq)

theorem State.updGroup_keeps {g : Nat} {f : Group → Group} (h : Keeps s₀ s) : Keeps s₀ (State.updGroup s g f) := Keeps.mk h

theorem State.updEng_keeps {k : EngKind} {n : Nat} {f : Engine → Engine} (h : Keeps s₀ s) : Keeps s₀ (State.updEng s k n f) := by
  unfold State.updEng
  split <;> exact Keeps.mk h

theorem updTlb_keeps {u : WalkUnit} {f : Tlb → Tlb} (h : Keeps s₀ s) : Keeps s₀ (updTlb s u f) := by
  unfold updTlb
  split
  · exact State.updTile_keeps h
  · exact State.updGroup_keeps h
  · exact State.updEng_keeps h
  · exact State.updEng_keeps h
  · exact State.updEng_keeps h

theorem invUnit_keeps {u : WalkUnit} {o : InvOp} (h : Keeps s₀ s) : Keeps s₀ (invUnit s u o) := by
  unfold invUnit
  dsimp only
  split
  · exact State.updTile_keeps (updTlb_keeps h)
  · exact updTlb_keeps h

theorem holdUnit_keeps {u : WalkUnit} {o : InvOp} (h : Keeps s₀ s) : Keeps s₀ (holdUnit s u o) := by
  unfold holdUnit
  dsimp only
  split
  · exact Keeps.mk h
  · exact h
  · exact State.updEng_keeps h
  · exact State.updEng_keeps h
  · exact State.updEng_keeps h

theorem invParcel_keeps {p : Nat} {o : InvOp} (h : Keeps s₀ s) : Keeps s₀ (invParcel s p o) :=
  Keeps.foldl h fun _ _ h0 => invUnit_keeps (holdUnit_keeps h0)

theorem editTables_keeps {c : Cmd} {p : Nat} (h : Keeps s₀ s) : Keeps s₀ (editTables s c p) := by
  unfold editTables
  split
  · exact endCmd_keeps h
  next heq =>
    refine State.updCmd_keeps (State.updParcel_keeps (invParcel_keeps ?_))
    split at heq
    · exact mapEdit_keeps h heq
    · exact unmapEdit_keeps h heq

theorem copyBytes_keeps {p src dst n : Nat} (h : Keeps s₀ s) : Keeps s₀ (copyBytes s p src dst n) := by
  unfold copyBytes
  exact Keeps.foldl h fun _ _ h0 => by
    split
    · exact h0
    · exact fabricWrite_keeps (fabricRead_keeps h0)

theorem State.stamp_keeps (h : Keeps s₀ s) : Keeps s₀ (State.stamp s).2 := Keeps.mk h

theorem cellarCopy_keeps {c : Cmd} {p : Nat} (h : Keeps s₀ s) : Keeps s₀ (cellarCopy s c p) := by
  unfold cellarCopy
  exact Keeps.ite (endCmd_keeps h) (by
    split
    · exact endCmd_keeps (copyBytes_keeps h)
    · exact endCmd_keeps (copyBytes_keeps (State.stamp_keeps h)))

theorem awaitStruct_keeps {c : Cmd} {len : Option Nat} (h : Keeps s₀ s) : Keeps s₀ (awaitStruct s c len) := by
  unfold awaitStruct
  split
  · exact Keeps.ite (endCmd_keeps h) (State.updCmd_keeps h)
  · exact State.updCmd_keeps h

theorem State.setNss_keeps {l : Tab Namespace} (h : Keeps s₀ s) : Keeps s₀ (State.setNss s l) := Keeps.mk h

theorem disown_keeps {r : CaskReader} (h : Keeps s₀ s) : Keeps s₀ (disown s r) := Keeps.mk h

theorem beginCopy_keeps {i : Nat} {v : Move} (h : Keeps s₀ s) : Keeps s₀ (beginCopy s i v) := by
  unfold beginCopy
  split
  · split
    · exact h
    · exact Keeps.ite h (State.addReads_keeps (State.updPset_keeps h))
  · exact h

theorem beginCopies_keeps {i : Nat} (h : Keeps s₀ s) : Keeps s₀ (beginCopies s i) := Keeps.foldl h fun _ _ h0 => beginCopy_keeps h0

theorem startMigration_keeps {i m n t : Nat} (h : Keeps s₀ s) : Keeps s₀ (startMigration s i m n t) := by
  unfold startMigration
  dsimp only
  split
  · exact State.updCask_keeps h
  · exact beginCopies_keeps (State.updPset_keeps (State.updCask_keeps h))

theorem retryMigration_keeps {i m : Nat} (h : Keeps s₀ s) : Keeps s₀ (retryMigration s i m) := by
  unfold retryMigration
  split
  · exact h
  · exact Keeps.ite h (by
      split
      · exact startMigration_keeps h
      · exact h)

theorem raiseGlobal_keeps {i cause : Nat} (h : Keeps s₀ s) : Keeps s₀ (raiseGlobal s i cause) := raise_keeps h

theorem raiseHealth_keeps {cause : Nat} (h : Keeps s₀ s) : Keeps s₀ (raiseHealth s cause) := raiseGlobal_keeps h

theorem noteSet_keeps {i old : Nat} (h : Keeps s₀ s) : Keeps s₀ (noteSet s i old) :=
  Keeps.ite h (Keeps.ite (raiseHealth_keeps (Keeps.mk h)) (Keeps.mk h))

theorem changeSet_keeps {i : Nat} {f : ProtSet → ProtSet} (h : Keeps s₀ s) : Keeps s₀ (changeSet s i f) := noteSet_keeps (State.updPset_keeps h)

theorem rebuildMember_keeps {i m : Nat} (h : Keeps s₀ s) : Keeps s₀ (rebuildMember s i m) := by
  unfold rebuildMember
  split
  · exact h
  · split
    · exact h
    · exact Keeps.ite h (by
        split
        · exact h
        · exact beginCopies_keeps (changeSet_keeps h))

theorem tryRebuild_keeps {i : Nat} (h : Keeps s₀ s) : Keeps s₀ (tryRebuild s i) := foldNat_keeps h (fun _ _ h0 => rebuildMember_keeps h0)

theorem tryRebuilds_keeps (h : Keeps s₀ s) : Keeps s₀ (tryRebuilds s) :=
  foldNat_keeps h (fun _ _ h0 => foldNat_keeps (tryRebuild_keeps h0) (fun _ _ h1 => retryMigration_keeps h1))

theorem storeCount_keeps {n : Nat} (h : Keeps s₀ s) : Keeps s₀ (storeCount s n) := State.updCask_keeps h

theorem enterRemovable_keeps {n : Nat} (h : Keeps s₀ s) : Keeps s₀ (enterRemovable s n) :=
  raiseCask_keeps (State.updCask_keeps (Keeps.ite (storeCount_keeps h) h))

theorem endSeq_keeps {seq status : Nat} {det : List Byte} (h : Keeps s₀ s) : Keeps s₀ (endSeq s seq status det) := by
  unfold endSeq
  split
  · exact endCmd_keeps h
  · exact h

theorem freeMember_keeps {n : Nat} (h : Keeps s₀ s) : Keeps s₀ (freeMember s n) := by
  unfold freeMember
  exact Keeps.ite (by
    dsimp only
    split
    · exact endSeq_keeps (State.updCask_keeps (enterRemovable_keeps h))
    · exact State.updCask_keeps (enterRemovable_keeps h)) (State.updCask_keeps h)

theorem tryDissolve_keeps {i : Nat} (h : Keeps s₀ s) : Keeps s₀ (tryDissolve s i) := by
  unfold tryDissolve
  split
  · exact h
  · exact Keeps.ite h (tryRebuilds_keeps (noteSet_keeps (Keeps.foldl (disown_keeps (Keeps.mk h)) fun _ _ h0 => Keeps.ite h0 (freeMember_keeps h0))))

theorem deleteNs_keeps {c : Cmd} (h : Keeps s₀ s) : Keeps s₀ (deleteNs s c) := by
  unfold deleteNs
  split
  · exact endCmd_keeps h
  · exact Keeps.ite (endCmd_keeps h) (tryDissolve_keeps (endCmd_keeps (State.updPset_keeps (State.setNss_keeps h))))

theorem State.updNs_keeps {n : Nat} {f : Namespace → Namespace} (h : Keeps s₀ s) : Keeps s₀ (State.updNs s n f) := by
  unfold State.updNs
  split
  · exact h
  · exact Keeps.mk h

theorem attachNs_keeps {c : Cmd} (h : Keeps s₀ s) : Keeps s₀ (attachNs s c) := by
  unfold attachNs
  dsimp only
  split
  · exact endCmd_keeps h
  · exact Keeps.ite (Keeps.ite (endCmd_keeps h) (Keeps.ite (endCmd_keeps h) (endCmd_keeps (State.updNs_keeps h)))) (Keeps.ite (endCmd_keeps h)
      (State.updCmd_keeps (State.updNs_keeps h)))

theorem identify_keeps {c : Cmd} (h : Keeps s₀ s) : Keeps s₀ (identify s c) := by
  unfold identify
  dsimp only
  split
  · exact endCmd_keeps h
  · exact endCmd_keeps (hostWrite_keeps h)

theorem loseTarget_keeps {n : Nat} (h : Keeps s₀ s) : Keeps s₀ (loseTarget s n) := by
  unfold loseTarget
  split
  · exact h
  · exact Keeps.ite (tryRebuild_keeps (changeSet_keeps (disown_keeps h))) (retryMigration_keeps (changeSet_keeps (disown_keeps h)))

theorem writeRecords_keeps {i : Nat} (h : Keeps s₀ s) : Keeps s₀ (writeRecords s i) := by
  unfold writeRecords
  split
  · exact h
  · exact Keeps.foldl h fun _ _ h0 => Keeps.ite h0 (State.updCask_keeps h0)

theorem loseMember_keeps {n : Nat} (h : Keeps s₀ s) : Keeps s₀ (loseMember s n) := by
  unfold loseMember
  split
  · exact h
  · exact beginCopies_keeps (tryRebuild_keeps (writeRecords_keeps (changeSet_keeps (disown_keeps h))))

theorem leaveSet_keeps {n : Nat} (h : Keeps s₀ s) : Keeps s₀ (leaveSet s n) := loseMember_keeps (enterRemovable_keeps h)

theorem prepareRemove_keeps {c : Cmd} (h : Keeps s₀ s) : Keeps s₀ (prepareRemove s c) := by
  unfold prepareRemove
  exact Keeps.ite (endCmd_keeps h) (Keeps.ite (endCmd_keeps (Keeps.ite (loseTarget_keeps (enterRemovable_keeps h)) (enterRemovable_keeps h)))
    (Keeps.ite (by
    split
    · exact endCmd_keeps h
    · split
      · exact State.updCmd_keeps (startMigration_keeps (State.updCask_keeps h))
      · exact Keeps.ite (endCmd_keeps h) (Keeps.ite (endCmd_keeps h) (endCmd_keeps (leaveSet_keeps h)))) (endCmd_keeps h)))

theorem State.updBoot_keeps {f : Boot → Boot} (h : Keeps s₀ s) : Keeps s₀ (State.updBoot s f) := Keeps.mk h

theorem fwStage_keeps {c : Cmd} {bs : List Byte} (h : Keeps s₀ s) : Keeps s₀ (fwStage s c bs) := endCmd_keeps (State.updBoot_keeps h)

theorem fwStageStart_keeps {c : Cmd} (h : Keeps s₀ s) : Keeps s₀ (fwStageStart s c) := by
  unfold fwStageStart
  split
  · exact endCmd_keeps h
  · exact Keeps.ite (fwStage_keeps h) (awaitStruct_keeps h)

theorem State.updPwr_keeps {f : Pwr → Pwr} (h : Keeps s₀ s) : Keeps s₀ (State.updPwr s f) := Keeps.mk h

theorem fwCommit_keeps {c : Cmd} (h : Keeps s₀ s) : Keeps s₀ (fwCommit s c) := by
  unfold fwCommit
  exact Keeps.ite (endCmd_keeps h) (by
    split
    · exact endCmd_keeps h
    · exact Keeps.ite (endCmd_keeps h) (endCmd_keeps (Keeps.ite (State.updPwr_keeps (State.updBoot_keeps h)) (State.updBoot_keeps h))))

theorem noWalk_keeps {idx reason va acc : Nat} (h : Keeps s₀ s) : Keeps s₀ (noWalk s idx reason va acc).2 := State.stamp_keeps h

theorem installLeaf_keeps {u : WalkUnit} {w : Walk} {e : TlbEntry} (h : Keeps s₀ s) : Keeps s₀ (installLeaf s u w e) := Keeps.ite h (updTlb_keeps h)

theorem walkAll_keeps {n : Nat} {u : WalkUnit} {p : Nat} {w : Walk} (h : Keeps s₀ s) : Keeps s₀ (walkAll n s u p w).2 := by
  induction n generalizing s w with
  | zero => exact h
  | succ n ih =>
    unfold walkAll
    split
    next heq => exact ih (keeps_snd (walkRead_keeps h) heq)
    next heq => exact installLeaf_keeps (keeps_snd (walkRead_keeps h) heq)
    next heq => exact keeps_snd (walkRead_keeps h) heq

theorem keepResult_keeps {u : WalkUnit} {w : Walk} {r : Except Exc TlbEntry} (h : Keeps s₀ s) : Keeps s₀ (keepResult s u w r) := updTlb_keeps h

theorem finishWalk_keeps {u : WalkUnit} {p : Nat} {w : Walk} (h : Keeps s₀ s) : Keeps s₀ (finishWalk s u p w) := by
  unfold finishWalk
  split
  next s0 heq =>
    have hs0 := keeps_snd (walkAll_keeps h) heq
    exact Keeps.ite (keepResult_keeps hs0) (updTlb_keeps hs0)
  next s1 heq => exact keepResult_keeps (keeps_snd (walkAll_keeps h) heq)

theorem leaveWalk_keeps {t p : Nat} {mine : Walk → Bool} {left : WalkRes → Bool} (h : Keeps s₀ s) : Keeps s₀ (leaveWalk s t p mine left) := by
  unfold leaveWalk
  exact updTlb_keeps (by
    split
    · exact Keeps.ite h (finishWalk_keeps h)
    · exact h)

theorem takeResult_keeps {u : WalkUnit} {va : Nat} {k : AccessKind} {r : Except Exc TlbEntry × State} (h : Keeps s₀ s)
    (he : takeResult s u va k = some r) :
    Keeps s₀ r.2 := by
  unfold takeResult at he
  split at he
  · split at he
    · cases he
      exact updTlb_keeps h
    · cases he
  · cases he

theorem findEntry_keeps {u : WalkUnit} {p va : Nat} {k : AccessKind} (h : Keeps s₀ s) : Keeps s₀ (findEntry s u p va k).2 := by
  unfold findEntry
  extract_lets s1 s2
  have h1 : Keeps s₀ s1 := by
    unfold s1
    split
    · exact leaveWalk_keeps h
    · exact h
  have h2 : Keeps s₀ s2 := by
    unfold s2
    split
    · exact Keeps.ite h1 (State.updTile_keeps h1)
    · exact h1
  split
  · exact h1
  · split
    next heq => exact takeResult_keeps h2 heq
    · exact walkAll_keeps h2
    · extract_lets r s3
      split
      · exact updTlb_keeps (walkAll_keeps h2)
      · have h3 : Keeps s₀ s3 := finishWalk_keeps h2
        clear_value s3
        split
        · exact h3
        · exact walkAll_keeps h3

theorem translate_keeps {u : WalkUnit} {va : Nat} {k : AccessKind} (h : Keeps s₀ s) : Keeps s₀ (translate s u va k).2 := by
  unfold translate
  extract_lets acc
  split
  · exact noWalk_keeps (idx := 0) (reason := 5) (va := va) (acc := acc) h
  · split
    · exact noWalk_keeps (idx := 1) (reason := 0x14) (va := va) (acc := acc) h
    · split
      next heq => exact keeps_snd (findEntry_keeps h) heq
      next heq =>
        extract_lets dpa
        split
        · exact keeps_snd (findEntry_keeps h) heq
        · exact keeps_snd (findEntry_keeps h) heq

theorem State.updChan_keeps {g c : Nat} {f : Chan → Chan} (h : Keeps s₀ s) : Keeps s₀ (State.updChan s g c f) := State.updGroup_keeps h

theorem State.forget_keeps {lo hi : Nat} (h : Keeps s₀ s) : Keeps s₀ (State.forget s lo hi) := h.withMem (Mem.wf_forget _ _)

theorem forgetRun_keeps {dpa n : Nat} (h : Keeps s₀ s) : Keeps s₀ (forgetRun s dpa n) := Keeps.foldl h fun _ _ h0 => State.forget_keeps h0

theorem disownReads_keeps {g c : Nat} (h : Keeps s₀ s) : Keeps s₀ (disownReads s g c) := Keeps.mk h

theorem snoopEnd_keeps {g c : Nat} {isDone : Bool} (h : Keeps s₀ s) : Keeps s₀ (snoopEnd s g c isDone) := by
  unfold snoopEnd
  dsimp only
  split
  · exact h
  · exact Keeps.ite h (State.updChan_keeps (State.updEng_keeps h))

theorem abortChan_keeps {g c : Nat} (h : Keeps s₀ s) : Keeps s₀ (abortChan s g c) :=
  Keeps.ite h (State.updChan_keeps (State.updGroup_keeps (disownReads_keeps (snoopEnd_keeps h))))

theorem orphanChan_keeps {p vintage g c : Nat} (h : Keeps s₀ s) : Keeps s₀ (orphanChan s p vintage g c) := by
  unfold orphanChan
  exact State.updChan_keeps (abortChan_keeps (by
    split
    · exact Keeps.foldl (State.updChan_keeps h) fun _ _ h0 => forgetRun_keeps h0
    · exact h))

theorem reachRun_keeps {u : WalkUnit} {va : Nat} {wr : Bool} {r : Reach} (h : Keeps s₀ s) : Keeps s₀ (reachRun s u va wr r).2 := by
  unfold reachRun
  split
  next heq => exact keeps_snd (translate_keeps h) heq
  next s1 heq =>
    have h1 := keeps_snd (translate_keeps h) heq
    extract_lets s2
    have h2 : Keeps s₀ s2.2 := by
      unfold s2
      split
      · exact translate_keeps h1
      · exact h1
    clear_value s2
    split
    · exact h2
    · split
      · exact h2
      · exact h2

theorem forgetVa_keeps {u : WalkUnit} {va n : Nat} (h : Keeps s₀ s) : Keeps s₀ (forgetVa s u va n) := by
  unfold forgetVa
  exact Keeps.foldl h fun _ _ h0 => by
    split
    · exact forgetRun_keeps h0
    · exact h0

theorem sortForget_keeps {p e : Nat} {j : EngJob} (h : Keeps s₀ s) : Keeps s₀ (sortForget s p e j) := Keeps.foldl h fun _ _ h0 => forgetVa_keeps h0

theorem sortQuiet_keeps {e : Nat} {post : Nat → Bool} (h : Keeps s₀ s) : Keeps s₀ (sortQuiet s e post) := h.withMem id

theorem sortDiscard_keeps {p e : Nat} (h : Keeps s₀ s) : Keeps s₀ (sortDiscard s p e) :=
  State.updEng_keeps (Keeps.foldl (sortQuiet_keeps h) fun _ _ h0 => sortForget_keeps h0)

theorem forgetSlot_keeps {e : Nat} {j : EngJob} {halves : Nat} (h : Keeps s₀ s) : Keeps s₀ (forgetSlot s e j halves) := forgetVa_keeps h

theorem cmpDiscard_keeps {e : Nat} (h : Keeps s₀ s) : Keeps s₀ (cmpDiscard s e) :=
  State.updEng_keeps (Keeps.foldl h fun _ _ h0 => Keeps.ite (forgetSlot_keeps (forgetVa_keeps h0)) (forgetVa_keeps h0))

theorem unbindSnoop_keeps {p e : Nat} (h : Keeps s₀ s) : Keeps s₀ (unbindSnoop s p e) := Keeps.foldl h fun _ _ h0 => State.updGroup_keeps h0

theorem dgtDiscard_keeps {p e : Nat} (h : Keeps s₀ s) : Keeps s₀ (dgtDiscard s p e) :=
  unbindSnoop_keeps (State.updEng_keeps (Keeps.foldl h fun _ _ h0 => Keeps.ite (forgetVa_keeps h0) h0))

theorem State.updDsp_keeps {p : Nat} {f : Dsp → Dsp} (h : Keeps s₀ s) : Keeps s₀ (State.updDsp s p f) := State.updParcel_keeps h

theorem dspDiscard_keeps {p : Nat} (h : Keeps s₀ s) : Keeps s₀ (dspDiscard s p) :=
  State.updDsp_keeps (Keeps.foldl h fun _ _ h0 => State.updTile_keeps h0)

theorem dropUnit_keeps {u : WalkUnit} (h : Keeps s₀ s) : Keeps s₀ (dropUnit s u) := updTlb_keeps (invUnit_keeps h)

theorem flushUnit_keeps {u : WalkUnit} (h : Keeps s₀ s) : Keeps s₀ (flushUnit s u) := updTlb_keeps (dropUnit_keeps h)

theorem resetTile_keeps {t : Nat} (h : Keeps s₀ s) : Keeps s₀ (resetTile s t) := flushUnit_keeps (State.updTile_keeps h)

theorem resetUnit_keeps {u : WalkUnit} (h : Keeps s₀ s) : Keeps s₀ (resetUnit s u) := by
  unfold resetUnit
  split
  · exact flushUnit_keeps h
  · exact dropUnit_keeps h

theorem State.updDgt_keeps {f : DgtCtl → DgtCtl} (h : Keeps s₀ s) : Keeps s₀ (State.updDgt s f) := Keeps.mk h

theorem pubClear_keeps {page : Nat} (h : Keeps s₀ s) : Keeps s₀ (pubClear s page) := State.updDgt_keeps h

theorem emptyKeys_keeps {p : Nat} (h : Keeps s₀ s) : Keeps s₀ (emptyKeys s p) := State.updDgt_keeps h

theorem together_keeps {f : State → State} (h : Keeps s₀ s) (hf : ∀ s, Keeps s₀ s → Keeps s₀ (f s)) : Keeps s₀ (together s f) :=
  Keeps.foldl (Keeps.mk (hf _ (Keeps.mk h))) fun _ _ h0 => drainWin_keeps (State.updWin_keeps h0)

theorem endParcelCmds_keeps {p : Nat} {silent : Window → Bool} (h : Keeps s₀ s) : Keeps s₀ (endParcelCmds s p silent) :=
  together_keeps (Keeps.mk h) (fun _ h0 => Keeps.foldl h0 fun _ _ h1 => Keeps.ite (dropCmd_keeps h1) (endCmd_keeps h1))

theorem State.updMchan_keeps {c : Nat} {f : Mbx → Mbx} (h : Keeps s₀ s) : Keeps s₀ (State.updMchan s c f) := Keeps.mk h

theorem releaseLocks_keeps {who : Nat} (h : Keeps s₀ s) : Keeps s₀ (releaseLocks s who) := Keeps.mk h

theorem clearSources_keeps {p : Nat} (h : Keeps s₀ s) : Keeps s₀ (clearSources s p) := Keeps.mk h

theorem resetShared_keeps {p : Nat} (h : Keeps s₀ s) : Keeps s₀ (resetShared s p) :=
  clearSources_keeps (Keeps.ite (State.updMchan_keeps (State.updMchan_keeps h)) (releaseLocks_keeps (State.updMchan_keeps (State.updMchan_keeps h))))

theorem stopParcel_keeps {p : Nat} {silent : Window → Bool} (h : Keeps s₀ s) : Keeps s₀ (stopParcel s p silent) := by
  unfold stopParcel
  refine endParcelCmds_keeps (resetShared_keeps (State.updParcel_keeps (pubClear_keeps (emptyKeys_keeps ?_))))
  refine foldl_keeps _ _ (foldl_keeps _ _ (dspDiscard_keeps ?_) fun _ _ => resetTile_keeps) fun _ _ => resetUnit_keeps
  refine Keeps.foldl (Keeps.foldl (Keeps.foldl ?_ fun _ _ => sortDiscard_keeps) fun _ _ => cmpDiscard_keeps) fun _ _ => dgtDiscard_keeps
  exact Keeps.foldl (Keeps.mk (State.updParcel_keeps h)) fun _ _ hg =>
    State.updGroup_keeps (Keeps.foldl hg fun _ _ => orphanChan_keeps)

theorem destroyStart_keeps {c : Cmd} (h : Keeps s₀ s) : Keeps s₀ (destroyStart s c) :=
  Keeps.ite (endCmd_keeps h) (stopParcel_keeps (State.updParcel_keeps (State.updCmd_keeps h)))

theorem resetStart_keeps {c : Cmd} (h : Keeps s₀ s) : Keeps s₀ (resetStart s c) :=
  Keeps.ite (endCmd_keeps h) (stopParcel_keeps (State.updParcel_keeps (State.updCmd_keeps h)))

theorem startCmd_keeps {c : Cmd} (h : Keeps s₀ s) : Keeps s₀ (startCmd s c) := by
  unfold startCmd
  dsimp only
  split
  · exact startStorage_keeps h
  · exact startStorage_keeps h
  · exact startStorage_keeps h
  · exact startStorage_keeps h
  · exact fetchNow_keeps h
  · exact cancelStart_keeps h
  · exact resumeStart_keeps h
  · exact queryStart_keeps h
  · exact editTables_keeps h
  · exact editTables_keeps h
  · exact cellarCopy_keeps h
  · exact awaitStruct_keeps h
  · exact deleteNs_keeps h
  · exact attachNs_keeps h
  · exact identify_keeps h
  · exact prepareRemove_keeps h
  · exact fwStageStart_keeps h
  · exact fwCommit_keeps h
  · exact awaitStruct_keeps h
  · exact destroyStart_keeps h
  · exact resetStart_keeps h
  · exact h

theorem beginCmd_keeps {c : Cmd} (h : Keeps s₀ s) : Keeps s₀ (beginCmd s c) := startCmd_keeps (State.updCmd_keeps (renumber_keeps h))

theorem beginLoad_keeps {c : Cmd} {p : Nat} (h : Keeps s₀ s) : Keeps s₀ (beginLoad s c p) := State.updCmd_keeps (State.updParcel_keeps h)

theorem settleOne_keeps {s' : State} (h : Keeps s₀ s) (he : settleOne s = some s') : Keeps s₀ s' := by
  unfold settleOne at he
  split at he
  · cases he
    exact State.updCmd_keeps h
  · split at he
    · cases he
      exact beginCmd_keeps h
    · split at he
      · cases he
        exact beginLoad_keeps h
      · cases he

theorem settleLoop_keeps {n : Nat} (h : Keeps s₀ s) : Keeps s₀ (settleLoop n s) := by
  induction n generalizing s with
  | zero => exact h
  | succ n ih =>
    unfold settleLoop
    split
    next heq => exact ih (settleOne_keeps h heq)
    · exact h

theorem sendLtr_keeps (h : Keeps s₀ s) : Keeps s₀ (sendLtr s) := Keeps.mk h

theorem State.updHlt_keeps {f : Hlt → Hlt} (h : Keeps s₀ s) : Keeps s₀ (State.updHlt s f) := Keeps.mk h

theorem seqUpdate_keeps {f : State → State} (h : Keeps s₀ s) (hf : ∀ s, Keeps s₀ s → Keeps s₀ (f s)) : Keeps s₀ (seqUpdate s f) :=
  State.updHlt_keeps (hf _ h)

theorem noteCaskEol_keeps (h : Keeps s₀ s) : Keeps s₀ (noteCaskEol s) := Keeps.ite h (seqUpdate_keeps h (fun _ h0 => State.updHlt_keeps h0))

theorem State.updInd_keeps {i : Nat} {f : Indicator → Indicator} (h : Keeps s₀ s) : Keeps s₀ (State.updInd s i f) := State.updHlt_keeps h

theorem carryLines_keeps (h : Keeps s₀ s) : Keeps s₀ (carryLines s) := foldNat_keeps h (fun _ _ h0 => State.updInd_keeps h0)

theorem memAfter_wf {warm : Bool} (h : s.mem.wf = true) : (memAfter s warm).wf = true := by
  unfold memAfter
  split
  · exact cellsWfFrom_filter _ h
  · exact Mem.wf_unknown h

theorem Frm.restart_legal {F : Frm} (h : F.legal) : F.restart.legal := by
  obtain ⟨hlo, hhi, -, -, hhold, -⟩ := h
  exact ⟨hlo, hhi, hlo, hhi, hhold, hhold⟩

theorem Keeps.unitsReset {F : Frm} {m : Mem} (h : Keeps s₀ s) (hm : s.mem.wf = true → m.wf = true) (hF : s.frm.legal → F.legal) : Kept s₀ m F :=
  ⟨fun h0 => hm (h.1 h0), fun h0 => hF (h.2 h0)⟩

theorem resetUnits_keeps {warm : Bool} (h : Keeps s₀ s) : Keeps s₀ (resetUnits s warm) := by
  unfold resetUnits
  extract_lets s1
  have h1 : Keeps s₀ s1 := Keeps.ite h (carryLines_keeps h)
  exact Keeps.mk (h1.unitsReset memAfter_wf Frm.restart_legal)

theorem mapStripe_keeps {i : Nat} {c : Closing} (h : Keeps s₀ s) : Keeps s₀ (mapStripe s i c) :=
  Keeps.foldl (State.updPset_keeps h) fun _ _ h0 => State.updNs_keeps h0

theorem commitStripe_keeps {i : Nat} (h : Keeps s₀ s) : Keeps s₀ (commitStripe s i).2 := by
  unfold commitStripe
  split
  · exact h
  · split
    · exact h
    · exact mapStripe_keeps (State.updPset_keeps h)

theorem commitAll_keeps {i : Nat} (h : Keeps s₀ s) : Keeps s₀ (commitAll s i) :=
  foldNat_keeps (State.updPset_keeps h) (fun _ _ h0 => commitStripe_keeps h0)

theorem commitSets_keeps (h : Keeps s₀ s) : Keeps s₀ (commitSets s) := foldNat_keeps h (fun _ _ h0 => commitAll_keeps (closeStripe_keeps h0))

theorem enterRecovery_keeps (h : Keeps s₀ s) : Keeps s₀ (enterRecovery s) := State.updPort_keeps (State.updBoot_keeps h)

theorem pubPut_keeps {page slot alg source vintage : Nat} {d : List Byte} (h : Keeps s₀ s) : Keeps s₀ (pubPut s page slot alg source vintage d) :=
  State.updDgt_keeps h

theorem State.setKey_keeps {n : Nat} {k : KeySlot} (h : Keeps s₀ s) : Keeps s₀ (State.setKey s n k) := State.updDgt_keeps h

theorem bindOwn_keeps {m : Nat} (h : Keeps s₀ s) : Keeps s₀ (bindOwn s m) := State.updMchan_keeps (State.updMchan_keeps (Keeps.mk h))

theorem caskPowerOn_keeps {n : Nat} (h : Keeps s₀ s) : Keeps s₀ (caskPowerOn s n) := State.updCask_keeps h

theorem firmwareEnter_keeps (h : Keeps s₀ s) : Keeps s₀ (firmwareEnter s) :=
  foldNat_keeps (foldNat_keeps (foldNat_keeps (Keeps.mk (State.setKey_keeps h)) (fun _ _ h0 => bindOwn_keeps h0))
    (fun _ _ h1 => State.updEvSrc_keeps h1)) (fun _ _ h2 => caskPowerOn_keeps h2)

theorem enterImage_keeps {img : List Byte} (h : Keeps s₀ s) : Keeps s₀ (enterImage s img) :=
  firmwareEnter_keeps (State.updBoot_keeps (Keeps.mk (pubPut_keeps (pubPut_keeps h))))

theorem enterSlot_keeps {b : Bool} (h : Keeps s₀ s) : Keeps s₀ (enterSlot s b) := enterImage_keeps (Keeps.mk h)

theorem bootRom_keeps {setMode : Bool} (h : Keeps s₀ s) : Keeps s₀ (bootRom s setMode) := by
  have mode {s m} (h : Keeps s₀ s) : Keeps s₀ (if setMode then { s with ports := { s.ports with bifurcated := m } } else s) :=
    Keeps.ite (Keeps.mk h) h
  unfold bootRom
  extract_lets s1 modeOf
  have h1 : Keeps s₀ s1 := State.updBoot_keeps h
  clear_value s1
  split
  · exact enterRecovery_keeps (mode h1)
  · exact enterRecovery_keeps (mode (State.updBoot_keeps h1))
  · extract_lets s2 next first s3
    have h2 : Keeps s₀ s2 := mode h1
    have h3 : Keeps s₀ s3 := State.updBoot_keeps h2
    exact Keeps.ite (enterSlot_keeps h2) (Keeps.ite (enterSlot_keeps h3) (enterRecovery_keeps (mode (State.updBoot_keeps h3))))

theorem warmReset_keeps {cause : Nat} (h : Keeps s₀ s) : Keeps s₀ (warmReset s cause) :=
  Keeps.ite h (bootRom_keeps (State.updPwr_keeps (resetUnits_keeps (commitSets_keeps h))))

theorem resetIfDue_keeps (h : Keeps s₀ s) : Keeps s₀ (resetIfDue s) := by
  unfold resetIfDue
  split
  · exact Keeps.ite (warmReset_keeps h) h
  · exact h

theorem settle_keeps (h : Keeps s₀ s) : Keeps s₀ (settle s) :=
  sendLtr_keeps (noteCaskEol_keeps (resetIfDue_keeps (settleLoop_keeps (endDetaches_keeps (settleLoop_keeps h)))))

theorem raiseParcel_keeps {p cause : Nat} (h : Keeps s₀ s) : Keeps s₀ (raiseParcel s p cause) := raise_keeps h

theorem noteQuiet_keeps {t : State} (h : Keeps s₀ t) : Keeps s₀ (noteQuiet s t) :=
  Keeps.ite h (foldNat_keeps h fun _ _ h => Keeps.ite (raiseParcel_keeps h) h)

theorem settleFrom_keeps {t : State} (h : Keeps s₀ t) : Keeps s₀ (settleFrom s t) := settle_keeps (noteQuiet_keeps h)

theorem State.updFrm_keeps {f : Frm → Frm} (h : Keeps s₀ s) (hf : s.frm.legal → (f s.frm).legal) : Keeps s₀ (State.updFrm s f) := h.withFrm hf

theorem failExec_keeps {p : Nat} {r : StopRec} (h : Keeps s₀ s) : Keeps s₀ (failExec s p r) := State.updParcel_keeps h

theorem putLines_keeps {dpa : Nat} {bs : List (Byte × Bool)} (h : Keeps s₀ s) : Keeps s₀ (putLines s dpa bs) :=
  Keeps.foldl h fun _ _ h0 => fabricWrite_keeps h0

theorem deliver_keeps {p src sv : Nat} {x : Send} {dv : Nat} {payload : List (Byte × Bool)} (h : Keeps s₀ s) :
    Keeps s₀ (deliver s p src sv x dv payload) := by
  unfold deliver
  dsimp only
  split
  · exact h
  · exact Keeps.ite (failExec_keeps (State.updTile_keeps h)) (State.updTile_keeps (putLines_keeps h))

theorem deliverFan_keeps {p t sv : Nat} {r : Route} {x : Send} (h : Keeps s₀ s) : Keeps s₀ (deliverFan s p t sv r x) := by
  unfold deliverFan
  exact Keeps.foldl (by
    split
    · exact failExec_keeps h
    · exact h) fun _ _ h0 => Keeps.ite h0 (deliver_keeps h0)

theorem deliverSend_keeps {t : Nat} (h : Keeps s₀ s) : Keeps s₀ (deliverSend s t) := by
  unfold deliverSend
  split
  · exact h
  · exact Keeps.ite h (by
      dsimp only
      split
      · exact Keeps.ite (deliverFan_keeps (State.updTile_keeps h)) (deliver_keeps (State.updTile_keeps h))
      · exact State.updTile_keeps h)

theorem deliverAll_keeps {t : Nat} (h : Keeps s₀ s) : Keeps s₀ (deliverAll s t) := Keeps.foldl h fun _ _ h0 => deliverSend_keeps h0

theorem forgetStores_keeps {P : Parcel} (h : Keeps s₀ s) : Keeps s₀ (forgetStores s P) := h.withMem id

theorem State.tsWrite_keeps {t off : Nat} {bs : List Byte} (h : Keeps s₀ s) : Keeps s₀ (State.tsWrite s t off bs) := h.withMem (Mem.wf_store _ _ _)

theorem poisonJob_keeps {p code : Nat} (h : Keeps s₀ s) : Keeps s₀ (poisonJob s p code) := Keeps.ite (failExec_keeps h) h

theorem raiseEng_keeps {k : EngKind} {n : Nat} (h : Keeps s₀ s) : Keeps s₀ (raiseEng s k n) := Keeps.ite (raise_keeps h) h

theorem countJob_keeps {k : EngKind} {e : Nat} {j : EngJob} {code reason inBytes outBytes va frame : Nat} {ev : Bool} (h : Keeps s₀ s) :
    Keeps s₀ (countJob s k e j code reason inBytes outBytes va frame ev) :=
  Keeps.ite (raiseEng_keeps (State.updEng_keeps h)) (State.updEng_keeps h)

theorem sortPublish_keeps {p e : Nat} {j : EngJob} {o : JobOutcome} (h : Keeps s₀ s) : Keeps s₀ (sortPublish s p e j o) :=
  poisonJob_keeps (countJob_keeps (State.tsWrite_keeps (putAll_keeps (sortQuiet_keeps h))))

theorem lateJob_keeps {p : Nat} {k : EngKind} {e : Nat} (h : Keeps s₀ s) : Keeps s₀ (lateJob s p k e) :=
  failExec_keeps (raiseEng_keeps (State.updEng_keeps h))

theorem State.updJob_keeps {k : EngKind} {e post : Nat} {f : EngJob → EngJob} (h : Keeps s₀ s) : Keeps s₀ (State.updJob s k e post f) :=
  State.updEng_keeps h

theorem sortBegin_keeps {p e : Nat} {j : EngJob} (h : Keeps s₀ s) : Keeps s₀ (sortBegin s p e j) :=
  State.updJob_keeps ((sortForget_keeps h).withMem id)

theorem sortStart_keeps {p e A : Nat} (h : Keeps s₀ s) : Keeps s₀ (sortStart s p e A) :=
  State.updEng_keeps (Keeps.foldl h fun _ _ h0 => sortBegin_keeps h0)

theorem sortAdmit_keeps {p e A : Nat} {j : EngJob} (h : Keeps s₀ s) : Keeps s₀ (sortAdmit s p e A j) := State.updEng_keeps (State.updJob_keeps h)

theorem sortAdmitAll_keeps {p e A : Nat} (h : Keeps s₀ s) : Keeps s₀ (sortAdmitAll s p e A) := Keeps.foldl h fun _ _ h0 => sortAdmit_keeps h0

theorem sortBoundary_keeps {p e A : Nat} (h : Keeps s₀ s) : Keeps s₀ (sortBoundary s p e A) := by
  unfold sortBoundary
  exact sortStart_keeps (sortAdmitAll_keeps (Keeps.foldl h fun _ _ h0 => by
    split
    · exact sortPublish_keeps h0
    · exact lateJob_keeps h0))

theorem cmpPublish_keeps {p e : Nat} {j : EngJob} {o : JobOutcome} (h : Keeps s₀ s) : Keeps s₀ (cmpPublish s p e j o) :=
  poisonJob_keeps (countJob_keeps (State.tsWrite_keeps (Keeps.ite (forgetSlot_keeps (forgetVa_keeps h)) (putAll_keeps h))))

theorem unitPrefix_keeps {u : WalkUnit} {va n : Nat} {wr : Bool} {r : Reach} (h : Keeps s₀ s) : Keeps s₀ (unitPrefix s u va n wr r).2.2 := by
  refine foldl_keeps (P := fun r : _ × _ × State => Keeps s₀ r.2.2) _ _ h fun acc run h => ?_
  split
  · exact h
  next s1 =>
    split
    next heq => exact keeps_snd (reachRun_keeps h) heq
    next s2 heq =>
      have h2 := keeps_snd (reachRun_keeps h) heq
      split
      · split
        next heq => exact keeps_snd_snd (fabricRead_keeps h2) heq
        next heq => exact keeps_snd_snd (fabricRead_keeps h2) heq
      · exact fabricRead_keeps h2

theorem unitRead_keeps {u : WalkUnit} {va n : Nat} {wr : Bool} {r : Reach} (h : Keeps s₀ s) : Keeps s₀ (unitRead s u va n wr r).2 := by
  unfold unitRead
  split
  next s0 heq => exact (keeps_snd_snd (unitPrefix_keeps h) heq)
  next s1 heq => exact (keeps_snd_snd (unitPrefix_keeps h) heq)

theorem suspendHalf_keeps {e : Nat} {j : EngJob} (h : Keeps s₀ s) : Keeps s₀ (suspendHalf s e j).2 := by
  unfold suspendHalf
  split
  next s0 heq => exact (keeps_snd (unitRead_keeps h) heq)
  next s1 heq => exact (keeps_snd (unitRead_keeps h) heq)

theorem slotRead_keeps {e : Nat} {j : EngJob} (h : Keeps s₀ s) : Keeps s₀ (slotRead s e j).2 := by
  unfold slotRead
  split
  · split
    next s0 heq => exact (keeps_snd (unitRead_keeps h) heq)
    next s1 heq => exact (keeps_snd (unitRead_keeps h) heq)
  · exact h

theorem unitPlaces_keeps {u : WalkUnit} {va n : Nat} {r : Reach} (h : Keeps s₀ s) : Keeps s₀ (unitPlaces s u va n r).2 := by
  refine foldl_keeps (P := fun r : _ × State => Keeps s₀ r.2) _ _ h fun acc run h => ?_
  split
  · exact h
  · split
    next heq => exact keeps_snd (reachRun_keeps h) heq
    next heq => exact keeps_snd (reachRun_keeps h) heq

theorem cmpRun_keeps {e upset : Nat} {j : EngJob} (h : Keeps s₀ s) : Keeps s₀ (cmpRun s e upset j).2.2 := by
  unfold cmpRun
  dsimp only
  split
  next s0 heq => exact (keeps_snd (slotRead_keeps h) heq)
  next s1 heq =>
    have hs1 := keeps_snd (slotRead_keeps h) heq
    split
    next s2 heq => exact (keeps_snd (unitPlaces_keeps (Keeps.mk (unitPrefix_keeps hs1))) heq)
    next s3 heq => exact (keeps_snd (unitPlaces_keeps (Keeps.mk (unitPrefix_keeps hs1))) heq)

theorem cmpPartial_keeps {e : Nat} {j : EngJob} (h : Keeps s₀ s) : Keeps s₀ (cmpPartial s e j).2 := Keeps.mk (cmpRun_keeps h)

theorem forgetMoved_keeps {p : Nat} {j : EngJob} (h : Keeps s₀ s) : Keeps s₀ (forgetMoved s p j) := by
  unfold forgetMoved
  split
  · exact Keeps.foldl h fun _ _ h0 => forgetVa_keeps h0
  · exact h

theorem cmpFail_keeps {p e : Nat} {j : EngJob} {r : CmpRun} {f : CmpFailure} (h : Keeps s₀ s) : Keeps s₀ (cmpFail s p e j r f) :=
  State.updJob_keeps (forgetMoved_keeps (forgetVa_keeps h))

theorem failHalf_keeps {p e : Nat} {j : EngJob} {x : UErr} (h : Keeps s₀ s) : Keeps s₀ (failHalf s p e j x) := cmpFail_keeps (cmpPartial_keeps h)

theorem cmpPickN_keeps {n p e : Nat} (h : Keeps s₀ s) : Keeps s₀ (cmpPickN n s p e) := by
  induction n generalizing s with
  | zero => exact h
  | succ n ih =>
    unfold cmpPickN
    extract_lets t
    have ht : Keeps s₀ t := State.updEng_keeps h
    split
    · refine Keeps.ite ?_ ht
      split
      next heq => exact keeps_snd (suspendHalf_keeps ht) heq
      next heq => exact ih (failHalf_keeps (keeps_snd (suspendHalf_keeps ht) heq))
    · exact ht

theorem cmpPick_keeps {p e : Nat} (h : Keeps s₀ s) : Keeps s₀ (cmpPick s p e) := cmpPickN_keeps h

theorem cmpCheck_keeps {p e : Nat} {j : EngJob} (h : Keeps s₀ s) : Keeps s₀ (cmpCheck s p e j).2 := by
  have hread : Keeps s₀ (if j.op 8 then unitRead s (engUnit .ce e) (j.f 0x30 8) 64 true .cellar else (.ok [], s)).2 := by
    split
    · exact unitRead_keeps h
    · exact h
  unfold cmpCheck
  split
  · exact h
  · split
    next heq =>
      have hs := keeps_snd hread heq
      split
      · exact hs
      · split
        · exact hs
        · split
          · exact hs
          · split
            · exact hs
            · exact hs

theorem cmpAdmit_keeps {p e A : Nat} {j : EngJob} (h : Keeps s₀ s) : Keeps s₀ (cmpAdmit s p e A j) := State.updEng_keeps (cmpCheck_keeps h)

theorem cmpBoundary_keeps {p e A : Nat} (h : Keeps s₀ s) : Keeps s₀ (cmpBoundary s p e A) := by
  unfold cmpBoundary
  exact cmpPick_keeps (Keeps.foldl (Keeps.foldl h fun _ _ h0 => by
    split
    · exact cmpPublish_keeps h0
    · exact lateJob_keeps h0) fun _ _ h1 => cmpAdmit_keeps h1)

theorem dgtSet_keeps {e : Nat} {j : EngJob} {r : JobOutcome × State} (h : Keeps s₀ r.2) : Keeps s₀ (dgtSet e j r) := State.updJob_keeps h

theorem readState_keeps {e : Nat} {j : EngJob} {n : Nat} (h : Keeps s₀ s) : Keeps s₀ (readState s e j n).2 := by
  unfold readState
  split
  · exact unitRead_keeps h
  · exact h

theorem dgtFinish_keeps {e : Nat} {j : EngJob} {st input : List Byte} (h : Keeps s₀ s) : Keeps s₀ (dgtFinish s e j st input).2 := by
  have hread (u : WalkUnit) : Keeps s₀ (if djOut j = 2 && djFinal j && !djKeyLoad j then unitRead s u (j.f 0x28 8) 64 false .cellarOrTiles else
    (.ok [], s)).2 := by
    split
    · exact unitRead_keeps h
    · exact h
  have hplaces (u : WalkUnit) (s : State) (h : Keeps s₀ s) : Keeps s₀ (if djSaves j then unitPlaces s u (j.f 0x18 8) 1024 .cellar else
    (.ok [], s)).2 := by
    split
    · exact unitPlaces_keeps h
    · exact h
  unfold dgtFinish
  extract_lets u
  split
  split
  next heq =>
    have h1 := keeps_snd (hread u) heq
    split
    · exact h1
    · split
      next heq =>
        have h2 := keeps_snd (hplaces u _ h1) heq
        split
        · exact h2
        · exact h2

theorem dgtBytes_keeps {e : Nat} {j : EngJob} {st input : List Byte} {stop : Option UErr} (h : Keeps s₀ s) :
    Keeps s₀ (dgtBytes s e j st input stop).2 := by
  unfold dgtBytes
  split
  · exact dgtFinish_keeps h
  · exact Keeps.mk h

theorem dgtSnooped_keeps {e : Nat} {j : EngJob} (h : Keeps s₀ s) : Keeps s₀ (dgtSnooped s e j).2 := by
  unfold dgtSnooped
  split
  next s0 heq => exact (keeps_snd (readState_keeps h) heq)
  next s1 heq => exact dgtBytes_keeps (keeps_snd (readState_keeps h) heq)

theorem dgtPublish_keeps {p e : Nat} {j : EngJob} {o : JobOutcome} (h : Keeps s₀ s) : Keeps s₀ (dgtPublish s p e j o) :=
  poisonJob_keeps (countJob_keeps (Keeps.ite (State.setKey_keeps (Keeps.ite (pubPut_keeps (State.tsWrite_keeps (putAll_keeps h)))
    (State.tsWrite_keeps (putAll_keeps h)))) (Keeps.ite (pubPut_keeps (State.tsWrite_keeps (putAll_keeps h))) (State.tsWrite_keeps
    (putAll_keeps h)))))

theorem dgtPublishDue_keeps {p e A : Nat} (h : Keeps s₀ s) : Keeps s₀ (dgtPublishDue s p e A) := by
  unfold dgtPublishDue
  extract_lets s1
  have h1 : Keeps s₀ s1 := by
    unfold s1
    split
    · exact dgtSet_keeps (dgtSnooped_keeps h)
    · exact h
  refine Keeps.foldl h1 fun _ _ h => ?_
  split
  · exact dgtPublish_keeps h
  · exact lateJob_keeps h

theorem dgtPick_keeps {e : Nat} (h : Keeps s₀ s) : Keeps s₀ (dgtPick s e) := State.updEng_keeps h

theorem dgtCheck_keeps {p e : Nat} {j : EngJob} (h : Keeps s₀ s) : Keeps s₀ (dgtCheck s p e j).2 := by
  unfold dgtCheck
  split
  · exact h
  · split
    · exact h
    · split
      · exact h
      · split
        next s0 heq => exact (keeps_snd (readState_keeps h) heq)
        next s1 heq =>
          have hs1 := keeps_snd (readState_keeps h) heq
          split
          · exact hs1
          · split
            · exact hs1
            · exact hs1

theorem dgtAdmit_keeps {p e A : Nat} {j : EngJob} (h : Keeps s₀ s) : Keeps s₀ (dgtAdmit s p e A j) := by
  unfold dgtAdmit
  split
  next heq =>
    have h1 := keeps_snd (dgtCheck_keeps h) heq
    extract_lets out key j j1 s2 t
    have h2 : Keeps s₀ s2 := State.updEng_keeps h1
    clear_value out
    split
    · split
      · exact dgtPublish_keeps h1
      · split
        · exact State.updChan_keeps h2
        · exact h2
    · exact State.updEng_keeps h1

theorem dgtAdmitAll_keeps {p e A : Nat} {l : List EngJob} (h : Keeps s₀ s) : Keeps s₀ (dgtAdmitAll s p e A l) := by
  induction l generalizing s with
  | nil => exact h
  | cons j l ih => exact Keeps.ite h (ih (dgtAdmit_keeps h))

theorem dgtBoundary_keeps {p e A : Nat} (h : Keeps s₀ s) : Keeps s₀ (dgtBoundary s p e A) := by
  unfold dgtBoundary
  dsimp only
  split
  · exact Keeps.ite (Keeps.ite h (State.updParcel_keeps h)) (dgtPick_keeps (dgtAdmitAll_keeps h))
  · exact dgtPick_keeps (dgtAdmitAll_keeps h)

theorem engineBoundary_keeps {p : Nat} (h : Keeps s₀ s) : Keeps s₀ (engineBoundary s p) :=
  Keeps.foldl (Keeps.foldl (Keeps.foldl (Keeps.foldl h fun _ _ h0 => sortBoundary_keeps h0) fun _ _ h1 => cmpBoundary_keeps h1) fun _ _ h2 => dgtPublishDue_keeps h2) fun _ _ h3 => dgtBoundary_keeps h3

theorem cancelWaiting_keeps {p : Nat} (h : Keeps s₀ s) : Keeps s₀ (cancelWaiting s p) := by
  unfold cancelWaiting
  exact Keeps.foldl h fun _ _ h0 => by
    split
    · exact Keeps.ite (endCmd_keeps (endCmd_keeps h0)) h0
    · exact h0

theorem forgetMapped_keeps {p va n : Nat} (h : Keeps s₀ s) : Keeps s₀ (forgetMapped s p va n) := by
  unfold forgetMapped
  exact Keeps.foldl h fun _ _ h0 => by
    split
    · exact forgetRun_keeps h0
    · exact h0

theorem forgetOutputs_keeps {p : Nat} {I : Image} {param : List Byte} (h : Keeps s₀ s) : Keeps s₀ (forgetOutputs s p I param) :=
  Keeps.foldl h fun _ _ h0 => forgetMapped_keeps h0

theorem endExecute_keeps {p : Nat} {x : Exec} {status : Nat} {det : List Byte} (h : Keeps s₀ s) : Keeps s₀ (endExecute s p x status det) := by
  unfold endExecute
  extract_lets P s1 s2 s3 s4 s5 s6 s7 s8
  have h1 : Keeps s₀ s1 := Keeps.ite h (forgetOutputs_keeps h)
  have h2 : Keeps s₀ s2 := Keeps.foldl h1 fun _ _ h => Keeps.foldl h fun _ _ h => Keeps.ite (abortChan_keeps h) h
  have h3 : Keeps s₀ s3 := Keeps.foldl h2 fun _ _ h => sortDiscard_keeps h
  have h4 : Keeps s₀ s4 := Keeps.foldl h3 fun _ _ h => cmpDiscard_keeps h
  have h5 : Keeps s₀ s5 := Keeps.foldl h4 fun _ _ h => dgtDiscard_keeps h
  have h7 : Keeps s₀ s7 := Keeps.foldl (dspDiscard_keeps h5) fun _ _ h => State.updTile_keeps h
  have h8 : Keeps s₀ s8 := State.updParcel_keeps h7
  split
  · exact h8
  · exact endCmd_keeps (Keeps.mk h8)

theorem endResumes_keeps {l : List Cmd} {status : Nat} (h : Keeps s₀ s) : Keeps s₀ (endResumes s l status) :=
  Keeps.foldl h fun _ _ h0 => endCmd_keeps h0

theorem raiseChan_keeps {g c e : Nat} (h : Keeps s₀ s) : Keeps s₀ (raiseChan s g c e) := Keeps.ite (raise_keeps h) h

theorem haltChan_keeps {g c err : Nat} (h : Keeps s₀ s) : Keeps s₀ (haltChan s g c err) := by
  unfold haltChan
  dsimp only
  split
  · exact failExec_keeps (raiseChan_keeps (State.updChan_keeps (disownReads_keeps (snoopEnd_keeps h))))
  · exact raiseChan_keeps (State.updChan_keeps (disownReads_keeps (snoopEnd_keeps h)))

theorem addRequest_keeps {g c src : Nat} {due : Bool} (h : Keeps s₀ s) : Keeps s₀ (addRequest s g c src due) :=
  Keeps.ite h (Keeps.ite (haltChan_keeps h) (State.updChan_keeps h))

theorem openChan_keeps {g c : Nat} (h : Keeps s₀ s) : Keeps s₀ (openChan s g c) :=
  Keeps.foldl (State.updChan_keeps h) fun _ _ h0 => addRequest_keeps h0

theorem openFrame_keeps {p : Nat} (h : Keeps s₀ s) : Keeps s₀ (openFrame s p) :=
  Keeps.foldl (Keeps.foldl h fun _ _ h0 => State.updTile_keeps h0) fun _ _ h1 => Keeps.foldl h1 fun _ _ h2 => openChan_keeps h2

theorem countHold_keeps {P : Parcel} {k : Nat} (h : Keeps s₀ s) : Keeps s₀ (countHold s P k) := Keeps.foldl h fun _ _ h0 => State.updTile_keeps h0

theorem dropStale_keeps {p : Nat} (h : Keeps s₀ s) : Keeps s₀ (dropStale s p) := State.updParcel_keeps (State.updDsp_keeps h)

theorem admitOne_keeps {p : Nat} {d : DItem} (h : Keeps s₀ s) : Keeps s₀ (admitOne s p d) := State.updDsp_keeps h

theorem admitItems_keeps {p : Nat} {f : DItem → Bool} (h : Keeps s₀ s) : Keeps s₀ (admitItems s p f) :=
  Keeps.foldl (State.updDsp_keeps (dropStale_keeps h)) fun _ _ h0 => admitOne_keeps h0

theorem closeStage_keeps {p : Nat} {e : StageEntry} (h : Keeps s₀ s) : Keeps s₀ (closeStage s p e) :=
  State.updDsp_keeps (Keeps.foldl (State.updDsp_keeps h) fun _ _ h0 => State.updTile_keeps h0)

theorem closeDrained_keeps {p pipe : Nat} (h : Keeps s₀ s) : Keeps s₀ (closeDrained s p pipe) :=
  Keeps.foldl h fun _ _ h0 => Keeps.ite (closeStage_keeps h0) h0

theorem beginTile_keeps {P : Parcel} {t : Nat} (h : Keeps s₀ s) : Keeps s₀ (beginTile s P t) := State.updTile_keeps h

theorem lineRequests_keeps {p k : Nat} (h : Keeps s₀ s) : Keeps s₀ (lineRequests s p k) :=
  Keeps.foldl h fun _ _ h0 => Keeps.foldl h0 fun _ _ h1 => Keeps.ite (addRequest_keeps h1) h1

theorem queueItem_keeps {p t : Nat} {d : DItem} {pin : Bool} (h : Keeps s₀ s) : Keeps s₀ (queueItem s p t d pin) :=
  State.updDsp_keeps (State.updTile_keeps h)

theorem assignAmong_keeps {p : Nat} {d : DItem} {tiles : List Nat} {s' : State} (h : Keeps s₀ s) (he : assignAmong s p d tiles = some s') :
    Keeps s₀ s' := by
  unfold assignAmong at he
  extract_lets P elig e depth win aff at he
  clear_value aff
  split at he
  · cases he
    exact queueItem_keeps h
  · split at he
    · cases he
      exact queueItem_keeps h
    · cases he

theorem assignAmong_getD_keeps {p : Nat} {d : DItem} {tiles : List Nat} (h : Keeps s₀ s) : Keeps s₀ ((assignAmong s p d tiles).getD s) := by
  cases he : assignAmong s p d tiles with
  | none => exact h
  | some s' => exact assignAmong_keeps h he

theorem assignOne_keeps {p : Nat} {d : DItem} (h : Keeps s₀ s) : Keeps s₀ (assignOne s p d) := by
  unfold assignOne
  extract_lets P
  split
  · exact h
  · refine Keeps.ite h ?_
    extract_lets ts north south
    refine Keeps.ite (assignAmong_getD_keeps h) ?_
    split
    split
    next heq => exact assignAmong_keeps h heq
    · exact assignAmong_getD_keeps h

theorem assign_keeps {p : Nat} (h : Keeps s₀ s) : Keeps s₀ (assign s p) := Keeps.foldl h fun _ _ h0 => assignOne_keeps h0

theorem decant_keeps {p k : Nat} (h : Keeps s₀ s) : Keeps s₀ (decant s p k) :=
  lineRequests_keeps (assign_keeps (Keeps.foldl (Keeps.foldl (closeDrained_keeps (admitItems_keeps h)) fun _ _ h0 => State.updTile_keeps h0) fun _ _ h1 => Keeps.ite (Keeps.foldl h1 fun _ _ h2 => beginTile_keeps h2) h1))

theorem continueExecute_keeps {p : Nat} {x : Exec} {resumed : Bool} (h : Keeps s₀ s) : Keeps s₀ (continueExecute s p x resumed) := by
  unfold continueExecute
  extract_lets P ks held go s1 s2 s3
  have h2 : Keeps s₀ s2 := Keeps.foldl (State.updParcel_keeps h) fun _ _ h => countHold_keeps h
  have h3 : Keeps s₀ s3 := Keeps.foldl h2 fun _ _ h => decant_keeps h
  exact Keeps.ite (assign_keeps (Keeps.foldl h3 fun _ _ h => State.updTile_keeps h)) h3

theorem decideExecute_keeps {p : Nat} (h : Keeps s₀ s) : Keeps s₀ (decideExecute s p) := by
  unfold decideExecute
  dsimp only
  split
  · exact h
  · split
    · exact endResumes_keeps (by
        split
        · exact endExecute_keeps (State.stamp_keeps h)
        · exact Keeps.ite (endCmd_keeps (endExecute_keeps (State.stamp_keeps h))) (endExecute_keeps (State.stamp_keeps h)))
    · exact openFrame_keeps (endResumes_keeps (continueExecute_keeps h))

theorem endLoad_keeps {p : Nat} {L : Loader} {status : Nat} {det : List Byte} (h : Keeps s₀ s) : Keeps s₀ (endLoad s p L status det) :=
  endSeq_keeps (State.updParcel_keeps h)

theorem commitImage_keeps {p : Nat} {L : Loader} (h : Keeps s₀ s) : Keeps s₀ (commitImage s p L) := by
  unfold commitImage
  extract_lets I v s1 s2 s3
  have h2 : Keeps s₀ s2 := Keeps.foldl (State.updParcel_keeps h) fun _ _ h => Keeps.foldl h fun _ _ h => State.forget_keeps h
  exact endLoad_keeps (Keeps.ite (pubPut_keeps (pubPut_keeps h2)) (pubPut_keeps (pubPut_keeps (Keeps.mk h2))))

theorem State.updLoader_keeps {p : Nat} {f : Loader → Loader} (h : Keeps s₀ s) : Keeps s₀ (State.updLoader s p f) := State.updParcel_keeps h

theorem loadBoundary_keeps {p : Nat} {busy : Bool} (h : Keeps s₀ s) : Keeps s₀ (loadBoundary s p busy) := by
  unfold loadBoundary
  split
  · exact h
  · exact Keeps.ite (commitImage_keeps h) (Keeps.ite h (Keeps.ite (commitImage_keeps h) (State.updLoader_keeps h)))

theorem cancelLoad_keeps {p : Nat} {c : Cmd} (h : Keeps s₀ s) : Keeps s₀ (cancelLoad s p c) := endCmd_keeps (State.updParcel_keeps h)

theorem cancelRest_keeps {p : Nat} (h : Keeps s₀ s) : Keeps s₀ (cancelRest s p) := by
  unfold cancelRest
  exact Keeps.foldl h fun _ _ h0 => by
    split
    · exact Keeps.ite (endCmd_keeps (cancelLoad_keeps h0)) (endCmd_keeps h0)
    · exact endCmd_keeps h0

theorem State.updCache_keeps {t : Nat} {f : Cache → Cache} (h : Keeps s₀ s) : Keeps s₀ (State.updCache s t f) := State.updTile_keeps h

theorem cacheAtStart_keeps {t : Nat} (h : Keeps s₀ s) : Keeps s₀ (cacheAtStart s t) := State.updCache_keeps h

theorem initUnits_keeps {P : Parcel} (h : Keeps s₀ s) : Keeps s₀ (initUnits s P) := by
  have htiles := Keeps.foldl (l := P.tiles) (f := fun s t => cacheAtStart (s.updTile t Tile.atStart) t) h fun _ _ h => cacheAtStart_keeps
    (State.updTile_keeps h)
  have hunits := Keeps.foldl (l := parcelUnits P) (f := flushUnit) htiles fun _ _ => flushUnit_keeps
  exact Keeps.foldl (Keeps.foldl (Keeps.foldl (Keeps.foldl hunits fun _ _ => State.updEng_keeps) fun _ _ => State.updEng_keeps)
    fun _ _ => State.updEng_keeps) fun _ _ => State.updGroup_keeps

theorem loadStep_keeps {p g c : Nat} {st : MoverStep} (h : Keeps s₀ s) : Keeps s₀ (loadStep s p g c st) := State.updChan_keeps (Keeps.mk (Keeps.mk h))

theorem keepMoved_keeps {g c : Nat} (h : Keeps s₀ s) : Keeps s₀ (keepMoved s g c) := by
  unfold keepMoved
  split
  · exact h
  · exact Keeps.foldl h fun _ _ h0 => State.updEng_keeps h0

theorem acceptItem_keeps {p : Nat} {d : DItem} {held : Bool} (h : Keeps s₀ s) : Keeps s₀ (acceptItem s p d held) :=
  State.updDsp_keeps (State.updDsp_keeps h)

theorem chanEnqueue_keeps {g c addr len : Nat} (h : Keeps s₀ s) : Keeps s₀ (chanEnqueue s g c addr len) := by
  unfold chanEnqueue
  dsimp only
  split
  · exact h
  · exact Keeps.ite (acceptItem_keeps h) (haltChan_keeps h)

theorem finishDone_keeps {g c : Nat} (h : Keeps s₀ s) : Keeps s₀ (finishDone s g c) :=
  Keeps.ite (chanEnqueue_keeps (raiseChan_keeps (snoopEnd_keeps (State.updChan_keeps h)))) (raiseChan_keeps (snoopEnd_keeps (State.updChan_keeps h)))

theorem readAhead_keeps {g c : Nat} (h : Keeps s₀ s) : Keeps s₀ (readAhead s g c) := Keeps.ite h (State.addReads_keeps (State.updChan_keeps h))

theorem beginTransfer_keeps {g c : Nat} (h : Keeps s₀ s) : Keeps s₀ (beginTransfer s g c).1 := by
  unfold beginTransfer
  dsimp only
  split
  · exact haltChan_keeps (State.updChan_keeps (keepMoved_keeps h))
  · split
    · exact haltChan_keeps (State.updChan_keeps (keepMoved_keeps h))
    · split
      · exact finishDone_keeps (State.updChan_keeps (keepMoved_keeps h))
      · exact readAhead_keeps (by
          split
          · exact sendLtr_keeps (State.updParcel_keeps (State.updChan_keeps (keepMoved_keeps h)))
          · exact State.updChan_keeps (keepMoved_keeps h))

theorem advanceProg_keeps {n g c : Nat} (h : Keeps s₀ s) : Keeps s₀ (advanceProg n s g c) := by
  induction n generalizing s with
  | zero => exact h
  | succ n ih =>
    unfold advanceProg
    split
    · split
      · exact h
      · extract_lets s1
        have h1 : Keeps s₀ s1 := State.updChan_keeps (loadStep_keeps h)
        split
        next heq => exact ih (keeps_fst (beginTransfer_keeps h1) heq)
        next heq => exact keeps_fst (beginTransfer_keeps h1) heq
    · exact h

theorem startPrograms_keeps {p : Nat} (h : Keeps s₀ s) : Keeps s₀ (startPrograms s p) := by
  unfold startPrograms
  exact Keeps.foldl h fun _ _ h0 => by
    split
    · exact h0
    · split
      · exact h0
      · exact Keeps.ite (State.updChan_keeps (State.updGroup_keeps h0)) (advanceProg_keeps (State.updChan_keeps (State.updGroup_keeps h0)))

theorem bindCopy_keeps {P : Parcel} {param : List Byte} (h : Keeps s₀ s) : Keeps s₀ (bindCopy s P param) :=
  Keeps.foldl h fun _ _ h0 => Keeps.foldl h0 fun _ _ h1 => Keeps.foldl h1 fun _ _ h2 => State.tsWrite_keeps h2

theorem initialItems_keeps {p : Nat} {c : Cmd} {param : List Byte} (h : Keeps s₀ s) : Keeps s₀ (initialItems s p c param) :=
  admitItems_keeps (Keeps.foldl h fun _ _ h0 => acceptItem_keeps h0)

theorem startExecute_keeps {p : Nat} {c : Cmd} (h : Keeps s₀ s) : Keeps s₀ (startExecute s p c) := by
  unfold startExecute
  dsimp only
  split
  · exact endCmd_keeps h
  · exact Keeps.foldl (assign_keeps (Keeps.foldl (initialItems_keeps (startPrograms_keeps (bindCopy_keeps (State.updParcel_keeps (initUnits_keeps
      (State.updCmd_keeps h)))))) fun _ _ h0 => beginTile_keeps h0)) fun _ _ h1 => lineRequests_keeps h1

theorem startNext_keeps {n p : Nat} (h : Keeps s₀ s) : Keeps s₀ (startNext n s p) := by
  induction n generalizing s with
  | zero => exact h
  | succ n ih =>
    unfold startNext
    refine Keeps.ite h ?_
    split
    · exact ih (startExecute_keeps h)
    · exact h

theorem parcelBoundary_keeps {p : Nat} (h : Keeps s₀ s) : Keeps s₀ (parcelBoundary s p) :=
  cancelRest_keeps (startNext_keeps (loadBoundary_keeps (cancelWaiting_keeps (decideExecute_keeps (forgetStores_keeps (engineBoundary_keeps
    (Keeps.foldl (State.updParcel_keeps h) fun _ _ h0 => deliverAll_keeps h0)))))))

theorem globalBoundary_keeps (h : Keeps s₀ s) : Keeps s₀ (globalBoundary s) := by
  unfold globalBoundary
  extract_lets s1 s2
  have h1 : Keeps s₀ s1 := State.updFrm_keeps h fun ⟨hlo, hhi, _, _, hhold, _⟩ => ⟨hlo, hhi, hlo, hhi, hhold, hhold⟩
  have h2 : Keeps s₀ s2 := Keeps.mk h1
  exact together_keeps h2 fun _ h => endDetaches_keeps (foldNat_keeps h fun _ _ h => Keeps.ite (parcelBoundary_keeps h) h)

theorem execGlobalBoundary_keeps (h : Keeps s₀ s) : Answers s₀ (execGlobalBoundary s) :=
  ⟨_, rfl, live_keeps h (fun _ h0 => settleFrom_keeps (globalBoundary_keeps h0))⟩

theorem guardOpens_keeps (h : Keeps s₀ s) : Keeps s₀ (guardOpens s) := State.updFrm_keeps h id

theorem execGuardWindowOpen_keeps (h : Keeps s₀ s) : Answers s₀ (execGuardWindowOpen s) := ⟨_, rfl, live_keeps h fun _ => guardOpens_keeps⟩

theorem frameEvent_keeps {bit : Nat} (h : Keeps s₀ s) : Keeps s₀ (frameEvent s bit) := raiseGlobal_keeps h

theorem periodWrite_keeps {v : Word} (h : Keeps s₀ s) : Keeps s₀ (periodWrite s v) := by
  have hset : Keeps s₀ (s.updFrm fun F => { F with
      period := if (s.parcels.any fun e => e.2.st == .active || e.2.st == .quiescing) || (fld v 0 16 < 600 || 38400 < fld v 0 16) then F.period
        else BitVec.ofNat 16 (fld v 0 16)
      periodRefused := F.periodRefused || s.parcels.any fun e => e.2.st == .active || e.2.st == .quiescing
      periodRange := F.periodRange || (fld v 0 16 < 600 || 38400 < fld v 0 16) }) := by
    refine State.updFrm_keeps h fun ⟨hlo, hhi, hrest⟩ => ?_
    have hlegal : 600 ≤ (if (s.parcels.any fun e => e.2.st == .active || e.2.st == .quiescing) || (fld v 0 16 < 600 || 38400 < fld v 0 16)
        then s.frm.period else BitVec.ofNat 16 (fld v 0 16)).toNat ∧
        (if (s.parcels.any fun e => e.2.st == .active || e.2.st == .quiescing) || (fld v 0 16 < 600 || 38400 < fld v 0 16)
        then s.frm.period else BitVec.ofNat 16 (fld v 0 16)).toNat ≤ 38400 := by
      split
      · exact ⟨hlo, hhi⟩
      next hc =>
        simp only [Bool.or_eq_true, decide_eq_true_eq, not_or, Nat.not_lt] at hc
        rw [BitVec.toNat_ofNat, Nat.mod_eq_of_lt (by omega)]
        exact hc.2
    exact ⟨hlegal.1, hlegal.2, hrest⟩
  exact Keeps.ite (frameEvent_keeps (Keeps.ite (frameEvent_keeps hset) hset)) (Keeps.ite (frameEvent_keeps hset) hset)

theorem execFrmPeriodWrite_keeps {who : Who} {value : Word} (h : Keeps s₀ s) : Answers s₀ (execFrmPeriodWrite who value s) :=
  ⟨_, rfl, live_keeps h (fun _ h0 => Keeps.ite (periodWrite_keeps h0) h0)⟩

theorem holdLimitWrite_keeps {v : Word} (h : Keeps s₀ s) : Keeps s₀ (holdLimitWrite s v) := by
  unfold holdLimitWrite
  split
  · exact frameEvent_keeps (State.updFrm_keeps h id)
  next hv =>
    refine State.updFrm_keeps h fun ⟨hlo, hhi, hlo', hhi', _, hnow⟩ => ⟨hlo, hhi, hlo', hhi', fun h0 => hv ?_, hnow⟩
    have hlt : fld v 0 8 < 2 ^ 8 := Nat.mod_lt _ (by decide)
    have h0 : BitVec.ofNat 8 (fld v 0 8) = 0 := h0
    rw [← Nat.mod_eq_of_lt hlt, ← BitVec.toNat_ofNat, h0]
    rfl

theorem execFrmHoldLimitWrite_keeps {who : Who} {value : Word} (h : Keeps s₀ s) : Answers s₀ (execFrmHoldLimitWrite who value s) :=
  ⟨_, rfl, live_keeps h (fun _ h0 => Keeps.ite (holdLimitWrite_keeps h0) h0)⟩

theorem execPtmRequestTimer_keeps (h : Keeps s₀ s) : Answers s₀ (execPtmRequestTimer s) :=
  ⟨_, rfl, live_keeps h (fun _ h0 => Keeps.ite (State.updFrm_keeps h0 id) h0)⟩

theorem ptmCapture_keeps {ns : Word} (h : Keeps s₀ s) : Keeps s₀ (ptmCapture s ns) := by
  refine raiseGlobal_keeps (State.updFrm_keeps h fun hF => ?_)
  dsimp only
  split
  · exact hF
  · exact hF

theorem execPtmDialogueComplete_keeps {hostNs : Word} (h : Keeps s₀ s) : Answers s₀ (execPtmDialogueComplete hostNs s) :=
  ⟨_, rfl, live_keeps h (fun _ h0 => Keeps.ite (ptmCapture_keeps h0) h0)⟩

theorem Frm.unfreeze_legal {F : Frm} (h : F.legal) : F.unfreeze.legal := by
  unfold Frm.unfreeze
  split
  · exact h
  · exact h

theorem execFrmPtmFrameRead_keeps {who : Who} (h : Keeps s₀ s) : Answers s₀ (execFrmPtmFrameRead who s) :=
  ⟨_, rfl, live_keeps h fun _ h => Keeps.ite (Keeps.mk (h.withFrm Frm.unfreeze_legal)) h⟩

theorem execFrmPtmHostRead_keeps {who : Who} (h : Keeps s₀ s) : Answers s₀ (execFrmPtmHostRead who s) :=
  ⟨_, rfl, live_keeps h fun _ h => Keeps.ite (Keeps.mk (h.withFrm Frm.unfreeze_legal)) h⟩

theorem noteAwake_keeps {t : State} (h : Keeps s₀ t) : Keeps s₀ (noteAwake s t) := Keeps.ite (raiseGlobal_keeps h) h

theorem refuseCmd_keeps {w : Window} {raw : List Byte} {p : Option Nat} {status : Nat} {det : List Byte} (h : Keeps s₀ s) :
    Keeps s₀ (refuseCmd s w raw p status det) :=
  postPennant_keeps h

theorem acceptCmd_keeps {w : Window} {raw : List Byte} {p : Option Nat} {data : List Byte} (h : Keeps s₀ s) :
    Keeps s₀ (acceptCmd s w raw p data) := by
  unfold acceptCmd
  dsimp only
  split
  · exact Keeps.ite (endCmd_keeps (State.updParcel_keeps (Keeps.mk h))) (State.updParcel_keeps (Keeps.mk h))
  · exact Keeps.mk h

theorem takeLatched_keeps {w : Window} {data : List Byte} (h : Keeps s₀ s) : Keeps s₀ (takeLatched s w data) := by
  unfold takeLatched
  exact Keeps.ite (refuseCmd_keeps (State.updWin_keeps h)) (Keeps.ite (by
    split
    · exact refuseCmd_keeps (State.updWin_keeps h)
    · exact acceptCmd_keeps (State.updWin_keeps h)) (by
    split
    · exact refuseCmd_keeps (State.updWin_keeps h)
    · exact Keeps.ite (refuseCmd_keeps (State.updWin_keeps h)) (by
        split
        · exact refuseCmd_keeps (State.updWin_keeps h)
        · exact acceptCmd_keeps (State.updWin_keeps h))))

theorem takeRow_keeps {op : Nat} {w : Window} {data : List Byte} (h : Keeps s₀ s) : Answers s₀ (takeRow op w data s) :=
  ⟨_, rfl, live_keeps h (fun _ h0 => Keeps.ite (settle_keeps (noteAwake_keeps (takeLatched_keeps h0))) h0)⟩

theorem execLoadImage_keeps {w : Window} (h : Keeps s₀ s) : Answers s₀ (execLoadImage w s) := takeRow_keeps h

theorem noteRead_keeps {port : Nat} {r : ReadResult} (h : Keeps s₀ s) : Keeps s₀ (noteRead s port r) := by
  unfold noteRead
  split
  · exact h
  · exact noteHostEnd_keeps h
  · exact Keeps.mk (noteHostEnd_keeps h)

theorem sourceRead_keeps {k p va n : Nat} (h : Keeps s₀ s) : Keeps s₀ (sourceRead k s p va n).2.2 := by
  induction k generalizing s n with
  | zero => exact h
  | succ k ih =>
    unfold sourceRead
    split
    next heq => exact keeps_snd (cmdRead_keeps h) heq
    next heq => exact ih (keeps_snd (cmdRead_keeps h) heq)

theorem streamBytes_keeps {p : Nat} {space : Bool} {va : Nat} {r : ReadResult} {room : Nat} (h : Keeps s₀ s) :
    Keeps s₀ (streamBytes s p space va r room).2.2 := by
  unfold streamBytes
  split
  · split
    · exact sourceRead_keeps h
    · exact h
  · exact h

theorem stageBytes_keeps {p va : Nat} {bs : List Byte} (h : Keeps s₀ s) : Keeps s₀ (stageBytes s p va bs).2 := by
  refine foldl_keeps (P := fun r : _ × State => Keeps s₀ r.2) _ _ h fun acc run h => ?_
  split
  · exact h
  · split
    · exact h
    · exact putAll_keeps h

theorem streamData_keeps {p : Nat} {c : Cmd} {L : Loader} {r : ReadResult} (h : Keeps s₀ s) : Keeps s₀ (streamData s p c L r) := by
  unfold streamData
  extract_lets s1
  have h1 : Keeps s₀ s1 := Keeps.ite h (noteRead_keeps h)
  split
  next heq =>
    have h2 := keeps_snd_snd (streamBytes_keeps h1) heq
    extract_lets bs flaw hi
    clear_value flaw
    split
    next err s3 heq =>
      have h3 := keeps_snd (foldl_keeps (P := fun r : _ × State => Keeps s₀ r.2) _ _ h2 fun acc x h => by
        split
        · exact h
        · exact stageBytes_keeps h) heq
      extract_lets s4
      have h4 : Keeps s₀ s4 := State.updLoader_keeps h3
      clear_value s4
      rcases err with _ | e
      · rcases flaw with _ | x
        · exact Keeps.ite (State.updLoader_keeps h4) (Keeps.ite (endLoad_keeps h4) h4)
        · exact endLoad_keeps h4
      · exact endLoad_keeps h4

theorem imageStream_keeps {p : Nat} {r : ReadResult} (h : Keeps s₀ s) : Keeps s₀ (imageStream s p r) := by
  unfold imageStream
  split
  · exact h
  · split
    · exact Keeps.ite (streamData_keeps h) h
    · exact h

theorem execImageStreamData_keeps {p : ParcelId} {r : ReadResult} (h : Keeps s₀ s) : Answers s₀ (execImageStreamData p r s) := by
  unfold execImageStreamData
  exact ⟨_, rfl, live_keeps h (fun _ h0 => by
    split
    · exact settle_keeps (imageStream_keeps h0)
    · exact h0)⟩

theorem copySections_keeps {p staging : Nat} {I : Image} {l : List TileData} {m : List Nat} (h : Keeps s₀ s) :
    Keeps s₀ (copySections s p staging I l m).2.2 := by
  induction l generalizing s m with
  | nil => exact h
  | cons d l ih =>
    unfold copySections
    split
    next heq => exact keeps_snd (cmdRead_keeps h) heq
    next heq => exact ih (Keeps.foldl (keeps_snd (cmdRead_keeps h) heq) fun _ _ => State.tsWrite_keeps)

theorem copyDone_keeps {p : Nat} (h : Keeps s₀ s) : Keeps s₀ (copyDone s p) := by
  unfold copyDone
  split
  · exact h
  · exact Keeps.ite h (by
      split
      next s0 heq => exact State.updLoader_keeps (keeps_snd_snd (copySections_keeps h) heq)
      next s1 heq => exact endLoad_keeps (Keeps.foldl (keeps_snd_snd (copySections_keeps h) heq) fun _ _ h2 => State.forget_keeps h2)
      next s3 heq => exact endLoad_keeps (Keeps.foldl (keeps_snd_snd (copySections_keeps h) heq) fun _ _ h4 => State.forget_keeps h4))

theorem execTiledataCopyDone_keeps {p : ParcelId} (h : Keeps s₀ s) : Answers s₀ (execTiledataCopyDone p s) :=
  ⟨_, rfl, live_keeps h (fun _ h0 => settle_keeps (copyDone_keeps h0))⟩

theorem execUnloadImage_keeps {w : Window} (h : Keeps s₀ s) : Answers s₀ (execUnloadImage w s) := takeRow_keeps h

theorem issue_keeps {t : TileId} {f : State → State} (h : Keeps s₀ s) (hf : ∀ s, Keeps s₀ s → Keeps s₀ (f s)) : Answers s₀ (issue s t f) :=
  ⟨_, rfl, live_keeps h (fun _ h0 => Keeps.ite (hf _ h0) h0)⟩

theorem retire_keeps {t : Nat} {f : Tile → Tile} (h : Keeps s₀ s) : Keeps s₀ (retire s t f) := State.updTile_keeps h

theorem setS_keeps {t : TileId} {rd : Reg} {x : Word} (h : Keeps s₀ s) : Keeps s₀ (setS s t rd x) := retire_keeps h

theorem execSalu_keeps {t : TileId} {op : SaluOp} {rd rs1 rs2 : Reg} (h : Keeps s₀ s) : Answers s₀ (execSalu t op rd rs1 rs2 s) :=
  issue_keeps h (fun _ h0 => setS_keeps h0)

theorem execAluImmediate_keeps {t : TileId} {op : ImmOp} {rd rs1 : Reg} {imm : BitVec 16} (h : Keeps s₀ s) :
    Answers s₀ (execAluImmediate t op rd rs1 imm s) :=
  issue_keeps h (fun _ h0 => setS_keeps h0)

theorem execLui_keeps {t : TileId} {rd : Reg} {imm : BitVec 16} (h : Keeps s₀ s) : Answers s₀ (execLui t rd imm s) :=
  issue_keeps h (fun _ h0 => setS_keeps h0)

theorem execShifti_keeps {t : TileId} {kind : ShiftKind} {rd rs1 : Reg} {count : BitVec 6} (h : Keeps s₀ s) :
    Answers s₀ (execShifti t kind rd rs1 count s) :=
  issue_keeps h (fun _ h0 => setS_keeps h0)

theorem execCrc32cD_keeps {t : TileId} {rd rs1 rs2 : Reg} (h : Keeps s₀ s) : Answers s₀ (execCrc32cD t rd rs1 rs2 s) :=
  issue_keeps h (fun _ h0 => setS_keeps h0)

theorem countAccess_keeps {t : Nat} (h : Keeps s₀ s) : Keeps s₀ (countAccess s t) := State.updCache_keeps h

theorem writeBack_keeps {l : CacheLine} (h : Keeps s₀ s) : Keeps s₀ (writeBack s l) := Keeps.ite (fabricWrite_keeps h) h

theorem cacheFill_keeps {t : Nat} {l : CacheLine} (h : Keeps s₀ s) : Keeps s₀ (cacheFill s t l) := by
  unfold cacheFill
  exact State.updCache_keeps (by
    split
    · exact writeBack_keeps h
    · exact h)

theorem demandMiss_keeps {t l : Nat} {isLoad : Bool} (h : Keeps s₀ s) : Keeps s₀ (demandMiss s t l isLoad) := State.updTile_keeps h

theorem cacheLine_keeps {t a : Nat} {cacheable isLoad : Bool} (h : Keeps s₀ s) : Keeps s₀ (cacheLine s t a cacheable isLoad).2 := by
  unfold cacheLine
  extract_lets l C cellar s1 s2
  have h1 : Keeps s₀ s1 := countAccess_keeps h
  split
  · exact h
  · split
    · exact State.updTile_keeps h1
    · split
      · exact cacheFill_keeps (State.updTile_keeps h1)
      · split
        · exact h1
        · exact cacheFill_keeps (demandMiss_keeps h1)

theorem tileRead_keeps {k t a n : Nat} {cacheable : Bool} (h : Keeps s₀ s) : Keeps s₀ (tileRead k s t a n cacheable).2.2 := by
  unfold tileRead
  split
  next s0 heq =>
    have hs0 := keeps_snd (cacheLine_keeps h) heq
    split
    · exact hs0
    · exact fabricReadAt_keeps hs0
  next s1 heq => exact fabricReadAt_keeps (keeps_snd (cacheLine_keeps h) heq)

theorem loadMem_keeps {k : Nat} {t : TileId} {va n : Nat} (h : Keeps s₀ s) : Keeps s₀ (loadMem k s t va n).2 := by
  unfold loadMem
  split
  · exact h
  · split
    next heq => exact keeps_snd (translate_keeps h) heq
    next heq =>
      have h1 := keeps_snd (translate_keeps h) heq
      split
      next heq =>
        have h2 := keeps_snd_snd (tileRead_keeps h1) heq
        split
        · exact h2
        · exact h2

theorem freshPark_keeps {t : Nat} (h : Keeps s₀ s) : Keeps s₀ (freshPark s t) := by
  unfold freshPark
  split
  · exact h
  · exact Keeps.ite h (State.updParcel_keeps h)

theorem raiseTile_keeps {t e : Nat} (h : Keeps s₀ s) : Keeps s₀ (raiseTile s t e) := Keeps.ite (raise_keeps h) h

theorem returnQueue_keeps {p t : Nat} (h : Keeps s₀ s) : Keeps s₀ (returnQueue s p t) := State.updDsp_keeps (State.updTile_keeps h)

theorem postFault_keeps {p : Nat} {rec : FaultRec} (h : Keeps s₀ s) : Keeps s₀ (postFault s p rec) :=
  Keeps.ite (Keeps.ite (countStale_keeps h) (Keeps.ite (raise_keeps (State.updMchan_keeps h)) (State.updMchan_keeps h))) (State.updMchan_keeps h)

theorem parkNotice_keeps {c : Cmd} {det : List Byte} (h : Keeps s₀ s) : Keeps s₀ (parkNotice s c det) := postPennant_keeps h

theorem parkTile_keeps {t : Nat} {e : Exc} (h : Keeps s₀ s) : Keeps s₀ (parkTile s t e) := by
  unfold parkTile
  dsimp only
  split
  · exact raiseTile_keeps (State.updTile_keeps (freshPark_keeps h))
  · split
    · exact assign_keeps (returnQueue_keeps (raiseTile_keeps (State.updTile_keeps (freshPark_keeps h))))
    · exact parkNotice_keeps (postFault_keeps (assign_keeps (returnQueue_keeps (raiseTile_keeps (State.updTile_keeps (freshPark_keeps h))))))

theorem stopTile_keeps {t : Nat} {r : StopRec} {idx : Nat} {nested : Bool} (h : Keeps s₀ s) : Keeps s₀ (stopTile s t r idx nested) :=
  raiseTile_keeps (State.updTile_keeps h)

theorem takeExc_keeps {t : Nat} {e : Exc} {vst : Option Nat} (h : Keeps s₀ s) : Keeps s₀ (takeExc s t e vst) := by
  unfold takeExc
  exact Keeps.ite (parkTile_keeps (State.updTile_keeps (Keeps.ite (State.updTile_keeps (State.updTile_keeps h)) (State.updTile_keeps h)))) (by
    dsimp only
    split
    · exact State.updTile_keeps (State.updTile_keeps (Keeps.ite (State.updTile_keeps (State.updTile_keeps h)) (State.updTile_keeps h)))
    · exact stopTile_keeps (State.updTile_keeps (Keeps.ite (State.updTile_keeps (State.updTile_keeps h)) (State.updTile_keeps h))))

theorem finishLoad_keeps {t : TileId} {uns : Bool} {z : Size} {rd : Reg} {r : Except Exc Nat} (h : Keeps s₀ s) :
    Keeps s₀ (finishLoad s t uns z rd r) := by
  unfold finishLoad
  split
  · exact setS_keeps h
  · exact takeExc_keeps h

theorem execSld_keeps {t : TileId} {uns : Bool} {size : Size} {rd rs1 : Reg} {imm : BitVec 13} (h : Keeps s₀ s) :
    Answers s₀ (execSld t uns size rd rs1 imm s) :=
  issue_keeps h (fun _ h0 => finishLoad_keeps (loadMem_keeps h0))

theorem noteHost_keeps {p : Option Nat} {a : Nat} (h : Keeps s₀ s) : Keeps s₀ (noteHost s p a) := by
  unfold noteHost
  split
  · exact State.updParcel_keeps h
  · exact h

theorem tileWrite_keeps {t a : Nat} {bs : List Byte} {cacheable whole : Bool} (h : Keeps s₀ s) : Keeps s₀ (tileWrite s t a bs cacheable whole) := by
  unfold tileWrite
  split
  next s0 heq => exact State.updCache_keeps (keeps_snd (cacheLine_keeps h) heq)
  next s1 heq => exact noteHost_keeps (fabricWrite_keeps (keeps_snd (cacheLine_keeps h) heq))

theorem forgetDec_keeps {t : Nat} {c : DecCmd} (h : Keeps s₀ s) : Keeps s₀ (forgetDec s t c) := Keeps.foldl h fun _ _ h0 => State.forget_keeps h0

theorem noteDecode_keeps {t off n : Nat} (h : Keeps s₀ s) : Keeps s₀ (noteDecode s t off n) :=
  Keeps.ite h (Keeps.foldl (State.updTile_keeps h) fun _ _ h0 => forgetDec_keeps h0)

theorem noteSends_keeps {t off n : Nat} (h : Keeps s₀ s) : Keeps s₀ (noteSends s t off n) := Keeps.ite (State.updTile_keeps h) h

theorem storeMem_keeps {t : TileId} {va n x : Nat} {whole : Bool} (h : Keeps s₀ s) : Keeps s₀ (storeMem s t va n x whole).2 := by
  unfold storeMem
  split
  · exact h
  · split
    next s0 heq => exact (keeps_snd (translate_keeps h) heq)
    next s1 heq =>
      have hs1 := keeps_snd (translate_keeps h) heq
      split
      · exact Keeps.ite (noteDecode_keeps (tileWrite_keeps (noteSends_keeps hs1))) (tileWrite_keeps hs1)
      · exact tileWrite_keeps hs1

theorem execSst_keeps {t : TileId} {size : Size} {rd rs1 : Reg} {imm : BitVec 13} (h : Keeps s₀ s) : Answers s₀ (execSst t size rd rs1 imm s) := by
  unfold execSst
  exact issue_keeps h (fun _ h0 => by
    split
    next s1 heq => exact takeExc_keeps (keeps_snd (storeMem_keeps h0) heq)
    next s2 heq => exact retire_keeps (keeps_snd (storeMem_keeps h0) heq))

theorem execSldt_keeps {t : TileId} {uns : Bool} {size : Size} {rd rs1 : Reg} {imm : BitVec 13} (h : Keeps s₀ s) :
    Answers s₀ (execSldt t uns size rd rs1 imm s) :=
  issue_keeps h (fun _ h0 => finishLoad_keeps h0)

theorem State.tilePut_keeps {t off : Nat} {bs : List Byte} (h : Keeps s₀ s) : Keeps s₀ (State.tilePut s t off bs) :=
  State.tsWrite_keeps (noteSends_keeps h)

theorem State.codePut_keeps {t off : Nat} {bs : List Byte} (h : Keeps s₀ s) : Keeps s₀ (State.codePut s t off bs) :=
  noteDecode_keeps (State.tilePut_keeps h)

theorem storeTs_keeps {t off n x : Nat} (h : Keeps s₀ s) : Keeps s₀ (storeTs s t off n x).2 := by
  unfold storeTs
  split
  · exact h
  · split
    · exact h
    · exact State.codePut_keeps h

theorem spoilSlots_keeps {p : Nat} (h : Keeps s₀ s) : Keeps s₀ (spoilSlots s p) :=
  Keeps.foldl h fun _ _ h0 => State.updJob_keeps (forgetSlot_keeps h0)

theorem enginePost_keeps {t v : Nat} {k : EngKind} {db size top : Nat} {f : State → State} {s' : State} (h : Keeps s₀ s')
    (he : enginePost s t v k db size top = .post f) :
    Keeps s₀ (f s') := by
  unfold enginePost at he
  extract_lets off at he
  repeat' split at he
  all_goals cases he
  exact State.updEng_keeps (State.tsWrite_keeps h)

theorem decodePost_keeps {t v : Nat} {f : State → State} {s' : State} (h : Keeps s₀ s') (he : decodePost s t v = .post f) : Keeps s₀ (f s') := by
  unfold decodePost at he
  extract_lets off at he
  repeat' split at he
  all_goals cases he
  exact State.updTile_keeps (State.tsWrite_keeps h)

theorem moverPost_keeps {t v : Nat} {f : State → State} {s' : State} (h : Keeps s₀ s') (he : moverPost s t v = .post f) : Keeps s₀ (f s') := by
  unfold moverPost at he
  split at he
  · cases he
  · extract_lets c m at he
    clear_value m
    repeat' split at he
    all_goals cases he
    exact Keeps.ite (State.updChan_keeps h) (addRequest_keeps h)

theorem cmpPost_keeps {t v : Nat} {f : State → State} {s' : State} (h : Keeps s₀ s') (he : cmpPost s t v = .post f) : Keeps s₀ (f s') := by
  unfold cmpPost at he
  split at he
  next heq _ =>
    cases he
    exact spoilSlots_keeps (enginePost_keeps h heq)
  · exact enginePost_keeps h he

theorem doorbell_keeps {t off v : Nat} {f : State → State} {s' : State} (h : Keeps s₀ s') (he : doorbell s t off v = some (.post f)) :
    Keeps s₀ (f s') := by
  unfold doorbell at he
  repeat' split at he
  · exact decodePost_keeps h (Option.some.inj he)
  · exact enginePost_keeps h (Option.some.inj he)
  · exact moverPost_keeps h (Option.some.inj he)
  · exact cmpPost_keeps h (Option.some.inj he)
  · exact enginePost_keeps h (Option.some.inj he)
  · cases he

theorem ssttStore_keeps {t off n v : Nat} (h : Keeps s₀ s) : Keeps s₀ (ssttStore s t off n v) := by
  unfold ssttStore
  split
  · exact takeExc_keeps h
  next heq =>
    have h1 := keeps_snd (storeTs_keeps h) heq
    split
    · exact retire_keeps h1
    · exact h
    · exact takeExc_keeps h
    next hbell =>
      split at hbell
      · exact retire_keeps (doorbell_keeps h1 hbell)
      · cases hbell

theorem execSstt_keeps {t : TileId} {size : Size} {rd rs1 : Reg} {imm : BitVec 13} (h : Keeps s₀ s) : Answers s₀ (execSstt t size rd rs1 imm s) :=
  issue_keeps h (fun _ h0 => ssttStore_keeps h0)

theorem jumpTo_keeps {t : Nat} {f : Tile → Tile} {pc : Word} (h : Keeps s₀ s) : Keeps s₀ (jumpTo s t f pc) := retire_keeps h

theorem execBranch_keeps {t : TileId} {cond : BrCond} {rs1 rs2 : Reg} {off : BitVec 16} (h : Keeps s₀ s) :
    Answers s₀ (execBranch t cond rs1 rs2 off s) :=
  issue_keeps h (fun _ h0 => Keeps.ite (jumpTo_keeps h0) (retire_keeps h0))

theorem execJal_keeps {t : TileId} {rd : Reg} {off : BitVec 21} (h : Keeps s₀ s) : Answers s₀ (execJal t rd off s) :=
  issue_keeps h (fun _ h0 => jumpTo_keeps h0)

theorem execJalr_keeps {t : TileId} {rd rs1 : Reg} {imm : BitVec 16} (h : Keeps s₀ s) : Answers s₀ (execJalr t rd rs1 imm s) :=
  issue_keeps h (fun _ h0 => jumpTo_keeps h0)

theorem execSfp_keeps {t : TileId} {op : SfpOp} {dbl : Bool} {rd rs1 rs2 : Reg} (h : Keeps s₀ s) : Answers s₀ (execSfp t op dbl rd rs1 rs2 s) :=
  issue_keeps h (fun _ h0 => retire_keeps h0)

theorem takeIllegal_keeps {t : Nat} (h : Keeps s₀ s) : Keeps s₀ (takeIllegal s t) := takeExc_keeps h

theorem execIllegalInstruction_keeps {t : TileId} (h : Keeps s₀ s) : Answers s₀ (execIllegalInstruction t s) :=
  issue_keeps h (fun _ h0 => takeIllegal_keeps h0)

theorem retireV_keeps {t : Nat} {f : Tile → Tile} (h : Keeps s₀ s) : Keeps s₀ (retireV s t f) := retire_keeps h

theorem vecOp_keeps {t : TileId} {legal : Tile → Bool} {f : Tile → Tile} (h : Keeps s₀ s) : Answers s₀ (vecOp s t legal f) :=
  issue_keeps h (fun _ h0 => Keeps.ite (retireV_keeps h0) (takeIllegal_keeps h0))

theorem execVintArith_keeps {t : TileId} {op : VIntOp} {vs : Bool} {rd rs1 rs2 : Reg} {pred : PReg} (h : Keeps s₀ s) :
    Answers s₀ (execVintArith t op vs rd rs1 rs2 pred s) :=
  vecOp_keeps h

theorem execVdiv_keeps {t : TileId} {op : VDivOp} {vs : Bool} {rd rs1 rs2 : Reg} {pred : PReg} (h : Keeps s₀ s) :
    Answers s₀ (execVdiv t op vs rd rs1 rs2 pred s) :=
  vecOp_keeps h

theorem execVfpArith_keeps {t : TileId} {op : VFpOp} {vs : Bool} {rd rs1 rs2 : Reg} {pred : PReg} (h : Keeps s₀ s) :
    Answers s₀ (execVfpArith t op vs rd rs1 rs2 pred s) :=
  vecOp_keeps h

theorem execVcmp_keeps {t : TileId} {op : VCmpOp} {vs : Bool} {pd : PReg} {rs1 rs2 : Reg} {pred : PReg} (h : Keeps s₀ s) :
    Answers s₀ (execVcmp t op vs pd rs1 rs2 pred s) :=
  vecOp_keeps h

theorem execVlogic_keeps {t : TileId} {op : VLogicOp} {vs : Bool} {rd rs1 rs2 : Reg} {pred : PReg} (h : Keeps s₀ s) :
    Answers s₀ (execVlogic t op vs rd rs1 rs2 pred s) :=
  vecOp_keeps h

theorem execPredicateLogic_keeps {t : TileId} {op : PLogicOp} {pd ps1 ps2 : PReg} (h : Keeps s₀ s) :
    Answers s₀ (execPredicateLogic t op pd ps1 ps2 s) :=
  issue_keeps h (fun _ h0 => retireV_keeps h0)

theorem execVsel_keeps {t : TileId} {rd rs1 rs2 : Reg} {pred : PReg} (h : Keeps s₀ s) : Answers s₀ (execVsel t rd rs1 rs2 pred s) := vecOp_keeps h

theorem execVcompress_keeps {t : TileId} {rd rs1 : Reg} {pred : PReg} (h : Keeps s₀ s) : Answers s₀ (execVcompress t rd rs1 pred s) := vecOp_keeps h

theorem execVexpand_keeps {t : TileId} {rd rs1 : Reg} {pred : PReg} (h : Keeps s₀ s) : Answers s₀ (execVexpand t rd rs1 pred s) := vecOp_keeps h

theorem execVmv_keeps {t : TileId} {rd rs1 : Reg} {pred : PReg} (h : Keeps s₀ s) : Answers s₀ (execVmv t rd rs1 pred s) := vecOp_keeps h

theorem execVmvVs_keeps {t : TileId} {rd rs1 : Reg} {pred : PReg} (h : Keeps s₀ s) : Answers s₀ (execVmvVs t rd rs1 pred s) := vecOp_keeps h

theorem execVmvSv_keeps {t : TileId} {rd rs1 rs2 : Reg} (h : Keeps s₀ s) : Answers s₀ (execVmvSv t rd rs1 rs2 s) := vecOp_keeps h

theorem execVins_keeps {t : TileId} {rd rs1 rs2 : Reg} (h : Keeps s₀ s) : Answers s₀ (execVins t rd rs1 rs2 s) := vecOp_keeps h

theorem execViota_keeps {t : TileId} {rd : Reg} {pred : PReg} (h : Keeps s₀ s) : Answers s₀ (execViota t rd pred s) := vecOp_keeps h

theorem execVperm_keeps {t : TileId} {rd rs1 rs2 : Reg} {pred : PReg} (h : Keeps s₀ s) : Answers s₀ (execVperm t rd rs1 rs2 pred s) := vecOp_keeps h

theorem execVslideup_keeps {t : TileId} {rd rs1 rs2 : Reg} {pred : PReg} (h : Keeps s₀ s) : Answers s₀ (execVslideup t rd rs1 rs2 pred s) :=
  vecOp_keeps h

theorem execVslidedn_keeps {t : TileId} {rd rs1 rs2 : Reg} {pred : PReg} (h : Keeps s₀ s) : Answers s₀ (execVslidedn t rd rs1 rs2 pred s) :=
  vecOp_keeps h

theorem execVrev_keeps {t : TileId} {rd rs1 : Reg} {pred : PReg} (h : Keeps s₀ s) : Answers s₀ (execVrev t rd rs1 pred s) := vecOp_keeps h

theorem execVred_keeps {t : TileId} {op : VRedOp} {rd rs1 rs2 : Reg} {pred : PReg} (h : Keeps s₀ s) : Answers s₀ (execVred t op rd rs1 rs2 pred s) :=
  vecOp_keeps h

theorem execVfredsum_keeps {t : TileId} {op : VFRedOp} {rd rs1 rs2 : Reg} {pred : PReg} (h : Keeps s₀ s) :
    Answers s₀ (execVfredsum t op rd rs1 rs2 pred s) :=
  vecOp_keeps h

theorem execVscan_keeps {t : TileId} {op : VScanOp} {rd rs1 : Reg} {seg pred : PReg} (h : Keeps s₀ s) :
    Answers s₀ (execVscan t op rd rs1 seg pred s) :=
  vecOp_keeps h

theorem execVpopc_keeps {t : TileId} {op : VBitOp} {rd rs1 : Reg} {pred : PReg} (h : Keeps s₀ s) : Answers s₀ (execVpopc t op rd rs1 pred s) :=
  vecOp_keeps h

theorem execPcnt_keeps {t : TileId} {rd : Reg} {ps : PReg} (h : Keeps s₀ s) : Answers s₀ (execPcnt t rd ps s) := vecOp_keeps h

theorem execPfirst_keeps {t : TileId} {rd : Reg} {ps : PReg} (h : Keeps s₀ s) : Answers s₀ (execPfirst t rd ps s) := vecOp_keeps h

theorem execVcrc32c_keeps {t : TileId} {rd rs1 rs2 : Reg} {pred : PReg} (h : Keeps s₀ s) : Answers s₀ (execVcrc32c t rd rs1 rs2 pred s) :=
  vecOp_keeps h

theorem execVcrc32cE_keeps {t : TileId} {rd rs1 rs2 : Reg} {pred : PReg} (h : Keeps s₀ s) : Answers s₀ (execVcrc32cE t rd rs1 rs2 pred s) :=
  vecOp_keeps h

theorem elemLoop_keeps {t : TileId} {ff : Bool} {first : Nat} {body : State → Nat → Option Exc × State} {l : List Nat} (h : Keeps s₀ s)
    (hbody : ∀ s, Keeps s₀ s → ∀ i, Keeps s₀ (body s i).2) :
    Keeps s₀ (elemLoop t ff first body l s) := by
  induction l generalizing s with
  | nil => exact retireV_keeps h
  | cons i l ih =>
    unfold elemLoop
    split
    next heq => exact ih (keeps_snd (hbody s h i) heq)
    next heq => exact Keeps.ite (retireV_keeps (keeps_snd (hbody s h i) heq)) (takeExc_keeps (keeps_snd (hbody s h i) heq))

theorem overActive_keeps {t : TileId} {pred : PReg} {ff : Bool} {body : State → Nat → Option Exc × State} (h : Keeps s₀ s)
    (hbody : ∀ s, Keeps s₀ s → ∀ i, Keeps s₀ (body s i).2) :
    Keeps s₀ (overActive s t pred ff body) := elemLoop_keeps h hbody

theorem loadElem_keeps {k : Nat} {t : TileId} {ts : Bool} {rd : Reg} {addr : Nat → Nat} {i : Nat} (h : Keeps s₀ s) :
    Keeps s₀ (loadElem k t ts rd addr s i).2 := by
  unfold loadElem
  dsimp only
  split
  next s0 heq =>
    exact State.updTile_keeps (keeps_snd (by
      split
      · exact h
      · exact loadMem_keeps h) heq)
  next s1 heq =>
    exact (keeps_snd (by
      split
      · exact h
      · exact loadMem_keeps h) heq)

theorem execVld_keeps {t : TileId} {ts ff : Bool} {rd rs1 : Reg} {pred : PReg} (h : Keeps s₀ s) : Answers s₀ (execVld t ts ff rd rs1 pred s) :=
  issue_keeps h fun _ h => overActive_keeps h fun _ h _ => loadElem_keeps h

theorem storeElem_keeps {t : TileId} {ts : Bool} {rd : Reg} {addr : Nat → Nat} {whole : Nat → Bool} {i : Nat} (h : Keeps s₀ s) :
    Keeps s₀ (storeElem t ts rd addr whole s i).2 := by
  unfold storeElem
  dsimp only
  split
  · exact storeTs_keeps h
  · exact storeMem_keeps h

theorem storeActive_keeps {t : TileId} {ts : Bool} {rd : Reg} {pred : PReg} {addr : Nat → Nat} (h : Keeps s₀ s) :
    Keeps s₀ (storeActive s t ts rd pred addr) := overActive_keeps h fun _ h _ => storeElem_keeps h

theorem execVst_keeps {t : TileId} {ts : Bool} {rd rs1 : Reg} {pred : PReg} (h : Keeps s₀ s) : Answers s₀ (execVst t ts rd rs1 pred s) :=
  issue_keeps h (fun _ h0 => storeActive_keeps h0)

theorem execVlds_keeps {t : TileId} {ts ff : Bool} {rd rs1 rs2 : Reg} {pred : PReg} (h : Keeps s₀ s) :
    Answers s₀ (execVlds t ts ff rd rs1 rs2 pred s) :=
  issue_keeps h fun _ h => overActive_keeps h fun _ h _ => loadElem_keeps h

theorem execVsts_keeps {t : TileId} {ts : Bool} {rd rs1 rs2 : Reg} {pred : PReg} (h : Keeps s₀ s) : Answers s₀ (execVsts t ts rd rs1 rs2 pred s) :=
  issue_keeps h (fun _ h0 => storeActive_keeps h0)

theorem execVgather_keeps {t : TileId} {ts ff : Bool} {iw : Size} {sc : Bool} {rd rs1 rs2 : Reg} {pred : PReg} (h : Keeps s₀ s) :
    Answers s₀ (execVgather t ts ff iw sc rd rs1 rs2 pred s) :=
  issue_keeps h fun _ h => Keeps.ite (takeIllegal_keeps h) (overActive_keeps h fun _ h _ => loadElem_keeps h)

theorem execVscatter_keeps {t : TileId} {ts : Bool} {iw : Size} {sc : Bool} {rd rs1 rs2 : Reg} {pred : PReg} (h : Keeps s₀ s) :
    Answers s₀ (execVscatter t ts iw sc rd rs1 rs2 pred s) :=
  issue_keeps h (fun _ h0 => Keeps.ite (takeIllegal_keeps h0) (storeActive_keeps h0))

theorem execVhash_keeps {t : TileId} {slot : BitVec 3} {rd rs1 : Reg} {pred : PReg} (h : Keeps s₀ s) : Answers s₀ (execVhash t slot rd rs1 pred s) :=
  issue_keeps h (fun _ h0 => Keeps.ite (takeIllegal_keeps h0) (overActive_keeps h0 (fun _ h1 _ => State.updTile_keeps h1)))

theorem execVhashT_keeps {t : TileId} {slot : BitVec 3} {rd rs1 rs2 : Reg} {pred : PReg} (h : Keeps s₀ s) :
    Answers s₀ (execVhashT t slot rd rs1 rs2 pred s) := by
  unfold execVhashT
  exact issue_keeps h (fun _ h0 => Keeps.ite (takeIllegal_keeps h0) (overActive_keeps h0 (fun _ h1 _ => by
    dsimp only
    split
    · exact h1
    · exact State.updTile_keeps h1)))

theorem execVunpk_keeps {t : TileId} {n1 : BitVec 6} {sx : Bool} {rd rs1 rs2 : Reg} {pred : PReg} (h : Keeps s₀ s) :
    Answers s₀ (execVunpk t n1 sx rd rs1 rs2 pred s) := by
  unfold execVunpk
  exact issue_keeps h (fun _ h0 => Keeps.ite (takeIllegal_keeps h0) (overActive_keeps h0 (fun _ h1 _ => by
    dsimp only
    split
    · exact h1
    · exact State.updTile_keeps h1)))

theorem execVdict_keeps {t : TileId} {iw : Size} {rd rs1 rs2 : Reg} {pred : PReg} (h : Keeps s₀ s) :
    Answers s₀ (execVdict t iw rd rs1 rs2 pred s) := by
  unfold execVdict
  exact issue_keeps h (fun _ h0 => Keeps.ite (takeIllegal_keeps h0) (overActive_keeps (State.updTile_keeps h0) (fun _ h1 _ => by
    dsimp only
    split
    · exact State.updTile_keeps h1
    · split
      · exact State.updTile_keeps h1
      · split <;> exact State.updTile_keeps h1)))

theorem execVsort_keeps {t : TileId} {k m : BitVec 4} {rd rs1 : Reg} (h : Keeps s₀ s) : Answers s₀ (execVsort t k m rd rs1 s) := vecOp_keeps h

theorem redLoop_keeps {t : TileId} {p : Nat} {op : RedOp} {rd rs1 rs2 : Reg} {l : List Nat} (h : Keeps s₀ s) :
    Keeps s₀ (redLoop t p op rd rs1 rs2 l s) := by
  induction l generalizing s with
  | nil => exact retireV_keeps h
  | cons i l ih =>
    unfold redLoop
    refine Keeps.ite (takeExc_keeps h) ?_
    split
    next heq => exact takeExc_keeps (keeps_snd (translate_keeps h) heq)
    next heq =>
      have ht := keeps_snd (translate_keeps h) heq
      exact Keeps.ite (State.updTile_keeps ht) (ih (Keeps.mk ht))

theorem execVredM_keeps {t : TileId} {op : RedOp} {rd rs1 rs2 : Reg} {pred : PReg} (h : Keeps s₀ s) : Answers s₀ (execVredM t op rd rs1 rs2 pred s) :=
  issue_keeps h (fun _ h0 => Keeps.ite (takeIllegal_keeps h0) (redLoop_keeps h0))

theorem execCsrr_keeps {t : TileId} {rd : Reg} {csr : BitVec 12} (h : Keeps s₀ s) : Answers s₀ (execCsrr t rd csr s) :=
  issue_keeps h (fun _ h0 => Keeps.ite (setS_keeps h0) (takeIllegal_keeps h0))

theorem stopFree_keeps {t : Nat} {r : StopRec} (h : Keeps s₀ s) : Keeps s₀ (stopFree s t r) := State.updTile_keeps (stopTile_keeps (Keeps.mk h))

theorem estop_keeps {t : Nat} {c : Word} (h : Keeps s₀ s) : Keeps s₀ (estop s t c) := stopFree_keeps h

theorem launchSend_keeps {t len : Nat} (h : Keeps s₀ s) : Keeps s₀ (launchSend s t len) := by
  unfold launchSend
  dsimp only
  split
  · exact takeIllegal_keeps h
  · exact Keeps.ite (takeIllegal_keeps h) (by
      split
      · exact takeExc_keeps h
      · exact Keeps.ite (takeIllegal_keeps h) (Keeps.ite h (retire_keeps h)))

theorem csrWrite_keeps {t n : Nat} {x : Word} (h : Keeps s₀ s) : Keeps s₀ (csrWrite s t n x) := by
  unfold csrWrite
  split
  · exact retire_keeps h
  · exact Keeps.ite (retire_keeps h) (takeIllegal_keeps h)
  · exact retire_keeps h
  · exact retire_keeps h
  · exact estop_keeps h
  · exact retire_keeps h
  · exact retire_keeps h
  · exact retire_keeps h
  · exact launchSend_keeps h
  · exact takeIllegal_keeps h

theorem execCsrw_keeps {t : TileId} {csr : BitVec 12} {rs1 : Reg} (h : Keeps s₀ s) : Answers s₀ (execCsrw t csr rs1 s) :=
  issue_keeps h (fun _ h0 => csrWrite_keeps h0)

theorem execObxLenWrite_keeps {t : TileId} {rs1 : Reg} (h : Keeps s₀ s) : Answers s₀ (execObxLenWrite t rs1 s) :=
  issue_keeps h (fun _ h0 => csrWrite_keeps h0)

theorem execEstop_keeps {t : TileId} {rs1 : Reg} (h : Keeps s₀ s) : Answers s₀ (execEstop t rs1 s) := issue_keeps h (fun _ h0 => csrWrite_keeps h0)

theorem execEret_keeps {t : TileId} (h : Keeps s₀ s) : Answers s₀ (execEret t s) :=
  issue_keeps h (fun _ h0 => Keeps.ite (State.updTile_keeps h0) (takeIllegal_keeps h0))

theorem fdone_keeps {t : Nat} {eos : Bool} (h : Keeps s₀ s) : Keeps s₀ (fdone s t eos) := by
  unfold fdone
  exact Keeps.ite (takeIllegal_keeps h) (Keeps.ite h (by
    dsimp only
    split
    · exact Keeps.ite (assign_keeps (returnQueue_keeps (retire_keeps h))) (retire_keeps h)
    · exact retire_keeps h))

theorem execFdone_keeps {t : TileId} (h : Keeps s₀ s) : Answers s₀ (execFdone t s) := issue_keeps h (fun _ h0 => fdone_keeps h0)

theorem execFdoneEos_keeps {t : TileId} (h : Keeps s₀ s) : Answers s₀ (execFdoneEos t s) := issue_keeps h (fun _ h0 => fdone_keeps h0)

theorem execDqGet_keeps {t : TileId} {rd rs1 : Reg} (h : Keeps s₀ s) : Answers s₀ (execDqGet t rd rs1 s) :=
  issue_keeps h (fun _ h0 => Keeps.ite (takeIllegal_keeps h0) (Keeps.ite (takeExc_keeps h0) (Keeps.ite (takeExc_keeps h0) (State.updTile_keeps h0))))

theorem pickItem_keeps {P : Parcel} {e : StageEntry} {t : Nat} (h : Keeps s₀ s) : Keeps s₀ (pickItem s P e t).2 := by
  unfold pickItem
  split
  · exact State.updTile_keeps h
  · extract_lets peers cands
    split
    · exact h
    · exact State.updTile_keeps h

theorem deliverItem_keeps {p t rd off : Nat} {d : DItem} (h : Keeps s₀ s) : Keeps s₀ (deliverItem s p t rd off d) :=
  assign_keeps (retire_keeps (State.updDsp_keeps (Keeps.mk (State.tsWrite_keeps h))))

theorem execDqDelivery_keeps {t : TileId} (h : Keeps s₀ s) : Answers s₀ (execDqDelivery t s) := by
  unfold execDqDelivery
  exact ⟨_, rfl, live_keeps h (fun _ h0 => by
    split
    · exact Keeps.ite h0 (by
        split
        next s1 heq => exact Keeps.ite (deliverItem_keeps (keeps_snd (pickItem_keeps h0) heq)) h0
        next s2 heq => exact retire_keeps (keeps_snd (pickItem_keeps h0) heq))
    · exact h0)⟩

theorem releaseOrdered_keeps {p key : Nat} (h : Keeps s₀ s) : Keeps s₀ (releaseOrdered s p key) :=
  Keeps.foldl (State.updDsp_keeps h) fun _ _ h0 => State.updDsp_keeps h0

theorem readyNext_keeps {p : Nat} {i : Item} (h : Keeps s₀ s) : Keeps s₀ (readyNext s p i) := by
  unfold readyNext
  split
  · exact h
  · exact State.updDsp_keeps h

theorem execDqDone_keeps {t : TileId} (h : Keeps s₀ s) : Answers s₀ (execDqDone t s) := by
  unfold execDqDone
  exact issue_keeps h (fun _ h0 => by
    split
    · exact assign_keeps (Keeps.ite (readyNext_keeps (Keeps.ite (releaseOrdered_keeps (retire_keeps h0)) (retire_keeps h0))) (Keeps.ite
        (releaseOrdered_keeps (retire_keeps h0)) (retire_keeps h0)))
    · exact takeIllegal_keeps h0)

theorem execDqPut_keeps {t : TileId} {rd rs1 : Reg} (h : Keeps s₀ s) : Answers s₀ (execDqPut t rd rs1 s) := by
  unfold execDqPut
  exact issue_keeps h (fun _ h0 => Keeps.ite (takeExc_keeps h0) (Keeps.ite (takeExc_keeps h0) (by
    split
    · exact takeExc_keeps h0
    · exact takeIllegal_keeps h0
    · exact retire_keeps (Keeps.ite (acceptItem_keeps h0) (Keeps.ite (raiseParcel_keeps (State.updDsp_keeps h0)) (State.updDsp_keeps h0))))))

theorem execVsetvl_keeps {t : TileId} {rd rs1 : Reg} {vt : BitVec 3} (h : Keeps s₀ s) : Answers s₀ (execVsetvl t rd rs1 vt s) :=
  issue_keeps h (fun _ h0 => retire_keeps h0)

theorem execFence_keeps {t : TileId} (h : Keeps s₀ s) : Answers s₀ (execFence t s) := issue_keeps h (fun _ h0 => Keeps.ite (retire_keeps h0) h0)

theorem xlateAny_keeps {u : WalkUnit} {va : Nat} (h : Keeps s₀ s) : Keeps s₀ (xlateAny s u va).2 := by
  unfold xlateAny
  split
  · exact h
  · split
    · exact h
    · split
      next s0 heq => exact (keeps_snd (findEntry_keeps h) heq)
      next s1 heq => exact (keeps_snd (findEntry_keeps h) heq)

theorem sideArrive_keeps {t l : Nat} (h : Keeps s₀ s) : Keeps s₀ (sideArrive s t l) := State.updCache_keeps h

theorem settlePrefetch_keeps {t : Nat} {f : Nat → Bool} (h : Keeps s₀ s) : Keeps s₀ (settlePrefetch s t f) :=
  Keeps.foldl h fun _ _ h0 => sideArrive_keeps h0

theorem cleanLines_keeps {t : Nat} {f : Nat → Bool} {drop : Bool} (h : Keeps s₀ s) : Keeps s₀ (cleanLines s t f drop) :=
  State.updCache_keeps (Keeps.ite (Keeps.foldl h fun _ _ h0 => Keeps.ite (writeBack_keeps h0) h0) h)

theorem dropLines_keeps {t : Nat} {f : Nat → Bool} (h : Keeps s₀ s) : Keeps s₀ (dropLines s t f) := State.updCache_keeps h

theorem dcLines_keeps {t : Nat} {o : DcOp} {f : Nat → Bool} (h : Keeps s₀ s) : Keeps s₀ (dcLines s t o f) := by
  unfold dcLines
  dsimp only
  split
  · exact cleanLines_keeps (settlePrefetch_keeps h)
  · exact dropLines_keeps (settlePrefetch_keeps h)
  · exact cleanLines_keeps (settlePrefetch_keeps h)

theorem dcRange_keeps {t : TileId} {o : DcOp} {va len : Nat} (h : Keeps s₀ s) : Keeps s₀ (dcRange s t o va len) := by
  unfold dcRange
  exact Keeps.ite h (Keeps.foldl h fun _ _ h0 => by
    dsimp only
    split
    next s1 heq => exact (keeps_snd (xlateAny_keeps h0) heq)
    next s2 heq => exact dcLines_keeps (keeps_snd (xlateAny_keeps h0) heq))

theorem dcVa_keeps {t : TileId} {o : DcOp} {rs1 : Reg} (h : Keeps s₀ s) : Answers s₀ (dcVa t o rs1 s) :=
  issue_keeps h (fun _ h0 => retire_keeps (dcRange_keeps h0))

theorem execDcCleanVa_keeps {t : TileId} {rs1 : Reg} (h : Keeps s₀ s) : Answers s₀ (execDcCleanVa t rs1 s) := dcVa_keeps h

theorem execDcInvVa_keeps {t : TileId} {rs1 : Reg} (h : Keeps s₀ s) : Answers s₀ (execDcInvVa t rs1 s) := dcVa_keeps h

theorem execDcCinvVa_keeps {t : TileId} {rs1 : Reg} (h : Keeps s₀ s) : Answers s₀ (execDcCinvVa t rs1 s) := dcVa_keeps h

theorem dcRng_keeps {t : TileId} {o : DcOp} {rs1 rs2 : Reg} (h : Keeps s₀ s) : Answers s₀ (dcRng t o rs1 rs2 s) :=
  issue_keeps h (fun _ h0 => retire_keeps (dcRange_keeps h0))

theorem execDcCleanRange_keeps {t : TileId} {rs1 rs2 : Reg} (h : Keeps s₀ s) : Answers s₀ (execDcCleanRange t rs1 rs2 s) := dcRng_keeps h

theorem execDcInvRange_keeps {t : TileId} {rs1 rs2 : Reg} (h : Keeps s₀ s) : Answers s₀ (execDcInvRange t rs1 rs2 s) := dcRng_keeps h

theorem execDcCinvRange_keeps {t : TileId} {rs1 rs2 : Reg} (h : Keeps s₀ s) : Answers s₀ (execDcCinvRange t rs1 rs2 s) := dcRng_keeps h

theorem dcAll_keeps {t : Nat} {o : DcOp} (h : Keeps s₀ s) : Keeps s₀ (dcAll s t o) := by
  unfold dcAll
  dsimp only
  split
  · exact Keeps.ite (dcLines_keeps h) h
  · exact State.updCache_keeps (dcLines_keeps h)
  · exact State.updCache_keeps (dcLines_keeps h)

theorem execDcCleanAll_keeps {t : TileId} (h : Keeps s₀ s) : Answers s₀ (execDcCleanAll t s) :=
  issue_keeps h (fun _ h0 => retire_keeps (dcAll_keeps h0))

theorem execDcInvAll_keeps {t : TileId} (h : Keeps s₀ s) : Answers s₀ (execDcInvAll t s) := issue_keeps h (fun _ h0 => retire_keeps (dcAll_keeps h0))

theorem execDcCinvAll_keeps {t : TileId} (h : Keeps s₀ s) : Answers s₀ (execDcCinvAll t s) :=
  issue_keeps h (fun _ h0 => retire_keeps (dcAll_keeps h0))

theorem tlbiLocal_keeps {t : Nat} {o : InvOp} (h : Keeps s₀ s) : Keeps s₀ (tlbiLocal s t o) := retire_keeps (invUnit_keeps h)

theorem execTlbiVa_keeps {t : TileId} {rs1 rs2 : Reg} (h : Keeps s₀ s) : Answers s₀ (execTlbiVa t rs1 rs2 s) :=
  issue_keeps h (fun _ h0 => tlbiLocal_keeps h0)

theorem execTlbiAst_keeps {t : TileId} {rs1 : Reg} (h : Keeps s₀ s) : Answers s₀ (execTlbiAst t rs1 s) :=
  issue_keeps h (fun _ h0 => tlbiLocal_keeps h0)

theorem execTlbiAll_keeps {t : TileId} (h : Keeps s₀ s) : Answers s₀ (execTlbiAll t s) := issue_keeps h (fun _ h0 => tlbiLocal_keeps h0)

theorem tlbiParcel_keeps {t : Nat} {o : InvOp} (h : Keeps s₀ s) : Keeps s₀ (tlbiParcel s t o) := by
  unfold tlbiParcel
  split
  · exact retire_keeps h
  · exact retire_keeps (State.updParcel_keeps (invParcel_keeps (leaveWalk_keeps h)))

theorem execTlbiVaP_keeps {t : TileId} {rs1 rs2 : Reg} (h : Keeps s₀ s) : Answers s₀ (execTlbiVaP t rs1 rs2 s) :=
  issue_keeps h (fun _ h0 => tlbiParcel_keeps h0)

theorem execTlbiAstP_keeps {t : TileId} {rs1 : Reg} (h : Keeps s₀ s) : Answers s₀ (execTlbiAstP t rs1 s) :=
  issue_keeps h (fun _ h0 => tlbiParcel_keeps h0)

theorem execTlbiAllP_keeps {t : TileId} (h : Keeps s₀ s) : Answers s₀ (execTlbiAllP t s) := issue_keeps h (fun _ h0 => tlbiParcel_keeps h0)

theorem execTlbsync_keeps {t : TileId} (h : Keeps s₀ s) : Answers s₀ (execTlbsync t s) := issue_keeps h (fun _ h0 => Keeps.ite (retire_keeps h0) h0)

theorem invalidated_keeps {p : Nat} (h : Keeps s₀ s) : Keeps s₀ (invalidated s p) := by
  unfold invalidated
  split
  · exact h
  · exact Keeps.ite h (by
      dsimp only
      split
      · exact endSeq_keeps (by
          split
          · exact State.updTile_keeps (State.updParcel_keeps h)
          · exact State.updParcel_keeps h)
      · split
        · exact State.updTile_keeps (State.updParcel_keeps h)
        · exact State.updParcel_keeps h)

theorem execInvalidationComplete_keeps {p : ParcelId} (h : Keeps s₀ s) : Answers s₀ (execInvalidationComplete p s) :=
  ⟨_, rfl, live_keeps h (fun _ h0 => settle_keeps (invalidated_keeps h0))⟩

theorem execDecodeDoorbell_keeps {t : TileId} {rd : Reg} (h : Keeps s₀ s) : Answers s₀ (execDecodeDoorbell t rd s) :=
  issue_keeps h (fun _ h0 => ssttStore_keeps h0)

theorem requestFrom_keeps {p src idx : Nat} (h : Keeps s₀ s) : Keeps s₀ (requestFrom s p src idx) :=
  Keeps.foldl h fun _ _ h0 => Keeps.foldl h0 fun _ _ h1 => Keeps.ite (addRequest_keeps h1) h1

theorem decStop_keeps {t : Nat} {r : StopRec} {idx : Nat} (h : Keeps s₀ s) : Keeps s₀ (decStop s t r idx) :=
  State.updTile_keeps (stopTile_keeps (Keeps.ite (State.updTile_keeps (State.updTile_keeps h)) (State.updTile_keeps h)))

theorem decFinish_keeps {t : Nat} {R : DecRun} {e : DecEnd} (h : Keeps s₀ s) : Keeps s₀ (decFinish s t R e) := by
  unfold decFinish
  dsimp only
  split
  · exact State.updTile_keeps (Keeps.ite (forgetDec_keeps h) h)
  · split
    · exact requestFrom_keeps (State.updTile_keeps (Keeps.ite (Keeps.ite (forgetDec_keeps h) h) (State.tilePut_keeps (Keeps.ite
        (forgetDec_keeps h) h))))
    · exact State.updTile_keeps (Keeps.ite (Keeps.ite (forgetDec_keeps h) h) (State.tilePut_keeps (Keeps.ite (forgetDec_keeps h) h)))
  · exact decStop_keeps (Keeps.ite (forgetDec_keeps h) h)
  · exact decStop_keeps (Keeps.ite (forgetDec_keeps h) h)

theorem execDecodeCommandBegin_keeps {t : TileId} (h : Keeps s₀ s) : Answers s₀ (execDecodeCommandBegin t s) := by
  refine ⟨_, rfl, live_keeps h fun s h => ?_⟩
  split
  · extract_lets s1
    split
    · exact decFinish_keeps (State.updTile_keeps h)
    · exact decFinish_keeps (State.updTile_keeps h)
  · exact h

theorem DecW.fail_keeps {reason : Nat} {x : DecW} (h : Keeps s₀ x.s) : Keeps s₀ (DecW.fail x reason).s := h

theorem DecW.set_keeps {f : DecRun → DecRun} {x : DecW} (h : Keeps s₀ x.s) : Keeps s₀ (DecW.set x f).s := h

theorem advance_keeps {n : Nat} {x : DecW} (h : Keeps s₀ x.s) : Keeps s₀ (advance x n).s := by
  unfold advance
  split
  · exact DecW.fail_keeps h
  · exact DecW.set_keeps h

theorem DecW.andThen_keeps {f : DecW → DecW} {x : DecW} (h : Keeps s₀ x.s) (hf : ∀ s, Keeps s₀ s.s → Keeps s₀ (f s).s) :
    Keeps s₀ (DecW.andThen x f).s := by
  unfold DecW.andThen
  split
  · exact hf _ h
  · exact h

theorem peekField_keeps {t c n : Nat} {x : DecW} (h : Keeps s₀ x.s) : Keeps s₀ (peekField t x c n).s := by
  unfold peekField
  split
  · exact h
  · exact DecW.set_keeps h

theorem repeated_keeps {rep : Bool} {f : DecW → DecW} {x : DecW} (h : Keeps s₀ x.s) (hf : ∀ x, Keeps s₀ x.s → Keeps s₀ (f x).s) :
    Keeps s₀ (repeated rep f x).s := by
  unfold repeated
  split
  · exact DecW.andThen_keeps (foldl_keeps (P := fun x : DecW => Keeps s₀ x.s) _ _ h fun _ _ h => DecW.andThen_keeps h hf)
      fun _ => DecW.set_keeps
  · exact hf _ h

theorem takeField_keeps {t n : Nat} {x : DecW} (h : Keeps s₀ x.s) : Keeps s₀ (takeField t x n).2.s := by
  unfold takeField
  split
  · exact DecW.fail_keeps h
  · split
    · exact h
    · exact advance_keeps h

theorem counted_keeps {e pad : Bool} {f : DecW → DecW} {x : DecW} (h : Keeps s₀ x.s) (hf : ∀ s, Keeps s₀ s.s → Keeps s₀ (f s).s) :
    Keeps s₀ (counted x e pad f).s := by
  unfold counted
  split
  · exact hf _ h
  · split
    · split
      · exact h
      · exact DecW.fail_keeps h
    · exact hf _ (DecW.set_keeps h)

theorem tsBit_keeps {t off i : Nat} {b : Bool} (h : Keeps s₀ s) : Keeps s₀ (tsBit s t off i b) := State.tilePut_keeps h

theorem emit_keeps {t target v : Nat} {x : DecW} (h : Keeps s₀ x.s) : Keeps s₀ (emit t x target v).s := by
  unfold emit
  extract_lets c
  split
  · split
    · exact DecW.fail_keeps h
    · exact State.tilePut_keeps h
  · split
    · exact DecW.fail_keeps h
    · exact tsBit_keeps h
  · split
    · exact DecW.fail_keeps h
    · exact tsBit_keeps h
  · exact DecW.set_keeps h

theorem dictEntry_keeps {t i : Nat} {x : DecW} (h : Keeps s₀ x.s) : Keeps s₀ (dictEntry t x i).2.s := by
  unfold dictEntry
  dsimp only
  split
  · exact DecW.fail_keeps h
  · split
    · exact h
    · exact h

theorem emitBits_keeps {t n target post : Nat} {e pad sx : Bool} {x : DecW} (h : Keeps s₀ x.s) :
    Keeps s₀ (emitBits t n target post e pad sx x).s := by
  unfold emitBits
  exact DecW.andThen_keeps (takeField_keeps h) (fun _ h0 => counted_keeps h0 (fun _ h1 => by
    dsimp only
    split
    · exact emit_keeps h1
    · exact emit_keeps h1
    · exact emit_keeps (DecW.set_keeps h1)
    · exact DecW.andThen_keeps (dictEntry_keeps h1) (fun _ h2 => emit_keeps h2)))

theorem varintLoop_keeps {t n acc sh : Nat} {x : DecW} (h : Keeps s₀ x.s) : Keeps s₀ (varintLoop t n acc sh x).s := by
  induction n generalizing acc sh x with
  | zero => exact DecW.fail_keeps h
  | succ n ih =>
    unfold varintLoop
    split
    next heq =>
      refine DecW.andThen_keeps (keeps_dec (takeField_keeps h) heq) fun _ h => ?_
      extract_lets acc
      split
      · exact ih h
      · split
        · exact DecW.fail_keeps h
        · exact DecW.set_keeps h

theorem rangeTest_keeps {t mode : Nat} {signed : Bool} {v : Nat} {x : DecW} (h : Keeps s₀ x.s) : Keeps s₀ (rangeTest t x mode signed v).2.s := by
  unfold rangeTest
  dsimp only
  split
  · exact h
  · exact h
  · exact h
  · split
    · exact DecW.fail_keeps h
    · split
      · exact h
      · exact h

theorem cmpRange_keeps {t mode : Nat} {signed neg e pad src : Bool} {x : DecW} (h : Keeps s₀ x.s) :
    Keeps s₀ (cmpRange t mode signed neg e pad src x).s := by
  have hfield : Keeps s₀ (if src then takeField t x x.r.w else (x.r.a, x)).2.s := by
    split
    · exact takeField_keeps h
    · exact h
  exact DecW.andThen_keeps hfield fun _ h => counted_keeps h fun _ h => DecW.andThen_keeps (rangeTest_keeps h) fun _ => emit_keeps

theorem decAction_keeps {t next word : Nat} {x : DecW} (h : Keeps s₀ x.s) : Keeps s₀ (decAction t next word x).s := by
  unfold decAction
  dsimp only
  split
  · split
    · exact DecW.fail_keeps h
    · exact peekField_keeps h
  · split
    · exact DecW.fail_keeps h
    · exact DecW.set_keeps h
  · split
    · exact DecW.fail_keeps h
    · split
      · exact DecW.fail_keeps h
      · exact repeated_keeps h (fun _ => emitBits_keeps)
  · split
    · exact DecW.fail_keeps h
    · exact repeated_keeps h (fun _ h0 => counted_keeps h0 (fun _ h1 => emit_keeps h1))
  · split
    · exact DecW.fail_keeps h
    · split
      · exact DecW.fail_keeps h
      · split
        · exact advance_keeps h
        · exact advance_keeps h
        · exact advance_keeps h
        · exact DecW.andThen_keeps (advance_keeps h) (fun _ h2 => DecW.set_keeps h2)
  · split
    · exact DecW.fail_keeps h
    · split
      · exact DecW.fail_keeps h
      · exact DecW.andThen_keeps (by
          split
          · exact h
          · exact DecW.andThen_keeps (takeField_keeps h) (fun _ h3 => DecW.set_keeps h3)) (fun _ h4 => DecW.set_keeps h4)
  · split
    · exact DecW.fail_keeps h
    · split
      · exact DecW.fail_keeps h
      · exact varintLoop_keeps h
  · split
    · exact DecW.fail_keeps h
    · exact DecW.set_keeps h
  · split
    · exact DecW.fail_keeps h
    · exact DecW.set_keeps h
  · split
    · exact DecW.fail_keeps h
    · exact DecW.andThen_keeps (dictEntry_keeps h) (fun _ h5 => DecW.set_keeps h5)
  · split
    · exact DecW.fail_keeps h
    · split
      · exact DecW.fail_keeps h
      · exact DecW.set_keeps (by
          split
          · exact DecW.set_keeps h
          · exact h)
  · split
    · exact DecW.fail_keeps h
    · exact DecW.set_keeps h
  · split
    · exact DecW.fail_keeps h
    · split
      · exact DecW.fail_keeps h
      · split
        · exact DecW.fail_keeps h
        · exact h
  · split
    · exact DecW.fail_keeps h
    · split
      · exact DecW.fail_keeps h
      · exact h
  · split
    · exact DecW.fail_keeps h
    · exact repeated_keeps h (fun _ => cmpRange_keeps)
  · split
    · exact DecW.fail_keeps h
    · exact advance_keeps h
  · split
    · exact DecW.fail_keeps h
    · exact h
  · split
    · exact DecW.fail_keeps h
    · split
      · exact h
      · split
        · exact DecW.fail_keeps h
        · split
          · exact DecW.fail_keeps h
          · exact h
  · exact DecW.fail_keeps h

theorem decProgram_keeps {t next n k : Nat} {x : DecW} (h : Keeps s₀ x.s) : Keeps s₀ (decProgram t next n k x).s := by
  induction n generalizing k x with
  | zero => exact DecW.fail_keeps h
  | succ n ih =>
    unfold decProgram
    split
    · exact DecW.fail_keeps h
    · refine DecW.andThen_keeps (decAction_keeps h) fun _ h => ?_
      split
      · exact h
      · exact ih h

theorem decStepW_keeps {t : Nat} {x : DecW} (h : Keeps s₀ x.s) : Keeps s₀ (decStepW t x).s := by
  unfold decStepW
  split
  · exact DecW.fail_keeps h
  · extract_lets e pw x1 x2 x3 x4 x5
    have h2 : Keeps s₀ x2.s := advance_keeps (DecW.set_keeps h)
    have h3 : Keeps s₀ x3.s := DecW.andThen_keeps h2 fun _ h => by
      split
      · exact decProgram_keeps h
      · exact h
    have h4 : Keeps s₀ x4.s := DecW.andThen_keeps h3 fun _ h => by
      split
      · exact h
      · exact DecW.set_keeps h
    have h5 : Keeps s₀ x5.s := DecW.andThen_keeps h4 fun _ h => by
      split
      · exact h
      · exact peekField_keeps h
    split
    · exact DecW.fail_keeps h
    · refine DecW.andThen_keeps h5 fun _ h => ?_
      split
      · exact DecW.fail_keeps h
      · split
        · exact DecW.fail_keeps h
        · exact h

theorem execDecodeStep_keeps {t : TileId} (h : Keeps s₀ s) : Answers s₀ (execDecodeStep t s) := by
  unfold execDecodeStep
  exact ⟨_, rfl, live_keeps h (fun _ h0 => by
    split
    · exact h0
    · exact Keeps.ite (decFinish_keeps h0) (decFinish_keeps (decStepW_keeps h0)))⟩

theorem execDecodeStall_keeps {t : TileId} (h : Keeps s₀ s) : Answers s₀ (execDecodeStall t s) := by
  unfold execDecodeStall
  exact ⟨_, rfl, live_keeps h (fun _ h0 => by
    split
    · exact h0
    · exact Keeps.ite (decFinish_keeps h0) h0)⟩

theorem execRecordDelivery_keeps {src : TileId} (h : Keeps s₀ s) : Answers s₀ (execRecordDelivery src s) :=
  ⟨_, rfl, live_keeps h (fun _ h0 => deliverSend_keeps h0)⟩

theorem tilReset_keeps {t : Nat} (h : Keeps s₀ s) : Keeps s₀ (tilReset s t) := Keeps.ite (State.updTile_keeps h) (resetTile_keeps h)

theorem execTilResetGo_keeps {who : Who} {t : TileId} (h : Keeps s₀ s) : Answers s₀ (execTilResetGo who t s) :=
  ⟨_, rfl, live_keeps h (fun _ h0 => Keeps.ite (tilReset_keeps h0) h0)⟩

theorem execTileResetDone_keeps {t : TileId} (h : Keeps s₀ s) : Answers s₀ (execTileResetDone t s) :=
  ⟨_, rfl, live_keeps h (fun _ h0 => State.updTile_keeps h0)⟩

theorem execSortDoorbell_keeps {t : TileId} {rd : Reg} (h : Keeps s₀ s) : Answers s₀ (execSortDoorbell t rd s) :=
  issue_keeps h (fun _ h0 => ssttStore_keeps h0)

theorem moving_keeps {k : EngKind} {e : Nat} {f : State → State} (h : Keeps s₀ s) (hf : ∀ s, Keeps s₀ s → Keeps s₀ (f s)) :
    Keeps s₀ (moving s k e f) :=
  Keeps.ite (hf _ h) h

theorem sortRun_keeps {p e : Nat} {T : SortTable} {j : EngJob} (h : Keeps s₀ s) : Keeps s₀ (sortRun s p e T j).2 := by
  unfold sortRun
  extract_lets P u failed
  have hfailed (x : UErr) (s : State) (h : Keeps s₀ s) : Keeps s₀ (failed x s).2 := sortForget_keeps (Keeps.mk h)
  split
  next x _ heq => exact hfailed x _ (keeps_snd (unitRead_keeps h) heq)
  next heq =>
    have h1 := keeps_snd (unitRead_keeps h) heq
    extract_lets input
    split
    next x _ heq => exact hfailed x _ (keeps_snd (unitPlaces_keeps h1) heq)
    next heq =>
      have h2 := keeps_snd (unitPlaces_keeps h1) heq
      split
      next x _ heq => exact hfailed x _ (keeps_snd (unitPlaces_keeps h2) heq)
      next o heq _ => exact hfailed (.poison (j.f 0x28 8 + o)) _ (keeps_snd (unitPlaces_keeps h2) heq)
      next heq _ => exact sortForget_keeps (keeps_snd (unitPlaces_keeps h2) heq)

theorem execSortJobEnd_keeps {e : EngId} (h : Keeps s₀ s) : Answers s₀ (execSortJobEnd e s) := by
  unfold execSortJobEnd
  exact ⟨_, rfl, live_keeps h (fun _ h0 => moving_keeps h0 (fun _ h1 => by
    split
    · split
      · exact h1
      · exact State.updJob_keeps (sortRun_keeps h1)
    · exact h1))⟩

theorem applyRed_keeps {r : Red} (h : Keeps s₀ s) : Keeps s₀ (applyRed s r) := by
  refine Keeps.ite (failExec_keeps h) (State.updStack_keeps (h.withMem fun hm => ?_))
  split
  · exact Mem.wf_forget _ _ (Mem.wf_write _ _ hm)
  · exact Mem.wf_write _ _ hm

theorem execReductionApply_keeps {i : Nat} (h : Keeps s₀ s) : Answers s₀ (execReductionApply i s) := by
  unfold execReductionApply
  exact ⟨_, rfl, live_keeps h (fun _ h0 => by
    split
    · exact h0
    · exact settleFrom_keeps (applyRed_keeps (Keeps.mk h0)))⟩

theorem readLock_keeps {who : Who} {n : Nat} (h : Keeps s₀ s) : Keeps s₀ (readLock s who n) := by
  unfold readLock
  split
  · exact Keeps.mk h
  · exact Keeps.mk h
  · split <;> exact Keeps.mk h

theorem takenEvent_keeps {c : Nat} (h : Keeps s₀ s) : Keeps s₀ (takenEvent s c) := Keeps.ite (raiseWith_keeps h) h

theorem arrival_keeps {c : Nat} (h : Keeps s₀ s) : Keeps s₀ (arrival s c) := Keeps.ite (raise_keeps h) h

theorem nextFault_keeps {n c : Nat} (h : Keeps s₀ s) : Keeps s₀ (nextFault n s c) := by
  induction n generalizing s with
  | zero => exact h
  | succ n ih =>
    unfold nextFault
    extract_lets C
    split
    · exact Keeps.ite h (Keeps.ite (ih (countStale_keeps (State.updMchan_keeps h)))
        (arrival_keeps (State.updMchan_keeps (State.updMchan_keeps h))))
    · exact h

theorem takeMessage_keeps {c : Nat} (h : Keeps s₀ s) : Keeps s₀ (takeMessage s c) :=
  Keeps.ite h (Keeps.ite (Keeps.ite (Keeps.mk (takenEvent_keeps (State.updMchan_keeps h))) (nextFault_keeps (Keeps.mk (takenEvent_keeps
    (State.updMchan_keeps h))))) (nextFault_keeps (takenEvent_keeps (State.updMchan_keeps h))))

theorem deny_keeps {c : Nat} (h : Keeps s₀ s) : Keeps s₀ (deny s c) := State.updMchan_keeps h

theorem readEffect_keeps {who : Who} {full : Bool} {lanes : BitVec 8} {x0 : Loc} (h : Keeps s₀ s) : Keeps s₀ (readEffect s who full lanes x0) := by
  unfold readEffect
  split
  · exact Keeps.ite (State.updFrm_keeps h Frm.unfreeze_legal) (Keeps.ite (State.updFrm_keeps h Frm.unfreeze_legal) h)
  · exact Keeps.ite (State.updParcel_keeps h) h
  · exact Keeps.ite h (Keeps.ite (State.updDsp_keeps h) (Keeps.ite (State.updDsp_keeps h) h))
  · exact Keeps.ite h (Keeps.ite (Keeps.ite (takeMessage_keeps h) h) (Keeps.ite h (deny_keeps h)))
  · exact h

theorem readRegister_keeps {who : Who} {off : Nat} {lanes : BitVec 8} (h : Keeps s₀ s) : Keeps s₀ (readRegister s who off lanes) := by
  unfold readRegister
  exact Keeps.ite h (by
    split
    · exact Keeps.mk h
    · exact Keeps.mk (readLock_keeps h)
    · exact readEffect_keeps (Keeps.mk h))

theorem coreRegRead_keeps {k : Fin 4} {off n : Nat} (h : Keeps s₀ s) : Keeps s₀ (coreRegRead s k off n) :=
  Keeps.mk (foldl_keeps (P := fun r : _ × State => Keeps s₀ r.2) _ _ h fun _ _ h0 => readRegister_keeps h0)

theorem glbPut_keeps {fw : Bool} {o : Nat} {put : Word} (h : Keeps s₀ s) : Keeps s₀ (glbPut s fw o put) := by
  unfold glbPut
  split
  · exact Keeps.mk h
  · exact Keeps.ite (Keeps.mk h) h
  · exact h

theorem frmPut_keeps {fw : Bool} {o : Nat} {lanes : BitVec 8} {put ones : Word} (h : Keeps s₀ s) : Keeps s₀ (frmPut s fw o lanes put ones) := by
  unfold frmPut
  split
  · exact Keeps.ite (periodWrite_keeps h) h
  · exact Keeps.ite (holdLimitWrite_keeps h) h
  · exact State.updFrm_keeps h id
  · exact State.updFrm_keeps h id
  · exact Keeps.ite (State.updFrm_keeps h id) h
  · exact h

theorem warnBits_keeps (h : Keeps s₀ s) : Keeps s₀ (warnBits s) := State.updPwr_keeps h

theorem pwrCtlWrite_keeps {v : Word} (h : Keeps s₀ s) : Keeps s₀ (pwrCtlWrite s v) :=
  Keeps.ite (State.updPwr_keeps h) (warnBits_keeps (State.updPwr_keeps h))

theorem ps4IdleWrite_keeps {v : Word} (h : Keeps s₀ s) : Keeps s₀ (ps4IdleWrite s v) := State.updPwr_keeps h

theorem pwrPut_keeps {fw : Bool} {o : Nat} {lanes : BitVec 8} {put ones : Word} (h : Keeps s₀ s) : Keeps s₀ (pwrPut s fw o lanes put ones) := by
  unfold pwrPut
  split
  · exact State.updPwr_keeps h
  · exact Keeps.ite (pwrCtlWrite_keeps h) h
  · exact Keeps.ite (ps4IdleWrite_keeps h) h
  · exact State.updPwr_keeps h
  · exact State.updPwr_keeps h
  · exact Keeps.ite (State.updPwr_keeps h) h
  · exact h

theorem rstCtlWrite_keeps {v : Word} (h : Keeps s₀ s) : Keeps s₀ (rstCtlWrite s v) := Keeps.ite (warmReset_keeps h) h

theorem rstPut_keeps {fw : Bool} {o : Nat} {put ones : Word} (h : Keeps s₀ s) : Keeps s₀ (rstPut s fw o put ones) := by
  unfold rstPut
  split
  · exact settleFrom_keeps (rstCtlWrite_keeps h)
  · exact Keeps.ite (State.updPwr_keeps h) h
  · exact h

theorem recGo_keeps {failed : Bool} (h : Keeps s₀ s) : Keeps s₀ (recGo s failed) :=
  Keeps.ite h (Keeps.ite (State.updBoot_keeps h) (enterImage_keeps (State.updPort_keeps (State.updBoot_keeps h))))

theorem recCtlWrite_keeps {v : Word} {failed : Bool} (h : Keeps s₀ s) : Keeps s₀ (recCtlWrite s v failed) :=
  Keeps.ite (recGo_keeps (State.updBoot_keeps h)) h

theorem bootPut_keeps {fw : Bool} {o : Nat} {put ones : Word} (h : Keeps s₀ s) : Keeps s₀ (bootPut s fw o put ones) := by
  unfold bootPut
  split
  · exact Keeps.ite (State.updBoot_keeps h) h
  · exact Keeps.ite (recCtlWrite_keeps h) h
  · exact Keeps.ite (State.updBoot_keeps h) h
  · exact h

theorem hltPut_keeps {fw : Bool} {o : Nat} {put ones : Word} (h : Keeps s₀ s) : Keeps s₀ (hltPut s fw o put ones) := by
  unfold hltPut
  split
  · exact State.updHlt_keeps h
  · exact State.updHlt_keeps h
  · exact Keeps.ite h (State.updHlt_keeps h)
  · exact Keeps.ite (State.updHlt_keeps h) h
  · exact h

theorem routeWrite_keeps {i : Nat} {keepDest : Bool} {v : Word} (h : Keeps s₀ s) : Keeps s₀ (routeWrite s i keepDest v) := by
  unfold routeWrite
  exact Keeps.ite (Keeps.mk h) (by
    dsimp only
    split
    · exact deliverRecord_keeps (State.updEvSrc_keeps h)
    · exact State.updEvSrc_keeps h)

theorem routePut_keeps {who : Who} {i : Nat} {lanes : BitVec 8} {put : Word} (h : Keeps s₀ s) : Keeps s₀ (routePut s who i lanes put) :=
  Keeps.ite h (Keeps.ite (routeWrite_keeps h) (Keeps.ite (routeWrite_keeps h) h))

theorem clearSource_keeps {i : Nat} (h : Keeps s₀ s) : Keeps s₀ (clearSource s i) := State.updEvSrc_keeps h

theorem pendPut_keeps {who : Who} {n : Nat} {ones : Word} (h : Keeps s₀ s) : Keeps s₀ (pendPut s who n ones) :=
  Keeps.foldl h fun _ _ h0 => Keeps.ite (clearSource_keeps h0) h0

theorem evtPut_keeps {fw : Bool} {o : Nat} {put ones : Word} (h : Keeps s₀ s) : Keeps s₀ (evtPut s fw o put ones) := by
  unfold evtPut
  split
  · exact Keeps.mk h
  · exact Keeps.ite (Keeps.mk h) h
  · exact h

theorem evRefused_keeps (h : Keeps s₀ s) : Keeps s₀ (evRefused s) := Keeps.mk h

theorem evRingBase_keeps {f : Nat} {v : Word} (h : Keeps s₀ s) : Keeps s₀ (evRingBase s f v) :=
  Keeps.ite (evRefused_keeps h) (Keeps.ite (State.updEvRing_keeps (State.updEvRing_keeps h)) (State.updEvRing_keeps h))

theorem evRingCfg_keeps {f : Nat} {v : Word} (h : Keeps s₀ s) : Keeps s₀ (evRingCfg s f v) :=
  Keeps.ite (evRefused_keeps h) (drainEvRing_keeps (Keeps.ite (State.updEvRing_keeps (State.updEvRing_keeps h)) (State.updEvRing_keeps h)))

theorem evRingHead_keeps {f : Nat} {v : Word} (h : Keeps s₀ s) : Keeps s₀ (evRingHead s f v) :=
  Keeps.ite (Keeps.mk h) (drainEvRing_keeps (State.updEvRing_keeps h))

theorem ringPut_keeps {f o : Nat} {lanes : BitVec 8} {put : Word} (h : Keeps s₀ s) : Keeps s₀ (ringPut s f o lanes put) := by
  unfold ringPut
  split
  · exact evRingBase_keeps h
  · exact Keeps.ite (evRingCfg_keeps h) h
  · exact Keeps.ite (evRingHead_keeps h) h
  · exact h

theorem otherWrite_keeps {who : Who} {c : Nat} (h : Keeps s₀ s) : Keeps s₀ (otherWrite s who c) := Keeps.ite h (deny_keeps h)

theorem alarm_keeps {c : Nat} (h : Keeps s₀ s) : Keeps s₀ (alarm s c) := Keeps.ite (raiseWith_keeps (raise_keeps h)) h

theorem placeMessage_keeps {c : Nat} {v : Word} (h : Keeps s₀ s) : Keeps s₀ (placeMessage s c v) :=
  Keeps.ite (alarm_keeps (State.updMchan_keeps h)) (Keeps.ite (alarm_keeps (State.updMchan_keeps (State.updMchan_keeps h))) (arrival_keeps
    (State.updMchan_keeps h)))

theorem mbxPut_keeps {who : Who} {c o : Nat} {lanes : BitVec 8} {put v : Word} (h : Keeps s₀ s) : Keeps s₀ (mbxPut s who c o lanes put v) :=
  Keeps.ite (Keeps.ite (otherWrite_keeps h) (Keeps.ite (State.updMchan_keeps h) (Keeps.ite (placeMessage_keeps h) (State.updMchan_keeps h))))
    (Keeps.ite (Keeps.ite (State.updMchan_keeps h) h) (Keeps.ite (State.updMchan_keeps h) h))

theorem bindWrite_keeps {c : Nat} {v : Word} (h : Keeps s₀ s) : Keeps s₀ (bindWrite s c v) :=
  Keeps.ite (Keeps.mk h) (nextFault_keeps (State.updMchan_keeps h))

theorem freeLock_keeps {n : Nat} (h : Keeps s₀ s) : Keeps s₀ (freeLock s n) := Keeps.mk h

theorem forceLock_keeps {v : Word} (h : Keeps s₀ s) : Keeps s₀ (forceLock s v) := Keeps.ite (raiseGlobal_keeps (Keeps.mk (freeLock_keeps h))) h

theorem mbxBlockPut_keeps {o : Nat} {lanes : BitVec 8} {put ones : Word} (h : Keeps s₀ s) : Keeps s₀ (mbxBlockPut s o lanes put ones) := by
  unfold mbxBlockPut
  split
  · exact Keeps.mk h
  · exact Keeps.ite (Keeps.mk h) h
  · exact Keeps.mk h
  · exact forceLock_keeps h
  · exact Keeps.mk h
  · exact h

theorem writeLock_keeps {who : Who} {n : Nat} {v : Word} (h : Keeps s₀ s) : Keeps s₀ (writeLock s who n v) := by
  unfold writeLock
  split
  · exact h
  · exact Keeps.ite (freeLock_keeps h) (raiseGlobal_keeps (Keeps.mk h))

theorem vfSplitWrite_keeps {v : Word} (h : Keeps s₀ s) : Keeps s₀ (vfSplitWrite s v) := Keeps.ite (Keeps.mk h) (Keeps.mk h)

theorem pclPut_keeps {o : Nat} {lanes : BitVec 8} {put ones : Word} (h : Keeps s₀ s) : Keeps s₀ (pclPut s o lanes put ones) := by
  unfold pclPut
  split
  · exact Keeps.mk h
  · exact Keeps.ite (vfSplitWrite_keeps h) h
  · exact h

theorem frameDivWrite_keeps {p : Nat} {v : Word} (h : Keeps s₀ s) : Keeps s₀ (frameDivWrite s p v) := Keeps.ite (Keeps.mk h) (State.updParcel_keeps h)

theorem parkLimitWrite_keeps {p : Nat} {v : Word} (h : Keeps s₀ s) : Keeps s₀ (parkLimitWrite s p v) :=
  Keeps.ite (Keeps.mk h) (State.updParcel_keeps h)

theorem idleWrite_keeps {p i : Nat} {v : Word} (h : Keeps s₀ s) : Keeps s₀ (idleWrite s p i v) := State.updParcel_keeps h

theorem pclPPut_keeps {p o : Nat} {lanes : BitVec 8} {put : Word} (h : Keeps s₀ s) : Keeps s₀ (pclPPut s p o lanes put) := by
  unfold pclPPut
  split
  · exact Keeps.ite (frameDivWrite_keeps h) h
  · exact Keeps.ite (parkLimitWrite_keeps h) h
  · exact Keeps.ite (idleWrite_keeps h) h
  · exact Keeps.ite (idleWrite_keeps h) h
  · exact Keeps.ite (idleWrite_keeps h) h
  · exact h

theorem affDepthWrite_keeps {v : Word} (h : Keeps s₀ s) : Keeps s₀ (affDepthWrite s v) := Keeps.ite (Keeps.mk h) (Keeps.mk h)

theorem dspPut_keeps {fw : Bool} {o : Nat} {lanes : BitVec 8} {put ones : Word} (h : Keeps s₀ s) : Keeps s₀ (dspPut s fw o lanes put ones) := by
  unfold dspPut
  split
  · exact Keeps.mk h
  · exact Keeps.ite (affDepthWrite_keeps h) h
  · exact Keeps.mk h
  · exact Keeps.mk h
  · exact Keeps.ite (Keeps.mk h) h
  · exact h

theorem scrubCtlWrite_keeps {k : Nat} {v : Word} (h : Keeps s₀ s) : Keeps s₀ (scrubCtlWrite s k v) :=
  Keeps.ite (State.updStack_keeps h) (State.updStack_keeps h)

theorem memPut_keeps {fw : Bool} {k o : Nat} {lanes : BitVec 8} {put ones : Word} (h : Keeps s₀ s) : Keeps s₀ (memPut s fw k o lanes put ones) := by
  unfold memPut
  exact Keeps.ite h (by
    split
    · exact State.updStack_keeps h
    · exact State.updStack_keeps h
    · exact Keeps.ite (scrubCtlWrite_keeps h) h
    · exact State.updStack_keeps h
    · exact Keeps.ite (State.updStack_keeps h) h
    · exact Keeps.ite (State.updStack_keeps h) h
    · exact h)

theorem groupPut_keeps {fw : Bool} {g o : Nat} {put ones : Word} (h : Keeps s₀ s) : Keeps s₀ (groupPut s fw g o put ones) := by
  unfold groupPut
  split
  · exact Keeps.ite (State.updGroup_keeps h) h
  · exact State.updGroup_keeps h
  · exact State.updGroup_keeps h
  · exact Keeps.ite (State.updGroup_keeps h) h
  · exact h

theorem dmaStart_keeps {who : Who} {g c : Nat} {ctl : Word} (h : Keeps s₀ s) : Keeps s₀ (dmaStart s who g c ctl) :=
  Keeps.ite h (Keeps.ite (State.updChan_keeps h) (Keeps.ite (State.updChan_keeps h) (Keeps.ite (abortChan_keeps h) (Keeps.ite
    (State.updChan_keeps h) (beginTransfer_keeps (State.updChan_keeps h))))))

theorem chanPut_keeps {who : Who} {g c o : Nat} {put ones : Word} (h : Keeps s₀ s) : Keeps s₀ (chanPut s who g c o put ones) :=
  Keeps.ite (dmaStart_keeps h) (Keeps.ite (State.updChan_keeps h) (Keeps.ite (abortChan_keeps h) (Keeps.ite (State.updChan_keeps h)
    (State.updChan_keeps h))))

theorem engPut_keeps {fw : Bool} {k : EngKind} {n o : Nat} {put ones : Word} (h : Keeps s₀ s) : Keeps s₀ (engPut s fw k n o put ones) := by
  unfold engPut
  exact Keeps.ite h (by
    split
    · exact State.updEng_keeps h
    · exact State.updEng_keeps h
    · exact Keeps.ite (State.updEng_keeps h) h
    · exact Keeps.ite (State.updEng_keeps h) h
    · exact Keeps.ite (State.updEng_keeps h) h
    · exact Keeps.ite (State.updEng_keeps h) h
    · exact h)

theorem keyOwnWrite_keeps {j v : Nat} {named : Nat → Bool} (h : Keeps s₀ s) : Keeps s₀ (keyOwnWrite s j v named) := by
  unfold keyOwnWrite
  exact Keeps.foldl h fun _ _ h0 => by
    dsimp only
    split
    · exact Keeps.ite h0 (State.setKey_keeps h0)
    · exact h0

theorem dgtCmpWrite_keeps {v : Word} (h : Keeps s₀ s) : Keeps s₀ (dgtCmpWrite s v) := State.updDgt_keeps h

theorem dgtPut_keeps {o : Nat} {lanes : BitVec 8} {put v : Word} (h : Keeps s₀ s) : Keeps s₀ (dgtPut s o lanes put v) :=
  Keeps.ite (keyOwnWrite_keeps h) (Keeps.ite (Keeps.mk h) (Keeps.ite (dgtCmpWrite_keeps h) h))

theorem slowEvent_keeps {n : Nat} (h : Keeps s₀ s) : Keeps s₀ (slowEvent s n) := Keeps.ite h (raiseCask_keeps (State.updCask_keeps h))

theorem rackShareWrite_keeps {n : Nat} {v : Word} (h : Keeps s₀ s) : Keeps s₀ (rackShareWrite s n v) := Keeps.ite (State.updCask_keeps h) h

theorem rackLiveWrite_keeps {n : Nat} {v : Word} (h : Keeps s₀ s) : Keeps s₀ (rackLiveWrite s n v) := Keeps.ite (State.updCask_keeps h) h

theorem cskPut_keeps {fw : Bool} {n o : Nat} {lanes : BitVec 8} {put ones : Word} (h : Keeps s₀ s) : Keeps s₀ (cskPut s fw n o lanes put ones) := by
  unfold cskPut
  exact Keeps.ite h (by
    split
    · exact State.updCask_keeps h
    · exact slowEvent_keeps (State.updCask_keeps h)
    · exact State.updCask_keeps h
    · exact Keeps.ite (rackShareWrite_keeps h) h
    · exact Keeps.ite (rackLiveWrite_keeps h) h
    · exact Keeps.ite (State.updCask_keeps h) h
    · exact h)

theorem stoCtlWrite_keeps {v : Word} (h : Keeps s₀ s) : Keeps s₀ (stoCtlWrite s v) := Keeps.ite (Keeps.mk h) (Keeps.mk h)

theorem stoPut_keeps {fw : Bool} {o : Nat} {lanes : BitVec 8} {put ones : Word} (h : Keeps s₀ s) : Keeps s₀ (stoPut s fw o lanes put ones) := by
  unfold stoPut
  split
  · exact Keeps.mk h
  · exact Keeps.ite (stoCtlWrite_keeps h) h
  · exact Keeps.ite (Keeps.mk h) h
  · exact h

theorem taskWrite_keeps {w : Window} {off : Nat} {bytes : List Byte} (h : Keeps s₀ s) : Keeps s₀ (taskWrite s w off bytes) :=
  Keeps.ite h (Keeps.ite (State.updPort_keeps h) (Keeps.ite (State.updWin_keeps h) (Keeps.ite (State.updWin_keeps h) (State.updWin_keeps h))))

theorem cqBase_keeps {w : Window} {v : Word} (h : Keeps s₀ s) : Keeps s₀ (cqBase s w v) :=
  Keeps.ite (State.updWin_keeps h) (Keeps.ite (State.updWin_keeps (State.updWin_keeps h)) (State.updWin_keeps h))

theorem drainRing_keeps {w : Window} (h : Keeps s₀ s) : Keeps s₀ (drainRing s w) := settle_keeps (drainWin_keeps h)

theorem cqCfg_keeps {w : Window} {v : Word} (h : Keeps s₀ s) : Keeps s₀ (cqCfg s w v) :=
  Keeps.ite (State.updWin_keeps h) (drainRing_keeps (Keeps.ite (State.updWin_keeps (State.updWin_keeps h)) (State.updWin_keeps h)))

theorem cqHead_keeps {w : Window} {v : Word} (h : Keeps s₀ s) : Keeps s₀ (cqHead s w v) :=
  Keeps.ite (State.updWin_keeps h) (drainRing_keeps (State.updWin_keeps h))

theorem wparcel_keeps {w : Window} {v : Word} (h : Keeps s₀ s) : Keeps s₀ (wparcel s w v) :=
  Keeps.ite h (Keeps.ite (State.updWin_keeps h) (State.updWin_keeps h))

theorem tskPut_keeps {who : Who} {w : Window} {o : Nat} {lanes : BitVec 8} {put ones : Word} (h : Keeps s₀ s) :
    Keeps s₀ (tskPut s who w o lanes put ones) := by
  unfold tskPut
  exact Keeps.ite h (Keeps.ite (taskWrite_keeps h) (by
    split
    · exact State.updWin_keeps h
    · exact cqBase_keeps h
    · exact Keeps.ite (cqCfg_keeps h) h
    · exact Keeps.ite (cqHead_keeps h) h
    · exact Keeps.ite (wparcel_keeps h) h
    · exact h))

theorem tilPut_keeps {fw : Bool} {t o : Nat} {put ones : Word} (h : Keeps s₀ s) : Keeps s₀ (tilPut s fw t o put ones) := by
  unfold tilPut
  split
  · exact State.updTile_keeps h
  · exact State.updTile_keeps h
  · exact Keeps.ite (tilReset_keeps h) h
  · exact Keeps.ite (State.updTile_keeps h) h
  · exact Keeps.ite (State.updTile_keeps h) h
  · exact h

theorem tchCtl_keeps {t : Nat} {v : Word} (h : Keeps s₀ s) : Keeps s₀ (tchCtl s t v) := by
  unfold tchCtl
  extract_lets C s1
  have h1 : Keeps s₀ s1 := State.updCache_keeps h
  exact Keeps.ite (State.updCache_keeps h) (Keeps.ite (Keeps.ite h1 (Keeps.ite (State.updCache_keeps h1) (State.updCache_keeps h1)))
    (Keeps.ite (State.updCache_keeps (cleanLines_keeps h1)) h1))

theorem tchIdle_keeps {who : Who} {t : Nat} (h : Keeps s₀ s) : Keeps s₀ (tchIdle s who t) := Keeps.ite (State.updCache_keeps h) h

theorem tchMaint_keeps {who : Who} {t : Nat} {o : DcOp} {n : Nat} (h : Keeps s₀ s) : Keeps s₀ (tchMaint s who t o n) := by
  unfold tchMaint
  exact Keeps.ite h (Keeps.ite (State.updCache_keeps h) (State.updCache_keeps (by
    split
    · exact Keeps.ite (dcLines_keeps h) h
    · exact State.updCache_keeps (dcLines_keeps h))))

theorem tchPut_keeps {who : Who} {fw : Bool} {t o : Nat} {lanes : BitVec 8} {put ones : Word} (h : Keeps s₀ s) :
    Keeps s₀ (tchPut s who fw t o lanes put ones) := by
  unfold tchPut
  split
  · exact Keeps.ite (tchCtl_keeps h) h
  · exact State.updCache_keeps h
  · split
    · exact tchIdle_keeps h
    · exact tchMaint_keeps h
    · exact tchMaint_keeps h
    · exact tchMaint_keeps h
  · exact Keeps.ite (State.updCache_keeps h) h
  · exact h

theorem mmuIdle_keeps {who : Who} {t : Nat} (h : Keeps s₀ s) : Keeps s₀ (mmuIdle s who t) := Keeps.ite (State.updTile_keeps h) h

theorem mmuInv_keeps {who : Who} {t : Nat} {parcelWide : Bool} {kind : Nat} (h : Keeps s₀ s) : Keeps s₀ (mmuInv s who t parcelWide kind) := by
  unfold mmuInv
  exact Keeps.ite h (Keeps.ite (State.updTile_keeps h) (by
    dsimp only
    split
    · exact State.updTile_keeps (State.updParcel_keeps (invParcel_keeps h))
    · split
      · exact invUnit_keeps (holdUnit_keeps h)
      · exact Keeps.ite (invUnit_keeps (holdUnit_keeps h)) (State.updTile_keeps (State.updParcel_keeps (invUnit_keeps (holdUnit_keeps h))))))

theorem mmuPut_keeps {who : Who} {t o : Nat} {put ones : Word} (h : Keeps s₀ s) : Keeps s₀ (mmuPut s who t o put ones) := by
  unfold mmuPut
  dsimp only
  split
  · exact State.updTile_keeps h
  · exact State.updTile_keeps h
  · exact State.updTile_keeps h
  · exact Keeps.ite (mmuIdle_keeps h) (mmuInv_keeps h)
  · exact h

theorem flushVector_keeps {f v : Nat} (h : Keeps s₀ s) : Keeps s₀ (flushVector s f v) := Keeps.ite (sendMsix_keeps (Keeps.mk h)) h

theorem unmaskVector_keeps {f v : Nat} (h : Keeps s₀ s) : Keeps s₀ (unmaskVector s f v) := flushVector_keeps (Keeps.mk h)

theorem msixPut_keeps {f v : Nat} {high : Bool} {put : Word} (h : Keeps s₀ s) : Keeps s₀ (msixPut s f v high put) :=
  Keeps.ite (Keeps.mk h) (Keeps.ite (Keeps.mk h) (unmaskVector_keeps (Keeps.mk h)))

theorem windowPut_keeps {o : Nat} {lanes : BitVec 8} {v : Word} (h : Keeps s₀ s) : Keeps s₀ (windowPut s o lanes v) :=
  Keeps.ite h (State.updBoot_keeps h)

theorem regPut_keeps {who : Who} {fw : Bool} {l : Loc} {lanes : BitVec 8} {v : Word} (h : Keeps s₀ s) : Keeps s₀ (regPut s who fw l lanes v) := by
  unfold regPut
  dsimp only
  split
  · exact glbPut_keeps h
  · exact frmPut_keeps h
  · exact pwrPut_keeps h
  · exact rstPut_keeps h
  · exact bootPut_keeps h
  · exact hltPut_keeps h
  · exact routePut_keeps h
  · exact pendPut_keeps h
  · exact evtPut_keeps h
  · exact ringPut_keeps h
  · exact mbxPut_keeps h
  · exact Keeps.ite (bindWrite_keeps h) h
  · exact mbxBlockPut_keeps h
  · exact writeLock_keeps h
  · exact Keeps.mk h
  · exact pclPut_keeps h
  · exact pclPPut_keeps h
  · exact dspPut_keeps h
  · exact memPut_keeps h
  · exact groupPut_keeps h
  · exact chanPut_keeps h
  · exact engPut_keeps h
  · exact dgtPut_keeps h
  · exact cskPut_keeps h
  · exact stoPut_keeps h
  · exact tskPut_keeps h
  · exact Keeps.ite (tilPut_keeps h) h
  · exact Keeps.ite (tchPut_keeps h) h
  · exact Keeps.ite (mmuPut_keeps h) h
  · exact State.updParcel_keeps h
  · exact msixPut_keeps h
  · exact windowPut_keeps h
  · exact h
  · exact h
  · exact h
  · exact h
  · exact h
  · exact h

theorem writeRegister_keeps {who : Who} {off : Nat} {lanes : BitVec 8} {v : Word} (h : Keeps s₀ s) : Keeps s₀ (writeRegister s who off lanes v) := by
  unfold writeRegister
  exact Keeps.ite h (by
    split
    · exact regPut_keeps h
    · exact regPut_keeps h
    · exact h)

theorem coreRegWrite_keeps {k : Fin 4} {off : Nat} {bs : List Byte} (h : Keeps s₀ s) : Keeps s₀ (coreRegWrite s k off bs) :=
  Keeps.foldl h fun _ _ h0 => writeRegister_keeps h0

theorem writePresent_keeps {a : Nat} {bs : List Byte} {poison : Bool} (h : Keeps s₀ s) : Keeps s₀ (writePresent s a bs poison) :=
  Keeps.foldl h fun _ _ h0 => Keeps.ite h0 (fabricWrite_keeps h0)

theorem absentRequest_keeps {a : Nat} {op : MemOp} (h : Keeps s₀ s) : Keeps s₀ (absentRequest s a op) := by
  unfold absentRequest
  exact raiseGlobal_keeps (by
    split
    · exact Keeps.mk h
    · exact Keeps.mk (writePresent_keeps h))

theorem serve_keeps {p : Option Nat} {a : Nat} {op : MemOp} {ecc : Ecc} (h : Keeps s₀ s) : Keeps s₀ (serve s p a op ecc) := by
  unfold serve
  split
  · exact Keeps.mk (fabricRead_keeps (by
      split
      · exact eccRead_keeps h
      · exact h))
  · exact Keeps.mk (noteHost_keeps (fabricWrite_keeps h))

theorem refuseRequest_keeps (h : Keeps s₀ s) : Keeps s₀ (refuseRequest s) := Keeps.mk h

theorem coreRequest_keeps {k : Fin 4} {a : Nat} {op : MemOp} {ecc : Ecc} (h : Keeps s₀ s) : Keeps s₀ (coreRequest s k a op ecc) := by
  unfold coreRequest
  split
  · exact Keeps.mk (coreRegRead_keeps h)
  · exact Keeps.mk (coreRegWrite_keeps h)
  · exact Keeps.ite (absentRequest_keeps h) (Keeps.ite (serve_keeps h) (refuseRequest_keeps h))

theorem memRequest_keeps {m : Master} {a : Nat} {op : MemOp} {ecc : Ecc} (h : Keeps s₀ s) : Keeps s₀ (memRequest s m a op ecc) := by
  unfold memRequest
  split
  · exact coreRequest_keeps h
  · split
    · exact Keeps.ite (serve_keeps h) (refuseRequest_keeps h)
    · exact refuseRequest_keeps h

theorem execMemoryRequest_keeps {m : Master} {dpa : Word} {op : MemOp} {ecc : Ecc} (h : Keeps s₀ s) : Answers s₀ (execMemoryRequest m dpa op ecc s) :=
  ⟨_, rfl, live_keeps h (fun _ h0 => memRequest_keeps h0)⟩

theorem scrub_keeps {k : Nat} {ecc : List Ecc} (h : Keeps s₀ s) : Keeps s₀ (scrub s k ecc) :=
  Keeps.ite h (Keeps.ite (raiseStack_keeps (State.updStack_keeps (State.updStack_keeps (foldNat_keeps h (fun _ _ h0 => eccRead_keeps h0)))))
    (State.updStack_keeps (foldNat_keeps h (fun _ _ h1 => eccRead_keeps h1))))

theorem execScrubLine_keeps {k : StackId} {ecc : List Ecc} (h : Keeps s₀ s) : Answers s₀ (execScrubLine k ecc s) :=
  ⟨_, rfl, live_keeps h (fun _ h0 => Keeps.ite (scrub_keeps h0) h0)⟩

theorem execMemScrubCtlWrite_keeps {who : Who} {k : StackId} {v : Word} (h : Keeps s₀ s) : Answers s₀ (execMemScrubCtlWrite who k v s) :=
  ⟨_, rfl, live_keeps h (fun _ h0 => Keeps.ite (scrubCtlWrite_keeps h0) h0)⟩

theorem execMemUeAddrClear_keeps {who : Who} {k : StackId} (h : Keeps s₀ s) : Answers s₀ (execMemUeAddrClear who k s) :=
  ⟨_, rfl, live_keeps h (fun _ h0 => Keeps.ite (State.updStack_keeps h0) h0)⟩

theorem execCacheLineFill_keeps {t : TileId} {dpa : Word} (h : Keeps s₀ s) : Answers s₀ (execCacheLineFill t dpa s) :=
  ⟨_, rfl, live_keeps h (fun _ h0 => Keeps.ite (cacheFill_keeps h0) h0)⟩

theorem execPrefetchFill_keeps {t : TileId} (h : Keeps s₀ s) : Answers s₀ (execPrefetchFill t s) := by
  unfold execPrefetchFill
  exact ⟨_, rfl, live_keeps h (fun _ h0 => by
    split
    · exact h0
    · exact sideArrive_keeps h0)⟩

theorem execSideLineExpire_keeps {t : TileId} (h : Keeps s₀ s) : Answers s₀ (execSideLineExpire t s) :=
  ⟨_, rfl, live_keeps h (fun _ h0 => State.updCache_keeps h0)⟩

theorem execCeWindowEnd_keeps {t : TileId} (h : Keeps s₀ s) : Answers s₀ (execCeWindowEnd t s) :=
  ⟨_, rfl, live_keeps h (fun _ h0 => State.updCache_keeps h0)⟩

theorem wayDisable_keeps {t w : Nat} (h : Keeps s₀ s) : Keeps s₀ (wayDisable s t w) := by
  unfold wayDisable
  extract_lets C s1 s2 s3 s4 s5
  have h2 : Keeps s₀ s2 := State.updCache_keeps (Keeps.foldl h fun _ _ h => Keeps.ite (writeBack_keeps h) h)
  have h5 : Keeps s₀ s5 := raiseTile_keeps (State.updCache_keeps (Keeps.foldl h2 fun _ _ h => writeBack_keeps h))
  exact Keeps.ite h (Keeps.ite (raiseTile_keeps h2) (Keeps.ite (stopFree_keeps h5) h5))

theorem wayErrors_keeps {t w n : Nat} {bad : List Nat} (h : Keeps s₀ s) : Keeps s₀ (wayErrors s t w n bad) :=
  Keeps.ite h (Keeps.ite (wayDisable_keeps (State.updCache_keeps h)) (State.updCache_keeps h))

theorem execCacheWayDisable_keeps {t : TileId} {w : WayErrors} (h : Keeps s₀ s) : Answers s₀ (execCacheWayDisable t w s) :=
  ⟨_, rfl, live_keeps h (fun _ h0 => Keeps.ite (wayErrors_keeps h0) h0)⟩

theorem execTchCtlWrite_keeps {who : Who} {t : TileId} {v : Word} (h : Keeps s₀ s) : Answers s₀ (execTchCtlWrite who t v s) :=
  ⟨_, rfl, live_keeps h (fun _ h0 => Keeps.ite (tchCtl_keeps h0) h0)⟩

theorem execTchDisableDone_keeps {t : TileId} (h : Keeps s₀ s) : Answers s₀ (execTchDisableDone t s) :=
  ⟨_, rfl, live_keeps h (fun _ h0 => Keeps.ite (State.updCache_keeps (cleanLines_keeps h0)) h0)⟩

theorem execTchMaintCleanAll_keeps {who : Who} {t : TileId} (h : Keeps s₀ s) : Answers s₀ (execTchMaintCleanAll who t s) :=
  ⟨_, rfl, live_keeps h (fun _ h0 => tchMaint_keeps h0)⟩

theorem execTchMaintInvalidateAll_keeps {who : Who} {t : TileId} (h : Keeps s₀ s) : Answers s₀ (execTchMaintInvalidateAll who t s) :=
  ⟨_, rfl, live_keeps h (fun _ h0 => tchMaint_keeps h0)⟩

theorem execTchMaintCleanInvalidate_keeps {who : Who} {t : TileId} (h : Keeps s₀ s) : Answers s₀ (execTchMaintCleanInvalidate who t s) :=
  ⟨_, rfl, live_keeps h (fun _ h0 => tchMaint_keeps h0)⟩

theorem execTchMaintDone_keeps {t : TileId} (h : Keeps s₀ s) : Answers s₀ (execTchMaintDone t s) :=
  ⟨_, rfl, live_keeps h (fun _ h0 => Keeps.ite (State.updCache_keeps h0) h0)⟩

theorem walkOnce_keeps {u : WalkUnit} {va : Nat} {k : AccessKind} {ecc : Ecc} {busError : Bool} (h : Keeps s₀ s) :
    Keeps s₀ (walkOnce s u va k ecc busError) := by
  unfold walkOnce
  split
  · exact h
  · exact Keeps.ite h (by
      dsimp only
      split
      · split
        · exact Keeps.ite h (finishWalk_keeps h)
        · exact h
      · split
        next s0 heq =>
          exact updTlb_keeps (keeps_snd (walkRead_keeps (by
            split
            · exact Keeps.ite h (finishWalk_keeps h)
            · exact h)) heq)
        next s1 heq =>
          have hs1 := keeps_snd (walkRead_keeps (by
            split
            · exact Keeps.ite h (finishWalk_keeps h)
            · exact h)) heq
          exact Keeps.ite (keepResult_keeps hs1) (updTlb_keeps (installLeaf_keeps hs1))
        next s2 heq =>
          exact keepResult_keeps (keeps_snd (walkRead_keeps (by
            split
            · exact Keeps.ite h (finishWalk_keeps h)
            · exact h)) heq))

theorem execWalkDescriptorRead_keeps {u : WalkUnit} {va : Word} {k : AccessKind} {ecc : Ecc} {busError : Bool} (h : Keeps s₀ s) :
    Answers s₀ (execWalkDescriptorRead u va k ecc busError s) :=
  ⟨_, rfl, live_keeps h (fun _ h0 => walkOnce_keeps h0)⟩

theorem execMmuInvByAddress_keeps {who : Who} {t : TileId} {parcelWide : Bool} (h : Keeps s₀ s) :
    Answers s₀ (execMmuInvByAddress who t parcelWide s) :=
  ⟨_, rfl, live_keeps h (fun _ h0 => mmuInv_keeps h0)⟩

theorem execMmuInvByAst_keeps {who : Who} {t : TileId} {parcelWide : Bool} (h : Keeps s₀ s) : Answers s₀ (execMmuInvByAst who t parcelWide s) :=
  ⟨_, rfl, live_keeps h (fun _ h0 => mmuInv_keeps h0)⟩

theorem execMmuInvAll_keeps {who : Who} {t : TileId} {parcelWide : Bool} (h : Keeps s₀ s) : Answers s₀ (execMmuInvAll who t parcelWide s) :=
  ⟨_, rfl, live_keeps h (fun _ h0 => mmuInv_keeps h0)⟩

theorem execMap_keeps {w : Window} (h : Keeps s₀ s) : Answers s₀ (execMap w s) := takeRow_keeps h

theorem execUnmap_keeps {w : Window} (h : Keeps s₀ s) : Answers s₀ (execUnmap w s) := takeRow_keeps h

theorem execDmaStart_keeps {who : Who} {g : GroupId} {c : ChanId} {ctl : Word} (h : Keeps s₀ s) : Answers s₀ (execDmaStart who g c ctl s) :=
  ⟨_, rfl, live_keeps h (fun _ h0 => dmaStart_keeps h0)⟩

theorem execDmaAbort_keeps {who : Who} {g : GroupId} {c : ChanId} (h : Keeps s₀ s) : Answers s₀ (execDmaAbort who g c s) :=
  ⟨_, rfl, live_keeps h (fun _ h0 => Keeps.ite h0 (Keeps.ite (State.updChan_keeps h0) (abortChan_keeps h0)))⟩

theorem execDmaRequest_keeps {g : GroupId} {c : ChanId} {src : BitVec 3} (h : Keeps s₀ s) : Answers s₀ (execDmaRequest g c src s) :=
  ⟨_, rfl, live_keeps h (fun _ h0 => Keeps.ite h0 (Keeps.ite (State.updChan_keeps h0) (addRequest_keeps h0)))⟩

theorem execMoverDoorbell_keeps {t : TileId} {rd : Reg} (h : Keeps s₀ s) : Answers s₀ (execMoverDoorbell t rd s) :=
  issue_keeps h (fun _ h0 => ssttStore_keeps h0)

theorem fillLooked_keeps {g : Nat} {C : Chan} (h : Keeps s₀ s) : Keeps s₀ (fillLooked s g C) := Keeps.ite (Keeps.mk h) h

theorem burstStart_keeps {g c : Nat} (h : Keeps s₀ s) : Keeps s₀ (burstStart s g c) :=
  Keeps.ite h (Keeps.ite (State.updChan_keeps (fillLooked_keeps h)) (State.updChan_keeps (State.updChan_keeps (fillLooked_keeps h))))

theorem execBurstStart_keeps {g : GroupId} {c : ChanId} (h : Keeps s₀ s) : Answers s₀ (execBurstStart g c s) :=
  ⟨_, rfl, live_keeps h (fun _ h0 => burstStart_keeps h0)⟩

theorem oldBurstEnds_keeps {g c : Nat} (h : Keeps s₀ s) : Keeps s₀ (oldBurstEnds s g c) := by
  unfold oldBurstEnds
  split
  · exact h
  · exact Keeps.ite (countStale_keeps (State.updChan_keeps h)) (Keeps.foldl (State.updChan_keeps h) fun _ _ h0 => forgetRun_keeps h0)

theorem burstRead_keeps {g : Nat} {runs : List (Nat × Nat)} {lost : List Nat} {r : ReadResult} (h : Keeps s₀ s) :
    Keeps s₀ (burstRead s g runs lost r).2.2 := by
  refine foldl_keeps (P := fun r : _ × _ × State => Keeps s₀ r.2.2) _ _ h fun acc run h => ?_
  split
  · exact h
  · split
    next heq => exact keeps_snd (translate_keeps h) heq
    next heq =>
      have h1 := keeps_snd (translate_keeps h) heq
      split
      · split
        · exact State.updPort_keeps h1
        · split
          · exact noteRead_keeps h1
          · exact Keeps.mk (noteRead_keeps h1)
      · split
        · exact h1
        · exact fabricRead_keeps h1

theorem burstSource_keeps {g : Nat} {C : Chan} {b : Burst} {r : ReadResult} (h : Keeps s₀ s) : Keeps s₀ (burstSource s g C b r).2.2 := by
  unfold burstSource
  split
  · split <;> exact h
  · exact burstRead_keeps h

theorem burstWrite_keeps {g : Nat} {C : Chan} {runs : List (Nat × Nat)} {bs : List (Byte × Bool)} (h : Keeps s₀ s) :
    Keeps s₀ (burstWrite s g C runs bs).2.2 := by
  refine foldl_keeps (P := fun r : _ × _ × State => Keeps s₀ r.2.2) _ _ h fun acc run h => ?_
  split
  · exact h
  · split
    · exact h
    · split
      next heq => exact keeps_snd (translate_keeps h) heq
      next heq =>
        have h1 := keeps_snd (translate_keeps h) heq
        extract_lets part inbox host
        split
        · exact h1
        · split
          · exact h1
          · split
            · exact countStale_keeps h1
            · exact noteHost_keeps (putLines_keeps h1)

theorem retryDone_keeps {g c : Nat} (h : Keeps s₀ s) : Keeps s₀ (retryDone s g c) := by
  unfold retryDone
  split
  · exact Keeps.ite h (Keeps.ite (raise_keeps (State.updChan_keeps h)) (State.updChan_keeps h))
  · exact h

theorem endTransfer_keeps {g c : Nat} (h : Keeps s₀ s) : Keeps s₀ (endTransfer s g c) :=
  Keeps.ite (advanceProg_keeps (finishDone_keeps h)) (finishDone_keeps h)

theorem burstAccept_keeps {g c : Nat} {b : Burst} {bs : List (Byte × Bool)} {n : Nat} {whole : Bool} (h : Keeps s₀ s) :
    Keeps s₀ (burstAccept s g c b bs n whole) := by
  unfold burstAccept
  exact Keeps.ite (by
    split
    · exact State.updEng_keeps (State.updChan_keeps h)
    · exact State.updChan_keeps h) (Keeps.ite (endTransfer_keeps (State.updChan_keeps (Keeps.ite (chanEnqueue_keeps (State.updChan_keeps (by
    split
    · exact State.updEng_keeps (State.updChan_keeps h)
    · exact State.updChan_keeps h))) (State.updChan_keeps (by
    split
    · exact State.updEng_keeps (State.updChan_keeps h)
    · exact State.updChan_keeps h))))) (readAhead_keeps (State.updChan_keeps (Keeps.ite (chanEnqueue_keeps (State.updChan_keeps (by
    split
    · exact State.updEng_keeps (State.updChan_keeps h)
    · exact State.updChan_keeps h))) (State.updChan_keeps (by
    split
    · exact State.updEng_keeps (State.updChan_keeps h)
    · exact State.updChan_keeps h))))))

theorem nextAccess_keeps {g c dpa : Nat} {onWrite : Bool} (h : Keeps s₀ s) : Keeps s₀ (nextAccess s g c dpa onWrite) := by
  unfold nextAccess
  split
  · exact Keeps.ite h (State.updChan_keeps (retryDone_keeps h))
  · exact h

theorem groupStop_keeps {g dpa : Nat} (h : Keeps s₀ s) : Keeps s₀ (groupStop s g dpa) :=
  Keeps.ite (raise_keeps (Keeps.foldl (State.updGroup_keeps h) fun _ _ h0 => haltChan_keeps h0)) (Keeps.foldl
    (State.updGroup_keeps h) fun _ _ h1 => haltChan_keeps h1)

theorem busError_keeps {g c dpa : Nat} {onWrite : Bool} (h : Keeps s₀ s) : Keeps s₀ (busError s g c dpa onWrite).1 := by
  unfold busError
  dsimp only
  split
  · exact groupStop_keeps (nextAccess_keeps h)
  · split
    · exact nextAccess_keeps h
    · split
      · exact State.updChan_keeps (nextAccess_keeps h)
      · exact haltChan_keeps (nextAccess_keeps h)

theorem busErrors_keeps {n g c dpa : Nat} {onWrite : Bool} (h : Keeps s₀ s) : Keeps s₀ (busErrors n s g c dpa onWrite) := by
  induction n generalizing s with
  | zero => exact h
  | succ n ih =>
    unfold busErrors
    split
    next heq => exact ih (keeps_fst (busError_keeps h) heq)
    next heq => exact keeps_fst (busError_keeps h) heq

theorem burstComplete_keeps {g c : Nat} {r : ReadResult} (h : Keeps s₀ s) : Keeps s₀ (burstComplete s g c r) := by
  unfold burstComplete
  dsimp only
  split
  · exact oldBurstEnds_keeps h
  · split
    · exact haltChan_keeps (burstAccept_keeps (by
        split
        · exact burstWrite_keeps (burstSource_keeps h)
        · exact burstWrite_keeps (burstSource_keeps h)
        · exact retryDone_keeps (burstWrite_keeps (burstSource_keeps h))))
    · exact busErrors_keeps (burstAccept_keeps (by
        split
        · exact burstWrite_keeps (burstSource_keeps h)
        · exact burstWrite_keeps (burstSource_keeps h)
        · exact retryDone_keeps (burstWrite_keeps (burstSource_keeps h))))
    · exact haltChan_keeps (burstAccept_keeps (by
        split
        · exact burstWrite_keeps (burstSource_keeps h)
        · exact burstWrite_keeps (burstSource_keeps h)
        · exact retryDone_keeps (burstWrite_keeps (burstSource_keeps h))))
    · exact Keeps.ite (busError_keeps (burstAccept_keeps (by
        split
        · exact burstWrite_keeps (burstSource_keeps h)
        · exact burstWrite_keeps (burstSource_keeps h)
        · exact retryDone_keeps (burstWrite_keeps (burstSource_keeps h))))) (busErrors_keeps (burstAccept_keeps (by
        split
        · exact burstWrite_keeps (burstSource_keeps h)
        · exact burstWrite_keeps (burstSource_keeps h)
        · exact retryDone_keeps (burstWrite_keeps (burstSource_keeps h)))))
    · exact burstAccept_keeps (by
        split
        · exact burstWrite_keeps (burstSource_keeps h)
        · exact burstWrite_keeps (burstSource_keeps h)
        · exact retryDone_keeps (burstWrite_keeps (burstSource_keeps h)))

theorem execBurstComplete_keeps {g : GroupId} {c : ChanId} {r : ReadResult} (h : Keeps s₀ s) : Answers s₀ (execBurstComplete g c r s) :=
  ⟨_, rfl, live_keeps h (fun _ h0 => settleFrom_keeps (burstComplete_keeps h0))⟩

theorem execDmaBusError_keeps {g : GroupId} {c : ChanId} {dpa : Word} {onWrite : Bool} (h : Keeps s₀ s) :
    Answers s₀ (execDmaBusError g c dpa onWrite s) :=
  ⟨_, rfl, live_keeps h (fun _ h0 => Keeps.ite h0 (Keeps.ite (settleFrom_keeps (oldBurstEnds_keeps h0)) (busError_keeps h0)))⟩

theorem execDmaGStoppedClear_keeps {who : Who} {g : GroupId} (h : Keeps s₀ s) : Answers s₀ (execDmaGStoppedClear who g s) :=
  ⟨_, rfl, live_keeps h (fun _ h0 => Keeps.ite (State.updGroup_keeps h0) h0)⟩

theorem execCompressionDoorbell_keeps {t : TileId} {rd : Reg} (h : Keeps s₀ s) : Answers s₀ (execCompressionDoorbell t rd s) :=
  issue_keeps h (fun _ h0 => ssttStore_keeps h0)

theorem cmpSuspend_keeps {p e : Nat} {r : EngJob} (h : Keeps s₀ s) : Keeps s₀ (cmpSuspend s p e r) := by
  unfold cmpSuspend
  split
  next s0 heq => exact cmpPick_keeps (failHalf_keeps (keeps_snd (unitPlaces_keeps h) heq))
  next s1 heq => exact State.updEng_keeps (Keeps.foldl (keeps_snd (unitPlaces_keeps h) heq) fun _ _ h2 => forgetRun_keeps h2)

theorem execCmpJobSuspend_keeps {e : EngId} (h : Keeps s₀ s) : Answers s₀ (execCmpJobSuspend e s) := by
  unfold execCmpJobSuspend
  exact ⟨_, rfl, live_keeps h (fun _ h0 => moving_keeps h0 (fun _ h1 => by
    dsimp only
    split
    · exact Keeps.ite h1 (cmpSuspend_keeps h1)
    · exact h1))⟩

theorem blockRequests_keeps {p e : Nat} {j : EngJob} {n : Nat} (h : Keeps s₀ s) : Keeps s₀ (blockRequests s p e j n) := by
  unfold blockRequests
  exact Keeps.ite h (by
    split
    · exact h
    · exact Keeps.ite (Keeps.foldl (State.updJob_keeps h) fun _ _ h0 => addRequest_keeps h0) (State.updJob_keeps h))

theorem outputBlock_keeps {p e : Nat} {j : EngJob} (h : Keeps s₀ s) : Keeps s₀ (outputBlock s p e j) :=
  Keeps.ite h (blockRequests_keeps (putAll_keeps (cmpRun_keeps h)))

theorem execCmpOutputBlock_keeps {e : EngId} (h : Keeps s₀ s) : Answers s₀ (execCmpOutputBlock e s) := by
  unfold execCmpOutputBlock
  exact ⟨_, rfl, live_keeps h (fun _ h0 => moving_keeps h0 (fun _ h1 => by
    split
    · exact outputBlock_keeps h1
    · exact h1))⟩

theorem verifyFailed_keeps {e : Nat} (h : Keeps s₀ s) : Keeps s₀ (verifyFailed s e) := raiseHealth_keeps (State.updEng_keeps h)

theorem cmpFinish_keeps {p e : Nat} {j : EngJob} {r : CmpRun} {places slot : List (Nat × Nat)} (h : Keeps s₀ s) :
    Keeps s₀ (cmpFinish s p e j r places slot) :=
  blockRequests_keeps (State.updJob_keeps (Keeps.ite (putAll_keeps (Keeps.ite (putAll_keeps h) (forgetVa_keeps h))) (Keeps.ite (putAll_keeps h)
    (forgetVa_keeps h))))

theorem cmpEnd_keeps {p e upset : Nat} {j : EngJob} (h : Keeps s₀ s) : Keeps s₀ (cmpEnd s p e upset j) := by
  unfold cmpEnd
  dsimp only
  split
  · exact cmpFail_keeps (Keeps.ite (verifyFailed_keeps (cmpRun_keeps h)) (cmpRun_keeps h))
  · split
    next s0 heq =>
      exact cmpFail_keeps (keeps_snd (by
        split
        · exact unitPlaces_keeps (cmpRun_keeps h)
        · exact cmpRun_keeps h) heq)
    next s1 heq =>
      exact cmpFinish_keeps (keeps_snd (by
        split
        · exact unitPlaces_keeps (cmpRun_keeps h)
        · exact cmpRun_keeps h) heq)

theorem execCmpJobEnd_keeps {e : EngId} {upset : Nat} (h : Keeps s₀ s) : Answers s₀ (execCmpJobEnd e upset s) := by
  unfold execCmpJobEnd
  exact ⟨_, rfl, live_keeps h (fun _ h0 => moving_keeps h0 (fun _ h1 => by
    split
    · exact cmpPick_keeps (cmpEnd_keeps h1)
    · exact h1))⟩

theorem execDigestDoorbell_keeps {t : TileId} {rd : Reg} (h : Keeps s₀ s) : Answers s₀ (execDigestDoorbell t rd s) :=
  issue_keeps h (fun _ h0 => ssttStore_keeps h0)

theorem execDgtJobSuspend_keeps {e : EngId} (h : Keeps s₀ s) : Answers s₀ (execDgtJobSuspend e s) :=
  ⟨_, rfl, live_keeps h (fun _ h0 => State.updEng_keeps h0)⟩

theorem dgtRun_keeps {e : Nat} {j : EngJob} (h : Keeps s₀ s) : Keeps s₀ (dgtRun s e j).2 := by
  unfold dgtRun
  split
  next s0 heq => exact (keeps_snd (readState_keeps h) heq)
  next s1 heq => exact dgtBytes_keeps (unitPrefix_keeps (keeps_snd (readState_keeps h) heq))

theorem execDgtJobEnd_keeps {e : EngId} (h : Keeps s₀ s) : Answers s₀ (execDgtJobEnd e s) := by
  refine ⟨_, rfl, live_keeps h fun s h => moving_keeps h fun s h => ?_⟩
  split
  · exact dgtSet_keeps (dgtSnooped_keeps h)
  · split
    · exact Keeps.ite h (dgtPick_keeps (dgtSet_keeps (dgtRun_keeps h)))
    · exact h

theorem execManagementJobStart_keeps {e : EngId} {job : MgmtJob} (h : Keeps s₀ s) : Answers s₀ (execManagementJobStart e job s) :=
  ⟨_, rfl, live_keeps h (fun _ h0 => Keeps.ite h0 (State.updEng_keeps h0))⟩

theorem execManagementJobDone_keeps {e : EngId} (h : Keeps s₀ s) : Answers s₀ (execManagementJobDone e s) := by
  unfold execManagementJobDone
  exact ⟨_, rfl, live_keeps h (fun _ h0 => by
    split
    · exact h0
    · exact dgtPick_keeps (raise_keeps (State.updEng_keeps (Keeps.mk (Keeps.ite (Keeps.ite (State.setKey_keeps h0) h0) (State.updEng_keeps h0))))))⟩

theorem execDgtKeyOwnWrite_keeps {who : Who} {j : Fin 32} {value : Word} (h : Keeps s₀ s) : Answers s₀ (execDgtKeyOwnWrite who j value s) :=
  ⟨_, rfl, live_keeps h (fun _ h0 => Keeps.ite (keyOwnWrite_keeps h0) h0)⟩

theorem execDgtCmpGo_keeps {who : Who} {value : Word} (h : Keeps s₀ s) : Answers s₀ (execDgtCmpGo who value s) :=
  ⟨_, rfl, live_keeps h (fun _ h0 => Keeps.ite (dgtCmpWrite_keeps h0) h0)⟩

theorem execDgtCompareDone_keeps (h : Keeps s₀ s) : Answers s₀ (execDgtCompareDone s) :=
  ⟨_, rfl, live_keeps h (fun _ h0 => Keeps.ite h0 (State.updDgt_keeps h0))⟩

theorem layAside_keeps {n : Nat} (h : Keeps s₀ s) : Keeps s₀ (layAside s n) := Keeps.ite (State.updCask_keeps h) (Keeps.mk (State.updCask_keeps h))

theorem caskAbsent_keeps {n : Nat} (h : Keeps s₀ s) : Keeps s₀ (caskAbsent s n) :=
  Keeps.ite (loseTarget_keeps (State.updCask_keeps (layAside_keeps h))) (State.updCask_keeps (layAside_keeps h))

theorem caskFail_keeps {n : Nat} (h : Keeps s₀ s) : Keeps s₀ (caskFail s n) :=
  loseTarget_keeps (loseMember_keeps (raiseCask_keeps (State.updCask_keeps h)))

theorem State.setReads_keeps {l : List CaskRead} (h : Keeps s₀ s) : Keeps s₀ (State.setReads s l) := Keeps.mk h

theorem readerEnded_keeps {r : CaskReader} (h : Keeps s₀ s) : Keeps s₀ (readerEnded s r) := by
  unfold readerEnded
  split
  · exact Keeps.ite h (by
      split
      · split
        · exact Keeps.ite (finishReads_keeps h) h
        · exact h
      · exact h)
  · exact h

theorem repairUnit_keeps {r : CaskRead} (h : Keeps s₀ s) : Keeps s₀ (repairUnit s r) := by
  unfold repairUnit
  split
  · exact h
  · exact Keeps.ite (stageUnit_keeps h) h

theorem unitSettled_keeps {r : CaskRead} (h : Keeps s₀ s) : Keeps s₀ (unitSettled s r) :=
  Keeps.ite (readerEnded_keeps (repairUnit_keeps (State.setReads_keeps h))) h

theorem reconstruct_keeps {r : CaskRead} (h : Keeps s₀ s) : Keeps s₀ (reconstruct s r) := by
  unfold reconstruct
  split
  · exact h
  · exact Keeps.ite (State.addReads_keeps h) h

theorem failCask_keeps {n : Nat} (h : Keeps s₀ s) : Keeps s₀ (failCask s n) := by
  unfold failCask
  exact Keeps.foldl (State.setReads_keeps (by
    split
    · exact endSeq_keeps (caskFail_keeps h)
    · exact caskFail_keeps h)) fun _ _ h0 => unitSettled_keeps (Keeps.ite (reconstruct_keeps h0) h0)

theorem presence_keeps {n : Nat} {on : Bool} (h : Keeps s₀ s) : Keeps s₀ (presence s n on) :=
  Keeps.ite h (Keeps.ite (raiseCask_keeps (Keeps.ite (caskPowerOn_keeps (State.updCask_keeps h)) (State.updCask_keeps h))) (settle_keeps
    (raiseCask_keeps (caskAbsent_keeps (Keeps.ite (together_keeps h (fun _ h0 => endDetaches_keeps (failCask_keeps h0))) h)))))

theorem execCaskPresenceChange_keeps {n : CaskId} {present : Bool} (h : Keeps s₀ s) : Answers s₀ (execCaskPresenceChange n present s) :=
  ⟨_, rfl, live_keeps h (fun _ h0 => presence_keeps h0)⟩

theorem execCskPerstRelease_keeps {n : CaskId} (h : Keeps s₀ s) : Answers s₀ (execCskPerstRelease n s) :=
  ⟨_, rfl, live_keeps h (fun _ h0 => Keeps.ite (State.updCask_keeps h0) h0)⟩

theorem noteShort_keeps {n : Nat} {rate : LinkRate} {width : LinkWidth} (h : Keeps s₀ s) : Keeps s₀ (noteShort s n rate width) :=
  Keeps.ite h (State.updInd_keeps h)

theorem execCaskLinkUp_keeps {l : LinkTrain} (h : Keeps s₀ s) : Answers s₀ (execCaskLinkUp l s) :=
  ⟨_, rfl, live_keeps h (fun _ h0 => Keeps.ite (noteShort_keeps (State.updCask_keeps h0)) h0)⟩

theorem execCaskLinkTimeout_keeps {n : CaskId} (h : Keeps s₀ s) : Answers s₀ (execCaskLinkTimeout n s) :=
  ⟨_, rfl, live_keeps h (fun _ h0 => Keeps.ite (settle_keeps (together_keeps h0 (fun _ h1 => endDetaches_keeps (failCask_keeps h1)))) h0)⟩

theorem healthEvent_keeps {cause : Nat} (h : Keeps s₀ s) : Keeps s₀ (healthEvent s cause) := Keeps.ite (raiseHealth_keeps h) h

theorem deviceThresholds_keeps (h : Keeps s₀ s) : Keeps s₀ (deviceThresholds s) :=
  Keeps.foldl (State.updHlt_keeps h) fun _ _ h0 => Keeps.ite (healthEvent_keeps h0) h0

theorem deviceSummary_keeps (h : Keeps s₀ s) : Keeps s₀ (deviceSummary s) := State.updHlt_keeps h

theorem portHistory_keeps {n : Nat} (h : Keeps s₀ s) : Keeps s₀ (portHistory s n) :=
  Keeps.ite h (deviceThresholds_keeps (seqUpdate_keeps h (fun _ h0 => deviceSummary_keeps (State.updInd_keeps h0))))

theorem bringPast_keeps {n : Nat} {ser : List Byte} (h : Keeps s₀ s) : Keeps s₀ (bringPast s n ser) :=
  Keeps.ite h (Keeps.mk (State.updCask_keeps (foldNat_keeps (Keeps.mk h) (fun _ _ h0 => Keeps.ite (State.updCask_keeps h0) h0))))

theorem joinMember_keeps {n i m : Nat} (h : Keeps s₀ s) : Keeps s₀ (joinMember s n i m) :=
  Keeps.ite (State.updCask_keeps (wearLimit_keeps (raiseCask_keeps (State.updPset_keeps (State.updCask_keeps h))))) (wearLimit_keeps
    (raiseCask_keeps (State.updPset_keeps (State.updCask_keeps h))))

theorem joinSpare_keeps {n : Nat} {ser : List Byte} (h : Keeps s₀ s) : Keeps s₀ (joinSpare s n ser) :=
  tryRebuilds_keeps (raiseCask_keeps (foldNat_keeps (State.updCask_keeps h) (fun _ _ h0 => State.updPset_keeps h0)))

theorem caskIdentify_keeps {n : Nat} {x : CaskIdent} (h : Keeps s₀ s) : Keeps s₀ (caskIdentify s n x) := by
  unfold caskIdentify
  exact Keeps.ite (Keeps.ite (loseTarget_keeps (raiseCask_keeps (State.updCask_keeps (State.updCask_keeps h)))) (raiseCask_keeps
    (State.updCask_keeps (State.updCask_keeps h)))) (by
    dsimp only
    split
    · exact joinMember_keeps (State.updCask_keeps (bringPast_keeps (State.updCask_keeps h)))
    · exact joinSpare_keeps (State.updCask_keeps (bringPast_keeps (State.updCask_keeps h))))

theorem execCaskIdentified_keeps {n : CaskId} {ident : CaskIdent} (h : Keeps s₀ s) : Answers s₀ (execCaskIdentified n ident s) :=
  ⟨_, rfl, live_keeps h (fun _ h0 => Keeps.ite (settle_keeps (portHistory_keeps (caskIdentify_keeps h0))) h0)⟩

theorem caskDies_keeps {n : Nat} (h : Keeps s₀ s) : Keeps s₀ (caskDies s n) :=
  Keeps.ite (settleFrom_keeps (together_keeps h (fun _ h0 => endDetaches_keeps (failCask_keeps h0)))) h

theorem execCaskLinkDown_keeps {n : CaskId} (h : Keeps s₀ s) : Answers s₀ (execCaskLinkDown n s) :=
  ⟨_, rfl, live_keeps h (fun _ h0 => State.updCask_keeps (caskDies_keeps h0))⟩

theorem execCaskFatalReport_keeps {n : CaskId} (h : Keeps s₀ s) : Answers s₀ (execCaskFatalReport n s) :=
  ⟨_, rfl, live_keeps h (fun _ h0 => caskDies_keeps h0)⟩

theorem execCaskCommandTimeout_keeps {n : CaskId} (h : Keeps s₀ s) : Answers s₀ (execCaskCommandTimeout n s) :=
  ⟨_, rfl, live_keeps h (fun _ h0 => caskDies_keeps h0)⟩

theorem wearRead_keeps {n : Nat} {page : WearPage} (h : Keeps s₀ s) : Keeps s₀ (wearRead s n page) :=
  Keeps.ite (wearLimit_keeps (State.updCask_keeps h)) h

theorem execCaskWearRead_keeps {n : CaskId} {page : WearPage} (h : Keeps s₀ s) : Answers s₀ (execCaskWearRead n page s) :=
  ⟨_, rfl, live_keeps h (fun _ h0 => wearRead_keeps h0)⟩

theorem wearThresholds_keeps {n : Nat} (h : Keeps s₀ s) : Keeps s₀ (wearThresholds s n) :=
  Keeps.foldl (State.updCask_keeps h) fun _ _ h0 => Keeps.ite (raiseCask_keeps h0) h0

theorem wearSample_keeps {n : Nat} (h : Keeps s₀ s) : Keeps s₀ (wearSample s n) :=
  Keeps.ite (State.updCask_keeps h) (wearThresholds_keeps (State.updCask_keeps (storeCount_keeps (State.updCask_keeps h))))

theorem execCaskWearSample_keeps {n : CaskId} (h : Keeps s₀ s) : Answers s₀ (execCaskWearSample n s) :=
  ⟨_, rfl, live_keeps h (fun _ h0 => noteCaskEol_keeps (wearSample_keeps h0))⟩

theorem slowRead_keeps {n : Nat} (h : Keeps s₀ s) : Keeps s₀ (slowRead s n) := by
  unfold slowRead
  split
  · exact h
  · exact Keeps.ite h (unitSettled_keeps (reconstruct_keeps (slowEvent_keeps (State.updCask_keeps (State.setReads_keeps h)))))

theorem execSlowReadTimeout_keeps {n : CaskId} (h : Keeps s₀ s) : Answers s₀ (execSlowReadTimeout n s) :=
  ⟨_, rfl, live_keeps h (fun _ h0 => settle_keeps (slowRead_keeps h0))⟩

theorem mediaError_keeps {r : CaskRead} (h : Keeps s₀ s) : Keeps s₀ (mediaError s r) := State.updPset_keeps h

theorem caskReadDone_keeps {n : Nat} {r : ReadResult} (h : Keeps s₀ s) : Keeps s₀ (caskReadDone s n r) := by
  unfold caskReadDone
  split
  · exact h
  · exact Keeps.ite (State.setReads_keeps h) (by
      split
      · exact unitSettled_keeps (State.setReads_keeps (State.setReads_keeps h))
      · exact unitSettled_keeps (State.setReads_keeps h)
      · exact unitSettled_keeps (reconstruct_keeps (mediaError_keeps (State.setReads_keeps h)))
      · exact unitSettled_keeps (mediaError_keeps (State.setReads_keeps h)))

theorem execCaskReadDone_keeps {n : CaskId} {r : ReadResult} (h : Keeps s₀ s) : Answers s₀ (execCaskReadDone n r s) :=
  ⟨_, rfl, live_keeps h (fun _ h0 => settleFrom_keeps (caskReadDone_keeps h0))⟩

theorem moveHead_keeps {i : Nat} {v : Move} {P : ProtSet} {k : Nat} {rest : List Nat} (h : Keeps s₀ s) : Keeps s₀ (moveHead s i v P k rest) := by
  unfold moveHead
  split
  · exact State.updPset_keeps h
  · exact Keeps.ite (State.updPset_keeps h) (Keeps.ite (State.updPset_keeps h) (Keeps.ite h (Keeps.ite (State.updPset_keeps h) (by
      split
      next s0 heq => exact State.updPset_keeps (keeps_snd (chunkWrite_keeps h) heq)
      next s1 heq =>
        have hs1 := keeps_snd (chunkWrite_keeps h) heq
        exact Keeps.ite (State.updPset_keeps hs1) (State.updPset_keeps hs1)))))

theorem moveNext_keeps {i : Nat} {v : Move} (h : Keeps s₀ s) : Keeps s₀ (moveNext s i v) := by
  unfold moveNext
  split
  · exact Keeps.ite h (beginCopies_keeps (moveHead_keeps h))
  · exact h

theorem resetZone_keeps {P : ProtSet} {m z : Nat} (h : Keeps s₀ s) : Keeps s₀ (resetZone s P m z) := by
  unfold resetZone
  split
  · exact h
  · exact State.updCask_keeps h

theorem resetIfEmpty_keeps {i m z : Nat} (h : Keeps s₀ s) : Keeps s₀ (resetIfEmpty s i m z) := by
  unfold resetIfEmpty
  split
  · exact h
  · exact Keeps.ite (resetZone_keeps h) h

theorem beginRack_keeps {i : Nat} (h : Keeps s₀ s) : Keeps s₀ (beginRack s i) := by
  unfold beginRack
  split
  · exact h
  · exact Keeps.ite h (by
      split
      · exact h
      · split
        · exact resetIfEmpty_keeps h
        · exact Keeps.ite (State.addReads_keeps (State.updPset_keeps h)) h)

theorem rackStripe_keeps {i k : Nat} {P : ProtSet} {S : Stripe} (h : Keeps s₀ s) : Keeps s₀ (rackStripe s i k P S) := by
  unfold rackStripe
  extract_lets live
  split
  next heq => exact mapStripe_keeps (keeps_snd (buildStripe_keeps h) heq)

theorem rackNext_keeps {i : Nat} (h : Keeps s₀ s) : Keeps s₀ (rackNext s i) := by
  unfold rackNext
  split
  · exact h
  · split
    · exact beginRack_keeps h
    · exact Keeps.ite h (beginRack_keeps (by
        split
        · exact Keeps.ite (resetIfEmpty_keeps (rackStripe_keeps (State.updPset_keeps h))) (State.updPset_keeps h)
        · exact State.updPset_keeps h))

theorem moveCommit_keeps {n : Nat} (h : Keeps s₀ s) : Keeps s₀ (moveCommit s n) := by
  unfold moveCommit
  split
  · exact moveNext_keeps h
  · split
    · exact rackNext_keeps h
    · exact h

theorem emptyZones_keeps {i : Nat} (h : Keeps s₀ s) : Keeps s₀ (emptyZones s i) := by
  unfold emptyZones
  split
  · exact h
  · exact Keeps.ite h (tryDissolve_keeps (State.updPset_keeps (Keeps.foldl h fun _ _ h0 => Keeps.ite h0 (State.updCask_keeps h0))))

theorem execStripeMoveCommit_keeps {n : CaskId} (h : Keeps s₀ s) : Answers s₀ (execStripeMoveCommit n s) := by
  unfold execStripeMoveCommit
  exact ⟨_, rfl, live_keeps h (fun _ h0 => by
    dsimp only
    split
    · exact emptyZones_keeps (moveCommit_keeps h0)
    · exact moveCommit_keeps h0)⟩

theorem moveDone_keeps {i : Nat} {v : Move} (h : Keeps s₀ s) : Keeps s₀ (moveDone s i v) :=
  wearLimit_keeps (raiseCask_keeps (writeRecords_keeps (State.updPset_keeps (changeSet_keeps (State.updCask_keeps h)))))

theorem migrated_keeps {n : Nat} (h : Keeps s₀ s) : Keeps s₀ (migrated s n) := by
  unfold migrated
  split
  · exact h
  · extract_lets src prep s1
    have h1 : Keeps s₀ s1 := enterRemovable_keeps (moveDone_keeps h)
    clear_value prep
    split
    · exact endSeq_keeps h1
    · exact h1

theorem execMigrationComplete_keeps {n : CaskId} (h : Keeps s₀ s) : Answers s₀ (execMigrationComplete n s) :=
  ⟨_, rfl, live_keeps h (fun _ h0 => settle_keeps (migrated_keeps h0))⟩

theorem execRebuildComplete_keeps {n : CaskId} (h : Keeps s₀ s) : Answers s₀ (execRebuildComplete n s) := by
  unfold execRebuildComplete
  exact ⟨_, rfl, live_keeps h (fun _ h0 => by
    split
    · exact h0
    · exact tryRebuild_keeps (moveDone_keeps h0))⟩

theorem execCaskPrepareRemove_keeps {w : Window} (h : Keeps s₀ s) : Answers s₀ (execCaskPrepareRemove w s) := takeRow_keeps h

theorem execCskRackShareWrite_keeps {who : Who} {n : CaskId} {value : Word} (h : Keeps s₀ s) : Answers s₀ (execCskRackShareWrite who n value s) :=
  ⟨_, rfl, live_keeps h (fun _ h0 => Keeps.ite (rackShareWrite_keeps h0) h0)⟩

theorem execCskRackLiveWrite_keeps {who : Who} {n : CaskId} {value : Word} (h : Keeps s₀ s) : Answers s₀ (execCskRackLiveWrite who n value s) :=
  ⟨_, rfl, live_keeps h (fun _ h0 => Keeps.ite (rackLiveWrite_keeps h0) h0)⟩

theorem execTaskSubmit_keeps {w : Window} {off : BitVec 6} {bytes : List Byte} (h : Keeps s₀ s) : Answers s₀ (execTaskSubmit w off bytes s) :=
  ⟨_, rfl, live_keeps h (fun _ h0 => taskWrite_keeps h0)⟩

theorem execUnlistedOpcode_keeps {w : Window} (h : Keeps s₀ s) : Answers s₀ (execUnlistedOpcode w s) := by
  unfold execUnlistedOpcode
  exact ⟨_, rfl, live_keeps h (fun _ h0 => by
    split
    · exact Keeps.ite h0 (settle_keeps (takeLatched_keeps h0))
    · exact h0)⟩

theorem newSet_keeps {i p : Nat} {ports : List Nat} {cap : Nat} (h : Keeps s₀ s) : Keeps s₀ (newSet s i p ports cap) :=
  foldNat_keeps (writeRecords_keeps (noteSet_keeps (foldNat_keeps (Keeps.mk h) (fun _ _ h0 => State.updCask_keeps h0))))
    (fun _ _ h1 => wearLimit_keeps h1)

theorem createNs_keeps {c : Cmd} {d : List Byte} (h : Keeps s₀ s) : Keeps s₀ (createNs s c d) := by
  unfold createNs
  dsimp only
  split
  · exact endCmd_keeps h
  · exact Keeps.ite (endCmd_keeps h) (Keeps.ite (endCmd_keeps h) (Keeps.ite (endCmd_keeps h) (Keeps.ite (endCmd_keeps h) (Keeps.ite (endCmd_keeps h)
      (Keeps.ite (endCmd_keeps h) (Keeps.ite (endCmd_keeps h) (endCmd_keeps (State.setNss_keeps (Keeps.ite (newSet_keeps h) h)))))))))

theorem createStart_keeps {c : Cmd} {d : List Byte} (h : Keeps s₀ s) : Keeps s₀ (createStart s c d) := by
  unfold createStart
  split
  · exact endCmd_keeps h
  · exact h
  · exact State.updCmd_keeps (Keeps.foldl (Keeps.mk h) fun _ _ h0 => State.forget_keeps h0)

theorem withStruct_keeps {c : Cmd} {bs : List Byte} (h : Keeps s₀ s) : Keeps s₀ (withStruct s c bs) := by
  unfold withStruct
  dsimp only
  split
  · exact State.updCmd_keeps h
  · exact createNs_keeps (State.updCmd_keeps h)
  · exact fwStage_keeps (State.updCmd_keeps h)
  · exact createStart_keeps (State.updCmd_keeps h)
  · exact actStorage_keeps (State.updCmd_keeps h)

theorem dataRead_keeps {w : Window} {tag : Nat} {r : ReadResult} {got : Nat} (h : Keeps s₀ s) : Keeps s₀ (dataRead s w tag r got) := by
  unfold dataRead
  split
  · exact h
  · split
    extract_lets r s1
    have h1 : Keeps s₀ s1 := noteRead_keeps h
    clear_value r
    split
    · exact endCmd_keeps h1
    · exact endCmd_keeps h1
    · exact withStruct_keeps (Keeps.mk h1)

theorem execCommandDataRead_keeps {w : Window} {tag : BitVec 16} {r : ReadResult} {got : Nat} (h : Keeps s₀ s) :
    Answers s₀ (execCommandDataRead w tag r got s) :=
  ⟨_, rfl, live_keeps h (fun _ h0 => settle_keeps (dataRead_keeps h0))⟩

theorem execRead_keeps {w : Window} (h : Keeps s₀ s) : Answers s₀ (execRead w s) := takeRow_keeps h

theorem execWrite_keeps {w : Window} {hostData : List Byte} (h : Keeps s₀ s) : Answers s₀ (execWrite w hostData s) := takeRow_keeps h

theorem execFlush_keeps {w : Window} (h : Keeps s₀ s) : Answers s₀ (execFlush w s) := takeRow_keeps h

theorem execDeallocate_keeps {w : Window} (h : Keeps s₀ s) : Answers s₀ (execDeallocate w s) := takeRow_keeps h

theorem execStripeCloseTimeout_keeps {i : Fin 16} (h : Keeps s₀ s) : Answers s₀ (execStripeCloseTimeout i s) :=
  ⟨_, rfl, live_keeps h (fun _ h0 => closeStripe_keeps h0)⟩

theorem execStripeChunksAcked_keeps {i : Fin 16} (h : Keeps s₀ s) : Answers s₀ (execStripeChunksAcked i s) :=
  ⟨_, rfl, live_keeps h (fun _ h0 => State.updPset_keeps h0)⟩

theorem flushCommitted_keeps {i k : Nat} (h : Keeps s₀ s) : Keeps s₀ (flushCommitted s i k) := Keeps.foldl (Keeps.mk h) fun _ _ h0 => endSeq_keeps h0

theorem execStripeCommit_keeps {i : Fin 16} (h : Keeps s₀ s) : Answers s₀ (execStripeCommit i s) := by
  unfold execStripeCommit
  exact ⟨_, rfl, live_keeps h (fun _ h0 => by
    split
    next s1 heq => exact settle_keeps (beginRack_keeps (beginCopies_keeps (flushCommitted_keeps (keeps_snd (commitStripe_keeps h0) heq))))
    next s2 heq => exact (keeps_snd (commitStripe_keeps h0) heq))⟩

theorem recovered_keeps {i : Nat} (h : Keeps s₀ s) : Keeps s₀ (recovered s i) := by
  unfold recovered
  split
  · exact h
  · exact Keeps.ite h (beginCopies_keeps (tryRebuilds_keeps (Keeps.mk (State.updPset_keeps (Keeps.ite (writeRecords_keeps (State.updPset_keeps
      (changeSet_keeps h))) (State.updPset_keeps (changeSet_keeps h)))))))

theorem execJournalReplayDone_keeps {i : Fin 16} (h : Keeps s₀ s) : Answers s₀ (execJournalReplayDone i s) :=
  ⟨_, rfl, live_keeps h (fun _ h0 => recovered_keeps h0)⟩

theorem aheadReady_keeps {g c : Nat} (h : Keeps s₀ s) : Keeps s₀ (aheadReady s g c) := by
  unfold aheadReady
  exact Keeps.ite h (by
    split
    · exact haltChan_keeps h
    · exact Keeps.ite (haltChan_keeps h) (by
        dsimp only
        split
        · exact haltChan_keeps h
        · exact readAhead_keeps (addRequest_keeps (State.updChan_keeps h))))

theorem execNsReadaheadReady_keeps {g : GroupId} {c : ChanId} (h : Keeps s₀ s) : Answers s₀ (execNsReadaheadReady g c s) :=
  ⟨_, rfl, live_keeps h (fun _ h0 => aheadReady_keeps h0)⟩

theorem execExecute_keeps {w : Window} (h : Keeps s₀ s) : Answers s₀ (execExecute w s) := takeRow_keeps h

theorem execCancel_keeps {w : Window} (h : Keeps s₀ s) : Answers s₀ (execCancel w s) := takeRow_keeps h

theorem execResume_keeps {w : Window} (h : Keeps s₀ s) : Answers s₀ (execResume w s) := takeRow_keeps h

theorem execQueryStatus_keeps {w : Window} (h : Keeps s₀ s) : Answers s₀ (execQueryStatus w s) := takeRow_keeps h

theorem execCellarCopy_keeps {w : Window} (h : Keeps s₀ s) : Answers s₀ (execCellarCopy w s) := takeRow_keeps h

theorem execCreateNs_keeps {w : Window} (h : Keeps s₀ s) : Answers s₀ (execCreateNs w s) := takeRow_keeps h

theorem execDeleteNs_keeps {w : Window} (h : Keeps s₀ s) : Answers s₀ (execDeleteNs w s) := takeRow_keeps h

theorem execAttachNs_keeps {w : Window} (h : Keeps s₀ s) : Answers s₀ (execAttachNs w s) := takeRow_keeps h

theorem execIdentify_keeps {w : Window} (h : Keeps s₀ s) : Answers s₀ (execIdentify w s) := takeRow_keeps h

theorem execGetLog_keeps {w : Window} (h : Keeps s₀ s) : Answers s₀ (execGetLog w s) := takeRow_keeps h

theorem execSetFeature_keeps {w : Window} (h : Keeps s₀ s) : Answers s₀ (execSetFeature w s) := takeRow_keeps h

theorem execGetFeature_keeps {w : Window} (h : Keeps s₀ s) : Answers s₀ (execGetFeature w s) := takeRow_keeps h

theorem execFwStage_keeps {w : Window} (h : Keeps s₀ s) : Answers s₀ (execFwStage w s) := takeRow_keeps h

theorem execFwCommit_keeps {w : Window} (h : Keeps s₀ s) : Answers s₀ (execFwCommit w s) := takeRow_keeps h

theorem execParcelCreate_keeps {w : Window} (h : Keeps s₀ s) : Answers s₀ (execParcelCreate w s) := takeRow_keeps h

theorem buildDone_keeps {p : Nat} (h : Keeps s₀ s) : Keeps s₀ (buildDone s p) := by
  unfold buildDone
  refine Keeps.ite h ?_
  extract_lets root s1 s2 s3
  have h1 : Keeps s₀ s1 := Keeps.foldl h fun _ _ h => h.withMem (Mem.wf_clear _ _)
  have h2 : Keeps s₀ s2 := Keeps.foldl h1 fun _ _ h => State.updTile_keeps (h.withMem (Mem.wf_clear _ _))
  have h3 : Keeps s₀ s3 := State.updParcel_keeps h2
  split
  · exact endCmd_keeps h3
  · exact h3

theorem execParcelBuildDone_keeps {p : ParcelId} (h : Keeps s₀ s) : Answers s₀ (execParcelBuildDone p s) :=
  ⟨_, rfl, live_keeps h (fun _ h0 => settle_keeps (buildDone_keeps h0))⟩

theorem execParcelDestroy_keeps {w : Window} (h : Keeps s₀ s) : Answers s₀ (execParcelDestroy w s) := takeRow_keeps h

theorem execParcelReset_keeps {w : Window} (h : Keeps s₀ s) : Answers s₀ (execParcelReset w s) := takeRow_keeps h

theorem resetMsix_keeps {f : Nat} (h : Keeps s₀ s) : Keeps s₀ (resetMsix s f) := Keeps.mk h

theorem resetWindows_keeps {f : Nat} (h : Keeps s₀ s) : Keeps s₀ (resetWindows s f) := Keeps.mk h

theorem vfReset_keeps {v : Nat} (h : Keeps s₀ s) : Keeps s₀ (vfReset s v) := by
  unfold vfReset
  dsimp only
  split
  · exact resetWindows_keeps (resetMsix_keeps (State.updEvRing_keeps h))
  · exact Keeps.ite (resetWindows_keeps (resetShared_keeps (State.updParcel_keeps (resetMsix_keeps (State.updEvRing_keeps h))))) (stopParcel_keeps
      (resetWindows_keeps (State.updParcel_keeps (State.updParcel_keeps (resetMsix_keeps (State.updEvRing_keeps h))))))

theorem execVfFlr_keeps {v : Fin 64} (h : Keeps s₀ s) : Answers s₀ (execVfFlr v s) :=
  ⟨_, rfl, live_keeps h (fun _ h0 => settleFrom_keeps (vfReset_keeps h0))⟩

theorem execTskCqCfgWrite_keeps {who : Who} {w : Window} {value : Word} (h : Keeps s₀ s) : Answers s₀ (execTskCqCfgWrite who w value s) :=
  ⟨_, rfl, live_keeps h (fun _ h0 => Keeps.ite (cqCfg_keeps h0) h0)⟩

theorem execTskCqBaseWrite_keeps {who : Who} {w : Window} {value : Word} (h : Keeps s₀ s) : Answers s₀ (execTskCqBaseWrite who w value s) :=
  ⟨_, rfl, live_keeps h (fun _ h0 => Keeps.ite (cqBase_keeps h0) h0)⟩

theorem execTskCqHeadWrite_keeps {who : Who} {w : Window} {value : Word} (h : Keeps s₀ s) : Answers s₀ (execTskCqHeadWrite who w value s) :=
  ⟨_, rfl, live_keeps h (fun _ h0 => Keeps.ite (cqHead_keeps h0) h0)⟩

theorem execTskWparcelWrite_keeps {who : Who} {w : Window} {value : Word} (h : Keeps s₀ s) : Answers s₀ (execTskWparcelWrite who w value s) :=
  ⟨_, rfl, live_keeps h (fun _ h0 => Keeps.ite (wparcel_keeps h0) h0)⟩

theorem execParcelIdleTimeout_keeps {p : ParcelId} (h : Keeps s₀ s) : Answers s₀ (execParcelIdleTimeout p s) :=
  ⟨_, rfl, live_keeps h (fun _ h0 => Keeps.ite (sendLtr_keeps (State.updParcel_keeps h0)) h0)⟩

theorem execPowerStateExitDone_keeps {p : ParcelId} (h : Keeps s₀ s) : Answers s₀ (execPowerStateExitDone p s) :=
  ⟨_, rfl, live_keeps h (fun _ h0 => settle_keeps (Keeps.mk h0))⟩

theorem execPs4IdleTimeout_keeps (h : Keeps s₀ s) : Answers s₀ (execPs4IdleTimeout s) :=
  ⟨_, rfl, live_keeps h (fun _ h0 => Keeps.ite (Keeps.ite (raiseGlobal_keeps (sendLtr_keeps (Keeps.mk h0))) (sendLtr_keeps (Keeps.mk h0))) h0)⟩

theorem execPclFrameDivWrite_keeps {who : Who} {p : ParcelId} {value : Word} (h : Keeps s₀ s) : Answers s₀ (execPclFrameDivWrite who p value s) :=
  ⟨_, rfl, live_keeps h (fun _ h0 => Keeps.ite (frameDivWrite_keeps h0) h0)⟩

theorem execPclParkLimitWrite_keeps {who : Who} {p : ParcelId} {value : Word} (h : Keeps s₀ s) : Answers s₀ (execPclParkLimitWrite who p value s) :=
  ⟨_, rfl, live_keeps h (fun _ h0 => Keeps.ite (parkLimitWrite_keeps h0) h0)⟩

theorem execPclVfSplitWrite_keeps {who : Who} {value : Word} (h : Keeps s₀ s) : Answers s₀ (execPclVfSplitWrite who value s) :=
  ⟨_, rfl, live_keeps h (fun _ h0 => Keeps.ite (vfSplitWrite_keeps h0) h0)⟩

theorem execPclIdleWrite_keeps {who : Who} {p : ParcelId} {i : Fin 3} {value : Word} (h : Keeps s₀ s) :
    Answers s₀ (execPclIdleWrite who p i value s) :=
  ⟨_, rfl, live_keeps h (fun _ h0 => Keeps.ite (idleWrite_keeps h0) h0)⟩

theorem execMbxSend_keeps {who : Who} {c : MbxId} {value : Word} (h : Keeps s₀ s) : Answers s₀ (execMbxSend who c value s) :=
  ⟨_, rfl, live_keeps h (fun _ h0 => Keeps.ite (placeMessage_keeps h0) (otherWrite_keeps h0))⟩

theorem execMbxTake_keeps {who : Who} {c : MbxId} (h : Keeps s₀ s) : Answers s₀ (execMbxTake who c s) :=
  ⟨_, rfl, live_keeps h (fun _ h0 => Keeps.ite (takeMessage_keeps (Keeps.mk h0)) (Keeps.ite (Keeps.mk h0) (Keeps.ite (deny_keeps (Keeps.mk h0))
    (Keeps.mk h0))))⟩

theorem execMbxStaleTimeout_keeps {c : MbxId} (h : Keeps s₀ s) : Answers s₀ (execMbxStaleTimeout c s) :=
  ⟨_, rfl, live_keeps h (fun _ h0 => Keeps.ite (alarm_keeps (State.updMchan_keeps h0)) h0)⟩

theorem execMbxBindWrite_keeps {who : Who} {c : MbxId} {value : Word} (h : Keeps s₀ s) : Answers s₀ (execMbxBindWrite who c value s) :=
  ⟨_, rfl, live_keeps h (fun _ h0 => Keeps.ite (bindWrite_keeps h0) h0)⟩

theorem execMbxBindLockSet_keeps {who : Who} {value : Word} (h : Keeps s₀ s) : Answers s₀ (execMbxBindLockSet who value s) :=
  ⟨_, rfl, live_keeps h (fun _ h0 => Keeps.ite (Keeps.mk h0) h0)⟩

theorem execLockRead_keeps {who : Who} {n : Fin 64} (h : Keeps s₀ s) : Answers s₀ (execLockRead who n s) :=
  ⟨_, rfl, live_keeps h (fun _ h0 => readLock_keeps h0)⟩

theorem execLockWrite_keeps {who : Who} {n : Fin 64} {value : Word} (h : Keeps s₀ s) : Answers s₀ (execLockWrite who n value s) :=
  ⟨_, rfl, live_keeps h (fun _ h0 => writeLock_keeps h0)⟩

theorem execLckForce_keeps {who : Who} {value : Word} (h : Keeps s₀ s) : Answers s₀ (execLckForce who value s) :=
  ⟨_, rfl, live_keeps h (fun _ h0 => Keeps.ite (forceLock_keeps h0) h0)⟩

theorem execEvtRouteWrite_keeps {who : Who} {i : Fin 1280} {value : Word} (h : Keeps s₀ s) : Answers s₀ (execEvtRouteWrite who i value s) :=
  ⟨_, rfl, live_keeps h (fun _ h0 => Keeps.ite (routeWrite_keeps h0) (Keeps.ite (routeWrite_keeps h0) h0))⟩

theorem execEvtPendClear_keeps {who : Who} {n : Fin 20} {value : Word} (h : Keeps s₀ s) : Answers s₀ (execEvtPendClear who n value s) :=
  ⟨_, rfl, live_keeps h (fun _ h0 => Keeps.foldl h0 fun _ _ h1 => Keeps.ite (clearSource_keeps h1) h1)⟩

theorem execEvtRingCfgWrite_keeps {who : Who} {f : FnId} {isBase : Bool} {value : Word} (h : Keeps s₀ s) :
    Answers s₀ (execEvtRingCfgWrite who f isBase value s) :=
  ⟨_, rfl, live_keeps h (fun _ h0 => Keeps.ite h0 (Keeps.ite (evRingBase_keeps h0) (evRingCfg_keeps h0)))⟩

theorem execEvtRingHeadWrite_keeps {who : Who} {f : FnId} {value : Word} (h : Keeps s₀ s) : Answers s₀ (execEvtRingHeadWrite who f value s) :=
  ⟨_, rfl, live_keeps h (fun _ h0 => Keeps.ite (evRingHead_keeps h0) h0)⟩

theorem portReset_keeps {port : Nat} (h : Keeps s₀ s) : Keeps s₀ (portReset s port) :=
  State.updPort_keeps (resetMsix_keeps (State.updEvRing_keeps (resetWindows_keeps (foldNat_keeps h (fun _ _ h0 => vfReset_keeps h0)))))

theorem portLost_keeps {port cause : Nat} (h : Keeps s₀ s) : Keeps s₀ (portLost s port cause) := Keeps.ite (warmReset_keeps h) (portReset_keeps h)

theorem dropOrderReads_keeps {port : Nat} (h : Keeps s₀ s) : Keeps s₀ (dropOrderReads s port) := by
  unfold dropOrderReads
  exact Keeps.foldl (Keeps.ite (Keeps.mk h) (State.updPort_keeps (Keeps.mk h))) fun _ _ h0 => by
    split
    · exact drainWin_keeps h0
    · exact h0

theorem linkDown_keeps {port : Nat} (h : Keeps s₀ s) : Keeps s₀ (linkDown s port) :=
  Keeps.ite h (portLost_keeps (dropOrderReads_keeps (State.updPort_keeps h)))

theorem execHostLinkDown_keeps {port : Port} (h : Keeps s₀ s) : Answers s₀ (execHostLinkDown port s) :=
  ⟨_, rfl, live_keeps h (fun _ h0 => settleFrom_keeps (linkDown_keeps h0))⟩

theorem loseStripes_keeps (h : Keeps s₀ s) : Keeps s₀ (loseStripes s) :=
  foldNat_keeps h (fun _ _ h0 => commitAll_keeps (Keeps.mk (State.updPset_keeps h0)))

theorem perstReset_keeps {mgrStrap bootSrc : Bool} (h : Keeps s₀ s) : Keeps s₀ (perstReset s mgrStrap bootSrc) :=
  Keeps.mk (State.updPwr_keeps (resetUnits_keeps (loseStripes_keeps h)))

theorem perstOn_keeps {port : Nat} {mgrStrap bootSrc : Bool} (h : Keeps s₀ s) : Keeps s₀ (perstOn s port mgrStrap bootSrc) :=
  Keeps.ite (Keeps.ite (State.updPort_keeps h) (perstReset_keeps (dropOrderReads_keeps (State.updPort_keeps h)))) (live_keeps
    (State.updPort_keeps h) (fun _ h0 => portReset_keeps (dropOrderReads_keeps h0)))

theorem execPerstAssert_keeps {port : Port} {mgrStrap bootSrc : Bool} (h : Keeps s₀ s) : Answers s₀ (execPerstAssert port mgrStrap bootSrc s) :=
  ⟨_, rfl, settleFrom_keeps (perstOn_keeps h)⟩

theorem execPf0Flr_keeps {port : Port} (h : Keeps s₀ s) : Answers s₀ (execPf0Flr port s) :=
  ⟨_, rfl, live_keeps h (fun _ h0 => Keeps.ite (settleFrom_keeps (portLost_keeps h0)) h0)⟩

theorem serveRecovery_keeps {port : Nat} {x0 : CfgReq} (h : Keeps s₀ s) : Keeps s₀ (serveRecovery s port x0) := by
  unfold serveRecovery
  split
  · exact Keeps.mk h
  · exact Keeps.mk h
  · exact Keeps.mk h
  · exact h

theorem msixControl_keeps {f : Nat} {enable mask : Bool} (h : Keeps s₀ s) : Keeps s₀ (msixControl s f enable mask) :=
  foldNat_keeps (Keeps.mk h) (fun _ _ h0 => flushVector_keeps h0)

theorem serveVf_keeps {port v : Nat} {r : VfReq} (h : Keeps s₀ s) : Keeps s₀ (serveVf s port v r) := by
  unfold serveVf
  exact Keeps.ite (State.updPort_keeps h) (by
    split
    · exact Keeps.mk h
    · exact msixControl_keeps h)

theorem serveConfig_keeps {port : Nat} {x0 : CfgReq} (h : Keeps s₀ s) : Keeps s₀ (serveConfig s port x0) := by
  unfold serveConfig
  split
  · exact Keeps.mk h
  · exact Keeps.mk h
  · exact Keeps.mk h
  · exact Keeps.mk h
  · exact State.updPort_keeps h
  · exact State.updPort_keeps h
  · exact Keeps.mk h
  · exact Keeps.mk h
  · exact State.updPort_keeps h
  · exact msixControl_keeps h
  · exact Keeps.mk h
  · exact State.updPort_keeps h
  · exact serveVf_keeps h

theorem configRequest_keeps {port : Nat} {req : CfgReq} (h : Keeps s₀ s) : Keeps s₀ (configRequest s port req) :=
  Keeps.ite h (Keeps.ite (serveRecovery_keeps (State.updPort_keeps h)) (Keeps.ite (State.updPort_keeps h) (serveConfig_keeps
    (State.updPort_keeps h))))

theorem execConfigRequest_keeps {port : Port} {req : CfgReq} (h : Keeps s₀ s) : Answers s₀ (execConfigRequest port req s) :=
  ⟨_, rfl, live_keeps h (fun _ h0 => configRequest_keeps h0)⟩

theorem orderReadDone_keeps {port : Nat} (h : Keeps s₀ s) : Keeps s₀ (orderReadDone s port) := by
  unfold orderReadDone
  split
  · exact h
  · extract_lets ports s1
    have h1 : Keeps s₀ s1 := Keeps.mk h
    split
    · exact settle_keeps (drainWin_keeps h1)
    · exact h1

theorem execPortOrderReadDone_keeps {port : Port} {failed : Bool} (h : Keeps s₀ s) : Answers s₀ (execPortOrderReadDone port failed s) :=
  ⟨_, rfl, live_keeps h (fun _ h0 => orderReadDone_keeps (Keeps.ite (noteRead_keeps h0) h0))⟩

theorem aonLive_keeps {f : State → State} (h : Keeps s₀ s) (hf : ∀ s, Keeps s₀ s → Keeps s₀ (f s)) : Keeps s₀ (aonLive s f) := Keeps.ite h (hf _ h)

theorem oscMeasure_keeps {q ppm : Nat} (h : Keeps s₀ s) : Keeps s₀ (oscMeasure s q ppm) :=
  Keeps.ite h (Keeps.ite (healthEvent_keeps (State.updHlt_keeps h)) (seqUpdate_keeps h (fun _ h0 => State.updInd_keeps h0)))

theorem execOscillatorMeasure_keeps {q : QuadId} {ppm : BitVec 32} (h : Keeps s₀ s) : Answers s₀ (execOscillatorMeasure q ppm s) :=
  ⟨_, rfl, aonLive_keeps h (fun _ h0 => oscMeasure_keeps h0)⟩

theorem marginMeasure_keeps {i margin : Nat} (h : Keeps s₀ s) : Keeps s₀ (marginMeasure s i margin) :=
  Keeps.ite h (Keeps.ite (healthEvent_keeps (State.updHlt_keeps (seqUpdate_keeps h (fun _ h0 => State.updInd_keeps h0)))) (seqUpdate_keeps h
    (fun _ h1 => State.updInd_keeps h1)))

theorem execLinkMarginMeasure_keeps {i : Fin 18} {margin : BitVec 16} (h : Keeps s₀ s) : Answers s₀ (execLinkMarginMeasure i margin s) :=
  ⟨_, rfl, live_keeps h (fun _ h0 => marginMeasure_keeps h0)⟩

theorem sliceValue_keeps {n : Nat} (h : Keeps s₀ s) : Keeps s₀ (sliceValue s n) := State.updInd_keeps h

theorem storeLog_keeps (h : Keeps s₀ s) : Keeps s₀ (storeLog s) := Keeps.ite h (State.updHlt_keeps h)

theorem dayEnd_keeps (h : Keeps s₀ s) : Keeps s₀ (dayEnd s) := by
  unfold dayEnd
  extract_lets day s1 s2
  have h1 : Keeps s₀ s1 := seqUpdate_keeps h fun _ h =>
    deviceSummary_keeps (State.updHlt_keeps (foldNat_keeps (foldNat_keeps h fun _ _ h => sliceValue_keeps h) fun _ _ h => State.updInd_keeps h))
  have h2 : Keeps s₀ s2 := foldNat_keeps h1 fun _ _ h => Keeps.ite (healthEvent_keeps (State.updHlt_keeps h)) h
  exact storeLog_keeps (deviceThresholds_keeps h2)

theorem dayWaits_keeps (h : Keeps s₀ s) : Keeps s₀ (dayWaits s) :=
  State.updHlt_keeps (seqUpdate_keeps h (fun _ h0 => foldNat_keeps h0 (fun _ _ h1 => sliceValue_keeps h1)))

theorem execPoweredDayEnd_keeps (h : Keeps s₀ s) : Answers s₀ (execPoweredDayEnd s) :=
  ⟨_, rfl, aonLive_keeps h (fun _ h0 => Keeps.ite (dayEnd_keeps h0) (dayWaits_keeps h0))⟩

theorem execI3cPrivateWrite_keeps {w : I3cWrite} (h : Keeps s₀ s) : Answers s₀ (execI3cPrivateWrite w s) := ⟨_, rfl, Keeps.ite (Keeps.mk h) h⟩

theorem execI3cPrivateRead_keeps {r : I3cRead} (h : Keeps s₀ s) : Answers s₀ (execI3cPrivateRead r s) := ⟨_, rfl, Keeps.ite (Keeps.mk h) h⟩

theorem execHltCeLimitWrite_keeps {who : Who} {value : Word} (h : Keeps s₀ s) : Answers s₀ (execHltCeLimitWrite who value s) :=
  ⟨_, rfl, live_keeps h (fun _ h0 => Keeps.ite (State.updHlt_keeps h0) h0)⟩

theorem coldReset_keeps {mgrStrap bootSrc : Bool} (h : Keeps s₀ s) : Keeps s₀ (coldReset s mgrStrap bootSrc) :=
  Keeps.mk ⟨(resetUnits_keeps (loseStripes_keeps h)).1, fun _ => by unfold Frm.legal; decide⟩

theorem execColdPowerOn_keeps {mgrStrap bootSrc : Bool} (h : Keeps s₀ s) : Answers s₀ (execColdPowerOn mgrStrap bootSrc s) :=
  ⟨_, rfl, coldReset_keeps h⟩

theorem aonLoss_keeps (h : Keeps s₀ s) : Keeps s₀ (aonLoss s) := State.updPwr_keeps h

theorem railLoss_keeps {r : Nat} (h : Keeps s₀ s) : Keeps s₀ (railLoss s r) :=
  Keeps.ite (aonLoss_keeps h) (Keeps.ite (State.updPwr_keeps h) (State.updPwr_keeps h))

theorem execRailLoss_keeps {r : Fin 10} (h : Keeps s₀ s) : Answers s₀ (execRailLoss r s) := ⟨_, rfl, aonLive_keeps h (fun _ h0 => railLoss_keeps h0)⟩

theorem execRefclkSysLoss_keeps (h : Keeps s₀ s) : Answers s₀ (execRefclkSysLoss s) := ⟨_, rfl, aonLive_keeps h (fun _ h0 => State.updPwr_keeps h0)⟩

theorem thermalTrip_keeps {die : Nat} {temp : BitVec 8} (h : Keeps s₀ s) : Keeps s₀ (thermalTrip s die temp) :=
  warnBits_keeps (State.updPwr_keeps (Keeps.mk h))

theorem thermal_keeps {cause : Nat} (h : Keeps s₀ s) : Keeps s₀ (thermal s cause) := Keeps.ite (raiseGlobal_keeps h) h

theorem temperatures_keeps {die dieTemp k stackTemp : Nat} (h : Keeps s₀ s) : Keeps s₀ (temperatures s die dieTemp k stackTemp) := by
  unfold temperatures
  extract_lets dieUp stackUp s1 s2 hlt s3 s4 s5
  have h2 : Keeps s₀ s2 := Keeps.ite (State.updStack_keeps (State.updPwr_keeps h)) (State.updPwr_keeps h)
  have h3 : Keeps s₀ s3 := warnBits_keeps (Keeps.mk h2)
  have h4 : Keeps s₀ s4 := Keeps.ite (thermal_keeps h3) h3
  have h5 : Keeps s₀ s5 := Keeps.ite (thermal_keeps (State.updPwr_keeps h4)) h4
  exact Keeps.ite (thermal_keeps h5) h5

theorem execTemperatureUpdate_keeps {die : Fin 3} {dieTemp : BitVec 8} {k : StackId} {stackTemp : BitVec 8} (h : Keeps s₀ s) :
    Answers s₀ (execTemperatureUpdate die dieTemp k stackTemp s) :=
  ⟨_, rfl, aonLive_keeps h (fun _ h0 => Keeps.ite (thermalTrip_keeps h0) (temperatures_keeps h0))⟩

theorem execThermalTrip_keeps {die : Fin 3} {temp : BitVec 8} (h : Keeps s₀ s) : Answers s₀ (execThermalTrip die temp s) :=
  ⟨_, rfl, aonLive_keeps h (fun _ h0 => Keeps.ite h0 (thermalTrip_keeps h0))⟩

theorem execRstCtlWrite_keeps {who : Who} {value : Word} (h : Keeps s₀ s) : Answers s₀ (execRstCtlWrite who value s) :=
  ⟨_, rfl, live_keeps h (fun _ h0 => Keeps.ite (settleFrom_keeps (rstCtlWrite_keeps h0)) h0)⟩

theorem execWatchdogExpiry_keeps (h : Keeps s₀ s) : Answers s₀ (execWatchdogExpiry s) :=
  ⟨_, rfl, live_keeps h (fun _ h0 => settleFrom_keeps (warmReset_keeps h0))⟩

theorem trainStack_keeps {failed k : Nat} (h : Keeps s₀ s) : Keeps s₀ (trainStack s failed k) :=
  Keeps.ite (raiseGlobal_keeps (State.updStack_keeps h)) (State.updStack_keeps h)

theorem loadLog_keeps (h : Keeps s₀ s) : Keeps s₀ (loadLog s) :=
  deviceThresholds_keeps (seqUpdate_keeps h (fun _ h0 => deviceSummary_keeps (State.updHlt_keeps h0)))

theorem firmwareReady_keeps {micros failed : Nat} (h : Keeps s₀ s) : Keeps s₀ (firmwareReady s micros failed) := by
  unfold firmwareReady
  extract_lets s1 s2 up ports s3 s4 s5 sto s6 s7 s8 s9
  have h2 : Keeps s₀ s2 := loadLog_keeps (foldNat_keeps h fun _ _ h => trainStack_keeps h)
  have h5 : Keeps s₀ s5 := State.updBoot_keeps (State.updBoot_keeps (Keeps.mk h2))
  have h7 : Keeps s₀ s7 := raiseGlobal_keeps (Keeps.mk h5)
  have h8 : Keeps s₀ s8 := Keeps.ite (raiseGlobal_keeps h7) h7
  have h9 : Keeps s₀ s9 := Keeps.ite (raiseGlobal_keeps h8) h8
  exact Keeps.ite h (Keeps.ite (raiseGlobal_keeps h9) h9)

theorem execFirmwareReady_keeps {micros : BitVec 32} {failedStacks : BitVec 8} (h : Keeps s₀ s) :
    Answers s₀ (execFirmwareReady micros failedStacks s) :=
  ⟨_, rfl, live_keeps h (fun _ h0 => settle_keeps (firmwareReady_keeps h0))⟩

theorem execBootRecGo_keeps {g : RecGo} (h : Keeps s₀ s) : Answers s₀ (execBootRecGo g s) :=
  ⟨_, rfl, live_keeps h (fun _ h0 => Keeps.ite (recCtlWrite_keeps h0) h0)⟩

theorem execPwrCtlWrite_keeps {who : Who} {value : Word} (h : Keeps s₀ s) : Answers s₀ (execPwrCtlWrite who value s) :=
  ⟨_, rfl, live_keeps h (fun _ h0 => Keeps.ite (pwrCtlWrite_keeps h0) h0)⟩

theorem execPwrPs4IdleWrite_keeps {who : Who} {value : Word} (h : Keeps s₀ s) : Answers s₀ (execPwrPs4IdleWrite who value s) :=
  ⟨_, rfl, live_keeps h (fun _ h0 => Keeps.ite (ps4IdleWrite_keeps h0) h0)⟩

theorem execStoCtlWrite_keeps {who : Who} {value : Word} (h : Keeps s₀ s) : Answers s₀ (execStoCtlWrite who value s) :=
  ⟨_, rfl, live_keeps h (fun _ h0 => Keeps.ite (stoCtlWrite_keeps h0) h0)⟩

theorem execDspAffDepthWrite_keeps {who : Who} {value : Word} (h : Keeps s₀ s) : Answers s₀ (execDspAffDepthWrite who value s) :=
  ⟨_, rfl, live_keeps h (fun _ h0 => Keeps.ite (affDepthWrite_keeps h0) h0)⟩

theorem tapLoad_keeps {i : TapInstr} (h : Keeps s₀ s) : Keeps s₀ (tapLoad s i) := Keeps.ite (Keeps.mk (Keeps.mk h)) (Keeps.mk h)

theorem execTapInstructionLoad_keeps {i : TapInstr} (h : Keeps s₀ s) : Answers s₀ (execTapInstructionLoad i s) :=
  ⟨_, rfl, Keeps.ite h (tapLoad_keeps h)⟩

theorem unsupported_keeps {port : Nat} (h : Keeps s₀ s) : Keeps s₀ (unsupported s port) := State.updPort_keeps h

theorem execRcRead_keeps {who : Who} {off : BitVec 29} {lanes : Lanes} (h : Keeps s₀ s) : Answers s₀ (execRcRead who off lanes s) := by
  unfold execRcRead
  exact ⟨_, rfl, live_keeps h (fun _ h0 => by
    split
    · exact Keeps.mk (unsupported_keeps h0)
    · exact Keeps.mk (readRegister_keeps h0))⟩

theorem execRegisterWrite_keeps {who : Who} {off : BitVec 29} {lanes : Lanes} {value : Word} (h : Keeps s₀ s) :
    Answers s₀ (execRegisterWrite who off lanes value s) := by
  unfold execRegisterWrite
  exact ⟨_, rfl, live_keeps h (fun _ h0 => by
    split
    · exact unsupported_keeps h0
    · exact writeRegister_keeps h0)⟩

theorem execVddAonLoss_keeps (h : Keeps s₀ s) : Answers s₀ (execVddAonLoss s) := ⟨_, rfl, aonLoss_keeps h⟩

theorem bootBegin_keeps (h : Keeps s₀ s) : Keeps s₀ (bootBegin s) := Keeps.ite (bootRom_keeps h) h

theorem execRailsGood_keeps (h : Keeps s₀ s) : Answers s₀ (execRailsGood s) :=
  ⟨_, rfl, aonLive_keeps h (fun _ h0 => bootBegin_keeps (State.updPwr_keeps h0))⟩

theorem execPerstDeassert_keeps {port : Port} (h : Keeps s₀ s) : Answers s₀ (execPerstDeassert port s) :=
  ⟨_, rfl, bootBegin_keeps (State.updPort_keeps h)⟩

theorem execHostLinkUp_keeps {port : Port} (h : Keeps s₀ s) : Answers s₀ (execHostLinkUp port s) :=
  ⟨_, rfl, live_keeps h (fun _ h0 => Keeps.ite h0 (State.updPort_keeps h0))⟩

theorem execDynamicAddressAssignment_keeps {addr : BitVec 7} (h : Keeps s₀ s) : Answers s₀ (execDynamicAddressAssignment addr s) :=
  ⟨_, rfl, Keeps.ite h (Keeps.mk h)⟩

theorem execLinkErrorCorrected_keeps {n : CaskId} (h : Keeps s₀ s) : Answers s₀ (execLinkErrorCorrected n s) :=
  ⟨_, rfl, live_keeps h (fun _ h0 => Keeps.ite (raiseCask_keeps h0) h0)⟩

theorem endReset_keeps {p : Nat} (h : Keeps s₀ s) : Keeps s₀ (endReset s p) := by
  unfold endReset
  split
  · exact endCmd_keeps h
  · exact h

theorem resetDone_keeps {p : Nat} (h : Keeps s₀ s) : Keeps s₀ (resetDone s p) :=
  Keeps.ite h (raiseParcel_keeps (endReset_keeps (State.updParcel_keeps h)))

theorem execParcelResetComplete_keeps {p : ParcelId} (h : Keeps s₀ s) : Answers s₀ (execParcelResetComplete p s) :=
  ⟨_, rfl, live_keeps h (fun _ h0 => settle_keeps (resetDone_keeps h0))⟩

theorem freeKeys_keeps {p : Nat} (h : Keeps s₀ s) : Keeps s₀ (freeKeys s p) := State.updDgt_keeps h

theorem quiescingEnd_keeps {p : Nat} (h : Keeps s₀ s) : Keeps s₀ (quiescingEnd s p) := by
  unfold quiescingEnd
  exact Keeps.ite h (by
    dsimp only
    split
    · exact endCmd_keeps (endReset_keeps (State.updParcel_keeps (freeKeys_keeps (Keeps.foldl (Keeps.mk
        (State.setNss_keeps h)) fun _ _ h0 => State.updTile_keeps h0))))
    · exact endReset_keeps (State.updParcel_keeps (freeKeys_keeps (Keeps.foldl (Keeps.mk (State.setNss_keeps h)) fun _ _ h1 => State.updTile_keeps h1))))

theorem execQuiescingEnd_keeps {p : ParcelId} (h : Keeps s₀ s) : Answers s₀ (execQuiescingEnd p s) :=
  ⟨_, rfl, live_keeps h (fun _ h0 => settle_keeps (quiescingEnd_keeps h0))⟩

theorem execAttentionIndicatorBlink_keeps {n : CaskId} (h : Keeps s₀ s) : Answers s₀ (execAttentionIndicatorBlink n s) :=
  ⟨_, rfl, live_keeps h (fun _ h0 => Keeps.ite (State.updCask_keeps h0) h0)⟩

theorem execMsixVectorUnmask_keeps {f : FnId} {v : BitVec 11} (h : Keeps s₀ s) : Answers s₀ (execMsixVectorUnmask f v s) :=
  ⟨_, rfl, live_keeps h (fun _ h0 => Keeps.ite (unmaskVector_keeps h0) h0)⟩

/-- Every command, in any state, is answered by a next state, which keeps what a step keeps. -/
theorem exec_keeps (h : Keeps s₀ s) (i : Instr) : Answers s₀ (exec i s) := by
  cases i with
  | globalBoundary => exact execGlobalBoundary_keeps h
  | guardWindowOpen => exact execGuardWindowOpen_keeps h
  | frmPeriodWrite => exact execFrmPeriodWrite_keeps h
  | frmHoldLimitWrite => exact execFrmHoldLimitWrite_keeps h
  | ptmRequestTimer => exact execPtmRequestTimer_keeps h
  | ptmDialogueComplete => exact execPtmDialogueComplete_keeps h
  | frmPtmFrameRead => exact execFrmPtmFrameRead_keeps h
  | frmPtmHostRead => exact execFrmPtmHostRead_keeps h
  | loadImage => exact execLoadImage_keeps h
  | imageStreamData => exact execImageStreamData_keeps h
  | tiledataCopyDone => exact execTiledataCopyDone_keeps h
  | unloadImage => exact execUnloadImage_keeps h
  | salu => exact execSalu_keeps h
  | aluImmediate => exact execAluImmediate_keeps h
  | lui => exact execLui_keeps h
  | shifti => exact execShifti_keeps h
  | crc32cD => exact execCrc32cD_keeps h
  | sld => exact execSld_keeps h
  | sst => exact execSst_keeps h
  | sldt => exact execSldt_keeps h
  | sstt => exact execSstt_keeps h
  | branch => exact execBranch_keeps h
  | jal => exact execJal_keeps h
  | jalr => exact execJalr_keeps h
  | sfp => exact execSfp_keeps h
  | illegalInstruction => exact execIllegalInstruction_keeps h
  | vintArith => exact execVintArith_keeps h
  | vdiv => exact execVdiv_keeps h
  | vfpArith => exact execVfpArith_keeps h
  | vcmp => exact execVcmp_keeps h
  | vlogic => exact execVlogic_keeps h
  | predicateLogic => exact execPredicateLogic_keeps h
  | vsel => exact execVsel_keeps h
  | vcompress => exact execVcompress_keeps h
  | vexpand => exact execVexpand_keeps h
  | vmv => exact execVmv_keeps h
  | vmvVs => exact execVmvVs_keeps h
  | vmvSv => exact execVmvSv_keeps h
  | vins => exact execVins_keeps h
  | viota => exact execViota_keeps h
  | vperm => exact execVperm_keeps h
  | vslideup => exact execVslideup_keeps h
  | vslidedn => exact execVslidedn_keeps h
  | vrev => exact execVrev_keeps h
  | vred => exact execVred_keeps h
  | vfredsum => exact execVfredsum_keeps h
  | vscan => exact execVscan_keeps h
  | vpopc => exact execVpopc_keeps h
  | pcnt => exact execPcnt_keeps h
  | pfirst => exact execPfirst_keeps h
  | vcrc32c => exact execVcrc32c_keeps h
  | vcrc32cE => exact execVcrc32cE_keeps h
  | vld => exact execVld_keeps h
  | vst => exact execVst_keeps h
  | vlds => exact execVlds_keeps h
  | vsts => exact execVsts_keeps h
  | vgather => exact execVgather_keeps h
  | vscatter => exact execVscatter_keeps h
  | vhash => exact execVhash_keeps h
  | vhashT => exact execVhashT_keeps h
  | vunpk => exact execVunpk_keeps h
  | vdict => exact execVdict_keeps h
  | vsort => exact execVsort_keeps h
  | vredM => exact execVredM_keeps h
  | csrr => exact execCsrr_keeps h
  | csrw => exact execCsrw_keeps h
  | obxLenWrite => exact execObxLenWrite_keeps h
  | estop => exact execEstop_keeps h
  | eret => exact execEret_keeps h
  | fdone => exact execFdone_keeps h
  | fdoneEos => exact execFdoneEos_keeps h
  | dqGet => exact execDqGet_keeps h
  | dqDelivery => exact execDqDelivery_keeps h
  | dqDone => exact execDqDone_keeps h
  | dqPut => exact execDqPut_keeps h
  | vsetvl => exact execVsetvl_keeps h
  | fence => exact execFence_keeps h
  | dcCleanVa => exact execDcCleanVa_keeps h
  | dcInvVa => exact execDcInvVa_keeps h
  | dcCinvVa => exact execDcCinvVa_keeps h
  | dcCleanRange => exact execDcCleanRange_keeps h
  | dcInvRange => exact execDcInvRange_keeps h
  | dcCinvRange => exact execDcCinvRange_keeps h
  | dcCleanAll => exact execDcCleanAll_keeps h
  | dcInvAll => exact execDcInvAll_keeps h
  | dcCinvAll => exact execDcCinvAll_keeps h
  | tlbiVa => exact execTlbiVa_keeps h
  | tlbiAst => exact execTlbiAst_keeps h
  | tlbiAll => exact execTlbiAll_keeps h
  | tlbiVaP => exact execTlbiVaP_keeps h
  | tlbiAstP => exact execTlbiAstP_keeps h
  | tlbiAllP => exact execTlbiAllP_keeps h
  | tlbsync => exact execTlbsync_keeps h
  | invalidationComplete => exact execInvalidationComplete_keeps h
  | decodeDoorbell => exact execDecodeDoorbell_keeps h
  | decodeCommandBegin => exact execDecodeCommandBegin_keeps h
  | decodeStep => exact execDecodeStep_keeps h
  | decodeStall => exact execDecodeStall_keeps h
  | recordDelivery => exact execRecordDelivery_keeps h
  | tilResetGo => exact execTilResetGo_keeps h
  | tileResetDone => exact execTileResetDone_keeps h
  | sortDoorbell => exact execSortDoorbell_keeps h
  | sortJobEnd => exact execSortJobEnd_keeps h
  | reductionApply => exact execReductionApply_keeps h
  | memoryRequest => exact execMemoryRequest_keeps h
  | scrubLine => exact execScrubLine_keeps h
  | memScrubCtlWrite => exact execMemScrubCtlWrite_keeps h
  | memUeAddrClear => exact execMemUeAddrClear_keeps h
  | cacheLineFill => exact execCacheLineFill_keeps h
  | prefetchFill => exact execPrefetchFill_keeps h
  | sideLineExpire => exact execSideLineExpire_keeps h
  | ceWindowEnd => exact execCeWindowEnd_keeps h
  | cacheWayDisable => exact execCacheWayDisable_keeps h
  | tchCtlWrite => exact execTchCtlWrite_keeps h
  | tchDisableDone => exact execTchDisableDone_keeps h
  | tchMaintCleanAll => exact execTchMaintCleanAll_keeps h
  | tchMaintInvalidateAll => exact execTchMaintInvalidateAll_keeps h
  | tchMaintCleanInvalidate => exact execTchMaintCleanInvalidate_keeps h
  | tchMaintDone => exact execTchMaintDone_keeps h
  | walkDescriptorRead => exact execWalkDescriptorRead_keeps h
  | mmuInvByAddress => exact execMmuInvByAddress_keeps h
  | mmuInvByAst => exact execMmuInvByAst_keeps h
  | mmuInvAll => exact execMmuInvAll_keeps h
  | map => exact execMap_keeps h
  | unmap => exact execUnmap_keeps h
  | dmaStart => exact execDmaStart_keeps h
  | dmaAbort => exact execDmaAbort_keeps h
  | dmaRequest => exact execDmaRequest_keeps h
  | moverDoorbell => exact execMoverDoorbell_keeps h
  | burstStart => exact execBurstStart_keeps h
  | burstComplete => exact execBurstComplete_keeps h
  | dmaBusError => exact execDmaBusError_keeps h
  | dmaGStoppedClear => exact execDmaGStoppedClear_keeps h
  | compressionDoorbell => exact execCompressionDoorbell_keeps h
  | cmpJobSuspend => exact execCmpJobSuspend_keeps h
  | cmpOutputBlock => exact execCmpOutputBlock_keeps h
  | cmpJobEnd => exact execCmpJobEnd_keeps h
  | digestDoorbell => exact execDigestDoorbell_keeps h
  | dgtJobSuspend => exact execDgtJobSuspend_keeps h
  | dgtJobEnd => exact execDgtJobEnd_keeps h
  | managementJobStart => exact execManagementJobStart_keeps h
  | managementJobDone => exact execManagementJobDone_keeps h
  | dgtKeyOwnWrite => exact execDgtKeyOwnWrite_keeps h
  | dgtCmpGo => exact execDgtCmpGo_keeps h
  | dgtCompareDone => exact execDgtCompareDone_keeps h
  | caskPresenceChange => exact execCaskPresenceChange_keeps h
  | cskPerstRelease => exact execCskPerstRelease_keeps h
  | caskLinkUp => exact execCaskLinkUp_keeps h
  | caskLinkTimeout => exact execCaskLinkTimeout_keeps h
  | caskIdentified => exact execCaskIdentified_keeps h
  | caskLinkDown => exact execCaskLinkDown_keeps h
  | caskFatalReport => exact execCaskFatalReport_keeps h
  | caskCommandTimeout => exact execCaskCommandTimeout_keeps h
  | caskWearRead => exact execCaskWearRead_keeps h
  | caskWearSample => exact execCaskWearSample_keeps h
  | slowReadTimeout => exact execSlowReadTimeout_keeps h
  | caskReadDone => exact execCaskReadDone_keeps h
  | stripeMoveCommit => exact execStripeMoveCommit_keeps h
  | migrationComplete => exact execMigrationComplete_keeps h
  | rebuildComplete => exact execRebuildComplete_keeps h
  | caskPrepareRemove => exact execCaskPrepareRemove_keeps h
  | cskRackShareWrite => exact execCskRackShareWrite_keeps h
  | cskRackLiveWrite => exact execCskRackLiveWrite_keeps h
  | taskSubmit => exact execTaskSubmit_keeps h
  | unlistedOpcode => exact execUnlistedOpcode_keeps h
  | commandDataRead => exact execCommandDataRead_keeps h
  | read => exact execRead_keeps h
  | write => exact execWrite_keeps h
  | flush => exact execFlush_keeps h
  | deallocate => exact execDeallocate_keeps h
  | stripeCloseTimeout => exact execStripeCloseTimeout_keeps h
  | stripeChunksAcked => exact execStripeChunksAcked_keeps h
  | stripeCommit => exact execStripeCommit_keeps h
  | journalReplayDone => exact execJournalReplayDone_keeps h
  | nsReadaheadReady => exact execNsReadaheadReady_keeps h
  | execute => exact execExecute_keeps h
  | cancel => exact execCancel_keeps h
  | resume => exact execResume_keeps h
  | queryStatus => exact execQueryStatus_keeps h
  | cellarCopy => exact execCellarCopy_keeps h
  | createNs => exact execCreateNs_keeps h
  | deleteNs => exact execDeleteNs_keeps h
  | attachNs => exact execAttachNs_keeps h
  | identify => exact execIdentify_keeps h
  | getLog => exact execGetLog_keeps h
  | setFeature => exact execSetFeature_keeps h
  | getFeature => exact execGetFeature_keeps h
  | fwStage => exact execFwStage_keeps h
  | fwCommit => exact execFwCommit_keeps h
  | parcelCreate => exact execParcelCreate_keeps h
  | parcelBuildDone => exact execParcelBuildDone_keeps h
  | parcelDestroy => exact execParcelDestroy_keeps h
  | parcelReset => exact execParcelReset_keeps h
  | vfFlr => exact execVfFlr_keeps h
  | tskCqCfgWrite => exact execTskCqCfgWrite_keeps h
  | tskCqBaseWrite => exact execTskCqBaseWrite_keeps h
  | tskCqHeadWrite => exact execTskCqHeadWrite_keeps h
  | tskWparcelWrite => exact execTskWparcelWrite_keeps h
  | parcelIdleTimeout => exact execParcelIdleTimeout_keeps h
  | powerStateExitDone => exact execPowerStateExitDone_keeps h
  | ps4IdleTimeout => exact execPs4IdleTimeout_keeps h
  | pclFrameDivWrite => exact execPclFrameDivWrite_keeps h
  | pclParkLimitWrite => exact execPclParkLimitWrite_keeps h
  | pclVfSplitWrite => exact execPclVfSplitWrite_keeps h
  | pclIdleWrite => exact execPclIdleWrite_keeps h
  | mbxSend => exact execMbxSend_keeps h
  | mbxTake => exact execMbxTake_keeps h
  | mbxStaleTimeout => exact execMbxStaleTimeout_keeps h
  | mbxBindWrite => exact execMbxBindWrite_keeps h
  | mbxBindLockSet => exact execMbxBindLockSet_keeps h
  | lockRead => exact execLockRead_keeps h
  | lockWrite => exact execLockWrite_keeps h
  | lckForce => exact execLckForce_keeps h
  | evtRouteWrite => exact execEvtRouteWrite_keeps h
  | evtPendClear => exact execEvtPendClear_keeps h
  | evtRingCfgWrite => exact execEvtRingCfgWrite_keeps h
  | evtRingHeadWrite => exact execEvtRingHeadWrite_keeps h
  | hostLinkDown => exact execHostLinkDown_keeps h
  | perstAssert => exact execPerstAssert_keeps h
  | pf0Flr => exact execPf0Flr_keeps h
  | configRequest => exact execConfigRequest_keeps h
  | portOrderReadDone => exact execPortOrderReadDone_keeps h
  | oscillatorMeasure => exact execOscillatorMeasure_keeps h
  | linkMarginMeasure => exact execLinkMarginMeasure_keeps h
  | poweredDayEnd => exact execPoweredDayEnd_keeps h
  | i3cPrivateWrite => exact execI3cPrivateWrite_keeps h
  | i3cPrivateRead => exact execI3cPrivateRead_keeps h
  | hltCeLimitWrite => exact execHltCeLimitWrite_keeps h
  | coldPowerOn => exact execColdPowerOn_keeps h
  | railLoss => exact execRailLoss_keeps h
  | refclkSysLoss => exact execRefclkSysLoss_keeps h
  | temperatureUpdate => exact execTemperatureUpdate_keeps h
  | thermalTrip => exact execThermalTrip_keeps h
  | rstCtlWrite => exact execRstCtlWrite_keeps h
  | watchdogExpiry => exact execWatchdogExpiry_keeps h
  | firmwareReady => exact execFirmwareReady_keeps h
  | bootRecGo => exact execBootRecGo_keeps h
  | pwrCtlWrite => exact execPwrCtlWrite_keeps h
  | pwrPs4IdleWrite => exact execPwrPs4IdleWrite_keeps h
  | stoCtlWrite => exact execStoCtlWrite_keeps h
  | dspAffDepthWrite => exact execDspAffDepthWrite_keeps h
  | tapInstructionLoad => exact execTapInstructionLoad_keeps h
  | rcRead => exact execRcRead_keeps h
  | registerWrite => exact execRegisterWrite_keeps h
  | vddAonLoss => exact execVddAonLoss_keeps h
  | railsGood => exact execRailsGood_keeps h
  | perstDeassert => exact execPerstDeassert_keeps h
  | hostLinkUp => exact execHostLinkUp_keeps h
  | dynamicAddressAssignment => exact execDynamicAddressAssignment_keeps h
  | linkErrorCorrected => exact execLinkErrorCorrected_keeps h
  | parcelResetComplete => exact execParcelResetComplete_keeps h
  | quiescingEnd => exact execQuiescingEnd_keeps h
  | attentionIndicatorBlink => exact execAttentionIndicatorBlink_keeps h
  | msixVectorUnmask => exact execMsixVectorUnmask_keeps h

theorem idleCycle_keeps (h : Keeps s₀ s) : Keeps s₀ (idleCycle s) :=
  live_keeps h (fun _ h0 => Keeps.ite (settleFrom_keeps (globalBoundary_keeps (Keeps.mk h0))) (State.updFrm_keeps (Keeps.mk h0) id))

-- ## One step

/-- A step answers with a state that keeps what it began with. -/
theorem step_keeps (s : State) : Answers s (step s) := by
  unfold step
  split
  · exact ⟨_, rfl, idleCycle_keeps (Keeps.refl s)⟩
  · exact exec_keeps (Keeps.mk (Keeps.refl s)) _

/-- Settles O58: no operation leaves settings that Table 11 of chapter 02 rules out. -/
theorem frameSettingsStayLegal : Obligations.FrameSettingsStayLegal := by
  unfold Obligations.FrameSettingsStayLegal
  intro s s' hlegal hstep
  obtain ⟨t, ht, -, hF⟩ := step_keeps s
  obtain rfl := Host.Outcome.next.inj (ht.symm.trans hstep)
  exact hF hlegal

/-- Settles O59: memory changes by operations that keep its form. -/
theorem memoryStaysCanonical : Obligations.MemoryStaysCanonical := by
  unfold Obligations.MemoryStaysCanonical
  intro s s' hok hstep
  obtain ⟨t, ht, hm, -⟩ := step_keeps s
  obtain rfl := Host.Outcome.next.inj (ht.symm.trans hstep)
  exact hm hok

/-- Settles O2: each command's meaning is a next state. -/
theorem noFaultNoRefusal : Obligations.NoFaultNoRefusal := by
  unfold Obligations.NoFaultNoRefusal
  intro s
  obtain ⟨t, ht, -⟩ := step_keeps s
  exact ⟨t, ht⟩

/-- Settles O1: the two cases of a step. -/
theorem stepRunsFront : Obligations.StepRunsFront := by
  unfold Obligations.StepRunsFront
  intro s
  refine ⟨fun c cs hp => ?_, fun hp => ?_⟩
  · simp only [step, hp]
  · simp only [step, hp]

end Sys2Proof.Machine

/-! PROOFS. Leading and trailing zeros of a number, counted and searched for. -/

namespace Sys2Proof.Machine

theorem length_filter_le (w k : Nat) : ((List.range w).filter fun i => decide (k ≤ i)).length = w - k := by
  induction w with
  | zero => simp
  | succ w ih =>
    rw [List.range_succ, List.filter_append, List.length_append, ih]
    by_cases h : k ≤ w <;> simp [h] <;> omega

theorem length_filter_lt (w k : Nat) : ((List.range w).filter fun i => decide (i < k)).length = min w k := by
  induction w with
  | zero => simp
  | succ w ih =>
    rw [List.range_succ, List.filter_append, List.length_append, ih]
    by_cases h : w < k <;> simp [h] <;> omega

/-- The first place below `n` at which `p` holds, `n` where there is none. -/
theorem find?_range_eq_of {n k : Nat} {p : Nat → Bool} (hk : k ≤ n) (hb : ∀ i, i < k → p i = false) (hp : k < n → p k = true) :
    ((List.range n).find? p).getD n = k := by
  rcases Nat.lt_or_eq_of_le hk with h | rfl
  · rw [List.find?_range_eq_some.2 ⟨hp h, List.mem_range.2 h, by simpa using hb⟩]
    rfl
  · rw [List.find?_eq_none.2 (by simpa using hb)]
    rfl

theorem bitOf_eq_testBit (n i : Nat) : bitOf n i = n.testBit i := by
  rw [bitOf, Nat.testBit_eq_decide_div_mod_eq, Bool.beq_eq_decide_eq]

/-- The number of bits that a number takes. -/
def bitLen (a : Nat) : Nat := if a = 0 then 0 else a.log2 + 1

theorem bitLen_le {a k : Nat} : bitLen a ≤ k ↔ a < 2 ^ k := by
  unfold bitLen
  split
  next h => exact ⟨fun _ => h ▸ Nat.two_pow_pos k, fun _ => Nat.zero_le k⟩
  next h => exact Nat.log2_lt h

theorem lt_bitLen {a k : Nat} : k < bitLen a ↔ 2 ^ k ≤ a := by
  rw [← Nat.not_le, bitLen_le, Nat.not_lt]

/-- Below `w` places, those at which the power exceeds `a` are the leading zeros of `a`. -/
theorem length_filter_lt_two_pow (w a : Nat) : ((List.range w).filter fun i => decide (a < 2 ^ i)).length = w - bitLen a := by
  simp only [← bitLen_le]
  exact length_filter_le w (bitLen a)

theorem testBit_bitLen_sub_one {a : Nat} (h : 0 < bitLen a) : a.testBit (bitLen a - 1) = true := by
  have hlt : a < 2 ^ (bitLen a - 1 + 1) := by
    rw [Nat.sub_add_cancel h]
    exact bitLen_le.1 (Nat.le_refl _)
  have hle : 2 ^ (bitLen a - 1) ≤ a := lt_bitLen.1 (by omega)
  rw [Nat.testBit_eq_decide_div_mod_eq, Nat.div_eq_of_lt_le (k := 1) (by omega) (by rw [Nat.pow_succ] at hlt; omega)]
  rfl

theorem clz64_eq (a : Word) : clz64 a = 64 - bitLen a.toNat := by
  have hs : bitLen a.toNat ≤ 64 := bitLen_le.2 a.isLt
  refine find?_range_eq_of (by omega) (fun i hi => ?_) fun h => ?_
  · exact Nat.testBit_lt_two_pow (bitLen_le.1 (by omega))
  · rw [show 63 - (64 - bitLen a.toNat) = bitLen a.toNat - 1 by omega]
    exact testBit_bitLen_sub_one (by omega)

theorem mod_two_pow_succ_eq_zero_iff (a i : Nat) : a % 2 ^ (i + 1) = 0 ↔ ∀ j, j ≤ i → a.testBit j = false := by
  refine ⟨fun h j hj => ?_, fun h => Nat.eq_of_testBit_eq fun j => ?_⟩
  · have hb := Nat.testBit_mod_two_pow a (i + 1) j
    rw [h, Nat.zero_testBit] at hb
    simpa [show j < i + 1 by omega] using hb.symm
  · rw [Nat.testBit_mod_two_pow, Nat.zero_testBit]
    by_cases hj : j ≤ i
    · rw [h j hj, Bool.and_false]
    · rw [decide_eq_false (by omega), Bool.false_and]

/-- Below `w` places, those up to which `a` has only zeros are the trailing zeros of `a`. -/
theorem length_filter_mod_two_pow (w a : Nat) :
    ((List.range w).filter fun i => decide (a % 2 ^ (i + 1) = 0)).length = ((List.range w).find? fun i => a.testBit i).getD w := by
  rcases hf : (List.range w).find? fun i => a.testBit i with - | z
  · rw [List.find?_eq_none] at hf
    rw [List.filter_eq_self.2 fun i hi => decide_eq_true ((mod_two_pow_succ_eq_zero_iff a i).2 fun j hj =>
      eq_false_of_ne_true (hf j (List.mem_range.2 (by have := List.mem_range.1 hi; omega)))), List.length_range]
    rfl
  · rw [List.find?_range_eq_some] at hf
    obtain ⟨hz, hw, hb⟩ := hf
    have hiff (i : Nat) : a % 2 ^ (i + 1) = 0 ↔ i < z := by
      rw [mod_two_pow_succ_eq_zero_iff]
      refine ⟨fun h => Nat.lt_of_not_le fun hzi => ?_, fun h j hj => by simpa using hb j (by omega)⟩
      rw [h z hzi] at hz
      cases hz
    simp only [hiff, length_filter_lt]
    exact Nat.min_eq_right (Nat.le_of_lt (List.mem_range.1 hw))

end Sys2Proof.Machine

/-! PROOFS. Scalar integer instructions, branches and jumps (chapter 05, Table 4; R117). -/

namespace Sys2Proof.Machine

theorem ofNat_b2n (c : Prop) [Decidable c] : BitVec.ofNat 64 (b2n (decide c)) = if c then 1 else 0 := by
  by_cases h : c <;> simp [h, b2n]

theorem ofInt_min (a b : Word) : BitVec.ofInt 64 (min a.toInt b.toInt) = if b.toInt < a.toInt then b else a := by
  split
  · rw [Int.min_eq_right (by omega), BitVec.ofInt_toInt]
  · rw [Int.min_eq_left (by omega), BitVec.ofInt_toInt]

theorem ofInt_max (a b : Word) : BitVec.ofInt 64 (max a.toInt b.toInt) = if a.toInt < b.toInt then b else a := by
  split
  · rw [Int.max_eq_right (by omega), BitVec.ofInt_toInt]
  · rw [Int.max_eq_left (by omega), BitVec.ofInt_toInt]

theorem ofNat_min (a b : Word) : BitVec.ofNat 64 (min a.toNat b.toNat) = if b.toNat < a.toNat then b else a := by
  split
  · rw [Nat.min_eq_right (by omega), BitVec.ofNat_toNat, BitVec.setWidth_eq]
  · rw [Nat.min_eq_left (by omega), BitVec.ofNat_toNat, BitVec.setWidth_eq]

theorem ofNat_max (a b : Word) : BitVec.ofNat 64 (max a.toNat b.toNat) = if a.toNat < b.toNat then b else a := by
  split
  · rw [Nat.max_eq_right (by omega), BitVec.ofNat_toNat, BitVec.setWidth_eq]
  · rw [Nat.max_eq_left (by omega), BitVec.ofNat_toNat, BitVec.setWidth_eq]

theorem toInt_eq_zero_iff (b : Word) : b.toInt = 0 ↔ b = 0 := by
  rw [← BitVec.toInt_zero (w := 64), BitVec.toInt_inj]
  rfl

/-- The most negative value by -1: its quotient, one above the largest value, wraps to itself. -/
theorem sQuot_eq (a b : Word) : sQuot true a b =
    if b.toInt = 0 then BitVec.allOnes 64 else if a.toInt = -2 ^ 63 ∧ b.toInt = -1 then a else BitVec.ofInt 64 (a.toInt.tdiv b.toInt) := by
  simp only [sQuot, toInt_eq_zero_iff, if_true]
  by_cases hm : a.toInt = -2 ^ 63 ∧ b.toInt = -1
  · rw [if_pos hm, ← BitVec.ofInt_toInt (x := a), hm.1, hm.2]
    rfl
  · rw [if_neg hm]

theorem sRem_eq (a b : Word) : sRem true a b =
    if b.toInt = 0 then a else if a.toInt = -2 ^ 63 ∧ b.toInt = -1 then 0 else BitVec.ofInt 64 (a.toInt.tmod b.toInt) := by
  simp only [sRem, toInt_eq_zero_iff, if_true]
  by_cases hm : a.toInt = -2 ^ 63 ∧ b.toInt = -1
  · rw [if_pos hm, hm.2]
    simp
  · rw [if_neg hm]

theorem saluResult_eq (op : SaluOp) (a b : Word) : saluResult op a b = scalarSpec op a b := by
  cases op
  case add => rw [scalarSpec, BitVec.ofInt_add, BitVec.ofInt_toInt, BitVec.ofInt_toInt]; rfl
  case sub => rw [scalarSpec, Int.sub_eq_add_neg, BitVec.ofInt_add, BitVec.ofInt_neg, BitVec.ofInt_toInt, BitVec.ofInt_toInt, ← BitVec.sub_eq_add_neg]; rfl
  case mul => rw [scalarSpec, BitVec.ofInt_mul, BitVec.ofInt_toInt, BitVec.ofInt_toInt]; rfl
  case sll => exact BitVec.eq_of_toNat_eq (by simp [saluResult, scalarSpec, Nat.shiftLeft_eq])
  case srl => exact BitVec.eq_of_toNat_eq (by
    simp only [saluResult, scalarSpec, BitVec.toNat_ushiftRight, BitVec.toNat_ofNat, Nat.shiftRight_eq_div_pow]
    exact (Nat.mod_eq_of_lt (Nat.lt_of_le_of_lt (Nat.div_le_self ..) a.isLt)).symm)
  case sra => 
    show a.sshiftRight (b.toNat % 64) = BitVec.ofInt 64 (a.toInt / 2 ^ (b.toNat % 64))
    have h := Int.shiftRight_eq_div_pow a.toInt (b.toNat % 64)
    push_cast at h
    rw [← h, ← BitVec.toInt_sshiftRight, BitVec.ofInt_toInt]
  case slt => exact (ofNat_b2n _).symm
  case sltu => exact (ofNat_b2n _).symm
  case div => exact sQuot_eq a b
  case rem => exact sRem_eq a b
  case divu => simp [saluResult, scalarSpec, sQuot, ← BitVec.toNat_inj]
  case remu => simp [saluResult, scalarSpec, sRem, ← BitVec.toNat_inj]
  case min => exact (ofInt_min a b).symm
  case max => exact (ofInt_max a b).symm
  case minu => exact (ofNat_min a b).symm
  case maxu => exact (ofNat_max a b).symm
  case popc => simp only [saluResult, scalarSpec, popcount, setBits, bitOf_eq_testBit, BitVec.testBit_toNat]
  case clz => simp only [saluResult, scalarSpec, clz64_eq, length_filter_lt_two_pow]
  case ctz => simp only [saluResult, scalarSpec, length_filter_mod_two_pow]; rfl
  all_goals rfl

theorem toInt_immS (imm : BitVec 16) : (immS imm).toInt = imm.toInt := by
  exact BitVec.toInt_signExtend_of_le (by decide)

theorem immResult_eq (op : ImmOp) (a : Word) (imm : BitVec 16) : immResult op a imm = immSpec op a imm := by
  cases op
  case addi => rw [immResult, immSpec, BitVec.ofInt_add, BitVec.ofInt_toInt, ← toInt_immS, BitVec.ofInt_toInt]
  case slti => rw [immResult, immSpec, toInt_immS, ofNat_b2n]
  case sltiu => rw [immResult, immSpec, ← toInt_immS, BitVec.ofInt_toInt, ofNat_b2n]
  all_goals rw [immResult, immSpec, BitVec.ofNat_toNat]

theorem lui_eq (imm : BitVec 16) : immS imm <<< 16 = BitVec.ofInt 64 (imm.toInt * 2 ^ 16) := by
  rw [BitVec.ofInt_mul, ← toInt_immS, BitVec.ofInt_toInt, BitVec.shiftLeft_eq_mul_twoPow]
  rfl

/-- Settles O3. -/
theorem scalarIntegerResults : Obligations.ScalarIntegerResults := by
  unfold Obligations.ScalarIntegerResults
  intro s t hr rd rs1 rs2
  refine ⟨fun op => ?_, fun op imm => ?_, fun imm => ?_, fun k c => ?_, ?_⟩
  · exact (issue_runs hr _).trans (by rw [saluResult_eq]; rfl)
  · exact (issue_runs hr _).trans (by rw [immResult_eq]; rfl)
  · exact (issue_runs hr _).trans (by rw [lui_eq]; rfl)
  · refine (issue_runs hr _).trans ?_
    rw [← saluResult_eq]
    have hc : (BitVec.ofNat 64 c.toNat).toNat % 64 = c.toNat := by simp; omega
    cases k <;> simp only [shiftOp, saluResult, hc] <;> rfl
  · exact issue_runs hr _

theorem taken_iff (c : BrCond) (a b : Word) : taken c a b = true ↔ branchSpec c a b := by
  cases c <;> simp [taken, branchSpec]

theorem mul_four_signExtend {w : Nat} (off : BitVec w) (h : w ≤ 64) : off.signExtend 64 * 4 = BitVec.ofInt 64 (4 * off.toInt) := by
  rw [Int.mul_comm, BitVec.ofInt_mul, ← BitVec.toInt_signExtend_of_le h, BitVec.ofInt_toInt]
  rfl

/-- A jump retires at its target. -/
theorem jumpTo_eq (s : State) (t : Nat) (f : Tile → Tile) (pc : Word) :
    jumpTo s t f pc = s.updTile t fun T => { f T with pc := pc, unparked := false } := by
  simp only [jumpTo, retire, BitVec.sub_add_cancel]

theorem and_not_three (a : Word) : a &&& ~~~(3 : Word) = BitVec.ofNat 64 (a.toNat / 4 * 4) := by
  have hmask : ∀ i, i < 64 → (~~~(3 : Word)).getLsbD i = decide (2 ≤ i) := by decide
  have hshift : a &&& ~~~(3 : Word) = (a >>> 2) <<< 2 := by
    refine BitVec.eq_of_getLsbD_eq fun i hi => ?_
    rw [BitVec.getLsbD_and, hmask i hi, BitVec.getLsbD_shiftLeft, BitVec.getLsbD_ushiftRight]
    by_cases h : 2 ≤ i
    · simp [h, hi, Nat.not_lt.2 h]
    · simp [h, Nat.lt_of_not_le h]
  rw [hshift]
  exact BitVec.eq_of_toNat_eq (by simp [Nat.shiftLeft_eq, Nat.shiftRight_eq_div_pow])

/-- Settles O4: a jump retires at its target, any other branch at the next instruction. -/
theorem branchesAndJumps : Obligations.BranchesAndJumps := by
  unfold Obligations.BranchesAndJumps
  intro s t hr rd rs1 rs2
  have hexec (f : State → State) : issue s t f = .next (f s) := issue_runs hr f
  refine ⟨fun c off hc => ?_, fun c off hc => ?_, fun off => ?_, fun imm => ?_⟩
  · have ht : taken c (sReg s t rs1) (sReg s t rs2) = true := (taken_iff ..).2 hc
    simp only [exec, execBranch, hexec, ht, if_true, jumpTo_eq, mul_four_signExtend off (by decide)]
  · have ht : taken c (sReg s t rs1) (sReg s t rs2) = false := eq_false_of_ne_true fun h => hc ((taken_iff ..).1 h)
    simp only [exec, execBranch, hexec, ht, Bool.false_eq_true, if_false]
    exact congrArg _ (State.updTile_congr rfl)
  · simp only [exec, execJal, hexec, jumpTo_eq, mul_four_signExtend off (by decide)]
    exact congrArg _ (State.updTile_congr rfl)
  · simp only [exec, execJalr, hexec, jumpTo_eq, and_not_three]
    rw [show immS imm = BitVec.ofInt 64 imm.toInt by rw [← toInt_immS, BitVec.ofInt_toInt]]
    exact congrArg _ (State.updTile_congr rfl)

end Sys2Proof.Machine

/-! PROOFS. Floating point (R112, R116): results of scalar instructions, their NaNs, and the order of minima and compares. -/

namespace Sys2Proof.Machine

/-- The widths of floating point. -/
def fWidth (w : Nat) : Prop := w = 32 ∨ w = 64

theorem fIsNan_iff (w a : Nat) : fIsNan w a = true ↔ (fmtOf w).decode a = .nan := by
  rw [fIsNan, beq_iff_eq]

theorem FpFmt.decode_eq_nan_iff (f : FpFmt) (n : Nat) :
    f.decode n = .nan ↔ n / 2 ^ f.mb % 2 ^ f.eb = 2 ^ f.eb - 1 ∧ n % 2 ^ f.mb ≠ 0 := by
  unfold FpFmt.decode
  dsimp only
  split
  · split <;> simp_all
  · split <;> simp_all

/-- A sign and at most the bits of infinity make no NaN. -/
theorem not_nan_of_le_inf {w x : Nat} (hw : fWidth w) (n : Bool) (hx : x ≤ (fmtOf w).infBits) : fIsNan w ((fmtOf w).sgn n + x) = false := by
  refine eq_false_of_ne_true fun h => ?_
  rw [fIsNan_iff, FpFmt.decode_eq_nan_iff] at h
  rcases hw with rfl | rfl <;> cases n <;>
    simp only [fmtOf, FpFmt.infBits, FpFmt.sgn, FpFmt.signBit, Bool.false_eq_true, if_true, if_false, Nat.reduceEqDiff] at h hx <;>
    simp only [Nat.reduceAdd, Nat.reduceSub, Nat.reducePow, Nat.reduceMul] at h hx <;> omega

theorem not_nan_sgn {w : Nat} (hw : fWidth w) (n : Bool) : fIsNan w ((fmtOf w).sgn n) = false :=
  not_nan_of_le_inf hw n (Nat.zero_le _)

theorem not_nan_infBits {w : Nat} (hw : fWidth w) : fIsNan w (fmtOf w).infBits = false := by
  have h := not_nan_of_le_inf hw false (Nat.le_refl _)
  rwa [FpFmt.sgn, if_neg (by decide), Nat.zero_add] at h

theorem not_nan_round {w : Nat} (hw : fWidth w) (n : Bool) (m : Nat) (e : Int) (st : Bool) : fIsNan w ((fmtOf w).round n m e st) = false := by
  unfold FpFmt.round
  split
  · exact not_nan_sgn hw n
  · refine not_nan_of_le_inf hw n ?_
    exact Nat.min_le_left _ _

theorem nanBits_of_encode {w : Nat} (hw : fWidth w) (v : Fv) (h : fIsNan w ((fmtOf w).encode v) = true) :
    (fmtOf w).encode v = (fmtOf w).nanBits := by
  cases v with
  | nan => rfl
  | inf n => rw [FpFmt.encode, not_nan_of_le_inf hw n (Nat.le_refl _)] at h; cases h
  | fin n m e => rw [FpFmt.encode, not_nan_round hw] at h; cases h

theorem nanBits_of_fDiv {w : Nat} (hw : fWidth w) (a b : Nat) (h : fIsNan w (fDiv w a b) = true) : fDiv w a b = (fmtOf w).nanBits := by
  revert h
  unfold fDiv
  dsimp only
  split
  · exact fun _ => rfl
  · exact fun _ => rfl
  · exact fun _ => rfl
  · rw [not_nan_of_le_inf hw _ (Nat.le_refl _)]; exact nofun
  · rw [not_nan_sgn hw]; exact nofun
  · split
    · split
      · exact fun _ => rfl
      · rw [not_nan_of_le_inf hw _ (Nat.le_refl _)]; exact nofun
    · rw [not_nan_round hw]; exact nofun

theorem nanBits_of_fSqrt {w : Nat} (hw : fWidth w) (a : Nat) (h : fIsNan w (fSqrt w a) = true) : fSqrt w a = (fmtOf w).nanBits := by
  revert h
  unfold fSqrt
  dsimp only
  split
  · exact fun _ => rfl
  · split
    · exact fun _ => rfl
    · rw [not_nan_infBits hw]; exact nofun
  · split
    · rw [not_nan_sgn hw]; exact nofun
    · split
      · exact fun _ => rfl
      · rw [not_nan_round hw]; exact nofun

/-- Only the low `w` bits say whether bits are a NaN. -/
theorem fIsNan_mod {w : Nat} (hw : fWidth w) (a : Nat) : fIsNan w (a % 2 ^ w) = fIsNan w a := by
  rw [Bool.eq_iff_iff, fIsNan_iff, fIsNan_iff, FpFmt.decode_eq_nan_iff, FpFmt.decode_eq_nan_iff]
  rcases hw with rfl | rfl <;> simp only [fmtOf, if_true, Nat.reduceEqDiff, if_false, Nat.reducePow, Nat.reduceSub] <;> omega

theorem nanBits_of_fMinMax {w : Nat} (hw : fWidth w) (mx : Bool) (a b : Nat) (h : fIsNan w (fMinMax mx w a b) = true) :
    fMinMax mx w a b = (fmtOf w).nanBits := by
  revert h
  unfold fMinMax
  by_cases ha : fIsNan w a = true <;> by_cases hb : fIsNan w b = true <;> simp only [ha, hb, if_true, if_false, Bool.false_eq_true] <;>
    try split
  all_goals simp [fIsNan_mod hw, ha, hb]

/-- Every NaN result is the canonical one. -/
theorem nanBits_of_result {w : Nat} (hw : fWidth w) {a b c r : Nat}
    (hr : r ∈ [fAdd w a b, fSub w a b, fMul w a b, fDiv w a b, fSqrt w a, fFma w c a b, fMinMax true w a b, fMinMax false w a b])
    (h : fIsNan w r = true) : r = (fmtOf w).nanBits := by
  simp only [List.mem_cons, List.not_mem_nil, or_false] at hr
  rcases hr with rfl | rfl | rfl | rfl | rfl | rfl | rfl | rfl
  · exact nanBits_of_encode hw _ h
  · exact nanBits_of_encode hw _ h
  · exact nanBits_of_encode hw _ h
  · exact nanBits_of_fDiv hw a b h
  · exact nanBits_of_fSqrt hw a h
  · exact nanBits_of_encode hw _ h
  · exact nanBits_of_fMinMax hw true a b h
  · exact nanBits_of_fMinMax hw false a b h

theorem fMinMax_zeros {w : Nat} (hw : fWidth w) : ∀ a ∈ [0, 2 ^ (w - 1)], ∀ b ∈ [0, 2 ^ (w - 1)],
    fMinMax false w a b = max a b ∧ fMinMax true w a b = min a b := by
  rcases hw with rfl | rfl <;> decide

theorem fCompare_nan {w a b : Nat} (h : fIsNan w a = true ∨ fIsNan w b = true) : fEq w a b = false ∧ fLt w a b = false ∧ fLe w a b = false := by
  rcases h with h | h <;> simp [fEq, fLt, fLe, h]

theorem Tile.fGet_mod (T : Tile) (r : Nat) (dbl : Bool) :
    T.fGet r % 2 ^ (if dbl then 64 else 32) = (T.vGet r).toNat % 2 ^ (if dbl then 64 else 32) :=
  Nat.mod_mod_of_dvd _ (by cases dbl <;> decide)

theorem Tile.fPut_mod (T : Tile) (r x : Nat) (dbl : Bool) :
    T.fPut r (x % 2 ^ (if dbl then 64 else 32)) = T.vPut r (BitVec.ofNat 4096 (x % 2 ^ (if dbl then 64 else 32))) := by
  have hle : 2 ^ (if dbl then 64 else 32) ≤ 2 ^ 64 := by cases dbl <;> decide
  rw [Tile.fPut, Nat.mod_eq_of_lt (Nat.lt_of_lt_of_le (Nat.mod_lt _ (Nat.two_pow_pos _)) hle)]

theorem ofNat_b2n_eq (c : Bool) : BitVec.ofNat 64 (b2n c) = if c then 1 else 0 := by cases c <;> rfl

/-- Settles O5: results by operation; a NaN comes only from the canonical bits; compares and minima by the order of keys. -/
theorem scalarFloatResults : Obligations.ScalarFloatResults := by
  unfold Obligations.ScalarFloatResults
  refine ⟨fun s t hr dbl rd rs1 rs2 => ?_, fun w nan hwn => ?_⟩
  · dsimp only
    have hrun (op : SfpOp) (T' : Tile → Tile) (h : sfpTile (s.tile t) op dbl rd rs1 rs2 = T' (s.tile t)) :
        exec (.sfp t op dbl rd rs1 rs2) s = .next (retire s t T') :=
      (issue_runs hr _).trans (congrArg _ (State.updTile_congr (by simp only [h])))
    refine ⟨?_, ?_, ?_, ?_, ?_, ?_, ?_, ?_, ?_, ?_, ?_, ?_, ?_, ?_, ?_⟩ <;> refine hrun _ _ ?_ <;>
      simp only [sfpTile, Tile.fGet_mod, Tile.fPut_mod, ofNat_b2n_eq]
  · have hw : fWidth w := hwn.imp And.left And.left
    have hnan : nan = (fmtOf w).nanBits := by
      rcases hwn with ⟨rfl, rfl⟩ | ⟨rfl, rfl⟩ <;> decide
    refine ⟨fun a b c r hr h => hnan ▸ nanBits_of_result hw hr h, fun mx a b ha hb hna hnb => ?_, fun mx a b hna hnb => ?_, fMinMax_zeros hw,
      fun a b h => fCompare_nan h⟩
    · simp [fMinMax, hna, hnb, Nat.mod_eq_of_lt hb]
    · simp [fMinMax, hna, hnb, hnan]

end Sys2Proof.Machine

/-! PROOFS. Vector integer arithmetic, division, logic and bit counts (R112): each element as an integer modulo 2^w. -/

namespace Sys2Proof.Machine

-- ## Results modulo 2^w

/-- Two integers are equal modulo 2^w. -/
def SameMod (w : Nat) (x y : Int) : Prop := x % 2 ^ w = y % 2 ^ w

namespace SameMod
variable {w : Nat} {x y z x' y' : Int}

@[refl] theorem refl (x : Int) : SameMod w x x := Eq.refl _

theorem symm (h : SameMod w x y) : SameMod w y x := Eq.symm h

theorem trans (h : SameMod w x y) (k : SameMod w y z) : SameMod w x z := Eq.trans h k

theorem add (h : SameMod w x y) (k : SameMod w x' y') : SameMod w (x + x') (y + y') := by
  unfold SameMod at *
  rw [Int.add_emod, h, k, ← Int.add_emod]

theorem sub (h : SameMod w x y) (k : SameMod w x' y') : SameMod w (x - x') (y - y') := by
  unfold SameMod at *
  rw [Int.sub_emod, h, k, ← Int.sub_emod]

theorem mul (h : SameMod w x y) (k : SameMod w x' y') : SameMod w (x * x') (y * y') := by
  unfold SameMod at *
  rw [Int.mul_emod, h, k, ← Int.mul_emod]

end SameMod

theorem natCast_mod_two_pow (w n : Nat) : ((n % 2 ^ w : Nat) : Int) = n % 2 ^ w := by
  have hcast : ((2 ^ w : Nat) : Int) = 2 ^ w := Int.natCast_pow ..
  rw [Int.natCast_emod, hcast]

/-- An element agrees with an integer modulo 2^w. -/
theorem mod_eq_toNat {w e : Nat} {z : Int} (h : SameMod w e z) : e % 2 ^ w = (z % 2 ^ w).toNat := by
  rw [← show (e : Int) % 2 ^ w = z % 2 ^ w from h, ← natCast_mod_two_pow, Int.toNat_natCast]

theorem ival_sameMod (signed : Bool) (w n : Nat) : SameMod w (ival signed w n) n := by
  unfold SameMod
  rw [ival_emod]
  exact natCast_mod_two_pow w n

theorem natMod_sameMod (w n : Nat) : SameMod w ((n % 2 ^ w : Nat) : Int) n := by
  unfold SameMod
  rw [natCast_mod_two_pow, Int.emod_emod]

theorem ofInt_sameMod (w : Nat) (z : Int) : SameMod w (ofInt w z) z := by
  have hpos : (0 : Int) < 2 ^ w := Int.pow_pos (by decide)
  have hcast : ((2 ^ w : Nat) : Int) = 2 ^ w := Int.natCast_pow ..
  unfold SameMod ofInt
  rw [hcast, Int.toNat_of_nonneg (Int.emod_nonneg _ (by omega)), Int.emod_emod]

theorem natPred_cast (n : Nat) : ((2 ^ n - 1 : Nat) : Int) = 2 ^ n - 1 := by
  have hcast : ((2 ^ n : Nat) : Int) = 2 ^ n := Int.natCast_pow ..
  exact (Int.ofNat_sub (Nat.two_pow_pos n)).trans (congrArg (· - 1) hcast)

theorem saturate_sameMod (signed : Bool) (w : Nat) (z : Int) :
    SameMod w (saturate signed w z) (max (if signed then -2 ^ (w - 1) else 0) (min (if signed then 2 ^ (w - 1) - 1 else 2 ^ w - 1) z)) := by
  have hcast : ((2 ^ (w - 1) : Nat) : Int) = 2 ^ (w - 1) := Int.natCast_pow ..
  refine (ofInt_sameMod w _).trans ?_
  rw [natPred_cast, natPred_cast, hcast]

theorem minMax_sameMod (mx signed : Bool) (w a b : Nat) :
    SameMod w (minMax mx signed w a b) (if mx then max (ival signed w a) (ival signed w b) else min (ival signed w a) (ival signed w b)) := by
  rw [← ival_minMax]
  exact (ival_sameMod ..).symm

-- ## Integer arithmetic

theorem vintElem_sameMod (op : VIntOp) (signed : Bool) (w a b : Nat) : SameMod w (vintElem op signed w a b) (vintSpec op signed w a b) := by
  have ha := (ival_sameMod signed w a).symm
  have hb := (ival_sameMod signed w b).symm
  cases op
  case vadd => exact (natMod_sameMod ..).trans (by rw [Int.natCast_add]; exact ha.add hb)
  case vsub =>
    refine (natMod_sameMod ..).trans ?_
    have hle : b % 2 ^ w ≤ a + 2 ^ w := Nat.le_trans (Nat.le_of_lt (Nat.mod_lt _ (Nat.two_pow_pos w))) (Nat.le_add_left ..)
    have hself : SameMod w ((2 ^ w : Nat) : Int) 0 := by
      have hcast : ((2 ^ w : Nat) : Int) = 2 ^ w := Int.natCast_pow ..
      unfold SameMod
      rw [hcast, Int.emod_self, Int.zero_emod]
    have h := (ha.add hself).sub ((natMod_sameMod w b).trans hb)
    rw [Int.add_zero] at h
    rw [Int.ofNat_sub hle, Int.natCast_add]
    exact h
  case vmul => exact (natMod_sameMod ..).trans (by rw [Int.natCast_mul]; exact ha.mul hb)
  case vmulh => exact (ofInt_sameMod ..).trans (by push_cast; rfl)
  case vmin => exact minMax_sameMod false ..
  case vmax => exact minMax_sameMod true ..
  case vsadd => exact saturate_sameMod ..
  case vssub => exact saturate_sameMod ..
  case vabsd => exact ofInt_sameMod ..

-- ## Division

theorem ival_eq_zero_iff (signed : Bool) (w b : Nat) : ival signed w b = 0 ↔ b % 2 ^ w = 0 := by
  have hlt : b % 2 ^ w < 2 ^ w := Nat.mod_lt _ (Nat.two_pow_pos w)
  cases signed
  case false => simp only [ival, Bool.false_eq_true, if_false]; omega
  case true =>
    have hpos := Nat.two_pow_pos (w - 1)
    simp only [ival, toSigned, if_true]
    split <;> omega

theorem divide_sameMod (op : VDivOp) (signed : Bool) (w a b : Nat) :
    SameMod w (match op with | .vdiv => (divide signed w a b).1 | .vrem => (divide signed w a b).2 : Nat) (vdivSpec op signed w a b) := by
  unfold divide vdivSpec
  simp only [ival_eq_zero_iff]
  by_cases hb : b % 2 ^ w = 0
  · cases op
    · simp only [hb, if_true, natPred_cast]; rfl
    · simp only [hb, if_true]
      exact (natMod_sameMod w a).trans (ival_sameMod signed w a).symm
  · cases signed <;> cases op <;> simp only [hb, if_false, if_true, Bool.false_eq_true, ival]
    · exact congrArg (· % _) (Int.ofNat_tdiv ..)
    · exact congrArg (· % _) (Int.ofNat_tmod ..)
    · exact ofInt_sameMod ..
    · exact ofInt_sameMod ..

-- ## Logic and bit counts

theorem and_complement_eq_sub {w : Nat} (a b : BitVec w) : a &&& ~~~b = a - (a &&& b) := by
  have hdisj : (a &&& ~~~b) &&& (a &&& b) = 0#w := by
    ext i hi
    simp only [BitVec.getElem_and, BitVec.getElem_not, BitVec.getElem_zero]
    cases a[i] <;> cases b[i] <;> rfl
  have hor : (a &&& ~~~b) ||| (a &&& b) = a := by
    ext i hi
    simp only [BitVec.getElem_or, BitVec.getElem_and, BitVec.getElem_not]
    cases a[i] <;> cases b[i] <;> rfl
  rw [BitVec.eq_sub_iff_add_eq, BitVec.add_eq_or_of_and_eq_zero _ _ hdisj, hor]

theorem and_not_eq_sub {w a b : Nat} (ha : a < 2 ^ w) (hb : b < 2 ^ w) : a &&& (2 ^ w - 1 - b) = a - (a &&& b) := by
  have h := congrArg BitVec.toNat (and_complement_eq_sub (BitVec.ofNatLT a ha) (BitVec.ofNatLT b hb))
  rw [BitVec.toNat_sub_of_le (by simp [BitVec.le_def, Nat.and_le_left])] at h
  simpa using h

theorem vlogicElem_sameMod (op : VLogicOp) (signed : Bool) {w a b : Nat} (ha : a < 2 ^ w) (hb : b < 2 ^ w) :
    SameMod w (vlogicElem op signed w a b) (vlogicSpec op signed w a b) := by
  cases op
  case vandn =>
    simp only [vlogicElem, vlogicSpec, and_not_eq_sub ha hb]
    rw [Int.ofNat_sub Nat.and_le_left]
  case vsll => exact natMod_sameMod ..
  case vsr => exact (ofInt_sameMod ..).trans (by push_cast; rfl)
  case vnot =>
    simp only [vlogicElem, vlogicSpec]
    rw [Int.ofNat_sub (by omega), natPred_cast]
  all_goals rfl

theorem clz_eq {w a : Nat} (ha : a < 2 ^ w) : clz w a = w - bitLen a := by
  rw [clz, Nat.mod_eq_of_lt ha]
  split
  next h => rw [h, bitLen, if_pos rfl, Nat.sub_zero]
  next h => rw [bitLen, if_neg h, Nat.add_comm, Nat.sub_add_eq]

theorem vbitElem_eq (op : VBitOp) {w a : Nat} (ha : a < 2 ^ w) : vbitElem op w a = vbitSpec op w a := by
  cases op
  case vpopc => rfl
  case vclz => exact (clz_eq ha).trans (length_filter_lt_two_pow w a).symm
  case vctz =>
    refine (Eq.trans ?_ (length_filter_mod_two_pow w a).symm)
    simp only [vbitElem, ctz, findBelow, bitOf_eq_testBit]

-- ## The instructions

theorem Tile.elem_lt (T : Tile) (r i : Nat) : T.elem r i < 2 ^ T.ew := elemOf_lt ..

theorem Tile.src2_lt (T : Tile) (vs : Bool) (r i : Nat) : T.src2 vs r i < 2 ^ T.ew := by
  unfold Tile.src2
  split
  · exact Nat.mod_lt _ (Nat.two_pow_pos _)
  · exact T.elem_lt r i

/-- A legal elementwise instruction whose elements agree with integers gives each active element its integer modulo 2^w. -/
theorem vectorResult_int {s : State} {t : TileId} (h : TileRuns s t) {rd pred : Nat} (f : Tile → Nat → Nat) (g : Nat → Int)
    (hfg : ∀ j, SameMod (s.tile t).ew (f (s.tile t) j) (g j)) :
    VectorResult (vecOp s t (fun _ => true) fun T => mapActive T rd pred (f T)) s t rd fun j =>
      if isActive (s.tile t) pred j then some (g j % 2 ^ (s.tile t).ew).toNat else none := by
  have hres := vectorResult_mapActive h (legal := fun _ => true) rfl (rd := rd) (pred := pred) f
  simpa only [mod_eq_toNat (hfg _)] using hres

/-- Settles O11: each operation is elementwise, and its element agrees with the integer of Table 5 modulo 2^w. -/
theorem vectorIntegerResults : Obligations.VectorIntegerResults := by
  unfold Obligations.VectorIntegerResults
  intro s t h vs rd rs1 rs2 pred
  refine ⟨fun op => ?_, fun op => ?_, fun op => ?_, fun op => ?_⟩
  · exact vectorResult_int h (fun T j => vintElem op T.signed T.ew (T.elem rs1.toNat j) (T.src2 vs rs2.toNat j)) _ fun j => vintElem_sameMod ..
  · exact vectorResult_int h (fun T j => match op with
      | .vdiv => (divide T.signed T.ew (T.elem rs1.toNat j) (T.src2 vs rs2.toNat j)).1
      | .vrem => (divide T.signed T.ew (T.elem rs1.toNat j) (T.src2 vs rs2.toNat j)).2) _ fun j => divide_sameMod ..
  · exact vectorResult_int h (fun T j => vlogicElem op T.signed T.ew (T.elem rs1.toNat j) (T.src2 vs rs2.toNat j)) _ fun j =>
      vlogicElem_sameMod op _ (Tile.elem_lt ..) (Tile.src2_lt ..)
  · refine vectorResult_int h (fun T j => vbitElem op T.ew (T.elem rs1.toNat j)) _ fun j => ?_
    rw [vbitElem_eq op (Tile.elem_lt ..)]

end Sys2Proof.Machine

/-! PROOFS. Vector floating point: the elementwise operations of major 0x21 (Table 5). -/

namespace Sys2Proof.Machine

theorem Tile.ew_le (T : Tile) : T.ew ≤ 64 := by
  have h : 2 ^ (T.vtype.toNat % 4) ≤ 2 ^ 3 := Nat.pow_le_pow_right (by decide) (by omega)
  simp only [Tile.ew]
  omega

/-- A register number's low 64 bits hold every element width. -/
theorem Tile.fGet_mod_ew (T : Tile) (r : Nat) : T.fGet r % 2 ^ T.ew = (T.vGet r).toNat % 2 ^ T.ew :=
  Nat.mod_mod_of_dvd _ (Nat.pow_dvd_pow 2 T.ew_le)

theorem Tile.fsrc2_eq (T : Tile) (vs : Bool) (r j : Nat) : T.fsrc2 vs r j = if vs then (T.vGet r).toNat % 2 ^ T.ew else T.elem r j := by
  rw [Tile.fsrc2, Tile.fGet_mod_ew]

theorem fNeg_eq {w a : Nat} (hw : 0 < w) (ha : a < 2 ^ w) :
    fNeg w a = if a < 2 ^ (w - 1) then a + 2 ^ (w - 1) else a - 2 ^ (w - 1) := by
  obtain ⟨n, rfl⟩ := Nat.exists_eq_add_of_lt hw
  simp only [Nat.zero_add, Nat.add_sub_cancel, Nat.pow_succ] at ha ⊢
  simp only [fNeg, bitOf, Nat.add_sub_cancel, beq_iff_eq]
  by_cases hlt : a < 2 ^ n
  · simp [hlt, Nat.div_eq_of_lt hlt, Nat.mod_eq_of_lt hlt]
  · have hdiv : a / 2 ^ n = 1 := Nat.div_eq_of_lt_le (by omega) (by omega)
    rw [hdiv, if_pos rfl, if_neg hlt, Nat.mod_eq_sub_mod (by omega), Nat.mod_eq_of_lt (by omega)]

/-- Settles O12: each operation is elementwise, at a width that floating point accepts. -/
theorem vectorFloatResults : Obligations.VectorFloatResults := by
  unfold Obligations.VectorFloatResults
  intro s t h hw vs rd rs1 rs2 pred
  extract_lets T w a b writes
  have hop (op : VFpOp) (f : Nat → Nat) (hf : ∀ j, vfpElem op T.signed w (T.elem rd.toNat j) (a j) (b j) = f j) : writes op f := by
    obtain rfl : (fun j => vfpElem op T.signed w (T.elem rd.toNat j) (a j) (T.fsrc2 vs rs2.toNat j)) = f :=
      funext fun j => by rw [← hf j, Tile.fsrc2_eq]
    exact vectorResult_mapActive h (legal := fpWidth) (decide_eq_true hw) fun T j =>
      vfpElem op T.signed T.ew (T.elem rd.toNat j) (T.elem rs1.toNat j) (T.fsrc2 vs rs2.toNat j)
  refine ⟨hop _ _ fun j => rfl, hop _ _ fun j => rfl, hop _ _ fun j => rfl, hop _ _ fun j => rfl, hop _ _ fun j => rfl, hop _ _ fun j => rfl,
    hop _ _ fun j => rfl, hop _ _ fun j => rfl, hop _ _ fun j => rfl, hop _ _ fun j => ?_, hop _ _ fun j => rfl, hop _ _ fun j => ?_⟩
  · simp only [vfpElem, ofInt]
    push_cast
    rfl
  · exact fNeg_eq (T.ew_pos) (T.elem_lt ..)

end Sys2Proof.Machine

/-! PROOFS. Compares and predicate logic: the bits of a predicate register (R109, Table 5). -/

namespace Sys2Proof.Machine

-- ## The bits of an element

theorem testBit_elemOf {w : Nat} (n j : Nat) (hw : 0 < w) : (elemOf w n (j / w)).testBit (j % w) = n.testBit j := by
  rw [elemOf, Nat.testBit_mod_two_pow, Nat.testBit_div_two_pow, Nat.mod_add_div, decide_eq_true (Nat.mod_lt _ hw), Bool.true_and]

theorem testBit_setElem {w : Nat} (n i x j : Nat) (hw : 0 < w) :
    (setElem w n i x).testBit j = if j / w = i then x.testBit (j % w) else n.testBit j := by
  rw [← testBit_elemOf _ _ hw]
  split
  next h =>
    subst h
    rw [elemOf_setElem_same, Nat.testBit_mod_two_pow, decide_eq_true (Nat.mod_lt _ hw), Bool.true_and]
  next h => rw [elemOf_setElem_ne _ _ _ h, testBit_elemOf _ _ hw]

-- ## Predicate registers

/-- The byte lanes of an element. -/
theorem Tile.lanes_pos (T : Tile) : 0 < T.ew / 8 := by
  rw [Tile.ew, Nat.mul_div_cancel_left _ (by decide)]
  exact Nat.two_pow_pos _

theorem Tile.lanes_mul_vlmax (T : Tile) : T.ew / 8 * T.vlmax = 512 := by
  have h := T.ew_mul_vlmax
  rw [Tile.ew] at h ⊢
  rw [Nat.mul_div_cancel_left _ (by decide)]
  rw [Nat.mul_assoc] at h
  omega

@[simp] theorem Tile.pPut_ew (T : Tile) (r : Nat) (x : BitVec 512) : (T.pPut r x).ew = T.ew := by
  unfold Tile.pPut
  split <;> rfl

@[simp] theorem Tile.setP_ew (T : Tile) (r i : Nat) (b : Bool) : (T.setP r i b).ew = T.ew := Tile.pPut_ew ..

theorem Tile.pPut_rest (T : Tile) (r : Nat) (x : BitVec 512) : ∃ m, T.pPut r x = { T with pRegs := m } := by
  unfold Tile.pPut
  split
  · exact ⟨T.pRegs, rfl⟩
  · exact ⟨_, rfl⟩

/-- Writing an element of a predicate register writes its byte lanes, in p0 none (R109). -/
theorem Tile.pGet_setP (T : Tile) (r i k x : Nat) (b : Bool) (hx : x < 512) :
    ((T.setP r i b).pGet k).getLsbD x = if k = r ∧ k ≠ 0 ∧ x / (T.ew / 8) = i then b else (T.pGet k).getLsbD x := by
  unfold Tile.setP
  rw [Tile.pGet_pPut]
  by_cases hk : k = r ∧ r ≠ 0
  · obtain ⟨rfl, hr⟩ := hk
    have hlane : x % (T.ew / 8) < T.ew / 8 := Nat.mod_lt _ T.lanes_pos
    rw [if_pos ⟨rfl, hr⟩, BitVec.getLsbD_ofNat, testBit_setElem _ _ _ _ T.lanes_pos, decide_eq_true hx, Bool.true_and]
    cases b <;> simp [hr, Nat.testBit_two_pow_sub_one, hlane, BitVec.testBit_toNat]
  · rw [if_neg hk, if_neg]
    rintro ⟨rfl, h0, -⟩
    exact hk ⟨rfl, h0⟩

theorem foldl_setP_bit (r : Nat) (f : Nat → Bool) (l : List Nat) (T : Tile) (k x : Nat) (hx : x < 512) :
    ((l.foldl (fun T' i => T'.setP r i (f i)) T).pGet k).getLsbD x
      = if k = r ∧ k ≠ 0 ∧ x / (T.ew / 8) ∈ l then f (x / (T.ew / 8)) else (T.pGet k).getLsbD x := by
  induction l generalizing T with
  | nil => simp
  | cons i l ih =>
    rw [List.foldl_cons, ih, Tile.pGet_setP _ _ _ _ _ _ hx, Tile.setP_ew]
    by_cases hk : k = r ∧ k ≠ 0
    · obtain ⟨rfl, h0⟩ := hk
      by_cases hl : x / (T.ew / 8) ∈ l
      · simp [h0, hl]
      · by_cases hi : x / (T.ew / 8) = i
        · subst hi; simp [hl]
        · simp [hl, hi]
    · simp only [← and_assoc, hk, false_and, if_false]

theorem foldl_setP_rest (r : Nat) (f : Nat → Bool) (l : List Nat) (T : Tile) :
    ∃ m, l.foldl (fun T' i => T'.setP r i (f i)) T = { T with pRegs := m } := by
  induction l generalizing T with
  | nil => exact ⟨T.pRegs, rfl⟩
  | cons i l ih =>
    obtain ⟨m, hm⟩ := ih (T.setP r i (f i))
    obtain ⟨m', hm'⟩ : ∃ m', T.setP r i (f i) = { T with pRegs := m' } := Tile.pPut_rest ..
    exact ⟨m, by rw [List.foldl_cons, hm, hm']⟩

/-- Retiring an effect on predicate registers writes them, VSTART and the program counter, and nothing else. -/
theorem retireV_of_pRegs {s : State} {t : Nat} {f : Tile → Tile} {m : List (Nat × BitVec 512)} (h : f (s.tile t) = { s.tile t with pRegs := m }) :
    retireV s t f = s.updTile t fun T => { T with pRegs := m, vstart := 0, pc := T.pc + 4, unparked := false } := by
  rw [retireV_eq]
  refine State.updTile_congr ?_
  rw [h]

/-- An effect that writes a predicate register retires with that write as its result. -/
theorem predicateResult_retireV {o : Host.Outcome State Fault Refusal} {s : State} {t : TileId} {f : Tile → Tile} {pd : Nat}
    {val : Nat → Option Bool} (ho : o = .next (retireV s t f))
    (hrest : ∃ m, f (s.tile t) = { s.tile t with pRegs := m })
    (hbit : ∀ k x, x < 512 → ((f (s.tile t)).pGet k).getLsbD x
      = if k = pd ∧ k ≠ 0 then (val x).getD (((s.tile t).pGet k).getLsbD x) else ((s.tile t).pGet k).getLsbD x) :
    PredicateResult o s t pd val := by
  obtain ⟨m, hm⟩ := hrest
  refine ⟨_, m, ho, retireV_of_pRegs hm, fun k x hx => ?_⟩
  rw [← hbit k x hx, retireV_eq, State.updTile_tile]
  rfl

-- ## The instructions

theorem vcmpElem_eq (op : VCmpOp) (signed : Bool) (w a b : Nat) : vcmpElem op signed w a b = vcmpSpec op signed w a b := by
  cases op <;> simp [vcmpElem, vcmpSpec, bne, Bool.beq_eq_decide_eq]

theorem mem_float_iff (op : VCmpOp) : op ∈ [VCmpOp.feq, .flt, .fle, .funord] ↔ cmpFloat op = true := by
  cases op <;> decide

/-- The second operand of a compare. -/
def cmpSrc2 (T : Tile) (op : VCmpOp) (vs : Bool) (r j : Nat) : Nat := if cmpFloat op then T.fsrc2 vs r j else T.src2 vs r j

theorem cmpSrc2_eq (T : Tile) (op : VCmpOp) (vs : Bool) (r j : Nat) : cmpSrc2 T op vs r j =
    if vs then (if op ∈ [VCmpOp.feq, .flt, .fle, .funord] then (T.vGet r).toNat else (T.sGet r).toNat) % 2 ^ T.ew else T.elem r j := by
  simp only [cmpSrc2, mem_float_iff, Tile.fsrc2_eq, Tile.src2]
  cases cmpFloat op <;> rfl

/-- A compare writes the active elements of a predicate register. -/
def cmpEffect (op : VCmpOp) (vs : Bool) (pd rs1 rs2 pred : Nat) (T : Tile) : Tile :=
  (T.active pred).foldl (fun T' i => T'.setP pd i (vcmpElem op T.signed T.ew (T.elem rs1 i) (cmpSrc2 T op vs rs2 i))) T

theorem exec_vcmp {s : State} {t : TileId} (h : TileRuns s t) {op : VCmpOp} (hop : op ∈ [VCmpOp.feq, .flt, .fle, .funord] → 32 ≤ (s.tile t).ew)
    (vs : Bool) (pd : PReg) (rs1 rs2 : Reg) (pred : PReg) :
    exec (.vcmp t op vs pd rs1 rs2 pred) s = .next (retireV s t (fromStart (cmpEffect op vs pd.toNat rs1.toNat rs2.toNat pred.toNat))) := by
  refine vecOp_legal h (legal := fun T => !cmpFloat op || fpWidth T) ?_ (cmpEffect op vs pd.toNat rs1.toNat rs2.toNat pred.toNat)
  rw [mem_float_iff] at hop
  cases hf : cmpFloat op
  · rfl
  · simpa [fpWidth] using hop hf

/-- Settles O13: a compare writes the lanes of its active elements, predicate logic a whole register. -/
theorem predicateResults : Obligations.PredicateResults := by
  unfold Obligations.PredicateResults
  intro s t h vs rs1 rs2 pd pred ps1 ps2
  refine ⟨fun op hop => ?_, fun op => ?_⟩
  · have hstart : fromStart (cmpEffect op vs pd.toNat rs1.toNat rs2.toNat pred.toNat) (s.tile t) = _ :=
      fromStart_of_skip fun hskip => by rw [cmpEffect, Tile.active_eq_nil hskip, List.foldl_nil]
    refine predicateResult_retireV (exec_vcmp h hop vs pd rs1 rs2 pred) ?_ fun k x hx => ?_
    · rw [hstart]
      exact foldl_setP_rest ..
    · rw [hstart, cmpEffect, foldl_setP_bit _ _ _ _ _ _ hx]
      by_cases hk : k = pd.toNat ∧ k ≠ 0
      · obtain ⟨rfl, h0⟩ := hk
        by_cases ha : x / ((s.tile t).ew / 8) ∈ (s.tile t).active pred.toNat
        · rw [if_pos ⟨rfl, h0, ha⟩, if_pos ⟨rfl, h0⟩, if_pos (isActive_iff_mem.2 ha), vcmpElem_eq, cmpSrc2_eq]
          rfl
        · rw [if_neg fun h => ha h.2.2, if_pos ⟨rfl, h0⟩, if_neg fun h => ha (isActive_iff_mem.1 h)]
          rfl
      · rw [if_neg hk, if_neg]
        rintro ⟨rfl, h0, -⟩
        exact hk ⟨rfl, h0⟩
  · refine predicateResult_retireV (issue_runs h _) (Tile.pPut_rest ..) fun k x hx => ?_
    rw [Tile.pGet_pPut]
    by_cases hk : k = pd.toNat ∧ pd.toNat ≠ 0
    · obtain ⟨rfl, h0⟩ := hk
      cases op <;> simp [h0, plogic, hx]
    · rw [if_neg hk, if_neg]
      rintro ⟨rfl, h0⟩
      exact hk ⟨rfl, h0⟩

end Sys2Proof.Machine

/-! PROOFS. Selects, moves and permutes: the elements of v[rd] that an instruction writes one after another (Table 5). -/

namespace Sys2Proof.Machine

-- ## Moves

theorem Tile.mem_span {T : Tile} {i : Nat} : i ∈ T.span ↔ i < T.vl ∧ T.vstart.toNat ≤ i := by
  simp [Tile.span]

theorem Tile.span_eq_nil {T : Tile} (h : T.vl ≤ T.vstart.toNat) : T.span = [] :=
  List.eq_nil_iff_forall_not_mem.2 fun i hi => by
    obtain ⟨hvl, hvs⟩ := Tile.mem_span.1 hi
    omega

/-- A legal instruction that writes elements of v[rd] one after another, the places of a list, has them as its result. -/
theorem vectorResult_foldl {s : State} {t : TileId} (h : TileRuns s t) {legal : Tile → Bool} (hl : legal (s.tile t) = true) {f : Tile → Tile}
    {rd : Nat} {val : Nat → Option Nat} (l : List Nat) (g : Nat → Nat) (hf : f (s.tile t) = l.foldl (fun T' i => T'.setV rd i (g i)) (s.tile t))
    (hskip : (s.tile t).vl ≤ (s.tile t).vstart.toNat → l = [])
    (hval : ∀ j, j < (s.tile t).vlmax → val j = if j ∈ l then some (g j % 2 ^ (s.tile t).ew) else none) :
    VectorResult (vecOp s t legal f) s t rd val := by
  refine vectorResult_vecOp h hl (fun hs => ?_) ?_ fun k j hj => ?_
  · rw [hf, hskip hs, List.foldl_nil]
  · rw [hf]
    exact foldl_setV_rest ..
  · rw [hf, foldl_setV_elem _ _ _ _ _ _ hj, hval j hj]
    by_cases hk : k = rd <;> by_cases hm : j ∈ l <;> simp [hk, hm]

/-- A legal elementwise instruction gives each active element its result. -/
theorem vectorResult_elementwise {s : State} {t : TileId} (h : TileRuns s t) {legal : Tile → Bool} (hl : legal (s.tile t) = true) {rd pred : Nat}
    (f : Tile → Nat → Nat) (g : Nat → Nat) (hfg : ∀ j, f (s.tile t) j % 2 ^ (s.tile t).ew = g j) :
    VectorResult (vecOp s t legal fun T => mapActive T rd pred (f T)) s t rd fun j => if isActive (s.tile t) pred j then some (g j) else none := by
  simpa only [hfg] using vectorResult_mapActive h hl (rd := rd) (pred := pred) f

/-- Settles O14: selects and moves write elements of v[rd], each from the registers as they stood. -/
theorem vectorMoves : Obligations.VectorMoves := by
  unfold Obligations.VectorMoves
  intro s t h rd rs1 rs2 pred
  refine ⟨?_, ?_, ?_, ?_, ?_⟩
  · refine vectorResult_foldl h (legal := fun _ => true) rfl (s.tile t).span
      (fun i => if (s.tile t).sel pred.toNat i then (s.tile t).elem rs1.toNat i else (s.tile t).elem rs2.toNat i) rfl Tile.span_eq_nil fun j _ => ?_
    simp only [Tile.mem_span, apply_ite (· % 2 ^ (s.tile t).ew), Tile.elem_mod]
  · exact vectorResult_elementwise h (legal := fun _ => true) rfl (fun T i => T.elem rs1.toNat i) _ fun j => Tile.elem_mod ..
  · exact vectorResult_mapActive h (legal := fun _ => true) rfl fun T _ => (T.sGet rs1.toNat).toNat
  · exact vectorResult_mapActive h (legal := fun _ => true) rfl fun _ i => i
  · refine vectorResult_foldl h (legal := fun _ => true) rfl
      (if ((s.tile t).sGet rs2.toNat).toNat ∈ (s.tile t).span then [((s.tile t).sGet rs2.toNat).toNat] else [])
      (fun _ => ((s.tile t).sGet rs1.toNat).toNat) ?_ (fun hs => ?_) fun j _ => ?_
    · simp only [Tile.mem_span, Bool.and_eq_true, decide_eq_true_eq]
      split <;> rfl
    · rw [Tile.span_eq_nil hs]
      rfl
    · by_cases hj : j = ((s.tile t).sGet rs2.toNat).toNat
      · subst hj
        by_cases hm : ((s.tile t).sGet rs2.toNat).toNat ∈ (s.tile t).span <;> simp only [hm, if_true, if_false, true_and, List.mem_singleton, List.not_mem_nil, ← Tile.mem_span]
      · rw [if_neg fun h => hj h.1]
        split <;> simp [hj]

-- ## Permutes

/-- The members of a list by their places. -/
theorem numbered_eq_map (l : List Nat) : numbered l = (List.range l.length).map fun n => (n, (l[n]?).getD 0) := by
  refine List.ext_getElem (by simp [numbered]) fun n h1 h2 => ?_
  simp only [numbered, List.length_zip, List.length_range, Nat.min_self] at h1
  simp [numbered, h1]

theorem numbered_concat (l : List Nat) (x : Nat) : numbered (l ++ [x]) = numbered l ++ [(l.length, x)] := by
  rw [numbered, List.length_append, List.length_singleton, List.range_succ, List.zip_append (by simp)]
  rfl

/-- The place of a member that a filter keeps is how many it keeps below it. -/
theorem numbered_filter_range (p : Nat → Bool) (n : Nat) :
    numbered ((List.range n).filter p) = ((List.range n).filter p).map fun i => (((List.range i).filter p).length, i) := by
  induction n with
  | zero => rfl
  | succ n ih =>
    rw [List.range_succ, List.filter_append]
    cases hp : p n
    · simpa [hp] using ih
    · simp only [List.filter_cons, hp, if_true, List.filter_nil, numbered_concat, ih, List.map_append, List.map_cons, List.map_nil]

/-- Settles O15: each permute writes elements of v[rd], at places and from places that the instruction gives. -/
theorem vectorPermutes : Obligations.VectorPermutes := by
  unfold Obligations.VectorPermutes
  intro s t h h0 rd rs1 rs2 pred
  have hl : startZero (s.tile t) = true := by simp [startZero, h0]
  refine ⟨?_, ?_, ?_, ?_, ?_, ?_⟩
  · refine vectorResult_elementwise h hl (fun T i => if T.elem rs2.toNat i < T.vl then T.elem rs1.toNat (T.elem rs2.toNat i) else 0) _ fun j => ?_
    simp only [apply_ite (· % 2 ^ (s.tile t).ew), Tile.elem_mod, Nat.zero_mod]
  · refine vectorResult_vecOp h hl (fun hs => ?_) (mapActive_rest ..) fun k j hj => ?_
    · simp only [mapActive, Tile.active_eq_nil hs, List.foldl_nil]
    · rw [mapActive_elem _ _ _ _ _ _ hj, apply_ite (· % 2 ^ (s.tile t).ew), Tile.elem_mod, Tile.elem_mod]
      by_cases hk : k = rd.toNat
      · subst hk
        by_cases hm : j ∈ (s.tile t).active pred.toNat <;> by_cases hi : ((s.tile t).sGet rs2.toNat).toNat ≤ j <;> simp [hm, hi, isActive_iff_mem]
      · simp [hk]
  · refine vectorResult_elementwise h hl (fun T i =>
      if i + (T.sGet rs2.toNat).toNat < T.vl then T.elem rs1.toNat (i + (T.sGet rs2.toNat).toNat) else 0) _ fun j => ?_
    simp only [apply_ite (· % 2 ^ (s.tile t).ew), Tile.elem_mod, Nat.zero_mod]
  · exact vectorResult_elementwise h hl (fun T i => T.elem rs1.toNat (T.vl - 1 - i)) _ fun j => Tile.elem_mod ..
  · refine vectorResult_foldl h hl (List.range ((s.tile t).active pred.toNat).length)
      (fun n => (s.tile t).elem rs1.toNat ((((s.tile t).active pred.toNat)[n]?).getD 0)) ?_ (fun hs => ?_) fun j _ => ?_
    · simp only [numbered_eq_map, List.foldl_map]
    · rw [Tile.active_eq_nil hs]
      rfl
    · simp only [List.mem_range, ← active_eq_filter, Tile.elem_mod]
      split
      next hj => simp [hj]
      next hj => simp [hj]
  · refine vectorResult_foldl h hl ((s.tile t).active pred.toNat)
      (fun i => (s.tile t).elem rs1.toNat (((List.range i).filter (isActive (s.tile t) pred.toNat)).length)) ?_ Tile.active_eq_nil fun j _ => ?_
    · simp only [active_eq_filter, numbered_filter_range, List.foldl_map]
    · simp only [isActive_iff_mem, Tile.elem_mod]

end Sys2Proof.Machine

/-! PROOFS. Reductions and other instructions that write s[rd] or f[rd] from a vector or a predicate (R119, Table 5). -/

namespace Sys2Proof.Machine

-- ## Reductions to s[rd]

theorem ext_eq (signed : Bool) (w n : Nat) : ext signed w n = BitVec.ofInt 64 (ival signed w n) := by
  cases signed
  · rw [ext, ival, if_neg (by decide), if_neg (by decide), BitVec.ofInt_natCast]
  · rfl

theorem ival_congr (signed : Bool) {w a b : Nat} (h : a % 2 ^ w = b % 2 ^ w) : ival signed w a = ival signed w b := by
  rw [← ival_mod, h, ival_mod]

/-- A reduction in elements has the value of the reduction in integers (R119). -/
theorem ival_vredCombine_foldl (op : VRedOp) (signed : Bool) (w : Nat) (l : List Nat) (c : Nat) :
    ival signed w (l.foldl (vredCombine op signed w) c) = vredSpec op signed w c l := by
  cases op
  case sum => exact ival_congr signed (foldl_add_mod w l rfl)
  case min => exact ival_foldl_minMax false signed w l c
  case max => exact ival_foldl_minMax true signed w l c
  all_goals rfl

/-- With VSTART 0 and VL above 0 an instruction marked W retires with its effect. -/
theorem vecOp_startZero {s : State} {t : TileId} (h : TileRuns s t) (h0 : (s.tile t).vstart = 0) (hvl : 0 < (s.tile t).vl) {legal : Tile → Bool}
    (hl : legal (s.tile t) = true) {f g : Tile → Tile} (hfg : f (s.tile t) = g (s.tile t)) : vecOp s t legal f = .next (retireV s t g) := by
  rw [vecOp_legal h hl, retireV_eq, retireV_eq]
  have hstart : fromStart f (s.tile t) = g (s.tile t) := by
    have hzero : (s.tile t).vstart.toNat = 0 := by rw [h0]; rfl
    rw [fromStart, if_neg (by omega), hfg]
  exact congrArg _ (State.updTile_congr (by rw [hstart]))

/-- With VL 0 nothing is written (R110). -/
theorem vecOp_empty {s : State} {t : TileId} (h : TileRuns s t) (hvl : (s.tile t).vl = 0) {legal : Tile → Bool} (hl : legal (s.tile t) = true)
    (f : Tile → Tile) : vecOp s t legal f = .next (retireV s t id) := by
  rw [vecOp_legal h hl, retireV_eq, retireV_eq]
  have hstart : fromStart f (s.tile t) = s.tile t := by
    rw [fromStart, if_pos (by simp [hvl])]
  exact congrArg _ (State.updTile_congr (by rw [hstart]; rfl))

/-- Settles O16: each value is that of the model's effect on s[rd]; with VL 0 there is no effect. -/
theorem vectorToScalar : Obligations.VectorToScalar := by
  unfold Obligations.VectorToScalar
  intro s t h h0 rd rs1 rs2 pred
  have hl : startZero (s.tile t) = true := by simp [startZero, h0]
  refine ⟨fun hvl => ⟨?_, ?_, ?_, fun op => ?_, ?_⟩, fun hvl op c hc => ?_⟩
  · refine vecOp_startZero h h0 hvl hl ?_
    simp only [ext_eq]
    by_cases hx : ((s.tile t).sGet rs2.toNat).toNat < (s.tile t).vlmax
    · rw [if_neg (Nat.not_le.2 hx), if_pos hx]
    · rw [if_pos (Nat.le_of_not_lt hx), if_neg hx]
  · exact vecOp_startZero h h0 hvl hl rfl
  · refine vecOp_startZero h h0 hvl hl ?_
    simp only [findBelow, List.head?_filter]
  · refine vecOp_startZero h h0 hvl hl ?_
    simp only [ext_eq, ← ival_vredCombine_foldl, List.foldl_map, active_eq_filter]
  · refine vecOp_startZero h h0 hvl hl ?_
    simp only [active_eq_filter]
  · simp only [List.mem_cons, List.not_mem_nil, or_false] at hc
    rcases hc with rfl | rfl | rfl | rfl | rfl <;> exact vecOp_empty h hvl hl _

theorem fResult_eq {w : Nat} (hw : fWidth w) (r : Nat) :
    fResult w r = if fIsNan w r then (if w = 32 then 0x7FC00000 else 0x7FF8000000000000) else r := by
  rcases hw with rfl | rfl <;> rfl

theorem Tile.fWidth_ew {T : Tile} (h : 32 ≤ T.ew) : fWidth T.ew := by
  have hlt : T.vtype.toNat % 4 < 4 := Nat.mod_lt _ (by decide)
  rw [Tile.ew] at h ⊢
  generalize T.vtype.toNat % 4 = n at h hlt
  rcases (by omega : n = 0 ∨ n = 1 ∨ n = 2 ∨ n = 3) with rfl | rfl | rfl | rfl
  · exact absurd h (by decide)
  · exact absurd h (by decide)
  · exact .inl rfl
  · exact .inr rfl

/-- Settles O17: minimum and maximum in ascending order, made canonical at the end; the sum by its tree. -/
theorem floatReductions : Obligations.FloatReductions := by
  unfold Obligations.FloatReductions
  intro s t h h0 hvl hw rd rs1 rs2 pred
  have hl : (startZero (s.tile t) && fpWidth (s.tile t)) = true := by simp [startZero, fpWidth, h0, hw]
  have hfw : fWidth (s.tile t).ew := Tile.fWidth_ew hw
  have hstart {f g : Tile → Tile} := vecOp_startZero h h0 hvl (legal := fun T => startZero T && fpWidth T) hl (f := f) (g := g)
  refine ⟨hstart ?_, hstart ?_, hstart ?_⟩
  · simp only [Tile.fPut, ← fResult_eq hfw, Tile.fGet_mod_ew, active_eq_filter]
  · simp only [Tile.fPut, ← fResult_eq hfw, Tile.fGet_mod_ew, active_eq_filter]
  · simp only [Tile.fPut, Tile.fGet_mod_ew, List.contains_iff_mem, isActive_iff_mem]

end Sys2Proof.Machine

/-! PROOFS. Exceptions 4 to 7 (chapter 04): a handler is entered, or the tile stops. -/

namespace Sys2Proof.Machine

-- ## Exceptions

@[simp] theorem State.updTile_updTile (s : State) (t : Nat) (f g : Tile → Tile) :
    (s.updTile t f).updTile t g = s.updTile t fun T => g (f T) := by
  simp [State.updTile]

theorem handlerOf_updTile (s : State) (k : Nat) (f : Tile → Tile) (t i : Nat) : handlerOf (s.updTile k f) t i = handlerOf s t i := rfl

theorem raiseTile_tile (s : State) (t e u : Nat) : (raiseTile s t e).tile u = s.tile u := by
  rw [State.tile, raiseTile_tiles]
  rfl

/-- What a stopped tile holds (chapter 04, Exceptions). -/
theorem stopTile_tile (s : State) (t : Nat) (r : StopRec) (idx : Nat) (nested : Bool) : ∃ cause : Word,
    (stopTile s t r idx nested).tile t = { s.tile t with
      run := .stopped, stop := some r, excCause := cause, excPc := (s.tile t).epc, excVa := (s.tile t).tfaultVa,
      excFrame := s.frm.count, unparked := false } :=
  ⟨_, (raiseTile_tile ..).trans (State.updTile_tile ..)⟩

theorem stopFree_tile (s : State) (t : Nat) (r : StopRec) : ∃ cause va : Word,
    (stopFree s t r).tile t = { s.tile t with
      run := .stopped, stop := some r, excCause := cause, excPc := (s.tile t).pc, excVa := va, excFrame := s.frm.count, unparked := false } := by
  obtain ⟨cause, h⟩ := stopTile_tile { s with freeCtr := s.freeCtr + 2 } t r ((Config.freeWord s.freeCtr).toNat % 8) (s.tile t).inHandler
  refine ⟨cause, Config.freeWord (s.freeCtr + 1), ?_⟩
  unfold stopFree
  dsimp only
  rw [State.updTile_tile, h]
  rfl

/-- The tile as an exception leaves it, before it goes on at a handler or stops. -/
def Tile.taken (T : Tile) (e : Exc) (vst : Option Nat) : Tile := { T with
  vstart := match vst with | some i => BitVec.ofNat 64 i | none => T.vstart
  tfaultVa := BitVec.ofNat 64 e.va, epc := T.pc, ecause := BitVec.ofNat 3 e.idx, inHandler := true }

/-- The record of a tile that an exception stops. -/
def excRec (s : State) (t : Nat) (e : Exc) : StopRec :=
  { status := excStatus e.idx, source := 2, reason := e.idx, sub := ((roleOf s t).map (·.stage.stage)).getD 0, address := e.va }

/-- An exception that is none of the MMU's: its handler is entered, outside a handler and where there is one; otherwise the tile stops. -/
theorem takeExc_eq {s : State} {t : Nat} {e : Exc} (he : 3 < e.idx) (vst : Option Nat) :
    takeExc s t e vst = match handlerOf s t e.idx, (s.tile t).inHandler with
      | some h, false => s.updTile t fun T => { T.taken e vst with pc := BitVec.ofNat 64 h }
      | _, nested => stopTile (s.updTile t fun T => T.taken e vst) t (excRec s t e) e.idx nested := by
  unfold takeExc
  simp only [show e.idx ≠ 0 by omega, Nat.not_le.2 he, decide_false, Bool.false_and, Bool.false_eq_true, if_false, State.updTile_updTile,
    State.updTile_tile, handlerOf_updTile]
  cases handlerOf s t e.idx <;> cases (s.tile t).inHandler <;> rfl

theorem takeExc_handled {s : State} {t h : Nat} {e : Exc} (he : 3 < e.idx) (vst : Option Nat) (hh : handlerOf s t e.idx = some h)
    (hin : (s.tile t).inHandler = false) : takeExc s t e vst = s.updTile t fun T => { T.taken e vst with pc := BitVec.ofNat 64 h } := by
  rw [takeExc_eq he, hh, hin]

theorem takeExc_stops {s : State} {t : Nat} {e : Exc} (he : 3 < e.idx) (vst : Option Nat)
    (hh : handlerOf s t e.idx = none ∨ (s.tile t).inHandler = true) :
    takeExc s t e vst = stopTile (s.updTile t fun T => T.taken e vst) t (excRec s t e) e.idx (s.tile t).inHandler := by
  rw [takeExc_eq he]
  rcases hh with hh | hh
  · rw [hh]
  · rw [hh]
    cases handlerOf s t e.idx <;> rfl

/-- Settles O10: exception 5, taken at a handler or by a stop, and ERET by the two cases of TIL_ECAUSE. -/
theorem illegalAndEret : Obligations.IllegalAndEret := by
  unfold Obligations.IllegalAndEret
  intro s t hr
  have h5 : 3 < illegal.idx := by decide
  refine ⟨fun h hh hin => ?_, fun hh => ?_, fun hin => ?_, fun hin => ?_⟩
  · exact (issue_runs hr _).trans (congrArg _ (takeExc_handled h5 none hh hin))
  · obtain ⟨cause, hs⟩ := stopTile_tile (s.updTile t fun T => T.taken illegal none) t (excRec s t illegal) illegal.idx (s.tile t).inHandler
    refine ⟨_, (issue_runs hr _).trans (congrArg _ (takeExc_stops h5 none hh)), ?_⟩
    rw [hs, State.updTile_tile]
    exact ⟨rfl, rfl, rfl, rfl, rfl, rfl, rfl, rfl, rfl, rfl⟩
  · exact (issue_runs hr _).trans (by rw [if_pos hin])
  · exact (issue_runs hr _).trans ((by rw [if_neg (by rw [hin]; decide)] : Host.Outcome.next _ = _).trans (issue_runs hr _).symm)

end Sys2Proof.Machine

/-! PROOFS. Control registers read by CSRR (chapter 04, Table 4). -/

namespace Sys2Proof.Machine

/-- CSRR of a listed number writes s[rd] with what it reads. -/
theorem exec_csrr_listed {s : State} {t : TileId} (h : TileRuns s t) (rd : Reg) {csr : BitVec 12} (hl : csrListed csr.toNat = true) {x : Word}
    (hx : BitVec.ofNat 64 (csrRead s t csr.toNat) = x) : exec (.csrr t rd csr) s = .next (retire s t fun T => T.sPut rd.toNat x) := by
  subst hx
  exact (issue_runs h _).trans (by rw [if_pos hl]; rfl)

theorem ofNat_toNat_word (x : Word) : BitVec.ofNat 64 x.toNat = x := by simp

theorem b2n_mul (b : Bool) : 256 * b2n b = if b then 256 else 0 := by cases b <;> rfl

/-- Settles O26: each listed number by its case of the read. -/
theorem controlRegisterReads : Obligations.ControlRegisterReads := by
  unfold Obligations.ControlRegisterReads
  intro s t h rd
  extract_lets T reads
  have hread (csr : BitVec 12) (hl : csrListed csr.toNat = true) {x : Word} (hx : BitVec.ofNat 64 (csrRead s t csr.toNat) = x) : reads csr x :=
    exec_csrr_listed h rd hl hx
  refine ⟨hread _ rfl rfl, hread _ rfl rfl, hread _ rfl (ofNat_toNat_word _), hread _ rfl (ofNat_toNat_word _), hread _ rfl rfl,
    hread _ rfl (ofNat_toNat_word _), hread _ rfl ?_, hread _ rfl rfl, hread _ rfl (ofNat_toNat_word _), hread _ rfl rfl, hread _ rfl rfl,
    hread _ rfl rfl, hread _ rfl (ofNat_toNat_word _), hread _ rfl (ofNat_toNat_word _), hread _ rfl ?_, fun r hr => ?_, fun p hp => ?_,
    fun csr hl => ?_⟩
  · exact congrArg _ (congrArg _ (b2n_mul _))
  · exact congrArg _ (congrArg _ (b2n_mul _))
  · have hcount (hsrc : r.stage.source = false) : ibxCount s t = T.dirA.length := by simp only [ibxCount, hr, hsrc]; rfl
    refine ⟨hread _ rfl ?_, hread _ rfl ?_, hread _ rfl ?_, fun hsrc => ⟨hread _ rfl ?_, hread _ rfl ?_⟩⟩
    · exact congrArg _ (by simp only [csrRead, hr]; rfl)
    · exact congrArg _ (by simp only [csrRead, hr]; rfl)
    · exact congrArg _ (by simp only [csrRead, hr]; rfl)
    · exact congrArg _ (hcount hsrc)
    · refine congrArg _ (?_ : (if ibxCount s t ≤ T.ibxSel.toNat then 0xFFFFFFFF else _) = _)
      rw [hcount hsrc]
      split
      next hle => rw [List.getElem?_eq_none hle]; rfl
      next => rfl
  · exact hread _ rfl (congrArg _ (by simp only [csrRead, frameCycle, hp]; rfl))
  · exact (issue_runs h _).trans ((by rw [if_neg (by rw [hl]; decide)] : Host.Outcome.next _ = _).trans (issue_runs h _).symm)

end Sys2Proof.Machine

/-! PROOFS. Control registers written by CSRW and VSETVL, and ESTOP (chapter 04, Table 4). -/

namespace Sys2Proof.Machine

/-- CSRW of a number that is read-only or not listed is illegal. -/
theorem csrWrite_unlisted {s : State} {t n : Nat} (x : Word) (h : n ∉ [0x000, 0x001, 0x002, 0x004, 0x006, 0x023, 0x030, 0x031, 0x032]) :
    csrWrite s t n x = takeIllegal s t := by
  unfold csrWrite
  split
  iterate 9 exact absurd (by decide) h
  rfl

theorem toNat_notMem {n : BitVec 12} {l : List (BitVec 12)} (h : n ∉ l) : n.toNat ∉ l.map BitVec.toNat := by
  rw [List.mem_map]
  rintro ⟨m, hm, he⟩
  exact h (BitVec.eq_of_toNat_eq he ▸ hm)

/-- Settles O27: each write by its case, and ESTOP by the stop that it makes. -/
theorem controlRegisterWrites : Obligations.ControlRegisterWrites := by
  unfold Obligations.ControlRegisterWrites
  intro s t h rd rs1 vt
  extract_lets T x writes
  have hexec (csr : BitVec 12) {u : State} (hu : csrWrite s t csr.toNat x = u) : exec (.csrw t csr rs1) s = .next u := hu ▸ issue_runs h _
  have hill : exec (.illegalInstruction t) s = .next (takeIllegal s t) := issue_runs h _
  refine ⟨hexec _ rfl, fun hx => hexec _ (if_pos hx), hexec _ rfl, hexec _ rfl, hexec _ ?_, hexec _ rfl, hexec _ rfl, fun csr hcsr => ?_, fun hx => ?_,
    issue_runs h _, ?_, ?_, ?_⟩
  · rfl
  · rw [hill]
    exact hexec _ (csrWrite_unlisted x (toNat_notMem hcsr))
  · rw [hill]
    exact hexec _ (if_neg (Nat.not_lt.2 hx))
  · obtain ⟨cause, va, hs⟩ := stopFree_tile s t
      { status := 0xC0 + x.toNat % 64, source := 2, reason := 0, sub := ((roleOf s t).map (·.stage.stage)).getD 0, address := 0 }
    refine ⟨_, issue_runs h _, ?_⟩

    rw [show (csrWrite s t 6 (sReg s t rs1)).tile t = _ from hs]
    exact ⟨rfl, rfl, rfl, rfl, rfl⟩
  · have hestop : exec (.estop t rs1) s = .next (csrWrite s t 0x006 x) := issue_runs h _
    rw [hestop]
    exact hexec _ rfl
  · have hsend : exec (.obxLenWrite t rs1) s = .next (csrWrite s t 0x032 x) := issue_runs h _
    rw [hsend]
    exact hexec _ rfl

end Sys2Proof.Machine
/-! PROOFS. FDONE and FENCE (chapters 02 and 05). -/

namespace Sys2Proof.Machine

theorem redsDone_iff {s : State} {t : TileId} : redsDone s t = true ↔ ∀ r ∈ s.reds, r.tile ≠ t.val := by
  simp [redsDone]

theorem fdoneReady_iff {s : State} {t : TileId} : fdoneReady s t = true ↔
    (s.tile t).sendQ = [] ∧ (∀ r ∈ s.reds, r.tile ≠ t.val) ∧ (s.tile t).decQ = [] ∧ (s.tile t).decRun = none := by
  simp [fdoneReady, redsDone_iff, and_assoc]

theorem roleOf_retire (s : State) (t u : Nat) (f : Tile → Tile) : roleOf (retire s t f) u = roleOf s u := rfl

/-- FDONE that retires, before what the dispatcher does for a pooled stage. -/
def fdoneRetired (s : State) (t : Nat) (eos : Bool) : State := retire s t fun T => { T with
  run := .fdone, fdoneLate := tileGuard s t, eos := T.eos || eos,
  perfFdone := if T.ctl.getLsbD 2 then T.perfFdone else BitVec.ofNat 64 s.frm.cycle }

theorem fdone_ready {s : State} {t : TileId} (hh : (s.tile t).held = none) (hr : fdoneReady s t = true) (eos : Bool) :
    fdone s t eos = match roleOf s t with
      | some r => if r.stage.pooled then assign (returnQueue (fdoneRetired s t eos) r.p t) r.p else fdoneRetired s t eos
      | none => fdoneRetired s t eos := by
  unfold fdone
  simp only [hh, hr, Option.isSome_none, Bool.false_eq_true, if_false, Bool.not_true, roleOf_retire]
  rfl

/-- Settles O29: FDONE by what it waits for, FENCE by the tile's reductions. -/
theorem frameDone : Obligations.FrameDone := by
  unfold Obligations.FrameDone
  intro s t h
  extract_lets T done ready
  have hrun (eos : Bool) {u : State} (hu : fdone s t eos = u) : issue s t (fun s => fdone s t eos) = .next u := hu ▸ issue_runs h _
  have hill : exec (.illegalInstruction t) s = .next (takeIllegal s t) := issue_runs h _
  refine ⟨fun hh hready hr => ?_, fun r hh hready hr hp => ?_, fun hh hready => ?_, fun hh => ?_, fun hd => ?_, fun hd => ?_⟩
  · have hone (eos : Bool) : fdone s t eos = done eos := by
      rw [fdone_ready hh (fdoneReady_iff.2 hready)]
      cases hrole : roleOf s t with
      | none => rfl
      | some r => simp only [hr r hrole]; rfl
    exact ⟨hrun _ (hone _), hrun _ (hone _)⟩
  · have hone (eos : Bool) : fdone s t eos = assign (returnQueue (done eos) r.p t) r.p := by
      rw [fdone_ready hh (fdoneReady_iff.2 hready), hr]
      simp only [hp]
      rfl
    exact ⟨hrun _ (hone _), hrun _ (hone _)⟩
  · have hone (eos : Bool) : fdone s t eos = s := by
      have hf : fdoneReady s t = false := eq_false_of_ne_true fun hf => hready (fdoneReady_iff.1 hf)
      have hheld : (s.tile t).held.isSome = false := by rw [hh]; rfl
      rw [fdone, hheld, hf]
      rfl
    exact ⟨hrun _ (hone _), hrun _ (hone _)⟩
  · have hone (eos : Bool) : fdone s t eos = takeIllegal s t := if_pos hh
    rw [hill]
    exact ⟨hrun _ (hone _), hrun _ (hone _)⟩
  · exact (issue_runs h _).trans (by rw [if_pos (redsDone_iff.2 hd)])
  · obtain ⟨r, hmem, htile⟩ := hd
    exact (issue_runs h _).trans (by rw [if_neg fun hr => redsDone_iff.1 hr r hmem htile])

end Sys2Proof.Machine

/-! PROOFS. Memory as the fabric reaches it: the bytes of a number, a store, a read and a write of the cellar or of a tile store. -/

namespace Sys2Proof.Machine

-- ## Bytes of numbers

@[simp] theorem length_leBytes (n x : Nat) : (leBytes n x).length = n := by
  induction n generalizing x with
  | zero => rfl
  | succ n ih => rw [leBytes, List.length_cons, ih]

theorem getElem?_leBytes {n i : Nat} (x : Nat) (h : i < n) : (leBytes n x)[i]? = some (BitVec.ofNat 8 (x / 2 ^ (8 * i))) := by
  induction n generalizing x i with
  | zero => omega
  | succ n ih =>
    cases i with
    | zero => simp [leBytes, ← BitVec.toNat_inj]
    | succ i =>
      rw [leBytes, List.getElem?_cons_succ, ih _ (by omega), Nat.div_div_eq_div_mul]
      have hpow : 2 ^ (8 * (i + 1)) = 256 * 2 ^ (8 * i) := by rw [Nat.mul_succ, Nat.pow_add, Nat.mul_comm]
      rw [hpow]

theorem leNat_lt (bs : List Byte) : leNat bs < 2 ^ (8 * bs.length) := by
  induction bs with
  | nil => decide
  | cons b bs ih =>
    have hb := b.isLt
    rw [leNat, List.length_cons, Nat.mul_succ, Nat.pow_add]
    omega

-- ## A store

theorem Mem.byte_setPoison (m : Mem) (l : Nat) (on : Bool) (a : Nat) : (m.setPoison l on).byte a = m.byte a := rfl

theorem Mem.noteStore_quiet {m : Mem} {a n : Nat} (h : 0x8000000000 ≤ a ∨ m.quiet a n) (b : Nat) : (m.noteStore a n).byte b = m.byte b := by
  unfold Mem.noteStore
  split
  · rfl
  next hlow =>
    obtain ⟨hred, hchurn⟩ : m.quiet a n := h.resolve_left (by simp at hlow; omega)
    have hr : (m.reduced.filter fun r => r.1 < a + n && a < r.2) = [] := by
      rw [List.filter_eq_nil_iff]
      intro r hr
      have := hred r hr
      simp
      omega
    have hc : (m.churn.filter fun r => r.lo < a + n && a < r.hi) = [] := by
      rw [List.filter_eq_nil_iff]
      intro r hr
      have := hchurn r hr
      simp
      omega
    dsimp only
    rw [hr]
    dsimp only [List.foldl_nil]
    rw [hc]
    rfl

/-- What is stored stands there, where nothing that the frame still changes lies (R170, R181). -/
theorem Mem.stored_store {m : Mem} (h : m.wf = true) {a : Nat} {bs : List Byte} (hq : 0x8000000000 ≤ a ∨ m.quiet a bs.length) (p : Bool) :
    Stored m (m.store a bs p) a bs := by
  obtain ⟨-, hbyte⟩ := Mem.stored_write h a bs
  refine ⟨Mem.wf_store a bs p h, fun b => ?_⟩
  have hkeep : (m.store a bs p).byte b = ((m.write a bs).noteStore a bs.length).byte b := by
    unfold Mem.store
    refine foldl_keeps (P := fun m' : Mem => m'.byte b = ((m.write a bs).noteStore a bs.length).byte b) _ _ rfl fun m' l hm => ?_
    split
    · exact hm
    · split <;> exact hm
  rw [hkeep, Mem.noteStore_quiet (m := m.write a bs) hq, hbyte]

/-- A store of less than a line leaves the poison as it was. -/
theorem Mem.poison_store_of_short (m : Mem) (a : Nat) {bs : List Byte} (h : bs.length < 64) : (m.store a bs false).poison = m.poison := by
  have hnote (m : Mem) (a n : Nat) : (m.noteStore a n).poison = m.poison := by
    unfold Mem.noteStore
    split
    · rfl
    · exact foldl_keeps (P := fun m' : Mem => m'.poison = m.poison) _ _
        (foldl_keeps (P := fun m' : Mem => m'.poison = m.poison) _ _ rfl fun _ _ h => h) fun _ _ h => h
  unfold Mem.store
  refine foldl_keeps (P := fun m' : Mem => m'.poison = m.poison) _ _ (hnote ..) fun m' l hm => ?_
  rw [if_neg (by decide), if_neg (by simp; omega)]
  exact hm

-- ## The fabric

/-- One byte more of the pieces of a range. -/
def pieceStep (s : State) (a : Nat) (bs : List Byte) (acc : List (Nat × List Byte)) (i : Nat) : List (Nat × List Byte) :=
  match canon s (a + i), bs[i]? with
  | some c, some b =>
    match acc with
    | (c0, l) :: rest => if c0 + l.length = c then (c0, l ++ [b]) :: rest else (c, [b]) :: acc
    | [] => [(c, [b])]
  | _, _ => acc

theorem pieces_eq (s : State) (a : Nat) (bs : List Byte) : pieces s a bs = ((List.range bs.length).foldl (pieceStep s a bs) []).reverse := rfl

/-- A range whose addresses follow one another has one piece. -/
theorem pieces_of_canon {s : State} {a c : Nat} {bs : List Byte} (hbs : bs ≠ []) (h : ∀ i, i < bs.length → canon s (a + i) = some (c + i)) :
    pieces s a bs = [(c, bs)] := by
  have hprefix (k : Nat) (hk : k < bs.length) : (List.range (k + 1)).foldl (pieceStep s a bs) [] = [(c, bs.take (k + 1))] := by
    induction k with
    | zero =>
      rw [List.range_one, List.foldl_cons, List.foldl_nil, pieceStep, h 0 hk, List.getElem?_eq_getElem hk, List.take_one, List.head?_eq_getElem?,
        List.getElem?_eq_getElem hk]
      rfl
    | succ k ih =>
      have hlen : c + (bs.take (k + 1)).length = c + (k + 1) := by rw [List.length_take]; omega
      rw [List.range_succ, List.foldl_append, ih (by omega), List.foldl_cons, List.foldl_nil, pieceStep, h (k + 1) hk, List.getElem?_eq_getElem hk]
      simp only [hlen, if_true, List.take_append_getElem hk]
  obtain ⟨k, hk⟩ := Nat.exists_eq_succ_of_ne_zero (Nat.ne_of_gt (List.length_pos_iff.2 hbs))
  have hall := hprefix k (by omega)
  rw [← Nat.succ_eq_add_one, ← hk, List.take_length] at hall
  rw [pieces_eq, hall, List.reverse_singleton]

/-- An address map keeps a place: the cellar and the tile stores. -/
def ownPlace (a : Nat) : Prop := a < 0x8000000000 ∨ (0x100000000000 ≤ a ∧ a < 0x100010000000)

theorem canon_of_ownPlace {a : Nat} (s : State) (h : ownPlace a) : canon s a = some a := by
  unfold canon place
  rcases h with h | ⟨h1, h2⟩
  · rw [if_pos h]
  · rw [if_neg (by omega), if_neg (by omega), if_pos h2]

/-- A write to the cellar or to a tile store is a store of memory. -/
theorem fabricWrite_of_ownPlace (s : State) {a : Nat} {bs : List Byte} (p : Bool) (hbs : bs ≠ []) (h : ∀ i, i < bs.length → ownPlace (a + i)) :
    fabricWrite s a bs p = { s with mem := s.mem.store a bs p } := by
  have hpieces := pieces_of_canon (s := s) hbs fun i hi => canon_of_ownPlace s (h i hi)
  have h0 : ownPlace a := h 0 (List.length_pos_iff.2 hbs)
  have hplace : (∃ b, place a = .cellar b) ∨ ∃ t off, place a = .tileStore t off := by
    unfold place
    rcases h0 with h | ⟨h1, h2⟩
    · exact .inl ⟨a, if_pos h⟩
    · exact .inr ⟨_, _, by rw [if_neg (by omega), if_neg (by omega), if_pos h2]⟩
  unfold fabricWrite
  rcases hplace with ⟨b, hb⟩ | ⟨t, off, hb⟩ <;> simp only [hb, hpieces, List.foldl_cons, List.foldl_nil]

/-- A read of the cellar gives its bytes, marked when one of them is poisoned. -/
theorem fabricReadAt_of_cellar (k : Nat) (s : State) {a n : Nat} (h0 : 0 < n) (hn : a + n ≤ 0x8000000000) :
    fabricReadAt k s a n = ((List.range n).map fun i => s.mem.byte (a + i), (List.range n).any fun i => s.mem.poisoned (a + i), s) := by
  have hcanon (i : Nat) (hi : i ∈ List.range n) : canon s (a + i) = some (a + i) :=
    canon_of_ownPlace s (.inl (by have := List.mem_range.1 hi; omega))
  have hplace : place a = .cellar a := if_pos (by omega)
  have hmap : (List.range n).map (fun i => canon s (a + i)) = (List.range n).map fun i => some (a + i) := List.map_congr_left hcanon
  have hbytes : (List.range n).map (fun i => ((canon s (a + i)).map s.mem.byte).getD (Config.lostByte (a + i)))
      = (List.range n).map fun i => s.mem.byte (a + i) :=
    List.map_congr_left fun i hi => by rw [hcanon i hi]; rfl
  unfold fabricReadAt readEndAt
  simp only [hplace, hmap, hbytes, List.any_map]
  have hnone : (List.range n).any ((fun x => x.isNone) ∘ fun i => some (a + i)) = false := by simp
  have hsome : (List.range n).any ((fun c => (c.map s.mem.poisoned).getD false) ∘ fun i => some (a + i))
      = (List.range n).any fun i => s.mem.poisoned (a + i) := rfl
  rw [hnone, hsome]
  cases (List.range n).any fun i => s.mem.poisoned (a + i) <;> rfl

end Sys2Proof.Machine

/-! PROOFS. The tile store by scalar loads and stores (R84, R117, R143). -/

namespace Sys2Proof.Machine

-- ## The tile store

theorem memAddr_eq (s : State) (t : TileId) (rs1 : Reg) (imm : BitVec 13) :
    memAddr s t rs1 imm = ((s.tile t).sGet rs1.toNat + BitVec.ofInt 64 imm.toInt).toNat := by
  have h : immS imm = BitVec.ofInt 64 imm.toInt := by
    rw [← BitVec.toInt_signExtend_of_le (by decide : 13 ≤ 64), BitVec.ofInt_toInt]
    rfl
  rw [memAddr, h]
  rfl

theorem loadTs_misaligned {s : State} {t off n : Nat} (h : off % n ≠ 0) : loadTs s t off n = .error (misaligned off) := if_pos h

theorem loadTs_bad {s : State} {t off n : Nat} (h0 : off % n = 0) (h : tsLoadBad s t off n = true) : loadTs s t off n = .error (boundsExc off) := by
  rw [loadTs, if_neg (by omega), if_pos h]

theorem loadTs_reads {s : State} {t off n : Nat} (h : TsReads s t off n) : loadTs s t off n = .ok (s.tsNat t off n) := by
  obtain ⟨h0, hbad, hpoison⟩ := h
  rw [loadTs, if_neg (by omega), hbad, hpoison]
  rfl

theorem storeTs_misaligned {s : State} {t off n : Nat} (h : off % n ≠ 0) (x : Nat) : storeTs s t off n x = (some (misaligned off), s) := if_pos h

theorem storeTs_bad {s : State} {t off n : Nat} (h0 : off % n = 0) (h : tsStoreBad s t off n = true) (x : Nat) :
    storeTs s t off n x = (some (boundsExc off), s) := by
  rw [storeTs, if_neg (by omega), if_pos h]

theorem storeTs_writes {s : State} {t off n : Nat} (h : TsWrites s t off n) (x : Nat) :
    storeTs s t off n x = (none, s.codePut t off (leBytes n x)) := by
  obtain ⟨h0, hbad⟩ := h
  rw [storeTs, if_neg (by omega), hbad]
  rfl

theorem tsLoadBad_iff {s : State} {t off n : Nat} : tsLoadBad s t off n = true ↔
    0x100000 < off + n ∨ ((inboxOf s t).2 ≠ 0 ∧ off < halfB s t + (inboxOf s t).2 ∧ halfB s t < off + n) := by
  simp [tsLoadBad, overlaps]

theorem tsStoreBad_iff {s : State} {t off n : Nat} : tsStoreBad s t off n = true ↔
    0x100000 < off + n ∨ ((inboxOf s t).2 ≠ 0 ∧ off < (inboxOf s t).1 + 2 * (inboxOf s t).2 ∧ (inboxOf s t).1 < off + n) := by
  simp [tsStoreBad, overlaps]

-- ## What a store tells sends and decode commands

theorem noteSends_mem (s : State) (t off n : Nat) : (noteSends s t off n).mem = s.mem := by
  unfold noteSends
  dsimp only
  split <;> rfl

theorem noteSends_of_apart {s : State} {t off n : Nat} (h : ∀ x ∈ (s.tile t).sendQ, overlaps off n x.src x.len = false) : noteSends s t off n = s := by
  unfold noteSends
  exact if_neg (by simpa using h)

theorem noteDecode_of_apart {s : State} {t off n : Nat}
    (h : ∀ c ∈ (s.tile t).decQ ++ ((s.tile t).decRun.map (·.cmd)).toList, c.meets off n = false) : noteDecode s t off n = s := by
  unfold noteDecode
  have hnil : ((s.tile t).decQ ++ ((s.tile t).decRun.map (·.cmd)).toList).filter (fun c => c.meets off n) = [] := by
    rw [List.filter_eq_nil_iff]
    intro c hc
    rw [h c hc]
    decide
  simp only [hnil, List.isEmpty_nil, if_true]

/-- A store of tile code into its own store, before its decode commands are told. -/
theorem codePut_eq (s : State) (t off : Nat) (bs : List Byte) : s.codePut t off bs =
    noteDecode { noteSends s t off bs.length with mem := s.mem.store (tsBase t + off) bs false } t off bs.length := by
  rw [State.codePut, State.tilePut, State.tsWrite, noteSends_mem]

/-- The bytes of a register, stored. -/
theorem leBytes_extract (x : Word) (n i : Nat) (h : i < n) : ((leBytes n x.toNat)[i]?).getD 0 = x.extractLsb' (8 * i) 8 := by
  rw [getElem?_leBytes _ h, Option.getD_some, ← BitVec.toNat_inj]
  simp [Nat.shiftRight_eq_div_pow]

/-- A scalar store that rings no doorbell. -/
theorem ssttStore_writes {s : State} {t off n : Nat} (h : TsWrites s t off n) (hdb : n = 8 → off < 0xFFFD8) (x : Nat) :
    ssttStore s t off n x = retire (s.codePut t off (leBytes n x)) t id := by
  have hnone : (if n = 8 then doorbell s t off x else none) = none := by
    split
    next hn =>
      have hoff := hdb hn
      simp [doorbell, show off ≠ 0xFFFF8 by omega, show off ≠ 0xFFFF0 by omega, show off ≠ 0xFFFE8 by omega, show off ≠ 0xFFFE0 by omega,
        show off ≠ 0xFFFD8 by omega]
    · rfl
  unfold ssttStore
  rw [storeTs_writes h]
  simp only [hnone]

theorem ssttStore_fails {s : State} {t off n x : Nat} {e : Exc} (h : storeTs s t off n x = (some e, s)) : ssttStore s t off n x = takeExc s t e none := by
  unfold ssttStore
  rw [h]

theorem size_le_eight (size : Size) : 0 < 2 ^ size.toNat ∧ 2 ^ size.toNat ≤ 8 := by
  have h := size.isLt
  exact ⟨Nat.two_pow_pos _, Nat.pow_le_pow_right (n := 2) (i := size.toNat) (j := 3) (by decide) (by omega)⟩

/-- A number of `n` bytes, as a load extends it. -/
theorem ext_leNat (uns : Bool) {n : Nat} {bs : List Byte} (h : bs.length = n) :
    ext (!uns) (8 * n) (leNat bs) = if uns then BitVec.ofNat 64 (leNat bs) else BitVec.ofInt 64 (toSigned (8 * n) (leNat bs)) := by
  subst h
  cases uns
  · rfl
  · simp [ext, Nat.mod_eq_of_lt (leNat_lt bs)]

/-- Settles O6: loads and stores by alignment, then by R84, then by the bytes. -/
theorem tileStoreAccess : Obligations.TileStoreAccess := by
  unfold Obligations.TileStoreAccess
  refine ⟨fun s t h uns size rd rs1 imm => ?_, fun s t h hm size rd rs1 imm => ?_⟩
  · extract_lets off n run v
    have hrun : run = .next (finishLoad s t uns size rd (loadTs s t off n)) := issue_runs h _
    refine ⟨memAddr_eq .., fun hreads => ?_, fun h0 => ?_, fun h0 hbad => ?_⟩
    · rw [hrun, loadTs_reads hreads]
      have hext : ext (!uns) (8 * n) (s.tsNat t off n) = if uns then BitVec.ofNat 64 v else BitVec.ofInt 64 (toSigned (8 * n) v) :=
        ext_leNat uns (by simp [State.tsRead, Mem.read])
      rw [← hext]
      rfl
    · rw [hrun, loadTs_misaligned h0]
      rfl
    · rw [hrun, loadTs_bad h0 (tsLoadBad_iff.2 hbad)]
      rfl
  · extract_lets off n run
    have hrun : run = .next (ssttStore s t off n (sVal s t rd)) := issue_runs h _
    obtain ⟨hn0, hn8⟩ := size_le_eight size
    refine ⟨memAddr_eq .., fun hwrites => ?_, fun hdec hsend m => ?_, fun h0 => ?_, fun h0 hbad => ?_⟩
    · by_cases hdb : n = 8 ∧ 0xFFFD8 ≤ off
      · exact .inl hdb
      · refine .inr ⟨s.mem.store (tsBase t + off) (leBytes n (sVal s t rd)) false, ?_, ?_, ?_, fun a => ?_⟩
        · rw [hrun, ssttStore_writes hwrites (fun hn => by omega), codePut_eq, length_leBytes]
        · exact Mem.wf_store _ _ _ hm
        · exact Mem.poison_store_of_short _ _ (by rw [length_leBytes]; omega)
        · obtain ⟨-, hbyte⟩ := Mem.stored_store hm (a := tsBase t + off) (bs := leBytes n (sVal s t rd)) (.inl (by unfold tsBase; omega)) false
          rw [hbyte, length_leBytes]
          split
          · exact leBytes_extract _ _ _ (by omega)
          · rfl
    · have hs : noteSends s t off n = s := noteSends_of_apart hsend
      change noteDecode { noteSends s t off n with mem := m } t off n = _
      rw [hs]
      exact noteDecode_of_apart hdec
    · rw [hrun, ssttStore_fails (storeTs_misaligned h0 _)]
      rfl
    · rw [hrun, ssttStore_fails (storeTs_bad h0 (tsStoreBad_iff.2 hbad) _)]
      rfl

end Sys2Proof.Machine

/-! PROOFS. Scalar loads and stores of memory that the tile cache does not serve (R117, R252). -/

namespace Sys2Proof.Machine

-- ## An access that the TLB serves

@[simp] theorem retire_updTile_id (s : State) (t : Nat) (f : Tile → Tile) : retire (s.updTile t id) t f = retire s t f :=
  State.updTile_updTile s t id _

@[simp] theorem takeExc_updTile_id (s : State) (t : Nat) (e : Exc) (vst : Option Nat) : takeExc (s.updTile t id) t e vst = takeExc s t e vst := by
  unfold takeExc
  simp only [State.updTile_updTile]
  rfl

theorem lt_of_place_cellar {a b : Nat} (h : place a = .cellar b) : a < 0x8000000000 := by
  refine Classical.byContradiction fun hge => ?_
  unfold place at h
  rw [if_neg hge] at h
  repeat' split at h
  all_goals cases h

/-- An aligned access of the cellar ends in the cellar. -/
theorem Hits.end_le {s : State} {t va : Nat} {k : AccessKind} {p : Nat} {e : TlbEntry} {dpa n : Nat} (h : Hits s t va k p e dpa)
    (h0 : va % n = 0) (hn : n ∣ 4096) : dpa + n ≤ 0x8000000000 := by
  obtain ⟨-, -, -, -, -, hmod, a, ha⟩ := h
  have hlt : dpa < 0x8000000000 := lt_of_place_cellar ha
  have hdvd : n ∣ dpa := by
    have h1 : n ∣ va % 4096 := (Nat.dvd_mod_iff hn).2 (Nat.dvd_of_mod_eq_zero h0)
    exact (Nat.dvd_mod_iff hn).1 (hmod ▸ h1)
  obtain ⟨q, hq⟩ := Nat.dvd_trans hn (by decide : 4096 ∣ 0x8000000000)
  obtain ⟨j, rfl⟩ := hdvd
  rw [hq] at hlt ⊢
  rw [← Nat.mul_succ]
  exact Nat.mul_le_mul_left n (Nat.lt_of_mul_lt_mul_left hlt)

theorem translate_of_perm {s : State} {t : TileId} {va : Nat} {k : AccessKind} {p : Nat} {e : TlbEntry} {dpa r : Nat} (h : Hits s t va k p e dpa)
    (hperm : permReason s p e k dpa = some r) :
    translate s (.tile t) va k = (.error (walkExc 1 r e.level va (accBits k) 0 0), s.updTile t id) := by
  have ⟨hva, _, hparcel, _, hdpa, _⟩ := h
  have hparcel' : unitParcel s (.tile t) = some p := hparcel
  have hperm' : permReason (s.updTile t id) p e k dpa = some r := hperm
  unfold translate
  simp only [Nat.not_le.2 hva, if_false, hparcel', findEntry_of_hits h, ← hdpa, hperm']

theorem translate_beyond (s : State) (u : WalkUnit) {va : Nat} (k : AccessKind) (h : 2 ^ 48 ≤ va) :
    ∃ e, translate s u va k = (.error e, { s with freeCtr := s.freeCtr + 1 }) ∧ e.idx = 0 ∧ e.reason = 5 ∧ e.va = va := by
  unfold translate
  rw [if_pos h]
  exact ⟨_, rfl, rfl, rfl, rfl⟩

theorem cacheLine_disabled {s : State} {t : Nat} (h : (s.tile t).cache.en = false) (a : Nat) (c l : Bool) : cacheLine s t a c l = (false, s) := by
  unfold cacheLine
  dsimp only
  rw [h]
  rfl

/-- A load that reaches the cellar: the bytes of storage, unless one of them is poisoned. -/
theorem loadMem_of_reaches {s : State} {t : TileId} {va n dpa : Nat} (h : Reaches s t va n .load dpa) (h0 : 0 < n) (hn : n ∣ 4096) (k : Nat) :
    loadMem k s t va n = (if (List.range n).any fun i => s.mem.poisoned (dpa + i) then .error (poisonExc va)
      else .ok (leNat ((List.range n).map fun i => s.mem.byte (dpa + i))), s.updTile t id) := by
  obtain ⟨c, hx⟩ := translate_of_reaches h
  obtain ⟨halign, hen, p, e, hhit, -⟩ := h
  have hen' : ((s.updTile t id).tile t).cache.en = false := by rw [State.updTile_tile]; exact hen
  unfold loadMem
  rw [if_neg (by omega), hx]
  simp only [tileRead, cacheLine_disabled hen', fabricReadAt_of_cellar k _ h0 (hhit.end_le halign hn), State.updTile_mem]
  split <;> rfl

theorem noteHost_of_cellar (s : State) (p : Option Nat) {a b : Nat} (h : place a = .cellar b) : noteHost s p a = s := by
  unfold noteHost
  rw [h]
  split
  next heq => cases heq
  · rfl

/-- A store that reaches the cellar. -/
theorem storeMem_of_reaches {s : State} {t : TileId} {va n dpa : Nat} (h : Reaches s t va n .store dpa) (h0 : 0 < n) (hn : n ∣ 4096) (x : Nat)
    (whole : Bool) :
    storeMem s t va n x whole = (none, { s.updTile t id with mem := s.mem.store dpa (leBytes n x) false }) := by
  obtain ⟨c, hx⟩ := translate_of_reaches h
  have hcanon := canon_of_reaches h (s.updTile t id)
  obtain ⟨halign, hen, p, e, hhit, -⟩ := h
  have hend := hhit.end_le halign hn
  have hen' : ((s.updTile t id).tile t).cache.en = false := by rw [State.updTile_tile]; exact hen
  have hbs : leBytes n x ≠ [] := List.ne_nil_of_length_pos (by rw [length_leBytes]; exact h0)
  have hplace : place dpa = .cellar dpa := if_pos (by omega)
  have hwrite := fabricWrite_of_ownPlace (s.updTile t id) (a := dpa) false hbs fun i hi => .inl (by rw [length_leBytes] at hi; omega)
  have hput : tileWrite (s.updTile t id) t dpa (leBytes n x) c whole = { s.updTile t id with mem := s.mem.store dpa (leBytes n x) false } := by
    unfold tileWrite
    simp only [cacheLine_disabled hen', hwrite, noteHost_of_cellar _ _ hplace, State.updTile_mem]
  have hown : (decide (tsBase t ≤ dpa) && decide (dpa < tsBase t + 0x100000)) = false := by
    unfold tsBase
    simp
    omega
  unfold storeMem
  rw [if_neg (by omega), hx]
  simp only [hcanon, hown, hput, Bool.false_eq_true, if_false]

theorem dvd_of_size (size : Size) : 2 ^ size.toNat ∣ 4096 := by
  have h := size.isLt
  exact Nat.pow_dvd_pow (m := size.toNat) (n := 12) 2 (by omega)

theorem finishLoad_error (s : State) (t : TileId) (uns : Bool) (z : Size) (rd : Reg) (e : Exc) :
    finishLoad (s.updTile t id) t uns z rd (.error e) = takeExc s t e none := by
  rw [finishLoad, takeExc_updTile_id]

/-- Settles O8: an access by its alignment, its translation, its leaf, and the bytes of storage. -/
theorem memoryLoadStore : Obligations.MemoryLoadStore := by
  unfold Obligations.MemoryLoadStore
  intro s t h uns size rd rs1 imm
  extract_lets va n load store
  obtain ⟨hn0, -⟩ := size_le_eight size
  have hdvd : n ∣ 4096 := dvd_of_size size
  have hload : load = .next (finishLoad (loadMem s.freeCtr s t va n).2 t uns size rd (loadMem s.freeCtr s t va n).1) := issue_runs h _
  have hstore {e : Option Exc} {u : State} (hu : storeMem s t va n (sVal s t rd) false = (e, u)) :
      store = .next (match e with | some e => takeExc u t e none | none => retire u t id) := by
    refine (issue_runs h _).trans (congrArg _ ?_)
    have hu' : storeMem s t (memAddr s t rs1 imm) (accBytes size) (sVal s t rd) false = (e, u) := hu
    rw [hu']
    cases e <;> rfl
  refine ⟨memAddr_eq .., fun dpa hr => ?_, fun dpa hr hp => ?_, fun dpa hr => ?_, fun p e dpa r h0 => ⟨fun hh hperm => ?_, fun hh hperm => ?_⟩,
    fun h0 => ?_, fun h0 hva => ?_⟩
  · obtain ⟨hr, hsound⟩ := hr
    have hnone : ((List.range n).any fun i => s.mem.poisoned (dpa + i)) = false := by
      simpa using hsound
    rw [hload, loadMem_of_reaches hr hn0 hdvd, hnone]
    have hext := ext_leNat uns (n := n) (bs := (List.range n).map fun i => s.mem.byte (dpa + i)) (by simp)
    dsimp only
    rw [← hext]
    exact congrArg _ (retire_updTile_id ..)
  · have hsome : ((List.range n).any fun i => s.mem.poisoned (dpa + i)) = true := by
      simpa using hp
    rw [hload, loadMem_of_reaches hr hn0 hdvd, hsome]
    exact congrArg _ (finishLoad_error ..)
  · refine ⟨?_, fun hm hq => Mem.stored_store hm (.inr (by rw [length_leBytes]; exact hq)) false⟩
    rw [hstore (storeMem_of_reaches hr hn0 hdvd _ _)]
    exact congrArg _ (retire_updTile_id { s with mem := _ } t id)
  · rw [hload]
    have hl : loadMem s.freeCtr s t va n = (.error (walkExc 1 r e.level va (accBits .load) 0 0), s.updTile t id) := by
      unfold loadMem
      rw [if_neg (by omega), translate_of_perm hh hperm]
    rw [hl]
    exact ⟨_, congrArg _ (finishLoad_error ..), rfl, rfl, rfl⟩
  · have hs : storeMem s t va n (sVal s t rd) false = (some (walkExc 1 r e.level va (accBits .store) 0 0), s.updTile t id) := by
      unfold storeMem
      rw [if_neg (by omega), translate_of_perm hh hperm]
    rw [hstore hs]
    exact ⟨_, congrArg _ (takeExc_updTile_id ..), rfl, rfl, rfl⟩
  · have hl : loadMem s.freeCtr s t va n = (.error (misaligned va), s) := if_pos h0
    have hs : storeMem s t va n (sVal s t rd) false = (some (misaligned va), s) := if_pos h0
    rw [hload, hl, hstore hs]
    exact ⟨rfl, rfl⟩
  · obtain ⟨e, he, he0, he5, heva⟩ := translate_beyond s (.tile t) .load hva
    obtain ⟨e', he', he0', he5', heva'⟩ := translate_beyond s (.tile t) .store hva
    have hl : loadMem s.freeCtr s t va n = (.error e, { s with freeCtr := s.freeCtr + 1 }) := by
      unfold loadMem
      rw [if_neg (by omega), he]
    have hs : storeMem s t va n (sVal s t rd) false = (some e', { s with freeCtr := s.freeCtr + 1 }) := by
      unfold storeMem
      rw [if_neg (by omega), he']
    rw [hload, hl, hstore hs]
    exact ⟨e, e', _, rfl, rfl, he0, he5, heva, he0', he5', heva', rfl⟩

end Sys2Proof.Machine

/-! PROOFS. Elements in ascending order (R123, R124), and the states that an instruction passes through meanwhile. -/

namespace Sys2Proof.Machine

-- ## Elements in ascending order

/-- A body runs on each element of a list without an exception. -/
def stepsTo (body : State → Nat → Option Exc × State) : List Nat → State → State → Prop
  | [], s, w => w = s
  | i :: l, s, w => ∃ u, body s i = (none, u) ∧ stepsTo body l u w

theorem elemLoop_of_stepsTo {t : TileId} {ff : Bool} {first : Nat} {body : State → Nat → Option Exc × State} {l : List Nat} (rest : List Nat)
    {s w : State} (h : stepsTo body l s w) : elemLoop t ff first body (l ++ rest) s = elemLoop t ff first body rest w := by
  induction l generalizing s with
  | nil => rw [h, List.nil_append]
  | cons i l ih =>
    obtain ⟨u, hu, hrest⟩ := h
    rw [List.cons_append, elemLoop, hu]
    exact ih hrest

/-- What each element keeps and does, given those done before it, the elements do one after another. -/
theorem stepsTo_of_split {body : State → Nat → Option Exc × State} {R : List Nat → State → Prop} {all : List Nat} (done l : List Nat) {s : State}
    (hall : done ++ l = all) (h0 : R done s)
    (hstep : ∀ done i rest u, done ++ i :: rest = all → R done u → ∃ w, body u i = (none, w) ∧ R (done ++ [i]) w) :
    ∃ w, stepsTo body l s w ∧ R all w := by
  induction l generalizing s done with
  | nil => exact ⟨s, rfl, by rwa [← hall, List.append_nil]⟩
  | cons i l ih =>
    obtain ⟨u, hu, hR⟩ := hstep done i l s hall h0
    obtain ⟨w, hw, hR'⟩ := ih (done ++ [i]) (by rwa [List.append_assoc]) hR
    exact ⟨w, ⟨u, hu, hw⟩, hR'⟩

theorem stepsTo_of_step {body : State → Nat → Option Exc × State} {R : List Nat → State → Prop} (l : List Nat) {s : State} (h0 : R [] s)
    (hstep : ∀ done i u, i ∈ l → R done u → ∃ w, body u i = (none, w) ∧ R (done ++ [i]) w) :
    ∃ w, stepsTo body l s w ∧ R l w :=
  stepsTo_of_split [] l rfl h0 fun done i rest u hall hR => hstep done i u (hall ▸ List.mem_append_right done (List.mem_cons_self ..)) hR

-- ## States that differ in memory and in the vector registers of one tile

/-- State `u` is `s` but for memory `m` and the vector registers `v` of tile `t`. -/
def Beside (s u : State) (t : Nat) (m : Mem) (v : List (Nat × BitVec 4096)) : Prop :=
  u.updTile t id = State.updTile { s with mem := m } t fun T => { T with vRegs := v }

theorem Beside.refl (s : State) (t : Nat) : Beside s s t s.mem (s.tile t).vRegs := State.updTile_congr rfl

section
variable {s u : State} {t : Nat} {m : Mem} {v : List (Nat × BitVec 4096)} (h : Beside s u t m v)
include h

theorem Beside.tile : u.tile t = { s.tile t with vRegs := v } := by
  have ht := congrArg (State.tile · t) h
  simp only [State.updTile_tile, id] at ht
  exact ht

theorem Beside.mem : u.mem = m := congrArg State.mem h

/-- A function of everything but memory and tiles has the same value. -/
theorem Beside.congr {α : Type} {f : State → α} (hf : ∀ s m k g, f (State.updTile { s with mem := m } k g) = f s) : f u = f s := by
  have hu := hf u u.mem t id
  have hs := hf s m t fun T => { T with vRegs := v }
  exact hu.symm.trans ((congrArg f h).trans hs)

theorem Beside.tileParcel : tileParcel u t = tileParcel s t := h.congr (f := (Machine.tileParcel · t)) fun _ _ _ _ => rfl
theorem Beside.inboxOf : inboxOf u t = inboxOf s t := h.congr (f := (Machine.inboxOf · t)) fun _ _ _ _ => rfl
theorem Beside.permReason (p : Nat) (e : TlbEntry) (k : AccessKind) (dpa : Nat) : permReason u p e k dpa = permReason s p e k dpa :=
  h.congr (f := (Machine.permReason · p e k dpa)) fun _ _ _ _ => rfl

theorem Beside.halfB : halfB u t = halfB s t := by
  unfold Machine.halfB
  rw [h.inboxOf, h.tile]

theorem Beside.tsLoadBad (off n : Nat) : tsLoadBad u t off n = tsLoadBad s t off n := by
  unfold Machine.tsLoadBad
  rw [h.inboxOf, h.halfB]

theorem Beside.tsStoreBad (off n : Nat) : tsStoreBad u t off n = tsStoreBad s t off n := by
  unfold Machine.tsStoreBad
  rw [h.inboxOf]

theorem Beside.hits {va : Nat} {k : AccessKind} {p : Nat} {e : TlbEntry} {dpa : Nat} (hh : Hits s t va k p e dpa) : Hits u t va k p e dpa := by
  unfold Hits WalksFor at hh ⊢
  rw [h.tile, h.tileParcel]
  exact hh

theorem Beside.reaches {va n : Nat} {k : AccessKind} {dpa : Nat} (hh : Reaches s t va n k dpa) : Reaches u t va n k dpa := by
  obtain ⟨halign, hen, p, e, hhit, hperm⟩ := hh
  exact ⟨halign, by rw [h.tile]; exact hen, p, e, h.hits hhit, by rw [h.permReason, hperm]⟩

theorem Beside.updTile_id : Beside s (u.updTile t id) t m v := by
  unfold Beside
  rw [State.updTile_updTile]
  exact h

theorem Beside.withMem (m' : Mem) : Beside s { u with mem := m' } t m' v := by
  have := congrArg (fun s : State => { s with mem := m' }) h
  exact this

/-- Retiring looks at nothing else. -/
theorem Beside.retireV (f : Tile → Tile) :
    retireV u t f = Machine.retireV { s with mem := m } t fun T => f { T with vRegs := v } := by
  have hu : Machine.retireV (u.updTile t id) t f = Machine.retireV u t f := State.updTile_updTile ..
  rw [← hu, h]
  exact State.updTile_updTile ..

theorem Beside.takeExc (e : Exc) (vst : Option Nat) :
    takeExc u t e vst = Machine.takeExc (State.updTile { s with mem := m } t fun T => { T with vRegs := v }) t e vst := by
  rw [← takeExc_updTile_id, h]

end

/-- Writing an element of a vector register. -/
theorem Beside.setV {s u : State} {t : Nat} {m : Mem} {v : List (Nat × BitVec 4096)} (h : Beside s u t m v) (r i x : Nat) :
    Beside s (u.updTile t fun T => T.setV r i x) t m ((({ s.tile t with vRegs := v } : Tile).setV r i x).vRegs) := by
  unfold Beside
  have hu : (u.updTile t fun T => T.setV r i x).updTile t id = (u.updTile t id).updTile t fun T => T.setV r i x := by
    rw [State.updTile_updTile, State.updTile_updTile]
    rfl
  rw [hu, h, State.updTile_updTile]
  exact State.updTile_congr rfl

end Sys2Proof.Machine

/-! PROOFS. Vector loads and stores of the tile store and of memory that the tile cache does not serve (R122 to R125), element by element. -/

namespace Sys2Proof.Machine

theorem Tile.lanes_dvd (T : Tile) : T.ew / 8 ∣ 4096 := by
  have h := T.lanes_mul_vlmax
  exact Nat.dvd_trans ⟨T.vlmax, h.symm⟩ (by decide : 512 ∣ 4096)

-- ## Loads

theorem foldl_setV_self (r : Nat) (f : Nat → Nat) (l : List Nat) (T : Tile) :
    ({ T with vRegs := (l.foldl (fun T' i => T'.setV r i (f i)) T).vRegs } : Tile) = l.foldl (fun T' i => T'.setV r i (f i)) T := by
  obtain ⟨m, hm⟩ := foldl_setV_rest r f l T
  rw [hm]

/-- An element loads a value, whatever vector registers the elements before it have left. -/
def ElemLoads (s : State) (t : TileId) (body : State → Nat → Option Exc × State) (rd i x : Nat) : Prop :=
  ∀ u v, Beside s u t s.mem v → ∃ w, body u i = (none, w) ∧ Beside s w t s.mem ((({ s.tile t with vRegs := v } : Tile).setV rd i x).vRegs)

theorem stepsTo_loads {s : State} {t : TileId} {body : State → Nat → Option Exc × State} {rd : Nat} {f : Nat → Nat} {l : List Nat}
    (h : ∀ i ∈ l, ElemLoads s t body rd i (f i)) :
    ∃ w, stepsTo body l s w ∧ Beside s w t s.mem (l.foldl (fun T' i => T'.setV rd i (f i)) (s.tile t)).vRegs := by
  refine stepsTo_of_step (R := fun done u => Beside s u t s.mem (done.foldl (fun T' i => T'.setV rd i (f i)) (s.tile t)).vRegs) l
    (Beside.refl s t) fun done i u hi hu => ?_
  obtain ⟨w, hw, hb⟩ := h i hi u _ hu
  rw [foldl_setV_self] at hb
  exact ⟨w, hw, by rw [List.foldl_append]; exact hb⟩

theorem overActive_of_stepsTo {s w : State} {t : TileId} {pred : PReg} (ff : Bool) {body : State → Nat → Option Exc × State}
    (h : stepsTo body ((s.tile t).active pred.toNat) s w) : overActive s t pred ff body = retireV w t id := by
  have hloop := elemLoop_of_stepsTo (t := t) (ff := ff) (first := ((s.tile t).active pred.toNat).headD 0) [] h
  rw [List.append_nil] at hloop
  exact hloop

/-- Elements that are done, with what v[rd] then holds, are a write of v[rd]. -/
theorem vectorResult_of_stepsTo {s w : State} {t : TileId} {o : Host.Outcome State Fault Refusal} {pred : PReg} {ff : Bool}
    {body : State → Nat → Option Exc × State} {rd : Nat} {f : Nat → Nat} (ho : o = .next (overActive s t pred ff body))
    (hsteps : stepsTo body ((s.tile t).active pred.toNat) s w)
    (hbeside : Beside s w t s.mem (((s.tile t).active pred.toNat).foldl (fun T' i => T'.setV rd i (f i)) (s.tile t)).vRegs) :
    VectorResult o s t rd fun j => if isActive (s.tile t) pred.toNat j then some (f j % 2 ^ (s.tile t).ew) else none := by
  refine ⟨_, ho.trans (congrArg _ ((overActive_of_stepsTo ff hsteps).trans (hbeside.retireV id))), ⟨_, rfl⟩, fun k j hj => ?_⟩
  have helem : ((retireV s t fun T => id { T with vRegs := ((s.tile t).active pred.toNat).foldl (fun T' i => T'.setV rd i (f i)) (s.tile t) |>.vRegs }).tile t).elem k j
      = (((s.tile t).active pred.toNat).foldl (fun T' i => T'.setV rd i (f i)) (s.tile t)).elem k j := by
    rw [retireV_elem, id, foldl_setV_self]
  refine helem.trans ?_
  rw [foldl_setV_elem _ _ _ _ _ _ hj]
  by_cases hk : k = rd <;> by_cases ha : j ∈ (s.tile t).active pred.toNat <;> simp [hk, ha, isActive_iff_mem]

/-- A load whose elements all load is a write of v[rd]. -/
theorem vectorResult_loads {s : State} {t : TileId} {o : Host.Outcome State Fault Refusal} {pred : PReg} {ff : Bool}
    {body : State → Nat → Option Exc × State} {rd : Nat} {f : Nat → Nat} (ho : o = .next (overActive s t pred ff body))
    (h : ∀ j, isActive (s.tile t) pred.toNat j = true → ElemLoads s t body rd j (f j)) :
    VectorResult o s t rd fun j => if isActive (s.tile t) pred.toNat j then some (f j % 2 ^ (s.tile t).ew) else none := by
  obtain ⟨w, hsteps, hbeside⟩ := stepsTo_loads (f := f) (l := (s.tile t).active pred.toNat) fun i hi => h i (isActive_iff_mem.2 hi)
  exact vectorResult_of_stepsTo ho hsteps hbeside

/-- What a load of `n` bytes writes fits an element of `n` bytes. -/
theorem vectorResult_loads_bytes {s : State} {t : TileId} {o : Host.Outcome State Fault Refusal} {pred : PReg} {ff : Bool}
    {body : State → Nat → Option Exc × State} {rd : Nat} {f : Nat → Nat} (ho : o = .next (overActive s t pred ff body))
    (h : ∀ j, isActive (s.tile t) pred.toNat j = true → ElemLoads s t body rd j (f j)) (hf : ∀ j, f j < 2 ^ (s.tile t).ew) :
    VectorResult o s t rd fun j => if isActive (s.tile t) pred.toNat j then some (f j) else none := by
  have hr := vectorResult_loads ho h
  simp only [Nat.mod_eq_of_lt (hf _)] at hr
  exact hr

theorem elemLoads_ts {s : State} {t : TileId} {rd : Reg} {addr : Nat → Nat} {i : Nat} (k : Nat) (h : TsReads s t (addr i) ((s.tile t).ew / 8)) :
    ElemLoads s t (loadElem k t true rd addr) rd.toNat i (leNat ((List.range ((s.tile t).ew / 8)).map fun b => s.mem.byte (tsBase t + addr i + b))) := by
  intro u v hu
  have hreads : TsReads u t (addr i) ((s.tile t).ew / 8) := by
    obtain ⟨h0, hbad, hpoison⟩ := h
    refine ⟨h0, by rw [hu.tsLoadBad, hbad], ?_⟩
    rw [State.tsPoison, hu.mem]
    exact hpoison
  have hew : (u.tile t).ew = (s.tile t).ew := by rw [hu.tile]; rfl
  have hnat : u.tsNat t (addr i) ((s.tile t).ew / 8) = s.tsNat t (addr i) ((s.tile t).ew / 8) := by
    rw [State.tsNat, State.tsRead, hu.mem]
    rfl
  refine ⟨_, ?_, hu.setV rd.toNat i _⟩
  unfold loadElem
  simp only [hew, if_true, loadTs_reads hreads, hnat]
  rfl

theorem elemLoads_mem {s : State} {t : TileId} {rd : Reg} {addr : Nat → Nat} {i dpa : Nat} (k : Nat)
    (h : Reads s t (addr i) ((s.tile t).ew / 8) dpa) :
    ElemLoads s t (loadElem k t false rd addr) rd.toNat i (leNat ((List.range ((s.tile t).ew / 8)).map fun b => s.mem.byte (dpa + b))) := by
  intro u v hu
  obtain ⟨hr, hsound⟩ := h
  have hew : (u.tile t).ew = (s.tile t).ew := by rw [hu.tile]; rfl
  have hnone : ((List.range ((s.tile t).ew / 8)).any fun b => s.mem.poisoned (dpa + b)) = false := by simpa using hsound
  have hload := loadMem_of_reaches (hu.reaches hr) (s.tile t).lanes_pos (Tile.lanes_dvd _) k
  rw [hu.mem, hnone] at hload
  refine ⟨_, ?_, (hu.updTile_id).setV rd.toNat i _⟩
  unfold loadElem
  simp only [hew, hload]
  rfl


-- ## Stores of the tile store

theorem forgetDec_tiles (s : State) (t : Nat) (c : DecCmd) : (forgetDec s t c).tiles = s.tiles :=
  foldl_keeps (P := fun u : State => u.tiles = s.tiles) _ _ rfl fun _ _ h => h

theorem forgetDec_parcels (s : State) (t : Nat) (c : DecCmd) : (forgetDec s t c).parcels = s.parcels :=
  foldl_keeps (P := fun u : State => u.parcels = s.parcels) _ _ rfl fun _ _ h => h

theorem noteDecode_parcels (s : State) (t off n : Nat) : (noteDecode s t off n).parcels = s.parcels := by
  unfold noteDecode
  dsimp only
  split
  · rfl
  · exact foldl_keeps (P := fun u : State => u.parcels = s.parcels) _ _ rfl fun u c h => (forgetDec_parcels ..).trans h

theorem noteSends_parcels (s : State) (t off n : Nat) : (noteSends s t off n).parcels = s.parcels := by
  unfold noteSends
  dsimp only
  split <;> rfl

theorem noteDecode_tile (s : State) (t off n : Nat) : ∃ d r, (noteDecode s t off n).tile t = { s.tile t with decQ := d, decRun := r } := by
  unfold noteDecode
  dsimp only
  split
  · exact ⟨_, _, rfl⟩
  · have htiles {l : List DecCmd} (u : State) : (l.foldl (fun s c => forgetDec s t c) u).tile t = u.tile t := by
      rw [State.tile, foldl_keeps (P := fun w : State => w.tiles = u.tiles) _ _ rfl fun w c h => (forgetDec_tiles ..).trans h]
      rfl
    exact ⟨_, _, (htiles _).trans (State.updTile_tile ..)⟩

theorem noteSends_tile (s : State) (t off n : Nat) : ∃ q, (noteSends s t off n).tile t = { s.tile t with sendQ := q } := by
  unfold noteSends
  dsimp only
  split
  · exact ⟨_, State.updTile_tile ..⟩
  · exact ⟨_, rfl⟩

theorem codePut_parcels (s : State) (t off : Nat) (bs : List Byte) : (s.codePut t off bs).parcels = s.parcels :=
  (noteDecode_parcels ..).trans (noteSends_parcels ..)

/-- What a store of tile code changes of its tile: the sends and the decode commands that it meets. -/
theorem codePut_tile (s : State) (t off : Nat) (bs : List Byte) : ∃ q d r, (s.codePut t off bs).tile t = { s.tile t with
    sendQ := q, decQ := d, decRun := r } := by
  obtain ⟨d, r, hd⟩ := noteDecode_tile (s.tilePut t off bs) t off bs.length
  obtain ⟨q, hq⟩ := noteSends_tile s t off bs.length
  have hput : (s.tilePut t off bs).tile t = (noteSends s t off bs.length).tile t := rfl
  exact ⟨q, d, r, by rw [State.codePut, hd, hput, hq]⟩

theorem inboxOf_congr {s u : State} (h : u.parcels = s.parcels) (t : Nat) : inboxOf u t = inboxOf s t := by
  have hp (p : Nat) : u.parcel p = s.parcel p := by rw [State.parcel, h]; rfl
  have ht : tileParcel u t = tileParcel s t := by rw [tileParcel, holder, h]; rfl
  unfold inboxOf roleOf
  simp only [ht, hp]

/-- The stores of tile code, one for each element of a list. -/
def putElems (t : TileId) (addr : Nat → Nat) (bs : Nat → List Byte) (l : List Nat) (s : State) : State :=
  l.foldl (fun s j => s.codePut t (addr j) (bs j)) s

theorem putElems_concat (t : TileId) (addr : Nat → Nat) (bs : Nat → List Byte) (l : List Nat) (i : Nat) (s : State) :
    putElems t addr bs (l ++ [i]) s = (putElems t addr bs l s).codePut t (addr i) (bs i) := by
  rw [putElems, List.foldl_append]
  rfl

/-- Stores whose elements can all be written write them one after another. -/
theorem stepsTo_tsStores {s : State} {t : TileId} {rd : Reg} {addr : Nat → Nat} (whole : Nat → Bool) {l : List Nat}
    (h : ∀ i ∈ l, TsWrites s t (addr i) ((s.tile t).ew / 8)) :
    stepsTo (storeElem t true rd addr whole) l s
      (putElems t addr (fun j => leBytes ((s.tile t).ew / 8) ((s.tile t).elem rd.toNat j)) l s) := by
  obtain ⟨w, hw, -, -, hput⟩ := stepsTo_of_step (body := storeElem t true rd addr whole) (R := fun done u => u.parcels = s.parcels ∧
      (∃ q d r, u.tile t = { s.tile t with sendQ := q, decQ := d, decRun := r }) ∧
      u = putElems t addr (fun j => leBytes ((s.tile t).ew / 8) ((s.tile t).elem rd.toNat j)) done s) l ⟨rfl, ⟨_, _, _, rfl⟩, rfl⟩
    fun done i u hi ⟨hp, ⟨q, d, r, ht⟩, hu⟩ => by
      have hew : (u.tile t).ew = (s.tile t).ew := by rw [ht]; rfl
      have helem : (u.tile t).elem rd.toNat i = (s.tile t).elem rd.toNat i := by rw [ht]; rfl
      have hwrites : TsWrites u t (addr i) ((s.tile t).ew / 8) := by
        obtain ⟨h0, hbad⟩ := h i hi
        refine ⟨h0, ?_⟩
        unfold tsStoreBad at hbad ⊢
        rw [inboxOf_congr hp, hbad]
      refine ⟨u.codePut t (addr i) (leBytes ((s.tile t).ew / 8) ((s.tile t).elem rd.toNat i)), ?_, (codePut_parcels ..).trans hp, ?_, ?_⟩
      · unfold storeElem
        simp only [hew, helem, if_true, storeTs_writes hwrites]
      · obtain ⟨q', d', r', ht'⟩ := codePut_tile u t (addr i) (leBytes ((s.tile t).ew / 8) ((s.tile t).elem rd.toNat i))
        exact ⟨q', d', r', by rw [ht', ht]⟩
      · rw [putElems_concat, ← hu]
  rwa [← hput]

-- ## Stores of memory

/-- The stores of memory, one for each element of a list. -/
def storeElems (dpa : Nat → Nat) (bs : Nat → List Byte) (l : List Nat) (m : Mem) : Mem := l.foldl (fun m j => m.store (dpa j) (bs j) false) m

theorem storeElems_concat (dpa : Nat → Nat) (bs : Nat → List Byte) (l : List Nat) (i : Nat) (m : Mem) :
    storeElems dpa bs (l ++ [i]) m = (storeElems dpa bs l m).store (dpa i) (bs i) false := by
  rw [storeElems, List.foldl_append]
  rfl

theorem stepsTo_memStores {s : State} {t : TileId} {rd : Reg} {addr dpa : Nat → Nat} (whole : Nat → Bool) {l : List Nat}
    (h : ∀ i ∈ l, Reaches s t (addr i) ((s.tile t).ew / 8) .store (dpa i)) :
    ∃ w, stepsTo (storeElem t false rd addr whole) l s w ∧
      Beside s w t (storeElems dpa (fun j => leBytes ((s.tile t).ew / 8) ((s.tile t).elem rd.toNat j)) l s.mem) (s.tile t).vRegs := by
  refine stepsTo_of_step (R := fun done u => Beside s u t (storeElems dpa (fun j => leBytes ((s.tile t).ew / 8) ((s.tile t).elem rd.toNat j)) done s.mem)
    (s.tile t).vRegs) l (Beside.refl s t) fun done i u hi hu => ?_
  have hew : (u.tile t).ew = (s.tile t).ew := by rw [hu.tile]
  have helem : (u.tile t).elem rd.toNat i = (s.tile t).elem rd.toNat i := by rw [hu.tile]
  have hstore := storeMem_of_reaches (hu.reaches (h i hi)) (s.tile t).lanes_pos (Tile.lanes_dvd _) ((s.tile t).elem rd.toNat i) (whole i)
  have hs : storeElem t false rd addr whole u i
      = storeMem u t (addr i) ((s.tile t).ew / 8) ((s.tile t).elem rd.toNat i) (whole i) := by
    unfold storeElem
    simp only [hew, helem, Bool.false_eq_true, if_false]
  rw [hstore] at hs
  have hb := hu.updTile_id.withMem (u.mem.store (dpa i) (leBytes ((s.tile t).ew / 8) ((s.tile t).elem rd.toNat i)) false)
  rw [hu.mem] at hb hs
  exact ⟨_, hs, by rw [storeElems_concat]; exact hb⟩

-- ## The instructions

theorem leNat_map_lt (T : Tile) (f : Nat → Byte) : leNat ((List.range (T.ew / 8)).map f) < 2 ^ T.ew := by
  have h := leNat_lt ((List.range (T.ew / 8)).map f)
  have hew : 8 * (T.ew / 8) = T.ew := by rw [Tile.ew]; omega
  rwa [List.length_map, List.length_range, hew] at h

/-- A vector load or store by an address form: what it runs over its active elements. -/
structure Addressed (s : State) (t : TileId) (ts ff : Bool) (rd : Reg) (pred : PReg) (load store : Instr) (addr : Nat → Nat) : Prop where
  load : exec load s = .next (overActive s t pred ff (loadElem s.freeCtr t ts rd addr))
  store : exec store s = .next (overActive s t pred false (storeElem t ts rd addr (wholeLine s t pred addr)))

theorem addressed_unit {s : State} {t : TileId} (h : TileRuns s t) (ts ff : Bool) (rd rs1 : Reg) (pred : PReg) :
    Addressed s t ts ff rd pred (.vld t ts ff rd rs1 pred) (.vst t ts rd rs1 pred) (unitAddr s t rs1) := ⟨issue_runs h _, issue_runs h _⟩

theorem addressed_stride {s : State} {t : TileId} (h : TileRuns s t) (ts ff : Bool) (rd rs1 rs2 : Reg) (pred : PReg) :
    Addressed s t ts ff rd pred (.vlds t ts ff rd rs1 rs2 pred) (.vsts t ts rd rs1 rs2 pred) (strideAddr s t rs1 rs2) :=
  ⟨issue_runs h _, issue_runs h _⟩

theorem addressed_index {s : State} {t : TileId} (h : TileRuns s t) (ts ff : Bool) {iw : Size} (sc : Bool) (rd rs1 rs2 : Reg) (pred : PReg)
    (hw : (s.tile t).vl * (8 * 2 ^ iw.toNat) ≤ 4096) :
    Addressed s t ts ff rd pred (.vgather t ts ff iw sc rd rs1 rs2 pred) (.vscatter t ts iw sc rd rs1 rs2 pred) (indexAddr s t rs1 rs2 iw sc) := by
  have hn : indexTooWide s t iw = false := decide_eq_false (Nat.not_lt.2 hw)
  exact ⟨(issue_runs h _).trans (by rw [hn]; rfl), (issue_runs h _).trans (by rw [hn]; rfl)⟩

section
variable {s : State} {t : TileId} {ff : Bool} {rd : Reg} {pred : PReg} {load store : Instr} {addr : Nat → Nat}

/-- Tile-store accesses of an address form (Table 8). -/
theorem Addressed.tileStore (h : Addressed s t true ff rd pred load store addr) :
    ((∀ j, isActive (s.tile t) pred.toNat j = true → TsReads s t (addr j) ((s.tile t).ew / 8)) →
      VectorResult (exec load s) s t rd.toNat fun j => if isActive (s.tile t) pred.toNat j
        then some (leNat ((List.range ((s.tile t).ew / 8)).map fun i => s.mem.byte (tsBase t + addr j + i))) else none) ∧
    ((∀ j, isActive (s.tile t) pred.toNat j = true → TsWrites s t (addr j) ((s.tile t).ew / 8)) → exec store s = .next (retireV
      (((List.range (s.tile t).vl).filter (isActive (s.tile t) pred.toNat)).foldl
        (fun u j => u.codePut t (addr j) (leBytes ((s.tile t).ew / 8) ((s.tile t).elem rd.toNat j))) s) t id)) := by
  refine ⟨fun hr => vectorResult_loads_bytes h.load (fun j hj => elemLoads_ts _ (hr j hj)) fun j => leNat_map_lt .., fun hw => ?_⟩
  have hsteps := stepsTo_tsStores (rd := rd) (wholeLine s t pred addr) (l := (s.tile t).active pred.toNat) fun i hi => hw i (isActive_iff_mem.2 hi)
  rw [h.store, overActive_of_stepsTo false hsteps, putElems, active_eq_filter]

/-- Accesses of memory that the tile cache does not serve. -/
theorem Addressed.memory (h : Addressed s t false ff rd pred load store addr) (dpa : Nat → Nat) :
    ((∀ j, isActive (s.tile t) pred.toNat j = true → Reads s t (addr j) ((s.tile t).ew / 8) (dpa j)) →
      VectorResult (exec load s) s t rd.toNat fun j => if isActive (s.tile t) pred.toNat j
        then some (leNat ((List.range ((s.tile t).ew / 8)).map fun i => s.mem.byte (dpa j + i))) else none) ∧
    ((∀ j, isActive (s.tile t) pred.toNat j = true → Reaches s t (addr j) ((s.tile t).ew / 8) .store (dpa j)) →
      exec store s = .next (retireV { s with
        mem := storeElems dpa (fun j => leBytes ((s.tile t).ew / 8) ((s.tile t).elem rd.toNat j))
          ((List.range (s.tile t).vl).filter (isActive (s.tile t) pred.toNat)) s.mem } t id)) := by
  refine ⟨fun hr => vectorResult_loads_bytes h.load (fun j hj => elemLoads_mem _ (hr j hj)) fun j => leNat_map_lt .., fun hw => ?_⟩
  obtain ⟨w, hsteps, hb⟩ := stepsTo_memStores (rd := rd) (dpa := dpa) (wholeLine s t pred addr) (l := (s.tile t).active pred.toNat)
    fun i hi => hw i (isActive_iff_mem.2 hi)
  rw [h.store, overActive_of_stepsTo false hsteps, hb.retireV, active_eq_filter]
  exact congrArg _ (State.updTile_congr rfl)

end

/-- Settles O21: the three address forms run over their active elements, each of which can be read or written. -/
theorem vectorTileStoreAccess : Obligations.VectorTileStoreAccess := by
  unfold Obligations.VectorTileStoreAccess
  intro s t h ff sc iw rd rs1 rs2 pred
  exact ⟨(addressed_unit h true ff rd rs1 pred).tileStore, (addressed_stride h true ff rd rs1 rs2 pred).tileStore,
    fun hw => (addressed_index h true ff sc rd rs1 rs2 pred hw).tileStore⟩

end Sys2Proof.Machine

/-! PROOFS. The bytes that several stores leave, the last of them that meets a byte having written it (R124). -/

namespace Sys2Proof.Machine

-- ## The bytes that the stores of a list leave

theorem Mem.reduced_store (m : Mem) (a : Nat) (bs : List Byte) (p : Bool) :
    (m.store a bs p).reduced = m.reduced ∧ (m.store a bs p).churn = m.churn := by
  have hnote (m : Mem) (a n : Nat) : (m.noteStore a n).reduced = m.reduced ∧ (m.noteStore a n).churn = m.churn := by
    unfold Mem.noteStore
    split
    · exact ⟨rfl, rfl⟩
    · exact foldl_keeps (P := fun m' : Mem => m'.reduced = m.reduced ∧ m'.churn = m.churn) _ _
        (foldl_keeps (P := fun m' : Mem => m'.reduced = m.reduced ∧ m'.churn = m.churn) _ _ ⟨rfl, rfl⟩ fun _ _ h => h) fun _ _ h => h
  unfold Mem.store
  refine foldl_keeps (P := fun m' : Mem => m'.reduced = m.reduced ∧ m'.churn = m.churn) _ _ (hnote ..) fun m' l hm => ?_
  split
  · exact hm
  · split <;> exact hm

theorem Mem.quiet_store {m : Mem} {b n : Nat} (h : m.quiet b n) (a : Nat) (bs : List Byte) (p : Bool) : (m.store a bs p).quiet b n := by
  obtain ⟨hr, hc⟩ := Mem.reduced_store m a bs p
  rw [Mem.quiet, hr, hc]
  exact h

/-- Stores of `n` bytes each: memory stays canonical, and a byte that none of them meets is as it was. -/
theorem storeElems_apart {dpa : Nat → Nat} {bs : Nat → List Byte} {n : Nat} (hn : ∀ i, (bs i).length = n) {l : List Nat} {m : Mem}
    (h : m.wf = true) (hq : ∀ j ∈ l, m.quiet (dpa j) n) :
    (storeElems dpa bs l m).wf = true ∧ ∀ a, (∀ j ∈ l, a < dpa j ∨ dpa j + n ≤ a) → (storeElems dpa bs l m).byte a = m.byte a := by
  induction l generalizing m with
  | nil => exact ⟨h, fun _ _ => rfl⟩
  | cons i l ih =>
    obtain ⟨hwf, hbyte⟩ := Mem.stored_store h (a := dpa i) (bs := bs i) (.inr (by rw [hn]; exact hq i (List.mem_cons_self ..))) false
    obtain ⟨hwf', hrest⟩ := ih hwf fun j hj => Mem.quiet_store (hq j (List.mem_cons_of_mem _ hj)) ..
    refine ⟨hwf', fun a ha => (hrest a fun j hj => ha j (List.mem_cons_of_mem _ hj)).trans ?_⟩
    have hi := ha i (List.mem_cons_self ..)
    rw [hbyte, hn, if_neg (by omega)]

/-- A byte holds what the last of the stores that meet it has written. -/
theorem storeElems_last {dpa : Nat → Nat} {bs : Nat → List Byte} {n : Nat} (hn : ∀ i, (bs i).length = n) {l r : List Nat} {j : Nat} {m : Mem}
    (h : m.wf = true) (hq : ∀ k ∈ l ++ j :: r, m.quiet (dpa k) n) {a : Nat} (hlo : dpa j ≤ a) (hhi : a < dpa j + n)
    (hlast : ∀ k ∈ r, a < dpa k ∨ dpa k + n ≤ a) :
    (storeElems dpa bs (l ++ j :: r) m).byte a = ((bs j)[a - dpa j]?).getD 0 := by
  induction l generalizing m with
  | nil =>
    obtain ⟨hwf, hbyte⟩ := Mem.stored_store h (a := dpa j) (bs := bs j) (.inr (by rw [hn]; exact hq j (List.mem_cons_self ..))) false
    obtain ⟨-, hrest⟩ := storeElems_apart (dpa := dpa) (bs := bs) hn (l := r) hwf
      fun k hk => Mem.quiet_store (hq k (List.mem_cons_of_mem _ hk)) ..
    refine (hrest a hlast).trans ?_
    rw [hbyte, hn, if_pos ⟨hlo, hhi⟩]
  | cons i l ih =>
    exact ih (Mem.wf_store _ _ _ h) fun k hk => Mem.quiet_store (hq k (List.mem_cons_of_mem _ hk)) ..

/-- What the stores of the active elements leave, in ascending order. -/
theorem storeElems_active {T : Tile} {p n : Nat} {dpa x : Nat → Nat} {m : Mem} (h : m.wf = true)
    (hq : ∀ j, isActive T p j = true → m.quiet (dpa j) n) :
    let m' := storeElems dpa (fun j => leBytes n (x j)) ((List.range T.vl).filter (isActive T p)) m
    m'.wf = true ∧ ∀ a, ((∀ j, isActive T p j = true → a < dpa j ∨ dpa j + n ≤ a) → m'.byte a = m.byte a) ∧
      ∀ j, isActive T p j = true → dpa j ≤ a → a < dpa j + n → (∀ k, isActive T p k = true → j < k → a < dpa k ∨ dpa k + n ≤ a) →
        m'.byte a = BitVec.ofNat 8 (x j / 2 ^ (8 * (a - dpa j))) := by
  have hn (i : Nat) : (leBytes n (x i)).length = n := length_leBytes ..
  have hmem {j : Nat} : j ∈ (List.range T.vl).filter (isActive T p) ↔ isActive T p j = true := by
    rw [← active_eq_filter, isActive_iff_mem]
  obtain ⟨hwf, hapart⟩ := storeElems_apart (dpa := dpa) (bs := fun j => leBytes n (x j)) hn h fun j hj => hq j (hmem.1 hj)
  refine ⟨hwf, fun a => ⟨fun ha => hapart a fun j hj => ha j (hmem.1 hj), fun j hj hlo hhi hlast => ?_⟩⟩
  obtain ⟨l, r, hlr⟩ := List.append_of_mem (hmem.2 hj)
  have hsorted : ((List.range T.vl).filter (isActive T p)).Pairwise (· < ·) := List.pairwise_lt_range.filter _
  rw [hlr] at hsorted hmem ⊢
  have hr : ∀ k ∈ r, j < k := (List.pairwise_cons.1 (List.pairwise_append.1 hsorted).2.1).1
  rw [storeElems_last hn h (fun k hk => hq k (hmem.1 hk)) hlo hhi fun k hk => hlast k (hmem.1 (by simp [hk])) (hr k hk),
    getElem?_leBytes _ (by omega), Option.getD_some]

/-- Settles O22: the three address forms, and the bytes that their stores leave in ascending order. -/
theorem vectorMemoryAccess : Obligations.VectorMemoryAccess := by
  unfold Obligations.VectorMemoryAccess
  intro s t h ff sc iw rd rs1 rs2 pred dpa
  have hform {load store : Instr} {addr : Nat → Nat} (hf : Addressed s t false ff rd pred load store addr) := hf.memory dpa
  have hbytes (hm : s.memOk) hq := storeElems_active (T := s.tile t) (p := pred.toNat) (n := (s.tile t).ew / 8) (dpa := dpa)
    (x := (s.tile t).elem rd.toNat) hm hq
  refine ⟨?_, ?_, fun hw => ?_⟩
  · have hf := hform (addressed_unit h false ff rd rs1 pred)
    exact ⟨hf.1, fun hr => ⟨hf.2 hr, hbytes⟩⟩
  · have hf := hform (addressed_stride h false ff rd rs1 rs2 pred)
    exact ⟨hf.1, fun hr => ⟨hf.2 hr, hbytes⟩⟩
  · have hf := hform (addressed_index h false ff sc rd rs1 rs2 pred hw)
    exact ⟨hf.1, fun hr => ⟨hf.2 hr, hbytes⟩⟩

end Sys2Proof.Machine

/-! PROOFS. O23: vector accesses that meet an exception -/

namespace Sys2Proof.Machine

-- ## An element that meets an exception

/-- The active elements below an active one, it, and those above it. -/
theorem active_split {T : Tile} {p i : Nat} (h : isActive T p i = true) :
    ∃ r, T.active p = (List.range i).filter (isActive T p) ++ i :: r := by
  have hvl : i < T.vl := (Tile.mem_active.1 (isActive_iff_mem.1 h)).1
  obtain ⟨d, hd⟩ := Nat.exists_eq_add_of_le (Nat.succ_le_of_lt hvl)
  rw [active_eq_filter, hd, List.range_add, List.filter_append, List.range_succ, List.filter_append, List.filter_cons, if_pos h, List.filter_nil,
    List.append_assoc]
  exact ⟨_, rfl⟩

/-- The first active element is another one where there is one below. -/
theorem headD_ne_iff {T : Tile} {p i : Nat} (r : List Nat) :
    i ≠ ((List.range i).filter (isActive T p) ++ i :: r).headD 0 ↔ ∃ j, isActive T p j = true ∧ j < i := by
  cases hl : (List.range i).filter (isActive T p) with
  | nil =>
    rw [List.filter_eq_nil_iff] at hl
    simp only [List.nil_append, List.headD_cons, ne_eq, not_true, false_iff]
    rintro ⟨j, hj, hlt⟩
    exact hl j (List.mem_range.2 hlt) hj
  | cons a l =>
    have ha : a ∈ (List.range i).filter (isActive T p) := hl ▸ List.mem_cons_self ..
    rw [List.mem_filter, List.mem_range] at ha
    exact iff_of_true (by simp only [List.cons_append, List.headD_cons]; omega) ⟨a, ha.2, ha.1⟩

/-- The exception of an element, with what the instruction adds to its access bits. -/
def elemExc (ff : Bool) (e : Exc) : Exc := { e with access := e.access + (if e.idx ≤ 3 then 4 + 8 * b2n ff else 0) }

theorem elemExc_of_high {ff : Bool} {e : Exc} (h : 3 < e.idx) : elemExc ff e = e := by
  rw [elemExc, if_neg (Nat.not_le.2 h)]
  rfl

/-- The elements below it done, an element's exception ends the instruction, or shortens it in a first-fault form. -/
theorem overActive_faults {s w w' : State} {t : TileId} {pred : PReg} {ff : Bool} {body : State → Nat → Option Exc × State} {i : Nat} {e : Exc}
    (hi : isActive (s.tile t) pred.toNat i = true) (hsteps : stepsTo body ((List.range i).filter (isActive (s.tile t) pred.toNat)) s w)
    (hbody : body w i = (some e, w')) :
    ((ff = true ∧ ∃ j, isActive (s.tile t) pred.toNat j = true ∧ j < i) → overActive s t pred ff body = retireV w' t fun T => { T with vl := i }) ∧
    (¬ (ff = true ∧ ∃ j, isActive (s.tile t) pred.toNat j = true ∧ j < i) →
      overActive s t pred ff body = takeExc w' t (elemExc ff e) (some i)) := by
  obtain ⟨r, hr⟩ := active_split hi
  rw [overActive, hr, elemLoop_of_stepsTo (i :: r) hsteps, elemLoop, hbody]
  have hcond : (ff && i != ((List.range i).filter (isActive (s.tile t) pred.toNat) ++ i :: r).headD 0) = true
      ↔ ff = true ∧ ∃ j, isActive (s.tile t) pred.toNat j = true ∧ j < i := by
    rw [Bool.and_eq_true, bne_iff_ne, headD_ne_iff]
  exact ⟨fun hc => if_pos (hcond.2 hc), fun hc => if_neg fun h => hc (hcond.1 h)⟩

/-- What a load leaves that meets an exception at element `i`: the elements below are done. -/
theorem loads_fault {s w w' : State} {t : TileId} {c : Instr} {pred : PReg} {ff : Bool} {body : State → Nat → Option Exc × State} {rd i : Nat}
    {f : Nat → Nat} {e : Exc} (hexec : exec c s = .next (overActive s t pred ff body)) (hi : isActive (s.tile t) pred.toNat i = true)
    (hf : ∀ j, f j < 2 ^ (s.tile t).ew)
    (hsteps : stepsTo body ((List.range i).filter (isActive (s.tile t) pred.toNat)) s w) (hbody : body w i = (some e, w'))
    (hb : Beside s w' t s.mem (((List.range i).filter (isActive (s.tile t) pred.toNat)).foldl (fun T' i => T'.setV rd i (f i)) (s.tile t)).vRegs) :
    ∃ v, (∀ k j, j < (s.tile t).vlmax → ({ s.tile t with vRegs := v } : Tile).elem k j =
        if k = rd ∧ isActive (s.tile t) pred.toNat j = true ∧ j < i then f j else (s.tile t).elem k j) ∧
      ((ff = true ∧ ∃ j, isActive (s.tile t) pred.toNat j = true ∧ j < i) →
        exec c s = .next (s.updTile t fun T => { T with vRegs := v, vl := i, vstart := 0, pc := T.pc + 4, unparked := false })) ∧
      (¬ (ff = true ∧ ∃ j, isActive (s.tile t) pred.toNat j = true ∧ j < i) →
        exec c s = .next (takeExc (s.updTile t fun T => { T with vRegs := v }) t (elemExc ff e) (some i))) := by
  obtain ⟨hretires, htraps⟩ := overActive_faults (ff := ff) hi hsteps hbody
  refine ⟨(((List.range i).filter (isActive (s.tile t) pred.toNat)).foldl (fun T' i => T'.setV rd i (f i)) (s.tile t)).vRegs,
    fun k j hj => ?_, fun hc => ?_, fun hc => ?_⟩
  · rw [foldl_setV_self, foldl_setV_elem _ _ _ _ _ _ hj, Nat.mod_eq_of_lt (hf j)]
    refine ite_of_iff (and_congr_right fun _ => ?_)
    rw [List.mem_filter, List.mem_range, and_comm]
  · rw [hexec, hretires hc, hb.retireV]
    rfl
  · rw [hexec, htraps hc, hb.takeExc]

theorem Beside.loadTs {s u : State} {t : Nat} {v : List (Nat × BitVec 4096)} (h : Beside s u t s.mem v) (off n : Nat) :
    loadTs u t off n = Machine.loadTs s t off n := by
  unfold Machine.loadTs
  rw [h.tsLoadBad, State.tsPoison, h.mem, State.tsNat, State.tsRead, h.mem]
  rfl

/-- The exception of a tile-store load that cannot be done. -/
theorem loadTs_fails {s : State} {t off n : Nat} (h : ¬ TsReads s t off n) : ∃ e, loadTs s t off n = .error e ∧
    (off % n ≠ 0 → e.idx = 4 ∧ e.va = off) ∧ (off % n = 0 → tsLoadBad s t off n = true → e.idx = 7 ∧ e.va = off) ∧
    (off % n = 0 → tsLoadBad s t off n = false → e.idx = 6) := by
  by_cases h0 : off % n = 0
  · cases hb : tsLoadBad s t off n with
    | true => exact ⟨_, loadTs_bad h0 hb, fun h => absurd h0 h, fun _ _ => ⟨rfl, rfl⟩, fun _ => nofun⟩
    | false =>
      obtain ⟨a, ha⟩ := Option.ne_none_iff_exists'.1 fun hp => h ⟨h0, hb, hp⟩
      refine ⟨poisonExc a, ?_, fun h => absurd h0 h, fun _ => nofun, fun _ _ => rfl⟩
      rw [loadTs, if_neg (by omega), hb, ha]
      rfl
  · exact ⟨_, loadTs_misaligned h0, fun _ => ⟨rfl, rfl⟩, fun h => absurd h h0, fun h => absurd h h0⟩

/-- The exception of a tile-store store that cannot be done. -/
theorem storeTs_fails {s : State} {t off n : Nat} (h : ¬ TsWrites s t off n) (x : Nat) :
    storeTs s t off n x = (some { idx := if off % n ≠ 0 then 4 else 7, va := off }, s) := by
  by_cases h0 : off % n = 0
  · rw [if_neg (by omega)]
    exact storeTs_bad h0 (eq_true_of_ne_false fun hb => h ⟨h0, hb⟩) x
  · rw [if_pos h0]
    exact storeTs_misaligned h0 x

theorem putElems_parcels (t : TileId) (addr : Nat → Nat) (bs : Nat → List Byte) (l : List Nat) (s : State) :
    (putElems t addr bs l s).parcels = s.parcels :=
  foldl_keeps (P := fun u : State => u.parcels = s.parcels) _ _ rfl fun _ _ h => (codePut_parcels ..).trans h

theorem putElems_tile (t : TileId) (addr : Nat → Nat) (bs : Nat → List Byte) (l : List Nat) (s : State) :
    ∃ q d r, (putElems t addr bs l s).tile t = { s.tile t with sendQ := q, decQ := d, decRun := r } := by
  refine foldl_keeps (P := fun u : State => ∃ q d r, u.tile t = { s.tile t with sendQ := q, decQ := d, decRun := r }) _ _ ⟨_, _, _, rfl⟩
    fun u j ⟨q, d, r, hu⟩ => ?_
  obtain ⟨q', d', r', h'⟩ := codePut_tile u t (addr j) (bs j)
  exact ⟨q', d', r', by rw [h', hu]⟩

theorem Beside.takeExc_stored {s u : State} {t : Nat} {m : Mem} (h : Beside s u t m (s.tile t).vRegs) (e : Exc) (vst : Option Nat) :
    Machine.takeExc u t e vst = Machine.takeExc { s with mem := m } t e vst := by
  have hsame : (State.updTile { s with mem := m } t fun T => { T with vRegs := (s.tile t).vRegs }) = State.updTile { s with mem := m } t id :=
    State.updTile_congr rfl
  rw [h.takeExc, hsame, takeExc_updTile_id]

/-- Settles O23: the elements below the exception by their steps, then its element. -/
theorem vectorLoadFault : Obligations.VectorLoadFault := by
  unfold Obligations.VectorLoadFault
  intro s t h ff rd rs1 pred i dpa
  extract_lets T n act addr below word loads stored
  intro hi
  have hbelow {j : Nat} (hj : j ∈ below) : act j = true ∧ j < i := by
    rw [List.mem_filter, List.mem_range] at hj
    exact ⟨hj.2, hj.1⟩
  have hnew {w : State} {m : Mem} {v : List (Nat × BitVec 4096)} (hb : Beside s w t m v) : (w.tile t).ew / 8 = n := by rw [hb.tile]; rfl
  have hform (ts : Bool) := addressed_unit h ts ff rd rs1 pred
  refine ⟨fun hreads hbad => ?_, fun hreads => ?_, fun hwrites hbad => ?_, fun hreach => ?_⟩
  · obtain ⟨w, hsteps, hb⟩ := stepsTo_loads (l := below) fun j hj => elemLoads_ts (rd := rd) s.freeCtr (hreads j (hbelow hj).1 (hbelow hj).2)
    obtain ⟨e, he, hP⟩ := loadTs_fails hbad
    have hbody : loadElem s.freeCtr t true rd addr w i = (some e, w) := by
      unfold loadElem
      simp only [hnew hb, if_true, hb.loadTs, he]
    obtain ⟨v, hv, hretires, htraps⟩ := loads_fault (hform true).load hi (fun j => leNat_map_lt ..) hsteps hbody hb
    exact ⟨v, hv, hretires, fun hc => ⟨_, htraps hc, hP⟩⟩
  · obtain ⟨w, hsteps, hb⟩ := stepsTo_loads (l := below) fun j hj => elemLoads_mem (rd := rd) s.freeCtr (hreads j (hbelow hj).1 (hbelow hj).2)
    have hfault {e : Exc} {w' : State} {P : Exc → Prop} (hload : loadMem s.freeCtr w t (addr i) n = (.error e, w'))
        (hb' : Beside s w' t s.mem (below.foldl (fun T' i => T'.setV rd.toNat i
          (leNat ((List.range n).map fun b => s.mem.byte (dpa i + b)))) T).vRegs) (hP : P (elemExc ff e)) :
        loads (.vld t false ff rd rs1 pred) dpa P := by
      have hbody : loadElem s.freeCtr t false rd addr w i = (some e, w') := by
        unfold loadElem
        simp only [hnew hb, Bool.false_eq_true, if_false, hload]
      obtain ⟨v, hv, hretires, htraps⟩ := loads_fault (hform false).load hi (fun j => leNat_map_lt ..) hsteps hbody hb'
      exact ⟨v, hv, hretires, fun hc => ⟨_, htraps hc, hP⟩⟩
    refine ⟨fun h0 => ?_, fun hr hp => ?_, fun p e r h0 hh hperm => ?_⟩
    · exact hfault (if_pos h0) hb ⟨rfl, rfl⟩
    · have hsome : ((List.range n).any fun b => s.mem.poisoned (dpa i + b)) = true := by simpa using hp
      have hload := loadMem_of_reaches (hb.reaches hr) (s.tile t).lanes_pos (Tile.lanes_dvd _) s.freeCtr
      rw [hb.mem, hsome] at hload
      exact hfault hload hb.updTile_id ⟨rfl, rfl⟩
    · have hload : loadMem s.freeCtr w t (addr i) n = (.error (walkExc 1 r e.level (addr i) (accBits .load) 0 0), w.updTile t id) := by
        unfold loadMem
        rw [if_neg (by omega), translate_of_perm (hb.hits hh) (by rw [hb.permReason, hperm])]
      exact hfault hload hb.updTile_id ⟨rfl, rfl, rfl⟩
  · have hsteps := stepsTo_tsStores (rd := rd) (wholeLine s t pred addr) (l := below) fun j hj => hwrites j (hbelow hj).1 (hbelow hj).2
    obtain ⟨q, d, r, htile⟩ := putElems_tile t addr word below s
    have hw : ¬ TsWrites (putElems t addr word below s) t (addr i) n := by
      unfold TsWrites tsStoreBad at hbad ⊢
      rwa [inboxOf_congr (putElems_parcels ..)]
    have hbody : storeElem t true rd addr (wholeLine s t pred addr) (putElems t addr word below s) i
        = (some { idx := if addr i % n ≠ 0 then 4 else 7, va := addr i }, putElems t addr word below s) := by
      have hn : ((putElems t addr word below s).tile t).ew / 8 = n := by rw [htile]; rfl
      unfold storeElem
      simp only [hn, if_true, storeTs_fails hw]
    have hhigh : 3 < (if addr i % n ≠ 0 then 4 else 7) := by split <;> decide
    exact (hform true).store.trans (congrArg Host.Outcome.next (((overActive_faults (ff := false) hi hsteps hbody).2 (by simp)).trans
      (by rw [elemExc_of_high hhigh]; rfl)))
  · obtain ⟨w, hsteps, hb⟩ := stepsTo_memStores (rd := rd) (dpa := dpa) (wholeLine s t pred addr) (l := below)
      fun j hj => hreach j (hbelow hj).1 (hbelow hj).2
    have hfault {e : Exc} {w' : State} (hstore : ∀ x b, storeMem w t (addr i) n x b = (some e, w'))
        (hb' : Beside s w' t stored.mem (s.tile t).vRegs) :
        exec (.vst t false rd rs1 pred) s = .next (takeExc stored t (elemExc false e) (some i)) := by
      have hbody : storeElem t false rd addr (wholeLine s t pred addr) w i = (some e, w') := by
        unfold storeElem
        simp only [hnew hb, Bool.false_eq_true, if_false, hstore]
      exact (hform false).store.trans (congrArg Host.Outcome.next (((overActive_faults (ff := false) hi hsteps hbody).2 (by simp)).trans
        (hb'.takeExc_stored _ _)))
    refine ⟨fun h0 => (hfault (fun _ _ => if_pos h0) hb).trans (by rw [elemExc_of_high (Nat.lt_succ_self 3)]; rfl), fun p e r h0 hh hperm =>
      ⟨elemExc false (walkExc 1 r e.level (addr i) (accBits .store) 0 0), hfault (fun x b => ?_) hb.updTile_id, rfl, rfl, rfl⟩⟩
    · unfold storeMem
      rw [if_neg (by omega), translate_of_perm (hb.hits hh) (by rw [hb.permReason, hperm])]

end Sys2Proof.Machine

/-! PROOFS. O24: hashing, unpacking, dictionary lookup -/

namespace Sys2Proof.Machine

-- ## Hash, unpack, dictionary

theorem Tile.active_nodup (T : Tile) (p : Nat) : (T.active p).Nodup := by
  rw [active_eq_filter]
  exact List.nodup_range.filter _

theorem Beside.badByte {s u : State} {t : Nat} {v : List (Nat × BitVec 4096)} (h : Beside s u t s.mem v) (off n : Nat) :
    badByte u t off n = Machine.badByte s t off n := by
  unfold Machine.badByte State.tsPoison
  simp only [h.tsLoadBad, h.mem]

theorem Beside.tsRead {s u : State} {t : Nat} {v : List (Nat × BitVec 4096)} (h : Beside s u t s.mem v) (off n : Nat) :
    u.tsRead t off n = s.tsRead t off n := by
  rw [State.tsRead, State.tsRead, h.mem]

/-- No bits of a register lie beyond its elements. -/
theorem Tile.elem_beyond {T : Tile} {r i : Nat} (h : T.vlmax ≤ i) : T.elem r i = 0 := by
  have hle : 4096 ≤ T.ew * i := by
    have hlanes := T.lanes_mul_vlmax
    have hew : T.ew = 8 * (T.ew / 8) := (Nat.mul_div_cancel' ⟨_, rfl⟩).symm
    calc 4096 = 8 * (T.ew / 8 * T.vlmax) := by rw [hlanes]
      _ = T.ew * T.vlmax := by rw [← Nat.mul_assoc, ← hew]
      _ ≤ T.ew * i := Nat.mul_le_mul_left _ h
  rw [Tile.elem, elemOf, Nat.div_eq_of_lt (BitVec.toNat_lt_twoPow_of_le hle), Nat.zero_mod]

/-- The element that VHASH reads is one that it has not written yet. -/
theorem stepsTo_hash {s : State} {t : TileId} {p rd rs1 : Nat} {body : State → Nat → Option Exc × State} (g : Nat → Nat)
    (hbody : ∀ u i, body u i = (none, u.updTile t fun T => T.setV rd i (g (T.elem rs1 i)))) :
    ∃ w, stepsTo body ((s.tile t).active p) s w ∧ Beside s w t s.mem
      (((s.tile t).active p).foldl (fun T' i => T'.setV rd i (g ((s.tile t).elem rs1 i))) (s.tile t)).vRegs := by
  refine stepsTo_of_split (R := fun done u => Beside s u t s.mem
    (done.foldl (fun T' i => T'.setV rd i (g ((s.tile t).elem rs1 i))) (s.tile t)).vRegs) [] _ rfl (Beside.refl s t) fun done i rest u hall hu => ?_
  have hnew : i ∉ done := by
    have hnodup := (s.tile t).active_nodup p
    rw [← List.nil_append ((s.tile t).active p), ← hall, List.nodup_append] at hnodup
    exact fun hi => hnodup.2.2 i hi i (List.mem_cons_self ..) rfl
  have helem : (u.tile t).elem rs1 i = (s.tile t).elem rs1 i := by
    rw [hu.tile, foldl_setV_self]
    by_cases hvl : i < (s.tile t).vlmax
    · rw [foldl_setV_elem _ _ _ _ _ _ hvl, if_neg fun h => hnew h.2]
    · obtain ⟨m, hm⟩ := foldl_setV_rest rd (fun i => g ((s.tile t).elem rs1 i)) done (s.tile t)
      have hvlmax : (done.foldl (fun T' i => T'.setV rd i (g ((s.tile t).elem rs1 i))) (s.tile t)).vlmax = (s.tile t).vlmax := by rw [hm]; rfl
      rw [Tile.elem_beyond (hvlmax ▸ Nat.le_of_not_lt hvl), Tile.elem_beyond (Nat.le_of_not_lt hvl)]
  have hset := hu.setV rd i (g ((s.tile t).elem rs1 i))
  rw [foldl_setV_self] at hset
  refine ⟨_, hbody u i, ?_⟩
  rw [List.foldl_append, State.updTile_congr (g := fun T => T.setV rd i (g ((s.tile t).elem rs1 i))) (by rw [helem])]
  exact hset

/-- A body that reads the tile store at an address of its own loads its element. -/
theorem elemLoads_checked {s : State} {t : TileId} {body : State → Nat → Option Exc × State} {rd i off n : Nat} {f : State → Nat}
    (hbody : ∀ u v, Beside s u t s.mem v → body u i = match badByte u t off n with
      | some e => (some e, u)
      | none => (none, u.updTile t fun T => T.setV rd i (f u)))
    (hf : ∀ u v, Beside s u t s.mem v → f u = f s) (hgood : badByte s t off n = none) : ElemLoads s t body rd i (f s) := by
  intro u v hu
  refine ⟨_, ?_, hu.setV rd i (f s)⟩
  rw [hbody u v hu, hu.badByte, hgood]
  dsimp only
  rw [hf u v hu]

theorem dictIndex_fresh {T : Tile} (h : T.dictIdx = none ∨ T.vstart = 0) (rd : Reg) (w j : Nat) :
    dictIndex T rd w j = elemOf w (T.vGet rd.toNat).toNat j := by
  unfold dictIndex
  split
  next k hk =>
    have h0 : T.vstart = 0 := h.resolve_left (by rw [hk]; nofun)
    refine if_neg ?_
    rw [h0]
    simp only [Bool.and_eq_true, decide_eq_true_eq]
    rintro ⟨⟨⟨-, hne⟩, heq⟩, -⟩
    exact hne heq.symm
  next => rfl

theorem dictIndex_resumed {T : Tile} {k : DictKept} (hk : T.dictIdx = some k) (hpc : k.pc = T.pc) (h0 : k.at_ ≠ 0) (hat : k.at_ = T.vstart.toNat)
    (rd : Reg) (w j : Nat) :
    dictIndex T rd w j = if elemOf w (T.vGet rd.toNat).toNat j = elemOf w k.left.toNat j then elemOf w k.indices.toNat j
      else elemOf w (T.vGet rd.toNat).toNat j := by
  unfold dictIndex
  rw [hk]
  simp [hpc, h0, ← hat]

theorem Tile.dropIndices_rest (T : Tile) : ∃ k, T.dropIndices = { T with dictIdx := k } := by
  unfold Tile.dropIndices
  split
  · exact ⟨_, rfl⟩
  · exact ⟨T.dictIdx, rfl⟩

theorem loadTs_dropIndices (s : State) (t off n : Nat) : loadTs (s.updTile t Tile.dropIndices) t off n = loadTs s t off n := by
  obtain ⟨k, hk⟩ := (s.tile t).dropIndices_rest
  rw [State.updTile_congr (g := fun T => { T with dictIdx := k }) hk]
  have hhalf : halfB (s.updTile t fun T => { T with dictIdx := k }) t = halfB s t := by
    unfold halfB
    rw [State.updTile_tile]
    rfl
  have hbad : tsLoadBad (s.updTile t fun T => { T with dictIdx := k }) t off n = tsLoadBad s t off n := by
    unfold tsLoadBad
    rw [hhalf]
    rfl
  unfold loadTs
  rw [hbad]
  rfl

/-- Settles O24: each element by its own step. -/
theorem hashUnpackDictionary : Obligations.HashUnpackDictionary := by
  unfold Obligations.HashUnpackDictionary
  intro s t hrun slot n1 sx iw rd rs1 rs2 pred
  extract_lets T w act h x y writes len key n bit at_ part iw8 field index entry
  refine ⟨fun hk j => ?_, fun k j hk hpc h0 hat => ?_, fun hw hlen => ?_, fun hw h1 h64 hgood => ?_, fun hn hgood => ?_, fun hfit hx hgood => ?_⟩
  · exact dictIndex_fresh hk rd iw8 j
  · exact dictIndex_resumed hk hpc h0 hat rd iw8 j
  · have hexec : exec (.vhash t slot rd rs1 pred) s = .next (overActive s t pred false fun u i => (none, u.updTile t fun T =>
        T.setV rd.toNat i (keyHash h.2 (leBytes (if h.1 = 0 then 8 else h.1) (T.elem rs1.toNat i))))) := by
      refine (issue_runs hrun _).trans (congrArg _ (if_neg ?_))
      have hw' : (s.tile t).ew = 64 := hw
      have hlen' : (hashSlot s t slot.toNat).1 ≤ 8 := hlen
      simp [hw', hlen']
    obtain ⟨v, hsteps, hb⟩ := stepsTo_hash (s := s) (t := t) (p := pred.toNat) (rd := rd.toNat) (rs1 := rs1.toNat)
      (fun z => keyHash h.2 (leBytes (if h.1 = 0 then 8 else h.1) z)) fun u i => rfl
    exact vectorResult_of_stepsTo hexec hsteps hb
  · have hlegal : ¬ ((decide ((s.tile t).ew ≠ 64) || decide (len = 0) || decide (64 < len)) = true) := by
      have hw' : (s.tile t).ew = 64 := hw
      simp only [Bool.or_eq_true, decide_eq_true_eq]
      omega
    exact vectorResult_loads ((issue_runs hrun _).trans (congrArg _ (if_neg hlegal))) fun j hj =>
      elemLoads_checked (f := fun u => keyHash h.2 (u.tsRead t (key j) len)) (fun u v _ => rfl)
        (fun u v hu => by rw [hu.tsRead]) (hgood j hj)
  · exact vectorResult_loads ((issue_runs hrun _).trans (congrArg _ (if_neg (Nat.not_lt.2 hn)))) fun j hj =>
      elemLoads_checked (f := fun u => if sx then ofInt w (toSigned n (u.tsNat t (at_ j) ((bit j % 8 + n + 7) / 8) / 2 ^ (bit j % 8) % 2 ^ n))
        else u.tsNat t (at_ j) ((bit j % 8 + n + 7) / 8) / 2 ^ (bit j % 8) % 2 ^ n) (fun u v _ => rfl)
        (fun u v hu => by rw [State.tsNat, hu.tsRead]; rfl) (hgood j hj)
  · obtain ⟨k, hk⟩ := (s.tile t).dropIndices_rest
    have hdrop : (s.updTile t Tile.dropIndices).tile t = { s.tile t with dictIdx := k } := (State.updTile_tile ..).trans hk
    have hfits : ¬ (indexTooWide s t iw = true) := by rw [indexTooWide, decide_eq_true_eq]; exact Nat.not_lt.2 hfit
    have hact : isActive ((s.updTile t Tile.dropIndices).tile t) pred.toNat = act := by rw [hdrop]; rfl
    have hew : ((s.updTile t Tile.dropIndices).tile t).ew = w := by rw [hdrop]; rfl
    have hlookup := vectorResult_loads (s := s.updTile t Tile.dropIndices) (t := t) (pred := pred) (ff := false) (rd := rd.toNat)
      (o := exec (.vdict t iw rd rs1 rs2 pred) s) (f := fun j => s.tsNat t (entry j) (w / 8)) ((issue_runs hrun _).trans (congrArg _ (if_neg hfits))) fun j hj => ?_
    · rw [hact, hew] at hlookup
      exact hlookup
    · rw [hact] at hj
      obtain ⟨hlt, hreads⟩ := hgood j hj
      intro u v hu
      have hload : loadTs u t (entry j) (w / 8) = .ok (s.tsNat t (entry j) (w / 8)) := by
        rw [hu.loadTs, loadTs_dropIndices, loadTs_reads hreads]
      refine ⟨_, ?_, hu.setV rd.toNat j _⟩
      have hx' : ¬ (sVal s t rs1 % ((s.tile t).ew / 8) ≠ 0) := Classical.not_not.2 hx
      have hlt' : ¬ (sVal s t rs2 ≤ dictIndex (s.tile t) rd (8 * 2 ^ iw.toNat) j) := Nat.not_le.2 hlt
      refine (if_neg hx').trans ((if_neg hlt').trans ?_)
      have hload' : loadTs u t ((sVal s t rs1 + dictIndex (s.tile t) rd (8 * 2 ^ iw.toNat) j * ((s.tile t).ew / 8)) % 2 ^ 64) ((s.tile t).ew / 8)
          = .ok (s.tsNat t (entry j) (w / 8)) := hload
      rw [hload']

end Sys2Proof.Machine

/-! PROOFS. A range of the tile stores, written line by line. -/

namespace Sys2Proof.Machine

-- ## A range written line by line

theorem Stored.trans {m m1 m2 : Mem} {a : Nat} {x y : List Byte} (h1 : Stored m m1 a x) (h2 : Stored m1 m2 (a + x.length) y) :
    Stored m m2 a (x ++ y) := by
  obtain ⟨-, hb1⟩ := h1
  obtain ⟨hwf, hb2⟩ := h2
  refine ⟨hwf, fun b => ?_⟩
  rw [hb2, hb1, List.length_append]
  by_cases hy : a + x.length ≤ b ∧ b < a + x.length + y.length
  · rw [if_pos hy, if_pos (by omega), List.getElem?_append_right (by omega)]
    congr 2
    omega
  · rw [if_neg hy]
    by_cases hx : a ≤ b ∧ b < a + x.length
    · rw [if_pos hx, if_pos (by omega), List.getElem?_append_left (by omega)]
    · rw [if_neg hx, if_neg (by omega)]

theorem Stored.nil {m : Mem} (h : m.wf = true) (a : Nat) : Stored m m a [] :=
  ⟨h, fun b => by rw [if_neg (by simp)]⟩

theorem Stored.read {m m' : Mem} {a : Nat} {bs : List Byte} (h : Stored m m' a bs) : m'.read a bs.length = bs := by
  refine List.ext_getElem (by simp [Mem.read]) fun i hi hi' => ?_
  simp only [Mem.read, List.getElem_map, List.getElem_range]
  rw [h.2, if_pos (by omega), Nat.add_sub_cancel_left, List.getElem?_eq_getElem hi', Option.getD_some]

theorem Stored.byte_outside {m m' : Mem} {a : Nat} {bs : List Byte} (h : Stored m m' a bs) {b : Nat} (hb : b < a ∨ a + bs.length ≤ b) :
    m'.byte b = m.byte b := by
  rw [h.2, if_neg (by omega)]

/-- Writing the part of a range that lies in one line. -/
def putLine (dpa : Nat) (bs : List (Byte × Bool)) (s : State) (l : Nat) : State :=
  let part := (bs.drop (max dpa l - dpa)).take (min (l + 64) (dpa + bs.length) - max dpa l)
  fabricWrite s (max dpa l) (part.map (·.1)) (part.any (·.2))

theorem putLines_eq (s : State) (dpa : Nat) (bs : List (Byte × Bool)) : putLines s dpa bs = (linesOf dpa bs.length).foldl (putLine dpa bs) s := rfl

/-- The lines of a range written one after another, in the cellar where nothing moves, or in the tile stores. -/
theorem putLine_lines {s : State} {dpa : Nat} {bs : List (Byte × Bool)} (hok : s.memOk) (hlow : 0x100000000000 ≤ dpa)
    (hhigh : dpa + bs.length ≤ 0x100010000000) (k : Nat) (hk : k ≤ (dpa + bs.length - 1) / 64 - dpa / 64 + 1) (hne : bs ≠ []) :
    ∃ m, ((List.range k).map fun i => (dpa / 64 + i) * 64).foldl (putLine dpa bs) s = { s with mem := m } ∧
      Stored s.mem m dpa ((bs.take (min ((dpa / 64 + k) * 64) (dpa + bs.length) - dpa)).map (·.1)) := by
  have hlen := List.length_pos_iff.2 hne
  induction k with
  | zero => 
    refine ⟨s.mem, rfl, ?_⟩
    have h0 : min ((dpa / 64 + 0) * 64) (dpa + bs.length) - dpa = 0 := by omega
    rw [h0]
    exact Stored.nil hok dpa
  | succ k ih =>
    obtain ⟨m, hm, hst⟩ := ih (by omega)
    have hfirst : max dpa ((dpa / 64 + k) * 64) = dpa + (min ((dpa / 64 + k) * 64) (dpa + bs.length) - dpa) := by omega
    have hlast : min ((dpa / 64 + (k + 1)) * 64) (dpa + bs.length) - dpa
        = (min ((dpa / 64 + k) * 64) (dpa + bs.length) - dpa) + (min ((dpa / 64 + k) * 64 + 64) (dpa + bs.length) - max dpa ((dpa / 64 + k) * 64)) := by
      omega
    generalize hi : min ((dpa / 64 + k) * 64) (dpa + bs.length) - dpa = i at hst hfirst hlast
    rw [List.range_succ, List.map_append, List.foldl_append, hm, List.map_cons, List.map_nil, List.foldl_cons, List.foldl_nil, putLine]
    have hpart : 0 < min ((dpa / 64 + k) * 64 + 64) (dpa + bs.length) - max dpa ((dpa / 64 + k) * 64) := by omega
    have hend : i + (min ((dpa / 64 + k) * 64 + 64) (dpa + bs.length) - max dpa ((dpa / 64 + k) * 64)) ≤ bs.length := by omega
    generalize min ((dpa / 64 + k) * 64 + 64) (dpa + bs.length) - max dpa ((dpa / 64 + k) * 64) = j at hlast hpart hend
    have hpartlen : ((bs.drop i).take j).length = j := by rw [List.length_take, List.length_drop]; omega
    have htakelen : ((bs.take i).map (·.1)).length = i := by rw [List.length_map, List.length_take]; omega
    have hown : ∀ q, q < (((bs.drop i).take j).map (·.1)).length → ownPlace (dpa + i + q) := fun q hq => by
      rw [List.length_map, hpartlen] at hq
      exact .inr (by omega)
    have hsome : ((bs.drop i).take j).map (·.1) ≠ [] := by
      rw [ne_eq, List.map_eq_nil_iff, ← List.length_eq_zero_iff]
      omega
    rw [hfirst, Nat.add_sub_cancel_left, fabricWrite_of_ownPlace _ _ hsome hown, hlast, List.take_add, List.map_append]
    refine ⟨_, rfl, hst.trans ?_⟩
    rw [htakelen]
    exact Mem.stored_store hst.1 (.inl (by omega)) _

/-- What is written to a range of the tile stores stands there. -/
theorem putLines_tileStore {s : State} {dpa : Nat} {bs : List (Byte × Bool)} (hok : s.memOk) (hlow : 0x100000000000 ≤ dpa)
    (hhigh : dpa + bs.length ≤ 0x100010000000) : ∃ m, putLines s dpa bs = { s with mem := m } ∧ Stored s.mem m dpa (bs.map (·.1)) := by
  rw [putLines_eq, linesOf]
  by_cases hne : bs = []
  · subst hne
    exact ⟨s.mem, rfl, Stored.nil hok dpa⟩
  · have hlen := List.length_pos_iff.2 hne
    obtain ⟨m, hm, hst⟩ := putLine_lines hok hlow hhigh _ (Nat.le_refl _) hne
    have hall : min ((dpa / 64 + ((dpa + bs.length - 1) / 64 - dpa / 64 + 1)) * 64) (dpa + bs.length) - dpa = bs.length := by omega
    rw [if_neg (Nat.ne_of_gt hlen)]
    exact ⟨m, hm, by rwa [hall, List.take_length] at hst⟩

end Sys2Proof.Machine

/-! PROOFS. O28: launching a send and delivering its record. -/

namespace Sys2Proof.Machine

-- ## Launching a send

theorem launchSend_no_route {s : State} {t : Nat} (h : routeOf s t (s.tile t).obxRoute.toNat = none) (n : Nat) : launchSend s t n = takeIllegal s t := by
  unfold launchSend
  dsimp only
  rw [h]

/-- A length that R88 or R160 forbids. -/
theorem launchSend_bad_length {s : State} {t n : Nat}
    (h : n = 0 ∨ 65536 < n ∨ ∃ r, routeOf s t (s.tile t).obxRoute.toNat = some r ∧ r.fan = true ∧ n < 16) : launchSend s t n = takeIllegal s t := by
  cases hr : routeOf s t (s.tile t).obxRoute.toNat with
  | none => exact launchSend_no_route hr n
  | some r =>
    unfold launchSend
    dsimp only
    rw [hr]
    refine if_pos ?_
    simp only [Bool.or_eq_true, Bool.and_eq_true, decide_eq_true_eq]
    rcases h with h | h | ⟨r', hr', h⟩
    · exact .inl (.inl h)
    · exact .inl (.inr h)
    · rw [hr, Option.some_inj] at hr'
      exact .inr (hr' ▸ h)

/-- The header that a send keeps of its source: that of a fan batch. -/
def sendHead (s : State) (t : Nat) (r : Route) : List Byte := if r.fan then (tsSource s t (s.tile t).obxSrc.toNat 16).map (·.1) else []

theorem launchSend_poisoned {s : State} {t n a : Nat} {r : Route} (hr : routeOf s t (s.tile t).obxRoute.toNat = some r) (hfan : r.fan = true)
    (hn : 16 ≤ n) (hmax : n ≤ 65536) (h : sourcePoison s t (s.tile t).obxSrc.toNat 16 = some a) :
    launchSend s t n = takeExc s t (poisonExc a) none := by
  unfold launchSend
  have hlen : ¬ ((decide (n = 0) || decide (65536 < n) || r.fan && decide (n < 16)) = true) := by simp; omega
  simp only [hr, if_neg hlen]
  simp only [hfan, if_true, h]

/-- A send of good length whose header can be read is queued, unless its header is bad or the queue is full. -/
theorem launchSend_eq {s : State} {t n : Nat} {r : Route} (hr : routeOf s t (s.tile t).obxRoute.toNat = some r)
    (h0 : 1 ≤ n) (hmax : n ≤ 65536) (hn : r.fan = true → 16 ≤ n) (h : r.fan = true → sourcePoison s t (s.tile t).obxSrc.toNat 16 = none) :
    launchSend s t n = if (r.fan && fanBad (sendHead s t r) n) = true then takeIllegal s t else if 16 ≤ (s.tile t).sendQ.length then s
      else retire s t fun T => { T with
        sendQ := T.sendQ ++ [{ route := r.id, src := (s.tile t).obxSrc.toNat, len := n, seq := if tileGuard s t then 0 else T.sendSeq
                               hdr := sendHead s t r, late := tileGuard s t }]
        sendSeq := if tileGuard s t then T.sendSeq else T.sendSeq + 1, guardStall := tileGuard s t } := by
  unfold launchSend
  have hlen : ¬ ((decide (n = 0) || decide (65536 < n) || r.fan && decide (n < 16)) = true) := by
    simp only [Bool.or_eq_true, Bool.and_eq_true, decide_eq_true_eq]
    rintro ((h | h) | ⟨hfan, h⟩)
    · omega
    · omega
    · exact absurd (hn hfan) (Nat.not_le.2 h)
  have hsound : (if r.fan = true then sourcePoison s t (s.tile t).obxSrc.toNat 16 else none) = none := by
    split
    next hf => exact h hf
    next => rfl
  simp only [hr, if_neg hlen, hsound]
  rfl

theorem sourcePoison_inside {s : State} {t off n : Nat} (h : off + n ≤ 0x100000) : sourcePoison s t off n = s.tsPoison t off n := by
  rw [sourcePoison, Nat.min_eq_left (by omega)]

/-- The bytes of a source inside the tile store are those that stand there. -/
theorem tsSource_inside {s : State} {t off n : Nat} (h : off + n ≤ 0x100000) : (tsSource s t off n).map (·.1) = s.tsRead t off n := by
  rw [tsSource, List.map_map, State.tsRead, Mem.read]
  refine List.map_congr_left fun i hi => ?_
  have := List.mem_range.1 hi
  rw [Function.comp, if_pos (by omega)]

-- ## Delivering a record

@[simp] theorem length_tsSource (s : State) (t off n : Nat) : (tsSource s t off n).length = n := by simp [tsSource]

@[simp] theorem length_sendBytes (s : State) (t : Nat) (x : Send) (off n : Nat) : (sendBytes s t x off n).length = n := by simp [sendBytes]

theorem sendByte_unchanged {x : Send} (h : x.old = []) (s : State) (t : Nat) (now : Byte × Bool) (a : Nat) : sendByte s t x now a = now := by
  rw [sendByte, h]
  rfl

/-- What is transmitted stands at its place, or has been overwritten there since. -/
theorem sendByte_mem (s : State) (t : Nat) (x : Send) (now : Byte × Bool) (a : Nat) :
    sendByte s t x now a = now ∨ ∃ o ∈ x.old, o.1 = a ∧ o.2 = sendByte s t x now a := by
  unfold sendByte
  dsimp only
  split
  · exact .inl rfl
  · generalize (Config.freeByte (65536 * execFrame s t + x.seq) (tsBase t + a)).toNat % _ = k
    have hmem : ((now :: ((x.old.filter fun o => o.1 == a).map (·.2)))[k]?).getD now ∈ now :: ((x.old.filter fun o => o.1 == a).map (·.2)) := by
      cases hk : (now :: ((x.old.filter fun o => o.1 == a).map (·.2)))[k]? with
      | none => exact List.mem_cons_self ..
      | some y => exact List.mem_of_getElem? hk
    rcases List.mem_cons.1 hmem with h | h
    · exact .inl h
    · obtain ⟨o, ho, he⟩ := List.mem_map.1 h
      obtain ⟨ho, hat⟩ := List.mem_filter.1 ho
      exact .inr ⟨o, ho, by simpa using hat, he⟩

theorem getElem?_sendBytes {s : State} {t : Nat} {x : Send} {off n i : Nat} (hi : i < n) :
    (sendBytes s t x off n)[i]? = some (sendByte s t x (if off + i < 0x100000 then (s.mem.byte (tsBase t + off + i), s.mem.poisoned (tsBase t + off + i))
    else (Config.lostByte (tsBase t + off + i), false)) (off + i)) := by
  simp [sendBytes, tsSource, hi]

theorem sendBytes_unchanged {s : State} {t : Nat} {x : Send} {off n : Nat} (h : x.old = []) : sendBytes s t x off n = tsSource s t off n := by
  rw [sendBytes]
  simp only [sendByte_unchanged h]
  exact List.zipIdx_map_fst ..

theorem roleOf_parcel {s : State} {t : Nat} {r : Role} (h : roleOf s t = some r) : r.parcel = s.parcel r.p := by
  unfold roleOf at h
  split at h
  · nomatch h
  · dsimp only at h
    split at h
    · nomatch h
    · obtain ⟨e, -, rfl⟩ := Option.map_eq_some_iff.1 h
      rfl

/-- Nothing is delivered for a tile whose oldest send, if it has one, belongs to the next frame. -/
theorem deliverSend_idle {s : State} {t : Nat} (h : (s.tile t).sendQ = [] ∨ ∃ x, (s.tile t).sendQ.head? = some x ∧ x.late = true) :
    deliverSend s t = s := by
  unfold deliverSend
  cases hq : (s.tile t).sendQ with
  | nil => rfl
  | cons x rest =>
    obtain ⟨y, hy, hlate⟩ := h.resolve_left (by rw [hq]; nofun)
    rw [hq, List.head?_cons, Option.some_inj] at hy
    exact if_pos (hy ▸ hlate)

theorem deliverSend_queued {s : State} {t : Nat} {x : Send} {rest : List Send} {r : Role} {rt : Route} (hq : (s.tile t).sendQ = x :: rest)
    (hlate : x.late = false) (hrole : roleOf s t = some r) (hroute : routeOf s t x.route = some rt) (hfan : rt.fan = false) :
    deliverSend s t = deliver (s.updTile t fun T => { T with sendQ := rest }) r.p t r.v x rt.dst
      (sendBytes (s.updTile t fun T => { T with sendQ := rest }) t x x.src x.len) := by
  have hrole' : roleOf (s.updTile t fun T => { T with sendQ := rest }) t = some r := hrole
  have hroute' : routeOf (s.updTile t fun T => { T with sendQ := rest }) t x.route = some rt := hroute
  unfold deliverSend
  simp only [hq, hlate, hrole', hroute', hfan, Bool.false_eq_true, if_false]

/-- A record: its header, its payload, and zeros up to a multiple of 16 bytes (R89). -/
def recordBytes (x : Send) (sv : Nat) (payload : List (Byte × Bool)) : List (Byte × Bool) :=
  (leBytes 2 x.route ++ leBytes 2 sv ++ leBytes 4 payload.length ++ leBytes 4 x.seq ++ zeros 4).map (fun b => (b, false)) ++ payload ++
    (zeros (16 + roundUp payload.length 16 - 16 - payload.length)).map fun b => (b, false)

@[simp] theorem length_zeros (n : Nat) : (zeros n).length = n := List.length_replicate ..

theorem length_record (x : Send) (sv : Nat) {payload : List (Byte × Bool)} {n : Nat} (h : payload.length = n) :
    (recordBytes x sv payload).length = 16 + roundUp n 16 := by
  simp only [recordBytes, List.length_append, List.length_map, length_leBytes, length_zeros, h, roundUp]
  omega

theorem map_fst_recordBytes (x : Send) (sv : Nat) (payload : List (Byte × Bool)) : (recordBytes x sv payload).map (·.1) =
    leBytes 2 x.route ++ leBytes 2 sv ++ leBytes 4 payload.length ++ leBytes 4 x.seq ++ zeros 4 ++ payload.map (·.1) ++
      zeros (16 + roundUp payload.length 16 - 16 - payload.length) := by
  have hfst : ((fun a : Byte × Bool => a.1) ∘ fun b => (b, false)) = id := rfl
  simp only [recordBytes, List.map_append, List.map_map, hfst, List.map_id]

/-- A record that fits goes to the free end of the destination's half B, behind its header. -/
theorem deliver_fits {s : State} {p src sv dv d : Nat} {x : Send} {payload : List (Byte × Bool)} (hd : (s.parcel p).ptile dv = some d)
    (hfill : (s.tile d).fillB + (16 + roundUp payload.length 16) ≤ (inboxOf s d).2) (hdir : (s.tile d).dirB.length < 1024) :
    deliver s p src sv x dv payload = (putLines s (tsBase d + halfB s d + (s.tile d).fillB) (recordBytes x sv payload)).updTile d fun D => { D with
          dirB := D.dirB ++ [{ off := D.fillB, srcVtile := sv, seq := x.seq }], fillB := D.fillB + (16 + roundUp payload.length 16) } := by
  unfold deliver
  have hroom : ¬ ((decide ((inboxOf s d).2 < (s.tile d).fillB + (16 + roundUp payload.length 16)) || decide (1024 ≤ (s.tile d).dirB.length)) = true) := by
    simp only [Bool.or_eq_true, decide_eq_true_eq]
    omega
  simp only [hd, if_neg hroom]
  rfl

/-- Settles O28: launching by its checks, delivery by the record it writes. -/
theorem sends : Obligations.Sends := by
  unfold Obligations.Sends
  intro s t h rs1 r
  extract_lets T n src late queues
  have hexec {u : State} (hu : launchSend s t n = u) : exec (.obxLenWrite t rs1) s = .next u := hu ▸ issue_runs h _
  have hill : exec (.illegalInstruction t) s = .next (takeIllegal s t) := issue_runs h _
  refine ⟨fun hr => ?_, fun hn => ?_, fun hr h0 hmax => ?_, fun hq => ?_, ?_⟩
  · rw [hill]
    exact hexec (launchSend_no_route hr n)
  · rw [hill]
    exact hexec (launchSend_bad_length (hn.imp_right .inl))
  · have hqueues {hdr : List Byte} (hhdr : sendHead s t r = hdr) (hn : r.fan = true → 16 ≤ n)
        (hsound : r.fan = true → sourcePoison s t src 16 = none) (hgood : ¬ ((r.fan && fanBad hdr n) = true)) : queues hdr := by
      have heq := launchSend_eq hr h0 hmax hn hsound
      rw [hhdr, if_neg hgood] at heq
      exact ⟨fun hlt => hexec (heq.trans (if_neg (Nat.not_le.2 hlt))), fun hfull => hexec (heq.trans (if_pos hfull))⟩
    refine ⟨fun hfan => ?_, fun hfan hn => ?_, fun hfan hn hsrc => ?_⟩
    · exact hqueues (by rw [sendHead, hfan]; rfl) (by simp [hfan]) (by simp [hfan]) (by simp [hfan])
    · rw [hill]
      exact hexec (launchSend_bad_length (.inr (.inr ⟨r, hr, hfan, hn⟩)))
    · have hhead : sendHead s t r = s.tsRead t src 16 := by rw [sendHead, if_pos hfan]; exact tsSource_inside hsrc
      have hsource : sourcePoison s t src 16 = s.tsPoison t src 16 := sourcePoison_inside hsrc
      refine ⟨fun a ha => ⟨_, hexec (launchSend_poisoned hr hfan hn hmax (hsource.trans ha)), rfl⟩, fun hsound hbad => ?_, fun hsound hgood => ?_⟩
      · rw [hill]
        refine hexec ((launchSend_eq hr h0 hmax (fun _ => hn) fun _ => hsource.trans hsound).trans (if_pos ?_))
        rw [hhead, hfan, hbad]
        rfl
      · exact hqueues hhead (fun _ => hn) (fun _ => hsource.trans hsound) (by simp [hgood])
  · refine (congrArg Host.Outcome.next (live_clocked h.1 _)).trans (congrArg Host.Outcome.next ?_)
    exact deliverSend_idle hq
  · intro x rest o d hq hlate hrole hroute hfan hin hd hd256 hne hok hhalf
    extract_lets D n at_
    intro hfill hdir
    have htile : (s.updTile t fun T => { T with sendQ := rest }).tile d = s.tile d := State.updTile_tile_ne _ _ hne
    have hhalfB : halfB (s.updTile t fun T => { T with sendQ := rest }) d = halfB s d := by
      unfold halfB
      rw [htile]
      rfl
    have hlen : (sendBytes (s.updTile t fun T => { T with sendQ := rest }) t x x.src x.len).length = x.len := length_sendBytes ..
    have hd' : ((s.updTile t fun T => { T with sendQ := rest }).parcel o.p).ptile r.dst = some d := by
      rw [roleOf_parcel hrole] at hd
      exact hd
    have hdeliver := deliver_fits (src := t) (sv := o.v) (x := x)
      (payload := sendBytes (s.updTile t fun T => { T with sendQ := rest }) t x x.src x.len) hd'
      (by rw [htile, hlen]; exact hfill) (by rw [htile]; exact hdir)
    rw [htile, hhalfB, hlen] at hdeliver
    have hplace : tsBase d + halfB s d + D.fillB + n ≤ 0x100010000000 ∧ 0x100000000000 ≤ tsBase d + halfB s d + D.fillB := by
      unfold tsBase
      omega
    have htotal := length_record x o.v hlen
    obtain ⟨m, hm, hst⟩ := putLines_tileStore (s := s.updTile t fun T => { T with sendQ := rest }) (dpa := tsBase d + halfB s d + D.fillB) hok
      hplace.2 (bs := recordBytes x o.v (sendBytes (s.updTile t fun T => { T with sendQ := rest }) t x x.src x.len)) (by rw [htotal]; exact hplace.1)
    have hread := hst.read
    rw [List.length_map, htotal] at hread
    refine ⟨m, (sendBytes (s.updTile t fun T => { T with sendQ := rest }) t x x.src x.len).map (·.1), ?_, ?_, fun hold => ?_, ?_, fun i b hb => ?_,
      fun a ha => ?_⟩
    · refine (congrArg Host.Outcome.next (live_clocked h.1 _)).trans (congrArg Host.Outcome.next ?_)
      rw [deliverSend_queued hq hlate hrole hroute hfan, hdeliver, hm]
      rfl
    · rw [hread, map_fst_recordBytes, hlen]
    · rw [sendBytes_unchanged hold]
      exact tsSource_inside hin
    · rw [List.length_map, hlen]
    · obtain ⟨hi, -⟩ := List.getElem?_eq_some_iff.1 hb
      rw [List.length_map, hlen] at hi
      rw [List.getElem?_map, getElem?_sendBytes hi, Option.map_some, Option.some_inj] at hb
      rw [← hb, if_pos (by omega)]
      rcases sendByte_mem (s.updTile t fun T => { T with sendQ := rest }) t x _ (x.src + i) with he | ⟨c, hc, hat, he⟩
      · exact .inl (by rw [he]; rfl)
      · exact .inr ⟨c, hc, hat, by rw [he]⟩
    · refine (hst.byte_outside ?_)
      rw [List.length_map, htotal]
      exact ha

end Sys2Proof.Machine

/-! PROOFS. O7: doorbells. -/

namespace Sys2Proof.Machine

-- ## Doorbells

/-- What a doorbell leaves whose post is `p`, state `u` being the one with the store done. -/
def Post.leaves (s u : State) (t : Nat) : Post → State
  | .stall => s
  | .exc e => takeExc s t e none
  | .post f => retire (f u) t id

theorem ssttStore_doorbell {s : State} {t off v : Nat} {p : Post} (h : TsWrites s t off 8) (hdb : doorbell s t off v = some p) :
    ssttStore s t off 8 v = p.leaves s (s.codePut t off (leBytes 8 v)) t := by
  unfold ssttStore
  rw [storeTs_writes h]
  simp only [if_true, hdb]
  cases p <;> rfl

/-- A store of tile code changes memory and tiles alone. -/
theorem codePut_rest (s : State) (t off : Nat) (bs : List Byte) : ∃ m T, s.codePut t off bs = { s with mem := m, tiles := T } := by
  have hforget {u : State} (c : DecCmd) (h : ∃ m T, u = { s with mem := m, tiles := T }) :
      ∃ m T, forgetDec u t c = { s with mem := m, tiles := T } :=
    foldl_keeps (P := fun w : State => ∃ m T, w = { s with mem := m, tiles := T }) _ _ h fun _ _ ⟨m, T, hw⟩ => ⟨_, T, congrArg (State.forget · _ _) hw⟩
  have hsends : ∃ T, noteSends s t off bs.length = { s with tiles := T } := by
    unfold noteSends
    dsimp only
    split
    · exact ⟨_, rfl⟩
    · exact ⟨s.tiles, rfl⟩
  obtain ⟨T, hT⟩ := hsends
  rw [codePut_eq, hT, noteDecode]
  dsimp only
  split
  · exact ⟨_, T, rfl⟩
  · exact foldl_keeps (P := fun w : State => ∃ m T, w = { s with mem := m, tiles := T }) _ _ ⟨_, _, rfl⟩ fun _ c hw => hforget c hw

theorem pframe_codePut (s : State) (t off p : Nat) (bs : List Byte) : pframe (s.codePut t off bs) p = pframe s p := by
  obtain ⟨m, T, h⟩ := codePut_rest s t off bs
  rw [h]
  rfl

theorem guardNow_codePut (s : State) (t off p : Nat) (bs : List Byte) : guardNow (s.codePut t off bs) p = guardNow s p := by
  obtain ⟨m, T, h⟩ := codePut_rest s t off bs
  rw [h]
  rfl

theorem eng_codePut (s : State) (t off e : Nat) (k : EngKind) (bs : List Byte) : (s.codePut t off bs).eng k e = s.eng k e := by
  obtain ⟨m, T, h⟩ := codePut_rest s t off bs
  rw [h]
  rfl

/-- What an engine's post does once it is admitted. -/
def engineQueues (t v : Nat) (k : EngKind) (size e : Nat) (r : Role) (u : State) : State :=
  (u.tsWrite t (v % 2 ^ 20 + size - 1) [0]).updEng k e fun E => { E with
    posts := E.posts + 1
    jobs := E.jobs ++ [{
      vtile := r.v, tile := t, off := v % 2 ^ 20, blk := u.tsRead t (v % 2 ^ 20) 0x40, frame := pframe u r.p, post := (u.eng k e).posts
      vintage := r.parcel.vintage }] }

theorem enginePost_admitted {s : State} {t v : Nat} {k : EngKind} {size top e : Nat} {r : Role} (db : Nat) (halign : v % 2 ^ 20 % size = 0)
    (htop : v % 2 ^ 20 ≤ top) (hr : roleOf s t = some r) (hcount : bits v 20 4 < r.parcel.image.engCount k)
    (he : r.parcel.peng k (bits v 20 4) = some e) :
    enginePost s t v k db size top = if 16 ≤ (s.eng k e).jobs.length then .stall else .post (engineQueues t v k size e r) := by
  unfold enginePost
  have hin : ¬ ((decide (v % 2 ^ 20 % size ≠ 0) || decide (top < v % 2 ^ 20)) = true) := by
    simp only [Bool.or_eq_true, decide_eq_true_eq]
    omega
  simp only [if_neg hin, hr, if_neg (Nat.not_le.2 hcount), he]
  rfl

theorem cmpPost_stall {s : State} {t v : Nat} (h : enginePost s t v .ce 0xFFFE0 128 0xFFF80 = .stall) : cmpPost s t v = .stall := by
  unfold cmpPost
  rw [h]

theorem cmpPost_post {s : State} {t v : Nat} {f : State → State} {r : Role} (h : enginePost s t v .ce 0xFFFE0 128 0xFFF80 = .post f)
    (hr : roleOf s t = some r) : cmpPost s t v = .post fun s => spoilSlots (f s) r.p := by
  unfold cmpPost
  rw [h, hr]

section
variable {s : State} {t v : Nat}

theorem decodePost_bad (h : v % 2 ^ 20 % 128 ≠ 0 ∨ 0xFFF00 < v % 2 ^ 20) : decodePost s t v = .exc (misaligned 0xFFFF8) :=
  if_pos (by simpa only [Bool.or_eq_true, decide_eq_true_eq] using h)

theorem decodePost_aligned (halign : v % 2 ^ 20 % 128 = 0) (htop : v % 2 ^ 20 ≤ 0xFFF00) :
    decodePost s t v = if 8 ≤ (s.tile t).decQ.length then .stall else .post fun s =>
      (s.tsWrite t (v % 2 ^ 20 + 0x7F) [0]).updTile t fun T => { T with
        decQ := T.decQ ++ [{ off := v % 2 ^ 20, bytes := s.tsRead t (v % 2 ^ 20) 0x60 }] } :=
  if_neg (by simp only [Bool.or_eq_true, decide_eq_true_eq]; omega)

theorem decodePost_full (halign : v % 2 ^ 20 % 128 = 0) (htop : v % 2 ^ 20 ≤ 0xFFF00) (hfull : 8 ≤ (s.tile t).decQ.length) :
    decodePost s t v = .stall := (decodePost_aligned halign htop).trans (if_pos hfull)

theorem decodePost_free (halign : v % 2 ^ 20 % 128 = 0) (htop : v % 2 ^ 20 ≤ 0xFFF00) (hfree : (s.tile t).decQ.length < 8) :
    decodePost s t v = .post fun s => (s.tsWrite t (v % 2 ^ 20 + 0x7F) [0]).updTile t fun T => { T with
      decQ := T.decQ ++ [{ off := v % 2 ^ 20, bytes := s.tsRead t (v % 2 ^ 20) 0x60 }] } :=
  (decodePost_aligned halign htop).trans (if_neg (Nat.not_le.2 hfree))

end

/-- A tile of the channel's stage rings the channel that its image gives it. -/
theorem moverPost_rings {s : State} {t v g : Nat} {r : Role} {m : MoverProgram} (hr : roleOf s t = some r) (hg : r.parcel.pgroup (bits v 0 8) = some g)
    (hm : (r.parcel.image.movers.find? fun m => m.vgroup == bits v 0 8 && m.channel == bits v 8 4) = some m) (hpipe : m.pipeline = r.stage.pipeline)
    (hstage : m.stage = r.stage.stage) (hprog : (s.chan g (bits v 8 4)).prog.isSome = true) (hsrc : (s.chan g (bits v 8 4)).reqSrc = 2) :
    moverPost s t v = .post fun s => if guardNow s r.p then
        s.updChan g (bits v 8 4) fun C => if C.busy then { C with lateReq := C.lateReq + 1 } else C
      else addRequest s g (bits v 8 4) 2 true := by
  unfold moverPost
  have hown : ¬ (((s.chan g (bits v 8 4)).prog.isNone || decide ((s.chan g (bits v 8 4)).reqSrc ≠ 2) || decide (m.pipeline ≠ r.stage.pipeline) ||
      decide (m.stage ≠ r.stage.stage)) = true) := by
    simp [hpipe, hstage, hsrc, Option.isSome_iff_ne_none.1 hprog]
  simp only [hr, hm, hg, if_neg hown]

/-- Settles O7: each doorbell by its post. -/
theorem doorbells : Obligations.Doorbells := by
  unfold Obligations.Doorbells
  intro s t h rd
  extract_lets v off put job
  have hstores {c : Instr} {db : Nat} (hexec : exec c s = issue s t fun s => ssttStore s t db 8 (sVal s t rd)) :
      exec c s = .next (ssttStore s t db 8 (sVal s t rd)) := hexec.trans (issue_runs h _)
  have hrings {c : Instr} {db : Nat} {p : Post} (hexec : exec c s = issue s t fun s => ssttStore s t db 8 (sVal s t rd))
      (hw : TsWrites s t db 8) (hdb : doorbell s t db v = some p) :
      exec c s = .next (p.leaves s (put db) t) :=
    (hstores hexec).trans (congrArg _ (ssttStore_doorbell hw hdb))
  have hjob {k : EngKind} {db size top : Nat} {c : Instr} (hexec : exec c s = issue s t fun s => ssttStore s t db 8 (sVal s t rd))
      (hdb : doorbell s t db v = some (enginePost s t v k db size top)) : job k db size top c fun s _ => s := by
    intro r e hw halign htop hr hcount he
    rw [enginePost_admitted db halign htop hr hcount he] at hdb
    refine ⟨fun hfull => ?_, fun hfree => ?_⟩
    · rw [if_pos hfull] at hdb
      exact hrings hexec hw hdb
    · rw [if_neg (Nat.not_le.2 hfree)] at hdb
      rw [hrings hexec hw hdb]
      simp only [Post.leaves, engineQueues, put, pframe_codePut, eng_codePut]
      rfl
  refine ⟨fun hw halign htop hfree => ?_, fun hw halign htop hfull => ?_, fun hw hbad => ?_, hjob rfl rfl, ?_, hjob rfl rfl, ?_, ?_⟩
  · exact hrings rfl hw (congrArg some (decodePost_free halign htop hfree))
  · exact hrings rfl hw (congrArg some (decodePost_full halign htop hfull))
  · exact ⟨misaligned 0xFFFF8, hrings rfl hw (congrArg some (decodePost_bad hbad)), rfl, rfl⟩
  · intro r e hw halign htop hr hcount he
    have hpost := enginePost_admitted 0xFFFE0 halign htop hr hcount he
    refine ⟨fun hfull => ?_, fun hfree => ?_⟩
    · rw [if_pos hfull] at hpost
      exact hrings rfl hw (congrArg some (cmpPost_stall hpost))
    · rw [if_neg (Nat.not_le.2 hfree)] at hpost
      refine (hrings rfl hw (congrArg some (cmpPost_post hpost hr))).trans ?_
      simp only [Post.leaves, engineQueues, put, pframe_codePut, eng_codePut]
      rfl
  · intro r g m hw hr hg hm hpipe hstage hprog hsrc hguard
    refine (hrings rfl hw (congrArg some (moverPost_rings hr hg hm hpipe hstage hprog hsrc))).trans ?_
    simp only [Post.leaves, put, guardNow_codePut, hguard]
    rfl
  · intro rs1 imm db c hc haddr
    have hsst : exec (.sstt t 3 rd rs1 imm) s = issue s t fun s => ssttStore s t (memAddr s t rs1 imm) (accBytes 3) (sVal s t rd) := rfl
    rw [hsst, issue_runs h, haddr]
    simp only [List.mem_cons, Prod.mk.injEq, List.not_mem_nil, or_false] at hc
    rcases hc with ⟨rfl, rfl⟩ | ⟨rfl, rfl⟩ | ⟨rfl, rfl⟩ | ⟨rfl, rfl⟩ | ⟨rfl, rfl⟩ <;> exact (hstores rfl).symm

end Sys2Proof.Machine

/-! PROOFS. The tile cache: the line of an address, a fill, an access that the cache serves. -/

namespace Sys2Proof.Machine

-- ## What a write of the fabric leaves of a tile

/-- A write of the fabric counts raw bytes of an inbox half; nothing else of a tile changes. -/
theorem fabricWrite_tile (s : State) (a t : Nat) (bs : List Byte) (p : Bool) : ∃ r, (fabricWrite s a bs p).tile t = { s.tile t with rawB := r } := by
  unfold fabricWrite
  split
  · split <;> exact ⟨_, rfl⟩
  next k off _ =>
    unfold noteRaw
    dsimp only
    split
    · exact ⟨_, rfl⟩
    · by_cases hk : t = k
      · subst hk
        exact ⟨_, State.updTile_tile ..⟩
      · exact ⟨_, State.updTile_tile_ne _ _ hk⟩
  · exact ⟨_, rfl⟩

theorem writeBack_tile (s : State) (l : CacheLine) (t : Nat) : ∃ r, (writeBack s l).tile t = { s.tile t with rawB := r } := by
  unfold writeBack
  split
  · exact fabricWrite_tile ..
  · exact ⟨_, rfl⟩

theorem writeBack_clean {l : CacheLine} (h : l.dirty = false) (s : State) : writeBack s l = s := if_neg (by simp [h])

/-- A dirty line of the cellar goes to its place. -/
theorem writeBack_cellar {l : CacheLine} (s : State) (h : l.dirty = true) {a : Nat} (hplace : place l.dpa = .cellar a) (halign : l.dpa % 64 = 0)
    (hlen : l.data.length = 64) : writeBack s l = { s with mem := s.mem.store l.dpa l.data l.poison } := by
  have ha := lt_of_place_cellar hplace
  rw [writeBack, if_pos h, fabricWrite_of_ownPlace _ _ (List.ne_nil_of_length_pos (by omega)) fun i hi => .inl (by omega)]

-- ## The line of an address

theorem setOf_line (a : Nat) : setOf (a / 64 * 64) = setOf a := by
  unfold setOf
  omega

/-- Whether a way holds the line of an address. -/
def Cache.holds (C : Cache) (a w : Nat) : Prop := (Tab.find C.lines (8 * setOf a + w)).map (·.dpa) = some (a / 64 * 64)

theorem Cache.way_eq (C : Cache) (a : Nat) :
    C.way a = findBelow 8 fun w => (Tab.find C.lines (8 * setOf a + w)).map (·.dpa) == some (a / 64 * 64) := by
  unfold Cache.way
  dsimp only
  rw [setOf_line]
  congr 1
  funext w
  cases Tab.find C.lines (8 * setOf a + w) <;> rfl

theorem Cache.way_eq_none {C : Cache} {a : Nat} : C.way a = none ↔ ∀ w, w < 8 → ¬ C.holds a w := by
  rw [Cache.way_eq, findBelow, List.find?_eq_none]
  simp [Cache.holds]

theorem Cache.way_eq_some {C : Cache} {a w : Nat} : C.way a = some w ↔ C.holds a w ∧ w < 8 ∧ ∀ v, v < w → ¬ C.holds a v := by
  rw [Cache.way_eq, findBelow, List.find?_range_eq_some]
  simp [Cache.holds]

theorem Cache.lineAt_eq_some {C : Cache} {a : Nat} {l : CacheLine} :
    C.lineAt a = some l ↔ ∃ w, C.way a = some w ∧ Tab.find C.lines (8 * setOf a + w) = some l := by
  rw [Cache.lineAt, Option.bind_eq_some_iff]

theorem Cache.lineAt_eq_none {C : Cache} {a : Nat} : C.lineAt a = none ↔ C.way a = none := by
  rw [Cache.lineAt]
  cases h : C.way a with
  | none => simp
  | some w =>
    obtain ⟨hholds, -⟩ := Cache.way_eq_some.1 h
    cases hf : Tab.find C.lines (8 * setOf a + w) with
    | none => rw [Cache.holds, hf] at hholds; cases hholds
    | some x => simp [hf]

/-- A line that enters a way of its set, where no other way held it, is the line of its address. -/
theorem Cache.lineAt_set {C D : Cache} {a w : Nat} {l : CacheLine} (h : C.lineAt a = none) (hw : w < 8) (hl : l.dpa = a / 64 * 64)
    (hD : D.lines = Tab.set C.lines (8 * setOf a + w) l) : D.lineAt a = some l := by
  have hnone := Cache.way_eq_none.1 (Cache.lineAt_eq_none.1 h)
  have hsame : Tab.find D.lines (8 * setOf a + w) = some l := by rw [hD, Tab.find_set_same]
  refine Cache.lineAt_eq_some.2 ⟨w, Cache.way_eq_some.2 ⟨by rw [Cache.holds, hsame, ← hl]; rfl, hw, fun v hv => ?_⟩, hsame⟩
  rw [Cache.holds, hD, Tab.find_set_ne _ _ (by omega)]
  exact hnone v (by omega)

/-- Changing a line in its way leaves it the line of its address. -/
theorem Cache.lineAt_upd {C D : Cache} {a w : Nat} {d l : CacheLine} {g : CacheLine → CacheLine} (hw : C.way a = some w)
    (hl : Tab.find C.lines (8 * setOf a + w) = some l) (hg : (g l).dpa = l.dpa) (hD : D.lines = Tab.upd d C.lines (8 * setOf a + w) g) :
    D.lineAt a = some (g l) := by
  obtain ⟨hholds, hw8, hbelow⟩ := Cache.way_eq_some.1 hw
  have hsame : Tab.find D.lines (8 * setOf a + w) = some (g l) := by rw [hD, Tab.upd, Tab.find_set_same, Tab.get, hl]; rfl
  refine Cache.lineAt_eq_some.2 ⟨w, Cache.way_eq_some.2 ⟨?_, hw8, fun v hv => ?_⟩, hsame⟩
  · rw [Cache.holds, hsame, Option.map_some, hg]
    rw [Cache.holds, hl] at hholds
    exact hholds
  · rw [Cache.holds, hD, Tab.upd, Tab.find_set_ne _ _ (by omega)]
    exact hbelow v hv

-- ## A fill

theorem Cache.treeWay_lt (C : Cache) (set : Nat) : C.treeWay set < 8 := by
  unfold Cache.treeWay
  dsimp only
  grind

theorem Cache.fillWay_lt (C : Cache) (set : Nat) : C.fillWay set < 8 := by
  unfold Cache.fillWay
  split
  next w h => exact List.mem_range.1 (List.mem_of_find?_eq_some h)
  next => exact C.treeWay_lt set

/-- The way a fill takes depends on the lines, the tree and the disabled ways. -/
theorem Cache.fillWay_congr {C D : Cache} (hl : D.lines = C.lines) (ht : D.tree = C.tree) (hw : D.waysOff = C.waysOff) (set : Nat) :
    D.fillWay set = C.fillWay set := by
  unfold Cache.fillWay Cache.treeWay Cache.wayOn
  rw [hl, ht, hw]

/-- The victim of a fill. -/
def Cache.victim (C : Cache) (a : Nat) : Option CacheLine := Tab.find C.lines (8 * setOf a + C.fillWay (setOf a))

/-- A victim goes back to memory. -/
def evict (s : State) (v : Option CacheLine) : State := v.elim s fun v => writeBack s v

/-- What memory is, after a victim of a fill has been written back where it is dirty. -/
def Evicted (m m' : Mem) (victim : Option CacheLine) : Prop :=
  ((∀ v, victim = some v → v.dirty = false) → m' = m) ∧
    ∀ v, victim = some v → v.dirty = true → (∃ a, place v.dpa = .cellar a) → v.dpa % 64 = 0 → v.data.length = 64 →
      m' = m.store v.dpa v.data v.poison

theorem evict_evicted (s : State) (victim : Option CacheLine) : Evicted s.mem (evict s victim).mem victim := by
  cases victim with
  | none => exact ⟨fun _ => rfl, nofun⟩
  | some v =>
    refine ⟨fun h => congrArg State.mem (writeBack_clean (h v rfl) s), fun x hx hd ⟨a, ha⟩ h0 hlen => ?_⟩
    obtain rfl := Option.some.inj hx
    exact congrArg State.mem (writeBack_cellar s hd ha h0 hlen)

theorem evict_tile (s : State) (v : Option CacheLine) (t : Nat) : ∃ r, (evict s v).tile t = { s.tile t with rawB := r } := by
  cases v with
  | none => exact ⟨_, rfl⟩
  | some v => exact writeBack_tile s v t

theorem cacheFill_eq (s : State) (t : Nat) (l : CacheLine) : ∃ f : Cache → Cache, cacheFill s t l = (evict s ((s.tile t).cache.victim l.dpa)).updCache t f ∧
    ∀ C, (f C).lines = Tab.set C.lines (8 * setOf l.dpa + (s.tile t).cache.fillWay (setOf l.dpa)) l := by
  refine ⟨fun C => { C.touch (setOf l.dpa) ((s.tile t).cache.fillWay (setOf l.dpa)) with
    lines := Tab.set C.lines (8 * setOf l.dpa + (s.tile t).cache.fillWay (setOf l.dpa)) l
    side := C.side.filter fun x => x.dpa != l.dpa, prefetches := C.prefetches.filter (· != l.dpa) }, ?_, fun C => rfl⟩
  unfold cacheFill evict Cache.victim
  dsimp only
  cases Tab.find (s.tile t).cache.lines (8 * setOf l.dpa + (s.tile t).cache.fillWay (setOf l.dpa)) <;> rfl

/-- What a fill leaves of its tile, and of memory: the line stands in the cache, and a dirty victim is written back. -/
theorem cacheFill_line {s : State} {t a : Nat} {l : CacheLine} (h : (s.tile t).cache.lineAt a = none) (hl : l.dpa = a / 64 * 64) :
    ∃ D r, (cacheFill s t l).tile t = { s.tile t with cache := D, rawB := r } ∧ D.lineAt a = some l ∧
      Evicted s.mem (cacheFill s t l).mem ((s.tile t).cache.victim a) := by
  obtain ⟨f, hfill, hlines⟩ := cacheFill_eq s t l
  rw [hl, Cache.victim, setOf_line] at hfill
  rw [hl, setOf_line] at hlines
  obtain ⟨r, hr⟩ := evict_tile s ((s.tile t).cache.victim a) t
  refine ⟨f (s.tile t).cache, r, ?_, Cache.lineAt_set h (Cache.fillWay_lt ..) hl (hlines _), ?_⟩
  · rw [hfill]
    refine (State.updTile_tile ..).trans ?_
    rw [Cache.victim] at hr
    rw [hr]
  · rw [hfill]
    exact evict_evicted ..

-- ## An access that the cache serves

theorem place_cellar_of_lt {a : Nat} (h : a < 0x8000000000) : place a = .cellar a := if_pos h

/-- A line of the cellar as memory holds it. -/
theorem readLine_cellar (s : State) {a : Nat} (h : a < 0x8000000000) :
    readLine s (a / 64 * 64) = { dpa := a / 64 * 64, dirty := false, poison := s.mem.poisoned a, data := s.mem.read (a / 64 * 64) 64 } := by
  have hread := fabricReadAt_of_cellar s.freeCtr s (a := a / 64 * 64) (n := 64) (by decide) (by omega)
  have hpoison : ((List.range 64).any fun i => s.mem.poisoned (a / 64 * 64 + i)) = s.mem.poisoned a := by
    rw [Bool.eq_iff_iff, List.any_eq_true]
    have hline {i : Nat} (hi : i ∈ List.range 64) : s.mem.poisoned (a / 64 * 64 + i) = s.mem.poisoned a := by
      have := List.mem_range.1 hi
      unfold Mem.poisoned
      rw [show (a / 64 * 64 + i) / 64 * 64 = a / 64 * 64 by omega]
    exact ⟨fun ⟨i, hi, h⟩ => hline hi ▸ h, fun h => ⟨0, by decide, (hline (by decide)).trans h⟩⟩
  rw [hpoison] at hread
  unfold readLine fabricRead
  rw [hread]
  rfl

theorem Cache.way_line (C : Cache) (a : Nat) : C.way (a / 64 * 64) = C.way a := by
  rw [Cache.way_eq, Cache.way_eq, setOf_line, Nat.mul_div_cancel _ (by decide)]

theorem State.updCache_congr {s : State} {t : Nat} {f g : Cache → Cache} (h : f (s.tile t).cache = g (s.tile t).cache) :
    s.updCache t f = s.updCache t g := State.updTile_congr (by rw [h])

theorem countAccess_eq (s : State) (t : Nat) : ∃ acc win, countAccess s t = s.updCache t fun C => { C with accCnt := acc, ceWindow := win } := by
  by_cases h : (s.tile t).cache.accCnt + 1 = 2 ^ 20
  · exact ⟨0, [], State.updCache_congr (if_pos h)⟩
  · exact ⟨(s.tile t).cache.accCnt + 1, (s.tile t).cache.ceWindow, State.updCache_congr (if_neg h)⟩

/-- An access whose line is valid touches its way and is counted. -/
theorem cacheLine_hit {s : State} {t a w : Nat} (cacheable isLoad : Bool) (hen : (s.tile t).cache.en = true) (ha : a < 0x8000000000)
    (hw : (s.tile t).cache.way a = some w) : ∃ tr hit acc win, cacheLine s t a cacheable isLoad = (true, s.updTile t fun T => { T with
      cache := { T.cache with tree := tr, perfHit := hit, accCnt := acc, ceWindow := win } }) := by
  obtain ⟨acc, win, hcount⟩ := countAccess_eq s t
  refine ⟨((s.tile t).cache.touch (setOf (a / 64 * 64)) w).tree, perf (s.tile t) (s.tile t).cache.perfHit, acc, win, ?_⟩
  unfold cacheLine
  simp only [hen, place_cellar_of_lt ha, Cache.way_line, hw, hcount, State.updCache, State.updTile_updTile]
  exact congrArg (Prod.mk true) (State.updTile_congr rfl)

/-- Watching for streams leaves the lines and their ways. -/
theorem Cache.watch_keeps (C : Cache) (l : Nat) : (C.watch l).lines = C.lines ∧ (C.watch l).tree = C.tree ∧ (C.watch l).waysOff = C.waysOff := by
  unfold Cache.watch
  dsimp only
  split
  · exact ⟨rfl, rfl, rfl⟩
  · split <;> exact ⟨rfl, rfl, rfl⟩

theorem demandMiss_eq (s : State) (t l : Nat) (isLoad : Bool) : ∃ D, demandMiss s t l isLoad = s.updTile t (fun T => { T with cache := D }) ∧
    D.lines = (s.tile t).cache.lines ∧ D.tree = (s.tile t).cache.tree ∧ D.waysOff = (s.tile t).cache.waysOff := by
  refine ⟨_, State.updTile_congr rfl, ?_⟩
  cases isLoad
  · exact ⟨rfl, rfl, rfl⟩
  · exact Cache.watch_keeps ..

/-- An access that misses the cache and the side buffer is a fill. -/
theorem cacheLine_miss {s : State} {t a : Nat} (isLoad : Bool) (hen : (s.tile t).cache.en = true) (ha : a < 0x8000000000)
    (hmiss : (s.tile t).cache.lineAt a = none) (hside : ∀ x ∈ (s.tile t).cache.side, x.dpa ≠ a / 64 * 64) :
    ∃ s' D r, cacheLine s t a true isLoad = (true, s') ∧ s'.tile t = { s.tile t with cache := D, rawB := r } ∧
      D.lineAt a = some { dpa := a / 64 * 64, dirty := false, poison := s.mem.poisoned a, data := s.mem.read (a / 64 * 64) 64 } ∧
      Evicted s.mem s'.mem ((s.tile t).cache.victim a) := by
  obtain ⟨acc, win, hcount⟩ := countAccess_eq s t
  obtain ⟨D0, hD0, hlines, htree, hways⟩ := demandMiss_eq (countAccess s t) t (a / 64 * 64) isLoad
  have htile : ((countAccess s t).tile t) = { s.tile t with cache := { (s.tile t).cache with accCnt := acc, ceWindow := win } } := by
    rw [hcount, State.updCache, State.updTile_tile]
  rw [htile] at hlines htree hways
  have htile0 : (demandMiss (countAccess s t) t (a / 64 * 64) isLoad).tile t = { s.tile t with cache := D0 } := by
    rw [hD0, State.updTile_tile, htile]
  have hmem0 : (demandMiss (countAccess s t) t (a / 64 * 64) isLoad).mem = s.mem := by
    rw [hD0, hcount]
    rfl
  have hmiss0 : D0.lineAt a = none := by
    rw [Cache.lineAt_eq_none] at hmiss ⊢
    rw [Cache.way_eq, hlines, ← Cache.way_eq]
    exact hmiss
  have hvictim : D0.victim a = (s.tile t).cache.victim a := by
    rw [Cache.victim, Cache.fillWay_congr hlines htree hways, hlines]
    rfl
  obtain ⟨D, r, hD, hline, hev⟩ := cacheFill_line (s := demandMiss (countAccess s t) t (a / 64 * 64) isLoad) (t := t) (a := a)
    (l := readLine (demandMiss (countAccess s t) t (a / 64 * 64) isLoad) (a / 64 * 64)) (by rw [htile0]; exact hmiss0) rfl
  rw [readLine_cellar _ ha, hmem0] at hline
  rw [htile0] at hD hev
  rw [hmem0, hvictim] at hev
  refine ⟨_, D, r, ?_, hD, hline, hev⟩
  have hside' : (s.tile t).cache.sideLine (a / 64 * 64) = none := by
    rw [Cache.sideLine, List.find?_eq_none]
    intro x hx
    simp [hside x hx]
  unfold cacheLine
  simp only [hen, place_cellar_of_lt ha, Cache.way_line, Cache.lineAt_eq_none.1 hmiss, hside']
  rfl

-- ## Loads and stores of a line

/-- A load that the cache serves returns its bytes of the line, unless the line is poisoned. -/
theorem loadMem_of_line {s s0 s1 : State} {t : TileId} {va n k dpa : Nat} {c : Bool} {l : CacheLine} (h0 : va % n = 0)
    (hx : translate s (.tile t) va .load = (.ok { dpa := dpa, cacheable := c }, s0)) (hc : cacheLine s0 t dpa c true = (true, s1))
    (hl : (s1.tile t).cache.lineAt dpa = some l) :
    loadMem k s t va n = (if l.poison then .error (poisonExc va) else .ok (leNat (slice l.data (dpa % 64) n)), s1) := by
  unfold loadMem
  rw [if_neg (by omega), hx]
  simp only [tileRead, hc, hl]
  split <;> rfl

/-- A line with bytes stored into it. -/
def CacheLine.put (l : CacheLine) (off : Nat) (bs : List Byte) : CacheLine :=
  { l with dirty := true, data := l.data.take off ++ bs ++ l.data.drop (off + bs.length) }

/-- A write into the line that the cache holds. -/
theorem tileWrite_of_line {s s1 : State} {t a : Nat} {bs : List Byte} {c : Bool} {l : CacheLine} (hc : cacheLine s t a c false = (true, s1))
    (hl : (s1.tile t).cache.lineAt a = some l) :
    ∃ D, tileWrite s t a bs c false = s1.updTile t (fun T => { T with cache := D }) ∧ D.lineAt a = some (l.put (a % 64) bs) := by
  obtain ⟨w, hw, hfind⟩ := Cache.lineAt_eq_some.1 hl
  have hput : tileWrite s t a bs c false = s1.updCache t fun C => { C with
      lines := Tab.upd { dpa := a / 64 * 64, dirty := false, poison := false, data := zeros 64 } C.lines (8 * setOf a + w) fun l => l.put (a % 64) bs } := by
    unfold tileWrite
    rw [hc]
    refine State.updCache_congr ?_
    simp only [hw, Bool.not_false, Bool.and_true]
    rfl
  exact ⟨_, hput.trans (State.updTile_congr rfl), Cache.lineAt_upd (g := fun l => l.put (a % 64) bs) hw hfind rfl rfl⟩

/-- A store whose address the cellar has goes through the cache alone. -/
theorem storeMem_of_cellar {s s0 : State} {t : TileId} {va n dpa x : Nat} {c whole : Bool} (h0 : va % n = 0)
    (hx : translate s (.tile t) va .store = (.ok { dpa := dpa, cacheable := c }, s0)) (ha : dpa < 0x8000000000) :
    storeMem s t va n x whole = (none, tileWrite s0 t dpa (leBytes n x) c whole) := by
  have hown : (decide (tsBase t ≤ dpa) && decide (dpa < tsBase t + 0x100000)) = false := by
    unfold tsBase
    simp
    omega
  unfold storeMem
  rw [if_neg (by omega), hx]
  simp only [canon_of_ownPlace s0 (.inl ha), hown, Bool.false_eq_true, if_false]

end Sys2Proof.Machine

/-! PROOFS. O9: loads and stores that the tile cache serves. -/

namespace Sys2Proof.Machine

theorem translate_of_hits {s : State} {t : TileId} {va : Nat} {k : AccessKind} {p : Nat} {e : TlbEntry} {dpa : Nat} (h : Hits s t va k p e dpa)
    (hperm : permReason s p e k dpa = none) :
    translate s (.tile t) va k = (.ok { dpa := dpa, cacheable := bitOf e.leaf 4 }, s.updTile t id) := by
  have ⟨hva, _, hparcel, _, hdpa, _⟩ := h
  have hparcel' : unitParcel s (.tile t) = some p := hparcel
  have hperm' : permReason (s.updTile t id) p e k dpa = none := hperm
  unfold translate
  simp only [Nat.not_le.2 hva, if_false, hparcel', findEntry_of_hits h, ← hdpa, hperm']

/-- An aligned access of at most 8 bytes lies in one line. -/
theorem Hits.in_line {s : State} {t va : Nat} {k : AccessKind} {p : Nat} {e : TlbEntry} {dpa n : Nat} (h : Hits s t va k p e dpa)
    (h0 : va % n = 0) (hn : n ∣ 64) : dpa % 64 + n ≤ 64 := by
  obtain ⟨-, -, -, -, -, hmod, -⟩ := h
  have hdvd : n ∣ dpa % 64 := by
    refine (Nat.dvd_mod_iff hn).2 ((Nat.dvd_mod_iff (Nat.dvd_trans hn (by decide : 64 ∣ 4096))).1 (hmod ▸ ?_))
    exact (Nat.dvd_mod_iff (Nat.dvd_trans hn (by decide))).2 (Nat.dvd_of_mod_eq_zero h0)
  obtain ⟨q, hq⟩ := hn
  obtain ⟨j, hj⟩ := hdvd
  have hlt : dpa % 64 < 64 := Nat.mod_lt _ (by decide)
  have hjq : j < q := by
    rw [hj] at hlt
    conv at hlt => rhs; rw [hq]
    exact Nat.lt_of_mul_lt_mul_left hlt
  calc dpa % 64 + n = n * (j + 1) := by rw [hj, Nat.mul_succ]
    _ ≤ n * q := Nat.mul_le_mul_left n hjq
    _ = 64 := hq.symm

/-- The bytes of an access in the line that memory has. -/
theorem slice_read (m : Mem) {a n : Nat} (h : a % 64 + n ≤ 64) : slice (m.read (a / 64 * 64) 64) (a % 64) n = (List.range n).map fun i => m.byte (a + i) := by
  refine List.ext_getElem (by simp [slice, Mem.read]; omega) fun i hi hi' => ?_
  simp only [slice, Mem.read, List.getElem_take, List.getElem_drop, List.getElem_map, List.getElem_range]
  congr 1
  omega

theorem Tile.sPut_sRegs {T U : Tile} (h : T.sRegs = U.sRegs) (r : Nat) (x : Word) : (T.sPut r x).sRegs = (U.sPut r x).sRegs := by
  unfold Tile.sPut
  by_cases hr : r = 0
  · rw [if_pos hr, if_pos hr, h]
  · rw [if_neg hr, if_neg hr, h]

theorem Tile.sPut_pc (T : Tile) (r : Nat) (x : Word) : (T.sPut r x).pc = T.pc := by
  unfold Tile.sPut
  split <;> rfl

theorem Tile.sPut_cache (T : Tile) (r : Nat) (x : Word) : (T.sPut r x).cache = T.cache := by
  unfold Tile.sPut
  split <;> rfl

/-- Settles O9: an access by the line that the cache has, or fills. -/
theorem cacheHitLoad : Obligations.CacheHitLoad := by
  unfold Obligations.CacheHitLoad
  intro s t h uns size rd rs1 imm p e dpa
  extract_lets va n C load store ext merged loads stores line victim wrote
  intro h0 hen
  obtain ⟨hn0, hn8⟩ := size_le_eight size
  have hn64 : n ∣ 64 := Nat.pow_dvd_pow (m := size.toNat) (n := 6) 2 (by have := size.isLt; omega)
  have hextend (v : Nat) : Sys2Proof.ext (!uns) (8 * n) v = ext v := by cases uns <;> rfl
  have hen0 : ((s.updTile t id).tile t).cache.en = true := by rw [State.updTile_tile]; exact hen
  have hload {r : Except Exc Nat} {u : State} (hu : loadMem s.freeCtr s t va n = (r, u)) : load = .next (finishLoad u t uns size rd r) := by
    refine (issue_runs h _).trans (congrArg _ ?_)
    have hu' : loadMem s.freeCtr s t (memAddr s t rs1 imm) (accBytes size) = (r, u) := hu
    rw [hu']
  have hstore {u : State} (hu : storeMem s t va n (sVal s t rd) false = (none, u)) : store = .next (retire u t id) := by
    refine (issue_runs h _).trans (congrArg _ ?_)
    have hu' : storeMem s t (memAddr s t rs1 imm) (accBytes size) (sVal s t rd) false = (none, u) := hu
    rw [hu']
  have hlow {k : AccessKind} (hh : Hits s t va k p e dpa) : dpa < 0x8000000000 := by
    obtain ⟨-, -, -, -, -, -, a, ha⟩ := hh
    exact lt_of_place_cellar ha
  have hhit {k : AccessKind} (hh : Hits s t va k p e dpa) {l : CacheLine} (hl : C.lineAt dpa = some l) (isLoad : Bool) :
      ∃ tr hit acc win, let f := fun T : Tile => { T with cache := { T.cache with tree := tr, perfHit := hit, accCnt := acc, ceWindow := win } }
        cacheLine (s.updTile t id) t dpa (bitOf e.leaf 4) isLoad = (true, s.updTile t f) ∧ ((s.updTile t f).tile t).cache.lineAt dpa = some l := by
    obtain ⟨w, hw, hfind⟩ := Cache.lineAt_eq_some.1 hl
    obtain ⟨tr, hit, acc, win, hc⟩ := cacheLine_hit (s := s.updTile t id) (w := w) (bitOf e.leaf 4) isLoad hen0 (hlow hh)
      (by rw [State.updTile_tile]; exact hw)
    rw [State.updTile_updTile] at hc
    refine ⟨tr, hit, acc, win, hc, ?_⟩
    rw [State.updTile_tile]
    exact hl
  refine ⟨fun l ⟨hh, hperm⟩ hl hsound => ?_, fun l ⟨hh, hperm⟩ hl hbad => ?_, fun l ⟨hh, hperm⟩ hl => ?_, fun hcacheable hl hside hsound => ?_⟩
  · obtain ⟨tr, hit, acc, win, hc, hline⟩ := hhit hh hl true
    have hm := loadMem_of_line (k := s.freeCtr) h0 (translate_of_hits hh hperm) hc hline
    rw [hsound] at hm
    refine ⟨tr, hit, acc, win, (hload hm).trans ?_⟩
    rw [← hextend]
    rfl
  · obtain ⟨tr, hit, acc, win, hc, hline⟩ := hhit hh hl true
    have hm := loadMem_of_line (k := s.freeCtr) h0 (translate_of_hits hh hperm) hc hline
    rw [hbad] at hm
    exact ⟨_, hload hm, rfl⟩
  · obtain ⟨tr, hit, acc, win, hc, hline⟩ := hhit hh hl false
    obtain ⟨D, hput, hD⟩ := tileWrite_of_line (bs := leBytes n (sVal s t rd)) hc hline
    refine ⟨_, hstore (storeMem_of_cellar h0 (translate_of_hits hh hperm) (hlow hh)), ?_⟩
    rw [hput, State.updTile_updTile]
    refine ⟨rfl, ?_⟩
    rw [retire_eq, State.updTile_tile, State.updTile_tile]
    refine ⟨rfl, rfl, hD.trans ?_⟩
    rw [CacheLine.put, length_leBytes]
    rfl
  · have hmiss {k : AccessKind} (hh : Hits s t va k p e dpa) (isLoad : Bool) : ∃ u D r,
        cacheLine (s.updTile t id) t dpa (bitOf e.leaf 4) isLoad = (true, u) ∧ u.tile t = { s.tile t with cache := D, rawB := r } ∧
        D.lineAt dpa = some { dpa := dpa / 64 * 64, dirty := false, poison := false, data := line } ∧ wrote u.mem := by
      obtain ⟨u, D, r, hc, hu, hD, hev⟩ := cacheLine_miss (s := s.updTile t id) (t := t) isLoad hen0 (hlow hh) (by rw [State.updTile_tile]; exact hl)
        (by rw [State.updTile_tile]; exact hside)
      rw [State.updTile_tile] at hu hev
      rw [State.updTile_mem, hsound] at hD
      exact ⟨u, D, r, hcacheable ▸ hc, hu, hD, hev⟩
    refine ⟨fun ⟨hh, hperm⟩ => ?_, fun ⟨hh, hperm⟩ => ?_⟩
    · obtain ⟨u, D, r, hc, hu, hD, hwrote⟩ := hmiss hh true
      have hm := loadMem_of_line (k := s.freeCtr) h0 (translate_of_hits hh hperm) hc (by rw [hu]; exact hD)
      rw [slice_read _ (hh.in_line h0 hn64)] at hm
      refine ⟨_, hload hm, hwrote, ?_⟩
      have hfinal : (finishLoad u t uns size rd (.ok (leNat ((List.range n).map fun i => s.mem.byte (dpa + i))))).tile t
          = { (u.tile t).sPut rd.toNat (ext (leNat ((List.range n).map fun i => s.mem.byte (dpa + i)))) with
              pc := ((u.tile t).sPut rd.toNat (ext (leNat ((List.range n).map fun i => s.mem.byte (dpa + i))))).pc + 4, unparked := false } := by
        rw [← hextend]
        exact State.updTile_tile ..
      rw [if_neg Bool.false_ne_true, hfinal]
      refine ⟨?_, ?_, ?_⟩
      · refine (congrArg (· + 4) (Tile.sPut_pc ..)).trans ?_
        rw [hu]
      · exact Tile.sPut_sRegs (by rw [hu]) _ _
      · refine (congrArg (Cache.lineAt · dpa) (Tile.sPut_cache ..)).trans ?_
        rw [hu]
        exact hD
    · obtain ⟨u, D, r, hc, hu, hD, hwrote⟩ := hmiss hh false
      obtain ⟨D', hput, hD'⟩ := tileWrite_of_line (bs := leBytes n (sVal s t rd)) hc (by rw [hu]; exact hD)
      refine ⟨_, hstore (storeMem_of_cellar h0 (translate_of_hits hh hperm) (hlow hh)), ?_⟩
      rw [hput]
      refine ⟨hwrote, ?_⟩
      rw [retire_eq, State.updTile_tile, State.updTile_tile, hu]
      refine ⟨rfl, rfl, hD'.trans ?_⟩
      rw [CacheLine.put, length_leBytes]
      rfl

end Sys2Proof.Machine

/-! PROOFS. O60: the decoder reads back what the encoder writes. -/

namespace Sys2Proof

-- ## The fields of a word

/-- The fields of a REG word have their widths. -/
def RegWord.fits (x : RegWord) : Prop := x.rd < 32 ∧ x.rs1 < 32 ∧ x.rs2 < 32 ∧ x.pred < 8 ∧ x.fn < 256

/-- What the decoder does with a REG word of a major. -/
def decReg (t : TileId) (m : Nat) (x : RegWord) : Option Instr :=
  if m = 0x01 then decSalu t x
  else if m = 0x19 then decSfp t x
  else if m = 0x1A then decMaint t x
  else if m < 0x24 then decVarith t m x
  else if m < 0x26 then decVmove t m x
  else if m < 0x29 then decVreduce t m x
  else if m < 0x2E then decVoper t m x
  else decVmem t m x

/-- Majors of REG words. -/
abbrev regMajor (m : Nat) : Prop := m = 0x01 ∨ m = 0x19 ∨ m = 0x1A ∨ (0x20 ≤ m ∧ m < 0x2E) ∨ (0x30 ≤ m ∧ m < 0x36)

theorem decodeWord_reg {w : BitVec 32} {m : Nat} (hm : regMajor m) (hmajor : field w.toNat 26 6 = m) (t : TileId) :
    decodeWord t w = decReg t m (regWord w.toNat) := by
  unfold decodeWord decReg
  simp only [hmajor]
  generalize regWord w.toNat = x
  generalize w.toNat = n
  rcases hm with rfl | rfl | rfl | ⟨hlo, hhi⟩ | ⟨hlo, hhi⟩
  · rfl
  · rfl
  · rfl
  · have hcases : m = 0x20 ∨ m = 0x21 ∨ m = 0x22 ∨ m = 0x23 ∨ m = 0x24 ∨ m = 0x25 ∨ m = 0x26 ∨ m = 0x27 ∨ m = 0x28 ∨ m = 0x29 ∨ m = 0x2A ∨
      m = 0x2B ∨ m = 0x2C ∨ m = 0x2D := by omega
    rcases hcases with rfl | rfl | rfl | rfl | rfl | rfl | rfl | rfl | rfl | rfl | rfl | rfl | rfl | rfl <;> rfl
  · have hcases : m = 0x30 ∨ m = 0x31 ∨ m = 0x32 ∨ m = 0x33 ∨ m = 0x34 ∨ m = 0x35 := by omega
    rcases hcases with rfl | rfl | rfl | rfl | rfl | rfl <;> rfl

theorem decodeWord_encReg {m rd rs1 rs2 pred fn : Nat} {w : BitVec 32} (h : encReg m rd rs1 rs2 pred fn = some w) (hm : regMajor m)
    (hx : RegWord.fits ⟨rd, rs1, rs2, pred, fn⟩) (t : TileId) : decodeWord t w = decReg t m ⟨rd, rs1, rs2, pred, fn⟩ := by
  obtain rfl := Option.some.inj h
  obtain ⟨hrd, hrs1, hrs2, hpred, hfn⟩ := hx
  simp only at hrd hrs1 hrs2 hpred hfn
  have hlt : m < 64 := by omega
  have hn : (BitVec.ofNat 32 (m * 2 ^ 26 + rd * 2 ^ 21 + rs1 * 2 ^ 16 + rs2 * 2 ^ 11 + pred * 2 ^ 8 + fn)).toNat
      = m * 2 ^ 26 + rd * 2 ^ 21 + rs1 * 2 ^ 16 + rs2 * 2 ^ 11 + pred * 2 ^ 8 + fn := by
    rw [BitVec.toNat_ofNat, Nat.mod_eq_of_lt (by omega)]
  have hword : regWord (m * 2 ^ 26 + rd * 2 ^ 21 + rs1 * 2 ^ 16 + rs2 * 2 ^ 11 + pred * 2 ^ 8 + fn) = ⟨rd, rs1, rs2, pred, fn⟩ := by
    unfold regWord field
    rw [RegWord.mk.injEq]
    omega
  rw [decodeWord_reg hm (by rw [hn, field]; omega), hn, hword]

/-- A word of an IMM, MEM, BR or JMP format. -/
theorem decodeWord_imm {n m : Nat} {w : BitVec 32} (h : some (BitVec.ofNat 32 n) = some w) (hn : n < 2 ^ 32) (hm : 2 ≤ m ∧ m < 0x18)
    (hmajor : field n 26 6 = m) (t : TileId) : decodeWord t w = decImm t m n := by
  obtain rfl := Option.some.inj h
  obtain ⟨hlo, hhi⟩ := hm
  have hw : (BitVec.ofNat 32 n).toNat = n := by rw [BitVec.toNat_ofNat, Nat.mod_eq_of_lt hn]
  unfold decodeWord
  simp only [hw, hmajor]
  rw [if_neg (by omega), if_neg (by omega), if_neg (by omega), if_neg (by omega), if_pos (by omega)]

theorem decodeWord_sys {n : Nat} {w : BitVec 32} (h : some (BitVec.ofNat 32 n) = some w) (hn : n < 2 ^ 32) (hmajor : field n 26 6 = 0x18) (t : TileId) :
    decodeWord t w = decSys t n := by
  obtain rfl := Option.some.inj h
  have hw : (BitVec.ofNat 32 n).toNat = n := by rw [BitVec.toNat_ofNat, Nat.mod_eq_of_lt hn]
  unfold decodeWord
  simp only [hw, hmajor]
  rw [if_neg (by decide)]
  exact if_pos trivial

theorem ofNat_eq_of_mod {n k : Nat} {x : BitVec n} (h : k % 2 ^ n = x.toNat) : BitVec.ofNat n k = x :=
  BitVec.eq_of_toNat_eq (by rw [BitVec.toNat_ofNat, h])

/-- An IMM word: its major, registers and immediate. -/
theorem decodeWord_encImm {m : Nat} {rd rs1 : Reg} {imm : BitVec 16} {w : BitVec 32} (h : encImm m rd.toNat rs1.toNat imm.toNat = some w)
    (hm : 2 ≤ m ∧ m < 0x18) (t : TileId) : ∃ n, decodeWord t w = decImm t m n ∧ reg (field n 21 5) = rd ∧ reg (field n 16 5) = rs1 ∧
      BitVec.ofNat 16 n = imm ∧ n % 2 ^ 16 = imm.toNat ∧ field n 16 5 = rs1.toNat := by
  refine ⟨_, decodeWord_imm h ?_ hm ?_ t, ofNat_eq_of_mod ?_, ofNat_eq_of_mod ?_, ofNat_eq_of_mod ?_, ?_, ?_⟩
  · omega
  · simp only [field]; omega
  · simp only [field]; omega
  · simp only [field]; omega
  · omega
  · omega
  · simp only [field]; omega

/-- A MEM word: its major, registers, flag, size and immediate. -/
theorem decodeWord_encMem {m : Nat} {rd rs1 : Reg} {uns : Bool} {size : Size} {imm : BitVec 13} {w : BitVec 32}
    (h : encMem m rd.toNat rs1.toNat uns size.toNat imm.toNat = some w) (hm : 2 ≤ m ∧ m < 0x18) (t : TileId) :
    ∃ n, decodeWord t w = decImm t m n ∧ reg (field n 21 5) = rd ∧ reg (field n 16 5) = rs1 ∧ (field n 15 1 == 1) = uns ∧
      (BitVec.ofNat 2 (field n 13 2) : Size) = size ∧ BitVec.ofNat 13 n = imm := by
  have hflag : (if uns then 2 ^ 15 else 0) ≤ 2 ^ 15 := by split <;> decide
  refine ⟨_, decodeWord_imm h ?_ hm ?_ t, ofNat_eq_of_mod ?_, ofNat_eq_of_mod ?_, ?_, ofNat_eq_of_mod ?_, ofNat_eq_of_mod ?_⟩
  · omega
  · simp only [field]; omega
  · simp only [field]; omega
  · simp only [field]; omega
  · simp only [field]
    cases uns
    · simp; omega
    · simp; omega
  · cases uns <;> simp only [field, Bool.false_eq_true, if_false, if_true] <;> omega
  · cases uns <;> simp only [Bool.false_eq_true, if_false, if_true] <;> omega

/-- A SYS word: its registers, its immediate and its op. -/
theorem decodeWord_encSys {rd rs1 imm op : Nat} {w : BitVec 32} (h : encSys rd rs1 imm op = some w) (hrd : rd < 32) (hrs1 : rs1 < 32) (himm : imm < 4096)
    (hop : op < 16) (t : TileId) :
    ∃ n, decodeWord t w = decSys t n ∧ field n 21 5 = rd ∧ field n 16 5 = rs1 ∧ field n 4 12 = imm ∧ field n 0 4 = op := by
  refine ⟨_, decodeWord_sys h ?_ ?_ t, ?_, ?_, ?_, ?_⟩
  · omega
  · simp only [field]; omega
  · simp only [field]; omega
  · simp only [field]; omega
  · simp only [field]; omega
  · simp only [field]; omega

-- ## Operands

@[simp] theorem reg_toNat (r : Reg) : reg r.toNat = r := by simp [reg]
@[simp] theorem preg_toNat (r : PReg) : preg r.toNat = r := by simp [preg]
@[simp] theorem reg_zero : reg 0 = 0#5 := rfl

-- ## Operation codes: the tables give back the operation of a code

@[simp] theorem SaluOp.all_code (op : SaluOp) : SaluOp.all[op.code]? = some op := by cases op <;> rfl
@[simp] theorem ImmOp.all_code (op : ImmOp) : ImmOp.all[op.code - 2]? = some op := by cases op <;> rfl
@[simp] theorem ShiftKind.all_code (op : ShiftKind) : ShiftKind.all[op.code]? = some op := by cases op <;> rfl
@[simp] theorem BrCond.all_code (op : BrCond) : BrCond.all[op.code]? = some op := by cases op <;> rfl
@[simp] theorem SfpOp.all_code (op : SfpOp) : SfpOp.all[op.code]? = some op := by cases op <;> rfl
@[simp] theorem VFpOp.all_code (op : VFpOp) : VFpOp.all[op.code]? = some op := by cases op <;> rfl
@[simp] theorem VLogicOp.all_code (op : VLogicOp) : VLogicOp.all[op.code]? = some op := by cases op <;> rfl
@[simp] theorem PLogicOp.all_code (op : PLogicOp) : PLogicOp.all[op.code]? = some op := by cases op <;> rfl
@[simp] theorem VRedOp.all_code (op : VRedOp) : VRedOp.all[op.code]? = some op := by cases op <;> rfl
@[simp] theorem VFRedOp.all_code (op : VFRedOp) : VFRedOp.all[op.code]? = some op := by cases op <;> rfl
@[simp] theorem VScanOp.all_code (op : VScanOp) : VScanOp.all[op.code]? = some op := by cases op <;> rfl
@[simp] theorem VBitOp.all_code (op : VBitOp) : VBitOp.all[op.code]? = some op := by cases op <;> rfl
@[simp] theorem RedOp.all_code (op : RedOp) : RedOp.all[op.code]? = some op := by cases op <;> rfl
@[simp] theorem VIntOp.ofCode_code (op : VIntOp) : VIntOp.ofCode op.code = some op := by cases op <;> rfl
@[simp] theorem VCmpOp.ofCode_code (op : VCmpOp) : VCmpOp.ofCode op.code = some op := by cases op <;> rfl

theorem SaluOp.code_lt (op : SaluOp) : op.code < 24 := by cases op <;> decide
theorem ImmOp.code_lt (op : ImmOp) : op.code < 8 := by cases op <;> decide
theorem ShiftKind.code_lt (op : ShiftKind) : op.code < 3 := by cases op <;> decide
theorem BrCond.code_lt (op : BrCond) : op.code < 6 := by cases op <;> decide
theorem SfpOp.code_lt (op : SfpOp) : op.code < 15 := by cases op <;> decide
theorem VFpOp.code_lt (op : VFpOp) : op.code < 12 := by cases op <;> decide
theorem VLogicOp.code_lt (op : VLogicOp) : op.code < 7 := by cases op <;> decide
theorem PLogicOp.code_lt (op : PLogicOp) : op.code < 5 := by cases op <;> decide
theorem VRedOp.code_lt (op : VRedOp) : op.code < 6 := by cases op <;> decide
theorem VFRedOp.code_lt (op : VFRedOp) : op.code < 3 := by cases op <;> decide
theorem VScanOp.code_lt (op : VScanOp) : op.code < 4 := by cases op <;> decide
theorem VBitOp.code_lt (op : VBitOp) : op.code < 3 := by cases op <;> decide
theorem RedOp.code_lt (op : RedOp) : op.code < 5 := by cases op <;> decide
theorem VIntOp.code_lt (op : VIntOp) : op.code < 11 := by cases op <;> decide
theorem VCmpOp.code_lt (op : VCmpOp) : op.code < 12 := by cases op <;> decide
theorem VDivOp.code_lt (op : VDivOp) : op.code < 6 := by cases op <;> decide

-- ## Flags

theorem flagBit_le (b : Bool) (i : Nat) : flagBit b i ≤ 2 ^ i := by
  unfold flagBit
  split <;> simp

theorem flag_mod {c : Nat} (vs : Bool) (h : c < 128) : (flagBit vs 7 + c) % 128 = c := by
  cases vs <;> simp [flagBit] <;> omega

theorem flag_set {c : Nat} (vs : Bool) (h : c < 128) : decide (128 ≤ flagBit vs 7 + c) = vs := by
  cases vs <;> simp [flagBit] <;> omega

-- ## Groups whose operations stand in tables

section
variable (t : TileId) (vs : Bool) (rd rs1 rs2 : Reg) (p : PReg)

theorem decSalu_code {op : SaluOp} (h : (!op.unary || rs2 == 0) = true) :
    decSalu t ⟨rd.toNat, rs1.toNat, rs2.toNat, 0, op.code⟩ = some (.salu t op rd rs1 rs2) := by
  have hcode : op.code ≠ 0x18 := by have := op.code_lt; omega
  cases hu : op.unary <;> simp_all [decSalu]

theorem decSfp_code {op : SfpOp} (d : Bool) (h : (op != .fsqrt || rs2 == 0) = true) :
    decSfp t ⟨rd.toNat, rs1.toNat, rs2.toNat, 0, 2 * op.code + flagBit d 0⟩ = some (.sfp t op d rd rs1 rs2) := by
  have hhalf : (2 * op.code + flagBit d 0) / 2 = op.code := by have := flagBit_le d 0; cases d <;> simp [flagBit]; omega
  have hflag : ((2 * op.code + flagBit d 0) % 2 == 1) = d := by cases d <;> simp [flagBit]
  cases hu : op == .fsqrt <;> simp_all [decSfp]

theorem decVarith_int (op : VIntOp) : decVarith t 0x20 ⟨rd.toNat, rs1.toNat, rs2.toNat, p.toNat, flagBit vs 7 + op.code⟩
    = some (.vintArith t op vs rd rs1 rs2 p) := by
  have hlt : op.code < 128 := by have := op.code_lt; omega
  have hdiv : op.code ≠ 0x04 ∧ op.code ≠ 0x05 := by cases op <;> decide
  simp [decVarith, flag_mod vs hlt, flag_set vs hlt, hdiv]

theorem decVarith_div (op : VDivOp) : decVarith t 0x20 ⟨rd.toNat, rs1.toNat, rs2.toNat, p.toNat, flagBit vs 7 + op.code⟩
    = some (.vdiv t op vs rd rs1 rs2 p) := by
  have hlt : op.code < 128 := by have := op.code_lt; omega
  simp only [decVarith, flag_mod vs hlt, flag_set vs hlt, reg_toNat, preg_toNat]
  cases op <;> rfl

theorem decVarith_fp {op : VFpOp} (h : ((op.hasVs || !vs) && (!op.unary || rs2 == 0)) = true) :
    decVarith t 0x21 ⟨rd.toNat, rs1.toNat, rs2.toNat, p.toNat, flagBit vs 7 + op.code⟩ = some (.vfpArith t op vs rd rs1 rs2 p) := by
  have hlt : op.code < 128 := by have := op.code_lt; omega
  simp only [decVarith, flag_mod vs hlt, flag_set vs hlt, reg_toNat, preg_toNat, VFpOp.all_code]
  refine if_neg ?_
  cases hv : op.hasVs <;> cases hu : op.unary <;> simp_all

theorem decVarith_cmp (op : VCmpOp) (pd : PReg) : decVarith t 0x22 ⟨pd.toNat, rs1.toNat, rs2.toNat, p.toNat, flagBit vs 7 + op.code⟩
    = some (.vcmp t op vs pd rs1 rs2 p) := by
  have hlt : op.code < 128 := by have := op.code_lt; omega
  have hpd : ¬ 8 ≤ pd.toNat := by omega
  simp [decVarith, flag_mod vs hlt, flag_set vs hlt, hpd]

theorem decVarith_logic {op : VLogicOp} (h : (op != .vnot || (!vs && rs2 == 0)) = true) :
    decVarith t 0x23 ⟨rd.toNat, rs1.toNat, rs2.toNat, p.toNat, flagBit vs 7 + op.code⟩ = some (.vlogic t op vs rd rs1 rs2 p) := by
  have hlt : op.code < 128 := by have := op.code_lt; omega
  have hpred : ¬ (0x40 ≤ flagBit vs 7 + op.code ∧ flagBit vs 7 + op.code < 0x45) := by
    have := op.code_lt
    cases vs <;> simp [flagBit] <;> omega
  simp only [decVarith, flag_mod vs hlt, flag_set vs hlt, reg_toNat, preg_toNat, VLogicOp.all_code, Bool.and_eq_true, decide_eq_true_eq, if_neg hpred]
  refine if_neg ?_
  cases hu : op == .vnot <;> simp_all

theorem decVarith_predicate (op : PLogicOp) (pd ps1 ps2 : PReg) :
    decVarith t 0x23 ⟨pd.toNat, ps1.toNat, ps2.toNat, 0, 0x40 + op.code⟩ = some (.predicateLogic t op pd ps1 ps2) := by
  have hcode := op.code_lt
  have hfn : 0x40 ≤ 0x40 + op.code ∧ 0x40 + op.code < 0x45 := by omega
  have hpd : ¬ 8 ≤ pd.toNat := by omega
  have hps1 : ¬ 8 ≤ ps1.toNat := by omega
  have hps2 : ¬ 8 ≤ ps2.toNat := by omega
  simp [decVarith, hfn, hpd, hps1, hps2]

theorem decVreduce_bits (op : VBitOp) : decVreduce t 0x28 ⟨rd.toNat, rs1.toNat, 0, p.toNat, op.code⟩ = some (.vpopc t op rd rs1 p) := by
  cases op <;> simp [decVreduce, VBitOp.code, VBitOp.all]

/-- The func of a memory instruction, taken apart. -/
theorem memFn_fields (ts ff sc : Bool) {k : Nat} (h : k < 4) :
    (flagBit ts 7 + flagBit ff 6 + k * 2 ^ 4 + flagBit sc 3) % 8 = 0 ∧ decide (128 ≤ flagBit ts 7 + flagBit ff 6 + k * 2 ^ 4 + flagBit sc 3) = ts ∧
    decide (64 ≤ (flagBit ts 7 + flagBit ff 6 + k * 2 ^ 4 + flagBit sc 3) % 128) = ff ∧
    (flagBit ts 7 + flagBit ff 6 + k * 2 ^ 4 + flagBit sc 3) / 16 % 2 ^ 2 = k ∧
    decide (8 ≤ (flagBit ts 7 + flagBit ff 6 + k * 2 ^ 4 + flagBit sc 3) % 16) = sc := by
  cases ts <;> cases ff <;> cases sc <;> simp [flagBit] <;> omega

theorem decVmem_gather (ts ff sc : Bool) (iw : Size) :
    decVmem t 0x34 ⟨rd.toNat, rs1.toNat, rs2.toNat, p.toNat, flagBit ts 7 + flagBit ff 6 + iw.toNat * 2 ^ 4 + flagBit sc 3⟩
      = some (.vgather t ts ff iw sc rd rs1 rs2 p) := by
  obtain ⟨h8, hts, hff, hiw, hsc⟩ := memFn_fields ts ff sc (k := iw.toNat) (by omega)
  simp only [decVmem, h8, hts, hff, ofNat_eq_of_mod hiw, hsc, reg_toNat, preg_toNat]
  rfl

theorem decVmem_scatter (ts sc : Bool) (iw : Size) :
    decVmem t 0x35 ⟨rd.toNat, rs1.toNat, rs2.toNat, p.toNat, flagBit ts 7 + iw.toNat * 2 ^ 4 + flagBit sc 3⟩ = some (.vscatter t ts iw sc rd rs1 rs2 p) := by
  obtain ⟨h8, hts, hff, hiw, hsc⟩ := memFn_fields ts false sc (k := iw.toNat) (by omega)
  rw [show flagBit ts 7 + flagBit false 6 = flagBit ts 7 from rfl] at h8 hts hff hiw hsc
  simp only [decVmem, h8, hts, hff, ofNat_eq_of_mod hiw, hsc, reg_toNat, preg_toNat]
  rfl

theorem decVoper_hash (slot : BitVec 3) : decVoper t 0x29 ⟨rd.toNat, rs1.toNat, 0, p.toNat, slot.toNat⟩ = some (.vhash t slot rd rs1 p) := by
  have h80 : ¬ 0x80 ≤ slot.toNat := by omega
  have h8 : slot.toNat < 8 := slot.isLt
  simp [decVoper, h80, h8]

theorem decVoper_hashT (slot : BitVec 3) :
    decVoper t 0x29 ⟨rd.toNat, rs1.toNat, rs2.toNat, p.toNat, 0x80 + slot.toNat⟩ = some (.vhashT t slot rd rs1 rs2 p) := by
  have h8 : 0x80 + slot.toNat < 0x88 := by omega
  simp only [decVoper, if_pos (Nat.le_add_right 0x80 _), if_pos h8, reg_toNat, preg_toNat]
  rw [ofNat_eq_of_mod (x := slot) (by omega)]

theorem decVoper_unpk (n1 : BitVec 6) (sx : Bool) :
    decVoper t 0x2A ⟨rd.toNat, rs1.toNat, rs2.toNat, p.toNat, n1.toNat + flagBit sx 6⟩ = some (.vunpk t n1 sx rd rs1 rs2 p) := by
  have hsx : decide (0x40 ≤ n1.toNat + flagBit sx 6) = sx := by cases sx <;> simp [flagBit]; omega
  have hlt : ¬ 0x80 ≤ n1.toNat + flagBit sx 6 := by have := flagBit_le sx 6; omega
  have hn1 : BitVec.ofNat 6 (n1.toNat + flagBit sx 6) = n1 := ofNat_eq_of_mod (by cases sx <;> simp [flagBit] <;> omega)
  simp only [decVoper, if_neg hlt, hsx, hn1, reg_toNat, preg_toNat]

theorem decVoper_dict (iw : Size) : decVoper t 0x2B ⟨rd.toNat, rs1.toNat, rs2.toNat, p.toNat, iw.toNat⟩ = some (.vdict t iw rd rs1 rs2 p) := by
  have h4 : ¬ 4 ≤ iw.toNat := by have := iw.isLt; omega
  simp [decVoper, h4]

theorem decVoper_sort (k m : BitVec 4) :
    decVoper t 0x2C ⟨rd.toNat, rs1.toNat, 0, 0, k.toNat + m.toNat * 2 ^ 4⟩ = some (.vsort t k m rd rs1) := by
  have hk : BitVec.ofNat 4 (k.toNat + m.toNat * 2 ^ 4) = k := ofNat_eq_of_mod (by omega)
  have hm : BitVec.ofNat 4 ((k.toNat + m.toNat * 2 ^ 4) / 16) = m := ofNat_eq_of_mod (by omega)
  simp only [decVoper, hk, hm, reg_toNat]
  rfl

end

theorem decImm_shift {t : TileId} {n : Nat} (k : ShiftKind) (c : BitVec 6) (rd rs1 : Reg)
    (hn : n = 0x09 * 2 ^ 26 + rd.toNat * 2 ^ 21 + rs1.toNat * 2 ^ 16 + (k.code * 2 ^ 6 + c.toNat)) : decImm t 0x09 n = some (.shifti t k rd rs1 c) := by
  have hk := k.code_lt
  have hrd : reg (field n 21 5) = rd := ofNat_eq_of_mod (by simp only [field]; omega)
  have hrs1 : reg (field n 16 5) = rs1 := ofNat_eq_of_mod (by simp only [field]; omega)
  have hzero : field n 8 8 = 0 := by simp only [field]; omega
  have hkind : field n 6 2 = k.code := by simp only [field]; omega
  have hcount : BitVec.ofNat 6 n = c := ofNat_eq_of_mod (by omega)
  simp [decImm, hrd, hrs1, hzero, hkind, hcount]

theorem decImm_jal {t : TileId} {n : Nat} (rd : Reg) (off : BitVec 21) (hn : n = 0x16 * 2 ^ 26 + rd.toNat * 2 ^ 21 + off.toNat) :
    decImm t 0x16 n = some (.jal t rd off) := by
  have hrd : reg (field n 21 5) = rd := ofNat_eq_of_mod (by simp only [field]; omega)
  have hoff : BitVec.ofNat 21 n = off := ofNat_eq_of_mod (by omega)
  simp [decImm, hrd, hoff]

theorem csr_ne {csr : BitVec 12} (h : (csr != 0x032 && csr != 0x006) = true) : csr.toNat ≠ 0x032 ∧ csr.toNat ≠ 0x006 := by
  simp only [Bool.and_eq_true, bne_iff_ne, ne_eq, ← BitVec.toNat_inj] at h
  exact h

/-- Settles O60: each format gives its fields back, and each group reads its instruction off them. -/
theorem decodeEncode : Obligations.DecodeEncode := by
  unfold Obligations.DecodeEncode
  intro i w hwf h
  unfold encode at h
  split at h
  next t op rd rs1 rs2 => -- salu
    exact ⟨t, (decodeWord_encReg h (by decide) (by have := op.code_lt; simp only [RegWord.fits]; omega) t).trans (decSalu_code t rd rs1 rs2 hwf)⟩
  next t op rd rs1 imm => -- aluImmediate
    have hlt := op.code_lt
    have hge : 2 ≤ op.code := by cases op <;> decide
    obtain ⟨n, hn, hd, ha, himm, -⟩ := decodeWord_encImm h (by omega) t
    exact ⟨t, hn.trans (by cases op <;> simp [decImm, ImmOp.code, ImmOp.all, hd, ha, himm])⟩
  next t rd imm => -- lui
    obtain ⟨n, hn, hd, -, himm, -, ha⟩ := decodeWord_encImm (rs1 := 0#5) h (by decide) t
    exact ⟨t, hn.trans (by simp [decImm, hd, ha, himm])⟩
  next t k rd rs1 c => -- shifti
    have hlt := k.code_lt
    refine ⟨t, (decodeWord_imm h (by omega) (m := 9) (by decide) (by simp only [field]; omega) t).trans ?_⟩
    exact decImm_shift k c rd rs1 rfl
  next t rd rs1 rs2 => -- crc32cD
    exact ⟨t, (decodeWord_encReg h (by decide) (by simp only [RegWord.fits]; omega) t).trans (by simp [decReg, decSalu])⟩
  next t uns size rd rs1 imm => -- sld
    obtain ⟨n, hn, hd, ha, huns, hsize, himm⟩ := decodeWord_encMem h (by decide) t
    exact ⟨t, hn.trans (by simp [decImm, hd, ha, huns, hsize, himm])⟩
  next t size rd rs1 imm => -- sst
    obtain ⟨n, hn, hd, ha, huns, hsize, himm⟩ := decodeWord_encMem h (by decide) t
    exact ⟨t, hn.trans (by simp [decImm, hd, ha, huns, hsize, himm])⟩
  next t uns size rd rs1 imm => -- sldt
    obtain ⟨n, hn, hd, ha, huns, hsize, himm⟩ := decodeWord_encMem h (by decide) t
    exact ⟨t, hn.trans (by simp [decImm, hd, ha, huns, hsize, himm])⟩
  next t size rd rs1 imm => -- sstt
    obtain ⟨n, hn, hd, ha, huns, hsize, himm⟩ := decodeWord_encMem h (by decide) t
    exact ⟨t, hn.trans (by simp [decImm, hd, ha, huns, hsize, himm])⟩
  next t c rs1 rs2 off => -- branch
    have hlt := c.code_lt
    obtain ⟨n, hn, hd, ha, himm, -⟩ := decodeWord_encImm h (by omega) t
    exact ⟨t, hn.trans (by cases c <;> simp [decImm, BrCond.code, BrCond.all, hd, ha, himm])⟩
  next t rd off => -- jal
    refine ⟨t, (decodeWord_imm h (by omega) (m := 0x16) (by decide) (by simp only [field]; omega) t).trans ?_⟩
    exact decImm_jal rd off rfl
  next t rd rs1 imm => -- jalr
    obtain ⟨n, hn, hd, ha, himm, -⟩ := decodeWord_encImm h (by decide) t
    exact ⟨t, hn.trans (by simp [decImm, hd, ha, himm])⟩
  next t op d rd rs1 rs2 => -- sfp
    exact ⟨t, (decodeWord_encReg h (by decide) (by have := op.code_lt; have := flagBit_le d 0; simp only [RegWord.fits]; omega) t).trans (decSfp_code t rd rs1 rs2 d hwf)⟩
  next t op vs rd rs1 rs2 p => -- vintArith
    exact ⟨t, (decodeWord_encReg h (by decide) (by have := op.code_lt; have := flagBit_le vs 7; simp only [RegWord.fits]; omega) t).trans (decVarith_int ..)⟩
  next t op vs rd rs1 rs2 p => -- vdiv
    exact ⟨t, (decodeWord_encReg h (by decide) (by have := op.code_lt; have := flagBit_le vs 7; simp only [RegWord.fits]; omega) t).trans (decVarith_div ..)⟩
  next t op vs rd rs1 rs2 p => -- vfpArith
    exact ⟨t, (decodeWord_encReg h (by decide) (by have := op.code_lt; have := flagBit_le vs 7; simp only [RegWord.fits]; omega) t).trans (decVarith_fp t vs rd rs1 rs2 p hwf)⟩
  next t op vs pd rs1 rs2 p => -- vcmp
    exact ⟨t, (decodeWord_encReg h (by decide) (by have := op.code_lt; have := flagBit_le vs 7; simp only [RegWord.fits]; omega) t).trans (decVarith_cmp ..)⟩
  next t op vs rd rs1 rs2 p => -- vlogic
    exact ⟨t, (decodeWord_encReg h (by decide) (by have := op.code_lt; have := flagBit_le vs 7; simp only [RegWord.fits]; omega) t).trans (decVarith_logic t vs rd rs1 rs2 p hwf)⟩
  next t op pd ps1 ps2 => -- predicateLogic
    exact ⟨t, (decodeWord_encReg h (by decide) (by have := op.code_lt; simp only [RegWord.fits]; omega) t).trans (decVarith_predicate ..)⟩
  next t rd rs1 rs2 p => -- vsel
    exact ⟨t, (decodeWord_encReg h (by decide) (by simp only [RegWord.fits]; omega) t).trans (by simp [decReg, decVmove])⟩
  next t rd rs1 p => -- vcompress
    exact ⟨t, (decodeWord_encReg h (by decide) (by simp only [RegWord.fits]; omega) t).trans (by simp [decReg, decVmove])⟩
  next t rd rs1 p => -- vexpand
    exact ⟨t, (decodeWord_encReg h (by decide) (by simp only [RegWord.fits]; omega) t).trans (by simp [decReg, decVmove])⟩
  next t rd rs1 p => -- vmv
    exact ⟨t, (decodeWord_encReg h (by decide) (by simp only [RegWord.fits]; omega) t).trans (by simp [decReg, decVmove])⟩
  next t rd rs1 p => -- vmvVs
    exact ⟨t, (decodeWord_encReg h (by decide) (by simp only [RegWord.fits]; omega) t).trans (by simp [decReg, decVmove])⟩
  next t rd rs1 rs2 => -- vmvSv
    exact ⟨t, (decodeWord_encReg h (by decide) (by simp only [RegWord.fits]; omega) t).trans (by simp [decReg, decVmove])⟩
  next t rd rs1 rs2 => -- vins
    exact ⟨t, (decodeWord_encReg h (by decide) (by simp only [RegWord.fits]; omega) t).trans (by simp [decReg, decVmove])⟩
  next t rd p => -- viota
    exact ⟨t, (decodeWord_encReg h (by decide) (by simp only [RegWord.fits]; omega) t).trans (by simp [decReg, decVmove])⟩
  next t rd rs1 rs2 p => -- vperm
    exact ⟨t, (decodeWord_encReg h (by decide) (by simp only [RegWord.fits]; omega) t).trans (by simp [decReg, decVmove])⟩
  next t rd rs1 rs2 p => -- vslideup
    exact ⟨t, (decodeWord_encReg h (by decide) (by simp only [RegWord.fits]; omega) t).trans (by simp [decReg, decVmove])⟩
  next t rd rs1 rs2 p => -- vslidedn
    exact ⟨t, (decodeWord_encReg h (by decide) (by simp only [RegWord.fits]; omega) t).trans (by simp [decReg, decVmove])⟩
  next t rd rs1 p => -- vrev
    exact ⟨t, (decodeWord_encReg h (by decide) (by simp only [RegWord.fits]; omega) t).trans (by simp [decReg, decVmove])⟩
  next t op rd rs1 rs2 p => -- vred
    exact ⟨t, (decodeWord_encReg h (by decide) (by have := op.code_lt; simp only [RegWord.fits]; omega) t).trans (by have := op.code_lt; simp [decReg, decVreduce]; omega)⟩
  next t op rd rs1 rs2 p => -- vfredsum
    exact ⟨t, (decodeWord_encReg h (by decide) (by have := op.code_lt; simp only [RegWord.fits]; omega) t).trans (by simp [decReg, decVreduce])⟩
  next t op rd rs1 seg p => -- vscan
    exact ⟨t, (decodeWord_encReg h (by decide) (by have := op.code_lt; simp only [RegWord.fits]; omega) t).trans (by simp [decReg, decVreduce]; omega)⟩
  next t op rd rs1 p => -- vpopc
    exact ⟨t, (decodeWord_encReg h (by decide) (by have := op.code_lt; simp only [RegWord.fits]; omega) t).trans (decVreduce_bits ..)⟩
  next t rd ps => -- pcnt
    exact ⟨t, (decodeWord_encReg h (by decide) (by simp only [RegWord.fits]; omega) t).trans (by simp [decReg, decVreduce]; omega)⟩
  next t rd ps => -- pfirst
    exact ⟨t, (decodeWord_encReg h (by decide) (by simp only [RegWord.fits]; omega) t).trans (by simp [decReg, decVreduce]; omega)⟩
  next t rd rs1 rs2 p => -- vcrc32c
    exact ⟨t, (decodeWord_encReg h (by decide) (by simp only [RegWord.fits]; omega) t).trans (by simp [decReg, decVreduce])⟩
  next t rd rs1 rs2 p => -- vcrc32cE
    exact ⟨t, (decodeWord_encReg h (by decide) (by simp only [RegWord.fits]; omega) t).trans (by simp [decReg, decVreduce])⟩
  next t ts ff rd rs1 p => -- vld
    exact ⟨t, (decodeWord_encReg h (by decide) (by have := flagBit_le ts 7; have := flagBit_le ff 6; simp only [RegWord.fits]; omega) t).trans (by cases ts <;> cases ff <;> simp [decReg, decVmem, flagBit])⟩
  next t ts rd rs1 p => -- vst
    exact ⟨t, (decodeWord_encReg h (by decide) (by have := flagBit_le ts 7; simp only [RegWord.fits]; omega) t).trans (by cases ts <;> simp [decReg, decVmem, flagBit])⟩
  next t ts ff rd rs1 rs2 p => -- vlds
    exact ⟨t, (decodeWord_encReg h (by decide) (by have := flagBit_le ts 7; have := flagBit_le ff 6; simp only [RegWord.fits]; omega) t).trans (by cases ts <;> cases ff <;> simp [decReg, decVmem, flagBit])⟩
  next t ts rd rs1 rs2 p => -- vsts
    exact ⟨t, (decodeWord_encReg h (by decide) (by have := flagBit_le ts 7; simp only [RegWord.fits]; omega) t).trans (by cases ts <;> simp [decReg, decVmem, flagBit])⟩
  next t ts ff iw sc rd rs1 rs2 p => -- vgather
    exact ⟨t, (decodeWord_encReg h (by decide) (by have := flagBit_le ts 7; have := flagBit_le ff 6; have := flagBit_le sc 3; simp only [RegWord.fits]; omega) t).trans (decVmem_gather ..)⟩
  next t ts iw sc rd rs1 rs2 p => -- vscatter
    exact ⟨t, (decodeWord_encReg h (by decide) (by have := flagBit_le ts 7; have := flagBit_le sc 3; simp only [RegWord.fits]; omega) t).trans (decVmem_scatter ..)⟩
  next t slot rd rs1 p => -- vhash
    exact ⟨t, (decodeWord_encReg h (by decide) (by simp only [RegWord.fits]; omega) t).trans (decVoper_hash ..)⟩
  next t slot rd rs1 rs2 p => -- vhashT
    exact ⟨t, (decodeWord_encReg h (by decide) (by simp only [RegWord.fits]; omega) t).trans (decVoper_hashT ..)⟩
  next t n1 sx rd rs1 rs2 p => -- vunpk
    exact ⟨t, (decodeWord_encReg h (by decide) (by have := flagBit_le sx 6; simp only [RegWord.fits]; omega) t).trans (decVoper_unpk ..)⟩
  next t iw rd rs1 rs2 p => -- vdict
    exact ⟨t, (decodeWord_encReg h (by decide) (by simp only [RegWord.fits]; omega) t).trans (decVoper_dict ..)⟩
  next t k m rd rs1 => -- vsort
    exact ⟨t, (decodeWord_encReg h (by decide) (by simp only [RegWord.fits]; omega) t).trans (decVoper_sort ..)⟩
  next t op rd rs1 rs2 p => -- vredM
    exact ⟨t, (decodeWord_encReg h (by decide) (by have := op.code_lt; simp only [RegWord.fits]; omega) t).trans (by simp [decReg, decVoper])⟩
  next t rd csr => -- csrr
    obtain ⟨n, hn, hrd, hrs1, himm, hop⟩ := decodeWord_encSys h (by omega) (by omega) (by omega) (by decide) t
    exact ⟨t, hn.trans (by simp [decSys, hrd, hrs1, himm, hop])⟩
  next t csr rs1 => -- csrw
    obtain ⟨n, hn, hrd, hrs1, himm, hop⟩ := decodeWord_encSys h (by omega) (by omega) (by omega) (by decide) t
    obtain ⟨hlen, hstop⟩ := csr_ne hwf
    exact ⟨t, hn.trans (by simp [decSys, hrd, hrs1, himm, hop, hlen, hstop])⟩
  next t rs1 => -- obxLenWrite
    obtain ⟨n, hn, hrd, hrs1, himm, hop⟩ := decodeWord_encSys h (by omega) (by omega) (by omega) (by decide) t
    exact ⟨t, hn.trans (by simp [decSys, hrd, hrs1, himm, hop])⟩
  next t rs1 => -- estop
    obtain ⟨n, hn, hrd, hrs1, himm, hop⟩ := decodeWord_encSys h (by omega) (by omega) (by omega) (by decide) t
    exact ⟨t, hn.trans (by simp [decSys, hrd, hrs1, himm, hop])⟩
  next t  => -- eret
    obtain ⟨n, hn, hrd, hrs1, himm, hop⟩ := decodeWord_encSys h (by omega) (by omega) (by omega) (by decide) t
    exact ⟨t, hn.trans (by simp [decSys, hrd, hrs1, himm, hop])⟩
  next t  => -- fdone
    obtain ⟨n, hn, hrd, hrs1, himm, hop⟩ := decodeWord_encSys h (by omega) (by omega) (by omega) (by decide) t
    exact ⟨t, hn.trans (by simp [decSys, hrd, hrs1, himm, hop])⟩
  next t  => -- fdoneEos
    obtain ⟨n, hn, hrd, hrs1, himm, hop⟩ := decodeWord_encSys h (by omega) (by omega) (by omega) (by decide) t
    exact ⟨t, hn.trans (by simp [decSys, hrd, hrs1, himm, hop])⟩
  next t rd rs1 => -- dqGet
    obtain ⟨n, hn, hrd, hrs1, himm, hop⟩ := decodeWord_encSys h (by omega) (by omega) (by omega) (by decide) t
    exact ⟨t, hn.trans (by simp [decSys, hrd, hrs1, himm, hop])⟩
  next t  => -- dqDone
    obtain ⟨n, hn, hrd, hrs1, himm, hop⟩ := decodeWord_encSys h (by omega) (by omega) (by omega) (by decide) t
    exact ⟨t, hn.trans (by simp [decSys, hrd, hrs1, himm, hop])⟩
  next t rd rs1 => -- dqPut
    obtain ⟨n, hn, hrd, hrs1, himm, hop⟩ := decodeWord_encSys h (by omega) (by omega) (by omega) (by decide) t
    exact ⟨t, hn.trans (by simp [decSys, hrd, hrs1, himm, hop])⟩
  next t rd rs1 vt => -- vsetvl
    obtain ⟨n, hn, hrd, hrs1, himm, hop⟩ := decodeWord_encSys h (by omega) (by omega) (by omega) (by decide) t
    have hlt : vt.toNat < 8 := vt.isLt
    exact ⟨t, hn.trans (by simp [decSys, hrd, hrs1, himm, hop, hlt])⟩
  next t  => -- fence
    obtain ⟨n, hn, hrd, hrs1, himm, hop⟩ := decodeWord_encSys h (by omega) (by omega) (by omega) (by decide) t
    exact ⟨t, hn.trans (by simp [decSys, hrd, hrs1, himm, hop])⟩
  next t rs1 => -- dcCleanVa
    exact ⟨t, (decodeWord_encReg h (by decide) (by simp only [RegWord.fits]; omega) t).trans (by simp [decReg, decMaint])⟩
  next t rs1 => -- dcInvVa
    exact ⟨t, (decodeWord_encReg h (by decide) (by simp only [RegWord.fits]; omega) t).trans (by simp [decReg, decMaint])⟩
  next t rs1 => -- dcCinvVa
    exact ⟨t, (decodeWord_encReg h (by decide) (by simp only [RegWord.fits]; omega) t).trans (by simp [decReg, decMaint])⟩
  next t rs1 rs2 => -- dcCleanRange
    exact ⟨t, (decodeWord_encReg h (by decide) (by simp only [RegWord.fits]; omega) t).trans (by simp [decReg, decMaint])⟩
  next t rs1 rs2 => -- dcInvRange
    exact ⟨t, (decodeWord_encReg h (by decide) (by simp only [RegWord.fits]; omega) t).trans (by simp [decReg, decMaint])⟩
  next t rs1 rs2 => -- dcCinvRange
    exact ⟨t, (decodeWord_encReg h (by decide) (by simp only [RegWord.fits]; omega) t).trans (by simp [decReg, decMaint])⟩
  next t  => -- dcCleanAll
    exact ⟨t, (decodeWord_encReg h (by decide) (by simp only [RegWord.fits]; omega) t).trans (by simp [decReg, decMaint])⟩
  next t  => -- dcInvAll
    exact ⟨t, (decodeWord_encReg h (by decide) (by simp only [RegWord.fits]; omega) t).trans (by simp [decReg, decMaint])⟩
  next t  => -- dcCinvAll
    exact ⟨t, (decodeWord_encReg h (by decide) (by simp only [RegWord.fits]; omega) t).trans (by simp [decReg, decMaint])⟩
  next t rs1 rs2 => -- tlbiVa
    exact ⟨t, (decodeWord_encReg h (by decide) (by simp only [RegWord.fits]; omega) t).trans (by simp [decReg, decMaint])⟩
  next t rs1 => -- tlbiAst
    exact ⟨t, (decodeWord_encReg h (by decide) (by simp only [RegWord.fits]; omega) t).trans (by simp [decReg, decMaint])⟩
  next t  => -- tlbiAll
    exact ⟨t, (decodeWord_encReg h (by decide) (by simp only [RegWord.fits]; omega) t).trans (by simp [decReg, decMaint])⟩
  next t rs1 rs2 => -- tlbiVaP
    exact ⟨t, (decodeWord_encReg h (by decide) (by simp only [RegWord.fits]; omega) t).trans (by simp [decReg, decMaint])⟩
  next t rs1 => -- tlbiAstP
    exact ⟨t, (decodeWord_encReg h (by decide) (by simp only [RegWord.fits]; omega) t).trans (by simp [decReg, decMaint])⟩
  next t  => -- tlbiAllP
    exact ⟨t, (decodeWord_encReg h (by decide) (by simp only [RegWord.fits]; omega) t).trans (by simp [decReg, decMaint])⟩
  next t  => -- tlbsync
    exact ⟨t, (decodeWord_encReg h (by decide) (by simp only [RegWord.fits]; omega) t).trans (by simp [decReg, decMaint])⟩
  next => cases h

end Sys2Proof

/-! PROOFS. O57: the state that cold power-on leaves. -/

namespace Sys2Proof.Machine

/-- Settles O57: each unit's tables are empty at reset, and an empty table gives the unit's reset values. -/
theorem resetState : Obligations.ResetState := by
  unfold Obligations.ResetState
  refine ⟨⟨rfl, rfl, rfl, rfl, rfl, rfl, rfl⟩, fun p => ⟨rfl, rfl, rfl, rfl⟩, fun n => ⟨rfl, rfl, rfl, rfl, rfl⟩, fun k => ⟨rfl, rfl⟩, rfl, rfl, rfl, ?_⟩
  exact ⟨by decide, by decide, by decide, by decide, by decide, by decide⟩

end Sys2Proof.Machine

/-! PROOFS. O32: what happens in a tile cache. -/

namespace Sys2Proof.Machine

-- ## Errors of cache lines

/-- Writing lines back, one after another, leaves of a tile what a write of the fabric leaves. -/
theorem writeBacks_tile {ι : Type} {f : State → ι → State} {t : Nat} (h : ∀ u x, ∃ r, (f u x).tile t = { u.tile t with rawB := r }) (l : List ι)
    (s : State) : ∃ r, (l.foldl f s).tile t = { s.tile t with rawB := r } := by
  refine foldl_keeps (P := fun u : State => ∃ r, u.tile t = { s.tile t with rawB := r }) _ _ ⟨_, rfl⟩ fun u x ⟨r, hu⟩ => ?_
  obtain ⟨r', h'⟩ := h u x
  exact ⟨r', by rw [h', hu]⟩

theorem ite_tile {s u : State} {t : Nat} {c : Prop} [Decidable c] (h : ∃ r, u.tile t = { s.tile t with rawB := r }) :
    ∃ r, (if c then u else s).tile t = { s.tile t with rawB := r } := by
  split
  · exact h
  · exact ⟨_, rfl⟩

/-- What the fourth way lost leaves, before its tile stops. -/
def cacheFails (s : State) (t : Nat) : State :=
  raiseTile (((s.tile t).cache.lines.foldl (fun s kl => writeBack s kl.2) s).updCache t fun C => { C with
    en := false, clean := false, failed := true, lines := [], side := [], prefetches := [] }) t 1

/-- What the loss of a way leaves of the cache. -/
theorem wayDisable_cache {s : State} {t w : Nat} (hon : (s.tile t).cache.waysOff.getLsbD w = false) :
    let C := ((wayDisable s t w).tile t).cache
    C.waysOff = (s.tile t).cache.waysOff ||| BitVec.ofNat 8 (2 ^ w) ∧ C.wayOff = true ∧ (∀ kl ∈ C.lines, kl.1 % 8 ≠ w) ∧
      (4 ≤ C.offCount → C.en = false ∧ C.failed = true ∧ C.lines = []) := by
  unfold wayDisable
  rw [if_neg (by rw [hon]; decide)]
  dsimp only
  obtain ⟨r, hr⟩ := writeBacks_tile (f := fun s (kl : Nat × CacheLine) => if kl.1 % 8 = w then writeBack s kl.2 else s) (t := t)
    (fun u kl => ite_tile (writeBack_tile u kl.2 t)) (s.tile t).cache.lines s
  generalize hs1 : (s.tile t).cache.lines.foldl (fun s kl => if kl.1 % 8 = w then writeBack s kl.2 else s) s = s1 at hr
  generalize hs2 : (s1.updCache t fun C => { C with
    lines := C.lines.filter fun kl => kl.1 % 8 != w, waysOff := C.waysOff ||| BitVec.ofNat 8 (2 ^ w), wayOff := true }) = s2
  have hcache : (s2.tile t).cache = { (s.tile t).cache with
      lines := (s.tile t).cache.lines.filter fun kl => kl.1 % 8 != w, waysOff := (s.tile t).cache.waysOff ||| BitVec.ofNat 8 (2 ^ w), wayOff := true } := by
    rw [← hs2, State.updCache, State.updTile_tile, hr]
  split
  next hfew =>
    rw [raiseTile_tile, hcache]
    rw [hcache] at hfew
    exact ⟨rfl, rfl, fun kl hkl => by simpa using (List.mem_filter.1 hkl).2, fun h => absurd hfew (Nat.not_lt.2 h)⟩
  next =>
    obtain ⟨r', hr'⟩ := writeBacks_tile (f := fun s (kl : Nat × CacheLine) => writeBack s kl.2) (t := t) (fun u kl => writeBack_tile u kl.2 t)
      (s2.tile t).cache.lines s2
    have hfail {u : State} (hu : (u.tile t).cache = { (s2.tile t).cache with
        en := false, clean := false, failed := true, lines := [], side := [], prefetches := [] }) :
        (u.tile t).cache.waysOff = (s.tile t).cache.waysOff ||| BitVec.ofNat 8 (2 ^ w) ∧ (u.tile t).cache.wayOff = true ∧
          (∀ kl ∈ (u.tile t).cache.lines, kl.1 % 8 ≠ w) ∧
          (4 ≤ (u.tile t).cache.offCount → (u.tile t).cache.en = false ∧ (u.tile t).cache.failed = true ∧ (u.tile t).cache.lines = []) := by
      rw [hu, hcache]
      exact ⟨rfl, rfl, nofun, fun _ => ⟨rfl, rfl, rfl⟩⟩
    have hraised : ((cacheFails s2 t).tile t).cache = { (s2.tile t).cache with
        en := false, clean := false, failed := true, lines := [], side := [], prefetches := [] } := by
      rw [cacheFails, raiseTile_tile, State.updCache, State.updTile_tile, hr']
    split
    next =>
      obtain ⟨cause, va, hstop⟩ := stopFree_tile (cacheFails s2 t) t { status := 0x88, source := 2, reason := 0, address := 0
                                                                       sub := ((roleOf (cacheFails s2 t) t).map (·.stage.stage)).getD 0 }
      exact hfail ((congrArg Tile.cache hstop).trans hraised)
    next => exact hfail hraised

theorem wayErrors_eq {s : State} {t w n : Nat} {bad : List Nat} (hon : (s.tile t).cache.waysOff.getLsbD w = false) :
    wayErrors s t w n bad = if 16 ≤ Tab.get 0 (s.tile t).cache.ceWindow w + n then wayDisable (s.updCache t fun C => C.errors w n bad) t w
      else s.updCache t fun C => C.errors w n bad := by
  unfold wayErrors
  have hcount : Tab.get 0 ((s.updCache t fun C => C.errors w n bad).tile t).cache.ceWindow w = min (Tab.get 0 (s.tile t).cache.ceWindow w + n) 16 := by
    rw [State.updCache, State.updTile_tile]
    exact Tab.get_upd_same 0 (s.tile t).cache.ceWindow w fun k => min (k + n) 16
  rw [if_neg (by rw [hon]; decide)]
  dsimp only
  rw [hcount]
  exact ite_of_iff (by omega)

theorem sideArrive_valid {s : State} {t l : Nat} (h : ((s.tile t).cache.way l).isSome = true) :
    sideArrive s t l = s.updCache t fun C => { C with prefetches := C.prefetches.filter (· != l) } := by
  unfold sideArrive
  refine State.updCache_congr ?_
  dsimp only
  rw [if_pos h]

theorem sideArrive_misses {s : State} {t l : Nat} (h : ¬ ((s.tile t).cache.way l).isSome = true) :
    sideArrive s t l = s.updCache t fun C => { C.sideFill { dpa := l, poison := (readLine s l).poison, data := (readLine s l).data, misses := 0 } with
      prefetches := C.prefetches.filter (· != l) } := by
  unfold sideArrive
  refine State.updCache_congr ?_
  dsimp only
  rw [if_neg h]

-- ## TCH_CTL and TCH_MAINT

@[simp] theorem State.updCache_updCache (s : State) (t : Nat) (f g : Cache → Cache) : (s.updCache t f).updCache t g = s.updCache t fun C => g (f C) :=
  State.updTile_updTile ..

@[simp] theorem State.updCache_cache (s : State) (t : Nat) (f : Cache → Cache) : ((s.updCache t f).tile t).cache = f (s.tile t).cache := by
  rw [State.updCache, State.updTile_tile]

section
variable {s : State} {who : Who} {t : Nat}

theorem tchMaint_busy (hman : isManager s who = true) (hpres : tilePresent s t = true) (hbusy : (tileBusy s t || (s.tile t).cache.maintBusy) = true)
    (o : DcOp) (n : Nat) : tchMaint s who t o n = s.updCache t fun C => { C with busyRefused := true } :=
  (if_neg (by rw [hman, hpres]; decide)).trans (if_pos hbusy)

theorem tchMaint_clean (hman : isManager s who = true) (hpres : tilePresent s t = true) (hfree : (tileBusy s t || (s.tile t).cache.maintBusy) = false)
    (n : Nat) : tchMaint s who t .clean n = (if (s.tile t).cache.en then dcLines s t .clean fun _ => true else s).updCache t fun C => { C with
      maintBusy := true, maintOp := n } :=
  (if_neg (by rw [hman, hpres]; decide)).trans (if_neg (by rw [hfree]; decide))

theorem tchMaint_drop {o : DcOp} (ho : o ≠ .clean) (hman : isManager s who = true) (hpres : tilePresent s t = true)
    (hfree : (tileBusy s t || (s.tile t).cache.maintBusy) = false) (n : Nat) :
    tchMaint s who t o n = (dcLines s t o fun _ => true).updCache t fun C => { C with tree := [], maintBusy := true, maintOp := n } := by
  refine (if_neg (by rw [hman, hpres]; decide)).trans ((if_neg (by rw [hfree]; decide)).trans ?_)
  cases o
  · exact absurd rfl ho
  · exact State.updCache_updCache ..
  · exact State.updCache_updCache ..

/-- With no prefetch in flight, an invalidation drops every line. -/
theorem dcLines_inv_all (h : (s.tile t).cache.prefetches = []) :
    dcLines s t .inv (fun _ => true) = s.updCache t fun C => { C with lines := [], side := [] } := by
  have hsettle : settlePrefetch s t (fun _ => true) = s := by rw [settlePrefetch, h]; rfl
  unfold dcLines
  rw [hsettle]
  refine State.updCache_congr ?_
  simp

theorem tchCtl_busy (hbusy : (tileBusy s t || (s.tile t).cache.maintBusy) = true) (v : Word) :
    tchCtl s t v = s.updCache t fun C => { C with busyRefused := true } := if_pos hbusy

variable (hfree : (tileBusy s t || (s.tile t).cache.maintBusy) = false) {v : Word}
include hfree

theorem tchCtl_enable (h0 : fbit v 0 = true) (hen : (s.tile t).cache.en = false) : tchCtl s t v = s.updCache t fun C =>
    if C.failed || !C.clean then { C with pfEn := fbit v 1, enableRefused := true } else { C with pfEn := fbit v 1, en := true } := by
  unfold tchCtl
  rw [if_neg (by rw [hfree]; decide)]
  dsimp only
  rw [if_pos h0, if_neg (by rw [hen]; decide)]
  split
  next h =>
    refine (State.updCache_updCache ..).trans (State.updCache_congr ?_)
    dsimp only
    rw [if_pos h]
  next h =>
    refine (State.updCache_updCache ..).trans (State.updCache_congr ?_)
    dsimp only
    rw [if_neg h]

theorem tchCtl_enabled (h0 : fbit v 0 = true) (hen : (s.tile t).cache.en = true) :
    tchCtl s t v = s.updCache t fun C => { C with pfEn := fbit v 1 } := by
  unfold tchCtl
  rw [if_neg (by rw [hfree]; decide)]
  dsimp only
  rw [if_pos h0, if_pos hen]

theorem tchCtl_disable (h0 : fbit v 0 = false) (hen : (s.tile t).cache.en = true) :
    tchCtl s t v = (cleanLines (s.updCache t fun C => { C with pfEn := fbit v 1 }) t (fun _ => true) false).updCache t fun C => { C with
      maintBusy := true, disabling := true } := by
  unfold tchCtl
  rw [if_neg (by rw [hfree]; decide)]
  dsimp only
  rw [if_neg (by rw [h0]; decide), if_pos hen]

end

/-- A clean of all lines leaves none dirty. -/
theorem cleanLines_all_lines (s : State) (t : Nat) : ∀ kl ∈ ((cleanLines s t (fun _ => true) false).tile t).cache.lines, kl.2.dirty = false := by
  unfold cleanLines
  dsimp only
  rw [State.updCache_cache]
  intro kl hkl
  obtain ⟨x, -, rfl⟩ := List.mem_map.1 hkl
  rfl

/-- Settles O32: each row by what it leaves of the cache. -/
theorem tileCacheRows : Obligations.TileCacheRows := by
  unfold Obligations.TileCacheRows
  intro s hs who t dpa v w n bad
  extract_lets report C l sets k D
  have hlive {f : State → State} {c : Instr} (hc : exec c s = ok (live s f)) : exec c s = .next (f s) := hc.trans (congrArg ok (live_clocked hs f))
  have hctl (hman : isManager s who = true) (hpres : tilePresent s t = true) {u : State} (hu : tchCtl s t v = u) :
      exec (.tchCtlWrite who t v) s = .next u :=
    (hlive rfl).trans (congrArg _ ((if_pos (by rw [hman, hpres]; rfl)).trans hu))
  have harrive {q : Nat} {rest : List Nat} (hq : C.prefetches = q :: rest) : exec (.prefetchFill t) s = .next (sideArrive s t q) := by
    refine (hlive rfl).trans (congrArg _ ?_)
    have hq' : (s.tile t).cache.prefetches = q :: rest := hq
    rw [hq']
  refine ⟨fun hen hmay hway hplace => ?_, fun hno => ?_, fun q rest hq => ⟨fun hway => ?_, fun hway => ?_⟩, fun hq => ?_, ?_, ?_,
    fun hpres hon => ?_, fun hno => ?_, fun hdis => ?_, fun hdis => ?_, fun hop => ?_, fun hop => ?_, fun hman hpres => ⟨fun hbusy => ?_, fun hfree => ?_⟩⟩
  · have hlt := lt_of_place_cellar hplace
    have hline : l / 64 * 64 = l := by omega
    have hfill : exec (.cacheLineFill t dpa) s = .next (cacheFill s t (readLine s l)) := by
      refine (hlive rfl).trans (congrArg _ (if_pos ?_))
      have hen' : (s.tile t).cache.en = true := hen
      have hway' : (s.tile t).cache.way l = none := hway
      have hmay' : mayCache s t (dpa.toNat / 64 * 64) = true := hmay
      rw [hen', hmay', hway']
      rfl
    obtain ⟨D, r, htile, hD, -⟩ := cacheFill_line (s := s) (t := t) (l := readLine s l) (Cache.lineAt_eq_none.2 hway) hline.symm
    refine ⟨_, hfill, ?_⟩
    rw [htile]
    have hread := readLine_cellar s hlt
    rw [hline] at hread
    exact hread ▸ hD
  · refine (hlive rfl).trans (congrArg _ (if_neg ?_))
    rw [Bool.and_eq_true, Bool.and_eq_true, Option.isNone_iff_eq_none]
    rintro ⟨⟨hen, hmay⟩, hway⟩
    rcases hno with h | h | h
    · exact absurd (hen.symm.trans h) nofun
    · exact absurd (hmay.symm.trans h) nofun
    · exact h hway
  · have hway' : ¬ ((s.tile t).cache.way q).isSome = true := by rw [show (s.tile t).cache.way q = none from hway]; exact nofun
    exact (harrive hq).trans (congrArg Host.Outcome.next (sideArrive_misses hway'))
  · exact (harrive hq).trans (congrArg Host.Outcome.next (sideArrive_valid (Option.isSome_iff_ne_none.2 hway)))
  · refine (hlive rfl).trans (congrArg _ ?_)
    have hq' : (s.tile t).cache.prefetches = [] := hq
    rw [hq']
  · exact (hlive rfl).trans rfl
  · exact (hlive rfl).trans rfl
  · have hreport : exec report s = .next (if 16 ≤ k then wayDisable (s.updCache t fun C => C.errors w.val n.toNat (bad.map (·.val))) t w.val
        else s.updCache t fun C => C.errors w.val n.toNat (bad.map (·.val))) :=
      (hlive rfl).trans (congrArg _ ((if_pos hpres).trans (wayErrors_eq hon)))
    refine ⟨fun hk => ?_, ?_, ?_, ?_, fun hk => ?_⟩
    · exact hreport.trans (congrArg _ (if_neg (Nat.not_le.2 hk)))
    · exact (Tab.get_upd_same 0 C.ceWindow w.val fun k => min (k + n.toNat) 16)
    · exact (Tab.get_upd_same 0 C.ceTotal w.val fun k => min (k + n.toNat) (2 ^ 32 - 1))
    · refine List.map_congr_left fun kl _ => ?_
      have hbad : (bad.map (·.val)).contains (kl.1 / 8) = bad.any fun b => b.val == kl.1 / 8 := by
        rw [Bool.eq_iff_iff]
        simp
      rw [hbad]
      cases bad.any fun b => b.val == kl.1 / 8
      · simp
      · by_cases hw : kl.1 % 8 = w.val
        · simp [hw]
        · simp [hw, beq_false_of_ne hw]
    · refine ⟨_, hreport.trans (congrArg _ (if_pos hk)), ?_⟩
      have hoff : ((s.updCache t fun C => C.errors w.val n.toNat (bad.map (·.val))).tile t).cache.waysOff = C.waysOff := by
        rw [State.updCache, State.updTile_tile]
        rfl
      have hlost := wayDisable_cache (s := s.updCache t fun C => C.errors w.val n.toNat (bad.map (·.val))) (t := t) (w := w.val) (by rw [hoff]; exact hon)
      rw [hoff] at hlost
      exact hlost
  · refine (hlive rfl).trans (congrArg _ ?_)
    rcases hno with hno | hno
    · exact if_neg (by rw [hno]; decide)
    · split
      · exact if_pos hno
      · rfl
  · refine (hlive rfl).trans (congrArg _ ((if_pos hdis).trans ?_))
    exact State.updTile_updTile ..
  · refine (hlive rfl).trans (congrArg _ (if_neg ?_))
    exact fun h => absurd (h.symm.trans hdis) nofun
  · exact (hlive rfl).trans (congrArg _ (if_pos hop))
  · exact (hlive rfl).trans (congrArg _ (if_neg (Classical.not_not.2 hop)))
  · intro i hi
    have hbusy' : (tileBusy s t || (s.tile t).cache.maintBusy) = true := hbusy
    simp only [List.mem_cons, List.not_mem_nil, or_false] at hi
    rcases hi with rfl | rfl | rfl | rfl
    · exact hctl hman hpres (tchCtl_busy hbusy' v)
    · exact (hlive rfl).trans (congrArg _ (tchMaint_busy hman hpres hbusy' ..))
    · exact (hlive rfl).trans (congrArg _ (tchMaint_busy hman hpres hbusy' ..))
    · exact (hlive rfl).trans (congrArg _ (tchMaint_busy hman hpres hbusy' ..))
  · refine ⟨fun h0 hen => hctl hman hpres (tchCtl_enable hfree h0 hen), fun h0 hen => hctl hman hpres (tchCtl_enabled hfree h0 hen), fun h0 hen => ?_, fun hq => ?_, ?_, ?_⟩
    · refine ⟨_, hctl hman hpres (tchCtl_disable hfree h0 hen), ?_⟩
      rw [State.updCache_cache]
      exact ⟨rfl, rfl, cleanLines_all_lines _ t⟩
    · refine (hlive rfl).trans (congrArg _ ((tchMaint_drop (by decide) hman hpres hfree 2).trans ?_))
      rw [dcLines_inv_all hq, State.updCache_updCache]
    · exact (hlive rfl).trans (congrArg _ (tchMaint_clean hman hpres hfree 1))
    · exact (hlive rfl).trans (congrArg _ (tchMaint_drop (by decide) hman hpres hfree 3))

end Sys2Proof.Machine

/-! PROOFS. O34: one descriptor read of a walk. -/

namespace Sys2Proof.Machine

-- ## The TLB of a unit

@[simp] theorem unitTlb_updTlb (s : State) (u : WalkUnit) (f : Tlb → Tlb) : unitTlb (updTlb s u f) u = f (unitTlb s u) := by
  cases u <;> simp [unitTlb, updTlb]

@[simp] theorem updTlb_mem (s : State) (u : WalkUnit) (f : Tlb → Tlb) : (updTlb s u f).mem = s.mem := by
  cases u <;> rfl

/-- A step of a walk that changes counters or the walk cache alone. -/
def WalkSame (s s' : State) (u : WalkUnit) : Prop := s'.mem = s.mem ∧ unitTlb s' u = unitTlb s u

theorem WalkSame.refl (s : State) (u : WalkUnit) : WalkSame s s u := ⟨rfl, rfl⟩

theorem WalkSame.trans {s s' s'' : State} {u : WalkUnit} (h : WalkSame s s' u) (h' : WalkSame s' s'' u) : WalkSame s s'' u :=
  ⟨h'.1.trans h.1, h'.2.trans h.2⟩

theorem walkSame_updTile {s : State} {t : TileId} {f : Tile → Tile} (h : (f (s.tile t)).mmu.tlb = (s.tile t).mmu.tlb) :
    WalkSame s (s.updTile t f) (.tile t) := ⟨rfl, by simp only [unitTlb, State.updTile_tile, h]⟩

theorem walkSame_installTables (s : State) (u : WalkUnit) (w : Walk) : WalkSame s (installTables s u w) u := by
  cases u with
  | tile t => exact walkSame_updTile (foldl_keeps (P := fun M : Mmu => M.tlb = (s.tile t).mmu.tlb) _ _ rfl fun _ _ h => h)
  | group | ce | de | se => exact WalkSame.refl ..

/-- A descriptor read is counted. -/
def countRead (s : State) : WalkUnit → State
  | .tile t => if (s.tile t).ctl.getLsbD 2 then s else s.updTile t fun T => { T with mmu := { T.mmu with perfWread := satAdd T.mmu.perfWread 1 } }
  | _ => s

theorem walkSame_countRead (s : State) (u : WalkUnit) : WalkSame s (countRead s u) u := by
  cases u with
  | tile t =>
    unfold countRead
    dsimp only
    split
    · exact WalkSame.refl ..
    · exact walkSame_updTile (f := fun T => { T with mmu := { T.mmu with perfWread := satAdd T.mmu.perfWread 1 } }) rfl
  | group | ce | de | se => exact WalkSame.refl ..

-- ## A descriptor read without an ECC event

/-- The address of a walk's next descriptor in storage. -/
def descAddr (s : State) (w : Walk) : Nat :=
  (canon s (w.table + 8 * (w.va / 2 ^ (39 - 9 * w.level) % 512))).getD (w.table + 8 * (w.va / 2 ^ (39 - 9 * w.level) % 512))

section
variable {s : State} {u : WalkUnit} {p : Nat} {w : Walk}

/-- The walk fails, with an exception of this index and reason at its level. -/
def WalkFails (s : State) (u : WalkUnit) (p : Nat) (w : Walk) (busError : Bool) (idx reason : Nat) : Prop :=
  ∃ x s', walkRead s u p w .clean busError = (.fail x, s') ∧ WalkSame s s' u ∧ x.idx = idx ∧ x.reason = reason ∧ x.level = w.level

theorem walkRead_pointer {r : Nat} (h : pointerReason s p w.table = some r) (b : Bool) : WalkFails s u p w b 3 r := by
  refine ⟨walkExc 3 r w.level w.va (accBits w.kind) 0 0, _, ?_, walkSame_installTables s u w, rfl, rfl, rfl⟩
  unfold walkRead
  rw [h]

variable (hptr : pointerReason s p w.table = none)
include hptr

/-- What a read of a descriptor ends in, the pointer being good. -/
theorem walkRead_eq (busError : Bool) : walkRead s u p w .clean busError =
    (let da := w.table + 8 * (w.va / 2 ^ (39 - 9 * w.level) % 512)
     let a := (canon s da).getD da
     let d := leNat (s.mem.read a 8)
     let c := countRead s u
     if busError then (.fail (walkExc 2 0x20 w.level w.va (accBits w.kind) 0 da), c)
     else if s.mem.poisoned a then (.fail (walkExc 2 0x21 w.level w.va (accBits w.kind) 0 da), c)
     else match descReason d w.level with
      | some r => (.fail (walkExc 0 r w.level w.va (accBits w.kind) d da), installTables c u w)
      | none =>
        if bitOf d 1 then
          (.leaf { vaBase := w.va / 2 ^ (39 - 9 * w.level) * 2 ^ (39 - 9 * w.level), sizeLog2 := 39 - 9 * w.level, leaf := bits d 0 8
                   ast := bits d 8 16, base := bits d 24 40 * 2 ^ 12 }, installTables c u w)
        else (.deeper { w with level := w.level + 1, table := bits d 24 40 * 2 ^ 12
                               found := w.found ++ [{ level := w.level, tag := wcTag w.va w.level, desc := d }] }, c)) := by
  have hecc (s : State) (a : Nat) : eccRead s a .clean = s := by
    unfold eccRead
    split <;> rfl
  have hmem : (countRead s u).mem = s.mem := (walkSame_countRead s u).1
  unfold walkRead
  rw [hptr]
  dsimp only
  rw [← hmem]
  simp only [hecc]
  cases u <;> rfl

theorem walkRead_busError : WalkFails s u p w true 2 0x20 :=
  ⟨_, _, walkRead_eq hptr true, walkSame_countRead s u, rfl, rfl, rfl⟩

theorem walkRead_poison (h : s.mem.poisoned (descAddr s w) = true) : WalkFails s u p w false 2 0x21 :=
  ⟨_, _, (walkRead_eq hptr false).trans (if_pos h), walkSame_countRead s u, rfl, rfl, rfl⟩

variable (hsound : s.mem.poisoned (descAddr s w) = false)
include hsound

theorem walkRead_sound : walkRead s u p w .clean false =
    match descReason (leNat (s.mem.read (descAddr s w) 8)) w.level with
    | some r => (.fail (walkExc 0 r w.level w.va (accBits w.kind) (leNat (s.mem.read (descAddr s w) 8))
        (w.table + 8 * (w.va / 2 ^ (39 - 9 * w.level) % 512))), installTables (countRead s u) u w)
    | none =>
      if bitOf (leNat (s.mem.read (descAddr s w) 8)) 1 then
        (.leaf { vaBase := w.va / 2 ^ (39 - 9 * w.level) * 2 ^ (39 - 9 * w.level), sizeLog2 := 39 - 9 * w.level
                 leaf := bits (leNat (s.mem.read (descAddr s w) 8)) 0 8, ast := bits (leNat (s.mem.read (descAddr s w) 8)) 8 16
                 base := bits (leNat (s.mem.read (descAddr s w) 8)) 24 40 * 2 ^ 12 }, installTables (countRead s u) u w)
      else (.deeper { w with level := w.level + 1, table := bits (leNat (s.mem.read (descAddr s w) 8)) 24 40 * 2 ^ 12
                             found := w.found ++ [{ level := w.level, tag := wcTag w.va w.level, desc := leNat (s.mem.read (descAddr s w) 8) }] },
        countRead s u) :=
  (walkRead_eq hptr false).trans (if_neg (c := s.mem.poisoned (descAddr s w) = true) (by rw [hsound]; decide))

theorem walkRead_invalid {r : Nat} (h : descReason (leNat (s.mem.read (descAddr s w) 8)) w.level = some r) : WalkFails s u p w false 0 r := by
  refine ⟨walkExc 0 r w.level w.va (accBits w.kind) (leNat (s.mem.read (descAddr s w) 8)) (w.table + 8 * (w.va / 2 ^ (39 - 9 * w.level) % 512)),
    installTables (countRead s u) u w, (walkRead_sound hptr hsound).trans ?_, (walkSame_countRead s u).trans (walkSame_installTables ..), rfl, rfl, rfl⟩
  rw [h]

variable (hdesc : descReason (leNat (s.mem.read (descAddr s w) 8)) w.level = none)
include hdesc

theorem walkRead_leaf (h : bitOf (leNat (s.mem.read (descAddr s w) 8)) 1 = true) : ∃ s', walkRead s u p w .clean false =
    (.leaf { vaBase := w.va / 2 ^ (39 - 9 * w.level) * 2 ^ (39 - 9 * w.level), sizeLog2 := 39 - 9 * w.level
             leaf := bits (leNat (s.mem.read (descAddr s w) 8)) 0 8, ast := bits (leNat (s.mem.read (descAddr s w) 8)) 8 16
             base := bits (leNat (s.mem.read (descAddr s w) 8)) 24 40 * 2 ^ 12 }, s') ∧ WalkSame s s' u := by
  refine ⟨installTables (countRead s u) u w, (walkRead_sound hptr hsound).trans ?_, (walkSame_countRead s u).trans (walkSame_installTables ..)⟩
  rw [hdesc]
  exact if_pos h

theorem walkRead_table (h : bitOf (leNat (s.mem.read (descAddr s w) 8)) 1 = false) : ∃ s', walkRead s u p w .clean false =
    (.deeper { w with level := w.level + 1, table := bits (leNat (s.mem.read (descAddr s w) 8)) 24 40 * 2 ^ 12
                      found := w.found ++ [{ level := w.level, tag := wcTag w.va w.level, desc := leNat (s.mem.read (descAddr s w) 8) }] }, s') ∧
      WalkSame s s' u := by
  refine ⟨countRead s u, (walkRead_sound hptr hsound).trans ?_, walkSame_countRead s u⟩
  rw [hdesc]
  exact if_neg (by rw [h]; decide)

end

-- ## The start of a walk

theorem walkStart_fields (s : State) (u : WalkUnit) (p va : Nat) (k : AccessKind) :
    (walkStart s u p va k).va = va ∧ (walkStart s u p va k).kind = k ∧ (walkStart s u p va k).invs = [] ∧ (walkStart s u p va k).found = [] := by
  cases u with
  | tile t =>
    refine foldl_keeps (P := fun w : Walk => w.va = va ∧ w.kind = k ∧ w.invs = [] ∧ w.found = []) _ _ ⟨rfl, rfl, rfl, rfl⟩ fun w e h => ?_
    split
    · exact h
    · exact h
  | group | ce | de | se => exact ⟨rfl, rfl, rfl, rfl⟩

/-- What a descriptor read of a walk leaves, by what the read ends in. -/
def afterRead (u : WalkUnit) (w : Walk) (r : WalkEnd × State) : State :=
  match r with
  | (.deeper w', s) => updTlb s u fun T => { T with walk := some w' }
  | (.leaf e, s) => if w.bars e then keepResult s u w (.ok e) else updTlb (installLeaf s u w e) u fun T => { T with walk := none }
  | (.fail e, s) => keepResult s u w (.error e)

/-- A walk that no walk is in flight for starts at once. -/
theorem walkOnce_starts {s : State} {u : WalkUnit} {p va : Nat} (hp : unitParcel s u = some p) (hva : va < 2 ^ 48) (hwalk : (unitTlb s u).walk = none)
    (hmiss : (unitTlb s u).lookup va = none) (k : AccessKind) (ecc : Ecc) (b : Bool) :
    walkOnce s u va k ecc b = afterRead u (walkStart s u p va k) (walkRead s u p (walkStart s u p va k) ecc b) := by
  unfold walkOnce
  simp only [hp, if_neg (Nat.not_le.2 hva), hwalk, hmiss, Option.getD_none]
  rfl

-- ## The access that takes what a walk left for it

theorem takeResult_eq {s : State} {u : WalkUnit} {va : Nat} {k : AccessKind} {r : WalkRes} (h : (unitTlb s u).result = some r) (hva : r.va = va)
    (hk : r.kind = k) : takeResult s u va k = some (r.serve, updTlb s u fun T => { T with result := none }) := by
  unfold takeResult
  simp only [h, hva, hk, decide_true, Bool.and_self, if_true]

theorem leaveWalk_of_result {s : State} {t : TileId} {va : Nat} {k : AccessKind} {r : WalkRes} (p : Nat) (hwalk : (s.tile t).mmu.tlb.walk = none)
    (h : (s.tile t).mmu.tlb.result = some r) (hva : r.va = va) (hk : r.kind = k) :
    leaveWalk s t p (·.serves va k) (fun r => r.va == va && r.kind == k) = s.updTile t id :=
  leaveWalk_of_walksFor p ⟨fun _ hw => absurd (hwalk.symm.trans hw) nofun, fun _ hr' => Option.some.inj (h.symm.trans hr') ▸ ⟨hva, hk⟩⟩

theorem findEntry_of_result {s : State} {u : WalkUnit} {va : Nat} {k : AccessKind} {r : WalkRes} (p : Nat) (hwalk : (unitTlb s u).walk = none)
    (hmiss : (unitTlb s u).lookup va = none) (h : (unitTlb s u).result = some r) (hva : r.va = va) (hk : r.kind = k) :
    (findEntry s u p va k).1 = r.serve := by
  unfold findEntry
  cases u with
  | tile t =>
    have hsame : unitTlb (s.updTile t id) (.tile t) = unitTlb s (.tile t) := by simp [unitTlb]
    have hcount : WalkSame (s.updTile t id) (if ((s.updTile t id).tile t).ctl.getLsbD 2 then s.updTile t id
        else (s.updTile t id).updTile t fun T => { T with mmu := { T.mmu with perfMiss := satAdd T.mmu.perfMiss 1 } }) (.tile t) := by
      split
      · exact WalkSame.refl ..
      · exact walkSame_updTile (f := fun T => { T with mmu := { T.mmu with perfMiss := satAdd T.mmu.perfMiss 1 } }) rfl
    have htake := takeResult_eq (s := if ((s.updTile t id).tile t).ctl.getLsbD 2 then s.updTile t id
      else (s.updTile t id).updTile t fun T => { T with mmu := { T.mmu with perfMiss := satAdd T.mmu.perfMiss 1 } }) (u := .tile t)
      (by rw [hcount.2, hsame]; exact h) hva hk
    simp only [leaveWalk_of_result p hwalk h hva hk, hsame, hmiss]
    rw [htake]
  | group | ce | de | se => simp only [hmiss, takeResult_eq h hva hk]

/-- Settles O34: a walk's read by what it ends in, and the access that takes a fault that waits for it. -/
theorem walkDescriptorReads : Obligations.WalkDescriptorReads := by
  unfold Obligations.WalkDescriptorReads
  intro s u p va k busError hs hp hva hwalk hmiss
  extract_lets w at_ a d run z e filled src ends
  obtain ⟨hwva, hwkind, hwinvs, hwfound⟩ := walkStart_fields s u p va.toNat k
  have hva' : at_ = w.table + 8 * (w.va / 2 ^ (39 - 9 * w.level) % 512) := by rw [show w.va = va.toNat from hwva]
  have ha : a = descAddr s w := by
    show (canon s at_).getD at_ = _
    rw [hva']
    rfl
  have hd : d = leNat (s.mem.read (descAddr s w) 8) := by
    show leNat (s.mem.read a 8) = _
    rw [ha]
  have hrun : run = .next (afterRead u w (walkRead s u p w .clean busError)) :=
    congrArg Host.Outcome.next ((live_clocked hs _).trans (walkOnce_starts hp hva hwalk hmiss k .clean busError))
  have hfails {idx reason : Nat} (h : WalkFails s u p w busError idx reason) : ends idx reason := by
    obtain ⟨x, s', hread, ⟨hmem, htlb⟩, hidx, hreason, hlevel⟩ := h
    rw [hread] at hrun
    refine ⟨_, _, hrun, (updTlb_mem ..).trans hmem, (unitTlb_updTlb ..).trans (by rw [htlb]), hwva, hwkind, rfl, hlevel, hidx, hreason⟩
  refine ⟨fun hptr hb hsound hdesc => ⟨fun hleaf => ?_, fun htable => ?_⟩, ⟨fun r hr => hfails (walkRead_pointer hr _), fun hptr hb => ?_, 
    fun hptr hb hpoison => ?_, fun r hptr hb hsound hr => ?_⟩, fun r hr hrva hrk hre => ?_⟩
  · subst hb
    rw [ha] at hsound
    rw [hd] at hdesc hleaf
    obtain ⟨s', hread, hmem, htlb⟩ := walkRead_leaf hptr hsound hdesc hleaf
    rw [hread] at hrun
    have hentry : ({ vaBase := w.va / 2 ^ (39 - 9 * w.level) * 2 ^ (39 - 9 * w.level), sizeLog2 := 39 - 9 * w.level
                     leaf := bits (leNat (s.mem.read (descAddr s w) 8)) 0 8, ast := bits (leNat (s.mem.read (descAddr s w) 8)) 8 16
                     base := bits (leNat (s.mem.read (descAddr s w) 8)) 24 40 * 2 ^ 12 } : TlbEntry) = e := by
      rw [← hd, show w.va = va.toNat from hwva]
      simp only [bits, Nat.pow_zero, Nat.div_one]
      rfl
    rw [hentry] at hrun
    have hbars : w.bars e = false := by rw [Walk.bars, show w.invs = [] from hwinvs]; rfl
    have hinstall : installLeaf s' u w e = updTlb s' u fun T => T.fill (tlbSize u) e := by
      refine if_neg ?_
      rw [hbars, htlb, show w.va = va.toNat from hwva, hmiss]
      nofun
    refine ⟨_, hrun, ?_, ?_⟩ <;> rw [afterRead, hbars, if_neg (by decide), hinstall]
    · exact (updTlb_mem ..).trans ((updTlb_mem ..).trans hmem)
    · rw [unitTlb_updTlb, unitTlb_updTlb, htlb]
  · subst hb
    rw [ha] at hsound
    rw [hd] at hdesc htable
    obtain ⟨s', hread, hmem, htlb⟩ := walkRead_table hptr hsound hdesc htable
    rw [hread] at hrun
    refine ⟨_, hrun, (updTlb_mem ..).trans hmem, (unitTlb_updTlb ..).trans ?_⟩
    rw [htlb, show w.found = [] from hwfound, show w.va = va.toNat from hwva, ← hd]
    rfl
  · subst hb
    exact hfails (walkRead_busError hptr)
  · subst hb
    rw [ha] at hpoison
    exact hfails (walkRead_poison hptr hpoison)
  · subst hb
    rw [ha] at hsound
    rw [hd] at hr
    exact hfails (walkRead_invalid hptr hsound hr)
  · have hserve := findEntry_of_result p hwalk hmiss hr hrva hrk
    have hfault : r.serve = .error (walkExc r.idx r.reason r.level r.va (accBits r.kind) r.desc r.descDpa) := by
      unfold WalkRes.serve
      rw [hre]
    refine ⟨walkExc r.idx r.reason r.level r.va (accBits r.kind) r.desc r.descDpa, ?_, rfl, rfl, hrva, rfl⟩
    unfold translate
    rw [hfault] at hserve
    simp only [if_neg (Nat.not_le.2 hva), hp]
    split
    next e s' heq =>
      rw [heq] at hserve
      exact congrArg _ (Except.error.inj hserve)
    next e s' heq =>
      rw [heq] at hserve
      cases hserve

end Sys2Proof.Machine

/-! PROOFS. The decode unit's queue, steps and ends, and what a tile reset leaves (O35). -/

namespace Sys2Proof.Machine

theorem roleOf_congr {s u : State} (h : u.parcels = s.parcels) (t : Nat) : roleOf u t = roleOf s t := by
  simp only [roleOf, tileParcel, holder, State.parcel, h]

theorem tilePut_parcels (s : State) (t off : Nat) (bs : List Byte) : (s.tilePut t off bs).parcels = s.parcels :=
  noteSends_parcels s t off bs.length

-- ## How a decode command ends

theorem decFinish_go (s : State) (t : Nat) (R : DecRun) :
    decFinish s t R .go = (if R.cmd.touched then forgetDec s t R.cmd else s).updTile t fun T => { T with decRun := some R } := rfl

theorem decFinish_fail (s : State) (t : Nat) (R : DecRun) (r c : Nat) : decFinish s t R (.fail r c) = decStop
    (if R.cmd.touched then forgetDec s t R.cmd else s) t { status := 0x12, source := 3, reason := r, sub := c, address := R.cmd.f 0x38 8 } 0 := rfl

/-- What a command's end writes leaves the tile its role. -/
theorem roleOf_of_ended (s : State) (t off : Nat) (bs : List Byte) (c : DecCmd) (f : Tile → Tile) :
    roleOf ((if c.touched then forgetDec s t c else s.tilePut t off bs).updTile t f) t = roleOf s t := by
  refine roleOf_congr (Eq.trans ?_ (b := (if c.touched then forgetDec s t c else s.tilePut t off bs).parcels) ?_) t
  · rfl
  · split
    · exact forgetDec_parcels s t c
    · exact tilePut_parcels s t off bs

theorem decFinish_done {s : State} {t : Nat} {R : DecRun} {st : Nat} {r : Role} (hr : roleOf s t = some r) : decFinish s t R (.done st) =
    requestFrom ((if R.cmd.touched then forgetDec s t R.cmd else s.tilePut t (R.cmd.off + 0x60) (decRecord R st)).updTile t
      fun T => { T with decRun := none }) r.p 4 r.v := by
  have hrole := (roleOf_of_ended s t (R.cmd.off + 0x60) (decRecord R st) R.cmd fun T => { T with decRun := none }).trans hr
  unfold decFinish
  dsimp only
  generalize decRecord R st = bs, R.cmd.off + 0x60 = off at hrole ⊢
  by_cases htouched : R.cmd.touched = true
  · simp only [if_pos htouched] at hrole ⊢
    rw [hrole]
  · simp only [if_neg htouched] at hrole ⊢
    rw [hrole]

theorem decFinish_poison {s : State} {t : Nat} {R : DecRun} {r : Role} (hr : roleOf s t = some r) : decFinish s t R .poison =
    decStop (if R.cmd.touched then forgetDec s t R.cmd else s) t
      { status := 0x17, source := 2, reason := 6, sub := r.stage.stage, address := R.cmd.f 0x38 8 } 6 := by
  have hrole : roleOf (if R.cmd.touched then forgetDec s t R.cmd else s) t = some r := by
    refine (roleOf_congr ?_ t).trans hr
    split
    · exact forgetDec_parcels s t R.cmd
    · rfl
  unfold decFinish
  dsimp only
  rw [hrole]
  rfl

-- ## Tile reset

theorem unitTlb_invUnit (s : State) (t : TileId) (o : InvOp) :
    (unitTlb (invUnit s (.tile t) o) (.tile t)).entries = (s.tile t).mmu.tlb.entries.filter fun ke => !o.hits ke.2 := by
  simp [invUnit, updTlb, unitTlb]

/-- Resetting a tile leaves of it what `Tile.afterReset` keeps, with its TLB emptied. -/
theorem resetTile_tile (s : State) (t : TileId) : ∃ M : Mmu, M.tlb.entries = [] ∧ (resetTile s t).tile t = { (s.tile t).afterReset with mmu := M } := by
  have hunit : Fin.ofNat 256 t.val = t := Fin.ext (Nat.mod_eq_of_lt t.isLt)
  unfold resetTile
  rw [hunit]
  refine ⟨((flushUnit (s.updTile t Tile.afterReset) (.tile t)).tile t).mmu, ?_, ?_⟩
  · simp [flushUnit, dropUnit, invUnit, updTlb, InvOp.hits]
  · simp [flushUnit, dropUnit, invUnit, updTlb]

/-- Settles O35: each row is the run of its function in a clocked state; how a command ends is `decFinish`, case by case, and what a reset leaves of a
tile is what flushing its TLB leaves of `Tile.afterReset`. -/
theorem decodeUnitAndTileReset : Obligations.DecodeUnitAndTileReset := by
  unfold Obligations.DecodeUnitAndTileReset
  intro s t hs T undef
  have hlive {f : State → State} {c : Instr} (hc : exec c s = ok (live s f)) : exec c s = .next (f s) := hc.trans (congrArg ok (live_clocked hs f))
  have hbegin : exec (.decodeCommandBegin t) s = .next _ := hlive rfl
  have hstep : exec (.decodeStep t) s = .next _ := hlive rfl
  have hstall : exec (.decodeStall t) s = .next _ := hlive rfl
  refine ⟨fun c rest hrun hq => ?_, fun hidle => ?_, fun hrun => ?_, fun R hrun => ?_, fun who hman hpres => ?_, (hlive rfl).trans rfl⟩
  · rw [hbegin, show (s.tile t).decRun = none from hrun, show (s.tile t).decQ = c :: rest from hq]
    dsimp only
    refine ⟨fun hc => ?_, fun r hc => ?_⟩ <;> rw [hc]
    · exact congrArg _ (decFinish_go ..)
    · exact congrArg _ (decFinish_fail ..)
  · rw [hbegin]
    split
    next hnone hcons =>
      obtain h | h := hidle
      · exact absurd hnone h
      · exact absurd (h.symm.trans hcons) nofun
    next => rfl
  · rw [hstep, hstall, show (s.tile t).decRun = none from hrun]
    exact ⟨rfl, rfl⟩
  · have hstep' := hstep
    have hstall' := hstall
    rw [show (s.tile t).decRun = some R from hrun] at hstep' hstall'
    refine ⟨fun hidle => ?_, fun hidle => ⟨hstall'.trans (congrArg _ (if_neg (Nat.not_le.2 hidle))), ?_⟩⟩
    · have hfail : decFinish s t R (.fail 0x10 0) = decStop (undef s R.cmd) t _ 0 := decFinish_fail s t R 0x10 0
      intro i hi
      rw [List.mem_cons, List.mem_singleton] at hi
      obtain rfl | rfl := hi
      · exact hstep'.trans (congrArg _ ((if_pos hidle).trans hfail))
      · exact hstall'.trans (congrArg _ ((if_pos hidle).trans hfail))
    · intro x
      have hrun : exec (.decodeStep t) s = .next (decFinish x.s t x.r x.e) := hstep'.trans (congrArg _ (if_neg (Nat.not_le.2 hidle)))
      rw [hrun]
      refine ⟨fun he => ?_, fun st r he hr => ?_, fun r c he => ?_, fun r he hr => ?_⟩ <;> rw [he]
      · exact congrArg _ (decFinish_go ..)
      · exact congrArg _ (decFinish_done hr)
      · exact congrArg _ (decFinish_fail ..)
      · exact congrArg _ (decFinish_poison hr)
  · have hgo : exec (.tilResetGo who t) s = .next (tilReset s t) :=
      (hlive rfl).trans (congrArg _ (if_pos (by rw [hman, hpres]; rfl)))
    obtain ⟨M, hM, htile⟩ := resetTile_tile s t
    rw [hgo, htile]
    refine ⟨fun hb => congrArg _ (if_pos hb), fun hb => ⟨congrArg _ (if_neg (by rw [hb]; nofun)), rfl, rfl, rfl, rfl, rfl, hM⟩⟩

end Sys2Proof.Machine

/-! PROOFS. Two jobs of one posting number: the clause of O36 on SORT_JOB_END fails (O36). -/

namespace Sys2Proof.Machine

/-- A sort job of no bytes that asks for `n` records. -/
def emptySort (n : Nat) (runs : Bool) : EngJob :=
  { vtile := 0, tile := 0, off := 0, blk := zeros 16 ++ leBytes 4 n ++ zeros 44, frame := 0, post := 0, admitted := true, running := runs }

/-- A table of records of no bytes, under which such a job touches no memory. -/
def emptyTable : SortTable := { id := 0, keyBytes := 0, recordBytes := 0, stable := true, columns := [] }

/-- Sort engine 0 holds two jobs with one posting number: the running one asks for no record, the other for one. -/
def twinPosts : State :=
  { parcels := [(5, { st := .active, se := 1, bslots := [1, 1, 1, 1], image := { sortTables := [emptyTable] } })]
    ses := [(0, { jobs := [emptySort 0 true, emptySort 1 false] })] }

/-- The record counts that the jobs of sort engine 0 have as their outcomes. -/
def sortedCounts (s : State) : List (Option Nat) := (s.eng .se 0).jobs.map fun j => j.outcome.map (·.outBytes)

/-- SORT_JOB_END gives the outcome of the running job to every job with its posting number. -/
theorem sortedCounts_twinPosts : ∃ s', exec (.sortJobEnd 0) twinPosts = .next s' ∧ sortedCounts s' = [some 0, some 0] :=
  ⟨_, rfl, by decide +kernel⟩

/-- Refutes O36: its clause on SORT_JOB_END computes the outcome of each job with the running one's posting number from that job itself, while the engine
gives it the running job's outcome; two jobs of one posting number and different record counts tell the two apart. -/
theorem not_engineJobs : ¬ Obligations.EngineJobs := by
  unfold Obligations.EngineJobs
  intro h
  obtain ⟨hsort, -⟩ := h twinPosts 0 (emptySort 0 true) 5 rfl
  obtain ⟨hnext, -⟩ := hsort emptyTable (by decide +kernel) (by decide +kernel) (by decide +kernel) (by decide +kernel)
  obtain ⟨s', hrun, hcounts⟩ := sortedCounts_twinPosts
  have hs' := Host.Outcome.next.inj (hrun.symm.trans hnext)
  have hclaimed : sortedCounts s' = [some 0, some 1] := by
    rw [hs']
    decide +kernel
  rw [hcounts] at hclaimed
  exact absurd hclaimed (by decide)

end Sys2Proof.Machine

/-! PROOFS. Key slots, management jobs and the constant-time compare (O37). -/

namespace Sys2Proof.Machine

/-- A fold over places each of which changes its own slot changes every slot below its end once. -/
theorem foldl_range_slots {σ α : Type} {f : σ → Nat → σ} {get : σ → Nat → α} {h : Nat → α → α} (hsame : ∀ s i, get (f s i) i = h i (get s i))
    (hne : ∀ s i k, k ≠ i → get (f s i) k = get s k) (s : σ) (n k : Nat) :
    get ((List.range n).foldl f s) k = if k < n then h k (get s k) else get s k := by
  induction n with
  | zero => rfl
  | succ n ih =>
    rw [List.range_succ, List.foldl_append, List.foldl_cons, List.foldl_nil]
    by_cases hk : k = n
    · subst hk
      rw [hsame, ih, if_neg (Nat.lt_irrefl k), if_pos (Nat.lt_succ_self k)]
    · rw [hne _ _ _ hk, ih]
      exact ite_of_iff (by omega)

-- ## Key slots

@[simp] theorem keySlot_setKey_same (s : State) (n : Nat) (k : KeySlot) : (s.setKey n k).keySlot n = k := Tab.get_set_same ..

theorem keySlot_setKey_ne (s : State) {n m : Nat} (k : KeySlot) (h : m ≠ n) : (s.setKey n k).keySlot m = s.keySlot m := Tab.get_set_ne _ _ _ h

/-- What entry `i` of a DGT_KEY_OWN value leaves of slot `n`. -/
def keyOwned (v n i : Nat) (k : KeySlot) : KeySlot :=
  match keyOwnerOf v i with
  | some o => if n = 0 then k else { owner := o, num := BitVec.ofNat 6 (v / 2 ^ (8 * i)), key := if k.owner = o then k.key else none }
  | none => k

theorem keySlot_keyOwnWrite (s : State) (j v : Nat) {i : Nat} (hi : i < 8) :
    (keyOwnWrite s j v fun _ => true).keySlot (8 * j + i) = keyOwned v (8 * j + i) i (s.keySlot (8 * j + i)) := by
  unfold keyOwnWrite
  refine (foldl_range_slots (get := fun s i => s.keySlot (8 * j + i)) (h := fun i => keyOwned v (8 * j + i) i) ?_ ?_ s 8 i).trans (if_pos hi)
  · intro s i
    dsimp only [keyOwned]
    cases keyOwnerOf v i with
    | none => rfl
    | some o =>
      generalize 8 * j + i = n
      by_cases hn : n = 0
      · simp [hn]
      · simp [hn]
  · intro s i k hk
    dsimp only
    cases keyOwnerOf v i with
    | none => rfl
    | some o =>
      dsimp only
      split
      · rfl
      · exact keySlot_setKey_ne _ _ (by omega)

/-- Bits above bit 0 do not see a 1 put into bit 0. -/
theorem fld_or_one (v : Word) {lo : Nat} (len : Nat) (h : lo ≠ 0) : fld (v ||| 1) lo len = v.toNat / 2 ^ lo % 2 ^ len := by
  have hone : 1 / 2 ^ lo = 0 := Nat.div_eq_of_lt (Nat.one_lt_two_pow h)
  have hshift : (v.toNat ||| 1) / 2 ^ lo = v.toNat / 2 ^ lo := by
    rw [← Nat.shiftRight_eq_div_pow, Nat.shiftRight_or_distrib, Nat.shiftRight_eq_div_pow, Nat.shiftRight_eq_div_pow, hone, Nat.or_zero]
  exact congrArg (· % 2 ^ len) ((congrArg (· / 2 ^ lo) (BitVec.toNat_or ..)).trans hshift)

theorem fbit_or_one_zero (v : Word) : fbit (v ||| 1) 0 = true := by
  have hbit : (v.toNat ||| 1).testBit 0 = true := by simp
  exact (bitOf_eq_testBit ..).trans ((congrArg (Nat.testBit · 0) (BitVec.toNat_or ..)).trans hbit)

theorem fbit_or_one (v : Word) : fbit (v ||| 1) 1 = fbit v 1 := by
  have hbit : (v.toNat ||| 1).testBit 1 = v.toNat.testBit 1 := by
    rw [Nat.testBit_or, show Nat.testBit 1 1 = false from rfl, Bool.or_false]
  exact (bitOf_eq_testBit ..).trans (((congrArg (Nat.testBit · 1) (BitVec.toNat_or ..)).trans hbit).trans (bitOf_eq_testBit ..).symm)

/-- Settles O37: a key-owner write changes each of its eight slots by its own entry, and the other rows unfold to their functions. -/
theorem keysAndManagementJobs : Obligations.KeysAndManagementJobs := by
  unfold Obligations.KeysAndManagementJobs
  intro s e m who j v hs
  have hlive {f : State → State} {c : Instr} (hc : exec c s = ok (live s f)) : exec c s = .next (f s) := hc.trans (congrArg ok (live_clocked hs f))
  have hdone : exec (.managementJobDone e) s = .next _ := hlive rfl
  refine ⟨fun hman => ?_, fun hpres hfree hsnoop hload hlen => ?_, fun hjob hkey => ?_, fun hjob hkey hown => ?_, fun halg => ?_, fun hman => ?_, fun hbusy => ?_⟩
  · refine ⟨_, (hlive rfl).trans (congrArg _ (if_pos hman)), fun i hi => ?_⟩
    dsimp only
    rw [keySlot_keyOwnWrite s _ _ hi]
    refine ⟨fun o ho hn => ?_, fun hskip => ?_⟩
    · simp only [keyOwned, ho, if_neg hn]
      refine ⟨trivial, by simp, ite_of_iff eq_comm⟩
    · unfold keyOwned
      obtain hn | hnone := hskip
      · split
        · exact if_pos hn
        · rfl
      · rw [hnone]
  · exact (hlive rfl).trans (congrArg _ (if_neg (by simp [hpres, hfree, hsnoop, hload, hlen])))
  · rw [hdone, hjob]
    simp only [hkey, Bool.false_eq_true, if_false]
    rfl
  · rw [hdone, hjob]
    simp only [hkey, if_true, if_pos hown]
    rfl
  · unfold mgmtValue
    simp [hmacAlg, show ¬ 5 ≤ m.alg.toNat by omega, show m.alg.toNat < 10 by omega]
  · refine ⟨_, (hlive rfl).trans (congrArg _ (if_pos hman)), ?_⟩
    have hgo := fbit_or_one_zero v
    have hcleared (b : Bool) : (b && !fbit (v ||| 1) 0) = false := by rw [hgo, Bool.not_true, Bool.and_false]
    exact ⟨by rw [← Bool.or_true s.dgt.cmpBusy, ← hgo]; rfl, hcleared _, hcleared _, fbit_or_one v, fld_or_one v 4 (by decide), fld_or_one v 7 (by decide), fld_or_one v 5 (by decide), rfl⟩
  · exact (hlive rfl).trans (congrArg _ (if_neg (by rw [hbusy]; nofun)))

end Sys2Proof.Machine

/-! PROOFS. What telling the outside (events, messages, stale records) leaves unchanged. -/

namespace Sys2Proof.Machine

/-- What telling the outside leaves: memory of hosts, the event block and the stale counts of parcels may have changed, and nothing else. -/
structure Told (s s' : State) : Prop where
  rest : ∃ m v P, s' = { s with mem := m, evt := v, parcels := P }
  parcel : ∀ p, ∃ c, s'.parcel p = { s.parcel p with staleCnt := c }

namespace Told

variable {s t u : State}

theorem refl (s : State) : Told s s := ⟨⟨_, _, _, rfl⟩, fun _ => ⟨_, rfl⟩⟩

theorem trans (h : Told s t) (k : Told t u) : Told s u := by
  obtain ⟨⟨_, _, _, rfl⟩, hp⟩ := h
  obtain ⟨⟨_, _, _, rfl⟩, kp⟩ := k
  refine ⟨⟨_, _, _, rfl⟩, fun p => ?_⟩
  obtain ⟨c, hc⟩ := kp p
  obtain ⟨d, hd⟩ := hp p
  exact ⟨c, hc.trans (by rw [hd])⟩

theorem of_evt (s : State) (v : EvtBlock) : Told s { s with evt := v } := ⟨⟨_, _, _, rfl⟩, fun _ => ⟨_, rfl⟩⟩

theorem hostWrite (s : State) (p a : Nat) (bs : List Byte) : Told s (hostWrite s p a bs) := by
  unfold Machine.hostWrite
  split
  · exact ⟨⟨_, _, _, rfl⟩, fun _ => ⟨_, rfl⟩⟩
  · exact refl s

theorem sendMsix (s : State) (f v : Nat) : Told s (sendMsix s f v) := by
  unfold Machine.sendMsix
  dsimp only
  split
  · exact refl s
  · split
    · exact of_evt s _
    · split
      · exact of_evt s _
      · exact refl s

theorem countStale (s : State) (p : Nat) : Told s (countStale s p) := by
  refine ⟨⟨_, _, _, rfl⟩, fun q => ?_⟩
  by_cases hq : q = p
  · subst hq
    exact ⟨_, State.updParcel_parcel ..⟩
  · exact ⟨_, State.updParcel_parcel_ne _ _ hq⟩

theorem drainEvRing : ∀ (n : Nat) (s : State) (f : Nat), Told s (drainEvRing n s f)
  | 0, s, _ => refl s
  | n + 1, s, f => by
    unfold Machine.drainEvRing
    dsimp only
    split
    · exact refl s
    · split
      · exact ((of_evt s _).trans (countStale ..)).trans (drainEvRing n _ f)
      · split
        · exact (((hostWrite ..).trans (of_evt _ _)).trans (sendMsix ..)).trans (drainEvRing n _ f)
        · exact refl s

theorem deliverRecord (s : State) (r : EvRec) (n : Nat) : Told s (deliverRecord s r n) := by
  unfold Machine.deliverRecord
  dsimp only
  split
  · exact countStale ..
  · split
    · exact of_evt s _
    · split
      · exact refl s
      · split
        · exact (of_evt s _).trans (drainEvRing ..)
        · exact sendMsix ..

theorem raise (s : State) (i c u : Nat) : Told s (raise s i c u) := by
  unfold Machine.raise raiseWith
  dsimp only
  split
  · exact of_evt s _
  · split
    · exact of_evt s _
    · exact (of_evt s _).trans (deliverRecord ..)

theorem raiseGlobal (s : State) (i c : Nat) : Told s (raiseGlobal s i c) := raise ..

theorem raiseStack (s : State) (n bit : Nat) : Told s (raiseStack s n bit) := by
  unfold Machine.raiseStack
  split
  · exact raise ..
  · exact refl s

theorem hbms (h : Told s t) : t.hbms = s.hbms := by
  obtain ⟨_, _, _, rfl⟩ := h.rest
  rfl

end Told

end Sys2Proof.Machine

/-! PROOFS. Requests at the memory fabric, check symbols and the scrubber (O38). -/

namespace Sys2Proof.Machine

-- ## Check symbols

theorem Told.stack {s t : State} (h : Told s t) (k : Nat) : t.stack k = s.stack k := by
  unfold State.stack
  rw [h.hbms]

/-- A corrected line is counted in its slice's stack, which may reach its threshold. -/
theorem countCe_stack (s : State) (n : Nat) :
    (∃ b, (countCe s n).stack (n / 8) = { s.stack (n / 8) with
      ceCnt := Tab.set (s.stack (n / 8)).ceCnt (n % 8) (satAdd (Tab.get 0 (s.stack (n / 8)).ceCnt (n % 8)) 1), ceThresh := b }) ∧
    ∀ k, k ≠ n / 8 → (countCe s n).stack k = s.stack k := by
  unfold countCe
  extract_lets c t lim
  have ht : t.stack (n / 8) = { s.stack (n / 8) with ceCnt := Tab.set (s.stack (n / 8)).ceCnt (n % 8) c } := State.updStack_stack ..
  have htne (k : Nat) (hk : k ≠ n / 8) : t.stack k = s.stack k := State.updStack_stack_ne _ _ hk
  split
  · refine ⟨⟨true, ?_⟩, fun k hk => ?_⟩ <;> rw [(Told.raiseStack ..).stack]
    · rw [State.updStack_stack, ht]
    · rw [State.updStack_stack_ne _ _ hk, htne k hk]
  · exact ⟨⟨_, ht⟩, htne⟩

/-- What a line found uncorrectable leaves in its slice's stack: counted, and recorded where no record stands. -/
def Stack.ueFound (K : Stack) (i line : Nat) : Stack :=
  { K with
    ueSeen := true, ueCnt := Tab.set K.ueCnt i (satAdd (Tab.get 0 K.ueCnt i) 1), ueValid := true, ueAddr := if K.ueValid then K.ueAddr else line }

theorem findUe_stack {s : State} {line n : Nat} (hn : line / sliceBytes = n) (hsound : s.mem.poisoned line = false) :
    (findUe s line).stack (n / 8) = (s.stack (n / 8)).ueFound (n % 8) line ∧ ∀ k, k ≠ n / 8 → (findUe s line).stack k = s.stack k := by
  unfold findUe
  rw [if_neg (by rw [hsound]; nofun), hn]
  extract_lets _ _ t
  have ht : t.stack (n / 8) = { s.stack (n / 8) with
      ueSeen := true, ueCnt := Tab.set (s.stack (n / 8)).ueCnt (n % 8) (satAdd (Tab.get 0 (s.stack (n / 8)).ueCnt (n % 8)) 1) } :=
    State.updStack_stack ..
  have htne (k : Nat) (hk : k ≠ n / 8) : t.stack k = s.stack k := State.updStack_stack_ne _ _ hk
  have hvalid : (t.stack (n / 8)).ueValid = (s.stack (n / 8)).ueValid := by rw [ht]
  split
  next h =>
    refine ⟨ht.trans ?_, htne⟩
    rw [hvalid] at h
    rw [Stack.ueFound, if_pos h, ← h]
  next h =>
    rw [hvalid] at h
    refine ⟨?_, fun k hk => ?_⟩ <;> rw [(Told.raiseStack ..).stack]
    · rw [State.updStack_stack, ht, Stack.ueFound, if_neg h]
    · rw [State.updStack_stack_ne _ _ hk, htne k hk]

theorem countCe_pos (s : State) (n k : Nat) : ((countCe s n).stack k).pos = (s.stack k).pos := by
  obtain ⟨⟨b, hsame⟩, hne⟩ := countCe_stack s n
  by_cases hk : k = n / 8
  · rw [hk, hsame]
  · rw [hne k hk]

theorem findUe_pos (s : State) (line k : Nat) : ((findUe s line).stack k).pos = (s.stack k).pos := by
  cases hsound : s.mem.poisoned line with
  | true =>
    unfold findUe
    rw [if_pos hsound]
  | false =>
    obtain ⟨hsame, hne⟩ := findUe_stack rfl hsound
    by_cases hk : k = line / sliceBytes / 8
    · rw [hk, hsame, Stack.ueFound]
    · rw [hne k hk]

theorem eccRead_pos (s : State) (a : Nat) (e : Ecc) (k : Nat) : ((eccRead s a e).stack k).pos = (s.stack k).pos := by
  unfold eccRead
  split
  · rfl
  · split
    · rfl
    · split
      · rfl
      · exact countCe_pos ..
    · exact findUe_pos ..

-- ## Scrubbing

theorem get_foldl_upd_succ {l : List Nat} (h : l.Nodup) (P : Tab Nat) (i : Nat) :
    Tab.get 0 (l.foldl (fun p i => Tab.upd 0 p i (· + 1)) P) i = if i ∈ l then Tab.get 0 P i + 1 else Tab.get 0 P i := by
  induction l generalizing P with
  | nil => simp
  | cons j l ih =>
    obtain ⟨hj, hl⟩ := List.nodup_cons.1 h
    rw [List.foldl_cons, ih hl]
    by_cases hij : i = j
    · subst hij
      simp [hj]
    · simp [hij, Tab.get_upd_ne _ _ _ hij]

/-- The scrubber reads the next line of each slice that is not in self-refresh and goes on in it, and a pass does not end while a slice has lines left. -/
theorem scrub_pos {s : State} {k : Nat} (ecc : List Ecc) (hon : fbit (s.stack k).scrubCtl 0 = true) (htrained : (s.stack k).trained = true) {i0 : Nat} (hi0 : i0 < 8)
    (hawake : selfRefresh s (8 * k + i0) = false) (hleft : Tab.get 0 (s.stack k).pos i0 + 1 < 2 ^ 24) {i : Nat} (hi : i < 8) :
    Tab.get 0 ((scrub s k ecc).stack k).pos i = if selfRefresh s (8 * k + i) = false ∧ Tab.get 0 (s.stack k).pos i < 2 ^ 24
      then Tab.get 0 (s.stack k).pos i + 1 else Tab.get 0 (s.stack k).pos i := by
  unfold scrub
  extract_lets K go s1 s2
  have hgo (j : Nat) : j ∈ go ↔ j < 8 ∧ selfRefresh s (8 * k + j) = false ∧ Tab.get 0 (s.stack k).pos j < 2 ^ 24 := by
    simp only [go, K, List.mem_filter, List.mem_range, Bool.and_eq_true, Bool.not_eq_true']
    exact and_congr_right fun _ => and_congr_right fun _ => decide_eq_true_iff
  have hs1 : (s1.stack k).pos = (s.stack k).pos :=
    foldl_keeps (P := fun u : State => (u.stack k).pos = (s.stack k).pos) _ _ rfl fun u j h => (eccRead_pos ..).trans h
  have hs2 (j : Nat) : Tab.get 0 (s2.stack k).pos j = if j ∈ go then Tab.get 0 (s.stack k).pos j + 1 else Tab.get 0 (s.stack k).pos j := by
    rw [show (s2.stack k).pos = _ from congrArg Stack.pos (State.updStack_stack ..), ← hs1]
    exact get_foldl_upd_succ (List.nodup_range.filter _) _ j
  have hopen : ((List.range 8).all fun i => Tab.get 0 (s2.stack k).pos i == channelLines) = false := by
    refine List.all_eq_false.2 ⟨i0, List.mem_range.2 hi0, ?_⟩
    rw [hs2, if_pos ((hgo i0).2 ⟨hi0, hawake, Nat.lt_of_succ_lt hleft⟩)]
    simpa [channelLines] using Nat.ne_of_lt hleft
  rw [if_neg (by simp [K, hon, htrained]), if_neg (by rw [hopen]; nofun), hs2]
  exact ite_of_iff ((hgo i).trans (and_iff_right hi))

-- ## Requests at the memory fabric

theorem place_cellar {a : Nat} (h : a < 2 ^ 39) : place a = .cellar a := if_pos h

theorem readEnd_of_cellar (s : State) {a n : Nat} (h0 : 0 < n) (hn : a + n ≤ 2 ^ 39) :
    readEnd s a n = if (List.range n).any fun i => s.mem.poisoned (a + i) then .poisoned else .good := by
  have hcanon (i : Nat) (hi : i ∈ List.range n) : canon s (a + i) = some (a + i) :=
    canon_of_ownPlace s (.inl (by have := List.mem_range.1 hi; omega))
  have hmap : (List.range n).map (fun i => canon s (a + i)) = (List.range n).map fun i => some (a + i) := List.map_congr_left hcanon
  unfold readEnd readEndAt
  rw [place_cellar (by omega)]
  simp only [hmap, List.any_map]
  rw [if_neg (by simp)]
  rfl

theorem writeEnd_of_cellar (s : State) {a n : Nat} (hn : a + n ≤ 2 ^ 39) (h0 : 0 < n) : writeEnd s a n = .good := by
  unfold writeEnd
  rw [place_cellar (by omega)]
  refine if_neg ?_
  simp only [List.any_eq_true, not_exists, not_and]
  intro i hi
  rw [canon_of_ownPlace s (.inl (by have := List.mem_range.1 hi; omega))]
  nofun

theorem serve_read (s : State) (p : Option Nat) {a n : Nat} (ecc : Ecc) (h0 : 0 < n) (hn : a + n ≤ 2 ^ 39) :
    serve s p a (.read n) ecc = { eccRead s a ecc with
      lastRead := BitVec.ofNat 64 (leNat (((eccRead s a ecc).mem.read a n).take 8))
      lastEnd := if (List.range n).any fun i => (eccRead s a ecc).mem.poisoned (a + i) then .poisoned else .good } := by
  unfold serve
  rw [canon_of_ownPlace s (.inl (by omega))]
  dsimp only [fabricRead]
  rw [fabricReadAt_of_cellar _ _ h0 hn, readEnd_of_cellar _ h0 hn]
  rfl

theorem serve_write (s : State) (p : Option Nat) {a : Nat} {bs : List Byte} (poison : Bool) (ecc : Ecc) (h0 : 0 < bs.length) (hn : a + bs.length ≤ 2 ^ 39) :
    serve s p a (.write bs poison) ecc = { s with mem := s.mem.store a bs poison, lastEnd := .good } := by
  unfold serve
  dsimp only
  rw [fabricWrite_of_ownPlace s poison (List.length_pos_iff.1 h0) fun i hi => .inl (by omega), noteHost_of_cellar _ _ (place_cellar (by omega)),
    writeEnd_of_cellar _ hn h0]

theorem memRequest_of_parcel {s : State} {m : Master} {p : Nat} (hm : ∀ core, m ≠ .mgmt core) (hp : masterParcel s m = some p)
    (hholds : (s.parcel p).holds = true) {a : Nat} {op : MemOp} (hallow : allowedRange s p a (memOpLen op) = true) (ecc : Ecc) :
    memRequest s m a op ecc = serve s (some p) a op ecc := by
  unfold memRequest
  split
  next k => exact absurd rfl (hm k)
  next =>
    rw [hp]
    exact if_pos (by rw [hholds, hallow]; rfl)

theorem memRequest_refused {s : State} {m : Master} (hm : ∀ core, m ≠ .mgmt core) {a : Nat} {op : MemOp}
    (hdeny : ∀ p, masterParcel s m = some p → (s.parcel p).holds = true → allowedRange s p a (memOpLen op) = false) (ecc : Ecc) :
    memRequest s m a op ecc = { s with lastEnd := .refused } := by
  unfold memRequest
  split
  next k => exact absurd rfl (hm k)
  next =>
    split
    next p hp =>
      refine if_neg fun h => ?_
      obtain ⟨hholds, hallow⟩ := Bool.and_eq_true_iff.1 h
      exact absurd hallow (by rw [hdeny p hp hholds]; nofun)
    next => rfl

theorem coreRequest_of_not_regs (s : State) (core : Fin 4) {a : Nat} (h : ∀ off, place a ≠ .regs off) (op : MemOp) (ecc : Ecc) :
    coreRequest s core a op ecc = if absentRange s a (memOpLen op) then absentRequest s a op
      else if mapped s a && mapped s (a + memOpLen op - 1) then serve s none a op ecc else refuseRequest s := by
  unfold coreRequest
  split
  next off n heq => exact absurd heq (h off)
  next off bs poison heq => exact absurd heq (h off)
  next => rfl

theorem memRequest_core {s : State} (core : Fin 4) {a : Nat} {op : MemOp} (h0 : 0 < memOpLen op) (hn : a + memOpLen op ≤ 2 ^ 39)
    (hfirst : absentPlace s a = false) (hlast : absentPlace s (a + memOpLen op - 1) = false) (ecc : Ecc) :
    memRequest s (.mgmt core) a op ecc = serve s none a op ecc := by
  have hmapped {b : Nat} (hb : b < 2 ^ 39) : mapped s b = true := by
    unfold mapped
    rw [place_cellar hb]
  refine (coreRequest_of_not_regs s core (by rw [place_cellar (by omega)]; nofun) op ecc).trans ?_
  rw [if_neg (by rw [absentRange, hfirst, hlast]; nofun), if_pos (by rw [hmapped (by omega), hmapped (by omega)]; rfl)]

theorem memRequest_absent {s : State} (core : Fin 4) {a : Nat} (op : MemOp) (habsent : absentPlace s a = true) (ecc : Ecc) :
    memRequest s (.mgmt core) a op ecc = absentRequest s a op := by
  refine (coreRequest_of_not_regs s core (fun off hoff => ?_) op ecc).trans (if_pos (by rw [absentRange, habsent]; rfl))
  rw [absentPlace, hoff] at habsent
  cases habsent

theorem writePresent_absent {s : State} {a : Nat} {bs : List Byte} (habsent : absentPlace s a = true) (hline : a % 64 + bs.length ≤ 64) (poison : Bool) :
    writePresent s a bs poison = s := by
  unfold writePresent
  by_cases h0 : bs.length = 0
  · rw [linesOf, if_pos h0]
    rfl
  · have hone : linesOf a bs.length = [a / 64 * 64] := by
      rw [linesOf, if_neg h0, show (a + bs.length - 1) / 64 - a / 64 + 1 = 1 by omega]
      rfl
    rw [hone, List.foldl_cons, List.foldl_nil, show max a (a / 64 * 64) = a by omega]
    exact if_pos habsent

/-- The fields of MEM_SCRUB_CTL that a write keeps. -/
theorem mergeMask_zero (mask new : Word) : mergeMask mask 0 new = new &&& mask := by simp [mergeMask]

/-- Settles O38: a served request reads or stores the cellar at its own address; what check symbols do to a stack is `countCe_stack` and `findUe_stack`, and
the scrubber's places are `scrub_pos`. -/
theorem memoryController : Obligations.MemoryController := by
  unfold Obligations.MemoryController
  intro s m dpa v ecc who k hs a n reads writes
  have hlive {f : State → State} {c : Instr} (hc : exec c s = ok (live s f)) : exec c s = .next (f s) := hc.trans (congrArg ok (live_clocked hs f))
  have hreq (m : Master) (op : MemOp) : exec (.memoryRequest m dpa op ecc) s = .next (memRequest s m a op ecc) := (hlive rfl).trans rfl
  have hstored (bs : List Byte) (poison : Bool) (hm : s.memOk) (hq : s.mem.quiet a bs.length) : Stored s.mem (s.mem.store a bs poison) a bs :=
    Mem.stored_store hm (.inr hq) poison
  refine ⟨fun p hm hp hholds => ⟨fun len h0 hlen hallow => ?_, fun bs poison h0 hlen hallow => ⟨?_, hstored bs poison⟩⟩, fun hm op hdeny => ?_,
    fun core len h0 hlen hfirst hlast => ⟨?_, fun bs poison hbs => ⟨?_, hstored bs poison⟩⟩, fun core habsent => ⟨fun n => ?_, fun bs poison hline => ?_⟩,
    fun ha hsound => ?_, fun hpres hon htrained ecc i0 hi0 => ?_, fun hoff ecc => ?_, fun hman hpres => ⟨?_, ?_⟩, fun hnot => ?_⟩
  · exact (hreq ..).trans (congrArg _ ((memRequest_of_parcel hm hp hholds hallow ecc).trans (serve_read s _ ecc h0 hlen)))
  · exact (hreq ..).trans (congrArg _ ((memRequest_of_parcel hm hp hholds hallow ecc).trans (serve_write s _ poison ecc h0 hlen)))
  · exact (hreq ..).trans (congrArg _ (memRequest_refused hm hdeny ecc))
  · exact (hreq ..).trans (congrArg _ ((memRequest_core (op := .read len) core h0 hlen hfirst hlast ecc).trans (serve_read s _ ecc h0 hlen)))
  · subst hbs
    exact (hreq ..).trans (congrArg _ ((memRequest_core (op := .write bs poison) core h0 hlen hfirst hlast ecc).trans (serve_write s _ poison ecc h0 hlen)))
  · exact (hreq ..).trans (congrArg _ (memRequest_absent core (.read n) habsent ecc))
  · refine (hreq ..).trans (congrArg _ ((memRequest_absent core _ habsent ecc).trans ?_))
    unfold absentRequest
    dsimp only
    rw [writePresent_absent habsent hline]
  · have hpoison : s.mem.poisoned a = false := by
      rwa [Mem.poisoned, show a / 64 * 64 / 64 * 64 = a / 64 * 64 by omega] at hsound
    intro K K1 K2
    have hn : a / 64 * 64 / sliceBytes = n := by
      have hslice : sliceBytes = 2 ^ 33 := rfl
      rw [hslice]
      omega
    have hcorrected : eccRead s a .corrected = countCe s n := (if_neg (by omega)).trans (if_neg (by rw [hpoison]; nofun))
    have huncorrectable : eccRead s a .uncorrectable = findUe s (a / 64 * 64) := if_neg (by omega)
    obtain ⟨⟨b, hce⟩, -⟩ := countCe_stack s n
    have hK2 : K2 = K.ueFound (n % 8) (a / 64 * 64) := (congrArg (·.stack (n / 8)) huncorrectable).trans (findUe_stack hn hsound).1
    refine ⟨ite_self _, ?_, ?_, ?_, ?_, ?_⟩
    · rw [show K1 = _ from (congrArg (·.stack (n / 8)) hcorrected).trans hce]
      exact Tab.get_set_same ..
    all_goals rw [hK2]
    · exact Tab.get_set_same ..
    all_goals rfl
  · intro pos hawake hleft
    exact ⟨_, (hlive rfl).trans (congrArg _ (if_pos hpres)), fun i hi => scrub_pos ecc hon htrained hi0 hawake hleft hi⟩
  · refine (hlive rfl).trans (congrArg _ ?_)
    split
    next hpres =>
      obtain h | h | h := hoff
      · exact absurd hpres (by rw [h]; nofun)
      · exact if_pos (by rw [h]; rfl)
      · exact if_pos (by rw [h, Bool.not_false, Bool.or_true])
    next => rfl
  · show exec _ s = .next (s.updStack k fun K => if 1 ≤ fld v 8 8 ∧ fld v 8 8 ≤ 168 then _ else _)
    refine (hlive rfl).trans (congrArg _ ((if_pos (by rw [hman, hpres]; rfl)).trans ?_))
    unfold scrubCtlWrite
    rw [mergeMask_zero]
    by_cases hh : 1 ≤ fld v 8 8 ∧ fld v 8 8 ≤ 168
    · simp only [if_pos hh]
      exact if_pos (by simpa using hh)
    · simp only [if_neg hh]
      exact if_neg (by simpa using hh)
  · exact (hlive rfl).trans (congrArg _ (if_pos (by rw [hman, hpres]; rfl)))
  · have hdenied : ¬ (isManager s who && stackPresent s k) = true := by
      rw [Bool.and_eq_true]
      rintro ⟨h, h'⟩
      exact hnot.elim (fun hm => absurd h (by rw [hm]; nofun)) fun hp => absurd h' (by rw [hp]; nofun)
    exact ⟨(hlive rfl).trans (congrArg _ (if_neg hdenied)), (hlive rfl).trans (congrArg _ (if_neg hdenied))⟩

end Sys2Proof.Machine

/-! PROOFS. Mover channels: starts, aborts and requests (O39). -/

namespace Sys2Proof.Machine

theorem Tab.upd_congr {α : Type} {d : α} {m : Tab α} {k : Nat} {f f' : α → α} (h : f (Tab.get d m k) = f' (Tab.get d m k)) :
    Tab.upd d m k f = Tab.upd d m k f' := congrArg (Tab.set m k) h

theorem State.updChan_congr {s : State} {g c : Nat} {f f' : Chan → Chan} (h : f (s.chan g c) = f' (s.chan g c)) : s.updChan g c f = s.updChan g c f' := by
  unfold State.updChan State.updGroup
  have hchan : Tab.upd {} (s.group g).chans c f = Tab.upd {} (s.group g).chans c f' := Tab.upd_congr h
  refine congrArg (fun T => ({ s with groups := T } : State)) (Tab.upd_congr ?_)
  exact congrArg (fun T => ({ s.group g with chans := T } : Group)) hchan

/-- Keeping what a transfer moved changes jobs of compression engines only. -/
theorem keepMoved_eq (s : State) (g c : Nat) : ∃ E, keepMoved s g c = { s with ces := E } := by
  unfold keepMoved
  split
  · exact ⟨_, rfl⟩
  · refine foldl_keeps (P := fun u : State => ∃ E, u = { s with ces := E }) _ _ ⟨_, rfl⟩ fun u e h => ?_
    obtain ⟨E, rfl⟩ := h
    exact ⟨_, rfl⟩

-- ## Starts and aborts

/-- What a channel samples when a transfer of a parcel of a vintage starts with a control value. -/
def Chan.sampled (vintage : Nat) (ctl : Word) (C : Chan) : Chan :=
  { C with
    xsrc := C.src.toNat, xdst := C.dst.toNat, xcnt := C.cnt.toNat
    xctl := ctl, xhi := C.hiwat.toNat, xlo := C.lowat.toNat, xqsel := C.qsel, xns := C.ns.toNat, xenq := C.enq
    vintage := vintage, done := false, aborted := false, err := 0, retries := 0, remaining := C.cnt.toNat, moved := 0
    busy := true, gateClosed := false, burst := none, burstNo := 0, ahead := false, aheadOff := 0
    snoopLive := C.snoop.isSome }

/-- The state in which a transfer that starts with a control value is checked. -/
def sampledState (s : State) (g c vintage : Nat) (ctl : Word) : State := (keepMoved s g c).updChan g c (Chan.sampled vintage ctl)

/-- What the checks of a start decide. -/
def checkedStart (s : State) (g c p : Nat) : State :=
  if badSetup s g (s.chan g c) then haltChan s g c 0x0A
  else if badNs s g (s.chan g c) then haltChan s g c 0x09
  else if (s.chan g c).xcnt = 0 then finishDone s g c
  else readAhead (sendLtr (s.updParcel p fun P => { P with ps := 0 })) g c

theorem sampledState_xcnt (s : State) (g c vintage : Nat) (ctl : Word) : ((sampledState s g c vintage ctl).chan g c).xcnt = (s.chan g c).cnt.toNat := by
  obtain ⟨E, hE⟩ := keepMoved_eq s g c
  rw [sampledState, State.updChan_chan, hE]
  rfl

theorem sampledState_groupParcel (s : State) (g c vintage : Nat) (ctl : Word) (h : Nat) :
    groupParcel (sampledState s g c vintage ctl) h = groupParcel s h := by
  obtain ⟨E, hE⟩ := keepMoved_eq s g c
  rw [sampledState, hE]
  rfl

theorem beginTransfer_checked {s : State} {g c p : Nat} (hp : groupParcel s g = some p) :
    (beginTransfer s g c).1 = checkedStart (sampledState s g c (s.parcel p).vintage (s.chan g c).ctl) g c p := by
  obtain ⟨E, hE⟩ := keepMoved_eq s g c
  have hkept : (((groupParcel (keepMoved s g c) g).map fun p => ((keepMoved s g c).parcel p).vintage).getD 0) = (s.parcel p).vintage := by
    rw [hE]
    show ((groupParcel s g).map fun p => (s.parcel p).vintage).getD 0 = _
    rw [hp]
    rfl
  have hsampled := sampledState_groupParcel s g c (s.parcel p).vintage (s.chan g c).ctl g
  have hs1 : (keepMoved s g c).updChan g c (fun C => C.sampled (s.parcel p).vintage C.ctl) = sampledState s g c (s.parcel p).vintage (s.chan g c).ctl := by
    refine State.updChan_congr ?_
    rw [hE]
    rfl
  unfold beginTransfer checkedStart
  rw [← hs1, hp] at hsampled
  rw [← hs1]
  dsimp only
  rw [hkept]
  unfold Chan.sampled at hsampled ⊢
  rw [hsampled]
  split
  · rfl
  · split
    · rfl
    · split <;> rfl

/-- How a start that nothing refuses goes on from the sampled registers. -/
theorem dmaStart_checked {s : State} {who : Who} {g c p : Nat} {ctl : Word} (hmay : mayGroup s who g = true) (hp : groupParcel s g = some p)
    (hlock : chanLocked s g c = false) (hidle : (s.chan g c).busy = false) (hgo : (s.group g).stopped = false) :
    dmaStart s who g c ctl = checkedStart (sampledState (s.updChan g c fun C => { C with ctl := ctl &&& 0x1FFFFFFFFC, prog := none, badNs := false })
      g c (s.parcel p).vintage (ctl &&& 0x1FFFFFFFFC)) g c p := by
  unfold dmaStart
  rw [if_neg (by rw [hmay]; nofun), if_neg (by rw [hp]; nofun), if_neg (by rw [hlock]; nofun), if_neg (by rw [hidle]; nofun),
    if_neg (by rw [hidle, hgo]; nofun), mergeMask_zero]
  generalize hw : (fun C : Chan => { C with ctl := ctl &&& 0x1FFFFFFFFC, prog := none, badNs := false }) = write
  have hpw : groupParcel (s.updChan g c write) g = some p := hp
  have hctl : ((s.updChan g c write).chan g c).ctl = ctl &&& 0x1FFFFFFFFC := by rw [State.updChan_chan, ← hw]
  have hvintage : (s.updChan g c write).parcel p = s.parcel p := rfl
  dsimp only
  rw [beginTransfer_checked hpw, hctl, hvintage]

-- ## Requests

theorem addRequest_counted {s : State} {g c src : Nat} (due : Bool) (hsrc : (s.chan g c).reqSrc = src) (hpaced : (s.chan g c).paced = true)
    (hbusy : (s.chan g c).busy = true) (hroom : (s.chan g c).reqPending < 4095) :
    addRequest s g c src due = s.updChan g c fun C => { C with reqPending := C.reqPending + 1, dueOpen := C.dueOpen + b2n due } := by
  unfold addRequest
  dsimp only
  rw [if_neg (by simp [hsrc, hpaced, hbusy]), if_neg (Nat.not_le.2 hroom)]

theorem addRequest_full {s : State} {g c src : Nat} (due : Bool) (hsrc : (s.chan g c).reqSrc = src) (hpaced : (s.chan g c).paced = true)
    (hbusy : (s.chan g c).busy = true) (hfull : 4095 ≤ (s.chan g c).reqPending) : addRequest s g c src due = haltChan s g c 0x0C := by
  unfold addRequest
  dsimp only
  rw [if_neg (by simp [hsrc, hpaced, hbusy]), if_pos hfull]

-- ## Aborts

theorem abortChan_chan {s : State} {g c : Nat} (hbusy : (s.chan g c).busy = true) : ((abortChan s g c).chan g c).busy = false ∧
    ((abortChan s g c).chan g c).aborted = true ∧ ((abortChan s g c).chan g c).done = false ∧ ((abortChan s g c).chan g c).err = 0 ∧
    ((abortChan s g c).chan g c).burst = none := by
  unfold abortChan
  simp only [hbusy, Bool.not_true, Bool.false_eq_true, if_false, State.updChan_chan, and_self]

/-- Settles O39: the refusals are branches of `dmaStart`, a start that none of them meets is `checkedStart` of the sampled registers, and a request is counted
or halts the channel by `addRequest`. -/
theorem moverStartsAndRequests : Obligations.MoverStartsAndRequests := by
  unfold Obligations.MoverStartsAndRequests
  intro s who g c ctl src hs C chan start
  have hlive {f : State → State} {c : Instr} (hc : exec c s = ok (live s f)) : exec c s = .next (f s) := hc.trans (congrArg ok (live_clocked hs f))
  have hstart : start = .next (dmaStart s who g c ctl) := (hlive rfl).trans rfl
  have habort : exec (.dmaAbort who g c) s = .next _ := hlive rfl
  refine ⟨fun hmay => ⟨?_, ?_⟩, fun hmay hp => ?_, fun p hmay hp => ⟨fun hlock => ⟨?_, ?_⟩, fun hlock => ⟨fun hbusy hkeep => ?_, fun hbusy hboth => ?_,
    fun hbusy => ?_, fun hidle hstop => ?_, fun hidle hgo => ?_⟩⟩, fun hsrc h0 hbusy hpaced => ?_⟩
  · exact hstart.trans (congrArg _ (if_pos (by rw [hmay]; rfl)))
  · exact habort.trans (congrArg _ (if_pos (by rw [hmay]; rfl)))
  · exact hstart.trans (congrArg _ ((if_neg (by rw [hmay]; nofun)).trans (if_pos (by rw [hp]; rfl))))
  · exact hstart.trans (congrArg _ (((if_neg (by rw [hmay]; nofun)).trans (if_neg (by rw [hp]; nofun))).trans (if_pos hlock)))
  · exact habort.trans (congrArg _ ((if_neg (by rw [hmay]; nofun)).trans (if_pos hlock)))
  · exact hstart.trans (congrArg _ (by
      unfold dmaStart
      rw [if_neg (by rw [hmay]; nofun), if_neg (by rw [hp]; nofun), if_neg (by rw [hlock]; nofun), if_neg (by rw [hkeep, Bool.and_false]; nofun), hbusy]
      rfl))
  · refine hstart.trans ((congrArg _ ?_).trans habort.symm)
    unfold dmaStart
    rw [if_neg (by rw [hmay]; nofun), if_neg (by rw [hp]; nofun), if_neg (by rw [hlock]; nofun), if_pos (by rw [hbusy, hboth]; rfl),
      if_neg (by rw [hmay]; nofun), if_neg (by rw [hlock]; nofun)]
  · exact ⟨_, habort.trans (congrArg _ ((if_neg (by rw [hmay]; nofun)).trans (if_neg (by rw [hlock]; nofun)))), abortChan_chan hbusy⟩
  · refine hstart.trans (congrArg _ ?_)
    unfold dmaStart
    rw [if_neg (by rw [hmay]; nofun), if_neg (by rw [hp]; nofun), if_neg (by rw [hlock]; nofun), if_neg (by rw [show (s.chan g c).busy = false from hidle]; nofun), if_pos (by rw [hstop, Bool.or_true])]
  · intro s0 s1
    have hchecked : start = .next (checkedStart s1 g c p) := hstart.trans (congrArg _ (dmaStart_checked hmay hp hlock hidle hgo))
    have hxcnt : (s1.chan g c).xcnt = C.cnt.toNat := by
      refine (sampledState_xcnt ..).trans ?_
      rw [State.updChan_chan]
    rw [hchecked]
    unfold checkedStart
    refine ⟨fun hbad => congrArg _ (if_pos hbad), fun hok hns => congrArg _ ?_, fun hok hns hcnt => congrArg _ ?_, fun hok hns hcnt => congrArg _ ?_⟩ <;>
      rw [if_neg (by rw [hok]; nofun)]
    · exact if_pos hns
    · rw [if_neg (by rw [hns]; nofun), if_pos (by rw [hxcnt, hcnt]; rfl)]
    · rw [if_neg (by rw [hns]; nofun), if_neg (by rw [hxcnt]; exact fun h => hcnt (BitVec.eq_of_toNat_eq h))]
  · intro frame
    have hreq : exec (.dmaRequest g c src) s = .next _ := hlive rfl
    rw [if_neg h0] at hreq
    extract_lets bound late at hreq
    have hbound : bound = true ↔ frame := by simp [bound, frame]
    refine ⟨fun p hframe hp hguard => hreq.trans (congrArg _ ?_), fun hopen => ?_⟩
    · refine (if_pos ?_).trans (State.updChan_congr (if_pos ?_))
      · simp only [late, hbound.2 hframe, hp, hguard, Bool.and_self]
      · rw [show (s.chan g c).busy = true from hbusy, Bool.and_true]
        exact decide_eq_true hsrc
    · have hlate : ¬ late = true := by
        intro h
        obtain ⟨hb, hguard⟩ := Bool.and_eq_true_iff.1 h
        split at hguard
        next p hp => exact absurd hguard (by rw [hopen (hbound.1 hb) p hp]; nofun)
        next => cases hguard
      refine ⟨fun hroom => hreq.trans (congrArg _ ((if_neg hlate).trans ?_)), fun hfull => hreq.trans (congrArg _ ((if_neg hlate).trans ?_))⟩
      · refine (addRequest_counted _ hsrc hpaced hbusy hroom).trans (State.updChan_congr ?_)
        have hdue : b2n bound = if src = 1 ∨ src = 2 then 1 else 0 := ite_of_iff hbound
        rw [hdue]
      · exact addRequest_full _ hsrc hpaced hbusy hfull

end Sys2Proof.Machine

/-! PROOFS. Settings of parcels, rings, storage, dispatcher and health (O46). -/

namespace Sys2Proof.Machine

theorem fld_zero (v : Word) (len : Nat) : fld v 0 len = v.toNat % 2 ^ len := congrArg (· % 2 ^ len) (Nat.div_one _)

theorem State.updWin_congr {s : State} {w : Window} {f f' : Win → Win} (h : f (s.win w) = f' (s.win w)) : s.updWin w f = s.updWin w f' :=
  congrArg (fun T => ({ s with wins := T } : State)) (Tab.upd_congr h)

@[simp] theorem State.updWin_updWin (s : State) (w : Window) (f f' : Win → Win) : (s.updWin w f).updWin w f' = s.updWin w fun W => f' (f W) := by
  simp [State.updWin]

-- ## Registers of the manager

theorem frameDivWrite_eq (s : State) (p : Nat) (v : Word) :
    let d := v.toNat % 2 ^ 7
    frameDivWrite s p v = if parcelBusy s p = true ∨ d = 0 ∨ 64 < d ∨ d * s.frm.period.toNat < (s.parcel p).image.minFrame
      then { s with pcl := { s.pcl with divErr := true } } else s.updParcel p fun P => { P with div := BitVec.ofNat 7 d } := by
  unfold frameDivWrite
  rw [fld_zero]
  exact ite_of_iff (by simp [or_assoc])

theorem parkLimitWrite_eq (s : State) (p : Nat) (v : Word) : parkLimitWrite s p v = if v.toNat % 2 ^ 16 = 0
    then { s with pcl := { s.pcl with parkErr := true } } else s.updParcel p fun P => { P with park := BitVec.ofNat 16 (v.toNat % 2 ^ 16) } := by
  unfold parkLimitWrite
  rw [fld_zero]

theorem vfSplitWrite_eq (s : State) (v : Word) : vfSplitWrite s v = if 64 < v.toNat % 2 ^ 7 ∨ s.ports.hpa.vfEnable = true ∨ s.ports.hpb.vfEnable = true ∨
      (∃ e ∈ s.parcels, e.2.holds = true ∧ e.2.vf ≠ 0)
    then { s with pcl := { s.pcl with splitErr := true } } else { s with pcl := { s.pcl with split := BitVec.ofNat 7 (v.toNat % 2 ^ 7) } } := by
  unfold vfSplitWrite
  rw [fld_zero]
  exact ite_of_iff (by simp [or_assoc])

theorem idleWrite_eq (s : State) (p : Nat) (k : Fin 3) (v : Word) : idleWrite s p k v = s.updParcel p fun P =>
    if k = 0 then { P with idle1 := BitVec.ofNat 32 (v.toNat % 2 ^ 32) } else if k = 1 then { P with idle2 := BitVec.ofNat 32 (v.toNat % 2 ^ 32) }
      else { P with idle3 := BitVec.ofNat 32 (v.toNat % 2 ^ 32) } := by
  unfold idleWrite
  rw [fld_zero]
  match k with
  | 0 => rfl
  | 1 => rfl
  | 2 => rfl

theorem stoCtlWrite_eq (s : State) (v : Word) :
    stoCtlWrite s v = { s with sto := if v.toNat % 2 ^ 16 = 0 ∨ v.toNat / 2 ^ 16 % 2 ^ 8 = 0 ∨ 50 < v.toNat / 2 ^ 16 % 2 ^ 8
      then { s.sto with paramErr := true }
      else { s.sto with closeUs := BitVec.ofNat 16 (v.toNat % 2 ^ 16), reservePct := BitVec.ofNat 8 (v.toNat / 2 ^ 16 % 2 ^ 8), setEvEn := fbit v 24 } } := by
  unfold stoCtlWrite
  rw [fld_zero]
  refine (ite_of_iff (q := v.toNat % 2 ^ 16 = 0 ∨ v.toNat / 2 ^ 16 % 2 ^ 8 = 0 ∨ 50 < v.toNat / 2 ^ 16 % 2 ^ 8) ?_).trans ?_
  · simp only [Bool.or_eq_true, decide_eq_true_eq, or_assoc]
    exact Iff.rfl
  · split <;> rfl

theorem affDepthWrite_eq (s : State) (v : Word) : affDepthWrite s v = { s with dsp := if 4 < v.toNat % 2 ^ 3 then { s.dsp with paramErr := true }
    else { s.dsp with affDepth := BitVec.ofNat 16 (v.toNat % 2 ^ 3) } } := by
  unfold affDepthWrite
  rw [fld_zero]
  split <;> rfl

-- ## Completion rings

theorem cqCfg_refused {s : State} {w : Window} {v : Word} (h : v.toNat / 2 ^ 8 % 2 ^ 5 < 4 ∨ 16 < v.toNat / 2 ^ 8 % 2 ^ 5 ∨
    vectorsOf s w.fn.val ≤ v.toNat / 2 ^ 16 % 2 ^ 11 ∨ ringBusy s w = true) : cqCfg s w v = s.updWin w fun W => { W with cfgRefused := true } := by
  unfold cqCfg
  refine if_pos ?_
  simp only [Bool.or_eq_true, decide_eq_true_eq, or_assoc]
  exact h

theorem cqCfg_taken {s : State} {w : Window} {v : Word} (h4 : 4 ≤ v.toNat / 2 ^ 8 % 2 ^ 5) (h16 : v.toNat / 2 ^ 8 % 2 ^ 5 ≤ 16)
    (hvec : v.toNat / 2 ^ 16 % 2 ^ 11 < vectorsOf s w.fn.val) (hidle : ringBusy s w = false) : cqCfg s w v = drainRing (s.updWin w fun W =>
      let W1 := { W with en := fbit v 0, intEn := fbit v 1, sizeLog2 := BitVec.ofNat 5 (v.toNat / 2 ^ 8 % 2 ^ 5), vector := BitVec.ofNat 11 (v.toNat / 2 ^ 16 % 2 ^ 11) }
      if fbit v 0 = true ∧ (W.en = false ∨ W.sizeLog2.toNat ≠ v.toNat / 2 ^ 8 % 2 ^ 5) then { W1 with head := 0, tail := 0, phase := true } else W1) w := by
  unfold cqCfg
  extract_lets n again t
  have hn : n = v.toNat / 2 ^ 8 % 2 ^ 5 := rfl
  have hvec' : fld v 16 11 < vectorsOf s w.fn.val := hvec
  rw [if_neg (by simp only [Bool.or_eq_true, decide_eq_true_eq, hidle, Bool.false_eq_true, or_false]; omega)]
  refine congrArg (drainRing · w) ?_
  have hagain : again = true ↔ fbit v 0 = true ∧ ((s.win w).en = false ∨ (s.win w).sizeLog2.toNat ≠ v.toNat / 2 ^ 8 % 2 ^ 5) := by
    simp [again, n, fld, bits]
  by_cases h : again = true
  · rw [if_pos h]
    exact (State.updWin_updWin ..).trans (State.updWin_congr (if_pos (hagain.1 h)).symm)
  · rw [if_neg h]
    exact State.updWin_congr (if_neg fun h' => h (hagain.2 h')).symm

theorem cqBase_taken {s : State} {w : Window} {v : Word} (hidle : ringBusy s w = false) : cqBase s w v = s.updWin w fun W =>
    if W.en then { W with base := v &&& ~~~0xFFF, head := 0, tail := 0, phase := true } else { W with base := v &&& ~~~0xFFF } := by
  unfold cqBase
  rw [if_neg (by rw [hidle]; nofun), mergeMask_zero]
  dsimp only
  by_cases h : (s.win w).en = true
  · rw [if_pos (by rwa [State.updWin_win])]
    exact (State.updWin_updWin ..).trans (State.updWin_congr (if_pos h).symm)
  · rw [if_neg (by rwa [State.updWin_win])]
    exact State.updWin_congr (if_neg h).symm

/-- Settles O46: for each register, its write is the settings taken whole or the error bit, and a requester without the right leaves the state. -/
theorem parcelAndRingSettings : Obligations.ParcelAndRingSettings := by
  unfold Obligations.ParcelAndRingSettings
  intro s who p w v k hs P d n16 n32 pct
  have hlive {f : State → State} {c : Instr} (hc : exec c s = ok (live s f)) : exec c s = .next (f s) := hc.trans (congrArg ok (live_clocked hs f))
  refine ⟨fun hman => ⟨?_, ?_, ?_, ?_, ?_, ?_, ?_⟩, fun hman i hi => ?_, fun hmay => ?_⟩
  · exact (hlive rfl).trans (congrArg _ ((if_pos hman).trans (frameDivWrite_eq ..)))
  · exact (hlive rfl).trans (congrArg _ ((if_pos hman).trans (parkLimitWrite_eq ..)))
  · exact (hlive rfl).trans (congrArg _ ((if_pos hman).trans (vfSplitWrite_eq ..)))
  · exact (hlive rfl).trans (congrArg _ ((if_pos hman).trans (idleWrite_eq ..)))
  · exact (hlive rfl).trans (congrArg _ ((if_pos hman).trans (stoCtlWrite_eq ..)))
  · exact (hlive rfl).trans (congrArg _ ((if_pos hman).trans (affDepthWrite_eq ..)))
  · refine (hlive rfl).trans (congrArg _ ?_)
    rw [hman, fld_zero]
    by_cases h : v.toNat % 2 ^ 16 = 0
    · rw [if_pos (show n16 = 0 from h)]
      exact if_neg (by rw [h]; nofun)
    · rw [if_neg (show ¬ n16 = 0 from h)]
      exact if_pos (by rw [Bool.true_and]; exact bne_iff_ne.2 h)
  · simp only [List.mem_cons, List.not_mem_nil, or_false] at hi
    have hno : ¬ isManager s who = true := by rw [hman]; nofun
    rcases hi with rfl | rfl | rfl | rfl | rfl | rfl | rfl
    case inr.inr.inr.inr.inr.inr => exact (hlive rfl).trans (congrArg _ (if_neg (by rw [hman]; nofun)))
    all_goals exact (hlive rfl).trans (congrArg _ (if_neg hno))
  · intro W log vec refused
    have hcfg : exec (.tskCqCfgWrite who w v) s = .next (cqCfg s w v) := (hlive rfl).trans (congrArg _ (if_pos hmay))
    have hbase : exec (.tskCqBaseWrite who w v) s = .next (cqBase s w v) := (hlive rfl).trans (congrArg _ (if_pos hmay))
    have hhead : exec (.tskCqHeadWrite who w v) s = .next (cqHead s w v) := (hlive rfl).trans (congrArg _ (if_pos hmay))
    refine ⟨fun h => ?_, fun h4 h16 hvec hidle => ?_, fun hbusy => ?_, fun hidle => ?_, fun hbad => ?_, fun hbad => ?_, fun hman hpf hw => ⟨fun hout => ?_, fun hout => ?_⟩⟩
    · exact hcfg.trans (congrArg _ (cqCfg_refused h))
    · exact hcfg.trans (congrArg _ (cqCfg_taken h4 h16 hvec hidle))
    · exact hbase.trans (congrArg _ (if_pos hbusy))
    · exact hbase.trans (congrArg _ (cqBase_taken hidle))
    · refine hhead.trans (congrArg _ ?_)
      unfold cqHead
      rw [fld_zero]
      exact if_pos hbad
    · refine hhead.trans (congrArg _ ?_)
      unfold cqHead
      rw [fld_zero]
      exact if_neg (by rw [hbad]; nofun)
    · refine (hlive rfl).trans (congrArg _ ((if_pos (by rw [hmay, hman]; rfl)).trans ?_))
      unfold wparcel
      rw [if_neg (by simp [hw, hpf]), if_pos hout]
    · refine (hlive rfl).trans (congrArg _ ((if_pos (by rw [hmay, hman]; rfl)).trans ?_))
      unfold wparcel
      rw [if_neg (by simp [hw, hpf]), if_neg (Classical.not_not.2 hout), fld_zero]

end Sys2Proof.Machine

/-! PROOFS. Two parcels of one mailbox pair, listed in falling order: the clause of O47 on a waiting fault record fails (O47). -/

namespace Sys2Proof.Machine

/-- A fault record of vintage 2 that waits for the mailbox. -/
def waitingFault : FaultRec := { vintage := 2, bytes := zeros 64 }

/-- A record of parcel 3 that is stale: the parcel's vintage is 7. -/
def staleRecord : EvRec := { source := 0, cause := 0, vunit := 0, vintage := 9, frame := 0, sub := 0, status := 0, parcel := some 3 }

/-- Two parcels of mailbox pair 0 that are listed in falling order, channel 0 full with a fault record of the first waiting, and a ring of the
manager's whose first waiting record is stale. -/
def fallingParcels : State :=
  { parcels := [(5, { st := .active, vintage := 2 }), (3, { st := .active, vintage := 7 })]
    mbx := { chans := [(0, { full := true, ctl := 7, sender := 0x8001, receiver := 0, valid := true, waiting := [waitingFault] })] }
    evt := { srcs := [(1025, { dest := 1 })], rings := [(0, { en := true, waitQ := [(staleRecord, 0)] })] } }

/-- Whether channel 0 holds a message after a run. -/
def Filled (r : Host.Outcome State Fault Refusal) : Bool :=
  match r with
  | .next s => (s.mchan 0).full
  | _ => false

/-- Refutes O47: the taken event drains a ring and counts a stale record of parcel 3, which lists parcel 3 before parcel 5; the pair is then parcel 3's,
whose vintage the waiting record does not have, and no record takes the place of the message taken. -/
theorem not_mailboxesAndLocks : ¬ Obligations.MailboxesAndLocks := by
  unfold Obligations.MailboxesAndLocks
  intro h
  obtain ⟨-, -, -, htake, -⟩ := h fallingParcels (.fn 0) 0 0 0 rfl
  obtain ⟨-, -, hwaiting⟩ := htake (by decide +kernel)
  obtain ⟨hnext, -⟩ := hwaiting waitingFault [] 5 rfl rfl rfl (by decide +kernel) (by decide +kernel)
  have hclaimed := congrArg Filled (hnext (by decide +kernel))
  revert hclaimed
  decide +kernel

end Sys2Proof.Machine

/-! PROOFS. CANCEL, RESUME, QUERY_STATUS, and the pennant with which a command ends (O43). -/

namespace Sys2Proof.Machine

-- ## CANCEL, RESUME and QUERY_STATUS

theorem cancelStart_of_target {s : State} {c t : Cmd} (h : target s c = some t) :
    (t.phase = .held → cancelStart s c = endCmd (endCmd s t sCANCELLED (zeros 16)) c sSUCCESS (zeros 16)) ∧
    (t.phase = .decided → cancelStart s c = endCmd s c sTOO_LATE (zeros 16)) ∧
    ((t.phase = .waiting ∨ t.phase = .running) → t.opcode ∈ [0x10, 0x11, 0x12] → cancelStart s c = s.updCmd c.seq fun c => { c with phase := .running }) ∧
    ((t.phase = .waiting ∨ t.phase = .running) → t.opcode ∉ [0x10, 0x11, 0x12] → cancelStart s c = endCmd s c sTOO_LATE (zeros 16)) := by
  have hop : (t.opcode == 0x10 || t.opcode == 0x11 || t.opcode == 0x12) = true ↔ t.opcode ∈ [0x10, 0x11, 0x12] := by simp [or_assoc]
  unfold cancelStart
  rw [h]
  dsimp only
  refine ⟨fun hp => if_pos (by rw [hp]; rfl), fun hp => ?_, fun hp hin => ?_, fun hp hout => ?_⟩
  · rw [hp]
    rfl
  · rw [hop.2 hin]
    obtain hp | hp := hp <;> rw [hp] <;> rfl
  · rw [Bool.eq_false_iff.2 (mt hop.1 hout)]
    obtain hp | hp := hp <;> rw [hp] <;> rfl

theorem resumeStart_of_target {s : State} {c t : Cmd} (h : target s c = some t) :
    (hasParked s t = true → t.phase ≠ .decided → resumeStart s c = s.updCmd c.seq fun c => { c with phase := .running }) ∧
    (hasParked s t = false → resumeStart s c = endCmd s c sINVALID_FIELD (cmdDetail 7 0)) := by
  unfold resumeStart
  rw [h]
  exact ⟨fun hparked hp => if_pos (by simp [hparked, hp]), fun hparked => if_neg (by simp [hparked])⟩

-- ## The end of a command

theorem sendMsix_evt (s : State) (f v : Nat) : ∃ e, sendMsix s f v = { s with evt := e } := by
  unfold sendMsix
  dsimp only
  split
  · exact ⟨_, rfl⟩
  · split
    · exact ⟨_, rfl⟩
    · split <;> exact ⟨_, rfl⟩

theorem hostWrite_eq (s : State) (p a : Nat) (bs : List Byte) : hostWrite s p a bs = { s with
    mem := if linkUp s p && !s.pwr.stopped && a + bs.length ≤ 2 ^ 50 then s.mem.store (apertureBase p + a) bs false else s.mem } := by
  unfold hostWrite
  split <;> rfl

theorem filter_map_decided (l : List Cmd) (seq : Nat) :
    (l.map fun d => if d.seq = seq then { d with phase := .decided } else d).filter (fun d => d.seq != seq) = l.filter fun d => d.seq != seq := by
  induction l with
  | nil => rfl
  | cons d l ih =>
    rw [List.map_cons]
    by_cases h : d.seq = seq
    · rw [if_pos h, List.filter_cons_of_neg (by simp [h]), List.filter_cons_of_neg (by simp [h]), ih]
    · rw [if_neg h, List.filter_cons_of_pos (by simp [h]), List.filter_cons_of_pos (by simp [h]), ih]

/-- What one pennant that waits alone in its window does to a state. -/
theorem drainWin_one {s : State} {w : Window} {q : Pennant} (hq : (s.win w).waitQ = [q]) (hdec : s.deciding = false)
    (horder : (s.ports.orderReads.any fun o => some o.cmd == q.cmd) = false) :
    (staleVintage s q.parcel q.vintage = true →
      drainWin 1 s w = countStale (dropCmd (s.updWin w fun W => { W with waitQ := [] }) q.cmd) (q.parcel.getD 0)) ∧
    (staleVintage s q.parcel q.vintage = false →
      let W := s.win w
      (W.en = true → ringRoom W.sizeLog2.toNat W.head.toNat W.tail.toNat = true → ∃ e, drainWin 1 s w =
        { dropCmd ((hostWrite s (fnPort s w.fn.val) (W.base.toNat + 32 * W.tail.toNat) (withPhase q.bytes W.phase)).updWin w fun X => { X with
            waitQ := [], tail := BitVec.ofNat 16 ((W.tail.toNat + 1) % 2 ^ W.sizeLog2.toNat)
            phase := if (W.tail.toNat + 1) % 2 ^ W.sizeLog2.toNat = 0 then !X.phase else X.phase }) q.cmd with evt := e }) ∧
      (¬ (W.en = true ∧ ringRoom W.sizeLog2.toNat W.head.toNat W.tail.toNat = true) → drainWin 1 s w = s)) := by
  unfold drainWin
  dsimp only
  rw [hq]
  dsimp only
  rw [if_neg (by rw [hdec, horder]; nofun)]
  refine ⟨fun hstale => if_pos hstale, fun hfresh => ?_⟩
  rw [if_neg (by rw [hfresh]; nofun)]
  refine ⟨fun hen hroom => ?_, fun hno => if_neg (by rwa [Bool.and_eq_true])⟩
  rw [if_pos (by rw [hen, hroom]; rfl)]
  unfold drainWin
  split
  · exact sendMsix_evt ..
  · exact ⟨_, rfl⟩

/-- The state in which the pennant of a command that ends waits. -/
def posted (s : State) (c : Cmd) (q : Pennant) : State :=
  ({ s with cmds := s.cmds.map fun d => if d.seq = c.seq then { d with phase := .decided } else d } : State).updWin c.win fun W =>
    { W with waitQ := W.waitQ ++ [q] }

theorem posted_win (s : State) (c : Cmd) (q : Pennant) : (posted s c q).win c.win = { s.win c.win with waitQ := (s.win c.win).waitQ ++ [q] } :=
  State.updWin_win ..

theorem endCmd_posted {s : State} {c : Cmd} (st : Nat) (det : List Byte) (hq : (s.win c.win).waitQ = []) :
    endCmd s c st det = drainWin 1 (posted s c {
      bytes := leBytes 2 c.tag ++ leBytes 1 st ++ leBytes 1 0 ++ leBytes 1 c.opcode ++ leBytes 1 c.win.w.val ++ leBytes 2 c.vintage
        ++ leBytes 8 s.frm.count.toNat ++ det
      cmd := some c.seq, vintage := c.vintage, parcel := c.parcel }) c.win := by
  have hlen (q : Pennant) : ((posted s c q).win c.win).waitQ.length = 1 := by rw [posted_win, hq]; rfl
  exact congrArg (drainWin · (posted s c _) c.win) (hlen _)

theorem dropCmd_updWin_win (s : State) (w : Window) (f : Win → Win) (seq : Nat) (e : EvtBlock) :
    ({ dropCmd (s.updWin w f) (some seq) with evt := e } : State).win w = f (s.win w) := State.updWin_win s w f

/-- Settles O43: the controls are the branches on the target's phase, and the end of a command is what its pennant, alone in its window, does. -/
theorem controls : Obligations.Controls := by
  unfold Obligations.Controls
  intro s c
  refine ⟨fun h => ?_, fun t h => ?_, fun st det hdec hq horder => ?_⟩
  · refine ⟨?_, ?_, ?_⟩
    · unfold cancelStart; rw [h]
    · unfold resumeStart; rw [h]
    · unfold queryStart; rw [h]
  · obtain ⟨hheld, hdecided, htaken, hlate⟩ := cancelStart_of_target h
    obtain ⟨hresumed, hrefused⟩ := resumeStart_of_target h
    refine ⟨hheld, hdecided, htaken, hlate, hresumed, hrefused, ?_, ?_, ?_, ?_⟩ <;> intro hp <;> rw [queryState, hp]
  · intro W q room t gone
    have hu : (posted s c q).win c.win = { W with waitQ := [q] } := (posted_win s c q).trans (by rw [hq]; rfl)
    have ht : t = drainWin 1 (posted s c q) c.win := endCmd_posted st det hq
    have horder' : ((posted s c q).ports.orderReads.any fun o => some o.cmd == q.cmd) = false := by
      refine List.any_eq_false.2 fun o ho => ?_
      have hne := List.all_eq_true.1 horder o ho
      simpa [q] using hne
    obtain ⟨hstale, hfresh⟩ := drainWin_one (congrArg Win.waitQ hu) hdec horder'
    refine ⟨fun h => ?_, fun h hroom => ?_, fun h hroom => ?_⟩
    · rw [ht, hstale h]
      refine ⟨filter_map_decided .., rfl, ?_, ?_⟩
      · show (((posted s c q).updWin c.win fun W => { W with waitQ := [] }).win c.win).waitQ = []
        rw [State.updWin_win]
      · exact congrArg Parcel.staleCnt (State.updParcel_parcel ..)
    · obtain ⟨hen, hlt⟩ := hroom
      have hgo := (hfresh h).1
      rw [hu] at hgo
      obtain ⟨e, he⟩ := hgo hen (decide_eq_true hlt)
      rw [ht, he]
      refine ⟨?_, ?_, ?_, ?_⟩
      · rw [hostWrite_eq]
        exact filter_map_decided ..
      · exact congrArg Win.waitQ (dropCmd_updWin_win ..)
      · exact congrArg Win.tail (dropCmd_updWin_win ..)
      · rw [hostWrite_eq, hostWrite_eq]
        rfl
    · have hno := (hfresh h).2
      rw [hu] at hno
      rw [ht, hno fun hroom' => hroom ⟨hroom'.1, of_decide_eq_true hroom'.2⟩]
      exact ⟨rfl, congrArg Win.waitQ hu, rfl⟩

end Sys2Proof.Machine

/-! PROOFS. Host ports: links, PERST#, configuration requests and ordering reads (O49). -/

namespace Sys2Proof.Machine

-- ## Changing a port

section
variable (s : State) (k : Nat) (f : HostPort → HostPort)

@[simp] theorem State.hport_updPort : (s.updPort k f).hport k = f (s.hport k) := by
  unfold State.updPort State.hport
  by_cases h : k = 0
  · simp only [if_pos h]
  · simp only [if_neg h]

@[simp] theorem State.updPort_updPort (f' : HostPort → HostPort) : (s.updPort k f).updPort k f' = s.updPort k fun P => f' (f P) := by
  unfold State.updPort
  by_cases h : k = 0
  · simp only [if_pos h]
  · simp only [if_neg h]

theorem State.updPort_eq : ∃ A B, s.updPort k f = { s with ports := { s.ports with hpa := A, hpb := B } } := by
  unfold State.updPort
  split
  · exact ⟨_, _, rfl⟩
  · exact ⟨_, _, rfl⟩

variable {s k f}

theorem State.updPort_congr {f' : HostPort → HostPort} (h : f (s.hport k) = f' (s.hport k)) : s.updPort k f = s.updPort k f' := by
  unfold State.updPort
  unfold State.hport at h
  by_cases hk : k = 0
  · simp only [if_pos hk] at h ⊢
    rw [h]
  · simp only [if_neg hk] at h ⊢
    rw [h]

end

-- ## Configuration requests

/-- The state in which a port has met a configuration request with an answer. -/
def answered (s : State) (k : Nat) (a : CfgAnswer) : State := s.updPort k fun P => { P with answer := a }

theorem hpPort_answered (s : State) (k : Nat) (a : CfgAnswer) : hpPort (answered s k a) k = hpPort s k := by
  obtain ⟨A, B, h⟩ := State.updPort_eq s k fun P => { P with answer := a }
  have hrec : ((answered s k a).hport k).recovery = (s.hport k).recovery := by rw [answered, State.hport_updPort]
  unfold hpPort
  rw [hrec, answered, h]
  rfl

section
variable (s : State) (k : Nat) (a : CfgAnswer)

theorem answered_glb : (answered s k a).glb = s.glb := by
  obtain ⟨A, B, h⟩ := State.updPort_eq s k fun P => { P with answer := a }
  rw [answered, h]

theorem answered_pcl : (answered s k a).pcl = s.pcl := by
  obtain ⟨A, B, h⟩ := State.updPort_eq s k fun P => { P with answer := a }
  rw [answered, h]

theorem answered_bifurcated : (answered s k a).ports.bifurcated = s.ports.bifurcated := by
  obtain ⟨A, B, h⟩ := State.updPort_eq s k fun P => { P with answer := a }
  rw [answered, h]

theorem answered_hport : (answered s k a).hport k = { s.hport k with answer := a } := State.hport_updPort ..

theorem answered_vfPort (v : Nat) : vfPort (answered s k a) v = vfPort s v := by rw [vfPort, answered_pcl, vfPort]

end

section
variable {s : State} {k : Nat}

theorem configRequest_down (h : (s.hport k).linkUp = false) (req : CfgReq) : configRequest s k req = s := if_pos (by rw [h]; rfl)

theorem configRequest_recovery (hup : (s.hport k).linkUp = true) (hrec : (s.hport k).recovery = true) (req : CfgReq) :
    configRequest s k req = serveRecovery (answered s k .recovery) k req := (if_neg (by rw [hup]; nofun)).trans (if_pos hrec)

theorem configRequest_retry (hup : (s.hport k).linkUp = true) (hrec : (s.hport k).recovery = false) (hretry : (s.hport k).retry = true) (req : CfgReq) :
    configRequest s k req = answered s k .retry :=
  ((if_neg (by rw [hup]; nofun)).trans (if_neg (by rw [hrec]; nofun))).trans (if_pos hretry)

theorem configRequest_served (hup : (s.hport k).linkUp = true) (hrec : (s.hport k).recovery = false) (hretry : (s.hport k).retry = false) (req : CfgReq) :
    configRequest s k req = serveConfig (answered s k .served) k req :=
  ((if_neg (by rw [hup]; nofun)).trans (if_neg (by rw [hrec]; nofun))).trans (if_neg (by rw [hretry]; nofun))

end

theorem hasCapability_offered {c : Capability} (h : c ∈ [Capability.msix, .sriov, .aer, .ptm, .ltr, .l0p, .readiness, .flr, .dvsec]) :
    hasCapability c = true := by
  revert c
  decide

theorem hasCapability_absent {c : Capability}
    (h : c ∈ [Capability.ide, .tdisp, .ats, .pri, .pasid, .cxl, .atomicOp, .aspmL0s, .aspmL1, .l1Substates, .resizableBar, .acs, .dpc]) :
    hasCapability c = false := by
  revert c
  decide

theorem vfCapability_eq (c : Capability) : b2n (vfCapability c) = if c ∈ [Capability.msix, .aer, .flr] then 1 else 0 := by
  cases c <;> rfl

/-- A request that no port serves is answered as unsupported and logged. -/
theorem answered_unsupported (s : State) (k : Nat) :
    ((answered s k .served).updPort k fun P => { P.unsupported with answer := .unsupported }) = s.updPort k fun P => { P with
      answer := .unsupported, aer := P.aer + 1
      aerErrs := if P.aerErrs.contains .unsupportedRequest then P.aerErrs else P.aerErrs ++ [.unsupportedRequest] } := by
  refine (State.updPort_updPort ..).trans (State.updPort_congr ?_)
  unfold HostPort.unsupported HostPort.logged
  split <;> rfl

theorem noteRead_error_kept (s : State) (k : Nat) :
    (noteRead s k .error).ports.orderReads = s.ports.orderReads ∧ (noteRead s k .error).cmds = s.cmds := by
  unfold noteRead noteHostEnd
  dsimp only
  split
  · obtain ⟨A, B, h⟩ := State.updPort_eq s k fun P => P.logged .completionTimeout
    rw [h]
    exact ⟨rfl, rfl⟩
  · exact ⟨rfl, rfl⟩

/-- Settles O49: each row is the run of its function; a configuration request is served, met with retry or met by the recovery personality after its
answer is set, which no field read here depends on. -/
theorem hostPorts : Obligations.HostPorts := by
  unfold Obligations.HostPorts
  intro s port req failed mgr src hs k P down
  have hlive {f : State → State} {c : Instr} (hc : exec c s = ok (live s f)) : exec c s = .next (f s) := hc.trans (congrArg ok (live_clocked hs f))
  have hconfig (req : CfgReq) : exec (.configRequest port req) s = .next (configRequest s k req) := (hlive rfl).trans rfl
  have hlinkUp : exec (.hostLinkUp port) s = .next (if (s.hport k).perst then s else s.updPort k fun P => { P with linkUp := true }) := (hlive rfl).trans rfl
  have hdown : exec (.hostLinkDown port) s = .next (settleFrom s (linkDown s k)) := (hlive rfl).trans rfl
  have hflr : exec (.pf0Flr port) s = .next (if (s.hport k).linkUp then settleFrom s (portLost s k 5) else s) := (hlive rfl).trans rfl
  refine ⟨fun hp => ?_, fun hp => ?_, fun hup hm => ?_, fun hup hm => ?_, fun hup => ?_, fun hup => ?_, ?_, rfl, fun hb => ?_, fun hup => ?_, fun hup hrec => ⟨fun hretry => ?_, fun hretry => ?_⟩,
    fun hup hrec => ?_, ?_⟩
  · exact hlinkUp.trans (congrArg _ (if_neg (by rw [show (s.hport k).perst = false from hp]; nofun)))
  · exact hlinkUp.trans (congrArg _ (if_pos hp))
  · refine hdown.trans (congrArg (fun t => Host.Outcome.next (settleFrom s t)) ?_)
    exact (if_neg (by rw [show (s.hport k).linkUp = true from hup]; nofun)).trans (if_pos hm)
  · refine hdown.trans (congrArg (fun t => Host.Outcome.next (settleFrom s t)) ?_)
    exact (if_neg (by rw [show (s.hport k).linkUp = true from hup]; nofun)).trans (if_neg hm)
  · exact hflr.trans (congrArg _ (if_pos hup))
  · exact hflr.trans (congrArg _ (if_neg (by rw [show (s.hport k).linkUp = false from hup]; nofun)))
  · intro s1 runs
    have hclock : s1.pwr.stopped = false := by
      obtain ⟨A, B, h⟩ := State.updPort_eq s k fun P => { P with perst := true, linkUp := false }
      rw [show s1 = _ from h]
      exact hs
    have hruns : fundamentalRuns s1 = true ↔ runs := by
      obtain ⟨A, B, h⟩ := State.updPort_eq s k fun P => { P with perst := true, linkUp := false }
      rw [fundamentalRuns, hclock, show s1 = _ from h]
      simp [runs]
    have hon : perstOn s k mgr src = if k = mgrPort s1 then
        (if (s1.pwr.stopped && s1.pwr.good ≠ 0x3FF) || fundamentalRuns s1 then s1 else perstReset (dropOrderReads s1 k) mgr src)
      else live s1 fun s => portReset (dropOrderReads s k) k := rfl
    have hassert : exec (.perstAssert port mgr src) s = .next (settleFrom s (perstOn s k mgr src)) := rfl
    rw [hassert, hon, hclock, Bool.false_and, Bool.false_or, live_clocked hclock]
    exact ⟨fun hm hno => by rw [if_pos hm, if_neg (mt hruns.1 hno)], fun hm hr => by rw [if_pos hm, if_pos (hruns.2 hr)], fun hm => by rw [if_neg hm]⟩
  · refine congrArg Host.Outcome.next (if_neg ?_)
    have hstage : (s.updPort k fun P => { P with perst := false }).boot.stage = s.boot.stage := by
      obtain ⟨A, B, h⟩ := State.updPort_eq s k fun P => { P with perst := false }
      rw [h]
    rw [show (s.updPort (portNo port) fun P => { P with perst := false }).boot.stage = _ from hstage]
    simp [hb]
  · exact (hconfig req).trans (congrArg _ (configRequest_down hup req))
  · exact (hconfig req).trans (congrArg _ (configRequest_retry hup hrec hretry req))
  · intro answers
    have hserved (req : CfgReq) : exec (.configRequest port req) s = .next (serveConfig (answered s k .served) k req) :=
      (hconfig req).trans (congrArg _ (configRequest_served hup hrec hretry req))
    have hread {x y : Nat} {req : CfgReq} (h : serveConfig (answered s k .served) k req = { answered s k .served with lastRead := BitVec.ofNat 64 x })
        (hxy : x = y) : exec (.configRequest port req) s = answers y := (hserved req).trans (congrArg _ (h.trans (by rw [hxy]; rfl)))
    have hwrite {f f' : HostPort → HostPort} {req : CfgReq} (h : serveConfig (answered s k .served) k req = (answered s k .served).updPort k f)
        (hff : f { s.hport k with answer := .served } = f' (s.hport k)) : exec (.configRequest port req) s = .next (s.updPort k f') :=
      (hserved req).trans (congrArg _ (h.trans ((State.updPort_updPort ..).trans (State.updPort_congr hff))))
    refine ⟨hread rfl (hpPort_answered ..), hread rfl ?_, hread rfl ?_, hread rfl ?_, fun b => ?_, hread rfl rfl, hread rfl rfl, hread rfl ?_, hread rfl ?_,
      fun c hc => hread rfl ?_, fun c hc => hread rfl ?_, ?_⟩
    · rw [identity, answered_glb]
      cases s.glb.part <;> rfl
    · rw [identity, answered_glb]
      cases s.glb.part <;> rfl
    · rw [identity, answered_glb]
    · exact hwrite (f := fun P => { P with vfEnable := b }) rfl rfl
    · rw [sriovField, answered_pcl]
    · rw [sriovField, answered_hport]
    · rw [hasCapability_offered hc]
      rfl
    · rw [hasCapability_absent hc]
      rfl
    · intro refused
      have hrefused : ((answered s k .served).updPort k fun P => { P.unsupported with answer := .unsupported }) = _ := answered_unsupported s k
      refine ⟨(hserved _).trans (congrArg _ hrefused), fun l hl => ?_, fun n => ⟨?_, ?_⟩, hread rfl ?_, hread rfl ?_, fun e => ⟨hread rfl ?_, ?_⟩,
        fun on masked => hserved _, fun x q => ⟨fun hno => ?_, fun hvf hport => ⟨fun c => ?_, fun on masked => ?_⟩⟩⟩
      · simp only [List.mem_cons, List.not_mem_nil, or_false] at hl
        rcases hl with rfl | rfl | rfl | rfl | rfl | rfl | rfl | rfl | rfl | rfl | rfl
        case inr.inl => exact hread rfl (by rw [portLimit, answered_bifurcated])
        all_goals exact hread rfl rfl
      · refine hwrite (f := fun P => P.set .payload n) rfl ?_
        simp only [HostPort.set, List.contains_eq_mem, decide_eq_true_eq]
        split <;> rfl
      · refine hwrite (f := fun P => P.set .readRequest n) rfl ?_
        simp only [HostPort.set, List.contains_eq_mem, decide_eq_true_eq]
        split <;> rfl
      · rw [answered_hport]
        rfl
      · rw [answered_hport]
        rfl
      · rw [answered_hport]
        simp only [List.contains_eq_mem, b2n, decide_eq_true_eq, P]
      · refine hwrite (f := fun P => { P with aerErrs := P.aerErrs.filter fun x => x != e }) rfl ?_
        have hfilter : (s.hport k).aerErrs.filter (fun x => x != e) = (s.hport k).aerErrs.filter fun x => decide (x ≠ e) :=
          List.filter_congr fun x _ => by rw [decide_not]; rfl
        dsimp only
        rw [hfilter]
      · refine (hserved _).trans (congrArg _ ((if_pos ?_).trans hrefused))
        rw [answered_hport, answered_vfPort]
        obtain hno | hno := hno
        · rw [show (s.hport k).vfEnable = false from hno]
          rfl
        · simp [hno]
      · refine hread (if_neg ?_) (vfCapability_eq c)
        rw [answered_hport, answered_vfPort]
        simp [show (s.hport k).vfEnable = true from hvf, hport]
      · refine (hserved _).trans (congrArg _ (if_neg ?_))
        rw [answered_hport, answered_vfPort]
        simp [show (s.hport k).vfEnable = true from hvf, hport]
  · intro met answers
    have hmet (req : CfgReq) : exec (.configRequest port req) s = .next (serveRecovery met k req) :=
      (hconfig req).trans (congrArg _ (configRequest_recovery hup hrec req))
    refine ⟨hmet _, hmet _, hmet _, (hmet _).trans ?_, hmet _, fun c hc => (hmet _).trans ?_, fun f b => ⟨hmet _, hmet _⟩, hmet _⟩
    · exact congrArg answers (hpPort_answered ..)
    · have hne : (c == .dvsec) = false := beq_eq_false_iff_ne.2 hc
      rw [serveRecovery, hne]
      rfl
  · intro s0
    obtain ⟨hreads, hcmds⟩ : s0.ports.orderReads = s.ports.orderReads ∧ s0.cmds = s.cmds := by
      cases failed with
      | false => exact ⟨rfl, rfl⟩
      | true => exact noteRead_error_kept s k
    have hdone : exec (.portOrderReadDone port failed) s = .next (orderReadDone s0 k) := (hlive rfl).trans rfl
    rw [hdone]
    unfold orderReadDone
    rw [hreads]
    refine ⟨fun hnone => by rw [hnone], fun o c ho hc => ?_⟩
    intro s1
    have hcmd : s1.cmd o.cmd = some c := by
      rw [State.cmd, show s1.cmds = s.cmds from hcmds]
      exact hc
    rw [ho]
    dsimp only
    rw [hcmd]

end Sys2Proof.Machine

/-! PROOFS. Rails, the system clock, temperatures and their events, power registers (O53). -/

namespace Sys2Proof.Machine

-- ## What stays while an event is told

theorem fbit_eq_getLsbD (v : Word) (i : Nat) : fbit v i = v.getLsbD i := by
  simp [fbit, bitOf, BitVec.getLsbD, Nat.testBit_eq_decide_div_mod_eq]
  rfl

theorem Told.pwr {s t : State} (h : Told s t) : t.pwr = s.pwr := by
  obtain ⟨_, _, _, rfl⟩ := h.rest
  rfl

section
variable (s : State)

theorem hostWrite_evSrc (p a : Nat) (bs : List Byte) (i : Nat) : (hostWrite s p a bs).evSrc i = s.evSrc i := by
  unfold hostWrite
  split
  · rfl
  · rfl

theorem sendMsix_evSrc (f v i : Nat) : (sendMsix s f v).evSrc i = s.evSrc i := by
  unfold sendMsix
  dsimp only
  split
  · rfl
  · split
    · rfl
    · split
      · rfl
      · rfl

theorem drainEvRing_evSrc (n f i : Nat) : (drainEvRing n s f).evSrc i = s.evSrc i := by
  induction n generalizing s with
  | zero => rfl
  | succ n ih =>
    unfold drainEvRing
    dsimp only
    split
    · rfl
    · split
      · exact ih _
      · split
        · exact (ih _).trans ((sendMsix_evSrc ..).trans (hostWrite_evSrc ..))
        · rfl

theorem deliverRecord_evSrc (r : EvRec) (n i : Nat) : (deliverRecord s r n).evSrc i = s.evSrc i := by
  unfold deliverRecord
  dsimp only
  split
  · rfl
  · split
    · rfl
    · split
      · rfl
      · split
        · exact drainEvRing_evSrc ..
        · exact sendMsix_evSrc ..

@[simp] theorem State.evSrc_updEvSrc (i : Nat) (g : EvSrc → EvSrc) : (s.updEvSrc i g).evSrc i = g (s.evSrc i) := by
  unfold State.evSrc State.updEvSrc
  simp

theorem raise_pending (i c u : Nat) : ((raise s i c u).evSrc i).pending = true := by
  unfold raise raiseWith
  dsimp only
  split
  case isTrue h => rw [State.evSrc_updEvSrc]; exact h
  case isFalse =>
    split
    · rw [State.evSrc_updEvSrc]
    · rw [deliverRecord_evSrc, State.evSrc_updEvSrc]

end

-- ## Rails

theorem aonLive_on {s : State} (h : s.pwr.down.getLsbD 0 = false) (f : State → State) : aonLive s f = f s := by
  unfold aonLive
  rw [h]
  rfl

theorem aonLive_off {s : State} (h : ¬s.pwr.down.getLsbD 0 = false) (f : State → State) : aonLive s f = s :=
  if_pos (Bool.not_eq_false _ ▸ h)

section
variable {s : State}

theorem bootBegin_waits (h : s.boot.stage ≠ 0 ∨ (s.hport (mgrPort s)).perst = true ∨ s.pwr.stopped = true) : bootBegin s = s := by
  refine if_neg ?_
  rcases h with h | h | h <;> simp [h]

theorem bootBegin_runs (hgood : s.pwr.good = 0x3FF) (h0 : s.boot.stage = 0) (hp : (s.hport (mgrPort s)).perst = false) (hs : s.pwr.stopped = false) :
    bootBegin s = bootRom s true := if_pos (by simp [h0, hp, hs, hgood])

end

-- ## Temperatures

section
variable (s : State)

theorem thermal_eq (c : Nat) : thermal s c = if s.pwr.ctl.getLsbD 0 = true then raiseGlobal s 3 c else s := by
  unfold thermal
  rw [fbit_eq_getLsbD]

theorem thermal_if {b : Bool} {P : Prop} [Decidable P] {t : State} (c : Nat) (hb : b = true ↔ P) (ht : s.pwr.ctl = t.pwr.ctl) :
    (if b = true then thermal s c else s) = if P ∧ t.pwr.ctl.getLsbD 0 = true then raiseGlobal s 3 c else s := by
  simp only [thermal_eq, hb, ht]
  by_cases hP : P
  · simp only [hP, true_and, if_true]
  · simp only [hP, false_and, if_false]

theorem told_thermal (c : Nat) : Told s (thermal s c) := by
  unfold thermal
  split
  · exact Told.raiseGlobal ..
  · exact Told.refl s

end

section
variable (s : State) (k : Nat)

theorem stackPresent_updPwr (f : Pwr → Pwr) : stackPresent (s.updPwr f) k = stackPresent s k := rfl

theorem stackPresent_updStack (f : Stack → Stack) : stackPresent (s.updStack k f) k = stackPresent s k := rfl

end

/-- The state that has seen the readings `a` of a die and `b` of a stack, before its events. -/
def readingsSeen (s : State) (die a k b : Nat) : State :=
  let s := s.updPwr fun P => { P with dies := P.dies.set die a }
  let s := if stackPresent s k then s.updStack k fun K => { K with temp := b } else s
  warnBits { s with hlt := { s.hlt with peak := max s.hlt.peak (max a (if stackPresent s k then b else 0)) } }

theorem readingsSeen_ctl (s : State) (die a k b : Nat) : (readingsSeen s die a k b).pwr.ctl = s.pwr.ctl := by
  unfold readingsSeen
  dsimp only
  split <;> rfl

theorem temperatures_eq (s : State) (die a k b : Nat) : temperatures s die a k b =
    let seen := readingsSeen s die a k b
    let t1 := if decide ((s.pwr.dies[die]?).getD 0 < twarnOf s) && decide (twarnOf s ≤ a) then thermal seen 1 else seen
    let t2 := if t1.pwr.hot && t1.pwr.dies.all fun d => decide (d + 3 ≤ twarnOf t1) then
      thermal (t1.updPwr fun P => { P with hot := false }) 2 else t1
    if stackPresent s k && decide ((s.stack k).temp < stackWarnOf s) && decide (stackWarnOf s ≤ b) then thermal t2 3 else t2 := rfl

/-- Settles O53: a row each for the rails and the clock; the readings of the temperatures by their events in turn, which keep
the power block (`Told.pwr`); the two registers by their ranges. -/
theorem power : Obligations.Power := by
  unfold Obligations.Power
  intro s r die a b k who v pwr aon bit off warned trip tw sw admits
  refine ⟨rfl, fun h => ?_, fun h => ?_, fun t c => ⟨raise_pending .., (Told.raiseGlobal ..).pwr⟩, fun hs => ?_⟩
  · have hoff {f : State → State} : Host.Outcome.next (aonLive s f) = (.next s : Host.Outcome State Fault Refusal) :=
      congrArg _ (aonLive_off h f)
    exact ⟨hoff, hoff, hoff, hoff, hoff⟩
  · have hon {f : State → State} {c : Instr} (hc : exec c s = ok (aonLive s f)) : exec c s = .next (f s) :=
      hc.trans (congrArg ok (aonLive_on h f))
    have hrail : exec (.railLoss r) s = .next (railLoss s r.val) := hon (f := fun s => railLoss s r.val) rfl
    have htrip : exec (.thermalTrip die a) s =
      .next (if a.toNat < 112 || s.pwr.thermtrip then s else thermalTrip s die.val a) := (hon rfl).trans rfl
    have htemp : exec (.temperatureUpdate die a k b) s =
      .next (if 112 ≤ a.toNat && !s.pwr.thermtrip then thermalTrip s die.val a
        else temperatures s die.val a.toNat k.val b.toNat) := (hon rfl).trans rfl
    refine ⟨⟨(hon rfl).trans rfl, fun hb => bootBegin_waits hb, fun h0 hp hst => bootBegin_runs rfl h0 hp hst⟩,
      fun hr => hrail.trans (congrArg _ (if_pos (congrArg Fin.val hr))), fun hr h0 => hrail.trans (congrArg _ ?_),
      fun hr h0 => hrail.trans (congrArg _ ?_), (hon rfl).trans rfl, fun hc => htrip.trans (congrArg _ (if_pos (by simpa using hc))),
      fun ha ht => ⟨htrip.trans (congrArg _ (if_neg (by simp [ha, ht]))), htemp.trans (congrArg _ (if_pos (by simp [ha, ht])))⟩,
      fun hc => ?_⟩
    · have : r.val ≠ 0 := fun h => hr (Fin.ext h)
      exact (if_neg this).trans (if_pos h0)
    · have : r.val ≠ 0 := fun h => hr (Fin.ext h)
      exact (if_neg this).trans (if_neg h0)
    · intro seen dieUp stackUp t1 cool t2
      refine htemp.trans (congrArg _ ((if_neg ?_).trans ?_))
      · rcases hc with hc | hc
        · simp [Nat.not_le.2 hc]
        · simp [hc]
      · have hseen : seen = readingsSeen s die.val a.toNat k.val b.toNat := by
          unfold readingsSeen
          simp only [seen, warned, stackPresent_updPwr]
          by_cases hp : stackPresent s k = true
          · simp only [hp, if_true, stackPresent_updStack, stackPresent_updPwr]
            rfl
          · simp only [hp, Bool.false_eq_true, if_false, stackPresent_updPwr]
            rfl
        have hctl : seen.pwr.ctl = s.pwr.ctl := hseen ▸ readingsSeen_ctl ..
        have ht1 : t1 = if decide ((s.pwr.dies[die.val]?).getD 0 < twarnOf s) && decide (twarnOf s ≤ a.toNat) then
            thermal seen 1 else seen := (thermal_if seen 1 (by
            simp only [Bool.and_eq_true, decide_eq_true_eq]
            exact Iff.rfl) hctl).symm
        have hctl1 : t1.pwr.ctl = s.pwr.ctl := by
          rw [ht1]
          split
          · rw [(told_thermal ..).pwr, hctl]
          · exact hctl
        have htw : twarnOf t1 = tw := congrArg (fun w => fld w 8 8) hctl1
        have ht2 : t2 = if t1.pwr.hot && t1.pwr.dies.all fun d => decide (d + 3 ≤ twarnOf t1) then
            thermal (t1.updPwr fun P => { P with hot := false }) 2 else t1 := by
          have hadmits : (t1.updPwr fun P => { P with hot := false }).pwr.ctl = s.pwr.ctl := hctl1
          rw [htw, thermal_eq, hadmits]
          simp only [t2, Bool.and_eq_true, List.all_eq_true, decide_eq_true_eq]
          rfl
        have hctl2 : t2.pwr.ctl = s.pwr.ctl := by
          rw [ht2]
          split
          · rw [(told_thermal ..).pwr]
            exact hctl1
          · exact hctl1
        rw [temperatures_eq, ← hseen]
        dsimp only
        rw [← ht1, ← ht2]
        exact thermal_if t2 3 (by
          simp only [Bool.and_eq_true, decide_eq_true_eq, and_assoc]
          exact Iff.rfl) hctl2
  · have hlive {f : State → State} {c : Instr} (hc : exec c s = ok (live s f)) : exec c s = .next (f s) :=
      hc.trans (congrArg ok (live_clocked hs f))
    refine ⟨fun hm => ?_, fun hm => ?_⟩
    · exact ⟨(hlive rfl).trans (congrArg _ (if_neg (by simp [hm]))), (hlive rfl).trans (congrArg _ (if_neg (by simp [hm])))⟩
    · intro t u
      have hrow : exec (.pwrCtlWrite who v) s = .next (pwrCtlWrite s v) := (hlive rfl).trans (congrArg _ (if_pos hm))
      refine ⟨fun hr => hrow.trans (congrArg _ (if_pos ?_)), fun h1 h2 h3 h4 => hrow.trans (congrArg _ ((if_neg ?_).trans ?_)),
        (hlive rfl).trans ((congrArg _ (if_pos hm)).trans ?_)⟩
      · simp only [Bool.or_eq_true, decide_eq_true_eq, or_assoc]
        exact hr
      · simp only [Bool.or_eq_true, decide_eq_true_eq, not_or, Nat.not_lt]
        exact ⟨⟨⟨h1, h2⟩, h3⟩, h4⟩
      · simp only [mergeMask_zero]
        rfl
      · rw [ps4IdleWrite, fld_zero]
        rfl

end Sys2Proof.Machine

/-! PROOFS. Reads and writes of registers by the layout and by access code (O56). -/

namespace Sys2Proof.Machine

-- ## The lanes of a register

theorem testBit_leNat (bs : List Byte) (i : Nat) : (leNat bs).testBit i = ((bs[i / 8]?).getD 0).getLsbD (i % 8) := by
  induction bs generalizing i with
  | nil => simp [leNat]
  | cons b bs ih =>
    have hsplit : leNat (b :: bs) = 2 ^ 8 * leNat bs + b.toNat := Nat.add_comm ..
    rw [hsplit, Nat.testBit_two_pow_mul_add _ b.isLt]
    by_cases hi : i < 8
    · rw [if_pos hi, Nat.div_eq_of_lt hi, Nat.mod_eq_of_lt hi]
      rfl
    · obtain ⟨j, rfl⟩ := Nat.exists_eq_add_of_le (Nat.le_of_not_lt hi)
      rw [if_neg hi, ih, Nat.add_sub_cancel_left, Nat.add_div_left _ (by decide), Nat.add_mod_left, List.getElem?_cons_succ]

theorem getLsbD_laneMask (mask : BitVec 8) {b : Nat} (h : b < 64) : (laneMask mask).getLsbD b = mask.getLsbD (b / 8) := by
  have hb : b / 8 < 8 := by omega
  have hbyte : ∀ j < 8, (0xFF : Byte).getLsbD j = true := by decide
  simp only [laneMask, BitVec.getLsbD_ofNat, testBit_leNat, List.getElem?_map, List.getElem?_range hb, Option.map_some, Option.getD_some, h,
    decide_true, Bool.true_and]
  split
  case isTrue ht => rw [ht, hbyte _ (Nat.mod_lt _ (by decide))]
  case isFalse hf =>
    rw [Bool.eq_false_iff.mpr hf]
    exact BitVec.getLsbD_zero

/-- A write-one-to-clear flag of the first byte keeps what no named 1 clears. -/
theorem w1c_low (flag : Bool) (mask : BitVec 8) (v : Word) {i : Nat} (h : i < 8) :
    w1c flag (v &&& laneMask mask) i = (flag && !(mask.getLsbD 0 && v.getLsbD i)) := by
  unfold w1c
  rw [fbit_eq_getLsbD, BitVec.getLsbD_and, getLsbD_laneMask mask (Nat.lt_of_lt_of_le h (by decide)), Nat.div_eq_of_lt h, Bool.and_comm (v.getLsbD i)]

-- ## Reads and writes by the layout

section
variable {s : State} {who : Who} {off : Nat} {mask : BitVec 8} {l : Loc} {r : Right} (hoff : off % 8 = 0) (hmask : mask ≠ 0)
include hoff hmask

theorem readRegister_none (h : (locate s who off).2 = .none) : readRegister s who off mask = { s with lastRead := 0 } := by
  unfold readRegister
  rw [Nat.div_mul_cancel (Nat.dvd_of_mod_eq_zero hoff)]
  dsimp only
  rw [if_neg hmask, h]

theorem readRegister_value (hl : (locate s who off).1 = l) (hr : (locate s who off).2 ≠ .none) (hlock : ∀ n, l ≠ .lock n) :
    readRegister s who off mask =
      readEffect { s with lastRead := BitVec.ofNat 64 (regValue s who ((locate s who off).2 == .firmware) l) &&& laneMask mask } who
        ((locate s who off).2 == .write || (locate s who off).2 == .firmware) mask l := by
  unfold readRegister
  rw [Nat.div_mul_cancel (Nat.dvd_of_mod_eq_zero hoff)]
  dsimp only
  rw [if_neg hmask]
  split
  case h_1 h => exact absurd h hr
  case h_2 n h _ => exact absurd (hl.symm.trans h) (hlock n)
  case h_3 => rw [hl]

theorem writeRegister_refused (hw : (locate s who off).2 ≠ .write) (hf : (locate s who off).2 ≠ .firmware) (v : Word) :
    writeRegister s who off mask v = s := by
  unfold writeRegister
  rw [Nat.div_mul_cancel (Nat.dvd_of_mod_eq_zero hoff)]
  dsimp only
  rw [if_neg hmask]
  split
  case h_1 h => exact absurd h hw
  case h_2 h => exact absurd h hf
  case h_3 => rfl

theorem writeRegister_write (h : (locate s who off).2 = .write) (v : Word) :
    writeRegister s who off mask v = regPut s who false (locate s who off).1 mask v := by
  unfold writeRegister
  rw [Nat.div_mul_cancel (Nat.dvd_of_mod_eq_zero hoff)]
  dsimp only
  rw [if_neg hmask, h]

theorem writeRegister_firmware (h : (locate s who off).2 = .firmware) (v : Word) :
    writeRegister s who off mask v = regPut s who true (locate s who off).1 mask v := by
  unfold writeRegister
  rw [Nat.div_mul_cancel (Nat.dvd_of_mod_eq_zero hoff)]
  dsimp only
  rw [if_neg hmask, h]

end

section
variable {s : State} {who : Who} {fw : Bool} (mask : BitVec 8) (v : Word)

theorem regValue_scratch : BitVec.ofNat 64 (regValue s who fw (.glb 0x40)) = s.glb.scratch := by
  simp [regValue, glbReg]

theorem regPut_scratch : regPut s who fw (.glb 0x40) mask v = { s with glb := { s.glb with scratch := mergeMask (laneMask mask) s.glb.scratch v } } := by
  rw [← regValue_scratch (who := who) (fw := fw)]
  rfl

theorem regPut_fuse_firmware (h : s.boot.stage < 6) : regPut s who true (.glb 0x48) mask v =
    { s with glb := { s.glb with fuseCtl := (s.glb.fuseCtl &&& ~~~(laneMask mask)) ||| (v &&& laneMask mask) } } := by
  have hold : BitVec.ofNat 64 (regValue s who true (.glb 0x48)) = s.glb.fuseCtl := by simp [regValue, glbReg]
  refine (if_pos (by simp [h])).trans ?_
  rw [hold]
  rfl

theorem regPut_healthStatus :
    let keeps := fun (f : Bool) (b : Nat) => f && !(mask.getLsbD 0 && v.getLsbD b)
    regPut s who fw (.hlt 0) mask v = { s with hlt := { s.hlt with
        historyReset := keeps s.hlt.historyReset 1, sensorFault := keeps s.hlt.sensorFault 2, atLimit := keeps s.hlt.atLimit 3
        marginLow := keeps s.hlt.marginLow 4 } } := by
  intro keeps
  have hflag (f : Bool) {i : Nat} (h : i < 8) : keeps f i = w1c f (v &&& laneMask mask) i := (w1c_low f mask v h).symm
  rw [hflag _ (by decide), hflag _ (by decide), hflag _ (by decide), hflag _ (by decide)]
  rfl

end

theorem readEffect_refused {s : State} {who : Who} {full : Bool} {mask : BitVec 8} (p : Nat) (h : full = true) :
    readEffect s who full mask (.dspP p 0x20) = s.updDsp p fun D => { D with refused := 0 } := by
  subst h
  rfl

theorem unsupported_eq (s : State) (k : Nat) : unsupported s k = s.updPort k fun P => { P with
    aer := P.aer + 1, aerErrs := if .unsupportedRequest ∈ P.aerErrs then P.aerErrs else P.aerErrs ++ [.unsupportedRequest] } := by
  refine State.updPort_congr ?_
  unfold HostPort.unsupported HostPort.logged
  simp only [List.contains_iff_mem]
  split <;> rfl

theorem unsupportedAt_fn (s : State) (f : FnId) {form : TlpForm} (h : form ≠ .plain) : unsupportedAt s (.fn f) form = some (fnPort s f.val) := by
  cases form with
  | plain => exact absurd rfl h
  | outside => rfl
  | ide => rfl
  | translated => rfl
  | atomicOp => rfl

/-- Settles O56: the request meets its form, then the layout (`locate`); then the register's own read and write are looked up. -/
theorem registers : Obligations.Registers := by
  unfold Obligations.Registers
  intro s who off mask v hs hmask hoff l lanes m reads writes full
  have hlive {f : State → State} {c : Instr} (hc : exec c s = ok (live s f)) : exec c s = .next (f s) :=
    hc.trans (congrArg ok (live_clocked hs f))
  have hplain : unsupportedAt s who lanes.form = none := by
    cases who <;> rfl
  have hread : exec (.rcRead who off lanes) s = .next { readRegister s who off.toNat mask with lastEnd := .good } :=
    (hlive rfl).trans (by
      dsimp only
      rw [hplain])
  have hwrite : exec (.registerWrite who off lanes v) s = .next (writeRegister s who off.toNat mask v) :=
    (hlive rfl).trans (by rw [hplain])
  have hrefused (h : l.2 ≠ .write) (h' : l.2 ≠ .firmware) : writes s :=
    hwrite.trans (congrArg _ (writeRegister_refused hoff hmask h h' v))
  have hput {r : Loc} {t : State} (hf : full) (hl : l.1 = r) (ht : regPut s who (l.2 == .firmware) r mask v = t) : writes t := by
    subst hl
    rcases hf with h | h
    · exact hwrite.trans (congrArg _ ((writeRegister_write hoff hmask h v).trans (by rw [← ht, h]; rfl)))
    · exact hwrite.trans (congrArg _ ((writeRegister_firmware hoff hmask h v).trans (by rw [← ht, h]; rfl)))
  have hget {r : Loc} (hr : l.2 ≠ .none) (hl : l.1 = r) (hlock : ∀ n, r ≠ .lock n) := readRegister_value hoff hmask hl hr hlock
  have hfull (hf : full) : l.2 ≠ .none := by
    rcases hf with h | h <;> rw [h] <;> decide
  refine ⟨fun f form hform => ?_, fun b hb => getLsbD_laneMask mask hb, fun h => ⟨?_, hrefused (by rw [h]; decide) (by rw [h]; decide)⟩,
    fun h => hrefused (by rw [h]; decide) (by rw [h]; decide), fun h => ?_, fun h => ?_, fun o hr hl => ?_, fun p o hr hl => ⟨?_, fun hf => ?_⟩,
    fun hf hl => ?_, fun hf hl => ⟨?_, ?_⟩, fun hl => ⟨fun hf hst => ?_, fun hf hst => ?_⟩, fun hf hl => ⟨?_, ?_⟩, fun hf hl => ?_, fun p hf hl => ⟨?_, ?_⟩⟩
  · have hu := unsupportedAt_fn s f hform
    refine ⟨(hlive rfl).trans ?_, (hlive rfl).trans ?_⟩
    · rw [hu, ← unsupported_eq]
    · rw [hu, ← unsupported_eq]
  · rw [readRegister_none hoff hmask h] at hread
    have hzero : (0 : Word) &&& m = 0 := BitVec.zero_and
    change _ = Host.Outcome.next { s with lastRead := 0 &&& m, lastEnd := .good }
    rw [hzero]
    exact hread
  · exact hwrite.trans (congrArg _ (writeRegister_write hoff hmask h v))
  · exact hwrite.trans (congrArg _ (writeRegister_firmware hoff hmask h v))
  · exact hread.trans (by rw [hget hr hl nofun]; rfl)
  · exact hread.trans (by rw [hget hr hl nofun, hl]; rfl)
  · exact hput hf hl rfl
  · exact hput hf hl rfl
  · exact hread.trans (by
      rw [hget (hfull hf) hl nofun, regValue_scratch]
      rfl)
  · exact hput hf hl (by
      rw [regPut_scratch]
      rfl)
  · exact hput (.inr hf) hl (by
      rw [hf]
      exact regPut_fuse_firmware mask v hst)
  · refine hput hf hl (if_neg ?_)
    rcases hst with h | h
    · simp [h]
    · simp [Nat.not_lt.mpr h]
  · exact hread.trans (by
      rw [hget (hfull hf) hl nofun]
      rfl)
  · exact hput hf hl (regPut_healthStatus mask v)
  · exact hput hf hl rfl
  · exact hput hf hl rfl
  · exact hread.trans (by
      rw [hget (hfull hf) hl nofun, readEffect_refused p (by
        rcases hf with h | h
        · rw [h]
          rfl
        · rw [h]
          rfl)]
      rfl)

end Sys2Proof.Machine

/-! PROOFS. Cold power-on, warm reset and what it keeps, the key of RST_CTL and the watchdog (O54). -/

namespace Sys2Proof.Machine

-- ## The settings of the part stay while stripes close and commit

/-- The state with the GLB block `g`. -/
def HasGlb (g : Glb) (s : State) : Prop := s.glb = g

section
variable {g : Glb} {s : State}

theorem Told.glb {t : State} (h : Told s t) : t.glb = s.glb := by
  obtain ⟨_, _, _, rfl⟩ := h.rest
  rfl

theorem hasGlb_updPset (h : HasGlb g s) (i : Nat) (f : ProtSet → ProtSet) : HasGlb g (s.updPset i f) := by
  unfold State.updPset
  split
  · exact h
  · exact h

theorem hasGlb_updNs (h : HasGlb g s) (n : Nat) (f : Namespace → Namespace) : HasGlb g (s.updNs n f) := by
  unfold State.updNs
  split
  · exact h
  · exact h

theorem hasGlb_wearLimit (h : HasGlb g s) (n : Nat) : HasGlb g (wearLimit s n) := by
  unfold wearLimit raiseCask
  dsimp only
  split
  · split
    · exact ((Told.raise ..).glb).trans h
    · exact h
  · exact h

theorem hasGlb_chunkWrite (h : HasGlb g s) (n : Nat) : HasGlb g (chunkWrite s n).2 := by
  unfold chunkWrite
  split
  · exact h
  · exact h

theorem hasGlb_buildStripe (h : HasGlb g s) (i k : Nat) (P : ProtSet) (l : List (Option UnitId × UnitData)) :
    HasGlb g (buildStripe s i k P l).2 := by
  refine hasGlb_updPset (foldl_keeps (P := fun r : Tab ChunkAt × State => HasGlb g r.2) _ _ h fun acc m hm => ?_) _ _
  dsimp only
  split
  · exact hm
  · have hw := hasGlb_chunkWrite hm (writePlace P m).1
    split
    next heq =>
      rw [heq] at hw
      exact hasGlb_wearLimit hw _
    next heq =>
      rw [heq] at hw
      exact hw

theorem hasGlb_closeStripe (h : HasGlb g s) (i : Nat) : HasGlb g (closeStripe s i) := by
  unfold closeStripe
  dsimp only
  split
  · exact h
  · split
    · exact h
    · exact hasGlb_updPset (hasGlb_buildStripe h ..) _ _

theorem hasGlb_commitStripe (h : HasGlb g s) (i : Nat) : HasGlb g (commitStripe s i).2 := by
  unfold commitStripe
  split
  · exact h
  · split
    · exact h
    · exact foldl_keeps _ _ (hasGlb_updPset (hasGlb_updPset h _ _) _ _) fun _ _ ht => hasGlb_updNs ht _ _

theorem hasGlb_commitSets (h : HasGlb g s) : HasGlb g (commitSets s) :=
  foldl_keeps _ _ h fun _ i ht =>
    foldl_keeps _ _ (hasGlb_updPset (hasGlb_closeStripe ht i) _ _) fun _ _ hu => hasGlb_commitStripe hu i

theorem commitSets_glb (s : State) : (commitSets s).glb = s.glb := hasGlb_commitSets (g := s.glb) rfl

end

-- ## What memory keeps of the service region

theorem cellFind_filter {p : Host.Cell → Bool} (l : List Host.Cell) {a : Nat} (h : ∀ b, p (a, b) = true) :
    cellFind (l.filter p) a = cellFind l a := by
  induction l with
  | nil => rfl
  | cons x l ih =>
    obtain ⟨j, b⟩ := x
    by_cases hj : j = a
    · subst hj
      rw [List.filter_cons_of_pos (h b)]
      simp only [cellFind, if_true]
    · by_cases hp : p (j, b) = true
      · rw [List.filter_cons_of_pos hp]
        simp only [cellFind, if_neg hj, ih]
      · rw [List.filter_cons_of_neg hp, ih]
        simp only [cellFind, if_neg hj]

/-- The stamp of the undefined region that an address lies in. -/
def stampAt (l : List Undef) (a : Nat) : Option Nat := (l.find? fun u => decide (u.lo ≤ a) && decide (a < u.hi)).map Undef.stamp

theorem Mem.blank_congr {m m' : Mem} {a : Nat} (h : stampAt m'.undef a = stampAt m.undef a) : m'.blank a = m.blank a := by
  unfold stampAt at h
  rw [Mem.blank_eq, Mem.blank_eq, h]

section
variable {lo hi a : Nat} (hlo : lo ≤ a) (hhi : a < hi)
include hlo hhi

theorem stampAt_within (l : List Undef) : stampAt (l.filterMap fun u => u.within lo hi) a = stampAt l a := by
  unfold stampAt
  induction l with
  | nil => rfl
  | cons u l ih =>
    by_cases hu : u.lo ≤ a ∧ a < u.hi
    · have hw : u.within lo hi = some { u with lo := max u.lo lo, hi := min u.hi hi } := if_pos (by omega)
      rw [List.filterMap_cons_some (f := fun u => Undef.within u lo hi) hw, List.find?_cons_of_pos (by simp; omega), List.find?_cons_of_pos (by simpa using hu)]
      rfl
    · rw [List.find?_cons_of_neg (by simpa using hu), ← ih]
      cases hw : u.within lo hi with
      | none => rw [List.filterMap_cons_none (f := fun u => Undef.within u lo hi) hw]
      | some v =>
        unfold Undef.within at hw
        split at hw
        · obtain rfl := Option.some.inj hw
          rw [List.filterMap_cons_some (f := fun u => Undef.within u lo hi) (if_pos ‹_›), List.find?_cons_of_neg (by simp; omega)]
        · cases hw

theorem stampAt_unknownBut (m : Mem) (hcellar : hi ≤ 0x8000000000) : stampAt (m.unknownBut lo hi).undef a = stampAt m.undef a := by
  refine Eq.trans ?_ (stampAt_within hlo hhi m.undef)
  unfold stampAt
  refine congrArg _ ?_
  refine (List.find?_append ..).trans ?_
  have hnone : List.find? (fun u => decide (u.lo ≤ a) && decide (a < u.hi))
      (m.unknown.undef.flatMap fun u => if u.lo = 0 then [{ u with hi := lo }, { u with lo := hi }] else [u]) = none := by
    refine List.find?_eq_none.mpr fun v hv => ?_
    obtain ⟨u, hu, hv⟩ := List.mem_flatMap.mp hv
    simp only [Mem.unknown, List.mem_append, List.mem_cons, List.not_mem_nil, or_false, List.mem_filter, decide_eq_true_eq] at hu
    simp only [Bool.and_eq_true, decide_eq_true_eq]
    split at hv
    · simp only [List.mem_cons, List.not_mem_nil, or_false] at hv
      rcases hv with rfl | rfl
      · exact fun h => Nat.not_le_of_lt h.2 hlo
      · exact fun h => Nat.not_le_of_lt hhi h.1
    · obtain rfl := List.mem_singleton.mp hv
      rcases hu with (rfl | rfl) | ⟨-, hu⟩
      · contradiction
      · exact fun h => absurd (show 0x100000000000 ≤ a from h.1) (by omega)
      · omega
  rw [hnone]
  rfl

theorem byte_unknownBut (m : Mem) (hcellar : hi ≤ 0x8000000000) : (m.unknownBut lo hi).byte a = m.byte a := by
  have hcells : cellFind (m.unknownBut lo hi).cells a = cellFind m.cells a := cellFind_filter _ fun b => by simp [hlo, hhi]
  unfold Mem.byte
  rw [hcells, Mem.blank_congr (stampAt_unknownBut hlo hhi m hcellar)]

theorem poisoned_unknownBut (m : Mem) (hline : lo % 64 = 0) : (m.unknownBut lo hi).poisoned a = m.poisoned a := by
  unfold Mem.poisoned Mem.unknownBut
  have hline : lo ≤ a / 64 * 64 ∧ a / 64 * 64 < hi := by omega
  rw [Bool.eq_iff_iff]
  simp [List.mem_filter, hline]

end

theorem service_end (p : Part) : (p.service.1 + p.service.2) * sliceBytes ≤ 0x8000000000 := by
  cases p <;> decide

theorem Tab.get_map {α β : Type} (f : α → β) (d : α) (m : Tab α) (k : Nat) :
    Tab.get (f d) (m.map fun e => (e.1, f e.2)) k = f (Tab.get d m k) := by
  unfold Tab.get
  induction m with
  | nil => rfl
  | cons x m ih =>
    obtain ⟨j, a⟩ := x
    by_cases hj : j = k
    · simp only [List.map_cons, Tab.find, if_pos hj, Option.getD_some]
    · simp only [List.map_cons, Tab.find, if_neg hj, ih]

-- ## What a warm reset leaves

section
variable (s : State)

theorem parcel_resetUnits (p : Nat) : (resetUnits s true).parcel p = { vintage := (s.parcel p).vintage } :=
  Tab.get_map (fun P : Parcel => ({ vintage := P.vintage } : Parcel)) {} s.parcels p

theorem tile_resetUnits (k : Nat) : (resetUnits s true).tile k = (s.tile k).engineReset true := Tab.get_map (Tile.engineReset · true) {} s.tiles k

theorem warmReset_ignored {cause : Nat} (h : ¬(s.boot.stage = 6 ∨ (s.boot.stage = 5 ∧ cause = 7))) : warmReset s cause = s := by
  refine if_pos ?_
  simp only [not_or, not_and] at h
  simp only [Bool.and_eq_true, Bool.not_eq_true', Bool.and_eq_false_iff, beq_eq_false_iff_ne, decide_eq_true_eq]
  exact ⟨h.1, Classical.or_iff_not_imp_left.mpr fun hc h5 => hc (h.2 h5)⟩

theorem warmReset_runs {cause : Nat} (h : s.boot.stage = 6 ∨ (s.boot.stage = 5 ∧ cause = 7)) :
    warmReset s cause = bootRom ((resetUnits (commitSets s) true).updPwr fun P => { P with
      cause := BitVec.ofNat 4 cause, afterTrip := false, afterRail := false, resetCount := P.resetCount + 1 }) false := by
  refine if_neg ?_
  rcases h with h | ⟨h, hc⟩
  · simp [h]
  · simp [h, hc]

theorem rstCtlWrite_eq (v : Word) : rstCtlWrite s v = if v.toNat % 2 = 1 ∧ v.toNat / 256 % 256 = 0xA5 then warmReset s 3 else s := by
  unfold rstCtlWrite
  refine ite_of_iff ?_
  rw [Bool.and_eq_true, beq_iff_eq, fbit, bitOf_eq_true, Nat.pow_zero, Nat.div_one]
  exact Iff.rfl

end

/-- Settles O54: each unit that a reset clears is named in `resetUnits`; the service region's bytes lie in no undefined region that the
reset makes (`stampAt_unknownBut`). -/
theorem resets : Obligations.Resets := by
  unfold Obligations.Resets
  intro s mgr src who v cause w t service runs
  refine ⟨⟨rfl, rfl, rfl, rfl, rfl, rfl, rfl, rfl, rfl, rfl, rfl, rfl, rfl, rfl, rfl, rfl, rfl, rfl, rfl, rfl, rfl, rfl⟩, warmReset_ignored s, warmReset_runs s,
    ⟨rfl, rfl, rfl, rfl, rfl, rfl, rfl, rfl, rfl, rfl, rfl, parcel_resetUnits w, fun k => ?_, fun b hlo hhi => ?_⟩, fun hs => ?_⟩
  · have htile : t.tile k = (w.tile k).engineReset true := tile_resetUnits w k
    rw [htile]
    exact ⟨rfl, rfl, rfl⟩
  · have hmem : t.mem = w.mem.unknownBut (service.1 * sliceBytes) ((service.1 + service.2) * sliceBytes) := by
      have hpart : w.glb.part.service = service := congrArg (·.part.service) (commitSets_glb s)
      rw [← hpart]
      rfl
    rw [hmem]
    have hline : service.1 * sliceBytes % 64 = 0 := Nat.mod_eq_zero_of_dvd (Nat.dvd_mul_left_of_dvd (by decide) _)
    exact ⟨byte_unknownBut hlo hhi _ (service_end s.glb.part), poisoned_unknownBut hlo hhi _ hline⟩
  · have hlive {f : State → State} {c : Instr} (hc : exec c s = ok (live s f)) : exec c s = .next (f s) :=
      hc.trans (congrArg ok (live_clocked hs f))
    have hrow : exec (.rstCtlWrite who v) s = .next (if isManager s who then settleFrom s (rstCtlWrite s v) else s) := (hlive rfl).trans rfl
    refine ⟨fun hm h0 hk => ?_, fun hm hk => ?_, fun hm => hrow.trans (congrArg _ (if_neg (by simp [hm]))), (hlive rfl).trans rfl⟩
    · rw [hrow, if_pos hm, rstCtlWrite_eq, if_pos ⟨h0, hk⟩]
    · rw [hrow, if_pos hm, rstCtlWrite_eq, if_neg (by omega)]

end Sys2Proof.Machine

/-! PROOFS. The boot ROM, the release of retry, recovery and the test access port (O55). -/

namespace Sys2Proof.Machine

-- ## The boot ROM

/-- The state in which the boot ROM has opened the flash. -/
def flashOpened (s : State) : State := s.updBoot fun B => { B.openFlash with srcRec := false, fallback := false }

/-- The port mode that the boot ROM sets where the ports have not trained. -/
def portMode (set : Bool) (s : State) (m : Bool) : State := if set then { s with ports := { s.ports with bifurcated := m } } else s

section
variable (s : State) (mode : Bool)

theorem bootRom_eq : bootRom s mode =
    match (if s.boot.bootSrc then none else some s.boot.flash.dir) with
    | none => enterRecovery (portMode mode (flashOpened s) false)
    | some none => enterRecovery (portMode mode ((flashOpened s).updBoot fun B => { B with lastReason := 1 }) false)
    | some (some d) =>
      let t := portMode mode (flashOpened s) (bitOf (fieldAt d 8 4) 0)
      let next := fieldAt d 6 1 != 0
      let first := if bitOf (fieldAt d 7 1) 0 && t.pwr.cause == 7 then !next else next
      if slotReason t d first = 0 then enterSlot t first
      else
        let t := t.updBoot fun B => { B.failed first (slotReason t d first) with fallback := true }
        if slotReason t d (!first) = 0 then enterSlot t (!first)
        else enterRecovery (portMode mode (t.updBoot fun B => B.failed (!first) (slotReason t d (!first))) false) := rfl

variable {s}

theorem bootRom_source (h : s.boot.bootSrc = true) : bootRom s mode = enterRecovery (portMode mode (flashOpened s) false) := by
  rw [bootRom_eq, if_pos h]

theorem bootRom_noDir (h : s.boot.bootSrc = false) (hd : s.boot.flash.dir = none) :
    bootRom s mode = enterRecovery (portMode mode ((flashOpened s).updBoot fun B => { B with lastReason := 1 }) false) := by
  rw [bootRom_eq, if_neg (by simp [h]), hd]

theorem portMode_pwr (b : Bool) : (portMode mode s b).pwr = s.pwr := by
  unfold portMode
  split <;> rfl

/-- Noting a rejected slot changes no reason of a slot. -/
theorem slotReason_failed (d : List Byte) (b c : Bool) (why : Nat) :
    slotReason (s.updBoot fun B => { B.failed b why with fallback := true }) d c = slotReason s d c := by
  cases b <;> rfl

theorem bootRom_dir {d : List Byte} (h : s.boot.bootSrc = false) (hd : s.boot.flash.dir = some d) :
    let X := portMode mode (flashOpened s) (bitOf (fieldAt d 8 4) 0)
    let next := fieldAt d 6 1 != 0
    let first := if bitOf (fieldAt d 7 1) 0 && s.pwr.cause == 7 then !next else next
    let Y := X.updBoot fun B => { B.failed first (slotReason X d first) with fallback := true }
    bootRom s mode =
      if slotReason X d first = 0 then enterSlot X first
      else if slotReason X d (!first) = 0 then enterSlot Y (!first)
      else enterRecovery (portMode mode (Y.updBoot fun B => B.failed (!first) (slotReason X d (!first))) false) := by
  rw [bootRom_eq, if_neg (by simp [h]), hd]
  dsimp only
  rw [portMode_pwr]
  simp only [slotReason_failed]
  rfl

theorem Flash.dir_first {F : Flash} (h : dirOk F.dir0 = true) : F.dir = some F.dir0 := if_pos h

theorem Flash.dir_second {F : Flash} (h : dirOk F.dir0 = false) (h' : dirOk F.dir1 = true) : F.dir = some F.dir1 :=
  (if_neg (by simp [h])).trans (if_pos h')

theorem Flash.dir_none {F : Flash} (h : dirOk F.dir0 = false) (h' : dirOk F.dir1 = false) : F.dir = none :=
  (if_neg (by simp [h])).trans (if_neg (by simp [h']))

end

-- ## The firmware's release of retry

theorem casksRising_iff (s : State) : casksRising s = true ↔ ∃ n : CaskId, (s.cask n).st = .linking ∨ (s.cask n).st = .identifying := by
  unfold casksRising
  simp only [List.any_eq_true, List.mem_range, Bool.or_eq_true, beq_iff_eq]
  exact ⟨fun ⟨n, hn, h⟩ => ⟨⟨n, hn⟩, h⟩, fun ⟨n, h⟩ => ⟨n, n.isLt, h⟩⟩

theorem bitOf_toNat {n : Nat} (v : BitVec n) (i : Nat) : bitOf v.toNat i = v.getLsbD i := by
  simp [bitOf, BitVec.getLsbD, Nat.testBit_eq_decide_div_mod_eq]
  rfl

/-- A stack has been tried: it is in service, or has failed. -/
def Stack.Tried (K : Stack) (failed : Bool) : Prop := if failed = true then K.failed = true else K.trained = true

theorem Stack.Tried.mono {K K' : Stack} {b : Bool} (h : K.Tried b) (hf : K.failed = true → K'.failed = true)
    (ht : K.trained = true → K'.trained = true) : K'.Tried b := by
  cases b with
  | true => exact hf h
  | false => exact ht h

section
variable {s t : State}

theorem Told.boot (h : Told s t) : t.boot = s.boot := by
  obtain ⟨_, _, _, rfl⟩ := h.rest
  rfl

theorem Told.ports (h : Told s t) : t.ports = s.ports := by
  obtain ⟨_, _, _, rfl⟩ := h.rest
  rfl

theorem Told.hlt (h : Told s t) : t.hlt = s.hlt := by
  obtain ⟨_, _, _, rfl⟩ := h.rest
  rfl

theorem Told.ite {c : Prop} [Decidable c] {u : State} (h : Told s t) (h' : Told s u) : Told s (if c then t else u) := by
  split
  · exact h
  · exact h'

end

section
variable (s : State) (failed : Nat)

theorem trainStack_tried (k : Nat) : ((trainStack s failed k).stack k).Tried (bitOf failed k) := by
  unfold trainStack Stack.Tried
  split
  · rw [(Told.raiseGlobal ..).stack, State.updStack_stack]
  · rw [State.updStack_stack]

theorem tried_trainStack {j : Nat} {b : Bool} (k : Nat) (h : (s.stack j).Tried b) : ((trainStack s failed k).stack j).Tried b := by
  unfold trainStack
  by_cases hj : j = k
  · subst hj
    split
    · rw [(Told.raiseGlobal ..).stack, State.updStack_stack]
      exact h.mono (fun _ => rfl) id
    · rw [State.updStack_stack]
      exact h.mono id fun _ => rfl
  · split
    · rw [(Told.raiseGlobal ..).stack, State.updStack_stack_ne _ _ hj]
      exact h
    · rw [State.updStack_stack_ne _ _ hj]
      exact h

/-- The training of the stacks changes boot and ports no more than a record of an event does. -/
theorem trainStack_boot (k : Nat) : (trainStack s failed k).boot = s.boot := by
  unfold trainStack
  split
  · rw [(Told.raiseGlobal ..).boot]
    rfl
  · rfl

theorem trainStack_ports (k : Nat) : (trainStack s failed k).ports = s.ports := by
  unfold trainStack
  split
  · rw [(Told.raiseGlobal ..).ports]
    rfl
  · rfl

/-- The state after the stacks of a list have been tried. -/
def trainStacks (l : List Nat) : State := foldNat l (fun k s => trainStack s failed k) s

theorem trainStacks_boot (l : List Nat) : (trainStacks s failed l).boot = s.boot :=
  foldl_keeps (P := fun t => t.boot = s.boot) l s rfl fun _ k h => (trainStack_boot _ failed k).trans h

theorem trainStacks_ports (l : List Nat) : (trainStacks s failed l).ports = s.ports :=
  foldl_keeps (P := fun t => t.ports = s.ports) l s rfl fun _ k h => (trainStack_ports _ failed k).trans h

theorem trainStacks_tried {l : List Nat} {k : Nat} (h : k ∈ l) : ((trainStacks s failed l).stack k).Tried (bitOf failed k) := by
  obtain ⟨l₁, l₂, rfl⟩ := List.append_of_mem h
  unfold trainStacks foldNat
  rw [List.foldl_append, List.foldl_cons]
  exact foldl_keeps (P := fun t => (t.stack k).Tried (bitOf failed k)) l₂ _ (trainStack_tried _ failed k) fun t j ht => tried_trainStack t failed j ht

/-- The load of the health log changes the health block, and raises events. -/
theorem told_loadLog : ∃ H : Hlt, H.valid = true ∧ Told { s with hlt := H } (loadLog s) := by
  refine ⟨_, ?_, foldl_keeps (P := Told _) _ _ (Told.refl _) fun t x ht => ?_⟩
  · rfl
  · split
    · unfold healthEvent
      split
      · exact ht.trans (Told.raiseGlobal ..)
      · exact ht
    · exact ht

end

/-- The state that the firmware leaves as it releases retry, before its events. -/
def retryReleased (s : State) (micros failed : Nat) : State :=
  let s := loadLog (trainStacks s failed ((List.range 8).filter (stackPresent s)))
  let up := fun (P : HostPort) => { P with retry := false, recovery := false, drs := P.drs + 1 }
  let s := { s with ports := { s.ports with hpa := up s.ports.hpa, hpb := up s.ports.hpb } }
  let s := s.updBoot fun B => { B with stage := 6, time := BitVec.ofNat 32 micros }
  let s := s.updBoot fun B => if B.srcRec then B else { B with flash := B.flash.triedOnce }
  { s with sto := { s.sto with ready := !(s.sto.sets.any fun kP => kP.2.recovering) } }

section
variable (s : State) (micros failed : Nat)

theorem retryReleased_boot : (retryReleased s micros failed).boot = { s.boot with
    stage := 6, time := BitVec.ofNat 32 micros, flash := if s.boot.srcRec = true then s.boot.flash else s.boot.flash.triedOnce } := by
  obtain ⟨H, -, hT⟩ := told_loadLog (trainStacks s failed ((List.range 8).filter (stackPresent s)))
  have hboot := hT.boot.trans (trainStacks_boot ..)
  unfold retryReleased
  simp only [State.updBoot, hboot]
  split
  case isTrue => simp only
  case isFalse => simp only

theorem retryReleased_ports : (retryReleased s micros failed).ports = { s.ports with
    hpa := { s.ports.hpa with retry := false, recovery := false, drs := s.ports.hpa.drs + 1 }
    hpb := { s.ports.hpb with retry := false, recovery := false, drs := s.ports.hpb.drs + 1 } } := by
  obtain ⟨H, -, hT⟩ := told_loadLog (trainStacks s failed ((List.range 8).filter (stackPresent s)))
  have hports := hT.ports.trans (trainStacks_ports ..)
  unfold retryReleased
  simp only [State.updBoot, hports]

theorem retryReleased_valid : (retryReleased s micros failed).hlt.valid = true := by
  obtain ⟨H, hv, hT⟩ := told_loadLog (trainStacks s failed ((List.range 8).filter (stackPresent s)))
  exact (congrArg Hlt.valid hT.hlt).trans hv

variable {s} in
theorem retryReleased_tried {k : Nat} (hk : k < 8) (hp : stackPresent s k = true) :
    ((retryReleased s micros failed).stack k).Tried (bitOf failed k) := by
  obtain ⟨H, -, hT⟩ := told_loadLog (trainStacks s failed ((List.range 8).filter (stackPresent s)))
  unfold State.stack retryReleased
  dsimp only [State.updBoot]
  rw [hT.hbms]
  exact trainStacks_tried s failed (List.mem_filter.mpr ⟨List.mem_range.mpr hk, hp⟩)

end

/-- The events of the release. -/
def releaseEvents (s : State) : State :=
  let s := raiseGlobal s 6 1
  let s := if s.boot.fallback && !s.boot.srcRec then raiseGlobal s 6 2 else s
  let s := if s.boot.srcRec then raiseGlobal s 6 3 else s
  if s.pwr.cause = 7 then raiseGlobal s 6 4 else s

section
variable (s : State)

theorem told_releaseEvents : Told s (releaseEvents s) := by
  have hmaybe {c : Prop} [Decidable c] (t : State) (i : Nat) : Told t (if c then raiseGlobal t 6 i else t) := (Told.raiseGlobal ..).ite (Told.refl t)
  unfold releaseEvents
  exact (((Told.raiseGlobal ..).trans (hmaybe ..)).trans (hmaybe ..)).trans (hmaybe ..)

theorem releaseEvents_pending : ((releaseEvents s).evSrc 1222).pending = true := by
  have hmaybe {c : Prop} [Decidable c] {t : State} (i : Nat) (h : (t.evSrc 1222).pending = true) :
      ((if c then raiseGlobal t 6 i else t).evSrc 1222).pending = true := by
    split
    · exact raise_pending ..
    · exact h
  unfold releaseEvents
  exact hmaybe _ (hmaybe _ (hmaybe _ (raise_pending ..)))

variable {s} {micros : Nat} (failed : Nat)

theorem firmwareReady_waits (h : s.boot.stage ≠ 5 ∨ (casksRising s = true ∧ micros < 850000)) : firmwareReady s micros failed = s :=
  if_pos (by simpa using h)

theorem firmwareReady_releases (h5 : s.boot.stage = 5) (h : ¬casksRising s = true ∨ 850000 ≤ micros) :
    firmwareReady s micros failed = releaseEvents (retryReleased s micros failed) := by
  refine if_neg ?_
  rcases h with h | h
  · simp [h5, h]
  · simp [h5, Nat.not_lt.mpr h]

end

-- ## Recovery and the test access port

section
variable {s : State} (failed : Bool)

theorem recGo_recovery (h7 : s.boot.stage = 7) :
    let img := (List.range s.boot.recLen.toNat).map fun i => (cellFind s.boot.window i).getD 0
    let why := imageReason s img s.boot.recLen.toNat failed
    recGo s failed = if why ≠ 0 then s.updBoot fun B => { B with recDone := true, recPass := false, recReason := why, lastReason := why }
      else enterImage (State.updPort (s.updBoot fun B => { B with recDone := true, recPass := true }) (mgrPort s) fun P => { P with recovery := false }) img :=
  if_neg (Classical.not_not.mpr h7)

end

theorem ite_between {α : Type} (lo hi c : Nat) (x y : α) :
    (if (decide (lo ≤ c) && decide (c ≤ hi)) = true then x else y) = if lo ≤ c ∧ c ≤ hi then x else y :=
  ite_of_iff (by rw [Bool.and_eq_true, decide_eq_true_eq, decide_eq_true_eq])

theorem tapDrive_eq (c : Nat) : tapDrive c = if c = 6 then .highz else if 3 ≤ c ∧ c ≤ 7 then .boundary else .functional :=
  ite_congr rfl (fun _ => rfl) fun _ => ite_between ..

/-- The access port with an instruction loaded. -/
def tapSelected (s : State) (i : TapInstr) : State := { s with pkg := { s.pkg with
  tap := tapCode i, tapDr := if tapCode i = 1 then BitVec.ofNat 32 (idcode s) else 0
  captured := if 2 ≤ tapCode i ∧ tapCode i ≤ 5 then captureLevels s else s.pkg.captured
  preloaded := match i with | .preload l => l | _ => s.pkg.preloaded
  drive := if tapCode i = 6 then .highz else if 3 ≤ tapCode i ∧ tapCode i ≤ 7 then .boundary else .functional } }

theorem tapLoad_eq (s : State) (i : TapInstr) : tapLoad s i = if 3 ≤ tapCode i ∧ tapCode i ≤ 7 then
    { tapSelected s i with pkg := { (tapSelected s i).pkg with scan := true }, pwr := { (tapSelected s i).pwr with stopped := true } }
    else tapSelected s i := by
  unfold tapLoad tapSelected
  dsimp only
  rw [ite_between 3, ite_between 2, tapDrive_eq] <;> rfl

theorem triedOnce_dir0 {F : Flash} {d : List Byte} (hd : dirOk d = true) (h : F.dir0 = d) :
    F.triedOnce.dir0 = dirPut d (fieldAt d 6 1) (fieldAt d 7 1 / 2 * 2) := by
  subst h
  exact if_pos hd

/-- A ball whose level is known is captured. -/
theorem mem_captureLevels {s : State} {b : Ball} {v : Bool} (hb : b ∈ boundaryBalls) (hv : b.level s = some v) :
    ((b.row, b.col), v) ∈ captureLevels s :=
  List.mem_filterMap.mpr ⟨b, hb, by rw [hv]; rfl⟩

theorem caskBall_mem : ∀ (r : Fin 3) (n : CaskId), ({ row := r.val + 2, col := n.val + 1 } : Ball) ∈ boundaryBalls := by decide

theorem presentBall_drives : ∀ n : CaskId, ({ row := 3, col := n.val + 1 } : Ball).drives = false := by decide

theorem caskCol : ∀ n : CaskId, (decide (1 ≤ n.val + 1) && decide (n.val + 1 ≤ 16)) = true := by decide

theorem level_of_input {s : State} {b : Ball} (h : b.drives = false) : b.level s = b.ownLevel s := if_pos (by simp [h])

theorem level_of_output {s : State} {b : Ball} (h : s.pkg.drive = .functional) : b.level s = b.ownLevel s := by
  unfold Ball.level
  rw [h]
  split <;> rfl

/-- Settles O55: the boot ROM by the directory that it finds (`bootRom_eq`), the release of retry by the state before its events
(`retryReleased`), which they keep; recovery and the port by cases. -/
theorem boot : Obligations.Boot := by
  unfold Obligations.Boot
  intro s mode micros failed g i B ports img why c t
  have hlive (hs : Clocked s) {f : State → State} {c : Instr} (hc : exec c s = ok (live s f)) : exec c s = .next (f s) :=
    hc.trans (congrArg ok (live_clocked hs f))
  have hgo (hs : Clocked s) : exec (.bootRecGo g) s = .next (if s.boot.stage = 7 then recCtlWrite s g.value g.failed else s) :=
    (hlive hs rfl).trans rfl
  have hbit : fbit g.value 0 = true ↔ g.value.toNat % 2 = 1 := by rw [fbit, bitOf_eq_true, Nat.pow_zero, Nat.div_one]
  have htap : exec (.tapInstructionLoad i) s = .next (if s.pwr.down.getLsbD 1 then s else tapLoad s i) := rfl
  have hload : tapLoad s i = if 3 ≤ c ∧ c ≤ 7 then { t with pkg := { t.pkg with scan := true }, pwr := { t.pwr with stopped := true } } else t :=
    tapLoad_eq s i
  refine ⟨bootRom_source mode, fun h h0 h1 => bootRom_noDir mode h (Flash.dir_none h0 h1), fun h d hd => ?_, fun hs => ⟨?_, ?_, ?_, ?_, ?_⟩,
    fun d hd F hF => triedOnce_dir0 hd hF, fun h => ?_, fun h => ⟨fun hc => ?_, fun h3 h7 => ?_⟩, fun n => ⟨?_, fun hdrive => ⟨?_, ?_⟩⟩⟩
  · have hdir : s.boot.flash.dir = some d := by
      rcases hd with ⟨h0, rfl⟩ | ⟨h0, h1, rfl⟩
      · exact Flash.dir_first h0
      · exact Flash.dir_second h0 h1
    exact bootRom_dir mode h hdir
  · exact (hlive hs rfl).trans rfl
  · intro rising
    have hrising : rising ↔ casksRising s = true := (casksRising_iff s).symm
    rw [hrising]
    refine ⟨fun h => firmwareReady_waits _ h, fun h5 h => ?_⟩
    rw [firmwareReady_releases _ h5 h]
    dsimp only
    have hT := told_releaseEvents (retryReleased s micros.toNat failed.toNat)
    rw [hT.boot, hT.ports, hT.hlt, retryReleased_ports, retryReleased_boot]
    refine ⟨rfl, BitVec.ofNat_toNat .., retryReleased_valid .., rfl, rfl, rfl, rfl, releaseEvents_pending _, fun k hk => ?_, rfl⟩
    have htried := retryReleased_tried micros.toNat failed.toNat k.isLt hk
    rw [bitOf_toNat] at htried
    rw [hT.stack]
    exact htried
  · exact fun h7 => (hgo hs).trans (congrArg _ (if_neg h7))
  · intro h7 h0
    rw [hgo hs, if_pos h7]
    exact congrArg _ (if_neg (by rw [hbit]; omega))
  · intro h7 h1
    rw [hgo hs, if_pos h7]
    exact congrArg _ ((if_pos (hbit.mpr h1)).trans
      (recGo_recovery (s := s.updBoot fun B => { B with recDone := false, recPass := false }) _ h7))
  · exact htap.trans (congrArg _ (if_pos h))
  · exact htap.trans (congrArg _ ((if_neg (ne_true_of_eq_false h)).trans (hload.trans (if_neg hc))))
  · exact htap.trans (congrArg _ ((if_neg (ne_true_of_eq_false h)).trans (hload.trans (if_pos ⟨h3, h7⟩))))
  · exact mem_captureLevels (caskBall_mem 1 n) ((level_of_input (presentBall_drives n)).trans (if_pos (caskCol n)))
  · exact mem_captureLevels (caskBall_mem 0 n) ((level_of_output hdrive).trans (if_pos (caskCol n)))
  · exact mem_captureLevels (b := { row := 1, col := 1 }) (by decide) (level_of_output hdrive)

end Sys2Proof.Machine

/-! PROOFS. R340's estimate: least squares over the samples, and the search for the days (O52). -/

namespace Sys2Proof.Machine

-- ## The search for a day

/-- A test that a smaller number passes where a larger one does. -/
def Falling (f : Nat → Bool) : Prop := ∀ j k, j ≤ k → f k = true → f j = true

section
variable {f : Nat → Bool}

theorem maxBelow_lt (m acc : Nat) : maxBelow f m acc < acc + 2 ^ m := by
  induction m generalizing acc with
  | zero => exact Nat.lt_succ_self acc
  | succ m ih =>
    have h := ih acc
    have h' := ih (acc + 2 ^ m)
    unfold maxBelow
    rw [Nat.pow_succ]
    split <;> omega

theorem le_maxBelow (hf : Falling f) {m acc k : Nat} (ha : f acc = true) (hk : k < acc + 2 ^ m) : k ≤ maxBelow f m acc ↔ f k = true := by
  induction m generalizing acc with
  | zero =>
    have hle : k ≤ acc := by omega
    exact iff_of_true hle (hf k acc hle ha)
  | succ m ih =>
    rw [Nat.pow_succ] at hk
    unfold maxBelow
    split
    case isTrue h => exact ih h (by omega)
    case isFalse h =>
      by_cases hlt : k < acc + 2 ^ m
      · exact ih ha hlt
      · have hbound := maxBelow_lt (f := f) m acc
        exact iff_of_false (by omega) fun hk => h (hf _ _ (by omega) hk)

theorem le_daysOf (hf : Falling f) (h0 : f 0 = true) {k : Nat} (hk : k ≤ 65534) : k ≤ daysOf f ↔ f k = true := by
  have h := le_maxBelow hf (m := 16) h0 (k := k) (by omega)
  rw [← h, daysOf, Nat.le_min, and_iff_left hk]

theorem daysOf_le (f : Nat → Bool) : daysOf f ≤ 65534 := Nat.min_le_right ..

end

-- ## The three predictions

/-- What the model computes from the sums: `R` is what is left, `S` the slope, `V` the square of the spread. -/
def eolFrom (n S V R : Int) : Nat × Nat × Nat :=
  if R ≤ 0 then (0, 0, 0)
  else if S ≤ 0 then (0xFFFF, 0xFFFF, 0xFFFF)
  else
    let kn := fun (k : Nat) => (k : Int) * n
    let eol := daysOf fun k => decide (kn k * S ≤ R)
    let early := daysOf fun k => decide (kn k * S ≤ R) && decide (4 * kn k * kn k * V ≤ (n - 2) * (R - kn k * S) * (R - kn k * S))
    let late := if S * S * (n - 2) ≤ 4 * V then 0xFFFF
      else daysOf fun k => decide (kn k * S ≤ R) || decide ((n - 2) * (kn k * S - R) * (kn k * S - R) ≤ 4 * kn k * kn k * V)
    (eol, early, late)

section
variable {n S V R : Int} (hn : 2 < n) (hV : 0 ≤ V) (hR : 0 < R) (hS : 0 < S)
include hn hV hR hS

omit hV hR in
theorem eol_falling : Falling fun k => decide ((k : Int) * n * S ≤ R) := by
  intro j k hjk hk
  rw [decide_eq_true_eq] at hk ⊢
  have hjn : (j : Int) * n ≤ k * n := Int.mul_le_mul_of_nonneg_right (Int.ofNat_le.mpr hjk) (by omega)
  exact Int.le_trans (Int.mul_le_mul_of_nonneg_right hjn (by omega)) hk

omit hR in
theorem early_falling : Falling fun k => decide ((k : Int) * n * S ≤ R) &&
    decide (4 * ((k : Int) * n) * (k * n) * V ≤ (n - 2) * (R - k * n * S) * (R - k * n * S)) := by
  intro j k hjk hk
  simp only [Bool.and_eq_true, decide_eq_true_eq] at hk ⊢
  obtain ⟨hk, hsq⟩ := hk
  have hjk' : (j : Int) ≤ k := Int.ofNat_le.mpr hjk
  have hj0 : (0 : Int) ≤ j := Int.natCast_nonneg j
  have hjn : (j : Int) * n ≤ k * n := Int.mul_le_mul_of_nonneg_right hjk' (by omega)
  have hjn0 : 0 ≤ (j : Int) * n := Int.mul_nonneg hj0 (by omega)
  have hjS : (j : Int) * n * S ≤ k * n * S := Int.mul_le_mul_of_nonneg_right hjn (by omega)
  refine ⟨Int.le_trans hjS hk, ?_⟩
  calc 4 * ((j : Int) * n) * (j * n) * V = 4 * (((j : Int) * n) * (j * n)) * V := by grind
    _ ≤ 4 * (((k : Int) * n) * (k * n)) * V :=
        Int.mul_le_mul_of_nonneg_right (Int.mul_le_mul_of_nonneg_left (Int.mul_le_mul hjn hjn hjn0 (by omega)) (by decide)) hV
    _ = 4 * ((k : Int) * n) * (k * n) * V := by grind
    _ ≤ (n - 2) * (R - k * n * S) * (R - k * n * S) := hsq
    _ = (n - 2) * ((R - k * n * S) * (R - k * n * S)) := by grind
    _ ≤ (n - 2) * ((R - j * n * S) * (R - j * n * S)) :=
        Int.mul_le_mul_of_nonneg_left (Int.mul_le_mul (by omega) (by omega) (by omega) (by omega)) (by omega)
    _ = (n - 2) * (R - j * n * S) * (R - j * n * S) := by grind

omit hV in
theorem late_falling : Falling fun k => decide ((k : Int) * n * S ≤ R) ||
    decide ((n - 2) * (k * n * S - R) * (k * n * S - R) ≤ 4 * ((k : Int) * n) * (k * n) * V) := by
  intro j k hjk hk
  simp only [Bool.or_eq_true, decide_eq_true_eq] at hk ⊢
  by_cases hj : (j : Int) * n * S ≤ R
  · exact .inl hj
  have hjk' : (j : Int) ≤ k := Int.ofNat_le.mpr hjk
  have hjn : (j : Int) * n ≤ k * n := Int.mul_le_mul_of_nonneg_right hjk' (by omega)
  have hjS : (j : Int) * n * S ≤ k * n * S := Int.mul_le_mul_of_nonneg_right hjn (by omega)
  have hjn0 : 0 < (j : Int) * n := by
    refine Int.lt_iff_le_and_ne.mpr ⟨Int.mul_nonneg (Int.natCast_nonneg j) (by omega), fun h0 => hj ?_⟩
    rw [← h0, Int.zero_mul]
    omega
  obtain hk | hk := hk
  · omega
  refine .inr ?_
  generalize (j : Int) * n = a at *
  generalize (k : Int) * n = b at *
  have hb0 : 0 < b := by omega
  have hcross : (a * S - R) * b ≤ (b * S - R) * a := by
    have hscale : R * a ≤ R * b := Int.mul_le_mul_of_nonneg_left hjn (by omega)
    have hdiff : (b * S - R) * a - (a * S - R) * b = R * b - R * a := by grind
    omega
  have hsq : ((a * S - R) * b) * ((a * S - R) * b) ≤ ((b * S - R) * a) * ((b * S - R) * a) :=
    Int.mul_le_mul hcross hcross (Int.mul_nonneg (by omega) (by omega)) (Int.mul_nonneg (by omega) (by omega))
  refine Int.le_of_mul_le_mul_right (a := b * b) ?_ (Int.mul_pos hb0 hb0)
  calc (n - 2) * (a * S - R) * (a * S - R) * (b * b) = (n - 2) * (((a * S - R) * b) * ((a * S - R) * b)) := by grind
    _ ≤ (n - 2) * (((b * S - R) * a) * ((b * S - R) * a)) := Int.mul_le_mul_of_nonneg_left hsq (by omega)
    _ = (n - 2) * (b * S - R) * (b * S - R) * (a * a) := by grind
    _ ≤ 4 * b * b * V * (a * a) := Int.mul_le_mul_of_nonneg_right hk (Int.mul_nonneg (by omega) (by omega))
    _ = 4 * a * a * V * (b * b) := by grind

end

-- ## Order and scale of rational numbers

theorem rat_mul_self_nonneg (x : Rat) : 0 ≤ x * x := by
  rcases Rat.le_total (a := 0) (b := x) with h | h
  · exact Rat.mul_nonneg h h
  · have hneg : 0 ≤ -x := by grind
    have hsq : -x * -x = x * x := by grind
    exact hsq ▸ Rat.mul_nonneg hneg hneg

theorem rat_mul_self_pos {x : Rat} (h : x ≠ 0) : 0 < x * x := by
  have h0 : x * x ≠ 0 := fun hx => (Rat.mul_eq_zero.mp hx).elim h h
  exact Rat.lt_of_le_of_ne (rat_mul_self_nonneg x) h0.symm

theorem rat_mul_le_mul_iff {c x y : Rat} (hc : 0 < c) : c * x ≤ c * y ↔ x ≤ y := by
  rw [← Rat.not_lt, ← Rat.not_lt, Rat.mul_lt_mul_left hc]

/-- What R340 requires of a prediction, in the slope `b`, the square `se2` of its standard error, and what is left of the wear. -/
def Predicts (b se2 left : Rat) (e : Nat × Nat × Nat) : Prop :=
  (left ≤ 0 → e = (0, 0, 0)) ∧
  (0 < left → b ≤ 0 → e = (0xFFFF, 0xFFFF, 0xFFFF)) ∧
  (0 < left → 0 < b → e.1 ≤ 65534 ∧ e.2.1 ≤ 65534 ∧ (4 * se2 < b * b → e.2.2 ≤ 65534) ∧ (b * b ≤ 4 * se2 → e.2.2 = 0xFFFF) ∧
    ∀ k : Nat, k ≤ 65534 →
      (k ≤ e.1 ↔ k * b ≤ left) ∧
      (k ≤ e.2.1 ↔ k * b ≤ left ∧ 4 * (k * k * se2) ≤ (left - k * b) * (left - k * b)) ∧
      (4 * se2 < b * b → (k ≤ e.2.2 ↔ k * b ≤ left ∨ (k * b - left) * (k * b - left) ≤ 4 * (k * k * se2))))

section
variable {n S V R : Int} {b se2 left c : Rat} (hn : 2 < n) (hc : 0 < c) (hb : c * b = n * S) (hl : c * left = R)
  (hse : c * c * ((n - 2) * se2) = n * n * V)

include hc hb hl in
theorem step_le_left (k : Nat) : (k : Rat) * b ≤ left ↔ (k : Int) * n * S ≤ R := by
  have hcast : (k : Int) * n * S ≤ R ↔ (k : Rat) * n * S ≤ R := by exact_mod_cast Iff.rfl
  rw [hcast, ← hl, ← rat_mul_le_mul_iff hc]
  have hstep : c * (k * b) = k * n * S := by grind
  rw [hstep]

include hn in
theorem two_lt_cast : (0 : Rat) < n - 2 := by
  have h : (2 : Rat) < n := by exact_mod_cast hn
  grind

include hn hc hb hl hse

omit hn hc in
/-- The square of the step's distance to what is left, and the square of its spread, in the model's units. -/
theorem squares_scaled (k : Nat) :
    c * c * (n - 2) * ((left - k * b) * (left - k * b)) = (n - 2) * (R - k * n * S) * (R - k * n * S) ∧
    c * c * (n - 2) * (4 * (k * k * se2)) = 4 * (k * n) * (k * n) * V := by
  have hdist : c * (left - k * b) = R - k * n * S := by grind
  constructor
  · rw [← hdist]
    grind
  · grind

theorem early_scaled (k : Nat) : 4 * (k * k * se2) ≤ (left - k * b) * (left - k * b) ↔
    4 * ((k : Int) * n) * (k * n) * V ≤ (n - 2) * (R - k * n * S) * (R - k * n * S) := by
  obtain ⟨hdist, hspread⟩ := squares_scaled hb hl hse k
  have hpos : 0 < c * c * ((n : Rat) - 2) := Rat.mul_pos (Rat.mul_pos hc hc) (two_lt_cast hn)
  rw [← rat_mul_le_mul_iff hpos, hdist, hspread]
  exact_mod_cast Iff.rfl

theorem late_scaled (k : Nat) : (k * b - left) * (k * b - left) ≤ 4 * (k * k * se2) ↔
    (n - 2) * ((k : Int) * n * S - R) * (k * n * S - R) ≤ 4 * ((k : Int) * n) * (k * n) * V := by
  obtain ⟨hdist, hspread⟩ := squares_scaled hb hl hse k
  have hpos : 0 < c * c * ((n : Rat) - 2) := Rat.mul_pos (Rat.mul_pos hc hc) (two_lt_cast hn)
  have hflip : (k * b - left) * (k * b - left) = (left - k * b) * (left - k * b) := by grind
  have hflip' : (n - 2) * ((k : Int) * n * S - R) * (k * n * S - R) = (n - 2) * (R - k * n * S) * (R - k * n * S) := by grind
  rw [hflip, hflip', ← rat_mul_le_mul_iff hpos, hdist, hspread]
  exact_mod_cast Iff.rfl

omit hl in
theorem steep_scaled : b * b ≤ 4 * se2 ↔ S * S * (n - 2) ≤ 4 * V := by
  have hpos : 0 < c * c * ((n : Rat) - 2) := Rat.mul_pos (Rat.mul_pos hc hc) (two_lt_cast hn)
  have hn0 : (0 : Rat) < n := by
    have h := two_lt_cast hn
    grind
  have hnn : (0 : Rat) < n * n := Rat.mul_pos hn0 hn0
  have hcast : S * S * (n - 2) ≤ 4 * V ↔ (S : Rat) * S * (n - 2) ≤ 4 * V := by exact_mod_cast Iff.rfl
  have hleft : c * c * (n - 2) * (b * b) = n * n * (S * S * (n - 2)) := by grind
  have hright : c * c * (n - 2) * (4 * se2) = n * n * (4 * V) := by grind
  rw [hcast, ← rat_mul_le_mul_iff hpos, hleft, hright, rat_mul_le_mul_iff hnn]

theorem eolFrom_predicts (hV : 0 ≤ V) : Predicts b se2 left (eolFrom n S V R) := by
  have hR : left ≤ 0 ↔ R ≤ 0 := by
    rw [← rat_mul_le_mul_iff hc, hl, Rat.mul_zero]
    exact_mod_cast Iff.rfl
  have hn0 : (0 : Rat) < n := by
    have h := two_lt_cast hn
    grind
  have hS : b ≤ 0 ↔ S ≤ 0 := by
    rw [← rat_mul_le_mul_iff hc, hb, Rat.mul_zero, ← Rat.mul_zero (n : Rat), rat_mul_le_mul_iff hn0]
    exact_mod_cast Iff.rfl
  refine ⟨fun h => if_pos (hR.mp h), fun h h' => (if_neg (by rwa [← hR, Rat.not_le])).trans (if_pos (hS.mp h')), fun h h' => ?_⟩
  have hR' : ¬R ≤ 0 := by rwa [← hR, Rat.not_le]
  have hS' : ¬S ≤ 0 := by rwa [← hS, Rat.not_le]
  have hflat := steep_scaled hn hc hb hse
  unfold eolFrom
  rw [if_neg hR', if_neg hS']
  dsimp only
  rw [Int.not_le] at hR' hS'
  refine ⟨daysOf_le _, daysOf_le _, fun hlt => ?_, fun hle => if_pos (hflat.mp hle), fun k hk => ⟨?_, ?_, fun hlt => ?_⟩⟩
  · rw [if_neg (by rwa [← hflat, Rat.not_le])]
    exact daysOf_le _
  · rw [le_daysOf (eol_falling hn hS') (by simpa using Int.le_of_lt hR') hk, decide_eq_true_eq]
    exact (step_le_left hc hb hl k).symm
  · rw [le_daysOf (early_falling hn hV hS') ?_ hk, Bool.and_eq_true, decide_eq_true_eq, decide_eq_true_eq]
    · exact and_congr (step_le_left hc hb hl k).symm (early_scaled hn hc hb hl hse k).symm
    · simpa using ⟨Int.le_of_lt hR', Int.mul_nonneg (Int.mul_nonneg (by omega) (Int.le_of_lt hR')) (Int.le_of_lt hR')⟩
  · rw [if_neg (by rwa [← hflat, Rat.not_le]), le_daysOf (late_falling hn hR' hS') (by simpa using .inl (Int.le_of_lt hR')) hk, Bool.or_eq_true,
      decide_eq_true_eq, decide_eq_true_eq]
    exact or_congr (step_le_left hc hb hl k).symm (late_scaled hn hc hb hl hse k).symm

end

end Sys2Proof.Machine

/-! PROOFS. R340's estimate: the sums over the samples, and the model's integers (O52). -/

namespace Sys2Proof.Machine

-- ## Identities of rational numbers

section
variable {n st sw stt stw sww xx xy yy a b D tn : Rat}

/-- The residual of the line with slope `b` and intercept `a`, in the plain sums and `n` times the central ones. -/
theorem residual_scaled (hb : b * xx = xy) (ha : n * a = sw - b * st) (hxx : xx = n * stt - st * st) (hxy : xy = n * stw - st * sw)
    (hyy : yy = n * sww - sw * sw) :
    (n * (-a * -a) + (-a * -b + -b * -a) * st + (-a * 1 + 1 * -a) * sw + -b * -b * stt + (-b * 1 + 1 * -b) * stw + 1 * 1 * sww) * (xx * n) =
      yy * xx - xy * xy := by
  have hplain : n * (n * (-a * -a) + (-a * -b + -b * -a) * st + (-a * 1 + 1 * -a) * sw + -b * -b * stt + (-b * 1 + 1 * -b) * stw + 1 * 1 * sww) =
      n * a * (n * a) + 2 * b * st * (n * a) - 2 * sw * (n * a) + b * b * (n * stt) - 2 * b * (n * stw) + n * sww := by grind
  have hcentral : n * (n * (-a * -a) + (-a * -b + -b * -a) * st + (-a * 1 + 1 * -a) * sw + -b * -b * stt + (-b * 1 + 1 * -b) * stw + 1 * 1 * sww) =
      b * b * xx - 2 * b * xy + yy := by
    rw [hplain, ha, hxx, hxy, hyy]
    grind
  have hslope : (b * b * xx - 2 * b * xy + yy) * xx = yy * xx - xy * xy := by
    rw [← hb]
    grind
  rw [← hslope, ← hcentral]
  grind

theorem slope_scaled (hxx : xx ≠ 0) : n * xx * D * (xy / xx) = n * (D * xy) := by grind

theorem left_scaled (hn : n ≠ 0) (hxx : xx ≠ 0) : n * xx * D * (1 - (sw / n - xy / xx * (st / n) + xy / xx * tn)) =
    n * xx * D - D * sw * xx - D * xy * (n * tn - 1 * st) := by grind

theorem spread_scaled (hn : n ≠ 0) (hn2 : n - 2 ≠ 0) (hxx : xx ≠ 0) :
    n * xx * D * (n * xx * D) * ((n - 2) * ((yy * xx - xy * xy) / (xx * n) / (n - 2) / (xx / n))) =
      n * n * (D * D * yy * xx - D * xy * (D * xy)) := by grind

end

-- ## The sums over the samples

/-- The sum of a term over points. -/
def sumOf (p : List (Rat × Rat)) (f : Rat → Rat → Rat) : Rat := (p.map fun x => f x.1 x.2).sum

section
variable (p : List (Rat × Rat))

theorem sumOf_cons (x : Rat × Rat) (f : Rat → Rat → Rat) : sumOf (x :: p) f = f x.1 x.2 + sumOf p f := rfl

/-- The sum of a product of affine terms, by the five plain sums. -/
theorem sumOf_mul (a b c a' b' c' : Rat) :
    sumOf p (fun t w => (a + b * t + c * w) * (a' + b' * t + c' * w)) =
      p.length * (a * a') + (a * b' + b * a') * sumOf p (fun t _ => t) + (a * c' + c * a') * sumOf p (fun _ w => w)
        + b * b' * sumOf p (fun t _ => t * t) + (b * c' + c * b') * sumOf p (fun t w => t * w) + c * c' * sumOf p (fun _ w => w * w) := by
  induction p with
  | nil =>
    simp only [sumOf, List.map_nil, List.sum_nil, List.length_nil]
    grind
  | cons x p ih =>
    simp only [sumOf_cons, ih, List.length_cons]
    rw [Rat.natCast_add]
    grind

/-- `n` times the central sums of R340. -/
def sxx : Rat := p.length * sumOf p (fun t _ => t * t) - sumOf p (fun t _ => t) * sumOf p (fun t _ => t)
/-- The same of the products. -/
def sxy : Rat := p.length * sumOf p (fun t w => t * w) - sumOf p (fun t _ => t) * sumOf p (fun _ w => w)
/-- The same of the wear fractions. -/
def sww : Rat := p.length * sumOf p (fun _ w => w * w) - sumOf p (fun _ w => w) * sumOf p (fun _ w => w)

variable {p} (hn : (p.length : Rat) ≠ 0)
include hn

theorem sumOf_central_xx : sumOf p (fun t _ => (t - sumOf p (fun t _ => t) / p.length) * (t - sumOf p (fun t _ => t) / p.length)) = sxx p / p.length := by
  have h := sumOf_mul p (-(sumOf p (fun t _ => t) / p.length)) 1 0 (-(sumOf p (fun t _ => t) / p.length)) 1 0
  refine Eq.trans (congrArg (sumOf p) (funext fun t => funext fun w => by grind)) (h.trans ?_)
  rw [sxx]
  grind

theorem sumOf_central_xy : sumOf p (fun t w => (t - sumOf p (fun t _ => t) / p.length) * (w - sumOf p (fun _ w => w) / p.length)) = sxy p / p.length := by
  have h := sumOf_mul p (-(sumOf p (fun t _ => t) / p.length)) 1 0 (-(sumOf p (fun _ w => w) / p.length)) 0 1
  refine Eq.trans (congrArg (sumOf p) (funext fun t => funext fun w => by grind)) (h.trans ?_)
  rw [sxy]
  grind

/-- The residual sum of squares of the line through the centre with slope `sxy / sxx`. -/
theorem sumOf_residual (hxx : sxx p ≠ 0) :
    let b := sxy p / sxx p
    let a := sumOf p (fun _ w => w) / p.length - b * (sumOf p (fun t _ => t) / p.length)
    sumOf p (fun t w => (w - a - b * t) * (w - a - b * t)) = (sww p * sxx p - sxy p * sxy p) / (sxx p * p.length) := by
  intro b a
  have h := sumOf_mul p (-a) (-b) 1 (-a) (-b) 1
  refine Eq.trans (congrArg (sumOf p) (funext fun t => funext fun w => by grind)) (h.trans ?_)
  have hb : b * sxx p = sxy p := Rat.div_mul_cancel hxx
  have ha : p.length * a = sumOf p (fun _ w => w) - b * sumOf p (fun t _ => t) := by
    grind
  have hscaled := residual_scaled (xx := sxx p) (xy := sxy p) (yy := sww p) hb ha rfl rfl rfl
  rw [← hscaled, Rat.mul_div_cancel fun h0 => (Rat.mul_eq_zero.mp h0).elim hxx hn]

end

-- ## The model's integers

/-- The common denominator of the wear fractions. -/
def commonDen (l : List (Nat × Nat × Nat)) : Nat := l.foldl (fun d x => Nat.lcm d x.2.2) 1

/-- The samples with their wear in units of the common denominator. -/
def scaledPts (l : List (Nat × Nat × Nat)) : List (Int × Int) :=
  l.map fun x => ((x.1 : Int), ((x.2.1 * (commonDen l / x.2.2) : Nat) : Int))

/-- The samples as R340 has them. -/
def samplePts (l : List (Nat × Nat × Nat)) : List (Rat × Rat) := l.map fun x => ((x.1 : Rat), (x.2.1 : Rat) / x.2.2)

/-- The sum of a term over the model's points. -/
def intSum (p : List (Int × Int)) (f : Int → Int → Int) : Int := p.foldl (fun a x => a + f x.1 x.2) 0

theorem eolEstimate_eq (l : List (Nat × Nat × Nat)) : eolEstimate l =
    if l.length < 7 then (0xFFFF, 0xFFFF, 0xFFFF)
    else
      let p := scaledPts l
      let n : Int := l.length
      let St := intSum p fun t _ => t
      let Sw := intSum p fun _ w => w
      let Sxx := n * intSum p (fun t _ => t * t) - St * St
      let Sxy := n * intSum p (fun t w => t * w) - St * Sw
      let Sww := n * intSum p (fun _ w => w * w) - Sw * Sw
      let tn := (l.getLast?.map fun x => (x.1 : Int)).getD 0
      eolFrom n Sxy (Sww * Sxx - Sxy * Sxy) (n * Sxx * commonDen l - Sw * Sxx - Sxy * (n * tn - St)) := rfl

theorem dvd_foldl_lcm {l : List (Nat × Nat × Nat)} (d : Nat) :
    d ∣ l.foldl (fun d x => Nat.lcm d x.2.2) d ∧ ∀ x ∈ l, x.2.2 ∣ l.foldl (fun d x => Nat.lcm d x.2.2) d := by
  induction l generalizing d with
  | nil => exact ⟨Nat.dvd_refl _, fun x hx => absurd hx List.not_mem_nil⟩
  | cons y l ih =>
    obtain ⟨h, h'⟩ := ih (Nat.lcm d y.2.2)
    refine ⟨Nat.dvd_trans (Nat.dvd_lcm_left ..) h, fun x hx => ?_⟩
    rcases List.mem_cons.mp hx with rfl | hx
    · exact Nat.dvd_trans (Nat.dvd_lcm_right ..) h
    · exact h' x hx

theorem foldl_lcm_pos {l : List (Nat × Nat × Nat)} (hl : ∀ x ∈ l, x.2.2 ≠ 0) {d : Nat} (hd : 0 < d) :
    0 < l.foldl (fun d x => Nat.lcm d x.2.2) d := by
  induction l generalizing d with
  | nil => exact hd
  | cons y l ih =>
    exact ih (fun x hx => hl x (List.mem_cons_of_mem _ hx)) (Nat.lcm_pos hd (Nat.pos_of_ne_zero (hl y List.mem_cons_self)))

section
variable {l : List (Nat × Nat × Nat)} (hl : ∀ x ∈ l, x.2.2 ≠ 0)
include hl

theorem commonDen_pos : 0 < commonDen l := foldl_lcm_pos hl Nat.one_pos

theorem scaledPts_eq : (scaledPts l).map (fun x => ((x.1 : Rat), (x.2 : Rat))) = (samplePts l).map fun x => (x.1, (commonDen l : Rat) * x.2) := by
  unfold scaledPts samplePts
  rw [List.map_map, List.map_map]
  refine List.map_congr_left fun x hx => ?_
  obtain ⟨k, hk⟩ : x.2.2 ∣ commonDen l := (dvd_foldl_lcm (l := l) 1).2 x hx
  have h0 : (x.2.2 : Rat) ≠ 0 := fun h => hl x hx (Rat.natCast_inj.mp h)
  simp only [Function.comp_apply, hk, Nat.mul_div_cancel_left k (Nat.pos_of_ne_zero (hl x hx))]
  refine Prod.ext rfl ?_
  dsimp only
  rw [Rat.intCast_natCast, Rat.natCast_mul, Rat.natCast_mul]
  grind

end

theorem foldl_add_eq {α : Type} (l : List α) (f : α → Int) (a : Int) : l.foldl (fun a x => a + f x) a = a + (l.map f).sum := by
  induction l generalizing a with
  | nil => simp
  | cons x l ih => simp only [List.foldl_cons, ih, List.map_cons, List.sum_cons, Int.add_assoc]

theorem cast_intSum {p : List (Int × Int)} {f : Int → Int → Int} {g : Rat → Rat → Rat} (h : ∀ t w, ((f t w : Int) : Rat) = g t w) :
    (intSum p f : Rat) = sumOf (p.map fun x => ((x.1 : Rat), (x.2 : Rat))) g := by
  unfold intSum sumOf
  rw [foldl_add_eq p fun x => f x.1 x.2, Int.zero_add, List.map_map]
  induction p with
  | nil => rfl
  | cons x p ih =>
    simp only [List.map_cons, List.sum_cons, Rat.intCast_add, ih, h, Function.comp_apply]

/-- Weighing the second coordinate by `d`. -/
theorem sumOf_scale (p : List (Rat × Rat)) (d : Rat) (f : Rat → Rat → Rat) : sumOf (p.map fun x => (x.1, d * x.2)) f = sumOf p fun t w => f t (d * w) := by
  unfold sumOf
  rw [List.map_map]
  rfl

theorem sumOf_mul_left (p : List (Rat × Rat)) (d : Rat) (f : Rat → Rat → Rat) : sumOf p (fun t w => d * f t w) = d * sumOf p f := by
  induction p with
  | nil => exact (Rat.mul_zero d).symm
  | cons x p ih => rw [sumOf_cons, sumOf_cons, ih, Rat.mul_add]

section
variable {l : List (Nat × Nat × Nat)} (hl : ∀ x ∈ l, x.2.2 ≠ 0)
include hl

theorem intSum_scaledPts {f : Int → Int → Int} {g : Rat → Rat → Rat} {e : Rat → Rat} (h : ∀ t w, ((f t w : Int) : Rat) = g t w)
    (hk : ∀ d t w, g t (d * w) = e d * g t w) : (intSum (scaledPts l) f : Rat) = e (commonDen l) * sumOf (samplePts l) g := by
  rw [cast_intSum h, scaledPts_eq hl, sumOf_scale, ← sumOf_mul_left]
  exact congrArg _ (funext fun t => funext fun w => hk _ t w)

omit hl in
theorem cast_n : ((l.length : Int) : Rat) = (samplePts l).length := by
  rw [samplePts, List.length_map, Rat.intCast_natCast]

theorem cast_sxx : (((l.length : Int) * intSum (scaledPts l) (fun t _ => t * t)
    - intSum (scaledPts l) (fun t _ => t) * intSum (scaledPts l) (fun t _ => t) : Int) : Rat) = sxx (samplePts l) := by
  have h1 := intSum_scaledPts hl (f := fun t _ => t) (g := fun t _ => t) (e := fun _ => 1) (fun _ _ => rfl) (fun _ _ _ => by grind)
  have h2 := intSum_scaledPts hl (f := fun t _ => t * t) (g := fun t _ => t * t) (e := fun _ => 1) (fun _ _ => Rat.intCast_mul ..) (fun _ _ _ => by grind)
  rw [Rat.intCast_sub, Rat.intCast_mul, Rat.intCast_mul, cast_n, h1, h2, sxx]
  grind

theorem cast_sxy : (((l.length : Int) * intSum (scaledPts l) (fun t w => t * w)
    - intSum (scaledPts l) (fun t _ => t) * intSum (scaledPts l) (fun _ w => w) : Int) : Rat) = commonDen l * sxy (samplePts l) := by
  have h1 := intSum_scaledPts hl (f := fun t _ => t) (g := fun t _ => t) (e := fun _ => 1) (fun _ _ => rfl) (fun _ _ _ => by grind)
  have h2 := intSum_scaledPts hl (f := fun _ w => w) (g := fun _ w => w) (e := fun d => d) (fun _ _ => rfl) (fun _ _ _ => by grind)
  have h3 := intSum_scaledPts hl (f := fun t w => t * w) (g := fun t w => t * w) (e := fun d => d) (fun _ _ => Rat.intCast_mul ..) (fun _ _ _ => by grind)
  rw [Rat.intCast_sub, Rat.intCast_mul, Rat.intCast_mul, cast_n, h1, h2, h3, sxy]
  grind

theorem cast_sww : (((l.length : Int) * intSum (scaledPts l) (fun _ w => w * w)
    - intSum (scaledPts l) (fun _ w => w) * intSum (scaledPts l) (fun _ w => w) : Int) : Rat) = commonDen l * commonDen l * sww (samplePts l) := by
  have h1 := intSum_scaledPts hl (f := fun _ w => w) (g := fun _ w => w) (e := fun d => d) (fun _ _ => rfl) (fun _ _ _ => by grind)
  have h2 := intSum_scaledPts hl (f := fun _ w => w * w) (g := fun _ w => w * w) (e := fun d => d * d) (fun _ _ => Rat.intCast_mul ..) (fun _ _ _ => by grind)
  rw [Rat.intCast_sub, Rat.intCast_mul, Rat.intCast_mul, cast_n, h1, h2, sww]
  grind

end

-- ## The sums are positive

theorem sumOf_nonneg (p : List (Rat × Rat)) {f : Rat → Rat → Rat} (h : ∀ t w, 0 ≤ f t w) : 0 ≤ sumOf p f := by
  induction p with
  | nil => exact Rat.le_refl
  | cons x p ih =>
    rw [sumOf_cons]
    exact Rat.add_nonneg (h ..) ih

theorem le_sumOf {p : List (Rat × Rat)} {f : Rat → Rat → Rat} (h : ∀ t w, 0 ≤ f t w) {x : Rat × Rat} (hx : x ∈ p) : f x.1 x.2 ≤ sumOf p f := by
  induction p with
  | nil => exact absurd hx List.not_mem_nil
  | cons y p ih =>
    rw [sumOf_cons]
    have hy := h y.1 y.2
    have hp := sumOf_nonneg p h
    rcases List.mem_cons.mp hx with rfl | hx
    · grind
    · have hle := ih hx
      grind

/-- Two different days leave a positive spread of the days. -/
theorem sxx_pos {p : List (Rat × Rat)} {x y : Rat × Rat} (hx : x ∈ p) (hy : y ∈ p) (hxy : x.1 ≠ y.1) : 0 < sxx p := by
  have hn : (0 : Rat) < p.length := Rat.natCast_pos.mpr (List.length_pos_of_mem hx)
  have hcentral := sumOf_central_xx (Rat.ne_of_gt hn)
  have hbound {z : Rat × Rat} (hz : z ∈ p) := le_sumOf (p := p)
    (f := fun t _ => (t - sumOf p (fun t _ => t) / p.length) * (t - sumOf p (fun t _ => t) / p.length)) (fun t _ => rat_mul_self_nonneg _) hz
  rw [hcentral] at hbound
  have hpos : 0 < sxx p / p.length := by
    by_cases h : x.1 = sumOf p (fun t _ => t) / p.length
    · have hne : y.1 - sumOf p (fun t _ => t) / p.length ≠ 0 := by grind
      exact Std.lt_of_lt_of_le (rat_mul_self_pos hne) (hbound hy)
    · have hne : x.1 - sumOf p (fun t _ => t) / p.length ≠ 0 := by grind
      exact Std.lt_of_lt_of_le (rat_mul_self_pos hne) (hbound hx)
  rwa [Rat.lt_div_iff hn, Rat.zero_mul] at hpos

/-- The inequality of Cauchy and Schwarz for the sums, from the residual of the line. -/
theorem spread_nonneg {p : List (Rat × Rat)} (hn : (0 : Rat) < p.length) (hxx : 0 < sxx p) : 0 ≤ sww p * sxx p - sxy p * sxy p := by
  have h := sumOf_residual (Rat.ne_of_gt hn) (Rat.ne_of_gt hxx)
  dsimp only at h
  have hres := sumOf_nonneg p (f := fun t w =>
    (w - (sumOf p (fun _ w => w) / p.length - sxy p / sxx p * (sumOf p (fun t _ => t) / p.length)) - sxy p / sxx p * t)
      * (w - (sumOf p (fun _ w => w) / p.length - sxy p / sxx p * (sumOf p (fun t _ => t) / p.length)) - sxy p / sxx p * t))
    fun t w => rat_mul_self_nonneg _
  rw [h] at hres
  exact Rat.not_lt.mp fun hneg => Rat.not_lt.mpr hres ((Rat.div_lt_iff (Rat.mul_pos hxx hn)).mpr (by rwa [Rat.zero_mul]))

theorem sxx_samplePts_pos {l : List (Nat × Nat × Nat)} (hp : l.Pairwise fun x y => x.1 < y.1) (h7 : 7 ≤ l.length) : 0 < sxx (samplePts l) := by
  match l, h7 with
  | x :: y :: l, _ =>
    have hlt : x.1 < y.1 := (List.pairwise_cons.mp hp).1 y List.mem_cons_self
    refine sxx_pos (List.mem_map.mpr ⟨x, List.mem_cons_self, rfl⟩)
      (List.mem_map.mpr ⟨y, List.mem_cons_of_mem _ List.mem_cons_self, rfl⟩) fun h => ?_
    have h' : x.1 = y.1 := Rat.natCast_inj.mp h
    omega

/-- The estimate follows R340. -/
theorem eolRule_eolEstimate {l : List (Nat × Nat × Nat)} (hl : ∀ x ∈ l, x.2.2 ≠ 0) (hp : l.Pairwise fun x y => x.1 < y.1) :
    EolRule l (eolEstimate l) := by
  unfold EolRule
  intro sum n tbar wbar sxx' b a se2 left
  rw [eolEstimate_eq]
  refine ⟨fun h => if_pos h, fun h7 => ?_⟩
  rw [if_neg (Nat.not_lt.mpr h7)]
  have hsum (f : Rat → Rat → Rat) : sum f = sumOf (samplePts l) f := by
    simp only [sum, sumOf, samplePts, List.map_map]
    rfl
  have hnP : n = (samplePts l).length := by simp only [n, samplePts, List.length_map]
  have hxx := sxx_samplePts_pos hp h7
  have hn0 : (0 : Rat) < (samplePts l).length := by
    rw [← hnP]
    exact Rat.natCast_pos.mpr (by omega)
  have hn2 : (samplePts l).length - (2 : Rat) ≠ 0 := by
    rw [← hnP]
    have h : (7 : Rat) ≤ n := Rat.natCast_le_natCast.mpr h7
    grind
  have hD : (0 : Rat) < commonDen l := Rat.natCast_pos.mpr (commonDen_pos hl)
  have hb : b = sxy (samplePts l) / sxx (samplePts l) := by
    simp only [b, sxx', tbar, wbar, hsum, hnP, sumOf_central_xx (Rat.ne_of_gt hn0), sumOf_central_xy (Rat.ne_of_gt hn0)]
    grind
  have hse : se2 = (sww (samplePts l) * sxx (samplePts l) - sxy (samplePts l) * sxy (samplePts l)) / (sxx (samplePts l) * (samplePts l).length)
      / ((samplePts l).length - 2) / (sxx (samplePts l) / (samplePts l).length) := by
    have hres := sumOf_residual (Rat.ne_of_gt hn0) (Rat.ne_of_gt hxx)
    dsimp only at hres
    simp only [se2, a, hb]
    simp only [sxx', tbar, wbar, hsum, hnP, sumOf_central_xx (Rat.ne_of_gt hn0), hres]
  have hnewest : ((l.getLast?.map fun x => (x.1 : Int)).getD 0 : Int) = ((l.getLast?.map (·.1)).getD 0 : Nat) := by
    cases l.getLast? <;> rfl
  have hxxc := cast_sxx hl
  have hxyc := cast_sxy hl
  have hwwc := cast_sww hl
  have hnc := cast_n (l := l)
  have htc := intSum_scaledPts hl (f := fun t _ => t) (g := fun t _ => t) (e := fun _ => 1) (fun _ _ => rfl) (fun _ _ _ => by grind)
  have hwc := intSum_scaledPts hl (f := fun _ w => w) (g := fun _ w => w) (e := fun d => d) (fun _ _ => rfl) (fun _ _ _ => by grind)
  dsimp only
  rw [hnewest]
  generalize (l.length : Int) * intSum (scaledPts l) (fun t _ => t * t) - _ = Sxx at hxxc ⊢
  generalize (l.length : Int) * intSum (scaledPts l) (fun t w => t * w) - _ = Sxy at hxyc ⊢
  generalize (l.length : Int) * intSum (scaledPts l) (fun _ w => w * w) - _ = Sww at hwwc ⊢
  refine eolFrom_predicts (c := (samplePts l).length * sxx (samplePts l) * commonDen l) (by omega)
    (Rat.mul_pos (Rat.mul_pos hn0 hxx) hD) ?_ ?_ ?_ ?_
  · rw [hxyc, hnc, hb]
    exact slope_scaled (Rat.ne_of_gt hxx)
  · simp only [left, a, hb, tbar, wbar, hsum, hnP]
    push_cast at hnc ⊢
    rw [hxxc, hxyc, hnc, htc, hwc]
    exact left_scaled (Rat.ne_of_gt hn0) (Rat.ne_of_gt hxx)
  · push_cast at hnc ⊢
    rw [hxxc, hxyc, hwwc, hnc, hse]
    exact spread_scaled (Rat.ne_of_gt hn0) hn2 (Rat.ne_of_gt hxx)
  · have hV : (0 : Rat) ≤ commonDen l * commonDen l * (sww (samplePts l) * sxx (samplePts l) - sxy (samplePts l) * sxy (samplePts l)) :=
      Rat.mul_nonneg (rat_mul_self_nonneg _) (spread_nonneg hn0 hxx)
    have hcast : ((Sww * Sxx - Sxy * Sxy : Int) : Rat) = commonDen l * commonDen l * (sww (samplePts l) * sxx (samplePts l) - sxy (samplePts l) * sxy (samplePts l)) := by
      push_cast
      rw [hxxc, hxyc, hwwc]
      grind
    exact_mod_cast hcast ▸ hV

end Sys2Proof.Machine

/-! PROOFS. Health measurements, the end of a powered day, predictions and the I3C target (O52). -/

namespace Sys2Proof.Machine

-- ## Changing indicators one after another

/-- The state with the indicators `T`. -/
def withInds (s : State) (T : Tab Indicator) : State := s.updHlt fun H => { H with inds := T }

theorem foldNat_updInd {e : Nat → Nat} {g : State → Nat → Indicator → Indicator} (hg : ∀ s T i, g (withInds s T) i = g s i) (l : List Nat) (s : State) :
    foldNat l (fun i s => s.updInd (e i) (g s i)) s = withInds s (l.foldl (fun T i => Tab.upd {} T (e i) (g s i)) s.hlt.inds) := by
  suffices h : ∀ T, l.foldl (fun (s : State) i => s.updInd (e i) (g s i)) (withInds s T) =
      withInds s (l.foldl (fun T i => Tab.upd {} T (e i) (g s i)) T) from h s.hlt.inds
  induction l with
  | nil => exact fun T => rfl
  | cons i l ih =>
    intro T
    rw [List.foldl_cons, List.foldl_cons, ← ih]
    refine congrArg (fun t => l.foldl _ t) ?_
    rw [hg]
    rfl

section
variable {α : Type} {d : α} {e : Nat → Nat} {f : Nat → α → α}

theorem get_foldl_upd_out {l : List Nat} {k : Nat} (h : ∀ i ∈ l, e i ≠ k) (T : Tab α) :
    Tab.get d (l.foldl (fun T i => Tab.upd d T (e i) (f i)) T) k = Tab.get d T k := by
  induction l generalizing T with
  | nil => rfl
  | cons i l ih =>
    rw [List.foldl_cons, ih fun j hj => h j (List.mem_cons_of_mem _ hj), Tab.get_upd_ne _ _ _ (h i List.mem_cons_self).symm]

theorem get_foldl_upd_in {l : List Nat} (hl : (l.map e).Nodup) {i : Nat} (hi : i ∈ l) (T : Tab α) :
    Tab.get d (l.foldl (fun T i => Tab.upd d T (e i) (f i)) T) (e i) = f i (Tab.get d T (e i)) := by
  induction l generalizing T with
  | nil => exact absurd hi List.not_mem_nil
  | cons j l ih =>
    rw [List.map_cons, List.nodup_cons] at hl
    rw [List.foldl_cons]
    rcases List.mem_cons.mp hi with rfl | hi'
    · rw [get_foldl_upd_out fun j hj he => hl.1 (List.mem_map.mpr ⟨j, hj, he⟩), Tab.get_upd_same]
    · have hne : e i ≠ e j := fun he => hl.1 (List.mem_map.mpr ⟨i, hi', he⟩)
      rw [ih hl.2 hi', Tab.get_upd_ne _ _ _ hne]

end

-- ## The indicators of a part

theorem mem_indicators {s : State} {k : Nat} : k ∈ indicators s ↔
    (k < 64 ∧ quadPresent s k = true) ∨ (64 ≤ k ∧ k < 128 ∧ slicePresent s (k - 64) = true) ∨
      (128 ≤ k ∧ k < 146 ∧ (k < 130 ∨ caskPresent s (k - 130) = true)) := by
  unfold indicators
  simp only [List.mem_append, List.mem_filter, List.mem_range, List.mem_map, Bool.or_eq_true, decide_eq_true_eq, or_assoc]
  refine or_congr Iff.rfl (or_congr ⟨?_, fun ⟨h, h', hp⟩ => ⟨k - 64, ⟨by omega, hp⟩, by omega⟩⟩
    ⟨?_, fun ⟨h, h', hp⟩ => ⟨k - 128, ⟨by omega, hp.imp (by omega) fun hc => ?_⟩, by omega⟩⟩)
  · rintro ⟨n, ⟨hn, hp⟩, rfl⟩
    rw [Nat.add_sub_cancel_left]
    exact ⟨by omega, by omega, hp⟩
  · rintro ⟨n, ⟨hn, hp⟩, rfl⟩
    refine ⟨by omega, by omega, hp.imp (by omega) fun hc => ?_⟩
    rwa [show 128 + n - 130 = n - 2 by omega]
  · rwa [show k - 128 - 2 = k - 130 by omega]

theorem nodup_indicators (s : State) : (indicators s).Nodup := by
  have hrange (n : Nat) (p : Nat → Bool) : ((List.range n).filter p).Nodup := List.nodup_range.filter p
  have hmap (c n : Nat) (p : Nat → Bool) : (((List.range n).filter p).map (c + ·)).Nodup := 
    List.Pairwise.map _ (fun a b hne h => hne (Nat.add_left_cancel h)) (hrange n p)
  refine List.nodup_append.mpr ⟨List.nodup_append.mpr ⟨hrange 64 _, hmap 64 64 _, fun j hj k hk => ?_⟩, hmap 128 18 _, fun j hj k hk => ?_⟩
  · simp only [List.mem_filter, List.mem_range, List.mem_map] at hj hk
    omega
  · simp only [List.mem_append, List.mem_filter, List.mem_range, List.mem_map] at hj hk
    omega

-- ## The end of a powered day

/-- The indicators once each slice has taken the day's corrected lines. -/
def slicesRead (s : State) : State := foldNat ((List.range 64).filter (slicePresent s)) (fun n s => sliceValue s n) s

/-- A slice indicator with the day's corrected lines. -/
def sliceRead (s : State) (n : Nat) (I : Indicator) : Indicator :=
  { I with value := I.ceCarry + (sliceCe s n - I.ceBase), ceBase := sliceCe s n, ceCarry := 0, measured := true }

/-- The state with every indicator sampled for a day. -/
def sampled (s : State) (day : Nat) : State := foldNat (indicators s) (fun i s => s.updInd i (sampleInd s day i)) s

section
variable (s : State)

theorem slicesRead_eq : ∃ T, slicesRead s = withInds s T := ⟨_, foldNat_updInd (e := (64 + ·)) (g := sliceRead) (fun _ _ _ => rfl) _ s⟩

theorem sampled_eq (day : Nat) : ∃ T, sampled s day = withInds s T :=
  ⟨_, foldNat_updInd (e := id) (g := fun s i => sampleInd s day i) (fun _ _ _ => rfl) _ s⟩

theorem ind_withInds (T : Tab Indicator) (k : Nat) : (withInds s T).hlt.ind k = Tab.get {} T k := rfl

variable {s} {k : Nat}

theorem ind_slicesRead_slice (h : 64 ≤ k) (h' : k < 128) (hp : slicePresent s (k - 64) = true) :
    (slicesRead s).hlt.ind k = sliceRead s (k - 64) (s.hlt.ind k) := by
  obtain ⟨n, rfl⟩ := Nat.exists_eq_add_of_le h
  rw [Nat.add_sub_cancel_left] at hp ⊢
  unfold slicesRead
  refine (congrArg (fun t : State => t.hlt.ind (64 + n)) (foldNat_updInd (e := (64 + ·)) (g := sliceRead) (fun _ _ _ => rfl) _ s)).trans ?_
  exact get_foldl_upd_in (e := (64 + ·)) (List.Pairwise.map _ (fun a b hne h => hne (Nat.add_left_cancel h)) (List.nodup_range.filter _))
    (List.mem_filter.mpr ⟨List.mem_range.mpr (by omega), hp⟩) _

theorem ind_slicesRead_other (h : ¬(64 ≤ k ∧ k < 128)) : (slicesRead s).hlt.ind k = s.hlt.ind k := by
  unfold slicesRead
  refine (congrArg (fun t : State => t.hlt.ind k) (foldNat_updInd (e := (64 + ·)) (g := sliceRead) (fun _ _ _ => rfl) _ s)).trans ?_
  refine get_foldl_upd_out (e := (64 + ·)) (fun n hn he => h ?_) _
  have := List.mem_range.mp (List.mem_filter.mp hn).1
  omega

theorem ind_sampled {day : Nat} (h : k ∈ indicators s) : (sampled s day).hlt.ind k = sampleInd s day k (s.hlt.ind k) := by
  unfold sampled
  refine (congrArg (fun t : State => t.hlt.ind k) (foldNat_updInd (e := id) (g := fun s i => sampleInd s day i) (fun _ _ _ => rfl) _ s)).trans ?_
  exact get_foldl_upd_in (e := id) (by rw [List.map_id]; exact nodup_indicators s) h _

end

/-- The state at the end of a day with the samples and the device summary, before its events. -/
def daySampled (s : State) : State :=
  seqUpdate s fun t => deviceSummary ((sampled (slicesRead t) (s.hlt.days + 1)).updHlt fun H => { H with
    days := s.hlt.days + 1, caskEol := caskEol (sampled (slicesRead t) (s.hlt.days + 1)) })

/-- An indicator that reached its limit on a day is noted. -/
def noteLimit (day : Nat) (s : State) (i : Nat) : State :=
  if ((s.hlt.ind i).history.getLast?.map (·.day)) == some day && (s.hlt.ind i).den ≤ (s.hlt.ind i).num then
    healthEvent (s.updHlt fun H => { H with atLimit := true }) 19
  else s

theorem dayEnd_eq (s : State) : dayEnd s =
    storeLog (deviceThresholds (foldNat (indicators (daySampled s)) (fun i t => noteLimit (s.hlt.days + 1) t i) (daySampled s))) := rfl

-- ## The events of a day's end

/-- The event of the health block waits in its source. -/
def HealthPending (s : State) : Prop := (s.evSrc 1220).pending = true

section
variable {s t : State}

theorem told_healthEvent (s : State) (c : Nat) : Told s (healthEvent s c) := by
  unfold healthEvent
  split
  · exact Told.raiseGlobal ..
  · exact Told.refl s

theorem healthEvent_pending (h : s.hlt.ctl.getLsbD 0 = true) (c : Nat) : HealthPending (healthEvent s c) := by
  unfold healthEvent
  rw [if_pos h]
  exact raise_pending ..

theorem pending_healthEvent (h : HealthPending s) (c : Nat) : HealthPending (healthEvent s c) := by
  unfold healthEvent
  split
  · exact raise_pending ..
  · exact h

/-- State `t` is `s` with indicators noted at their limit, and their events. -/
def Noted (s t : State) : Prop := ∃ b, Told (s.updHlt fun H => { H with atLimit := b }) t

theorem Noted.refl (s : State) : Noted s s := ⟨s.hlt.atLimit, Told.refl s⟩

theorem Noted.ind (h : Noted s t) (k : Nat) : t.hlt.ind k = s.hlt.ind k := by
  obtain ⟨b, hT⟩ := h
  rw [hT.hlt]
  rfl

theorem Noted.ctl (h : Noted s t) : t.hlt.ctl = s.hlt.ctl := by
  obtain ⟨b, hT⟩ := h
  rw [hT.hlt]
  rfl

theorem Noted.setLimit (h : Noted s t) : Noted s (t.updHlt fun H => { H with atLimit := true }) := by
  obtain ⟨b, ⟨m, v, P, rfl⟩, hp⟩ := h
  exact ⟨true, ⟨m, v, P, rfl⟩, hp⟩

theorem Noted.noteLimit (h : Noted s t) (day i : Nat) : Noted s (noteLimit day t i) := by
  unfold Machine.noteLimit
  split
  · obtain ⟨b, hT⟩ := h.setLimit
    exact ⟨b, hT.trans (told_healthEvent ..)⟩
  · exact h

/-- What one indicator at its limit leaves. -/
def LimitTold (s : State) : Prop := s.hlt.atLimit = true ∧ (s.hlt.ctl.getLsbD 0 = true → HealthPending s)

theorem limitTold_healthEvent (h : s.hlt.atLimit = true) (c : Nat) : LimitTold (healthEvent s c) := by
  unfold LimitTold
  rw [(told_healthEvent s c).hlt]
  exact ⟨h, fun hc => healthEvent_pending hc c⟩

theorem LimitTold.noteLimit (h : LimitTold s) (day i : Nat) : LimitTold (noteLimit day s i) := by
  unfold Machine.noteLimit
  split
  · exact limitTold_healthEvent rfl _
  · exact h

/-- The events of a list of indicators. -/
def noteLimits (day : Nat) (l : List Nat) (s : State) : State := foldNat l (fun i t => Machine.noteLimit day t i) s

theorem noted_noteLimits (day : Nat) (l : List Nat) (s : State) : Noted s (noteLimits day l s) :=
  foldl_keeps l s (Noted.refl s) fun _ i h => h.noteLimit day i

theorem limitTold_noteLimits {day k : Nat} {l : List Nat} (hk : k ∈ l) (hday : (s.hlt.ind k).history.getLast?.map (·.day) = some day)
    (hlim : (s.hlt.ind k).den ≤ (s.hlt.ind k).num) : LimitTold (noteLimits day l s) := by
  obtain ⟨l₁, l₂, rfl⟩ := List.append_of_mem hk
  unfold noteLimits foldNat
  rw [List.foldl_append, List.foldl_cons]
  have hind := (noted_noteLimits day l₁ s).ind k
  refine foldl_keeps l₂ _ ?_ fun _ i h => h.noteLimit day i
  have hnote : noteLimit day (noteLimits day l₁ s) k = healthEvent ((noteLimits day l₁ s).updHlt fun H => { H with atLimit := true }) 19 := by
    unfold noteLimit
    rw [hind, hday]
    exact if_pos (by simpa using hlim)
  change LimitTold (noteLimit day (noteLimits day l₁ s) k)
  rw [hnote]
  exact limitTold_healthEvent rfl 19

/-- The health block with the thresholds of causes 16 to 18 armed anew. -/
def Hlt.armedAnew (H : Hlt) : Hlt :=
  let a := threshold H.armed16 H.devEarly 180
  let b := threshold H.armed17 H.devEarly 90
  let c := threshold H.armed18 H.devEarly 30
  { H with armed16 := a.1, armed17 := b.1, armed18 := c.1, devLevel := BitVec.ofNat 2 (b2n (!a.1) + b2n (!b.1) + b2n (!c.1)) }

theorem deviceThresholds_eq (s : State) : deviceThresholds s =
    [((threshold s.hlt.armed16 s.hlt.devEarly 180).2, 16), ((threshold s.hlt.armed17 s.hlt.devEarly 90).2, 17),
      ((threshold s.hlt.armed18 s.hlt.devEarly 30).2, 18)].foldl (fun s x => if x.1 then healthEvent s x.2 else s) (s.updHlt Hlt.armedAnew) := rfl

/-- Events of a list of causes, each where it is due. -/
theorem told_events (l : List (Bool × Nat)) (s : State) : Told s (l.foldl (fun s x => if x.1 then healthEvent s x.2 else s) s) :=
  foldl_keeps l s (Told.refl s) fun t x h => by
    split
    · exact h.trans (told_healthEvent ..)
    · exact h

theorem pending_events (l : List (Bool × Nat)) (h : HealthPending s) : HealthPending (l.foldl (fun s x => if x.1 then healthEvent s x.2 else s) s) :=
  foldl_keeps l s h fun t x h => by
    split
    · exact pending_healthEvent h _
    · exact h

theorem events_pending {l : List (Bool × Nat)} {c : Nat} (hc : (true, c) ∈ l) (h : s.hlt.ctl.getLsbD 0 = true) :
    HealthPending (l.foldl (fun s x => if x.1 then healthEvent s x.2 else s) s) := by
  obtain ⟨l₁, l₂, rfl⟩ := List.append_of_mem hc
  rw [List.foldl_append, List.foldl_cons, if_pos rfl]
  refine pending_events l₂ (healthEvent_pending ?_ c)
  rw [(told_events l₁ s).hlt]
  exact h

theorem threshold_eq (armed : Bool) (early d : Nat) :
    threshold armed early d = (if early ≤ d then false else armed || decide (d + 30 < early), decide (early ≤ d) && armed) := by
  unfold threshold
  by_cases h : early ≤ d
  · simp [h]
  · simp [h]

theorem told_deviceThresholds (s : State) : Told (s.updHlt Hlt.armedAnew) (deviceThresholds s) := told_events ..

theorem deviceThresholds_pending (h : s.hlt.ctl.getLsbD 0 = true)
    (hd : s.hlt.armed16 = true ∧ s.hlt.devEarly ≤ 180 ∨ s.hlt.armed17 = true ∧ s.hlt.devEarly ≤ 90 ∨ s.hlt.armed18 = true ∧ s.hlt.devEarly ≤ 30) :
    HealthPending (deviceThresholds s) := by
  rw [deviceThresholds_eq, threshold_eq, threshold_eq, threshold_eq]
  rcases hd with ⟨ha, he⟩ | ⟨ha, he⟩ | ⟨ha, he⟩
  · exact events_pending (c := 16) (by simp [ha, he]) h
  · exact events_pending (c := 17) (by simp [ha, he]) h
  · exact events_pending (c := 18) (by simp [ha, he]) h

theorem storeLog_hlt (s : State) : ∃ L, (storeLog s).hlt = { s.hlt with log := L } ∧
    (s.hlt.ctl.getLsbD 1 = true → L.present = true ∧ L.hist = s.hlt.inds) ∧ (s.hlt.ctl.getLsbD 1 = false → L = s.hlt.log) := by
  unfold storeLog
  cases h : s.hlt.ctl.getLsbD 1 with
  | false => exact ⟨s.hlt.log, rfl, nofun, fun _ => rfl⟩
  | true => exact ⟨_, rfl, fun _ => ⟨rfl, rfl⟩, nofun⟩

theorem storeLog_evt (s : State) : (storeLog s).evt = s.evt := by
  unfold storeLog
  split
  · rfl
  · rfl

end

-- ## What the end of a day leaves

/-- The value that the day's sample of an indicator takes. -/
def dayValue (s : State) (k : Nat) : Nat :=
  if 64 ≤ k ∧ k < 128 then (s.hlt.ind k).ceCarry + (sliceCe s (k - 64) - (s.hlt.ind k).ceBase) else (s.hlt.ind k).value

/-- The wear fraction of the day's sample. -/
def dayWear (s : State) (k : Nat) : Nat × Nat :=
  if k < 64 then (dayValue s k, 60000) else if k < 128 then (dayValue s k, s.hlt.ceLimit.toNat)
  else if (s.hlt.ind k).m0.getD (dayValue s k) ≤ 50 then (1, 1)
  else ((s.hlt.ind k).m0.getD (dayValue s k) - dayValue s k, (s.hlt.ind k).m0.getD (dayValue s k) - 50)

section
variable {s : State} {k : Nat}

theorem sampled_slicesRead (s : State) (day : Nat) : ∃ T, sampled (slicesRead s) day = withInds s T ∧
    ∀ k ∈ indicators s, Tab.get {} T k = sampleInd s day k ((slicesRead s).hlt.ind k) := by
  obtain ⟨T, hT⟩ := slicesRead_eq s
  have hmem {k : Nat} (h : k ∈ indicators s) : k ∈ indicators (slicesRead s) := by
    rw [hT]
    exact h
  have hind {k : Nat} (h : k ∈ indicators s) := ind_sampled (day := day) (hmem h)
  rw [hT] at hind ⊢
  obtain ⟨T', hT'⟩ := sampled_eq (withInds s T) day
  rw [hT'] at hind ⊢
  exact ⟨T', rfl, fun k hk => hind hk⟩

/-- A day's end before its events, by the indicators `T` of the day and the earliest prediction `c` of a cask. -/
theorem daySampled_eq (s : State) : ∃ T c, daySampled s = seqUpdate s (fun s => deviceSummary (s.updHlt fun H => { H with
      inds := T, days := H.days + 1, caskEol := c })) ∧
    ∀ k ∈ indicators s, Tab.get {} T k = sampleInd s (s.hlt.days + 1) k ((slicesRead s).hlt.ind k) := by
  obtain ⟨T, hT, hind⟩ := sampled_slicesRead s (s.hlt.days + 1)
  refine ⟨T, caskEol (withInds s T), ?_, hind⟩
  unfold daySampled seqUpdate
  dsimp only
  rw [hT]
  rfl

theorem sampleInd_other (hs : ¬(64 ≤ k ∧ k < 128)) (hm : (s.hlt.ind k).measured = false) (day : Nat) :
    sampleInd s day k ((slicesRead s).hlt.ind k) = s.hlt.ind k := by
  rw [ind_slicesRead_other hs]
  exact if_pos (by simp [hm])

/-- What the sample of a day makes of an indicator whose value is the day's. -/
theorem sampleInd_measured (I : Indicator) (day : Nat) (hm : I.measured = true) :
    sampleInd s day k I =
      let l := I.history ++ [{ day := day, num := (wearOf s k I).1, den := (wearOf s k I).2 }]
      Indicator.predict { I with
        num := (wearOf s k I).1, den := (wearOf s k I).2, history := l.drop (l.length - 30), m0 := I.m0.or (some I.value), measured := false } :=
  if_neg (by simp [hm])

/-- The indicator as the day's sample finds it. -/
theorem ind_slicesRead (h : k ∈ indicators s) (hm : (64 ≤ k ∧ k < 128) ∨ (s.hlt.ind k).measured = true) :
    ((slicesRead s).hlt.ind k).measured = true ∧ ((slicesRead s).hlt.ind k).value = dayValue s k ∧
      ((slicesRead s).hlt.ind k).history = (s.hlt.ind k).history ∧ ((slicesRead s).hlt.ind k).m0 = (s.hlt.ind k).m0 := by
  by_cases hs : 64 ≤ k ∧ k < 128
  · have hp : slicePresent s (k - 64) = true := by
      rcases mem_indicators.mp h with h | h | h
      · omega
      · exact h.2.2
      · omega
    rw [ind_slicesRead_slice hs.1 hs.2 hp, dayValue, if_pos hs]
    exact ⟨rfl, rfl, rfl, rfl⟩
  · rw [ind_slicesRead_other hs, dayValue, if_neg hs]
    exact ⟨hm.resolve_left hs, rfl, rfl, rfl⟩

theorem wearOf_day {I : Indicator} (hv : I.value = dayValue s k) (hm : I.m0 = (s.hlt.ind k).m0) : wearOf s k I = dayWear s k := by
  unfold wearOf dayWear
  rw [hv, hm]
  rfl

/-- The sample of a day, in the terms of the state that it began in. -/
theorem sampleInd_day (h : k ∈ indicators s) (hm : (64 ≤ k ∧ k < 128) ∨ (s.hlt.ind k).measured = true) (day : Nat) :
    let J := sampleInd s day k ((slicesRead s).hlt.ind k)
    let l := (s.hlt.ind k).history ++ [{ day := day, num := (dayWear s k).1, den := (dayWear s k).2 }]
    J.history = l.drop (l.length - 30) ∧ (J.num, J.den) = dayWear s k ∧ J.m0 = some ((s.hlt.ind k).m0.getD (dayValue s k)) ∧ J.measured = false ∧
      (J.eol, J.early, J.late) = eolEstimate (J.history.map fun x => (x.day, x.num, x.den)) := by
  obtain ⟨hmeas, hval, hhist, hm0⟩ := ind_slicesRead h hm
  intro J l
  have hJ : J = _ := sampleInd_measured (s := s) (k := k) _ day hmeas
  rw [wearOf_day hval hm0, hhist, hm0, hval] at hJ
  rw [hJ]
  refine ⟨rfl, rfl, ?_, rfl, rfl⟩
  change (s.hlt.ind k).m0.or (some (dayValue s k)) = _
  cases (s.hlt.ind k).m0 <;> rfl

/-- The newest sample of a day is the day's. -/
theorem getLast?_drop_append {α : Type} (l : List α) (x : α) {n : Nat} (h : n ≤ l.length) : ((l ++ [x]).drop n).getLast? = some x := by
  rw [List.drop_append_of_le_length h, List.getLast?_append]
  rfl

end

/-- The state at a day's end once its limits are told. -/
def dayTold (s : State) : State := noteLimits (s.hlt.days + 1) (indicators (daySampled s)) (daySampled s)

/-- The health block at a day's end: the day's indicators `T` and the summary over them, the thresholds armed anew, the log `L`. -/
theorem dayEnd_hlt (s : State) : ∃ T c b L,
    let H := (deviceSummary (s.updHlt fun H => { H with inds := T, days := H.days + 1, caskEol := c })).hlt
    (dayEnd s).hlt = { Hlt.armedAnew { H with seq := H.seq + 2, atLimit := b } with log := L } ∧
      (dayTold s).hlt = { H with seq := H.seq + 2, atLimit := b } ∧ 
      (∀ k ∈ indicators s, Tab.get {} T k = sampleInd s (s.hlt.days + 1) k ((slicesRead s).hlt.ind k)) ∧
      (s.hlt.ctl.getLsbD 1 = true → L.present = true ∧ L.hist = T) ∧ (s.hlt.ctl.getLsbD 1 = false → L = s.hlt.log) := by
  obtain ⟨T, c, hday, hind⟩ := daySampled_eq s
  obtain ⟨b, hb⟩ := noted_noteLimits (s.hlt.days + 1) (indicators (daySampled s)) (daySampled s)
  obtain ⟨L, hL, hon, hoff⟩ := storeLog_hlt (deviceThresholds (dayTold s))
  have htold : (dayTold s).hlt = { (daySampled s).hlt with atLimit := b } := hb.hlt
  rw [hday] at htold
  have hthr : (deviceThresholds (dayTold s)).hlt = (dayTold s).hlt.armedAnew := (told_deviceThresholds _).hlt
  rw [hthr, htold] at hL hon hoff
  exact ⟨T, c, b, L, hL, htold, hind, hon, hoff⟩

theorem pending_deviceThresholds {s : State} (h : HealthPending s) : HealthPending (deviceThresholds s) :=
  pending_events _ (s := s.updHlt Hlt.armedAnew) h

/-- The event of the health block waits at a day's end where a limit or a threshold is met. -/
theorem dayEnd_pending {s : State} (h : HealthPending (deviceThresholds (dayTold s))) : ((dayEnd s).evSrc 1220).pending = true := by
  have hevt : (dayEnd s).evt = (deviceThresholds (dayTold s)).evt := storeLog_evt _
  unfold State.evSrc
  rw [hevt]
  exact h

theorem indicators_daySampled (s : State) : indicators (daySampled s) = indicators s := by
  obtain ⟨T, c, hday, -⟩ := daySampled_eq s
  rw [hday]
  rfl

/-- The first indicator with a property, found with its index or by it. -/
theorem find?_pairs (l : List Nat) (f : Nat → Indicator) (p : Indicator → Bool) :
    (((l.map fun k => (k, f k)).find? fun x => p x.2).map (·.1)) = l.find? fun k => p (f k) := by
  induction l with
  | nil => rfl
  | cons k l ih =>
    rw [List.map_cons]
    cases h : p (f k) with
    | true => rw [List.find?_cons_of_pos (by exact h), List.find?_cons_of_pos (by exact h)]; rfl
    | false => rw [List.find?_cons_of_neg (by simp [h]), List.find?_cons_of_neg (by simp [h]), ih]

theorem deviceSummary_hlt (s : State) :
    let all := (indicators s).map fun k => s.hlt.ind k
    (deviceSummary s).hlt.devEol = (all.map (·.eol)).foldl min 0xFFFF ∧ (deviceSummary s).hlt.devEarly = (all.map (·.early)).foldl min 0xFFFF ∧
      (deviceSummary s).hlt.devLate = (all.map (·.late)).foldl min 0xFFFF ∧
      (deviceSummary s).hlt.worst = ((indicators s).find? fun k => (s.hlt.ind k).eol == (deviceSummary s).hlt.devEol).getD 0 := by
  intro all
  have hmap (f : Indicator → Nat) : ((indicators s).map fun i => (i, s.hlt.ind i)).map (fun x => f x.2) = all.map f := by
    simp only [all, List.map_map, Function.comp_def]
  refine ⟨congrArg (List.foldl min 0xFFFF) (hmap _), congrArg (List.foldl min 0xFFFF) (hmap _), congrArg (List.foldl min 0xFFFF) (hmap _), ?_⟩
  exact congrArg (Option.getD · 0) (find?_pairs (indicators s) (fun i => s.hlt.ind i) fun I => I.eol == (deviceSummary s).hlt.devEol)

/-- The level of the device counts the thresholds that are not armed. -/
theorem level_eq (a b c : Bool) : BitVec.ofNat 2 (b2n (!a) + b2n (!b) + b2n (!c)) = BitVec.ofNat 2 ([a, b, c].filter fun a => !a).length := by
  cases a <;> cases b <;> cases c <;> rfl

-- ## Days that end before the log is loaded

/-- The indicator without a reading of the day. -/
def Indicator.unmeasured (I : Indicator) : Indicator := { I with measured := false }

theorem history_map (T : Tab Indicator) (k : Nat) : (Tab.get {} (T.map fun e : Nat × Indicator => (e.1, e.2.unmeasured)) k).history = (Tab.get {} T k).history := by
  have hdefault : Indicator.unmeasured {} = {} := rfl
  have h := Tab.get_map Indicator.unmeasured {} T k
  rw [hdefault] at h
  rw [h]
  rfl

theorem dayWaits_hlt (s : State) : (dayWaits s).hlt.waitDays = s.hlt.waitDays + 1 ∧ (dayWaits s).hlt.days = s.hlt.days ∧
    ∀ k, ((dayWaits s).hlt.ind k).history = ((slicesRead s).hlt.ind k).history := by
  obtain ⟨T, hT⟩ := slicesRead_eq s
  have hwaits : dayWaits s = (seqUpdate s slicesRead).updHlt fun H => { H with
      waitDays := H.waitDays + 1, inds := H.inds.map fun e => (e.1, { e.2 with measured := false }) } := rfl
  rw [hwaits]
  unfold seqUpdate
  rw [hT]
  exact ⟨rfl, rfl, history_map T⟩

theorem history_slicesRead {s : State} {k : Nat} (h : k ∈ indicators s) : ((slicesRead s).hlt.ind k).history = (s.hlt.ind k).history := by
  by_cases hs : 64 ≤ k ∧ k < 128
  · exact (ind_slicesRead h (.inl hs)).2.2.1
  · rw [ind_slicesRead_other hs]

-- ## The I3C target

theorem i3cAnswers_iff (s : State) (x : I3cTo) : i3cAnswers s x = true ↔
    (s.pwr.down.getLsbD 0 = false ∧ s.pwr.down.getLsbD 1 = false) ∧ x.addr = if x.legacy = true then 0x4E else s.pkg.i3cDyn.getD 0x4E := by
  simp [i3cAnswers]

theorem i3cByte_eq (s : State) (o : Nat) : i3cByte s o =
    if o % 65536 < 0x600 then BitVec.ofNat 8 (hltReg s (o % 65536 / 8 * 8) / 2 ^ (8 * (o % 65536 % 8))) else 0 := by
  unfold i3cByte
  dsimp only
  refine ite_congr rfl (fun _ => ?_) fun _ => rfl
  apply BitVec.eq_of_toNat_eq
  simp [bits]

theorem quadMeasured_iff (s : State) (q : Nat) : (quadPresent s q && quadOn s q && quadRails s) = true ↔
    quadPresent s q = true ∧ quadOn s q = true ∧ s.pwr.down.getLsbD 3 = false ∧ s.pwr.down.getLsbD 4 = false := by
  unfold quadRails
  simp only [Bool.and_eq_true, Bool.not_eq_true', and_assoc]

section
variable {s : State} {q : Nat}

theorem oscMeasure_off (h : ¬(quadPresent s q && quadOn s q && quadRails s) = true) (ppm : Nat) : oscMeasure s q ppm = s :=
  if_pos (by rw [Bool.not_eq_true', Bool.eq_false_iff]; exact h)

theorem oscMeasure_on (h : (quadPresent s q && quadOn s q && quadRails s) = true) (ppm : Nat) : oscMeasure s q ppm =
    if ppm ≤ 1000000 ∧ Config.plausiblePpm ppm = true then seqUpdate s fun s => s.updInd q fun I => { I with value := ppm, measured := true }
    else healthEvent (s.updHlt fun H => { H with sensorFault := true }) 20 := by
  refine (if_neg (by rw [h]; decide)).trans ?_
  by_cases hp : ppm ≤ 1000000 ∧ Config.plausiblePpm ppm = true
  · rw [if_pos hp, if_neg (by simpa using hp)]
  · rw [if_neg hp, if_pos (by rw [Classical.not_and_iff_not_or_not, Nat.not_le] at hp; simpa using hp)]

end

/-- Settles O52: the readings by cases; a day's end by the sample of each indicator (`sampleInd_day`) and its health block
(`dayEnd_hlt`); the estimate by `eolRule_eolEstimate`. -/
theorem health : Obligations.Health := by
  unfold Obligations.Health
  intro s q i m ppm w r addr seq raised aon measures plausible port
  have haon (h : aon) {f : State → State} {c : Instr} (hc : exec c s = ok (aonLive s f)) : exec c s = .next (f s) :=
    hc.trans (congrArg ok (aonLive_on h f))
  have hoff (h : ¬aon) {f : State → State} {c : Instr} (hc : exec c s = ok (aonLive s f)) : exec c s = .next s :=
    hc.trans (congrArg ok (aonLive_off h f))
  have hosc (ha : aon) : exec (.oscillatorMeasure q ppm) s = .next (oscMeasure s q ppm.toNat) := (haon ha rfl).trans rfl
  have hlive (hs : Clocked s) {f : State → State} {c : Instr} (hc : exec c s = ok (live s f)) : exec c s = .next (f s) :=
    hc.trans (congrArg ok (live_clocked hs f))
  have hmargin (hs : Clocked s) : exec (.linkMarginMeasure i m) s = .next (marginMeasure s i.val m.toNat) := (hlive hs rfl).trans rfl
  have hday (ha : aon) : exec .poweredDayEnd s = .next (if s.hlt.valid then dayEnd s else dayWaits s) := (haon ha rfl).trans rfl
  have hraised (t : State) (c : Nat) (h : t.hlt.ctl = s.hlt.ctl) : healthEvent t c = raised t c := by
    unfold healthEvent
    rw [h]
  refine ⟨fun t c => raise_pending .., fun ha hm => ⟨fun hp => ?_, fun hp => ?_⟩, fun h => ?_, fun hs => ⟨fun hp => ?_, ?_⟩,
    fun h => hoff h rfl, fun ha hv => ⟨?_, ?_⟩, fun ha hv => ⟨?_, ?_⟩, fun l hl hp => eolRule_eolEstimate hl hp, ?_⟩
  · rw [hosc ha, oscMeasure_on ((quadMeasured_iff ..).mpr hm), if_pos hp]
    rfl
  · rw [hosc ha, oscMeasure_on ((quadMeasured_iff ..).mpr hm), if_neg hp]
    exact congrArg _ (hraised _ _ rfl)
  · by_cases ha : aon
    · rw [hosc ha, oscMeasure_off fun hc => h.resolve_left (Classical.not_not.mpr ha) ((quadMeasured_iff ..).mp hc)]
    · exact hoff ha rfl
  · rw [hmargin hs]
    exact congrArg _ (if_pos (by rw [Bool.not_eq_true']; exact hp))
  · intro hp t
    have hmeas : marginMeasure s i.val m.toNat = if m.toNat < 50 then healthEvent (t.updHlt fun H => { H with marginLow := true }) 21 else t :=
      if_neg (by rw [Bool.not_eq_true', Bool.not_eq_false]; exact hp)
    rw [hmargin hs, hmeas]
    refine ⟨fun hm => congrArg _ (if_neg (Nat.not_lt.mpr hm)), fun hm => congrArg _ ((if_pos hm).trans (hraised _ _ rfl))⟩
  · rw [hday ha, hv]
    rfl
  · obtain ⟨hw, hd, hh⟩ := dayWaits_hlt s
    exact ⟨hw, hd, fun k hk => (hh k).trans (history_slicesRead hk)⟩
  · rw [hday ha, hv]
    rfl
  · intro t day slice value sampled wear early armed
    obtain ⟨T, c, b, L, ht, htold, hind, hon, hoff⟩ := dayEnd_hlt s
    have hsum := deviceSummary_hlt (s.updHlt fun H => { H with inds := T, days := H.days + 1, caskEol := c })
    have hvalue : value = dayValue s := rfl
    have hwear : wear = dayWear s := rfl
    have hJ (k : Nat) (hk : k ∈ indicators s) : t.hlt.ind k = sampleInd s day k ((slicesRead s).hlt.ind k) := by
      rw [← hind k hk, Hlt.ind, ht]
      rfl
    have hearly : early = (deviceSummary (s.updHlt fun H => { H with inds := T, days := H.days + 1, caskEol := c })).hlt.devEarly :=
      (congrArg Hlt.devEarly ht).trans rfl
    have harmed (a : Bool) (d : Nat) : (threshold a (deviceSummary (s.updHlt fun H => { H with
        inds := T, days := H.days + 1, caskEol := c })).hlt.devEarly d).1 = armed a d := by
      rw [← hearly, threshold_eq]
    have hpend (h : HealthPending (deviceThresholds (dayTold s))) : (t.evSrc 1220).pending = true := dayEnd_pending h
    have hctl : (dayTold s).hlt.ctl = s.hlt.ctl := by
      rw [htold]
      rfl
    refine ⟨?_, ?_, fun k hk => ⟨fun hs => ?_, fun hs => ?_⟩, ?_, ?_, ?_, ?_, ?_, fun hd hc => hpend ?_, fun h => ?_, fun h => ?_⟩
    · rw [ht]
      rfl
    · rw [ht]
      rfl
    · rw [hJ k hk]
      obtain ⟨hs, hm⟩ := not_or.mp hs
      rw [sampleInd_other hs (Bool.eq_false_iff.mpr hm)]
      exact ⟨rfl, rfl, rfl, rfl⟩
    · rw [hJ k hk, hwear, hvalue]
      obtain ⟨h1, h2, h3, h4, h5⟩ := sampleInd_day hk hs day
      refine ⟨h1, h2, h3, h4, h5, fun hlim => ?_⟩
      have hsampled : (daySampled s).hlt.ind k = sampleInd s day k ((slicesRead s).hlt.ind k) := by
        rw [← hind k hk, ← (noted_noteLimits (s.hlt.days + 1) (indicators (daySampled s)) (daySampled s)).ind k]
        exact (congrArg (Hlt.ind · k) htold).trans rfl
      obtain ⟨hlimit, hevent⟩ : LimitTold (dayTold s) := by
        refine limitTold_noteLimits (k := k) (by rw [indicators_daySampled]; exact hk) ?_ ?_
        · rw [hsampled, h1, getLast?_drop_append _ _ (by simp)]
          rfl
        · rw [hsampled]
          have hnd := Prod.ext_iff.mp h2
          exact Nat.le_trans (Nat.le_of_eq hnd.2) (Nat.le_trans hlim (Nat.le_of_eq hnd.1.symm))
      rw [htold] at hlimit
      rw [hctl] at hevent
      refine ⟨?_, fun hc => hpend (pending_deviceThresholds (hevent hc))⟩
      rw [ht]
      exact hlimit
    · rw [hearly, ht]
      exact hsum
    · rw [ht]
      exact harmed ..
    · rw [ht]
      exact harmed ..
    · rw [ht]
      exact harmed ..
    · rw [ht]
      exact level_eq ..
    · refine deviceThresholds_pending (by rw [hctl]; exact hc) ?_
      rw [hearly] at hd
      rw [htold]
      exact hd
    · rw [ht]
      exact hon h
    · rw [ht]
      exact hoff h
  · intro io at_
    have hat (x : I3cTo) : i3cAnswers s x = true ↔ at_ x := i3cAnswers_iff s x
    have hio : (s.pwr.down.getLsbD 0 || s.pwr.down.getLsbD 1) = true ↔ ¬io := by
      rw [Classical.not_and_iff_not_or_not, Bool.not_eq_false, Bool.not_eq_false, Bool.or_eq_true]
    have hwrite : (i3cAnswers s w.dest && decide (2 ≤ w.bytes.length)) = true ↔ at_ w.dest ∧ 2 ≤ w.bytes.length := by
      rw [Bool.and_eq_true, decide_eq_true_eq, hat]
    refine ⟨fun h h2 => congrArg ok (if_pos (hwrite.mpr ⟨h, h2⟩)), fun h => congrArg ok (if_neg fun hc => ?_), fun h => ?_,
      fun h => congrArg ok (if_neg fun hc => h ((hat _).mp hc)), fun h => congrArg ok (if_neg fun hc => hio.mp hc h), fun h => congrArg ok (if_pos (hio.mpr h))⟩
    · obtain ⟨hc, h2⟩ := hwrite.mp hc
      exact h.elim (fun h => h hc) fun hl => Nat.not_le_of_lt hl h2
    · refine (congrArg ok (if_pos ((hat _).mpr h))).trans ?_
      simp only [i3cByte_eq]

end Sys2Proof.Machine

/-! PROOFS. What a window takes, what the host supplies, and a load from its beginning to its commit (chapters 17 and 03). -/

namespace Sys2Proof.Machine

-- ## Bytes of a task window

section
variable {s : State} {w : Window} {off : Nat} {bytes : List Byte} (hretry : (s.hport (fnPort s w.fn.val)).retry = false)
  (hserved : winServed s w = true) (hbytes : bytes ≠ [])
include hretry hserved hbytes

theorem taskWrite_served : taskWrite s w off bytes =
    if 64 < off + bytes.length then s.updPort (fnPort s w.fn.val) HostPort.unsupported
    else if off + bytes.length < 64 then s.updWin w fun W => { W with task := W.task.take off ++ bytes ++ W.task.drop (off + bytes.length) }
    else if (s.win w).busy || !(s.win w).en then s.updWin w fun W => { W with dropped := W.dropped || W.busy, noRing := W.noRing || !W.en }
    else s.updWin w fun W => { W with
      task := W.task.take off ++ bytes ++ W.task.drop (off + bytes.length)
      latched := W.task.take off ++ bytes ++ W.task.drop (off + bytes.length), busy := true } := by
  refine if_neg ?_
  simp [hretry, hserved, hbytes]

end

-- ## Structures from the host

section
variable {s : State} {w : Window} {tag : Nat} {c : Cmd} {o len got : Nat}

theorem dataRead_none (h : s.cmds.find? (fun c => c.win == w && c.tag == tag && c.awaits) = none) (r : ReadResult) : dataRead s w tag r got = s := by
  unfold dataRead
  rw [h]

variable (h : s.cmds.find? (fun c => c.win == w && c.tag == tag && c.awaits) = some c) (hstruct : c.structure_ = some (o, len))
include h hstruct

theorem dataRead_error {r : ReadResult} (hr : linkUp s (winPort s w) = false ∨ r = .error) :
    dataRead s w tag r got = endCmd (noteRead s (winPort s w) .error) c sDMA_BUS_ERROR (structDetail got (c.f o 8 + got)) := by
  have hres : (if linkUp s (winPort s w) = true then r else .error) = .error := by
    rcases hr with hr | rfl
    · rw [if_neg (by simp [hr])]
    · exact ite_self _
  unfold dataRead
  rw [h]
  dsimp only
  rw [hres, hstruct]
  rfl

theorem dataRead_up (hup : linkUp s (winPort s w) = true) (r : ReadResult) : dataRead s w tag r got =
    match r with
    | .error => endCmd (noteRead s (winPort s w) .error) c sDMA_BUS_ERROR (structDetail got (c.f o 8 + got))
    | .poisoned => endCmd (noteRead s (winPort s w) .poisoned) c sPOISONED (structDetail got (c.f o 8 + got))
    | .data bs => withStruct { s with freeCtr := s.freeCtr + 1 } c (bs.take len ++ (List.range (len - bs.length)).map fun i => Config.hostByte s.freeCtr i) := by
  unfold dataRead
  rw [h]
  dsimp only
  rw [if_pos hup, hstruct]
  cases r <;> rfl

theorem dataRead_data (hup : linkUp s (winPort s w) = true) {bs : List Byte} (hlen : bs.length = len) :
    dataRead s w tag (.data bs) got = withStruct { s with freeCtr := s.freeCtr + 1 } c bs := by
  rw [dataRead_up h hstruct hup]
  dsimp only
  rw [← hlen, List.take_length, Nat.sub_self, List.range_zero, List.map_nil, List.append_nil]

end

-- ## The stream

theorem imageStream_unbound {s : State} {p : Nat} {L : Loader} (hL : (s.parcel p).loader = some L) (hb : L.bound = false) (r : ReadResult) :
    imageStream s p r = s := by
  unfold imageStream
  rw [hL]
  dsimp only
  split
  · exact if_neg (by simp [hb])
  · rfl

theorem imageStream_streaming {s : State} {p : Nat} {L : Loader} {c : Cmd} (hL : (s.parcel p).loader = some L) (hc : s.cmd L.seq = some c)
    (hphase : L.phase = .streaming) (hb : L.bound = true) (r : ReadResult) : imageStream s p r = streamData s p c L r := by
  unfold imageStream
  rw [hL]
  dsimp only
  rw [hc]
  exact if_pos (by simp [hphase, hb])

/-- The end of a step of the stream, once its bytes `all` are staged. -/
def streamEnd (s : State) (p : Nat) (L : Loader) (all : List Byte) (stops : Bool) (err : Option CmdErr) (flaw : Option Flaw) : State :=
  match err, flaw with
  | some e, _ => endLoad s p L e.status (stagingDetail e.va)
  | none, some x => endLoad s p L sIMAGE_REJECTED (detail x.code 9 x.sec (if x.count then 0x8000 else 0) 0)
  | none, none =>
    if all.length = L.streamLen then
      s.updLoader p fun L => { L with phase := .checked, bytes := [], shadow := parseImage all (s.parcel p).quads.toNat }
    else if stops then endLoad s p L sIMAGE_REJECTED (detail 4 9 (sectionAt all all.length) 0 0)
    else s

/-- The parts of a stream are staged one after another, up to the first that cannot be. -/
def stageParts (s : State) (p : Nat) (L : Loader) (all : List Byte) (l : List (Nat × Nat × Nat)) : Option CmdErr × State :=
  l.foldl (fun (acc : Option CmdErr × State) x =>
    match acc with
    | (some e, s) => (some e, s)
    | (none, s) => stageBytes s p (L.staging + x.1) (slice all x.2.1 x.2.2)) (none, s)

/-- The bytes that end a step of the stream: those before its flaw. -/
def streamLimit (flaw : Option Flaw) (all : List Byte) : Nat := match flaw with | some x => x.pos | none => all.length

theorem streamData_of_bytes {s t u : State} {p : Nat} {c : Cmd} {L : Loader} {r : ReadResult} {new : List Byte} {stops : Bool}
    (ht : (if c.space then s else noteRead s (winPort s c.win) r) = t)
    (hbytes : streamBytes t p c.space (c.f 8 8 + L.bytes.length) r (L.streamLen - L.bytes.length) = (new, stops, u)) :
    let all := L.bytes ++ new
    let flaw := imageFlaw u p L.streamLen L.stagingBytes all
    let x := stageParts u p L all (stagingParts all L.bytes.length (streamLimit flaw all))
    streamData s p c L r = streamEnd (x.2.updLoader p fun L => { L with bytes := all }) p L all stops x.1 flaw := by
  intro all flaw x
  unfold streamData
  rw [ht]
  dsimp only
  rw [hbytes]
  dsimp only
  have hflaw : imageFlaw u p L.streamLen L.stagingBytes (L.bytes ++ new) = flaw := rfl
  rw [hflaw]
  clear_value flaw
  cases flaw with
  | none =>
    generalize hfold : List.foldl _ (none, u) _ = y
    have hx : y = x := hfold.symm.trans rfl
    clear_value x
    subst hx
    rfl
  | some flaw =>
    generalize hfold : List.foldl _ (none, u) _ = y
    have hx : y = x := hfold.symm.trans rfl
    clear_value x
    subst hx
    rfl

theorem streamData_data {s : State} {p : Nat} {c : Cmd} {L : Loader} (hspace : c.space = false) (bs : List Byte) :
    let all := L.bytes ++ bs.take (L.streamLen - L.bytes.length)
    let flaw := imageFlaw s p L.streamLen L.stagingBytes all
    let x := stageParts s p L all (stagingParts all L.bytes.length (streamLimit flaw all))
    streamData s p c L (.data bs) = streamEnd (x.2.updLoader p fun L => { L with bytes := all }) p L all false x.1 flaw := by
  refine streamData_of_bytes (t := s) (ite_self _) ?_
  unfold streamBytes
  rw [hspace]
  rfl

/-- The end of a read at a port is noted there. -/
theorem noteRead_eq (s : State) (k : Nat) (r : ReadResult) : ∃ A n, noteRead s k r = { s with ports := A, freeCtr := n } := by
  have hport (f : HostPort → HostPort) : ∃ A, s.updPort k f = { s with ports := A } := by
    obtain ⟨A, B, h⟩ := State.updPort_eq s k f
    exact ⟨_, h⟩
  cases r with
  | data _ => exact ⟨_, _, rfl⟩
  | poisoned =>
    obtain ⟨A, h⟩ := hport fun P => P.logged .poisonedTlp
    exact ⟨A, s.freeCtr, h⟩
  | error =>
    obtain ⟨A, h⟩ := hport fun P => P.logged .completionTimeout
    unfold noteRead noteHostEnd
    dsimp only
    split
    · exact ⟨A, s.freeCtr + 1, by rw [h]⟩
    · exact ⟨s.ports, s.freeCtr + 1, rfl⟩

theorem imageFlaw_ports (s : State) (A : Ports) (k p n m : Nat) (bs : List Byte) :
    imageFlaw { s with ports := A, freeCtr := k } p n m bs = imageFlaw s p n m bs := by
  have hparcel : State.parcel { s with ports := A, freeCtr := k } p = s.parcel p := rfl
  have hheader (P : Parcel) : headerFlaws { s with ports := A, freeCtr := k } P n bs = headerFlaws s P n bs := by
    unfold headerFlaws
    rfl
  have hresource (P : Parcel) (c : SecCtx) : resourceFlaws { s with ports := A, freeCtr := k } P c = resourceFlaws s P c := by
    unfold resourceFlaws
    rfl
  have hsection (P : Parcel) (pl : List Nat) (f i : Nat) (x : SectionInfo) :
      sectionFlaws { s with ports := A, freeCtr := k } P bs pl f i x = sectionFlaws s P bs pl f i x := by
    unfold sectionFlaws
    simp only [hresource]
  unfold imageFlaw
  simp only [hparcel, hheader, hsection]

theorem streamData_stops {s : State} {p : Nat} {c : Cmd} {L : Loader} {r : ReadResult} (hr : r = .error ∨ r = .poisoned)
    (hlen : L.bytes.length < L.streamLen) (hflaw : imageFlaw s p L.streamLen L.stagingBytes L.bytes = none)
    (hparts : stagingParts L.bytes L.bytes.length L.bytes.length = []) :
    ∃ u, streamData s p c L r = endLoad u p L sIMAGE_REJECTED (detail 4 9 (sectionAt L.bytes L.bytes.length) 0 0) := by
  generalize ht : (if c.space then s else noteRead s (winPort s c.win) r) = t
  have hbytes : streamBytes t p c.space (c.f 8 8 + L.bytes.length) r (L.streamLen - L.bytes.length) = ([], true, t) := by
    rcases hr with rfl | rfl <;> rfl
  have h := streamData_of_bytes ht hbytes
  have hflaw' : imageFlaw t p L.streamLen L.stagingBytes L.bytes = none := by
    rw [← hflaw, ← ht]
    split
    · rfl
    · obtain ⟨A, n, hA⟩ := noteRead_eq s (winPort s c.win) r
      rw [hA, imageFlaw_ports]
  dsimp only at h
  rw [List.append_nil, hflaw', streamLimit, hparts] at h
  exact ⟨t.updLoader p fun L' => { L' with bytes := L.bytes }, h.trans ((if_neg (Nat.ne_of_lt hlen)).trans (if_pos rfl))⟩

-- ## Staging

/-- A part of the stream that is staged is not empty and lies in the bytes delivered. -/
theorem mem_stagingParts {bs : List Byte} {lo hi o a n : Nat} (h : (o, a, n) ∈ stagingParts bs lo hi) : 0 < n ∧ a + n ≤ hi := by
  unfold stagingParts at h
  dsimp only at h
  split at h
  · cases h
  · obtain ⟨x, -, hx⟩ := List.mem_filterMap.mp h
    split at hx
    · simp only [Option.some.injEq, Prod.mk.injEq] at hx
      omega
    · cases hx

theorem length_slice {bs : List Byte} {a n : Nat} (h : a + n ≤ bs.length) : (slice bs a n).length = n := by
  unfold slice
  rw [List.length_take, List.length_drop]
  omega

section
variable {s : State} {p va : Nat} {bs : List Byte} (hruns : pageRuns va bs.length = [(va, bs.length)])
include hruns

theorem stageBytes_error {e : CmdErr} (h : cmdPlaces s p va bs.length true true = .error e) : stageBytes s p va bs = (some e, s) := by
  unfold stageBytes
  rw [hruns]
  simp only [List.foldl_cons, List.foldl_nil, h]

theorem stageBytes_cellar {a : Nat} (h : cmdPlaces s p va bs.length true true = .ok [(a, bs.length)]) (hpos : bs ≠ []) (hplace : place a = .cellar a)
    (hpage : a % 4096 + bs.length ≤ 4096) : stageBytes s p va bs = (none, { s with mem := s.mem.store a bs false }) := by
  have ha : a < 0x8000000000 := lt_of_place_cellar hplace
  have hwrite : fabricWrite s a bs false = { s with mem := s.mem.store a bs false } :=
    fabricWrite_of_ownPlace s false hpos fun i hi => .inl (by omega)
  have hslice : slice bs (va - va) bs.length = bs := by
    rw [Nat.sub_self, slice, List.drop_zero, List.take_length]
  unfold stageBytes
  rw [hruns]
  simp only [List.foldl_cons, List.foldl_nil, h, hslice, layOut, List.take_length, putAll, hwrite]

end

section
variable {s : State} {p : Nat} {L : Loader} {all : List Byte} {o at_ n : Nat}

theorem stageParts_one (hpart : at_ + n ≤ all.length) (hruns : pageRuns (L.staging + o) n = [(L.staging + o, n)]) :
    (∀ e, cmdPlaces s p (L.staging + o) n true true = .error e → stageParts s p L all [(o, at_, n)] = (some e, s)) ∧
    ∀ a, cmdPlaces s p (L.staging + o) n true true = .ok [(a, n)] → 0 < n → place a = .cellar a → a % 4096 + n ≤ 4096 →
      stageParts s p L all [(o, at_, n)] = (none, { s with mem := s.mem.store a (slice all at_ n) false }) := by
  have hlen := length_slice hpart
  constructor
  · intro e he
    exact stageBytes_error (by rw [hlen]; exact hruns) (by rw [hlen]; exact he)
  · intro a ha h0 hplace hpage
    refine stageBytes_cellar (by rw [hlen]; exact hruns) (by rw [hlen]; exact ha) (fun hnil => ?_) hplace (by rw [hlen]; exact hpage)
    rw [hnil] at hlen
    exact Nat.ne_of_lt h0 hlen

end

-- ## The copy of the sections

section
variable {s : State} {p : Nat} {L : Loader} (hL : (s.parcel p).loader = some L)
include hL

theorem copyDone_other (h : L.phase ≠ .copying) : copyDone s p = s := by
  unfold copyDone
  rw [hL]
  exact if_pos (by simpa using h)

variable {ts : List Nat} {t : State} (hphase : L.phase = .copying)
include hphase

theorem copyDone_copied (h : copySections s p L.staging L.shadow L.shadow.datas [] = (.done, ts, t)) :
    copyDone s p = t.updLoader p fun L => { L with phase := .copied } := by
  unfold copyDone
  rw [hL]
  dsimp only
  rw [if_neg (by simp [hphase]), h]

theorem copyDone_poisoned {va : Nat} (h : copySections s p L.staging L.shadow L.shadow.datas [] = (.poisoned va, ts, t)) :
    copyDone s p = endLoad (ts.foldl (fun s t => s.forget (tsBase t) (tsBase t + 0x100000)) t) p L sPOISONED (stagingDetail va) := by
  unfold copyDone
  rw [hL]
  dsimp only
  rw [if_neg (by simp [hphase]), h]

end

-- ## Undefined regions

theorem Mem.isUndef_iff (m : Mem) (a : Nat) : m.isUndef a = (stampAt m.undef a).isSome := by
  unfold Mem.isUndef stampAt
  rw [Option.isSome_map, List.isSome_find?]

theorem Mem.isUndef_forget (m : Mem) {lo hi a : Nat} (h : m.isUndef a = true ∨ (lo ≤ a ∧ a < hi)) : (m.forget lo hi).isUndef a = true := by
  by_cases ha : lo ≤ a ∧ a < hi
  · exact List.any_eq_true.mpr ⟨_, List.mem_cons_self, by simpa using ha⟩
  · have hm := h.resolve_right ha
    rw [Mem.isUndef_iff] at hm
    have hcarve : stampAt (carve lo hi m.undef) a = stampAt m.undef a := carve_find_out lo hi a m.undef (by omega)
    have htail : (carve lo hi m.undef).any (fun u => decide (u.lo ≤ a) && decide (a < u.hi)) = true := by
      rw [← hcarve, stampAt, Option.isSome_map, List.isSome_find?] at hm
      exact hm
    obtain ⟨u, hu, hau⟩ := List.any_eq_true.mp htail
    exact List.any_eq_true.mpr ⟨u, List.mem_cons_of_mem _ hu, hau⟩

/-- Ranges of storage left undefined one after another. -/
def forgetAll (s : State) (l : List (Nat × Nat)) : State := l.foldl (fun s r => s.forget r.1 r.2) s

theorem forgetAll_eq (s : State) (l : List (Nat × Nat)) : ∃ m, forgetAll s l = { s with mem := m } :=
  foldl_keeps (P := fun t => ∃ m, t = { s with mem := m }) l s ⟨_, rfl⟩ fun t r ⟨m, h⟩ => ⟨m.forget r.1 r.2, by rw [h]; rfl⟩

theorem isUndef_forgetAll {l : List (Nat × Nat)} {s : State} {a : Nat} (h : s.mem.isUndef a = true ∨ ∃ r ∈ l, r.1 ≤ a ∧ a < r.2) :
    (forgetAll s l).mem.isUndef a = true := by
  unfold forgetAll
  induction l generalizing s with
  | nil => exact h.resolve_right fun ⟨r, hr, _⟩ => absurd hr List.not_mem_nil
  | cons r l ih =>
    rw [List.foldl_cons]
    refine ih ?_
    rcases h with h | ⟨r', hr, ha⟩
    · exact .inl (Mem.isUndef_forget _ (.inl h))
    · rcases List.mem_cons.mp hr with rfl | hr
      · exact .inl (Mem.isUndef_forget _ (.inr ha))
      · exact .inr ⟨r', hr, ha⟩

theorem endLoad_of_cmd {s : State} {L : Loader} {c : Cmd} (h : s.cmd L.seq = some c) (p st : Nat) (det : List Byte) :
    endLoad s p L st det = endCmd (s.updParcel p fun P => { P with loader := none }) c st det := by
  have h' : (s.updParcel p fun P => { P with loader := none }).cmd L.seq = some c := h
  unfold endLoad endSeq
  rw [h']

theorem endLoad_ended {s : State} {L : Loader} {c : Cmd} (h : s.cmd L.seq = some c) {p st : Nat} {det : List Byte} {eff : State → Prop}
    (heff : eff (s.updParcel p fun P => { P with loader := none })) : Ended (endLoad s p L st det) c st det eff :=
  ⟨_, heff, endLoad_of_cmd h ..⟩

-- ## The commit

/-- The ranges of a tile store that a new image leaves undefined. -/
def uncoveredOf (I : Image) (t : Nat) : List (Nat × Nat) :=
  match indexOf? (· == quadOf t) I.placement with
  | some u => uncovered I (4 * u + posInQuad t)
  | none => [(0, 0x100000)]

/-- The parts of the tile stores of a parcel that its new image leaves undefined. -/
def uncoveredRanges (I : Image) (tiles : List Nat) : List (Nat × Nat) :=
  tiles.flatMap fun t => (uncoveredOf I t).map fun r : Nat × Nat => (tsBase t + r.1, tsBase t + r.2)

/-- The parcel with an image made live. -/
def Parcel.withImage (P : Parcel) (D : DspGlobal) (I : Image) : Parcel :=
  { P with image := I, dsp := { P.dsp with affDepth := D.affDepth.toNat, affWindow := D.affWindow.toNat } }

theorem foldl_uncovered (I : Image) (tiles : List Nat) (s : State) :
    tiles.foldl (fun s t => (uncoveredOf I t).foldl (fun (s : State) (r : Nat × Nat) => s.forget (tsBase t + r.1) (tsBase t + r.2)) s) s =
      forgetAll s (uncoveredRanges I tiles) := by
  unfold forgetAll uncoveredRanges
  rw [List.foldl_flatMap]
  simp only [List.foldl_map]

theorem commitImage_eq (s : State) (p : Nat) (L : Loader) : ∃ D n, commitImage s p L =
    endLoad { forgetAll (s.updParcel p fun P => P.withImage s.dsp L.shadow) (uncoveredRanges L.shadow (s.parcel p).tiles) with dgt := D, freeCtr := n }
      p L sSUCCESS (zeros 16) := by
  have htiles : ((s.updParcel p fun P => P.withImage s.dsp L.shadow).parcel p).tiles = (s.parcel p).tiles := by
    rw [State.updParcel_parcel]
    rfl
  unfold commitImage
  extract_lets I v s1 s2 s3
  have hs2 : s2 = forgetAll s1 (uncoveredRanges L.shadow (s.parcel p).tiles) := by
    rw [← foldl_uncovered, ← htiles]
    rfl
  clear_value s2
  subst hs2
  by_cases hI : I.loaded = true
  · exact ⟨_, _, by simp only [s3, if_pos hI]; rfl⟩
  · exact ⟨_, _, by simp only [s3, if_neg hI]; rfl⟩

theorem commitImage_ended {s : State} {p : Nat} {L : Loader} {c : Cmd} (hc : s.cmd L.seq = some c) :
    Ended (commitImage s p L) c sSUCCESS (zeros 16) fun u =>
      (u.parcel p).image = L.shadow ∧ (u.parcel p).loader = none ∧ (u.parcel p).dsp.affDepth = s.dsp.affDepth.toNat ∧
      ∀ i ∈ (s.parcel p).tiles, indexOf? (· == quadOf i) L.shadow.placement = none → ∀ o, o < 0x100000 → u.mem.isUndef (tsBase i + o) = true := by
  obtain ⟨D, n, h⟩ := commitImage_eq s p L
  generalize hl : uncoveredRanges L.shadow (s.parcel p).tiles = l at h
  have hundef (i : Nat) (hi : i ∈ (s.parcel p).tiles) (hplace : indexOf? (· == quadOf i) L.shadow.placement = none) (o : Nat) (ho : o < 0x100000) :
      (forgetAll (s.updParcel p fun P => P.withImage s.dsp L.shadow) l).mem.isUndef (tsBase i + o) = true := by
    refine isUndef_forgetAll (.inr ⟨(tsBase i + 0, tsBase i + 0x100000), ?_, by omega, by omega⟩)
    rw [← hl]
    refine List.mem_flatMap.mpr ⟨i, hi, ?_⟩
    unfold uncoveredOf
    rw [hplace]
    exact List.mem_singleton_self _
  obtain ⟨m, hm⟩ := forgetAll_eq (s.updParcel p fun P => P.withImage s.dsp L.shadow) l
  rw [hm] at h hundef
  have hparcel (f : Parcel → Parcel) : (({ s.updParcel p fun P => P.withImage s.dsp L.shadow with mem := m, dgt := D, freeCtr := n } : State).updParcel
      p f).parcel p = f ((s.parcel p).withImage s.dsp L.shadow) := by
    rw [State.updParcel_parcel]
    exact congrArg f (State.updParcel_parcel s p fun P => P.withImage s.dsp L.shadow)
  rw [h]
  refine endLoad_ended (s := { s.updParcel p fun P => P.withImage s.dsp L.shadow with mem := m, dgt := D, freeCtr := n }) hc
    ⟨?_, ?_, ?_, hundef⟩
  · rw [hparcel]
    rfl
  · rw [hparcel]
  · rw [hparcel]
    rfl

theorem loadBoundary_of_loader {s : State} {p : Nat} {L : Loader} (hL : (s.parcel p).loader = some L) (busy : Bool) : loadBoundary s p busy =
    if L.phase == .copied then commitImage s p L
    else if L.phase != .checked || busy then s
    else if L.shadow.datas.isEmpty then commitImage s p L
    else s.updLoader p fun L => { L with phase := .copying } := by
  unfold loadBoundary
  rw [hL]

-- ## The bytes of a section

/-- The runs of a range on its pages have its length together. -/
theorem sum_pageRuns (va n : Nat) : ((pageRuns va n).map (·.2)).sum = n := by
  unfold pageRuns
  split
  next h => exact h.symm
  next h =>
    have hpre (k : Nat) (hk : k ≤ (va + n - 1) / 4096 - va / 4096 + 1) : (((List.range k).map fun i =>
        let lo := max va ((va / 4096 + i) * 4096)
        (lo, min (va + n) ((va / 4096 + i + 1) * 4096) - lo)).map (·.2)).sum = min (va + n) ((va / 4096 + k) * 4096) - va := by
      induction k with
      | zero => simp; omega
      | succ k ih =>
        rw [List.range_succ, List.map_append, List.map_append, List.sum_append, ih (by omega)]
        simp only [List.map_cons, List.map_nil, List.sum_cons, List.sum_nil]
        omega
    rw [hpre _ (Nat.le_refl _)]
    omega

theorem length_cmdPlaces {s : State} {p va n : Nat} {wr cell rd : Bool} {l : List (Nat × Nat)} (h : cmdPlaces s p va n wr cell rd = .ok l) :
    (l.map (·.2)).sum = n := by
  suffices hkeep : ∀ (runs : List (Nat × Nat)) (x : Except CmdErr (List (Nat × Nat))) (l : List (Nat × Nat)),
      runs.foldl (fun acc run =>
        match acc with
        | .error e => .error e
        | .ok l =>
          match (if rd then cmdXlat s p run.1 .load else cmdXlat s p run.1 .store) with
          | .error e => .error e
          | .ok dpa =>
            match (if wr then cmdXlat s p run.1 .store else .ok dpa) with
            | .error e => .error e
            | .ok _ =>
              if cell && !inCellar dpa then .error { status := sPERMISSION, va := run.1 } else .ok (l ++ [(dpa, run.2)])) x = .ok l →
      ∃ l0, x = .ok l0 ∧ l.map (·.2) = l0.map (·.2) ++ runs.map (·.2) by
    obtain ⟨l0, h0, hl⟩ := hkeep _ _ _ h
    cases h0
    rw [hl]
    exact sum_pageRuns va n
  intro runs
  induction runs with
  | nil => exact fun x l h => ⟨l, h, (List.append_nil _).symm⟩
  | cons run runs ih =>
    intro x l h
    rw [List.foldl_cons] at h
    obtain ⟨l1, h1, hl⟩ := ih _ _ h
    cases x with
    | error e => cases h1
    | ok l0 =>
      refine ⟨l0, rfl, ?_⟩
      dsimp only at h1
      split at h1
      · cases h1
      · split at h1
        · cases h1
        · split at h1
          · cases h1
          · cases h1
            rw [hl, List.map_append, List.append_assoc]
            rfl

theorem length_fabricRead (s : State) (a n : Nat) : (fabricRead s a n).1.length = n := by
  unfold fabricRead fabricReadAt
  dsimp only
  split <;> simp

theorem length_readPlaces (s : State) (l : List (Nat × Nat)) : (readPlaces s l).1.length = (l.map (·.2)).sum := by
  suffices hkeep : ∀ acc : List Byte × Option (Nat × Nat) × State, (l.foldl (fun acc r =>
      let s := acc.2.2
      let bad := (runFailure s r.1 r.2).map fun x => (x.1, x.2 + acc.1.length)
      let (b, _, s) := fabricRead s r.1 r.2
      (acc.1 ++ b, acc.2.1.or bad, s)) acc).1.length = acc.1.length + (l.map (·.2)).sum by
    exact (hkeep _).trans (Nat.zero_add _)
  induction l with
  | nil => exact fun acc => rfl
  | cons r l ih =>
    intro acc
    rw [List.foldl_cons, ih, List.map_cons, List.sum_cons, List.length_append, length_fabricRead, Nat.add_assoc]

theorem length_cmdRead {s t : State} {p va n : Nat} {bs : List Byte} (h : cmdRead s p va n = (.ok bs, t)) : bs.length = n := by
  unfold cmdRead at h
  split at h
  · cases h
  next l hl =>
    have hlen := length_readPlaces s l
    rw [length_cmdPlaces hl] at hlen
    split at h
    · cases h
    next bs' u hread =>
      rw [hread] at hlen
      cases h
      exact hlen

/-- The same bytes written at one place of several tile stores stand in each of them. -/
theorem tsWrite_all {off : Nat} {bs : List Byte} (hoff : off + bs.length ≤ 0x100000) {l : List Nat} {s : State} (h : s.memOk) {i k : Nat}
    (hk : k < bs.length) (hi : i ∈ l ∨ s.mem.byte (tsBase i + off + k) = (bs[k]?).getD 0) :
    (l.foldl (fun s t => s.tsWrite t off bs) s).mem.byte (tsBase i + off + k) = (bs[k]?).getD 0 := by
  induction l generalizing s with
  | nil => exact hi.resolve_left List.not_mem_nil
  | cons t l ih =>
    have hstored := Mem.stored_store h (a := tsBase t + off) (bs := bs) (.inl (by unfold tsBase; omega)) false
    rw [List.foldl_cons]
    refine ih hstored.1 ?_
    by_cases hit : i = t
    · right
      subst hit
      change (s.mem.store (tsBase i + off) bs false).byte (tsBase i + off + k) = _
      rw [hstored.2, if_pos (by omega), Nat.add_sub_cancel_left]
    · rcases hi with hi | hi
      · exact .inl ((List.mem_cons.mp hi).resolve_left hit)
      · right
        change (s.mem.store (tsBase t + off) bs false).byte (tsBase i + off + k) = _
        rw [hstored.2, if_neg (by unfold tsBase; omega)]
        exact hi

section
variable {s : State} {p : Nat} {L : Loader} (hL : (s.parcel p).loader = some L) (hphase : L.phase = .copying)
include hL hphase

/-- One section of tile data stands in the tiles that it names once it is copied. -/
theorem copyDone_one {d : TileData} {bs : List Byte} {s1 : State} (hdatas : L.shadow.datas = [d])
    (hoff : d.tsOffset + d.dataBytes + d.zeroBytes ≤ 0x100000) (hread : cmdRead s p (L.staging + d.stagedAt) d.dataBytes = (.ok bs, s1))
    (hok : s1.memOk) {i : Nat} (hi : i ∈ L.shadow.maskTiles d.tiles) :
    (copyDone s p).tsRead i d.tsOffset (bs.length + d.zeroBytes) = bs ++ zeros d.zeroBytes := by
  have hcopy : copySections s p L.staging L.shadow L.shadow.datas [] = (.done, L.shadow.maskTiles d.tiles,
      (L.shadow.maskTiles d.tiles).foldl (fun s t => s.tsWrite t d.tsOffset (bs ++ zeros d.zeroBytes)) s1) := by
    rw [hdatas, copySections, hread]
    rfl
  have hlen : (bs ++ zeros d.zeroBytes).length = bs.length + d.zeroBytes := by simp [zeros]
  have hbs := length_cmdRead hread
  rw [copyDone_copied hL hphase hcopy]
  refine List.ext_getElem ?_ fun k hk1 hk2 => ?_
  · rw [hlen]
    simp [State.tsRead, Mem.read]
  · have hbyte := tsWrite_all (off := d.tsOffset) (bs := bs ++ zeros d.zeroBytes) (by omega) hok hk2 (.inl hi)
    rw [List.getElem?_eq_getElem hk2] at hbyte
    rw [← Option.getD_some (a := (bs ++ zeros d.zeroBytes)[k]) (b := 0), ← hbyte]
    simp [State.tsRead, Mem.read, State.updLoader]

theorem copyDone_poisoned_ended {c : Cmd} {va : Nat} {ts : List Nat} {s1 : State} (hc : s1.cmd L.seq = some c)
    (h : copySections s p L.staging L.shadow L.shadow.datas [] = (.poisoned va, ts, s1)) :
    Ended (copyDone s p) c sPOISONED (detail 0 1 0 0x18 va) fun u => (u.parcel p).loader = none ∧
      ∀ i ∈ ts, ∀ o, o < 0x100000 → u.mem.isUndef (tsBase i + o) = true := by
  have hforget : ts.foldl (fun s t => s.forget (tsBase t) (tsBase t + 0x100000)) s1 =
      forgetAll s1 (ts.map fun t => (tsBase t, tsBase t + 0x100000)) := by
    rw [forgetAll, List.foldl_map]
  have hcopy := copyDone_poisoned hL hphase h
  rw [hforget] at hcopy
  have hundef (i : Nat) (hi : i ∈ ts) (o : Nat) (ho : o < 0x100000) :
      (forgetAll s1 (ts.map fun t => (tsBase t, tsBase t + 0x100000))).mem.isUndef (tsBase i + o) = true :=
    isUndef_forgetAll (.inr ⟨_, List.mem_map_of_mem hi, by omega, by omega⟩)
  obtain ⟨m, hm⟩ := forgetAll_eq s1 (ts.map fun t => (tsBase t, tsBase t + 0x100000))
  rw [hm] at hcopy hundef
  rw [hcopy]
  exact endLoad_ended (s := { s1 with mem := m }) hc ⟨by rw [State.updParcel_parcel], hundef⟩

end

/-- The loader that a load begins with. -/
theorem beginLoad_loader {s : State} {c : Cmd} {p : Nat} (h : c.opcode = 0x10) : ((beginLoad s c p).parcel p).loader = some {
    phase := .streaming, seq := c.seq, streamLen := c.f 0x10 8, staging := c.f 0x18 8, stagingBytes := c.f 0x20 8, bytes := [], shadow := {} } := by
  have hcmd (t : State) (f : Cmd → Cmd) : (t.updCmd c.seq f).parcel p = t.parcel p := rfl
  unfold beginLoad
  extract_lets L
  rw [hcmd, State.updParcel_parcel]
  simp only [L, if_pos h]

/-- What an Unsupported Request leaves in AER. -/
theorem HostPort.unsupported_eq (P : HostPort) : P.unsupported = { P with
    aer := P.aer + 1, aerErrs := if P.aerErrs.contains .unsupportedRequest then P.aerErrs else P.aerErrs ++ [.unsupportedRequest] } := by
  unfold HostPort.unsupported HostPort.logged
  split <;> rfl

-- ## The statement

/-- Settles O44: each row is its model function on a clocked state, and each clause is that function's equation for the clause's case; the copied
section is read back byte by byte, and a commit or a poisoned copy leaves undefined what the fold over the tiles forgets. -/
theorem taskSubmission : Obligations.TaskSubmission := by
  intro s w off bytes tag got p r hs W n put port
  have hlive {f : State → State} {c : Instr} (hc : exec c s = ok (live s f)) : exec c s = .next (f s) :=
    hc.trans (congrArg ok (live_clocked hs f))
  have hread : exec (.commandDataRead w tag r got) s = .next (settle (dataRead s w tag.toNat r got)) :=
    hlive (f := fun s => settle (dataRead s w tag.toNat r got)) rfl
  refine ⟨?_, ?_, ?_, ?_, ?_, ?_, ?_, ?_, hlive (f := fun s => settle (copyDone s p)) rfl, ?_, ?_, ?_, ?_, ?_⟩
  · intro hretry hserved hbytes
    have hrow : exec (.taskSubmit w off bytes) s = .next _ := (hlive rfl).trans (congrArg _ (taskWrite_served hretry hserved hbytes))
    refine ⟨fun h => ?_, fun h hbusy hen => ?_, fun h hbusy => ?_, fun h hbusy hen => ?_, fun h => ?_⟩
    · exact hrow.trans (congrArg _ ((if_neg (by omega)).trans (if_pos h)))
    · exact hrow.trans (congrArg _ ((if_neg (by omega)).trans ((if_neg (by omega)).trans (if_neg (by simp [W] at hbusy hen; simp [hbusy, hen])))))
    · refine hrow.trans (congrArg _ ((if_neg (by omega)).trans ((if_neg (by omega)).trans ((if_pos (by simp [W] at hbusy; simp [hbusy])).trans
        (State.updWin_congr ?_)))))
      simp [W] at hbusy
      simp [hbusy]
    · refine hrow.trans (congrArg _ ((if_neg (by omega)).trans ((if_neg (by omega)).trans ((if_pos (by simp [W] at hen; simp [hen])).trans
        (State.updWin_congr ?_)))))
      simp [W] at hbusy hen
      simp [hbusy, hen]
    · exact hrow.trans (congrArg _ ((if_pos h).trans (State.updPort_congr (HostPort.unsupported_eq _))))
  · intro op hop hacc
    have hrow : exec (.unlistedOpcode w) s = .next _ := hlive rfl
    rw [hrow, hop]
    exact congrArg _ (if_neg (by simp [hacc]))
  · intro hnone
    rw [hread, dataRead_none hnone]
  · intro c o len hfind hstruct at_
    refine ⟨fun hr => ?_, fun hup => ⟨fun hr => ?_, fun bs hr hlen => ?_⟩⟩
    · rw [hread, dataRead_error hfind hstruct hr]
    · subst hr
      rw [hread, dataRead_up hfind hstruct hup]
    · subst hr
      rw [hread, dataRead_data hfind hstruct hup hlen]
  · intro L hL
    refine ⟨?_, fun hb => imageStream_unbound hL hb r, fun c hc hphase hb => imageStream_streaming hL hc hphase hb r⟩
    have hrow : exec (.imageStreamData p r) s = .next _ := hlive rfl
    rw [hrow, hL]
  · exact fun c hop => beginLoad_loader hop
  · intro c L bs hL hc hspace all parts kept
    generalize hflaws : imageFlaw s p L.streamLen L.stagingBytes all = flaw
    have hstream : streamData s p c L (.data bs) = streamEnd
        ((stageParts s p L all (parts (streamLimit (imageFlaw s p L.streamLen L.stagingBytes all) all))).2.updLoader p fun L => { L with bytes := all })
        p L all false (stageParts s p L all (parts (streamLimit (imageFlaw s p L.streamLen L.stagingBytes all) all))).1
        (imageFlaw s p L.streamLen L.stagingBytes all) := streamData_data hspace bs
    rw [hflaws] at hstream
    clear hflaws
    refine ⟨fun x hx hparts => ?_, fun hflaw => ?_⟩
    · rw [hstream, hx, streamLimit, hparts]
      rfl
    · rw [hflaw, streamLimit] at hstream
      refine ⟨fun hparts hlen => ?_, fun hparts hlen => ?_, fun o at_ n a hparts hruns hlen hplaces hplace hpage => ?_,
        fun o at_ n e hparts hruns hplaces => ?_⟩
      · rw [hstream, hparts]
        exact (if_neg (Nat.ne_of_lt hlen)).trans (if_neg Bool.false_ne_true)
      · have hquads : (kept.parcel p).quads = (s.parcel p).quads := by
          rw [show kept.parcel p = _ from State.updParcel_parcel s p _]
        rw [hstream, hparts, ← hquads]
        exact if_pos hlen
      · obtain ⟨h0, hin⟩ := mem_stagingParts (hparts ▸ List.mem_singleton_self (o, at_, n))
        rw [hstream, hparts, (stageParts_one hin hruns).2 a hplaces h0 hplace hpage]
        exact (if_neg (Nat.ne_of_lt hlen)).trans (if_neg Bool.false_ne_true)
      · obtain ⟨-, hin⟩ := mem_stagingParts (hparts ▸ List.mem_singleton_self (o, at_, n))
        rw [hstream, hparts, (stageParts_one hin hruns).1 e hplaces]
        rfl
  · exact fun c L hL hc hlen hr hflaw hparts => streamData_stops hr hlen hflaw hparts
  · exact fun L hL hphase => copyDone_other hL hphase
  · exact fun L ts s1 hL hphase hcopy => copyDone_copied hL hphase hcopy
  · exact fun L d bs s1 hL hphase hdatas hoff hread hok _ i hi => copyDone_one hL hphase hdatas hoff hread hok hi
  · exact fun L c va ts s1 hL hphase hc hcopy => copyDone_poisoned_ended hL hphase hc hcopy
  · intro L c hL hc
    refine ⟨fun h => ?_, fun hphase hdatas => ?_, fun hphase => ?_⟩
    · have hcommit : loadBoundary s p false = commitImage s p L := by
        rw [loadBoundary_of_loader hL]
        rcases h with h | ⟨h, hdatas⟩
        · simp [h]
        · simp [h, hdatas]
      rw [hcommit]
      exact commitImage_ended hc
    · rw [loadBoundary_of_loader hL]
      simp [hphase, hdatas]
    · rw [loadBoundary_of_loader hL]
      rcases hphase with h | h | h <;> simp [h]

end Sys2Proof.Machine

/-! PROOFS. The life of a parcel: what two commands that wait for one end leave (chapter 19). -/

namespace Sys2Proof.Machine

-- ## A ring that is off

/-- A ring stays off while its pennants are written, and one of no parcel stays in it. -/
theorem drainWin_off {q : Pennant} (hq : q.parcel = none) (n : Nat) {s : State} {w : Window} :
    ((drainWin n s w).win w).en = (s.win w).en ∧
    ((s.win w).en = false → q ∈ (s.win w).waitQ → q ∈ ((drainWin n s w).win w).waitQ) := by
  induction n generalizing s with
  | zero => exact ⟨rfl, fun _ h => h⟩
  | succ n ih =>
    have hdrop (t : State) (seq : Option Nat) (k : Nat) : (countStale (dropCmd t seq) k).win w = t.win w := by cases seq <;> rfl
    have hwrite (p a : Nat) (bs : List Byte) (seq : Option Nat) (f : Win → Win) :
        (dropCmd ((hostWrite s p a bs).updWin w f) seq).win w = f (s.win w) := by
      rw [hostWrite_eq]
      cases seq <;> exact State.updWin_win ..
    have hmsix (t : State) (f v : Nat) : (sendMsix t f v).win w = t.win w := by
      obtain ⟨e, he⟩ := sendMsix_evt t f v
      rw [he]
      rfl
    unfold drainWin
    dsimp only
    split
    · exact ⟨rfl, fun _ h => h⟩
    next x rest hwait =>
      split
      · exact ⟨rfl, fun _ h => h⟩
      · split
        next hstale =>
          obtain ⟨hen, hkeep⟩ := ih (s := countStale (dropCmd (s.updWin w fun W => { W with waitQ := rest }) x.cmd) (x.parcel.getD 0))
          rw [hdrop, State.updWin_win] at hen hkeep
          refine ⟨hen, fun hoff hmem => hkeep hoff ?_⟩
          refine (List.mem_cons.mp (hwait ▸ hmem)).resolve_left fun hx => ?_
          rw [← hx, hq] at hstale
          exact Bool.false_ne_true hstale
        · split
          next hroom =>
            have hon : (s.win w).en = true := (Bool.and_eq_true _ _ ▸ hroom).1
            refine ⟨?_, fun hoff => absurd (hoff.symm.trans hon) Bool.false_ne_true⟩
            rw [(ih ..).1]
            split
            · rw [hmsix, hwrite]
            · rw [hwrite]
          · exact ⟨rfl, fun _ h => h⟩

/-- The pennant of a command of no parcel waits in a ring that is off. -/
theorem endCmd_off {s : State} {c : Cmd} {st : Nat} {det : List Byte} (hc : c.parcel = none) (hoff : ((endCmd s c st det).win c.win).en = false) :
    ((endCmd s c st det).win c.win).waitQ ≠ [] := by
  obtain ⟨q, hq, n, hend⟩ : ∃ q : Pennant, q.parcel = none ∧ ∃ n, endCmd s c st det = drainWin n (posted s c q) c.win := ⟨_, hc, _, rfl⟩
  rw [hend] at hoff ⊢
  obtain ⟨hen, hkeep⟩ := drainWin_off hq n (s := posted s c q) (w := c.win)
  refine List.ne_nil_of_mem (hkeep (hen ▸ hoff) ?_)
  rw [posted_win]
  exact List.mem_append_right _ (List.mem_singleton_self q)

-- ## The refutation

/-- A PARCEL_RESET of parcel 0 that an administrator's window 0 asked for. -/
def runningReset : Cmd := {
  win := { fn := 0, w := 0 }, tag := 1, opcode := 0x4C, ordered := false, raw := zeros 64, parcel := none, vintage := 0, seq := 1, phase := .running }

/-- A PARCEL_DESTROY of parcel 0, of window 1, whose ring is off. -/
def runningDestroy : Cmd := {
  win := { fn := 0, w := 1 }, tag := 2, opcode := 0x4B, ordered := false, raw := zeros 64, parcel := none, vintage := 0, seq := 2, phase := .running }

/-- Parcel 0 is quiescing for both commands, and a stale pennant in window 0 names the acceptance number of the PARCEL_DESTROY. -/
def staleDestroy : State := { cmds := [runningReset, runningDestroy]
                              parcels := [(0, { st := .quiescing, vintage := 2 })]
                              wins := [(winIx { fn := 0, w := 0 }, {
                                waitQ := [{ bytes := zeros 32, cmd := some 2, vintage := 1, parcel := some 0 }] })] }

/-- Refutes O45: the pennant of the PARCEL_RESET that ends first lets the stale one before it go, which takes the PARCEL_DESTROY out of the list; the
PARCEL_DESTROY then ends in no pennant. -/
theorem not_parcelLife : ¬ Obligations.ParcelLife := by
  unfold Obligations.ParcelLife
  intro h
  obtain ⟨-, -, -, -, -, -, -, -, -, -, hquiesced, -⟩ := h staleDestroy 0 0 rfl
  obtain ⟨-, hboth⟩ := hquiesced rfl
  obtain ⟨u, -, hend⟩ := hboth runningReset runningDestroy rfl rfl (by decide)
  have hoff : ((quiescingEnd staleDestroy 0).win runningDestroy.win).en = false := by decide +kernel
  have hempty : ((quiescingEnd staleDestroy 0).win runningDestroy.win).waitQ = [] := by decide +kernel
  have hend' : quiescingEnd staleDestroy 0 = endCmd u runningDestroy sSUCCESS (zeros 16) := hend
  rw [hend'] at hoff hempty
  exact endCmd_off rfl hoff hempty

end Sys2Proof.Machine

/-! PROOFS. The engine takes a latched command, and what begins by its opcode: EXECUTE, MAP, UNMAP and CELLAR_COPY (chapters 17 and 12). -/

namespace Sys2Proof.Machine

-- ## The engine takes a latched command

theorem takeRow_eq {s : State} (hs : Clocked s) (op : Nat) (w : Window) (data : List Byte) : takeRow op w data s =
    .next (if latchedOp s w = some op then settle (noteAwake s (takeLatched s w data)) else s) :=
  congrArg ok (live_clocked hs _)

section
variable {s : State} {w : Window} {raw : List Byte} {s1 : State} (hraw : (s.win w).latched = raw)
  (hs1 : s.updWin w (fun W => { W with busy := false, latched := [] }) = s1)
include hraw hs1

theorem takeLatched_unaccepted (data : List Byte) (h : winAccepts s1 w (fieldAt raw 0 1) = false) : takeLatched s w data =
    refuseCmd s1 w raw (if isAdminWin s1 w then none else winParcel s1 w) sINVALID_OPCODE (cmdDetail 0 0) := by
  subst hraw hs1
  exact if_pos (by rw [h]; rfl)

variable (hacc : winAccepts s1 w (fieldAt raw 0 1) = true)
include hacc

theorem takeLatched_admin (data : List Byte) (hop : opGroup (fieldAt raw 0 1) = some .admin) : takeLatched s w data =
    match fieldChecks s1 w raw with
    | some (st, d) => refuseCmd s1 w raw none st d
    | none => acceptCmd s1 w raw none data := by
  subst hraw hs1
  exact (if_neg (by rw [hacc]; nofun)).trans (if_pos hop)

variable (hop : opGroup (fieldAt raw 0 1) ≠ some .admin)
include hop

omit hraw hs1 in
/-- A window that accepts a command of another group than the administrator's is not the administrator's. -/
theorem not_isAdminWin : isAdminWin s1 w = false := by
  unfold winAccepts at hacc
  split at hacc
  · cases hacc
  next g hg =>
    rw [Bool.and_eq_true] at hacc
    have hsame := hacc.2
    cases g
    case admin => exact absurd hg hop
    all_goals
      cases h : isAdminWin s1 w
      · rfl
      · rw [h] at hsame
        exact absurd hsame (by decide)

theorem takeLatched_parcel (data : List Byte) : takeLatched s w data =
    match winParcel s1 w with
    | none => refuseCmd s1 w raw none sPERMISSION (cmdDetail 6 0)
    | some q =>
      if (s1.parcel q).st == .resetting then refuseCmd s1 w raw (some q) sPARCEL_RESET (cmdDetail 0 0)
      else
        match fieldChecks s1 w raw with
        | some (st, d) => refuseCmd s1 w raw (some q) st d
        | none => acceptCmd s1 w raw (some q) data := by
  unfold takeLatched
  dsimp only
  rw [hraw, hs1, if_neg (by rw [hacc]; nofun), if_neg hop, if_neg (by rw [not_isAdminWin hacc hop]; nofun)]
  cases winParcel s1 w <;> rfl

end

/-- The record of a command that is accepted for a parcel. -/
def acceptedCmd (s : State) (w : Window) (raw : List Byte) (p : Nat) (data : List Byte) : Cmd := {
  win := w, tag := fieldAt raw 2 2, opcode := fieldAt raw 0 1, ordered := bitOf (fieldAt raw 1 1) 0, raw := raw, parcel := some p
  vintage := (s.parcel p).vintage, seq := s.accepted, phase := .held, data := data
  wake := (decide ((s.parcel p).ps ≠ 0) || exiting s p) && !isControl (fieldAt raw 0 1) }

/-- The state in which a command of a parcel has been accepted. -/
def acceptedIn (s : State) (c : Cmd) (p : Nat) : State :=
  ({ s with cmds := s.cmds ++ [c], accepted := s.accepted + 1, pwr := { s.pwr with ps4 := false } } : State).updParcel p fun P => { P with ps := 0 }

theorem acceptCmd_parcel (s : State) (w : Window) (raw : List Byte) (p : Nat) (data : List Byte) :
    let c := acceptedCmd s w raw p data
    acceptCmd s w raw (some p) data = if fieldAt raw 0 1 = 0x10 ∧ (s.parcel p).noLoaderPath = true then
      endCmd (acceptedIn s c p) c sIMAGE_REJECTED (detail 0x1C 9 0xFFFF 0 0) else acceptedIn s c p := by
  intro c
  have hpath : ((acceptedIn s c p).parcel p).noLoaderPath = (s.parcel p).noLoaderPath := by
    rw [show (acceptedIn s c p).parcel p = _ from State.updParcel_parcel { s with
      cmds := s.cmds ++ [c], accepted := s.accepted + 1, pwr := { s.pwr with ps4 := false } } p _]
    rfl
  have heq : acceptCmd s w raw (some p) data = if (decide (fieldAt raw 0 1 = 0x10) && ((acceptedIn s c p).parcel p).noLoaderPath) = true then
      endCmd (acceptedIn s c p) c sIMAGE_REJECTED (detail 0x1C 9 0xFFFF 0 0) else acceptedIn s c p := rfl
  rw [heq, hpath]
  simp only [Bool.and_eq_true, decide_eq_true_eq]

-- ## Commands by opcode

theorem awaitStruct_some (s : State) (c : Cmd) (n : Nat) :
    (c.f 0x10 4 ≠ n → awaitStruct s c (some n) = endCmd s c sINVALID_FIELD (cmdDetail 4 0x10)) ∧
    (c.f 0x10 4 = n → awaitStruct s c (some n) = s.updCmd c.seq fun c => { c with phase := .running }) :=
  ⟨fun h => if_pos h, fun h => if_neg (not_not_intro h)⟩

section
variable (s : State) {c : Cmd}

theorem startCmd_storage (h : c.opcode ∈ [1, 2, 4, 5]) : startCmd s c = startStorage s c (c.parcel.getD 0) := by
  simp only [List.mem_cons, List.not_mem_nil, or_false] at h
  unfold startCmd
  rcases h with h | h | h | h <;> rw [h] <;> rfl

theorem startCmd_tables (h : c.opcode ∈ [0x20, 0x21]) : startCmd s c = editTables s c (c.parcel.getD 0) := by
  simp only [List.mem_cons, List.not_mem_nil, or_false] at h
  unfold startCmd
  rcases h with h | h <;> rw [h] <;> rfl

theorem startCmd_structure {n : Nat} (h : (c.opcode, n) ∈ [(0x40, 64), (0x4A, 128)]) : startCmd s c = awaitStruct s c (some n) := by
  simp only [List.mem_cons, List.not_mem_nil, or_false, Prod.mk.injEq] at h
  unfold startCmd
  rcases h with ⟨h, rfl⟩ | ⟨h, rfl⟩ <;> rw [h] <;> rfl

theorem startCmd_of_opcode : (c.opcode = 0x22 → startCmd s c = cellarCopy s c (c.parcel.getD 0)) ∧ (c.opcode = 0x12 → startCmd s c = fetchNow s c) ∧
    (c.opcode = 0x41 → startCmd s c = deleteNs s c) ∧ (c.opcode = 0x42 → startCmd s c = attachNs s c) ∧ (c.opcode = 0x43 → startCmd s c = identify s c) ∧
    (c.opcode = 0x47 → startCmd s c = prepareRemove s c) ∧ (c.opcode = 0x49 → startCmd s c = fwCommit s c) ∧
    (c.opcode = 0x4B → startCmd s c = destroyStart s c) ∧ (c.opcode = 0x4C → startCmd s c = resetStart s c) := by
  unfold startCmd
  refine ⟨?_, ?_, ?_, ?_, ?_, ?_, ?_, ?_, ?_⟩ <;> intro h <;> rw [h] <;> rfl

theorem startCmd_fwStage {st : Nat} {d : List Byte} (h : c.opcode = 0x48) (hcheck : fwStageCheck s c = some (st, d)) : startCmd s c = endCmd s c st d := by
  unfold startCmd
  rw [h]
  change fwStageStart s c = _
  unfold fwStageStart
  rw [hcheck]

end

-- ## The parameter block of an EXECUTE

section
variable {s : State} {c : Cmd} {p : Nat} (hop : c.opcode = 0x12)
include hop

theorem structure_execute (h : c.f 0x10 4 ≠ 0) : c.structure_ = some (8, c.f 0x10 4) := by
  unfold Cmd.structure_
  rw [hop]
  exact if_neg h

theorem fetchNow_empty (h : c.f 0x10 4 = 0) : fetchNow s c = s.updCmd c.seq fun c => { c with fetched := some [] } := by
  have hstruct : c.structure_ = none := by
    unfold Cmd.structure_
    rw [hop]
    exact if_pos h
  unfold fetchNow
  rw [hstruct]

variable (hp : c.parcel = some p) (h : c.f 0x10 4 ≠ 0)
include hp h

theorem fetchNow_host (hspace : c.space = false) : fetchNow s c = s := by
  unfold fetchNow
  rw [structure_execute hop h, hp]
  exact if_pos (by rw [hspace]; rfl)

variable (hspace : c.space = true)
include hspace

theorem fetchNow_read {bs : List Byte} {t : State} (hread : cmdRead s p (c.f 8 8) (c.f 0x10 4) = (.ok bs, t)) :
    fetchNow s c = t.updCmd c.seq fun c => { c with fetched := some bs } := by
  unfold fetchNow
  rw [structure_execute hop h, hp]
  dsimp only
  rw [if_neg (by rw [hspace]; nofun), hread]

theorem fetchNow_error {e : CmdErr} {i : Nat} {t : State} (hread : cmdRead s p (c.f 8 8) (c.f 0x10 4) = (.error (e, i), t)) :
    fetchNow s c = endCmd t c e.status (structDetail i e.va) := by
  unfold fetchNow
  rw [structure_execute hop h, hp]
  dsimp only
  rw [if_neg (by rw [hspace]; nofun), hread]

end

-- ## MAP and UNMAP

/-- What MAP and UNMAP leave once their descriptors are written: every unit drops the range, and the command waits for that. -/
def rangeDropped (s : State) (c : Cmd) (p : Nat) : State :=
  ((invParcel s p { kind := 4, va := c.f 8 8, ast := c.f 8 8 + c.f 0x18 8 }).updParcel p fun P => { P with
    invals := P.invals ++ [{ tile := none, byReg := false, cmd := some c.seq }] }).updCmd c.seq fun c => { c with phase := .running }

theorem editTables_map {s : State} {c : Cmd} (hop : c.opcode = 0x20) (p : Nat) :
    (∀ st d, mapEdit s c p = .error (st, d) → editTables s c p = endCmd s c st d) ∧
    ∀ t, mapEdit s c p = .ok t → editTables s c p = rangeDropped t c p := by
  unfold editTables
  rw [if_pos hop]
  exact ⟨fun st d h => by rw [h], fun t h => by rw [h]; rfl⟩

theorem editTables_unmap {s : State} {c : Cmd} (hop : c.opcode = 0x21) (p : Nat) :
    (∀ st d, unmapEdit s c p = .error (st, d) → editTables s c p = endCmd s c st d) ∧
    ∀ t, unmapEdit s c p = .ok t → editTables s c p = rangeDropped t c p := by
  unfold editTables
  rw [if_neg (by rw [hop]; decide)]
  exact ⟨fun st d h => by rw [h], fun t h => by rw [h]; rfl⟩

theorem unmapEdit_eq (s : State) (c : Cmd) (p : Nat) :
    (∀ e, unmapTable 4 s p (s.parcel p).root 0 0 (c.f 8 8) (c.f 8 8 + c.f 0x18 8) = .error e → unmapEdit s c p = .error e) ∧
    ∀ t, unmapTable 4 s p (s.parcel p).root 0 0 (c.f 8 8) (c.f 8 8 + c.f 0x18 8) = .ok t →
      unmapEdit s c p = .ok (unmapTdescs t p (c.f 8 8) (c.f 8 8 + c.f 0x18 8)) := by
  unfold unmapEdit
  dsimp only
  exact ⟨fun e h => by rw [h], fun t h => by rw [h]⟩

/-- A MAP of one page puts one leaf in place. -/
theorem mapEdit_one {s : State} {c : Cmd} {p page : Nat} (hpage : c.f 0x20 1 = page) (h4 : page < 4) (hn : c.f 0x18 8 = 2 ^ (12 + 9 * page)) :
    mapEdit s c p = mapOne s p (c.f 8 8) (3 - page) (3 + 4 * c.f 0x22 1 + 0x100 * c.f 0x24 2 + mapBase s c p / 4096 * 2 ^ 24) false := by
  have hspan : levelSpan (3 - page) = 2 ^ (12 + 9 * page) := congrArg (2 ^ ·) (by omega)
  have hone : c.f 0x18 8 / levelSpan (3 - page) = 1 := by rw [hn, hspan, Nat.div_self (Nat.two_pow_pos _)]
  unfold mapEdit
  dsimp only
  rw [hpage, if_neg (by omega), hone]
  unfold mapLeaves
  generalize mapOne s p (c.f 8 8) (3 - page) _ false = r
  cases r <;> rfl

/-- A descriptor that is put in place in the cellar stands there. -/
theorem mapOne_stored {s t : State} {p va level a d : Nat} (h : mapSlot 4 s p va 0 level (s.parcel p).root = .ok (a, t))
    (hplace : place a = .cellar a) (ha : a % 8 = 0) (hok : t.memOk) (hq : t.mem.quiet a 8) :
    ∃ u, mapOne s p va level d false = .ok u ∧ Stored t.mem u.mem a (leBytes 8 d) := by
  have hlt : a < 0x8000000000 := lt_of_place_cellar hplace
  have hwrite : writeDesc t a d = { t with mem := t.mem.store a (leBytes 8 d) false } :=
    fabricWrite_of_ownPlace t false (by simp [leBytes]) fun i hi => .inl (by simp [leBytes] at hi; omega)
  refine ⟨(writeDesc t a d).updParcel p fun P => { P with tdescs := [] ++ P.tdescs.filter fun x => x.1 != a }, ?_, ?_⟩
  · unfold mapOne
    rw [h]
    rfl
  · change Stored t.mem (writeDesc t a d).mem a (leBytes 8 d)
    rw [hwrite]
    exact Mem.stored_store hok (.inr (by simpa [leBytes] using hq)) false

-- ## CELLAR_COPY

/-- A range of a page is one run. -/
theorem pageRuns_one {va n : Nat} (h0 : 0 < n) (hpage : va / 4096 = (va + n - 1) / 4096) : pageRuns va n = [(va, n)] := by
  unfold pageRuns
  rw [if_neg (Nat.ne_of_gt h0), ← hpage, Nat.sub_self]
  have hlo : max va (va / 4096 * 4096) = va := by omega
  have hhi : min (va + n) ((va / 4096 + 1) * 4096) = va + n := by omega
  simp [List.range_succ, hlo, hhi]

theorem cmdXlat_error {s : State} {p va : Nat} {k : AccessKind} {e : CmdErr} (h : cmdXlat s p va k = .error e) : e.va = va := by
  unfold cmdXlat at h
  split at h
  · cases h; rfl
  · split at h
    · cases h; rfl
    · dsimp only at h
      split at h
      · cases h; rfl
      · cases h

theorem inCellar_of_place {a : Nat} (h : place a = .cellar a) : inCellar a = true := by
  unfold inCellar
  rw [h]

section
variable {s : State} {p src dst n : Nat} (h0 : 0 < n) (hsrc : src / 4096 = (src + n - 1) / 4096)

theorem cmdPlaces_byte {va : Nat} {wr : Bool} : (∀ e, cmdXlat s p va .load = .error e → cmdPlaces s p va 1 wr true = .error e) ∧
    ∀ a, cmdXlat s p va .load = .ok a → (wr = true → cmdXlat s p va .store = .ok a) → place a = .cellar a →
      cmdPlaces s p va 1 wr true = .ok [(a, 1)] := by
  have hruns : pageRuns va 1 = [(va, 1)] := pageRuns_one Nat.one_pos (by omega)
  unfold cmdPlaces
  rw [hruns]
  simp only [List.foldl_cons, List.foldl_nil, if_true]
  refine ⟨fun e h => by rw [h], fun a h hwr hplace => ?_⟩
  rw [h]
  cases wr with
  | false => simp [inCellar_of_place hplace]
  | true => simp [hwr rfl, inCellar_of_place hplace]

include h0 hsrc

theorem copyChunks_one (hdst : dst / 4096 = (dst + n - 1) / 4096) : copyChunks src dst n = [(0, n)] := by
  unfold copyChunks
  rw [pageRuns_one h0 hsrc, pageRuns_one h0 hdst]
  simp [sortBy, insertBy, List.eraseDups_cons]

variable (hdst : dst / 4096 = (dst + n - 1) / 4096) {c : Cmd} (hc : c.f 8 8 = src ∧ c.f 0x10 8 = dst ∧ c.f 0x18 8 = n)
  (hapart : ¬ (src < dst + n ∧ dst < src + n))
include hdst hc hapart

theorem cellarCopy_apart : cellarCopy s c p =
    match copyEnd s p src dst [(0, n)] with
    | none => endCmd (copyBytes s p src dst n) c sSUCCESS (zeros 16)
    | some (e, f, o) => endCmd (copyBytes s.stamp.2 p src dst ((Config.freeWord s.stamp.1).toNat % (o + 1))) c e.status (detail 0 1 0 f e.va) := by
  obtain ⟨rfl, rfl, rfl⟩ := hc
  unfold cellarCopy
  dsimp only
  rw [if_neg (by simpa using hapart), copyChunks_one h0 hsrc hdst] <;> rfl

/-- Bytes that can be read and written are copied. -/
theorem cellarCopy_moves {a b : Nat} (ha : cmdXlat s p src .load = .ok a) (hb : cmdXlat s p dst .load = .ok b) (hb' : cmdXlat s p dst .store = .ok b)
    (hplace : place a = .cellar a) (hplace' : place b = .cellar b) (hoff : a % 4096 = src % 4096) (hoff' : b % 4096 = dst % 4096)
    (hgood : ∀ i, i < n → s.mem.poisoned (a + i) = false) :
    cellarCopy s c p = endCmd { s with mem := s.mem.store b (s.mem.read a n) false } c sSUCCESS (zeros 16) := by
  have hplaces : copyPlaces s p src dst 0 = .ok (a, b) := by
    unfold copyPlaces
    rw [Nat.add_zero, Nat.add_zero, (cmdPlaces_byte (wr := false)).2 a ha nofun hplace]
    dsimp only
    rw [(cmdPlaces_byte (wr := true)).2 b hb (fun _ => hb') hplace']
    rfl
  have hbelow : a + n ≤ 0x8000000000 := by have := lt_of_place_cellar hplace; omega
  have hclean : poisonIn s a n = none := by
    unfold poisonIn findBelow
    refine List.find?_eq_none.mpr fun i hi => ?_
    have hi' := List.mem_range.mp hi
    rw [canon_of_ownPlace s (.inl (by omega)), Option.map_some, Option.getD_some, hgood i hi']
    nofun
  have hend : copyEnd s p src dst [(0, n)] = none := by
    unfold copyEnd
    rw [hplaces]
    dsimp only
    rw [hclean]
    rfl
  have hlen : (s.mem.read a n).length = n := by simp [Mem.read]
  have hcopy : copyBytes s p src dst n = { s with mem := s.mem.store b (s.mem.read a n) false } := by
    unfold copyBytes
    rw [copyChunks_one h0 hsrc hdst, List.foldl_cons, List.foldl_nil, hplaces]
    dsimp only
    unfold fabricRead
    rw [fabricReadAt_of_cellar _ _ h0 hbelow]
    refine fabricWrite_of_ownPlace s false (bs := s.mem.read a n) (fun hnil => ?_) fun i hi => .inl (by have := lt_of_place_cellar hplace'; omega)
    rw [hnil] at hlen
    exact Nat.ne_of_lt h0 hlen
  rw [cellarCopy_apart h0 hsrc hdst hc hapart, hend, hcopy]

/-- A copy whose first byte does not translate moves nothing. -/
theorem cellarCopy_fails {e : CmdErr} (he : cmdXlat s p src .load = .error e) :
    cellarCopy s c p = endCmd { s with freeCtr := s.freeCtr + 1 } c e.status (detail 0 1 0 8 src) := by
  have hend : copyEnd s p src dst [(0, n)] = some (e, 8, 0) := by
    unfold copyEnd copyPlaces
    rw [Nat.add_zero, (cmdPlaces_byte (wr := false)).1 e he]
  have hnothing (t : State) : copyBytes t p src dst 0 = t := rfl
  rw [cellarCopy_apart h0 hsrc hdst hc hapart, hend]
  dsimp only
  rw [Nat.zero_add, Nat.mod_one, hnothing, cmdXlat_error he]
  rfl

end

end Sys2Proof.Machine

/-! PROOFS. Namespaces, firmware, and what a latched command of each opcode does (chapters 17, 18 and 24). -/

namespace Sys2Proof.Machine

-- ## CREATE_NS

theorem Told.sto {s t : State} (h : Told s t) : t.sto = s.sto := by
  obtain ⟨_, _, _, rfl⟩ := h.rest
  rfl

theorem Told.casks {s t : State} (h : Told s t) : t.casks = s.casks := by
  obtain ⟨_, _, _, rfl⟩ := h.rest
  rfl

/-- The casks of some ports are in a set, and the tables of namespaces and sets are given. -/
structure InSet (i : Nat) (ports : List Nat) (nss : Tab Namespace) (sets : Tab ProtSet) (u : State) : Prop where
  nss : u.sto.nss = nss
  sets : u.sto.sets = sets
  casks : ∀ k ∈ ports, (u.cask k).inSet = true ∧ (u.cask k).set = i ∧ ((u.cask k).st = .member ∨ (u.cask k).st = .readonly)

namespace InSet

variable {i : Nat} {ports : List Nat} {nss : Tab Namespace} {sets : Tab ProtSet} {u : State} (h : InSet i ports nss sets u)
include h

theorem told {t : State} (ht : Told u t) : InSet i ports nss sets t := by
  have hcask (k : Nat) : t.cask k = u.cask k := by rw [State.cask, State.cask, ht.casks]
  exact ⟨by rw [ht.sto, h.nss], by rw [ht.sto, h.sets], fun k hk => by rw [hcask]; exact h.casks k hk⟩

theorem updCask {f : Cask → Cask} (n : Nat) (hf : ∀ C, (f C).inSet = C.inSet ∧ (f C).set = C.set ∧ ((f C).st = C.st ∨ (f C).st = .readonly)) :
    InSet i ports nss sets (u.updCask n f) := by
  refine ⟨h.nss, h.sets, fun k hk => ?_⟩
  by_cases hkn : k = n
  · subst hkn
    obtain ⟨hin, hset, hst⟩ := h.casks k hk
    obtain ⟨hfin, hfset, hfst⟩ := hf (u.cask k)
    rw [State.updCask_cask]
    refine ⟨hfin.trans hin, hfset.trans hset, ?_⟩
    rcases hfst with hfst | hfst
    · rw [hfst]
      exact hst
    · exact .inr hfst
  · rw [State.updCask_cask_ne _ _ hkn]
    exact h.casks k hk

theorem noteSet (j old : Nat) : InSet i ports nss sets (noteSet u j old) := by
  unfold Machine.noteSet
  split
  · exact h
  · have hchange : InSet i ports nss sets { u with sto := { u.sto with setChange := true } } := ⟨h.nss, h.sets, h.casks⟩
    dsimp only
    split
    · exact hchange.told (Told.raiseGlobal ..)
    · exact hchange

theorem writeRecords (j : Nat) : InSet i ports nss sets (writeRecords u j) := by
  unfold Machine.writeRecords
  split
  · exact h
  · refine foldl_keeps (P := InSet i ports nss sets) _ _ h fun v x hv => ?_
    split
    · exact hv
    · exact hv.updCask _ fun C => ⟨rfl, rfl, .inl rfl⟩

theorem wearLimit (n : Nat) : InSet i ports nss sets (wearLimit u n) := by
  unfold Machine.wearLimit
  dsimp only
  split
  · unfold raiseCask
    have hlim := h.updCask n (f := fun C => { C with st := .readonly }) fun C => ⟨rfl, rfl, .inr rfl⟩
    split
    · exact (hlim.updCask n (f := fun C => { C with evPending := C.evPending ||| BitVec.ofNat 8 (2 ^ 2) }) fun C => ⟨rfl, rfl, .inl rfl⟩).told
        (Told.raise ..)
    · exact hlim
  · exact h

end InSet

/-- The casks of the ports of a new set become its members. -/
theorem inSet_members (s : State) (i : Nat) (ports : List Nat) :
    InSet i ports s.sto.nss s.sto.sets (foldNat ports (fun n s => s.updCask n fun C => { C with st := .member, inSet := true, set := i }) s) := by
  have hfold (l : List Nat) : ∀ t : State, t.sto = s.sto →
      let u := foldNat l (fun n s => s.updCask n fun C => { C with st := .member, inSet := true, set := i }) t
      u.sto = s.sto ∧ ∀ k, (k ∈ l ∨ (t.cask k).inSet = true ∧ (t.cask k).set = i ∧ (t.cask k).st = .member) →
        (u.cask k).inSet = true ∧ (u.cask k).set = i ∧ (u.cask k).st = .member := by
    induction l with
    | nil => exact fun t ht => ⟨ht, fun k hk => hk.resolve_left List.not_mem_nil⟩
    | cons n l ih =>
      intro t ht
      obtain ⟨hsto, hcask⟩ := ih (t.updCask n fun C => { C with st := .member, inSet := true, set := i }) ht
      refine ⟨hsto, fun k hk => hcask k ?_⟩
      by_cases hkn : k = n
      · subst hkn
        rw [State.updCask_cask]
        exact .inr ⟨rfl, rfl, rfl⟩
      · rw [State.updCask_cask_ne _ _ hkn]
        exact hk.imp (fun h => (List.mem_cons.mp h).resolve_left hkn) id
  obtain ⟨hsto, hcask⟩ := hfold ports s rfl
  refine ⟨by rw [hsto], by rw [hsto], fun k hk => ?_⟩
  obtain ⟨hin, hset, hst⟩ := hcask k (.inl hk)
  exact ⟨hin, hset, .inl hst⟩

/-- The set that is formed of some ports. -/
def formedSet (s : State) (p : Nat) (ports : List Nat) (cap : Nat) : ProtSet := {
  members := ports.map fun n => { port := n, serial := recSerial (s.cask n).idrec, zoneCount := (s.cask n).zoneCount }
  p := p, cap := cap, reserve := s.sto.reservePct.toNat }

theorem newSet_inSet (s : State) (i p : Nat) (ports : List Nat) (cap : Nat) :
    InSet i ports s.sto.nss (Tab.set s.sto.sets i (formedSet s p ports cap)) (newSet s i p ports cap) :=
  foldl_keeps (P := InSet i ports s.sto.nss (Tab.set s.sto.sets i (formedSet s p ports cap))) _ _
    (((inSet_members { s with sto := { s.sto with sets := Tab.set s.sto.sets i (formedSet s p ports cap) } } i ports).noteSet i 0).writeRecords i)
    fun _ n hu => hu.wearLimit n

theorem formedSet_ports (s : State) (p : Nat) (ports : List Nat) (cap : Nat) : (formedSet s p ports cap).members.map (·.port) = ports := by
  unfold formedSet
  rw [List.map_map]
  exact List.map_id _

section
variable {s : State} {c : Cmd} {d : List Byte}

theorem createNs_bad {x : Nat} (h : nsField d = some x) : createNs s c d = endCmd s c sINVALID_FIELD (bodyDetail 4 x) := by
  unfold createNs
  dsimp only
  rw [h]

/-- Units that the namespace of a descriptor takes. -/
def descUnits (d : List Byte) : Nat := ceilDiv (fieldAt d 0 8 * (if fieldAt d 8 1 = 1 then 16384 else 4096)) unitBytes

theorem descUnits_eq (d : List Byte) : descUnits d = (fieldAt d 0 8 * (if fieldAt d 8 1 = 1 then 16384 else 4096) + 262143) / 262144 := by
  unfold descUnits ceilDiv unitBytes
  rw [Nat.add_sub_assoc (by decide)]

variable (hfield : nsField d = none) (hroom : s.sto.nss.length < 1024)
include hfield hroom

/-- A namespace in a set that is there. -/
theorem createNs_old {P : ProtSet} (hnew : fieldAt d 9 1 = 0) (hset : s.pset (fieldAt d 0xA 1) = some P) (hcode : P.code ≠ 4) : createNs s c d =
    if P.cap < setUsed s (fieldAt d 0xA 1) + descUnits d then endCmd s c sCAPACITY (bodyDetail 0x22 0)
    else
      let n := (findBelow 1024 fun n => (s.nspace n).isNone).getD 0
      endCmd (s.setNss (Tab.set s.sto.nss n { nblocks := fieldAt d 0 8, bs := if fieldAt d 8 1 = 1 then 16384 else 4096, set := fieldAt d 0xA 1
                                              guid := slice d 0x10 16 })) c sSUCCESS (leBytes 4 n ++ zeros 12) := by
  have hcode0 : P.code ≠ 0 := by
    unfold ProtSet.code
    repeat' split
    all_goals decide
  have hof : setCode s (fieldAt d 0xA 1) = P.code := by
    unfold setCode
    rw [hset]
    rfl
  unfold createNs
  dsimp only
  rw [hfield, hnew]
  simp only [hof, hset, hcode, hcode0, Nat.not_le.mpr hroom, if_false, decide_false, Bool.false_and, Bool.not_false, Bool.true_and, Bool.or_false,
    Nat.zero_ne_one, Bool.false_eq_true, Option.map_some, Option.getD_some]
  rfl

/-- A namespace that forms its set. -/
theorem createNs_new {ports : List Nat} {p : Nat} (hports : setBits 16 (fieldAt d 0xC 2) = ports) (hp : fieldAt d 0xB 1 = p) (hnew : fieldAt d 9 1 = 1)
    (hsets : s.sto.sets.length < 16) (h4 : 4 ≤ ports.length) (hp2 : p + 2 ≤ ports.length)
    (hfree : ∀ k ∈ ports, caskPresent s k = true ∧ (s.cask k).st = .spare ∧ isTarget s k = false)
    {cap : Nat} (hcap : setCapacity ports.length p (ports.foldl (fun z n => min z (s.cask n).zoneCount) (2 ^ 32)) s.sto.reservePct.toNat = cap)
    (hfit : descUnits d ≤ cap) : createNs s c d =
    let i := (findBelow 16 fun i => (s.pset i).isNone).getD 0
    let t := newSet s i p ports cap
    let n := (findBelow 1024 fun n => (t.nspace n).isNone).getD 0
    endCmd (t.setNss (Tab.set t.sto.nss n { nblocks := fieldAt d 0 8, bs := if fieldAt d 8 1 = 1 then 16384 else 4096, set := i
                                            guid := slice d 0x10 16 })) c sSUCCESS (leBytes 4 n ++ zeros 12) := by
  subst hports hp hcap
  have hpresent : (setBits 16 (fieldAt d 0xC 2)).any (fun n => !caskPresent s n) = false := by
    rw [List.any_eq_false]
    intro k hk
    rw [(hfree k hk).1]
    nofun
  have hspare : (setBits 16 (fieldAt d 0xC 2)).any (fun n => (s.cask n).st != .spare || isTarget s n) = false := by
    rw [List.any_eq_false]
    intro k hk
    rw [(hfree k hk).2.1, (hfree k hk).2.2]
    nofun
  unfold createNs
  dsimp only
  rw [hfield]
  simp only [hnew, hpresent, hspare, Nat.not_le.mpr hroom, Nat.not_le.mpr hsets, Nat.not_lt.mpr h4, Nat.not_lt.mpr hp2, if_false, decide_false,
    decide_true, Bool.and_false, Bool.not_true, Bool.false_and, Bool.or_false, Bool.false_eq_true, if_true, Nat.zero_add]
  exact if_neg (Nat.not_lt.mpr hfit)

/-- A namespace in a set that it forms has the set's members as members. -/
theorem createNs_forms {p n i : Nat} (hp : fieldAt d 0xB 1 = p) (hnew : fieldAt d 9 1 = 1) (hsets : s.sto.sets.length < 16)
    (hn : findBelow 1024 (fun n => (s.nspace n).isNone) = some n) (hi : findBelow 16 (fun i => (s.pset i).isNone) = some i)
    {ports : List Nat} (hports : setBits 16 (fieldAt d 0xC 2) = ports) (h4 : 4 ≤ ports.length) (hp2 : p + 2 ≤ ports.length)
    (hfree : ∀ k ∈ ports, caskPresent s k = true ∧ (s.cask k).st = .spare ∧ isTarget s k = false)
    {cap : Nat} (hcap : setCapacity ports.length p (ports.foldl (fun z n => min z (s.cask n).zoneCount) (2 ^ 32)) s.sto.reservePct.toNat = cap)
    (hfit : descUnits d ≤ cap) :
    Ended (createNs s c d) c sSUCCESS (leBytes 4 n ++ zeros 12) fun u =>
      u.nspace n = some { nblocks := fieldAt d 0 8, bs := if fieldAt d 8 1 = 1 then 16384 else 4096, set := i, guid := slice d 0x10 16 } ∧
      (∃ P, u.pset i = some P ∧ P.p = p ∧ P.members.map (·.port) = ports ∧ P.cap = cap) ∧
      ∀ k ∈ ports, (u.cask k).inSet = true ∧ (u.cask k).set = i ∧ ((u.cask k).st = .member ∨ (u.cask k).st = .readonly) := by
  obtain ⟨hnss, hpsets, hcasks⟩ := newSet_inSet s i p ports cap
  have hcreate := createNs_new (c := c) hfield hroom hports hp hnew hsets h4 hp2 hfree hcap hfit
  have hspace (k : Nat) : (newSet s i p ports cap).nspace k = s.nspace k := by rw [State.nspace, State.nspace, hnss]
  dsimp only at hcreate
  rw [hi, Option.getD_some] at hcreate
  simp only [hspace] at hcreate
  rw [hn, Option.getD_some] at hcreate
  generalize newSet s i p ports cap = t at *
  refine ⟨t.setNss (Tab.set t.sto.nss n { nblocks := fieldAt d 0 8, bs := if fieldAt d 8 1 = 1 then 16384 else 4096, set := i, guid := slice d 0x10 16 }),
    ⟨Tab.find_set_same .., ⟨formedSet s p ports cap, ?_, rfl, formedSet_ports .., rfl⟩, hcasks⟩, hcreate⟩
  exact (congrArg (Tab.find · i) hpsets).trans (Tab.find_set_same ..)

end

-- ## DELETE_NS, ATTACH_NS and IDENTIFY

theorem Tab.find_erase_same {α : Type} (m : Tab α) (k : Nat) : Tab.find (Tab.erase m k) k = none := by
  unfold Tab.erase
  induction m with
  | nil => rfl
  | cons e m ih =>
    by_cases he : e.1 = k
    · rw [List.filter_cons_of_neg (by simp [he])]
      exact ih
    · rw [List.filter_cons_of_pos (by simpa using he), Tab.find, if_neg he]
      exact ih

theorem State.updPset_nspace (s : State) (i n : Nat) (f : ProtSet → ProtSet) : (s.updPset i f).nspace n = s.nspace n := by
  unfold State.updPset
  split <;> rfl

theorem State.updPset_pset (s : State) (i : Nat) (f : ProtSet → ProtSet) : (s.updPset i f).pset i = (s.pset i).map f := by
  unfold State.updPset
  split
  next h => rw [h]; rfl
  next P h =>
    rw [h]
    exact Tab.find_set_same ..

/-- A set whose stripes in the making hold nothing of a namespace. -/
def ProtSet.withoutNs (P : ProtSet) (n : Nat) : ProtSet := { P with
  opened := P.opened.filter fun x => x.id.ns != n
  closing := P.closing.map fun x => { x with content := x.content.filter fun x => x.id.ns != n } }

section
variable {s : State} {c : Cmd}

theorem noNamespace (h : s.nspace c.nsid = none) :
    deleteNs s c = endCmd s c sNS_NOT_READY (cmdDetail 0 4) ∧ attachNs s c = endCmd s c sNS_NOT_READY (cmdDetail 0 4) ∧
    (c.nsid ≠ 0xFFFFFFFF → identify s c = endCmd s c sNS_NOT_READY (cmdDetail 0 4)) := by
  refine ⟨?_, ?_, fun hn => ?_⟩
  · unfold deleteNs
    rw [h]
  · unfold attachNs
    rw [h]
  · unfold identify
    rw [if_neg hn, h]
    rfl

theorem identify_device (h : c.nsid = 0xFFFFFFFF) :
    identify s c = endCmd (hostWrite s (winPort s c.win) (c.f 8 8) (identifyDevice s)) c sSUCCESS (zeros 16) := by
  unfold identify
  rw [if_pos h]

variable {N : Namespace} (hN : s.nspace c.nsid = some N)
include hN

theorem identify_space (h : c.nsid ≠ 0xFFFFFFFF) :
    identify s c = endCmd (hostWrite s (winPort s c.win) (c.f 8 8) (identifyNs s c.nsid N)) c sSUCCESS (zeros 16) := by
  unfold identify
  rw [if_neg h, hN]
  rfl

theorem deleteNs_refused (h : N.attached ≠ none ∨ s.cmds.any (detaching c.nsid) = true) :
    deleteNs s c = endCmd s c sINVALID_FIELD (cmdDetail 0x26 4) := by
  unfold deleteNs
  rw [hN]
  exact if_pos (by simpa [Option.isSome_iff_ne_none] using h)

/-- A namespace that is deleted is gone, and the open stripe of its set holds nothing of it. -/
theorem deleteNs_deletes (hattached : N.attached = none) (hdetach : s.cmds.any (detaching c.nsid) = false) :
    ∃ u, deleteNs s c = tryDissolve (endCmd u c sSUCCESS (zeros 16)) N.set ∧ u.nspace c.nsid = none ∧
      ∀ P, u.pset N.set = some P → ∀ x ∈ P.opened, x.id.ns ≠ c.nsid := by
  refine ⟨(s.setNss (Tab.erase s.sto.nss c.nsid)).updPset N.set fun P => P.withoutNs c.nsid, ?_, ?_, fun P hP x hx => ?_⟩
  · unfold deleteNs
    rw [hN]
    exact if_neg (by simp [hattached, hdetach])
  · rw [State.updPset_nspace]
    exact Tab.find_erase_same ..
  · rw [State.updPset_pset] at hP
    obtain ⟨Q, -, rfl⟩ := Option.map_eq_some_iff.mp hP
    simpa using (List.mem_filter.mp hx).2

theorem attachNs_attach (hset : c.f 9 1 = 0) :
    ((s.parcel (c.f 8 1)).holds = false → attachNs s c = endCmd s c sINVALID_FIELD (cmdDetail 4 8)) ∧
    ((s.parcel (c.f 8 1)).holds = true →
      (∀ o, N.attached = some o → o ≠ c.f 8 1 → attachNs s c = endCmd s c sINVALID_FIELD (cmdDetail 0x27 8)) ∧
      (N.attached = none ∨ N.attached = some (c.f 8 1) →
        attachNs s c = endCmd (s.updNs c.nsid fun N => { N with attached := some (c.f 8 1) }) c sSUCCESS (zeros 16))) := by
  unfold attachNs
  dsimp only
  rw [hN]
  dsimp only
  rw [if_pos hset]
  refine ⟨fun h => if_pos (by rw [h]; rfl), fun h => ?_⟩
  rw [if_neg (by rw [h]; nofun)]
  refine ⟨fun o ho hne => if_pos (by simp [ho, hne]), fun hor => if_neg ?_⟩
  rcases hor with h | h <;> simp [h]

theorem attachNs_detach (hset : c.f 9 1 ≠ 0) :
    (N.attached ≠ some (c.f 8 1) → attachNs s c = endCmd s c sINVALID_FIELD (cmdDetail 4 8)) ∧
    (N.attached = some (c.f 8 1) → attachNs s c = (s.updNs c.nsid fun N => { N with attached := none }).updCmd c.seq fun c => { c with phase := .running }) := by
  unfold attachNs
  dsimp only
  rw [hN]
  dsimp only
  rw [if_neg hset]
  exact ⟨fun h => if_pos h, fun h => if_neg (not_not_intro h)⟩

end

-- ## FW_STAGE and FW_COMMIT

/-- What FW_STAGE leaves in the flash: the slot that is not running takes the bytes, and everything else is as it was. -/
theorem fwStage_flash (s : State) (c : Cmd) (bs : List Byte) :
    ∃ F, fwStage s c bs = endCmd { s with boot := { s.boot with flash := F } } c sSUCCESS (zeros 16) ∧
      F.dir0 = s.boot.flash.dir0 ∧ F.dir1 = s.boot.flash.dir1 ∧
      (s.glb.fwSlot = false → F.slotA = s.boot.flash.slotA ∧ F.slotB = flashPut s.boot.flash.slotB (c.f 0x18 8) bs) ∧
      (s.glb.fwSlot = true → F.slotB = s.boot.flash.slotB ∧ F.slotA = flashPut s.boot.flash.slotA (c.f 0x18 8) bs) := by
  refine ⟨_, rfl, ?_⟩
  cases s.glb.fwSlot
  · exact ⟨rfl, rfl, fun _ => ⟨rfl, rfl⟩, nofun⟩
  · exact ⟨rfl, rfl, nofun, fun _ => ⟨rfl, rfl⟩⟩

section
variable {s : State} {c : Cmd} {d : List Byte}

theorem fwCommit_busy (h : fwBusy s c = true) : fwCommit s c = endCmd s c sINVALID_FIELD (cmdDetail 0x44 0) := if_pos h

variable (hidle : fwBusy s c = false) (hdir : s.boot.flash.dir = some d)
include hidle hdir

theorem fwCommit_refused (h : slotReason s d (c.f 4 1 == 1) ≠ 0) : fwCommit s c =
    endCmd s c (fwReason (slotReason s d (c.f 4 1 == 1))).1 (cmdDetail (fwReason (slotReason s d (c.f 4 1 == 1))).2 0) := by
  unfold fwCommit
  rw [if_neg (by rw [hidle]; nofun), hdir]
  exact if_pos h

theorem fwCommit_commits (h : slotReason s d (c.f 4 1 == 1) = 0) : Ended (fwCommit s c) c sSUCCESS (zeros 16) fun u =>
    u.boot.flash.dir0 = dirPut d (b2n (c.f 4 1 == 1)) (if (c.f 4 1 == 1) = s.glb.fwSlot then fieldAt d 7 1 else fieldAt d 7 1 / 2 * 2 + 1) ∧
    u.boot.flash.dir1 = u.boot.flash.dir0 ∧ u.pwr.resetAfter = if c.f 5 1 = 1 then some c.seq else s.pwr.resetAfter := by
  unfold fwCommit
  rw [if_neg (by rw [hidle]; nofun), hdir]
  dsimp only
  rw [if_neg (not_not_intro h)]
  refine ⟨_, ?_, rfl⟩
  by_cases hreset : c.f 5 1 = 1
  · rw [if_pos hreset, if_pos hreset]
    exact ⟨rfl, rfl, rfl⟩
  · rw [if_neg hreset, if_neg hreset]
    exact ⟨rfl, rfl, rfl⟩

end

-- ## The statement

/-- Settles O42: every row is the taking of a latched command, and each clause is the equation of the model function that the clause names, in the case
of the clause. -/
theorem commandAcceptance : Obligations.CommandAcceptance := by
  intro s w data hs rows raw op s1
  have htake (n : Nat) (d : List Byte) (h : latchedOp s w = some n) : takeRow n w d s = .next (settle (noteAwake s (takeLatched s w d))) := by
    rw [takeRow_eq hs, if_pos h]
  have hother (n : Nat) (d : List Byte) (h : latchedOp s w ≠ some n) : takeRow n w d s = .next s := by
    rw [takeRow_eq hs, if_neg h]
  have hrows : ∀ r ∈ rows, exec r.2 s = takeRow r.1 w [] s := by
    intro r hr
    simp only [rows, List.mem_cons, List.not_mem_nil, or_false] at hr
    rcases hr with rfl | rfl | rfl | rfl | rfl | rfl | rfl | rfl | rfl | rfl | rfl | rfl | rfl | rfl | rfl | rfl | rfl | rfl | rfl | rfl | rfl | rfl |
      rfl | rfl | rfl <;> rfl
  refine ⟨fun r hr h => (hrows r hr).trans (htake _ _ h), fun h => (show exec (.write w data) s = takeRow 2 w data s from rfl).trans (htake _ _ h),
    fun r hr h => (hrows r hr).trans (hother _ _ h), fun hacc hadmin => ?_, fun hacc hop hcheck => ?_, fun hacc hop => ?_, fun c p => ?_⟩
  · rw [takeLatched_unaccepted rfl rfl data hacc, if_pos hadmin]
  · rw [takeLatched_admin rfl rfl hacc data hop, hcheck]
  · have htaken := takeLatched_parcel rfl rfl hacc hop data
    refine ⟨fun hq => ?_, fun q hq hst => ?_, fun q st d hq hst hcheck => ?_, fun q hq hst hcheck => ⟨?_, ?_, ?_⟩⟩
    · rw [htaken, hq]
    · rw [htaken, hq]
      exact if_pos (by simpa using hst)
    · rw [htaken, hq]
      refine (if_neg (by simpa using hst)).trans ?_
      rw [hcheck]
    · rw [htaken, hq]
      refine (if_neg (by simpa using hst)).trans ?_
      rw [hcheck]
    · intro hop hpath
      refine ⟨acceptedCmd s1 w raw q data, rfl, rfl, rfl, rfl, ?_⟩
      rw [acceptCmd_parcel]
      exact if_pos ⟨hop, hpath⟩
    · intro hor
      have haccept : acceptCmd s1 w raw (some q) data = acceptedIn s1 (acceptedCmd s1 w raw q data) q := by
        rw [acceptCmd_parcel]
        exact if_neg fun h => hor.elim (fun hne => hne h.1) fun hfalse => Bool.false_ne_true (hfalse.symm.trans h.2)
      rw [haccept]
      refine ⟨acceptedCmd s1 w raw q data, rfl, rfl, rfl, rfl, rfl, rfl, rfl, rfl, rfl, rfl, rfl, ?_⟩
      exact congrArg Parcel.ps (State.updParcel_parcel { s1 with
        cmds := s1.cmds ++ [acceptedCmd s1 w raw q data], accepted := s1.accepted + 1, pwr := { s1.pwr with ps4 := false } } q _)
  · intro q fails runs
    refine ⟨?_, ?_, ?_, ?_, ?_, ?_, fun bs _ => fwStage_flash s c bs, fun st d hcheck hop => startCmd_fwStage s hop hcheck, fwCommit_busy, ?_⟩
    · obtain ⟨h22, h12, h41, h42, h43, h47, h49, h4B, h4C⟩ := startCmd_of_opcode s (c := c)
      refine ⟨startCmd_storage s, startCmd_tables s, h22, h12, h41, h42, h43, h47, h49, h4B, h4C, fun n hn => ?_⟩
      rw [startCmd_structure s hn]
      exact awaitStruct_some s c n
    · exact fun hop hp => ⟨fun h => fetchNow_empty hop h, fun h hspace => fetchNow_host hop hp h hspace,
        fun h hspace => ⟨fun bs s2 hread => fetchNow_read hop hp h hspace hread, fun e i s2 hread => fetchNow_error hop hp h hspace hread⟩⟩
    · intro va n page leaf flushed
      refine ⟨fun hop h4 hn => ?_, fun hop => ?_⟩
      · have hmap := mapEdit_one (s := s) (c := c) (p := p) rfl h4 hn
        refine ⟨fun st d hslot => ?_, fun a t hslot hplace ha hok hq => ?_⟩
        · refine (editTables_map hop p).1 st d (hmap.trans ?_)
          unfold mapOne
          rw [hslot]
        · obtain ⟨u, hone, hstored⟩ := mapOne_stored (d := leaf) hslot hplace ha hok hq
          exact ⟨u, (editTables_map hop p).2 u (hmap.trans hone), hstored⟩
      · refine ⟨fun st d htable => ?_, fun t htable => ?_⟩
        · exact (editTables_unmap hop p).1 st d ((unmapEdit_eq s c p).1 _ htable)
        · exact (editTables_unmap hop p).2 _ ((unmapEdit_eq s c p).2 t htable)
    · intro src dst n
      refine ⟨fun h h' => ?_, fun hapart h0 hsrc hdst => ⟨?_, ?_⟩⟩
      · unfold cellarCopy
        exact if_pos (by simp [src, dst, n] at h h'; simp [h, h'])
      · exact fun a b ha hb hb' hplace hplace' hoff hoff' hgood =>
          cellarCopy_moves h0 hsrc hdst ⟨rfl, rfl, rfl⟩ hapart ha hb hb' hplace hplace' hoff hoff' hgood
      · exact fun e he => cellarCopy_fails h0 hsrc hdst ⟨rfl, rfl, rfl⟩ hapart he
    · intro d p bs units set
      refine ⟨fun x hx => createNs_bad hx, fun hfield hroom => ⟨fun P n hnew hset hcode => ?_, fun n i hnew hsets hn hi => ?_⟩⟩
      · have hold := createNs_old (c := c) hfield hroom hnew hset hcode
        rw [descUnits_eq] at hold
        refine ⟨fun h => hold.trans (if_pos h), fun h hn => hold.trans ((if_neg (Nat.not_lt.mpr h)).trans ?_)⟩
        rw [hn]
        rfl
      · exact fun h4 hp2 hfree hfit => createNs_forms hfield hroom rfl hnew hsets hn hi rfl h4 hp2 hfree rfl (descUnits_eq d ▸ hfit)
    · intro n
      refine ⟨fun h => noNamespace h, fun N hN => ⟨fun h => deleteNs_refused hN h, fun ha hd => deleteNs_deletes hN ha hd, fun hset => attachNs_attach hN hset,
        fun hset => attachNs_detach hN hset, fun h => identify_space hN h⟩, fun h => identify_device h⟩
    · exact fun hidle d hdir => ⟨fun h => fwCommit_refused hidle hdir h, fun h => fwCommit_commits hidle hdir h⟩

end Sys2Proof.Machine

/-! PROOFS. What the work of a boundary leaves alone: where the tiles stand, the frame generator, and the parcels but for items, counts and failures. -/

namespace Sys2Proof.Machine

-- ## Where a tile stands, and what of a parcel a boundary's work leaves

/-- Where a tile stands in its frame: its inboxes, its run, and the registers that an EXECUTE's start and a boundary set. -/
structure Stance where
  bLower : Bool
  dirA : List DirEntry
  dirB : List DirEntry
  fillB : Nat
  run : TileRun
  pc : Word
  eos : Bool
  vl : Nat
  vstart : Word

/-- The stance of a tile. -/
def Tile.stance (T : Tile) : Stance := {
  bLower := T.bLower, dirA := T.dirA, dirB := T.dirB, fillB := T.fillB, run := T.run, pc := T.pc, eos := T.eos, vl := T.vl, vstart := T.vstart }

/-- A parcel without what the dispatcher and the movers change of it: its items, its counts and the failures of its EXECUTE. -/
def Parcel.bare (P : Parcel) : Parcel := { P with exec := P.exec.map fun x => { x with fails := [] }, dsp := {}, staleCnt := 0, ps := 0 }

/-- The frame generator, and every parcel but for its items, counts and failures, are as they were. -/
structure Calm (s t : State) : Prop where
  frm : t.frm = s.frm
  bare : ∀ p, (t.parcel p).bare = (s.parcel p).bare

/-- So is where every tile stands. -/
structure Steady (s t : State) : Prop extends Calm s t where
  stance : ∀ i, (t.tile i).stance = (s.tile i).stance

namespace Calm

variable {s t u : State}

theorem refl (s : State) : Calm s s := ⟨rfl, fun _ => rfl⟩

theorem trans (h : Calm s t) (k : Calm t u) : Calm s u := ⟨k.frm.trans h.frm, fun p => (k.bare p).trans (h.bare p)⟩

theorem foldl {α : Type} {f : State → α → State} (l : List α) (s : State) (hf : ∀ t a, Calm t (f t a)) : Calm s (l.foldl f s) :=
  foldl_keeps l s (refl s) fun t a h => h.trans (hf t a)

theorem updTile (s : State) (i : Nat) (f : Tile → Tile) : Calm s (s.updTile i f) := ⟨rfl, fun _ => rfl⟩

theorem image (h : Calm s t) (p : Nat) : (t.parcel p).image = (s.parcel p).image := (congrArg Parcel.image (h.bare p) :)

theorem quads (h : Calm s t) (p : Nat) : (t.parcel p).quads = (s.parcel p).quads := (congrArg Parcel.quads (h.bare p) :)

theorem groups (h : Calm s t) (p : Nat) : (t.parcel p).groups = (s.parcel p).groups := (congrArg Parcel.groups (h.bare p) :)

theorem tiles (h : Calm s t) (p : Nat) : (t.parcel p).tiles = (s.parcel p).tiles := by rw [Parcel.tiles, Parcel.tiles, h.quads]

theorem exec (h : Calm s t) (p : Nat) {x : Exec} (hx : (s.parcel p).exec = some x) :
    ∃ y, (t.parcel p).exec = some y ∧ { y with fails := [] } = { x with fails := [] } := by
  have hexec : (t.parcel p).exec.map (fun x => { x with fails := [] }) = (s.parcel p).exec.map fun x => { x with fails := [] } :=
    congrArg Parcel.exec (h.bare p)
  rw [hx] at hexec
  exact Option.map_eq_some_iff.mp hexec

end Calm

namespace Steady

variable {s t u : State}

theorem refl (s : State) : Steady s s := ⟨Calm.refl s, fun _ => rfl⟩

theorem trans (h : Steady s t) (k : Steady t u) : Steady s u := ⟨h.toCalm.trans k.toCalm, fun i => (k.stance i).trans (h.stance i)⟩

theorem of_eq (hfrm : t.frm = s.frm) (htiles : t.tiles = s.tiles) (hparcels : t.parcels = s.parcels) : Steady s t :=
  ⟨⟨hfrm, fun p => by rw [State.parcel, State.parcel, hparcels]⟩, fun i => by rw [State.tile, State.tile, htiles]⟩

theorem foldl {α : Type} {f : State → α → State} (l : List α) (s : State) (hf : ∀ t a, Steady t (f t a)) : Steady s (l.foldl f s) :=
  foldl_keeps l s (refl s) fun t a h => h.trans (hf t a)

theorem ite {c : Prop} [Decidable c] (ht : Steady s t) (hu : Steady s u) : Steady s (if c then t else u) := by
  split
  · exact ht
  · exact hu

theorem updTile (s : State) (i : Nat) {f : Tile → Tile} (hf : ∀ T, (f T).stance = T.stance := by intro; rfl) : Steady s (s.updTile i f) := by
  refine ⟨Calm.updTile .., fun j => ?_⟩
  by_cases hj : j = i
  · subst hj
    rw [State.updTile_tile]
    exact hf _
  · rw [State.updTile_tile_ne _ _ hj]

theorem updParcel (s : State) (p : Nat) {f : Parcel → Parcel} (hf : ∀ P, (f P).bare = P.bare := by intro; rfl) : Steady s (s.updParcel p f) := by
  refine ⟨⟨rfl, fun q => ?_⟩, fun _ => rfl⟩
  by_cases hq : q = p
  · subst hq
    rw [State.updParcel_parcel]
    exact hf _
  · rw [State.updParcel_parcel_ne _ _ hq]

theorem updChan (s : State) (g c : Nat) (f : Chan → Chan) : Steady s (s.updChan g c f) := of_eq rfl rfl rfl

theorem updGroup (s : State) (g : Nat) (f : Group → Group) : Steady s (s.updGroup g f) := of_eq rfl rfl rfl

theorem updEng (s : State) (k : EngKind) (e : Nat) (f : Engine → Engine) : Steady s (s.updEng k e f) :=
  of_eq (State.updEng_frm ..) (State.updEng_tiles ..) (State.updEng_parcels ..)

theorem updDsp (s : State) (p : Nat) (f : Dsp → Dsp) : Steady s (s.updDsp p f) := updParcel s p

theorem told (h : Told s t) : Steady s t := by
  refine ⟨⟨?_, fun p => ?_⟩, ?_⟩
  · obtain ⟨_, _, _, rfl⟩ := h.rest
    rfl
  · obtain ⟨c, hc⟩ := h.parcel p
    rw [hc]
    rfl
  · obtain ⟨_, _, _, rfl⟩ := h.rest
    exact fun _ => rfl

-- ## Movers

theorem snoopEnd (s : State) (g c : Nat) (d : Bool) : Steady s (snoopEnd s g c d) := by
  unfold Machine.snoopEnd
  dsimp only
  split
  · exact refl s
  · exact ite (refl s) ((updEng ..).trans (updChan ..))

theorem raiseChan (s : State) (g c e : Nat) : Steady s (raiseChan s g c e) := ite (told (Told.raise ..)) (refl s)

theorem failExec (s : State) (p : Nat) (r : StopRec) : Steady s (failExec s p r) := by
  refine updParcel s p fun P => ?_
  unfold Parcel.bare
  dsimp only
  rw [Option.map_map]
  rfl

theorem haltChan (s : State) (g c err : Nat) : Steady s (haltChan s g c err) := by
  unfold Machine.haltChan
  dsimp only
  have hended : Steady s (disownReads (Machine.snoopEnd s g c false) g c) := (snoopEnd ..).trans (of_eq rfl rfl rfl)
  generalize disownReads (Machine.snoopEnd s g c false) g c = t at hended ⊢
  generalize hu : Machine.raiseChan _ g c 1 = u
  have hhalt : Steady s u := by
    rw [← hu]
    exact (hended.trans (updChan ..)).trans (raiseChan ..)
  split
  · exact hhalt.trans (failExec ..)
  · exact hhalt

theorem addRequest (s : State) (g c src : Nat) (due : Bool) : Steady s (addRequest s g c src due) :=
  ite (refl s) (ite (haltChan ..) (updChan ..))

theorem acceptItem (s : State) (p : Nat) (d : DItem) (held : Bool) : Steady s (acceptItem s p d held) := by
  unfold Machine.acceptItem
  exact (updDsp ..).trans (updDsp ..)

theorem chanEnqueue (s : State) (g c addr len : Nat) : Steady s (chanEnqueue s g c addr len) := by
  unfold Machine.chanEnqueue
  dsimp only
  split
  · exact refl s
  · exact ite (acceptItem ..) (haltChan ..)

theorem finishDone (s : State) (g c : Nat) : Steady s (finishDone s g c) :=
  (((updChan ..).trans (snoopEnd ..)).trans (raiseChan ..)).trans (ite (chanEnqueue ..) (refl _))

theorem keepMoved (s : State) (g c : Nat) : Steady s (keepMoved s g c) := by
  unfold Machine.keepMoved
  split
  · exact refl s
  · exact foldl _ _ fun _ _ => updEng ..

theorem sendLtr (s : State) : Steady s (sendLtr s) := of_eq rfl rfl rfl

theorem readAhead (s : State) (g c : Nat) : Steady s (readAhead s g c) := ite (refl s) (of_eq rfl rfl rfl)

theorem beginTransfer (s : State) (g c : Nat) : Steady s (beginTransfer s g c).1 := by
  unfold Machine.beginTransfer
  dsimp only
  have hstart := (keepMoved s g c).trans (updChan (Machine.keepMoved s g c) g c fun C => { C with
    xsrc := C.src.toNat, xdst := C.dst.toNat, xcnt := C.cnt.toNat, xctl := C.ctl, xhi := C.hiwat.toNat, xlo := C.lowat.toNat
    xqsel := C.qsel, xns := C.ns.toNat, xenq := C.enq
    vintage := ((groupParcel (Machine.keepMoved s g c) g).map fun p => ((Machine.keepMoved s g c).parcel p).vintage).getD 0
    done := false, aborted := false, err := 0, retries := 0
    remaining := C.cnt.toNat, moved := 0, busy := true, gateClosed := false, burst := none, burstNo := 0, ahead := false, aheadOff := 0
    snoopLive := C.snoop.isSome })
  split
  · exact hstart.trans (haltChan ..)
  · split
    · exact hstart.trans (haltChan ..)
    · split
      · exact hstart.trans (finishDone ..)
      · refine trans ?_ (readAhead ..)
        split
        · exact (hstart.trans (updParcel _ _)).trans (sendLtr _)
        · exact hstart

theorem loadStep (s : State) (p g c : Nat) (st : MoverStep) : Steady s (loadStep s p g c st) := of_eq rfl rfl rfl

theorem advanceProg : ∀ (n : Nat) (s : State) (g c : Nat), Steady s (advanceProg n s g c)
  | 0, s, _, _ => refl s
  | n + 1, s, g, c => by
    unfold Machine.advanceProg
    split
    · split
      · exact refl s
      next i k p _ _ _ st _ =>
        have hbegin := ((loadStep s p g c st).trans (updChan _ g c fun C => { C with prog := some (i, k + 1) })).trans (beginTransfer _ g c)
        dsimp only
        split
        next t h =>
          rw [h] at hbegin
          exact hbegin.trans (advanceProg n t g c)
        next t h =>
          rw [h] at hbegin
          exact hbegin
    · exact refl s

theorem startPrograms (s : State) (p : Nat) : Steady s (startPrograms s p) := by
  refine foldl _ s fun t i => ?_
  split
  · exact refl t
  · split
    · exact refl t
    · exact (updGroup ..).trans (ite (updChan ..) ((updChan ..).trans (advanceProg ..)))

theorem lineRequests (s : State) (p k : Nat) : Steady s (lineRequests s p k) :=
  foldl _ s fun t _ => foldl _ t fun u _ => ite (addRequest ..) (refl u)

theorem openChan (s : State) (g c : Nat) : Steady s (openChan s g c) := (updChan ..).trans (foldl _ _ fun _ _ => addRequest ..)

-- ## The dispatcher

theorem queueItem (s : State) (p i : Nat) (d : DItem) (pin : Bool) : Steady s (queueItem s p i d pin) := by
  unfold Machine.queueItem
  exact (updTile s i).trans (updDsp ..)

theorem assignAmong {p : Nat} {d : DItem} {l : List Nat} (h : assignAmong s p d l = some t) : Steady s t := by
  unfold Machine.assignAmong at h
  dsimp only at h
  split at h
  · cases h
    exact queueItem ..
  · split at h
    · cases h
      exact queueItem ..
    · cases h

theorem assignAmong_getD (s : State) (p : Nat) (d : DItem) (l : List Nat) : Steady s ((Machine.assignAmong s p d l).getD s) := by
  cases h : Machine.assignAmong s p d l with
  | none => exact refl s
  | some t => exact assignAmong h

theorem assignOne (s : State) (p : Nat) (d : DItem) : Steady s (assignOne s p d) := by
  unfold Machine.assignOne
  dsimp only
  split
  · exact refl s
  · refine ite (refl s) (ite (assignAmong_getD ..) ?_)
    split
    next h => exact assignAmong h
    · exact assignAmong_getD ..

theorem assign (s : State) (p : Nat) : Steady s (assign s p) := foldl _ s fun _ _ => assignOne ..

theorem dropStale (s : State) (p : Nat) : Steady s (dropStale s p) := by
  unfold Machine.dropStale
  exact (updDsp ..).trans (updParcel _ _)

theorem admitOne (s : State) (p : Nat) (d : DItem) : Steady s (admitOne s p d) := by
  unfold Machine.admitOne
  exact updDsp ..

theorem admitItems (s : State) (p : Nat) (f : DItem → Bool) : Steady s (admitItems s p f) := by
  unfold Machine.admitItems
  exact ((dropStale ..).trans (updDsp ..)).trans (foldl _ _ fun _ _ => admitOne ..)

theorem closeStage (s : State) (p : Nat) (e : StageEntry) : Steady s (closeStage s p e) := by
  unfold Machine.closeStage
  exact ((updDsp ..).trans (foldl _ _ fun _ _ => updTile _ _)).trans (updDsp ..)

theorem closeDrained (s : State) (p k : Nat) : Steady s (closeDrained s p k) :=
  foldl _ s fun t _ => ite (closeStage ..) (refl t)

theorem initialItems (s : State) (p : Nat) (c : Cmd) (param : List Byte) : Steady s (initialItems s p c param) :=
  (foldl _ s fun _ _ => acceptItem ..).trans (admitItems ..)

-- ## Frames and commands

theorem countHold (s : State) (P : Parcel) (k : Nat) : Steady s (countHold s P k) := by
  refine foldl _ s fun t i => updTile t i ?_
  intro T
  split <;> rfl

theorem openFrame (s : State) (p : Nat) : Steady s (openFrame s p) := by
  unfold Machine.openFrame
  exact (foldl _ s fun t i => updTile t i).trans (foldl _ _ fun t _ => foldl _ t fun _ _ => openChan ..)

theorem dropCmd (s : State) (seq : Option Nat) : Steady s (dropCmd s seq) := by
  cases seq <;> exact of_eq rfl rfl rfl

theorem drainWin : ∀ (n : Nat) (s : State) (w : Window), Steady s (drainWin n s w)
  | 0, s, _ => refl s
  | n + 1, s, w => by
    unfold Machine.drainWin
    dsimp only
    split
    · exact refl s
    next x rest hwait =>
      have hwin (t : State) (f : Win → Win) : Steady t (t.updWin w f) := of_eq rfl rfl rfl
      refine ite (refl s) (ite ?_ (ite ?_ (refl s)))
      · exact (((hwin ..).trans (dropCmd ..)).trans (told (Told.countStale ..))).trans (drainWin n _ w)
      · exact ((((told (Told.hostWrite ..)).trans (hwin ..)).trans (dropCmd ..)).trans (ite (told (Told.sendMsix ..)) (refl _))).trans (drainWin n _ w)

theorem endCmd (s : State) (c : Cmd) (st : Nat) (det : List Byte) : Steady s (endCmd s c st det) := by
  unfold Machine.endCmd postPennant
  dsimp only
  refine trans ?_ (drainWin ..)
  exact of_eq rfl rfl rfl

theorem endResumes (s : State) (l : List Cmd) (st : Nat) : Steady s (endResumes s l st) := foldl _ s fun _ _ => endCmd ..

theorem flushUnit (s : State) (u : WalkUnit) : Steady s (flushUnit s u) := by
  have htlb (t : State) (f : Tlb → Tlb) : Steady t (updTlb t u f) := by
    unfold updTlb
    split
    · exact updTile _ _
    · exact updGroup ..
    · exact updEng ..
    · exact updEng ..
    · exact updEng ..
  have hinv (t : State) (o : InvOp) : Steady t (invUnit t u o) := by
    unfold invUnit
    dsimp only
    split
    · exact (htlb ..).trans (updTile _ _)
    · exact htlb ..
  exact ((hinv ..).trans (htlb ..)).trans (htlb ..)

theorem bindCopy (s : State) (P : Parcel) (param : List Byte) : Steady s (bindCopy s P param) :=
  foldl _ s fun t _ => foldl _ t fun u _ => foldl _ u fun _ _ => of_eq rfl rfl rfl

end Steady

end Sys2Proof.Machine

/-! PROOFS. The end of an EXECUTE: its channels are aborted, its tiles stop, and its command ends (chapter 02). -/

namespace Sys2Proof.Machine

-- ## The end of an EXECUTE

/-- The commands are as they were, each channel has its program still, and none has begun a transfer. -/
structure Halting (s t : State) : Prop where
  cmds : t.cmds = s.cmds
  prog : ∀ g c, (t.chan g c).prog = (s.chan g c).prog
  busy : ∀ g c, (s.chan g c).busy = false → (t.chan g c).busy = false

/-- A channel that no job of an engine follows any more. -/
def Chan.unsnooped (C : Chan) (e : Nat) : Chan := if C.snoop == some e then { C with snoop := none, snoopLive := false } else C

namespace Halting

variable {s t u : State}

theorem refl (s : State) : Halting s s := ⟨rfl, fun _ _ => rfl, fun _ _ h => h⟩

theorem trans (h : Halting s t) (k : Halting t u) : Halting s u :=
  ⟨k.cmds.trans h.cmds, fun g c => (k.prog g c).trans (h.prog g c), fun g c hb => k.busy g c (h.busy g c hb)⟩

theorem of_eq (hcmds : t.cmds = s.cmds := by rfl) (hgroups : t.groups = s.groups := by rfl) : Halting s t := by
  have hchan (g c : Nat) : t.chan g c = s.chan g c := by rw [State.chan, State.chan, State.group, State.group, hgroups]
  exact ⟨hcmds, fun g c => by rw [hchan], fun g c h => by rwa [hchan]⟩

theorem foldl {α : Type} {f : State → α → State} (l : List α) (s : State) (hf : ∀ t a, Halting t (f t a)) : Halting s (l.foldl f s) :=
  foldl_keeps l s (refl s) fun t a h => h.trans (hf t a)

theorem ite {c : Prop} [Decidable c] (ht : Halting s t) (hu : Halting s u) : Halting s (if c then t else u) := by
  split
  · exact ht
  · exact hu

theorem updTile (s : State) (i : Nat) (f : Tile → Tile) : Halting s (s.updTile i f) := of_eq

theorem updDsp (s : State) (p : Nat) (f : Dsp → Dsp) : Halting s (s.updDsp p f) := of_eq

theorem updGroup (s : State) (g : Nat) {f : Group → Group}
    (hf : ∀ G c, (Tab.get {} (f G).chans c).prog = (Tab.get {} G.chans c).prog ∧
      ((Tab.get {} G.chans c).busy = false → (Tab.get {} (f G).chans c).busy = false)) : Halting s (s.updGroup g f) := by
  have hchan (k c : Nat) : (((s.updGroup g f).chan k c).prog = (s.chan k c).prog) ∧
      ((s.chan k c).busy = false → ((s.updGroup g f).chan k c).busy = false) := by
    by_cases hk : k = g
    · subst hk
      rw [State.chan, State.updGroup_group]
      exact hf _ c
    · rw [State.chan, State.updGroup_group_ne _ _ hk]
      exact ⟨rfl, id⟩
  exact ⟨rfl, fun k c => (hchan k c).1, fun k c => (hchan k c).2⟩

theorem updChan (s : State) (g c : Nat) {f : Chan → Chan} (hf : ∀ C, (f C).prog = C.prog ∧ (C.busy = false → (f C).busy = false)) :
    Halting s (s.updChan g c f) := by
  refine updGroup s g fun G k => ?_
  by_cases hk : k = c
  · subst hk
    rw [Tab.get_upd_same]
    exact hf _
  · rw [Tab.get_upd_ne _ _ _ hk]
    exact ⟨rfl, id⟩

theorem updEng (s : State) (k : EngKind) (e : Nat) (f : Engine → Engine) : Halting s (s.updEng k e f) :=
  of_eq (State.updEng_cmds ..) (State.updEng_groups ..)

theorem forgetRun (s : State) (dpa n : Nat) : Halting s (forgetRun s dpa n) := foldl _ s fun _ _ => of_eq

theorem forgetVa (s : State) (u : WalkUnit) (va n : Nat) : Halting s (forgetVa s u va n) := by
  refine foldl _ s fun t run => ?_
  split
  · exact forgetRun ..
  · exact refl t

theorem forgetOutputs (s : State) (p : Nat) (I : Image) (param : List Byte) : Halting s (forgetOutputs s p I param) := by
  refine foldl _ s fun t b => foldl _ t fun u run => ?_
  split
  · exact forgetRun ..
  · exact refl u

theorem snoopEnd (s : State) (g c : Nat) (d : Bool) : Halting s (snoopEnd s g c d) := by
  unfold Machine.snoopEnd
  dsimp only
  split
  · exact refl s
  · exact ite (refl s) ((updEng ..).trans (updChan _ _ _ fun _ => ⟨rfl, id⟩))

theorem abortChan (s : State) (g c : Nat) : Halting s (abortChan s g c) ∧ ((abortChan s g c).chan g c).busy = false := by
  unfold Machine.abortChan
  split
  next h => exact ⟨refl s, by simpa using h⟩
  · dsimp only
    have hended : Halting s (disownReads (Machine.snoopEnd s g c false) g c) := (snoopEnd s g c false).trans of_eq
    generalize disownReads (Machine.snoopEnd s g c false) g c = t at hended ⊢
    rw [State.updChan_chan]
    exact ⟨(hended.trans (updGroup _ _ (by exact fun _ _ => ⟨rfl, id⟩))).trans (updChan _ _ _ (by exact fun _ => ⟨rfl, fun _ => rfl⟩)), rfl⟩

theorem sortDiscard (s : State) (p e : Nat) : Halting s (sortDiscard s p e) := by
  unfold Machine.sortDiscard
  exact ((of_eq : Halting s (sortQuiet s e fun _ => true)).trans (foldl _ _ fun t j => foldl _ t fun _ _ => forgetVa ..)).trans (updEng ..)

theorem cmpDiscard (s : State) (e : Nat) : Halting s (cmpDiscard s e) := by
  unfold Machine.cmpDiscard
  exact (foldl _ s fun t j => (forgetVa ..).trans (ite (forgetVa ..) (refl _))).trans (updEng ..)

theorem dgtDiscard (s : State) (p e : Nat) : Halting s (dgtDiscard s p e) := by
  have hmap (G : Group) (c : Nat) : Tab.get {} (G.chans.map fun c => (c.1, c.2.unsnooped e)) c = (Tab.get {} G.chans c).unsnooped e :=
    Tab.get_map (Chan.unsnooped · e) {} G.chans c
  have hsame (C : Chan) : (C.unsnooped e).prog = C.prog ∧ (C.busy = false → (C.unsnooped e).busy = false) := by
    unfold Chan.unsnooped
    split <;> exact ⟨rfl, id⟩
  unfold Machine.dgtDiscard unbindSnoop
  refine ((foldl _ s fun t j => ite (forgetVa ..) (refl t)).trans (updEng ..)).trans (foldl _ _ fun t g => updGroup t g fun G c => ?_)
  have hget : Tab.get {} (G.chans.map fun c => (c.1, if c.2.snoop == some e then { c.2 with snoop := none, snoopLive := false } else c.2)) c = _ := hmap G c
  rw [hget]
  exact hsame _

theorem dspDiscard (s : State) (p : Nat) : Halting s (dspDiscard s p) := by
  unfold Machine.dspDiscard
  exact (foldl _ s fun _ _ => updTile ..).trans (updDsp ..)

end Halting

/-- A channel that runs a program is aborted. -/
def abortProgram (s : State) (g c : Nat) : State := if (s.chan g c).prog.isSome then abortChan s g c else s

/-- The channels of some groups that run programs are aborted. -/
def abortPrograms (s : State) (gs : List Nat) : State := gs.foldl (fun s g => (List.range 16).foldl (fun s c => abortProgram s g c) s) s

theorem halting_abortProgram (s : State) (g c : Nat) : Halting s (abortProgram s g c) ∧
    ((s.chan g c).prog.isSome = true → ((abortProgram s g c).chan g c).busy = false) := by
  unfold abortProgram
  refine ⟨Halting.ite (Halting.abortChan ..).1 (Halting.refl s), fun h => ?_⟩
  rw [if_pos h]
  exact (Halting.abortChan ..).2

theorem halting_abortGroup (g : Nat) (cs : List Nat) (s : State) : Halting s (cs.foldl (fun s c => abortProgram s g c) s) ∧
    ∀ c ∈ cs, (s.chan g c).prog.isSome = true → ((cs.foldl (fun s c => abortProgram s g c) s).chan g c).busy = false := by
  induction cs generalizing s with
  | nil => exact ⟨Halting.refl s, nofun⟩
  | cons c cs ih =>
    obtain ⟨hhalt, hstop⟩ := halting_abortProgram s g c
    obtain ⟨hhalt', hstop'⟩ := ih (abortProgram s g c)
    refine ⟨hhalt.trans hhalt', fun k hk hprog => ?_⟩
    rcases List.mem_cons.mp hk with rfl | hk
    · exact hhalt'.busy g k (hstop hprog)
    · exact hstop' k hk (by rwa [hhalt.prog])

theorem halting_abortPrograms (gs : List Nat) (s : State) : Halting s (abortPrograms s gs) ∧
    ∀ g ∈ gs, ∀ c, c < 16 → (s.chan g c).prog.isSome = true → ((abortPrograms s gs).chan g c).busy = false := by
  unfold abortPrograms
  induction gs generalizing s with
  | nil => exact ⟨Halting.refl s, nofun⟩
  | cons g gs ih =>
    obtain ⟨hhalt, hstop⟩ := halting_abortGroup g (List.range 16) s
    rw [List.foldl_cons]
    generalize (List.range 16).foldl (fun s c => abortProgram s g c) s = t at hhalt hstop ⊢
    obtain ⟨hhalt', hstop'⟩ := ih t
    refine ⟨hhalt.trans hhalt', fun k hk c hc hprog => ?_⟩
    rcases List.mem_cons.mp hk with rfl | hk
    · exact hhalt'.busy k c (hstop c (List.mem_range.mpr hc) hprog)
    · exact hstop' k hk c hc (by rwa [hhalt.prog])

/-- A change of each tile of a list, one that a second time changes nothing more. -/
theorem tile_foldl_updTile {f : Tile → Tile} (hf : ∀ T, f (f T) = f T) (l : List Nat) (s : State) (i : Nat) :
    (l.foldl (fun s t => s.updTile t f) s).tile i = if i ∈ l then f (s.tile i) else s.tile i := by
  induction l generalizing s with
  | nil => rfl
  | cons t l ih =>
    rw [List.foldl_cons, ih]
    by_cases hit : i = t
    · subst hit
      rw [State.updTile_tile, hf, ite_self, if_pos List.mem_cons_self]
    · simp [State.updTile_tile_ne _ _ hit, hit]

/-- The end of an EXECUTE, before its command ends: its channels are aborted, its items and jobs discarded, its tiles stop. -/
def stopExecute (s : State) (p : Nat) (x : Exec) (status : Nat) : State :=
  let P := s.parcel p
  let s := abortPrograms (if status = sSUCCESS then s else forgetOutputs s p P.image x.param) P.groupList
  let s := (setBits 16 P.se.toNat).foldl (fun s e => sortDiscard s p e) s
  let s := (setBits 16 P.ce.toNat).foldl (fun s e => cmpDiscard s e) s
  let s := (setBits 16 P.de.toNat).foldl (fun s e => dgtDiscard s p e) s
  let s := dspDiscard s p
  let s := P.tiles.foldl (fun s t => s.updTile t Tile.atEnd) s
  s.updParcel p fun P => { P with exec := none }

theorem endExecute_eq (s : State) (p : Nat) (x : Exec) (status : Nat) (det : List Byte) : endExecute s p x status det =
    match (stopExecute s p x status).cmd x.seq with
    | none => stopExecute s p x status
    | some c => endCmd { stopExecute s p x status with ports := { (stopExecute s p x status).ports with
        orderReads := (stopExecute s p x status).ports.orderReads ++ if status = sSUCCESS then orderReads (stopExecute s p x status) (s.parcel p) x c else [] } }
        c status det := rfl

theorem stopExecute_over (s : State) (p : Nat) (x : Exec) (status : Nat) :
    (stopExecute s p x status).cmds = s.cmds ∧ ExecOver s (stopExecute s p x status) p := by
  unfold stopExecute
  extract_lets P s0 s1 s2 s3 s4 s5
  obtain ⟨hhalt0, hstop⟩ := halting_abortPrograms P.groupList (if status = sSUCCESS then s else forgetOutputs s p P.image x.param)
  have hhalt : Halting s s0 := (Halting.ite (Halting.refl s) (Halting.forgetOutputs ..)).trans hhalt0
  have hrest : Halting s0 s4 := (((Halting.foldl _ _ fun _ _ => Halting.sortDiscard ..).trans (Halting.foldl _ _ fun _ _ => Halting.cmpDiscard ..)).trans
    (Halting.foldl _ _ fun _ _ => Halting.dgtDiscard ..)).trans (Halting.dspDiscard ..)
  have hlast : Halting s4 s5 := Halting.foldl _ _ fun _ _ => Halting.of_eq
  have hend : Halting s5 (s5.updParcel p fun P => { P with exec := none }) := Halting.of_eq
  refine ⟨((hhalt.trans hrest).trans (hlast.trans hend)).cmds, by rw [State.updParcel_parcel], fun i hi => ?_, fun g hg c hc hprog => ?_⟩
  · change (s5.tile i).run = .idle
    simp only [s5]
    rw [tile_foldl_updTile (f := Tile.atEnd) (fun _ => rfl), if_pos hi]
    rfl
  · refine (hrest.trans (hlast.trans hend)).busy g c (hstop g hg c hc ?_)
    rwa [(Halting.ite (Halting.refl s) (Halting.forgetOutputs s p P.image x.param)).prog]

/-- The command of an EXECUTE that ends ends with its status, and the EXECUTE is over. -/
theorem endExecute_ended {s : State} {p : Nat} {x : Exec} {c : Cmd} (hc : s.cmd x.seq = some c) (status : Nat) (det : List Byte) :
    Ended (endExecute s p x status det) c status det (ExecOver s · p) := by
  obtain ⟨hcmds, hover⟩ := stopExecute_over s p x status
  have hcmd : (stopExecute s p x status).cmd x.seq = some c := by rw [State.cmd, hcmds]; exact hc
  rw [endExecute_eq, hcmd]
  refine ⟨_, ?_, rfl⟩
  exact hover

end Sys2Proof.Machine

/-! PROOFS. What a boundary decides of an EXECUTE: its final commit, a CANCEL, an overrun, an expired park (R48). -/

namespace Sys2Proof.Machine

-- ## Stages of a pipeline

theorem mem_insertBy {α : Type} {key : α → Nat} {a x : α} {l : List α} : x ∈ insertBy key a l ↔ x = a ∨ x ∈ l := by
  induction l with
  | nil => exact List.mem_cons
  | cons b l ih =>
    unfold insertBy
    split
    · exact List.mem_cons
    · rw [List.mem_cons, List.mem_cons, ih]
      exact or_left_comm

theorem pairwise_insertBy {α : Type} {key : α → Nat} {a : α} {l : List α} (h : l.Pairwise (key · ≤ key ·)) :
    (insertBy key a l).Pairwise (key · ≤ key ·) := by
  induction l with
  | nil => exact List.pairwise_singleton ..
  | cons b l ih =>
    obtain ⟨hb, hl⟩ := List.pairwise_cons.mp h
    unfold insertBy
    split
    next hab =>
      refine List.pairwise_cons.mpr ⟨fun x hx => ?_, h⟩
      rcases List.mem_cons.mp hx with rfl | hx
      · exact Nat.le_of_lt hab
      · exact Nat.le_trans (Nat.le_of_lt hab) (hb x hx)
    next hab =>
      refine List.pairwise_cons.mpr ⟨fun x hx => ?_, ih hl⟩
      rcases mem_insertBy.mp hx with rfl | hx
      · exact Nat.le_of_not_lt hab
      · exact hb x hx

/-- Sorting keeps the elements and puts them in the key's order. -/
theorem sortBy_spec {α : Type} (key : α → Nat) (l : List α) : (∀ x, x ∈ sortBy key l ↔ x ∈ l) ∧ (sortBy key l).Pairwise (key · ≤ key ·) := by
  suffices hacc : ∀ (l acc : List α), acc.Pairwise (key · ≤ key ·) →
      (∀ x, x ∈ l.foldl (fun acc a => insertBy key a acc) acc ↔ x ∈ acc ∨ x ∈ l) ∧
      (l.foldl (fun acc a => insertBy key a acc) acc).Pairwise (key · ≤ key ·) by
    obtain ⟨hmem, hsorted⟩ := hacc l [] List.Pairwise.nil
    exact ⟨fun x => (hmem x).trans (by simp), hsorted⟩
  intro l
  induction l with
  | nil => exact fun acc h => ⟨fun x => by simp, h⟩
  | cons a l ih =>
    intro acc h
    obtain ⟨hmem, hsorted⟩ := ih (insertBy key a acc) (pairwise_insertBy h)
    refine ⟨fun x => (hmem x).trans ?_, hsorted⟩
    rw [mem_insertBy, List.mem_cons]
    exact or_assoc.trans or_left_comm

theorem mem_pipeStages {I : Image} {k : Nat} {e : StageEntry} : e ∈ I.pipeStages k ↔ e ∈ I.stages ∧ e.pipeline = k := by
  unfold Image.pipeStages
  rw [(sortBy_spec ..).1, List.mem_filter, beq_iff_eq]

theorem pairwise_pipeStages (I : Image) (k : Nat) : (I.pipeStages k).Pairwise (·.stage ≤ ·.stage) := (sortBy_spec ..).2

theorem stageDone_iff {s : State} {P : Parcel} {e : StageEntry} :
    stageDone s P e = true ↔ ∀ i ∈ poolTiles P e, (s.tile i).run = .fdone ∧ (s.tile i).fdoneLate = false := by
  simp [stageDone, List.all_eq_true]

theorem stageParked_iff {s : State} {P : Parcel} {e : StageEntry} : stageParked s P e = true ↔ ∃ i ∈ poolTiles P e, (s.tile i).run = .parked := by
  simp [stageParked, List.any_eq_true]

theorem decants_iff {s : State} {P : Parcel} {k : Nat} : decants s P k = true ↔ PipeDone s P k ∧ dueHold s P k = false := by
  unfold decants PipeDone
  simp only [Bool.and_eq_true, List.all_eq_true, mem_pipeStages, stageDone_iff, Bool.not_eq_true', and_imp]

theorem pipeParked_iff {s : State} {P : Parcel} {k : Nat} : pipeParked s P k = true ↔ PipeParked s P k := by
  unfold pipeParked PipeParked
  simp only [List.any_eq_true, mem_pipeStages, stageParked_iff, and_assoc]

-- ## Overruns and parks that expire

/-- A pipeline has held once too often (R39). -/
def Overruns (s : State) (P : Parcel) (x : Exec) (k : Nat) : Prop :=
  decants s P k = false ∧ ¬ PipeParked s P k ∧ s.frm.holdNow.toNat < (x.pipe k).holds + 1

/-- A stage has been parked too long (R45). -/
def ParkExpires (s : State) (P : Parcel) (x : Exec) (resumes : List Cmd) : Prop :=
  ∃ k ∈ P.image.pipeIds, ∃ e ∈ P.image.stages, e.pipeline = k ∧ (∃ i ∈ poolTiles P e, (s.tile i).run = .parked) ∧
    P.parkNow.toNat < Tab.get 0 (x.pipe k).parks e.stage + (if resumes = [] then 1 else 0)

section
variable {s : State} {P : Parcel} {x : Exec}

theorem overruns_iff {k : Nat} : (!decants s P k && !pipeParked s P k && decide (s.frm.holdNow.toNat < (x.pipe k).holds + 1)) = true ↔ Overruns s P x k := by
  unfold Overruns
  rw [← pipeParked_iff, Bool.and_eq_true, Bool.and_eq_true, Bool.not_eq_true', Bool.not_eq_true', decide_eq_true_eq, Bool.not_eq_true, and_assoc]

theorem overrun_none (h : ∀ k ∈ P.image.pipeIds, ¬ Overruns s P x k) : overrun s P x = none := by
  unfold overrun
  rw [List.find?_eq_none.mpr fun k hk => mt overruns_iff.mp (h k hk)]
  rfl

theorem pairwise_pipeIds (I : Image) : I.pipeIds.Pairwise (· < ·) := List.pairwise_lt_range.filter _

/-- The lowest pipeline that overruns is named, with the lowest of its stages that is not done. -/
theorem overrun_first {k : Nat} (hk : k ∈ P.image.pipeIds) (hlate : Overruns s P x k) (hfirst : ∀ j ∈ P.image.pipeIds, j < k → ¬ Overruns s P x j) :
    ∃ st, overrun s P x = some (sFRAME_OVERRUN, detail 0 10 k st 0) ∧ ((∃ e ∈ P.image.pipeStages k, stageDone s P e = false) →
      (∃ e ∈ P.image.pipeStages k, e.stage = st ∧ stageDone s P e = false) ∧ ∀ e ∈ P.image.pipeStages k, stageDone s P e = false → st ≤ e.stage) := by
  have hfind : P.image.pipeIds.find? (fun k => !decants s P k && !pipeParked s P k && decide (s.frm.holdNow.toNat < (x.pipe k).holds + 1)) = some k := by
    obtain ⟨j, hj⟩ := Option.isSome_iff_exists.mp ((List.find?_isSome (p := fun k =>
      !decants s P k && !pipeParked s P k && decide (s.frm.holdNow.toNat < (x.pipe k).holds + 1))).mpr ⟨k, hk, overruns_iff.mpr hlate⟩)
    obtain ⟨hlatej, as, bs, happ, hbefore⟩ := List.find?_eq_some_iff_append.mp hj
    have hjmem : j ∈ P.image.pipeIds := by rw [happ]; simp
    rcases Nat.lt_trichotomy j k with hlt | rfl | hgt
    · exact absurd (overruns_iff.mp hlatej) (hfirst j hjmem hlt)
    · exact hj
    · have hkas : k ∈ as := by
        have hpair := pairwise_pipeIds P.image
        rw [happ] at hk hpair
        rcases List.mem_append.mp hk with h | h
        · exact h
        · rcases List.mem_cons.mp h with rfl | h
          · exact absurd hgt (Nat.lt_irrefl _)
          · have := (List.pairwise_cons.mp (List.pairwise_append.mp hpair).2.1).1 k h
            omega
      have hno := hbefore k hkas
      rw [overruns_iff.mpr hlate] at hno
      cases hno
  refine ⟨(((P.image.pipeStages k).find? fun e => !stageDone s P e).map (·.stage)).getD ((Config.freeWord s.freeCtr).toNat % 64), ?_, ?_⟩
  · unfold overrun
    rw [hfind]
    rfl
  · rintro ⟨e, he, hnot⟩
    obtain ⟨d, hd⟩ := Option.isSome_iff_exists.mp ((List.find?_isSome (p := fun e => !stageDone s P e)).mpr ⟨e, he, by simp [hnot]⟩)
    obtain ⟨hdnot, as, bs, happ, hbefore⟩ := List.find?_eq_some_iff_append.mp hd
    rw [hd]
    have hdnot' : stageDone s P d = false := by simpa using hdnot
    refine ⟨⟨d, List.mem_of_find?_eq_some hd, rfl, hdnot'⟩, fun e he hnot => ?_⟩
    have hpair := pairwise_pipeStages P.image k
    rw [happ] at he hpair
    rcases List.mem_append.mp he with h | h
    · have hno := hbefore e h
      rw [hnot] at hno
      cases hno
    · rcases List.mem_cons.mp h with rfl | h
      · exact Nat.le_refl _
      · exact (List.pairwise_cons.mp (List.pairwise_append.mp hpair).2.1).1 e h

variable {resumes : List Cmd}

/-- Whether a stage's park expires at a boundary. -/
def stageExpires (s : State) (P : Parcel) (x : Exec) (resumed : Bool) (k : Nat) (e : StageEntry) : Bool :=
  stageParked s P e && decide (P.parkNow.toNat < Tab.get 0 (x.pipe k).parks e.stage + b2n (!resumed))

theorem parkExpired_eq (s : State) (P : Parcel) (x : Exec) (resumed : Bool) : parkExpired s P x resumed =
    match P.image.pipeIds.flatMap fun k => (P.image.pipeStages k).filter (stageExpires s P x resumed k) with
    | [] => none
    | e :: _ =>
      ((poolTiles P e).find? fun t => (s.tile t).run == .parked).map fun t =>
        let r := (s.tile t).park
        (sTRANSLATION_FAULT, detail ((r.map (·.reason)).getD 0) 2 ((P.vtile t).getD 0) e.stage ((r.map (·.va)).getD 0)) := rfl

theorem stageExpires_iff {k : Nat} {e : StageEntry} : stageExpires s P x (!resumes.isEmpty) k e = true ↔
    (∃ i ∈ poolTiles P e, (s.tile i).run = .parked) ∧ P.parkNow.toNat < Tab.get 0 (x.pipe k).parks e.stage + (if resumes = [] then 1 else 0) := by
  have hn : b2n (!!resumes.isEmpty) = if resumes = [] then 1 else 0 := by cases resumes <;> rfl
  unfold stageExpires
  rw [Bool.and_eq_true, stageParked_iff, decide_eq_true_eq, hn]

theorem parkExpires_iff : ParkExpires s P x resumes ↔
    (P.image.pipeIds.flatMap fun k => (P.image.pipeStages k).filter (stageExpires s P x (!resumes.isEmpty) k)) ≠ [] := by
  rw [ne_eq, List.eq_nil_iff_forall_not_mem, Classical.not_forall]
  simp only [Classical.not_not, List.mem_flatMap, List.mem_filter, stageExpires_iff, mem_pipeStages, ParkExpires]
  exact ⟨fun ⟨k, hk, e, he, hpipe, hrest⟩ => ⟨e, k, hk, ⟨he, hpipe⟩, hrest⟩, fun ⟨e, k, hk, ⟨he, hpipe⟩, hrest⟩ => ⟨k, hk, e, he, hpipe, hrest⟩⟩

theorem parkExpired_none (h : ¬ ParkExpires s P x resumes) : parkExpired s P x (!resumes.isEmpty) = none := by
  rw [parkExpires_iff, Classical.not_not] at h
  rw [parkExpired_eq, h]

theorem parkExpired_some (h : ParkExpires s P x resumes) : ∃ det, parkExpired s P x (!resumes.isEmpty) = some (sTRANSLATION_FAULT, det) := by
  rw [parkExpires_iff] at h
  obtain ⟨e, l, hl⟩ := List.exists_cons_of_ne_nil h
  have he : e ∈ P.image.pipeIds.flatMap fun k => (P.image.pipeStages k).filter (stageExpires s P x (!resumes.isEmpty) k) := by
    rw [hl]
    exact List.mem_cons_self
  obtain ⟨k, -, hek⟩ := List.mem_flatMap.mp he
  obtain ⟨⟨i, hi, hparked⟩, -⟩ := stageExpires_iff.mp (List.mem_filter.mp hek).2
  obtain ⟨t, ht⟩ := Option.isSome_iff_exists.mp ((List.find?_isSome (p := fun t => (s.tile t).run == .parked)).mpr ⟨i, hi, by simp [hparked]⟩)
  rw [parkExpired_eq, hl]
  dsimp only
  rw [ht]
  exact ⟨_, rfl⟩

-- ## The outcome of an EXECUTE at a boundary

variable {cancels : List Cmd}

theorem outcome_commit (h : finalCommit s P = true) :
    outcome s P x cancels resumes = some (sSUCCESS, leBytes 4 (x.frames + 1) ++ leBytes 4 x.holds ++ leBytes 8 x.start.toNat) := if_pos h

theorem outcome_cancel (h : finalCommit s P = false) (hc : cancels ≠ []) : outcome s P x cancels resumes = some (sCANCELLED, zeros 16) :=
  (if_neg (by rw [h]; nofun)).trans (if_pos (by cases cancels <;> simp at hc ⊢))

theorem outcome_rest (h : finalCommit s P = false) (hc : cancels = []) (hfail : failure s P x = none) : outcome s P x cancels resumes =
    if Config.freeBool s.freeCtr then (overrun s P x).or (parkExpired s P x (!resumes.isEmpty))
    else (parkExpired s P x (!resumes.isEmpty)).or (overrun s P x) := by
  refine (if_neg (by rw [h]; nofun)).trans ((if_neg (by rw [hc]; nofun)).trans ?_)
  dsimp only
  rw [hfail]
  rfl

end

end Sys2Proof.Machine

/-! PROOFS. An EXECUTE that goes on past a boundary: its pipelines decant or hold, and a RESUME unparks (chapter 02). -/

namespace Sys2Proof.Machine

-- ## Changes of tiles one after another

/-- The stance of a tile after a change of each tile of a list: the list names no tile twice, or a second change leaves the first. -/
theorem stance_foldl {f : State → Nat → State} {g : Nat → Stance → Stance}
    (hf : ∀ s t i, ((f s t).tile i).stance = if i = t then g t (s.tile t).stance else (s.tile i).stance) {l : List Nat}
    (hl : l.Nodup ∨ ∀ t S, g t (g t S) = g t S) (s : State) (i : Nat) :
    ((l.foldl f s).tile i).stance = if i ∈ l then g i (s.tile i).stance else (s.tile i).stance := by
  induction l generalizing s with
  | nil => rfl
  | cons t l ih =>
    rw [List.foldl_cons, ih (hl.imp_left fun h => (List.nodup_cons.mp h).2), hf]
    by_cases hit : i = t
    · subst hit
      rw [if_pos rfl, if_pos List.mem_cons_self]
      split
      next hi =>
        rcases hl with hl | hl
        · exact absurd hi (List.nodup_cons.mp hl).1
        · exact hl i _
      · rfl
    · rw [if_neg hit]
      simp [hit]

theorem stance_foldl_out {f : State → Nat → State} {i : Nat} (hf : ∀ s t, i ≠ t → ((f s t).tile i).stance = (s.tile i).stance) {l : List Nat} (hi : i ∉ l)
    (s : State) : ((l.foldl f s).tile i).stance = (s.tile i).stance := by
  induction l generalizing s with
  | nil => rfl
  | cons t l ih =>
    rw [List.mem_cons, not_or] at hi
    rw [List.foldl_cons, ih hi.2, hf s t hi.1]

theorem stance_updTile (s : State) (t i : Nat) {f : Tile → Tile} {g : Stance → Stance} (hfg : ∀ T, (f T).stance = g T.stance) :
    ((s.updTile t f).tile i).stance = if i = t then g (s.tile t).stance else (s.tile i).stance := by
  by_cases hit : i = t
  · subst hit
    rw [State.updTile_tile, if_pos rfl, hfg]
  · rw [State.updTile_tile_ne _ _ hit, if_neg hit]

-- ## What a tile of a pipeline that decants does

/-- The inboxes have changed places. -/
def Stance.flipped (S : Stance) : Stance := { S with
  bLower := !S.bLower, dirA := sortBy (·.srcVtile) (sortBy (·.seq) S.dirB), dirB := [], fillB := 0 }

/-- The entry of a tile of a parcel. -/
def entryOf (P : Parcel) (t : Nat) : Word := BitVec.ofNat 64 ((((P.vtile t).bind P.image.codeOf).map (·.entry)).getD 0)

/-- The tile has begun at its entry, unless its stream is at its end. -/
def Stance.begun (P : Parcel) (t : Nat) (S : Stance) : Stance := if S.eos then S else { S with run := .running, pc := entryOf P t }

/-- A parked tile runs again. -/
def Stance.unparked (S : Stance) : Stance := if S.run == .parked then { S with run := .running } else S

theorem stance_beginTile (P : Parcel) (s : State) (t i : Nat) :
    ((beginTile s P t).tile i).stance = if i = t then (s.tile t).stance.begun P t else (s.tile i).stance := by
  refine stance_updTile s t i fun T => ?_
  unfold Stance.begun
  by_cases h : T.eos = true
  · exact (congrArg Tile.stance (if_pos h)).trans (if_pos h).symm
  · exact (congrArg Tile.stance (if_neg h)).trans (if_neg h).symm

theorem Stance.begun_begun (P : Parcel) (t : Nat) (S : Stance) : (S.begun P t).begun P t = S.begun P t := by
  unfold Stance.begun
  cases h : S.eos <;> simp [h]

theorem Stance.begun_keeps (P : Parcel) (t : Nat) (S : Stance) : (S.begun P t).bLower = S.bLower ∧ (S.begun P t).dirA = S.dirA ∧
    (S.begun P t).dirB = S.dirB ∧ (S.begun P t).fillB = S.fillB ∧ (S.begun P t).eos = S.eos ∧ (S.begun P t).vl = S.vl := by
  unfold Stance.begun
  split <;> exact ⟨rfl, rfl, rfl, rfl, rfl, rfl⟩

theorem Stance.begun_runs (P : Parcel) (t : Nat) {S : Stance} (h : S.eos = false) : (S.begun P t).run = .running ∧ (S.begun P t).pc = entryOf P t := by
  unfold Stance.begun
  rw [if_neg (by rw [h]; nofun)]
  exact ⟨rfl, rfl⟩

theorem Stance.unparked_keeps (S : Stance) : S.unparked.bLower = S.bLower ∧ S.unparked.dirA = S.dirA ∧ S.unparked.dirB = S.dirB ∧
    S.unparked.fillB = S.fillB ∧ S.unparked.pc = S.pc ∧ S.unparked.vstart = S.vstart := by
  unfold Stance.unparked
  split <;> exact ⟨rfl, rfl, rfl, rfl, rfl, rfl⟩

theorem Stance.unparked_of_ne {S : Stance} (h : S.run ≠ .parked) : S.unparked = S := if_neg (by simpa using h)

theorem Stance.unparked_run {S : Stance} (h : S.run = .parked) : S.unparked.run = .running := by
  unfold Stance.unparked
  rw [if_pos (by rw [h]; rfl)]

theorem stance_unpark (s : State) (t i : Nat) :
    ((s.updTile t Tile.unpark).tile i).stance = if i = t then (s.tile t).stance.unparked else (s.tile i).stance := by
  refine stance_updTile s t i fun T => ?_
  unfold Tile.unpark Stance.unparked
  rw [show T.stance.run = T.run from rfl]
  split <;> rfl

theorem Stance.unparked_unparked (S : Stance) : S.unparked.unparked = S.unparked := by
  unfold Stance.unparked
  cases h : S.run <;> simp [h]

/-- Some tiles begin, where they do, stage by stage. -/
def beginStages (P : Parcel) (begins : State → StageEntry → Bool) (es : List StageEntry) (s : State) : State :=
  es.foldl (fun s e => if begins s e then (poolTiles P e).foldl (fun s t => beginTile s P t) s else s) s

theorem stance_beginStages (P : Parcel) (begins : State → StageEntry → Bool) (es : List StageEntry) (s : State) (i : Nat) :
    let u := beginStages P begins es s
    ((∀ e ∈ es, i ∉ poolTiles P e) → (u.tile i).stance = (s.tile i).stance) ∧
    ((u.tile i).stance = (s.tile i).stance ∨ (u.tile i).stance = (s.tile i).stance.begun P i) ∧
    ∀ e ∈ es, (∀ t, begins t e = true) → i ∈ poolTiles P e → (u.tile i).stance = (s.tile i).stance.begun P i := by
  have hbegin (t : State) (e : StageEntry) : (((poolTiles P e).foldl (fun s t => beginTile s P t) t).tile i).stance =
      if i ∈ poolTiles P e then (t.tile i).stance.begun P i else (t.tile i).stance :=
    stance_foldl (stance_beginTile P) (.inr (Stance.begun_begun P)) t i
  induction es generalizing s with
  | nil => exact ⟨fun _ => rfl, .inl rfl, nofun⟩
  | cons e es ih =>
    intro u
    obtain ⟨hout, hor, hin⟩ := ih (if begins s e then (poolTiles P e).foldl (fun s t => beginTile s P t) s else s)
    have hstep : ((if begins s e then (poolTiles P e).foldl (fun s t => beginTile s P t) s else s).tile i).stance =
        if begins s e = true ∧ i ∈ poolTiles P e then (s.tile i).stance.begun P i else (s.tile i).stance := by
      by_cases hb : begins s e = true
      · rw [if_pos hb, hbegin]
        simp [hb]
      · rw [if_neg hb, if_neg fun h => hb h.1]
    rw [hstep] at hout hor hin
    refine ⟨fun h => ?_, ?_, fun d hd hbd hi => ?_⟩
    · refine (hout fun d hd => h d (List.mem_cons_of_mem _ hd)).trans (if_neg fun hi => h e List.mem_cons_self hi.2)
    · by_cases he : begins s e = true ∧ i ∈ poolTiles P e
      · rw [if_pos he, Stance.begun_begun, or_self] at hor
        exact .inr hor
      · rw [if_neg he] at hor
        exact hor
    · by_cases he : begins s e = true ∧ i ∈ poolTiles P e
      · rw [if_pos he, Stance.begun_begun, or_self] at hor
        exact hor
      · rw [if_neg he] at hin
        rcases List.mem_cons.mp hd with rfl | hd
        · exact absurd ⟨hbd s, hi⟩ he
        · exact hin d hd hbd hi

-- ## A pipeline decants

/-- What a decant of pipeline `k` leaves of a tile `i` of it. -/
structure Decanted (P : Parcel) (k i : Nat) (S S' : Stance) : Prop where
  bLower : S'.bLower = !S.bLower
  dirB : S'.dirB = []
  fillB : S'.fillB = 0
  begun : ∀ e ∈ P.image.pipeStages k, e.pooled = false → i ∈ poolTiles P e → S.eos = false → S'.run = .running ∧ S'.pc = entryOf P i

theorem decant_eq (s : State) (p k : Nat) : decant s p k =
    let P := s.parcel p
    let t := (pipeTiles P k).foldl (fun s t => s.updTile t flipInbox) (closeDrained (admitItems s p fun d => d.item.pipeline == k) p k)
    lineRequests (assign (beginStages P (fun s e => !e.pooled || poolInput s p e) (P.image.pipeStages k) t) p) p k := rfl

theorem calm_beginStages (P : Parcel) (begins : State → StageEntry → Bool) (es : List StageEntry) (s : State) : Calm s (beginStages P begins es s) := by
  refine Calm.foldl _ s fun t e => ?_
  split
  · exact Calm.foldl _ t fun _ _ => Calm.updTile ..
  · exact Calm.refl t

theorem calm_decant (s : State) (p k : Nat) : Calm s (decant s p k) := by
  rw [decant_eq]
  exact ((((Steady.admitItems ..).trans (Steady.closeDrained ..)).toCalm.trans (Calm.foldl _ _ fun _ _ => Calm.updTile ..)).trans
    (calm_beginStages ..)).trans ((Steady.assign ..).trans (Steady.lineRequests ..)).toCalm

theorem stance_decant (s : State) (p k i : Nat) :
    (i ∉ pipeTiles (s.parcel p) k → ((decant s p k).tile i).stance = (s.tile i).stance) ∧
    ((pipeTiles (s.parcel p) k).Nodup → i ∈ pipeTiles (s.parcel p) k → Decanted (s.parcel p) k i (s.tile i).stance ((decant s p k).tile i).stance) := by
  generalize hP : s.parcel p = P
  have hready := (Steady.admitItems s p fun d => d.item.pipeline == k).trans (Steady.closeDrained _ p k)
  have hdecant := decant_eq s p k
  dsimp only at hdecant
  rw [hP] at hdecant
  generalize closeDrained (admitItems s p fun d => d.item.pipeline == k) p k = a at hready hdecant
  have hend := (Steady.assign (beginStages P (fun s e => !e.pooled || poolInput s p e) (P.image.pipeStages k)
    ((pipeTiles P k).foldl (fun s t => s.updTile t flipInbox) a)) p).trans (Steady.lineRequests _ p k)
  rw [← hdecant] at hend
  obtain ⟨hout, hor, hin⟩ := stance_beginStages P (fun s e => !e.pooled || poolInput s p e) (P.image.pipeStages k)
    ((pipeTiles P k).foldl (fun s t => s.updTile t flipInbox) a) i
  rw [hend.stance]
  refine ⟨fun hi => ?_, fun hnodup hi => ?_⟩
  · rw [hout fun e he hie => hi (List.mem_flatMap.mpr ⟨e, he, hie⟩), stance_foldl_out (fun s t hit => ?_) hi, hready.stance]
    rw [State.updTile_tile_ne _ _ hit]
  · have hflip : (((pipeTiles P k).foldl (fun s t => s.updTile t flipInbox) a).tile i).stance = (s.tile i).stance.flipped := by
      rw [stance_foldl (g := fun _ => Stance.flipped) (fun s t i => stance_updTile s t i fun _ => rfl) (.inl hnodup), hready.stance, if_pos hi]
    rw [hflip] at hor hin
    obtain ⟨hlow, -, hdirB, hfill, heos, -⟩ := Stance.begun_keeps P i (s.tile i).stance.flipped
    refine ⟨?_, ?_, ?_, fun e he hpooled hie hstream => ?_⟩
    · rcases hor with h | h <;> rw [h]
      · rfl
      · exact hlow
    · rcases hor with h | h <;> rw [h]
      · rfl
      · exact hdirB
    · rcases hor with h | h <;> rw [h]
      · rfl
      · exact hfill
    · rw [hin e he (fun t => by simp [hpooled]) hie]
      exact Stance.begun_runs P i hstream

-- ## Every pipeline of an EXECUTE that goes on

section
variable {P Q : Parcel} (himage : Q.image = P.image) (hquads : Q.quads = P.quads)
include himage hquads

theorem poolTiles_congr (e : StageEntry) : poolTiles Q e = poolTiles P e := by
  have hptile : Q.ptile = P.ptile := by
    funext v
    rw [Parcel.ptile, Parcel.ptile, Parcel.vquads, Parcel.vquads, himage, hquads]
  rw [poolTiles, poolTiles, hptile]

theorem pipeTiles_congr (k : Nat) : pipeTiles Q k = pipeTiles P k := by
  rw [pipeTiles, pipeTiles, himage]
  exact congrArg ((P.image.pipeStages k).flatMap ·) (funext (poolTiles_congr himage hquads))

theorem entryOf_congr (t : Nat) : entryOf Q t = entryOf P t := by
  have hvtile : Q.vtile t = P.vtile t := by rw [Parcel.vtile, Parcel.vtile, Parcel.vquads, Parcel.vquads, himage, hquads]
  rw [entryOf, entryOf, hvtile, himage]

theorem Decanted.congr {k i : Nat} {S S' : Stance} (h : Decanted Q k i S S') : Decanted P k i S S' := by
  refine ⟨h.bLower, h.dirB, h.fillB, fun e he hpooled hi hstream => ?_⟩
  rw [← entryOf_congr himage hquads]
  exact h.begun e (himage ▸ he) hpooled (poolTiles_congr himage hquads e ▸ hi) hstream

end

theorem calm_decants (p : Nat) (ks : List Nat) (s : State) : Calm s (ks.foldl (fun s k => decant s p k) s) := Calm.foldl _ s fun _ _ => calm_decant ..

/-- Lists of which no two share an element have each element at one place. -/
theorem eq_of_nodup_flatMap {α β : Type} {f : α → List β} {l : List α} (h : (l.flatMap f).Nodup) {j k : α} {i : β} (hj : j ∈ l) (hk : k ∈ l)
    (hij : i ∈ f j) (hik : i ∈ f k) : j = k := by
  induction l with
  | nil => cases hj
  | cons x l ih =>
    rw [List.flatMap_cons, List.nodup_append] at h
    obtain ⟨-, hl, hcross⟩ := h
    rcases List.mem_cons.mp hj with rfl | hjl <;> rcases List.mem_cons.mp hk with rfl | hkl
    · rfl
    · exact absurd rfl (hcross i hij i (List.mem_flatMap.mpr ⟨k, hkl, hik⟩))
    · exact absurd rfl (hcross i hik i (List.mem_flatMap.mpr ⟨j, hjl, hij⟩))
    · exact ih hl hjl hkl

/-- Where the tiles stand once some pipelines have decanted that share no tile. -/
theorem stance_decants {P : Parcel} (p : Nat) {ks : List Nat} (hks : (ks.flatMap (pipeTiles P)).Nodup) {s : State} (himage : (s.parcel p).image = P.image)
    (hquads : (s.parcel p).quads = P.quads) (i : Nat) :
    let u := ks.foldl (fun s k => decant s p k) s
    ((∀ k ∈ ks, i ∉ pipeTiles P k) → (u.tile i).stance = (s.tile i).stance) ∧
    ∀ k ∈ ks, i ∈ pipeTiles P k → Decanted P k i (s.tile i).stance (u.tile i).stance := by
  induction ks generalizing s with
  | nil => exact ⟨fun _ => rfl, nofun⟩
  | cons k ks ih =>
    intro u
    rw [List.flatMap_cons, List.nodup_append] at hks
    obtain ⟨hk, hks, hdisjoint⟩ := hks
    have hcalm := calm_decant s p k
    obtain ⟨hout, hin⟩ := ih hks (s := decant s p k) ((hcalm.image p).trans himage) ((hcalm.quads p).trans hquads)
    obtain ⟨hfirst, hdecanted⟩ := stance_decant s p k i
    rw [pipeTiles_congr himage hquads] at hfirst hdecanted
    refine ⟨fun h => (hout fun j hj => h j (List.mem_cons_of_mem _ hj)).trans (hfirst (h k List.mem_cons_self)), fun j hj hij => ?_⟩
    by_cases hik : i ∈ pipeTiles P k
    · have hothers (j : Nat) (hj : j ∈ ks) : i ∉ pipeTiles P j := fun hij => hdisjoint i hik i (List.mem_flatMap.mpr ⟨j, hj, hij⟩) rfl
      have hjk : j = k := (List.mem_cons.mp hj).resolve_right fun hj => hothers j hj hij
      subst hjk
      change Decanted P j i _ ((ks.foldl (fun s k => decant s p k) (decant s p j)).tile i).stance
      rw [hout hothers]
      exact (hdecanted hk hik).congr himage hquads
    · have hjks : j ∈ ks := (List.mem_cons.mp hj).resolve_left fun hjk => hik (hjk ▸ hij)
      rw [← hfirst hik]
      exact hin j hjks hij

/-- The record of an EXECUTE that goes on past a boundary. -/
def nextExec (s : State) (P : Parcel) (x : Exec) (resumed : Bool) (y : Exec) : Exec := { y with
  frames := x.frames + 1, holds := x.holds + (P.image.pipeIds.filter fun k => !decants s P k && !pipeParked s P k).length
  pipes := P.image.pipeIds.map (nextPipe s P x resumed) }

/-- A boundary that an EXECUTE goes on past, before its RESUMEs unpark. -/
def decantAll (s : State) (p : Nat) (x : Exec) (resumed : Bool) : State :=
  let P := s.parcel p
  (P.image.pipeIds.filter fun k => decants s P k).foldl (fun s k => decant s p k)
    ((P.image.pipeIds.filter fun k => !decants s P k && !pipeParked s P k).foldl (fun s k => countHold s P k)
      (s.updParcel p fun Q => { Q with exec := Q.exec.map (nextExec s P x resumed) }))

theorem continueExecute_eq (s : State) (p : Nat) (x : Exec) (resumed : Bool) : continueExecute s p x resumed =
    if resumed then assign ((s.parcel p).tiles.foldl (fun s t => s.updTile t Tile.unpark) (decantAll s p x resumed)) p
    else decantAll s p x resumed := rfl

section
variable {s : State} {p : Nat} {x : Exec} (resumed : Bool)

theorem decantAll_spec (hnodup : ((s.parcel p).image.pipeIds.flatMap (pipeTiles (s.parcel p))).Nodup) :
    Calm (s.updParcel p fun Q => { Q with exec := Q.exec.map (nextExec s (s.parcel p) x resumed) }) (decantAll s p x resumed) ∧
    ∀ k ∈ (s.parcel p).image.pipeIds, ∀ i ∈ pipeTiles (s.parcel p) k,
      (decants s (s.parcel p) k = true → Decanted (s.parcel p) k i (s.tile i).stance ((decantAll s p x resumed).tile i).stance) ∧
      (decants s (s.parcel p) k = false → ((decantAll s p x resumed).tile i).stance = (s.tile i).stance) := by
  unfold decantAll
  dsimp only
  generalize hP : s.parcel p = P at hnodup ⊢
  generalize hu : s.updParcel p (fun Q => { Q with exec := Q.exec.map (nextExec s P x resumed) }) = u
  have htile (i : Nat) : u.tile i = s.tile i := by rw [← hu]; rfl
  have hparcel : u.parcel p = { P with exec := P.exec.map (nextExec s P x resumed) } := by rw [← hu, State.updParcel_parcel, hP]
  have hheld : Steady u ((P.image.pipeIds.filter fun k => !decants s P k && !pipeParked s P k).foldl (fun s k => countHold s P k) u) :=
    Steady.foldl _ u fun _ _ => Steady.countHold ..
  generalize (P.image.pipeIds.filter fun k => !decants s P k && !pipeParked s P k).foldl (fun s k => countHold s P k) u = v at hheld ⊢
  have hgo : ((P.image.pipeIds.filter fun k => decants s P k).flatMap (pipeTiles P)).Nodup := by
    obtain ⟨hone, hcross⟩ := List.pairwise_flatMap.mp hnodup
    exact List.pairwise_flatMap.mpr ⟨fun k hk => hone k (List.mem_filter.mp hk).1, List.Pairwise.sublist List.filter_sublist hcross⟩
  have hspec (i : Nat) := stance_decants p hgo (s := v) ((hheld.image p).trans (by rw [hparcel])) ((hheld.quads p).trans (by rw [hparcel])) i
  refine ⟨hheld.toCalm.trans (calm_decants ..), fun k hk i hi => ⟨fun hd => ?_, fun hd => ?_⟩⟩
  · have hdecanted := (hspec i).2 k (List.mem_filter.mpr ⟨hk, hd⟩) hi
    rwa [hheld.stance, htile] at hdecanted
  · refine ((hspec i).1 fun j hj hij => ?_).trans (by rw [hheld.stance, htile])
    obtain ⟨hjmem, hjd⟩ := List.mem_filter.mp hj
    have hne : j ≠ k := fun h => by rw [h, hd] at hjd; cases hjd
    exact hne (eq_of_nodup_flatMap hnodup hjmem hk hij hi)

end

/-- What a boundary that an EXECUTE goes on past leaves of its record and its tiles. -/
theorem goesOn_spec {s : State} {p : Nat} {x : Exec} (hx : (s.parcel p).exec = some x) (resumed : Bool)
    (hnodup : ((s.parcel p).image.pipeIds.flatMap (pipeTiles (s.parcel p))).Nodup) (l : List Cmd) (st : Nat) :
    let P := s.parcel p
    let t := openFrame (endResumes (continueExecute s p x resumed) l st) p
    (∃ y, (t.parcel p).exec = some y ∧ y.frames = x.frames + 1 ∧ y.pipes = P.image.pipeIds.map (nextPipe s P x resumed)) ∧
    ∀ k ∈ P.image.pipeIds, ∀ i ∈ pipeTiles P k,
      (decants s P k = true → Decanted P k i (s.tile i).stance (t.tile i).stance) ∧
      (decants s P k = false → (t.tile i).stance = if resumed = true ∧ i ∈ P.tiles then (s.tile i).stance.unparked else (s.tile i).stance) := by
  intro P t
  obtain ⟨hcalm, hpipes⟩ := decantAll_spec (x := x) resumed hnodup
  have hcontinue := continueExecute_eq s p x resumed
  generalize decantAll s p x resumed = a at hcalm hpipes hcontinue
  have hlast : Steady (continueExecute s p x resumed) t := (Steady.endResumes ..).trans (Steady.openFrame ..)
  have hunpark : Calm a (continueExecute s p x resumed) ∧ ∀ i, ((continueExecute s p x resumed).tile i).stance =
      if resumed = true ∧ i ∈ P.tiles then (a.tile i).stance.unparked else (a.tile i).stance := by
    rw [hcontinue]
    cases resumed with
    | false => exact ⟨Calm.refl a, fun i => by simp⟩
    | true =>
      rw [if_pos rfl]
      refine ⟨(Calm.foldl _ a fun _ _ => Calm.updTile ..).trans (Steady.assign ..).toCalm, fun i => ?_⟩
      rw [(Steady.assign ..).stance, stance_foldl (g := fun _ => Stance.unparked) stance_unpark (.inr fun _ => Stance.unparked_unparked)]
      simp [P]
  have hafter := (hcalm.trans hunpark.1).trans hlast.toCalm
  refine ⟨?_, fun k hk i hi => ⟨fun hd => ?_, fun hd => ?_⟩⟩
  · have hexec : ((s.updParcel p fun Q => { Q with exec := Q.exec.map (nextExec s P x resumed) }).parcel p).exec =
        some (nextExec s P x resumed x) := by
      rw [State.updParcel_parcel, hx]
      rfl
    obtain ⟨y, hy, hcore⟩ := hafter.exec p hexec
    exact ⟨y, hy, congrArg Exec.frames hcore, congrArg Exec.pipes hcore⟩
  · obtain ⟨hlow, hdirB, hfill, hbegun⟩ := (hpipes k hk i hi).1 hd
    rw [hlast.stance, hunpark.2]
    split
    · obtain ⟨hlow', -, hdirB', hfill', hpc, -⟩ := Stance.unparked_keeps (a.tile i).stance
      refine ⟨hlow'.trans hlow, hdirB'.trans hdirB, hfill'.trans hfill, fun e he hpooled hie hstream => ?_⟩
      obtain ⟨hrun, hentry⟩ := hbegun e he hpooled hie hstream
      rw [Stance.unparked_of_ne (by rw [hrun]; nofun)]
      exact ⟨hrun, hentry⟩
    · exact ⟨hlow, hdirB, hfill, hbegun⟩
  · rw [hlast.stance, hunpark.2, (hpipes k hk i hi).2 hd]

end Sys2Proof.Machine

/-! PROOFS. The start of an EXECUTE, the two ways a boundary decides of it, and the global boundary's frame (chapter 02). -/

namespace Sys2Proof.Machine

-- ## The start of an EXECUTE

/-- The stance of a tile before the first frame of an EXECUTE: its stream has not ended, and its registers are at their reset values. -/
def Stance.atStart (S : Stance) : Stance := { S with
  bLower := false, dirA := [], dirB := [], fillB := 0, run := .idle, eos := false, vl := 512, vstart := 0 }

theorem initUnits_spec (s : State) (P : Parcel) : Calm s (initUnits s P) ∧
    ∀ i, ((initUnits s P).tile i).stance = if i ∈ P.tiles then (s.tile i).stance.atStart else (s.tile i).stance := by
  have hstart (t : State) (j i : Nat) : ((cacheAtStart (t.updTile j Tile.atStart) j).tile i).stance =
      if i = j then (t.tile j).stance.atStart else (t.tile i).stance := by
    unfold cacheAtStart State.updCache
    rw [State.updTile_twice]
    exact stance_updTile t j i fun _ => rfl
  have htiles : Calm s (P.tiles.foldl (fun s t => cacheAtStart (s.updTile t Tile.atStart) t) s) :=
    Calm.foldl _ s fun t i => (Calm.updTile t i _).trans (Calm.updTile ..)
  have hstance (i : Nat) : ((P.tiles.foldl (fun s t => cacheAtStart (s.updTile t Tile.atStart) t) s).tile i).stance =
      if i ∈ P.tiles then (s.tile i).stance.atStart else (s.tile i).stance :=
    stance_foldl (g := fun _ => Stance.atStart) hstart (.inr fun _ _ => rfl) s i
  have hrest : Steady (P.tiles.foldl (fun s t => cacheAtStart (s.updTile t Tile.atStart) t) s) (initUnits s P) := by
    unfold initUnits
    exact ((((Steady.foldl _ _ fun _ _ => Steady.flushUnit ..).trans (Steady.foldl _ _ fun _ _ => Steady.updEng ..)).trans
      (Steady.foldl _ _ fun _ _ => Steady.updEng ..)).trans (Steady.foldl _ _ fun _ _ => Steady.updEng ..)).trans
      (Steady.foldl _ _ fun _ _ => Steady.updGroup ..)
  exact ⟨htiles.trans hrest.toCalm, fun i => (hrest.stance i).trans (hstance i)⟩

/-- The record of an EXECUTE that starts. -/
def firstExec (s : State) (P : Parcel) (c : Cmd) : Exec := {
  seq := c.seq, start := s.frm.count, param := c.fetched.getD [], pipes := P.image.pipeIds.map fun k => { id := k } }

theorem startExecute_starts {s : State} {p : Nat} {c : Cmd} (hflaw : startFlaw s p c (c.fetched.getD []) = none) : startExecute s p c =
    let P := s.parcel p
    let t := initUnits (s.updCmd c.seq fun c => { c with phase := .running }) P
    let u := t.updParcel p fun Q => { Q with
      dsp := { Q.dsp with peak := 0, deliv := 0, closed := [], seqs := [], flows := [] }, exec := some (firstExec t P c) }
    let v := initialItems (startPrograms (bindCopy u P (c.fetched.getD [])) p) p c (c.fetched.getD [])
    P.image.pipeIds.foldl (fun s k => lineRequests s p k) (assign ((P.image.stages.flatMap (poolTiles P)).foldl (fun s t => beginTile s P t) v) p) := by
  unfold startExecute
  dsimp only
  rw [hflaw]
  rfl

theorem startExecute_flawed {s : State} {p : Nat} {c : Cmd} {st : Nat} {det : List Byte} (hflaw : startFlaw s p c (c.fetched.getD []) = some (st, det)) :
    startExecute s p c = endCmd s c st det := by
  unfold startExecute
  dsimp only
  rw [hflaw]

/-- An EXECUTE starts with its record and with its tiles at their entries. -/
theorem startExecute_spec {s : State} {p : Nat} {c : Cmd} (hflaw : startFlaw s p c (c.fetched.getD []) = none) :
    let P := s.parcel p
    let t := startExecute s p c
    ((t.parcel p).exec.map fun y => (y.seq, y.start, y.frames, y.holds)) = some (c.seq, s.frm.count, 0, 0) ∧
    ∀ e ∈ P.image.stages, ∀ i ∈ poolTiles P e, i ∈ P.tiles → (t.tile i).run = .running ∧ (t.tile i).vl = 512 ∧ (t.tile i).pc = entryOf P i := by
  intro P t
  have hstart := startExecute_starts hflaw
  dsimp only at hstart
  obtain ⟨hcalm, hinit⟩ := initUnits_spec (s.updCmd c.seq fun c => { c with phase := .running }) P
  generalize initUnits (s.updCmd c.seq fun c => { c with phase := .running }) P = a at hcalm hinit hstart
  generalize hb : a.updParcel p (fun Q => { Q with
    dsp := { Q.dsp with peak := 0, deliv := 0, closed := [], seqs := [], flows := [] }, exec := some (firstExec a P c) }) = b at hstart
  have hexec : (b.parcel p).exec = some (firstExec a P c) := by rw [← hb, State.updParcel_parcel]
  have htile (i : Nat) : b.tile i = a.tile i := by rw [← hb]; rfl
  have hfilled : Steady b (initialItems (startPrograms (bindCopy b P (c.fetched.getD [])) p) p c (c.fetched.getD [])) :=
    ((Steady.bindCopy ..).trans (Steady.startPrograms ..)).trans (Steady.initialItems ..)
  generalize initialItems (startPrograms (bindCopy b P (c.fetched.getD [])) p) p c (c.fetched.getD []) = v at hfilled hstart
  have hbegun (i : Nat) : (((P.image.stages.flatMap (poolTiles P)).foldl (fun s t => beginTile s P t) v).tile i).stance =
      if i ∈ P.image.stages.flatMap (poolTiles P) then (v.tile i).stance.begun P i else (v.tile i).stance :=
    stance_foldl (stance_beginTile P) (.inr (Stance.begun_begun P)) v i
  have hbegin : Calm v ((P.image.stages.flatMap (poolTiles P)).foldl (fun s t => beginTile s P t) v) := Calm.foldl _ v fun _ _ => Calm.updTile ..
  generalize (P.image.stages.flatMap (poolTiles P)).foldl (fun s t => beginTile s P t) v = w at hbegun hbegin hstart
  have hlast : Steady w t := by
    rw [show t = _ from hstart]
    exact (Steady.assign ..).trans (Steady.foldl _ _ fun _ _ => Steady.lineRequests ..)
  refine ⟨?_, fun e he i hi hmem => ?_⟩
  · obtain ⟨y, hy, hcore⟩ := ((hfilled.toCalm.trans hbegin).trans hlast.toCalm).exec p hexec
    rw [hy, Option.map_some, show y.seq = c.seq from congrArg Exec.seq hcore, show y.start = a.frm.count from congrArg Exec.start hcore,
      show y.frames = 0 from congrArg Exec.frames hcore, show y.holds = 0 from congrArg Exec.holds hcore, hcalm.frm]
    rfl
  · have hS : (t.tile i).stance = ((s.tile i).stance.atStart).begun P i := by
      rw [hlast.stance, hbegun, if_pos (List.mem_flatMap.mpr ⟨e, he, hi⟩), hfilled.stance, htile, hinit, if_pos hmem]
      rfl
    obtain ⟨hrun, hpc⟩ := Stance.begun_runs P i (S := (s.tile i).stance.atStart) rfl
    obtain ⟨-, -, -, -, -, hvl⟩ := Stance.begun_keeps P i (s.tile i).stance.atStart
    exact ⟨(congrArg Stance.run hS).trans hrun, (congrArg Stance.vl hS).trans hvl, (congrArg Stance.pc hS).trans hpc⟩

-- ## The decision

section
variable {s : State} {p : Nat} {x : Exec} (hx : (s.parcel p).exec = some x)
include hx

theorem decideExecute_ends {st : Nat} {det : List Byte}
    (ho : outcome s (s.parcel p) x (observedFor s p 0x13 x.seq) (observedFor s p 0x14 x.seq) = some (st, det)) : decideExecute s p =
    endResumes (match observedFor s p 0x13 x.seq with
      | [] => endExecute s.stamp.2 p x st det
      | k :: _ => if st = sCANCELLED then endCmd (endExecute s.stamp.2 p x st det) k sSUCCESS (zeros 16) else endExecute s.stamp.2 p x st det)
      (observedFor s p 0x14 x.seq) sTOO_LATE := by
  unfold decideExecute
  dsimp only
  rw [hx]
  dsimp only
  rw [ho] <;> rfl

theorem decideExecute_goesOn (ho : outcome s (s.parcel p) x (observedFor s p 0x13 x.seq) (observedFor s p 0x14 x.seq) = none) : decideExecute s p =
    openFrame (endResumes (continueExecute s p x (!(observedFor s p 0x14 x.seq).isEmpty)) (observedFor s p 0x14 x.seq) sSUCCESS) p := by
  unfold decideExecute
  dsimp only
  rw [hx]
  dsimp only
  rw [ho]

end

theorem nextPipe_holds (s : State) (P : Parcel) (x : Exec) (resumed : Bool) (k : Nat) : (nextPipe s P x resumed k).holds =
    if decants s P k || (pipeParked s P k && resumed) then 0 else if pipeParked s P k then (x.pipe k).holds else (x.pipe k).holds + 1 := rfl

theorem find_nextPipe (s : State) (P : Parcel) (x : Exec) (resumed : Bool) {ks : List Nat} {k : Nat} (hk : k ∈ ks) :
    (ks.map (nextPipe s P x resumed)).find? (fun q => q.id == k) = some (nextPipe s P x resumed k) := by
  have hfind : ks.find? (fun j => j == k) = some k := by
    obtain ⟨j, hj⟩ := Option.isSome_iff_exists.mp ((List.find?_isSome (p := fun j => j == k)).mpr ⟨k, hk, beq_self_eq_true k⟩)
    have hjk : (j == k) = true := List.find?_some (p := fun j => j == k) hj
    rw [hj, eq_of_beq hjk]
  rw [List.find?_map, show ((fun q : Pipe => q.id == k) ∘ nextPipe s P x resumed) = fun j => j == k from rfl, hfind]
  rfl

-- ## The global boundary

/-- The pennants of one instant leave the frame generator as what is decided then leaves it. -/
theorem frm_together (s : State) (f : State → State) : (together s f).frm = (f { s with deciding := true }).frm := by
  unfold together
  exact foldl_keeps (P := fun t : State => t.frm = (f { s with deciding := true }).frm) _ _ rfl fun t w ht => (Steady.drainWin ..).frm.trans ht

theorem frm_endDetaches (s : State) : (endDetaches s).frm = s.frm := (Steady.foldl _ s fun _ _ => Steady.endCmd ..).frm

theorem foldNat_fixed {l : List Nat} {f : Nat → State → State} {s : State} (h : ∀ p ∈ l, f p s = s) : foldNat l f s = s := by
  unfold foldNat
  induction l with
  | nil => rfl
  | cons p l ih =>
    rw [List.foldl_cons, h p List.mem_cons_self]
    exact ih fun q hq => h q (List.mem_cons_of_mem _ hq)

/-- The frame that opens: the settings written since take effect. -/
def opened (s : State) : State :=
  { s.updFrm (fun F => { F with count := F.count + 1, cycle := 0, guardOpen := false, periodNow := F.period, holdNow := F.hold }) with
    parcels := s.parcels.map fun e => (e.1, { e.2 with divNow := e.2.div }) }

theorem globalBoundary_eq (s : State) : globalBoundary s = together (opened s) fun t => endDetaches (foldNat (List.range 64) (fun p t =>
    if (t.parcel p).holds && t.frm.count.toNat % (t.parcel p).divNow.toNat = 0 then parcelBoundary t p else t) t) := rfl

theorem globalBoundary_frm {s : State} (h : ∀ p, p < 64 → (s.parcel p).holds = false) : (globalBoundary s).frm = (opened s).frm := by
  have hholds (d : Bool) (p : Nat) : (({ opened s with deciding := d } : State).parcel p).holds = (s.parcel p).holds := by
    have hget := Tab.get_map (fun P : Parcel => { P with divNow := P.div }) {} s.parcels p
    exact (congrArg Parcel.holds hget).trans rfl
  have hnone : foldNat (List.range 64) (fun p t =>
      if (t.parcel p).holds && t.frm.count.toNat % (t.parcel p).divNow.toNat = 0 then parcelBoundary t p else t) { opened s with deciding := true } =
      { opened s with deciding := true } := by
    refine foldNat_fixed fun p hp => if_neg ?_
    rw [hholds, h p (List.mem_range.mp hp)]
    nofun
  rw [globalBoundary_eq, frm_together, hnone]
  exact frm_endDetaches _

end Sys2Proof.Machine

/-! PROOFS. O41: the rows of the frame generator, what a boundary decides, and the correlation with host time (chapter 02). -/

namespace Sys2Proof.Machine

-- ## Rows of the frame generator

section
variable {s : State} {v : Word}

theorem periodWrite_eq {held range : Bool} (hheld : (s.parcels.any fun e => e.2.st == .active || e.2.st == .quiescing) = held)
    (hrange : (decide (v.toNat % 2 ^ 16 < 600) || decide (38400 < v.toNat % 2 ^ 16)) = range) : periodWrite s v =
    let t := s.updFrm fun F => { F with
      period := if held || range then F.period else BitVec.ofNat 16 (v.toNat % 2 ^ 16)
      periodRefused := F.periodRefused || held, periodRange := F.periodRange || range }
    let t := if held then raiseGlobal t 0 1 else t
    if range then raiseGlobal t 0 2 else t := by
  unfold periodWrite
  dsimp only
  rw [fld_zero, hheld, hrange]
  rfl

theorem period_inside {n : Nat} (hlo : 600 ≤ n) (hhi : n ≤ 38400) : (decide (n < 600) || decide (38400 < n)) = false := by simp; omega

theorem period_outside {n : Nat} (h : n < 600 ∨ 38400 < n) : (decide (n < 600) || decide (38400 < n)) = true := by simpa using h

/-- A write of FRM_PERIOD is taken, or refused with the bits and the events of what is wrong with it. -/
theorem periodWrite_spec (s : State) (v : Word) :
    let n := v.toNat % 2 ^ 16
    let held := s.parcels.any fun e => e.2.st == .active || e.2.st == .quiescing
    (held = false → 600 ≤ n → n ≤ 38400 → periodWrite s v = s.updFrm fun F => { F with period := BitVec.ofNat 16 n }) ∧
    (held = false → (n < 600 ∨ 38400 < n) → periodWrite s v = raiseGlobal (s.updFrm fun F => { F with periodRange := true }) 0 2) ∧
    (held = true → 600 ≤ n → n ≤ 38400 → periodWrite s v = raiseGlobal (s.updFrm fun F => { F with periodRefused := true }) 0 1) ∧
    (held = true → (n < 600 ∨ 38400 < n) →
      periodWrite s v = raiseGlobal (raiseGlobal (s.updFrm fun F => { F with periodRefused := true, periodRange := true }) 0 1) 0 2) := by
  refine ⟨fun hheld hlo hhi => ?_, fun hheld hout => ?_, fun hheld hlo hhi => ?_, fun hheld hout => ?_⟩
  · simp [periodWrite_eq hheld (period_inside hlo hhi)]
  · simp [periodWrite_eq hheld (period_outside hout)]
  · simp [periodWrite_eq hheld (period_inside hlo hhi)]
  · simp [periodWrite_eq hheld (period_outside hout)]

theorem holdLimitWrite_spec (s : State) (v : Word) :
    (v.toNat % 2 ^ 8 ≠ 0 → holdLimitWrite s v = s.updFrm fun F => { F with hold := BitVec.ofNat 8 (v.toNat % 2 ^ 8) }) ∧
    (v.toNat % 2 ^ 8 = 0 → holdLimitWrite s v = raiseGlobal (s.updFrm fun F => { F with holdErr := true }) 0 3) := by
  unfold holdLimitWrite
  rw [fld_zero]
  exact ⟨fun h => if_neg h, fun h => if_pos h⟩

theorem ptmCapture_spec (s : State) (ns : Word) :
    (s.frm.frozen = false → ptmCapture s ns = raiseGlobal (s.updFrm fun F => { F with
      ptmAsked := false, ptmFrame := F.count, ptmCycle := BitVec.ofNat 16 F.cycle, ptmSeq := F.ptmSeq + 1, ptmHost := ns }) 1 1) ∧
    (s.frm.frozen = true → ptmCapture s ns = raiseGlobal (s.updFrm fun F => { F with
      ptmAsked := false, ptmFrame := F.count, ptmLate := some (BitVec.ofNat 16 F.cycle, ((F.ptmLate.map (·.2.1)).getD F.ptmSeq) + 1, ns) }) 1 1) := by
  unfold ptmCapture State.updFrm
  exact ⟨fun h => by simp [h], fun h => by simp [h]⟩

/-- What a read of the capture leaves of the frame generator: the freeze is `fz`, and a capture that waited is taken. -/
def Frm.thawed (F : Frm) (fz : Bool) : Frm :=
  match F.ptmLate with
  | none => { F with frozen := fz }
  | some (c, k, ns) => { F with frozen := fz, ptmCycle := c, ptmSeq := k, ptmHost := ns, ptmLate := none }

theorem Frm.freeze_eq (F : Frm) : F.freeze = F.thawed true := by
  unfold Frm.freeze Frm.unfreeze Frm.thawed
  cases F.ptmLate <;> rfl

theorem Frm.unfreeze_eq (F : Frm) : F.unfreeze = F.thawed false := rfl

end

-- ## What a boundary decides

section
variable {s : State} {p : Nat} {x : Exec}

/-- The outcomes after the final commit and a CANCEL: an overrun, or an expired park. -/
theorem outcome_failures {P : Parcel} {cancels resumes : List Cmd} (hcommit : finalCommit s P = false) (hcancels : cancels = []) (hfail : failure s P x = none) :
    (∀ k ∈ P.image.pipeIds, Overruns s P x k → (∀ j ∈ P.image.pipeIds, j < k → ¬ Overruns s P x j) → ¬ ParkExpires s P x resumes →
      ∃ st, outcome s P x cancels resumes = some (sFRAME_OVERRUN, detail 0 10 k st 0) ∧ ((∃ e ∈ P.image.pipeStages k, stageDone s P e = false) →
        (∃ e ∈ P.image.pipeStages k, e.stage = st ∧ stageDone s P e = false) ∧ ∀ e ∈ P.image.pipeStages k, stageDone s P e = false → st ≤ e.stage)) ∧
    (ParkExpires s P x resumes → (∀ k ∈ P.image.pipeIds, ¬ Overruns s P x k) → ∃ det, outcome s P x cancels resumes = some (sTRANSLATION_FAULT, det)) ∧
    (¬ ParkExpires s P x resumes → (∀ k ∈ P.image.pipeIds, ¬ Overruns s P x k) → outcome s P x cancels resumes = none) := by
  rw [outcome_rest hcommit hcancels hfail]
  refine ⟨fun k hk hlate hfirst hpark => ?_, fun hpark hlate => ?_, fun hpark hlate => ?_⟩
  · obtain ⟨st, hover, hstage⟩ := overrun_first hk hlate hfirst
    refine ⟨st, ?_, hstage⟩
    rw [hover, parkExpired_none hpark]
    exact ite_self _
  · obtain ⟨det, hdet⟩ := parkExpired_some hpark
    refine ⟨det, ?_⟩
    rw [hdet, overrun_none hlate]
    exact ite_self _
  · rw [parkExpired_none hpark, overrun_none hlate]
    exact ite_self _

/-- The record and the tiles of an EXECUTE that goes on, as the boundary finds its pipelines. -/
theorem decideExecute_kept (hx : (s.parcel p).exec = some x)
    (ho : outcome s (s.parcel p) x (observedFor s p 0x13 x.seq) (observedFor s p 0x14 x.seq) = none)
    (hnodup : ((s.parcel p).image.pipeIds.flatMap (pipeTiles (s.parcel p))).Nodup) :
    let P := s.parcel p
    let resumed := !(observedFor s p 0x14 x.seq).isEmpty
    let t := decideExecute s p
    (∃ y, (t.parcel p).exec = some y ∧ y.frames = x.frames + 1 ∧
      ∀ k ∈ P.image.pipeIds, y.pipes.find? (fun q => q.id == k) = some (nextPipe s P x resumed k)) ∧
    ∀ k ∈ P.image.pipeIds, ∀ i ∈ pipeTiles P k,
      (decants s P k = true → Decanted P k i (s.tile i).stance (t.tile i).stance) ∧
      (decants s P k = false → (t.tile i).stance = if resumed = true ∧ i ∈ P.tiles then (s.tile i).stance.unparked else (s.tile i).stance) := by
  intro P resumed t
  rw [show t = _ from decideExecute_goesOn hx ho]
  obtain ⟨⟨y, hy, hframes, hpipes⟩, htiles⟩ := goesOn_spec hx resumed hnodup (observedFor s p 0x14 x.seq) sSUCCESS
  exact ⟨⟨y, hy, hframes, fun k hk => hpipes ▸ find_nextPipe s P x resumed hk⟩, htiles⟩

/-- A tile of a pipeline that holds is where it stood, but for a RESUME that lets it run again. -/
theorem held_tile {P : Parcel} {i : Nat} {T U : Tile} {resumes : List Cmd}
    (h : U.stance = if (!resumes.isEmpty) = true ∧ i ∈ P.tiles then T.stance.unparked else T.stance) :
    U.bLower = T.bLower ∧ U.dirA = T.dirA ∧ U.pc = T.pc ∧ (T.run ≠ .parked ∨ resumes = [] → U.run = T.run) ∧
    (T.run = .parked → resumes ≠ [] → i ∈ P.tiles → U.run = .running ∧ U.vstart = T.vstart) := by
  obtain ⟨hlow, hdirA, -, -, hpc, hvstart⟩ := Stance.unparked_keeps T.stance
  refine ⟨?_, ?_, ?_, fun hstay => ?_, fun hparked hres hi => ?_⟩
  · refine (congrArg Stance.bLower h).trans ?_
    split
    · exact hlow
    · rfl
  · refine (congrArg Stance.dirA h).trans ?_
    split
    · exact hdirA
    · rfl
  · refine (congrArg Stance.pc h).trans ?_
    split
    · exact hpc
    · rfl
  · refine (congrArg Stance.run h).trans ?_
    split
    next hc =>
      rcases hstay with hrun | hnil
      · exact congrArg Stance.run (Stance.unparked_of_ne hrun)
      · rw [hnil] at hc
        exact absurd hc.1 nofun
    · rfl
  · rw [if_pos ⟨by cases resumes <;> simp at hres ⊢, hi⟩] at h
    exact ⟨(congrArg Stance.run h).trans (Stance.unparked_run hparked), (congrArg Stance.vstart h).trans hvstart⟩

/-- The holds of a pipeline after a boundary. -/
theorem nextPipe_counts {P : Parcel} {k : Nat} {resumes : List Cmd} :
    let q := nextPipe s P x (!resumes.isEmpty) k
    ((decants s P k = true ∨ (PipeParked s P k ∧ resumes ≠ [])) → q.holds = 0) ∧
    (decants s P k = false → ¬ PipeParked s P k → q.holds = (x.pipe k).holds + 1) ∧
    (decants s P k = false → PipeParked s P k → resumes = [] → q.holds = (x.pipe k).holds) := by
  dsimp only
  rw [nextPipe_holds, ← pipeParked_iff]
  refine ⟨fun h => if_pos ?_, fun hd hp => ?_, fun hd hp hr => ?_⟩
  · simpa using h
  · simp [hd, eq_false_of_ne_true hp]
  · simp [hd, hp, hr]

end

/-- Settles O41: what a boundary decides of an EXECUTE is settled outcome by outcome; of one that goes on, each tile's stance is followed through the
decants of its parcel's pipelines, which share no tile. -/
theorem frames : Obligations.Frames := by
  unfold Obligations.Frames
  intro s who v hs n h held newFrame
  have hlive {f : State → State} {c : Instr} (hc : exec c s = ok (live s f)) : exec c s = .next (f s) := hc.trans (congrArg ok (live_clocked hs f))
  have hperiod : exec (.frmPeriodWrite who v) s = .next (if isManager s who then periodWrite s v else s) :=
    hlive (f := fun s => if isManager s who then periodWrite s v else s) rfl
  have hhold : exec (.frmHoldLimitWrite who v) s = .next (if isManager s who then holdLimitWrite s v else s) :=
    hlive (f := fun s => if isManager s who then holdLimitWrite s v else s) rfl
  have hread : exec (.frmPtmFrameRead who) s = .next (if isManager s who then { s with lastRead := s.frm.ptmFrame, frm := s.frm.freeze } else s) :=
    hlive (f := fun s => if isManager s who then { s with lastRead := s.frm.ptmFrame, frm := s.frm.freeze } else s) rfl
  have hhost : exec (.frmPtmHostRead who) s = .next (if isManager s who then { s with lastRead := s.frm.ptmHost, frm := s.frm.unfreeze } else s) :=
    hlive (f := fun s => if isManager s who then { s with lastRead := s.frm.ptmHost, frm := s.frm.unfreeze } else s) rfl
  refine ⟨hlive (f := fun s => settleFrom s (globalBoundary s)) rfl, fun hnone => globalBoundary_frm hnone, ?_, fun p => rfl,
    fun p x hx => ⟨fun k => decants_iff, outcome_commit, outcome_cancel, fun hcommit hcancels hfail => outcome_failures hcommit hcancels hfail,
      fun st det c ho hc => ⟨endExecute_ended (s := s.stamp.2) hc st det, ?_⟩, fun ho hnodup => ?_⟩,
    fun p c _ hflaw => startExecute_spec hflaw, fun p c st det hflaw => startExecute_flawed hflaw, hlive (f := guardOpens) rfl, fun hman => ?_, fun hman => ?_,
    fun hen hup => ?_, fun hen hasked => ?_⟩
  · rw [globalBoundary_eq]
    simp only [Bool.and_eq_true, decide_eq_true_eq]
    rfl
  · refine (decideExecute_ends hx ho).trans (congrArg (endResumes · _ _) ?_)
    cases observedFor s p 0x13 x.seq <;> rfl
  · obtain ⟨⟨y, hy, hframes, hpipes⟩, htiles⟩ := decideExecute_kept hx ho hnodup
    refine ⟨by rw [hy, Option.map_some, hframes], fun k hk => ⟨⟨y, _, hy, hpipes k hk, nextPipe_counts⟩,
      fun hd => ⟨fun i hi => ?_, fun e he hpooled i hi heos => ?_⟩, fun hd i hi => held_tile ((htiles k hk i hi).2 hd)⟩⟩
    · obtain ⟨hlow, hdirB, hfill, -⟩ := (htiles k hk i hi).1 hd
      exact ⟨hlow, hdirB, hfill⟩
    · exact ((htiles k hk i (List.mem_flatMap.mpr ⟨e, he, hi⟩)).1 hd).begun e he hpooled hi heos
  · rw [hman, if_pos rfl] at hperiod hhold hread hhost
    obtain ⟨hin, hout, hrefused, hboth⟩ := periodWrite_spec s v
    obtain ⟨hlimit, hzero⟩ := holdLimitWrite_spec s v
    refine ⟨fun h1 h2 h3 => hperiod.trans (congrArg _ (hin h1 h2 h3)), fun h1 h2 => hperiod.trans (congrArg _ (hout h1 h2)),
      fun h1 h2 h3 => hperiod.trans (congrArg _ (hrefused h1 h2 h3)), fun h1 h2 => hperiod.trans (congrArg _ (hboth h1 h2)),
      fun h1 => hhold.trans (congrArg _ (hlimit h1)), fun h1 => hhold.trans (congrArg _ (hzero h1)), fun fz => ⟨?_, ?_⟩⟩
    · rintro rfl
      exact hread.trans (congrArg (fun F => Host.Outcome.next { s with lastRead := s.frm.ptmFrame, frm := F }) (Frm.freeze_eq _))
    · rintro rfl
      exact hhost
  · rw [hman, if_neg Bool.false_ne_true] at hperiod hhold hread hhost
    intro i hi
    simp only [List.mem_cons, List.not_mem_nil, or_false] at hi
    rcases hi with rfl | rfl | rfl | rfl
    · exact hperiod
    · exact hhold
    · exact hread
    · exact hhost
  · exact (hlive (f := fun s => if s.frm.ptmEn && linkUp s (b2n s.frm.ptmPort) then s.updFrm fun F => { F with ptmAsked := true } else s) rfl).trans
      (congrArg _ (if_pos (by rw [hen, hup]; rfl)))
  · have hrow : exec (.ptmDialogueComplete v) s = .next (ptmCapture s v) :=
      (hlive (f := fun s => if s.frm.ptmEn && s.frm.ptmAsked then ptmCapture s v else s) rfl).trans
        (congrArg _ (if_pos (by rw [hen, hasked]; rfl)))
    obtain ⟨hthawed, hfrozen⟩ := ptmCapture_spec s v
    exact ⟨fun h => hrow.trans (congrArg _ (hthawed h)), fun h => hrow.trans (congrArg _ (hfrozen h))⟩

end Sys2Proof.Machine
